-- ==== Sys2Proof/Word.lean ====
section
/-! DEFINITION. The words of the block: bytes, 32-bit register words and 64-bit thread words, and the
little-endian views of byte lists that every structure of the spec uses. -/
namespace Sys2Proof

/-- A byte of storage. -/
abbrev Byte := BitVec 8
/-- A register word (spec/00: registers are 32 bits wide). -/
abbrev Word := BitVec 32
/-- A scalar register of a task core, a global address, a counter (R128, R164, R195). -/
abbrev Dword := BitVec 64

end Sys2Proof
end

