-- ==== Sys2Proof/Syntax.lean ====
section
/-! DEFINITION. The commands of the block: one constructor of Instr for each row of the table of
operations and events, with the operands the outside world gives it, and the messages those operands
carry. -/
namespace Sys2Proof

/-- Who gives a register command: the Steward, the debug path, or an agent with its 19-bit source
identifier (R7, R171, R395). -/
inductive Master where
  | steward
  | debug
  | agent (src : BitVec 19)
deriving DecidableEq, Repr

/-- The ST field of a chip-memory response (R366). -/
inductive CmpStatus where
  | ok | decodeErr | dataErr
deriving DecidableEq, Repr

/-- A request message of an agent on a chip-memory channel (R366): the window offset with bits [6:0]
zero, the source, the byte mask, the 128 data bytes, and the op and width of an ATOMIC. -/
structure CmpReq where
  addr : Nat
  src : BitVec 19
  be : BitVec 128
  data : List Byte := []
  atop : Nat := 0
  awid : Nat := 0
deriving DecidableEq, Repr

/-- What the body of a collective packet says.  R270 and R277 name these contents; the spec gives their
bytes no layout, so the packet carries them as fields (assumption 15). -/
inductive CollBody where
  /-- no collective content -/
  | none
  /-- a participant's signature, going up (R258) -/
  | signature (sig : Dword)
  /-- a unit root's report of the lowest mismatching member, going up (R258) -/
  | mismatch (member : Nat)
  /-- the top root's clear verdict, going down (R258) -/
  | verdictClear
  /-- a mismatch verdict (R258, R259) -/
  | verdictMismatch (member : Nat)
  /-- an abort verdict (R261): the member that failed -/
  | verdictAbort (member : Nat)
  /-- credits for chunk slots, going down (R253) -/
  | credit (n : Nat)
  /-- a chunk: its first element within the whole reduction and the sender's signature (R253, R259) -/
  | chunk (first : Nat) (sig : Dword)
deriving DecidableEq, Repr, Inhabited

/-- A packet of the fabric (R269): its header fields, the 32 bytes of PKT.BODY, its payload, the atomic
operands, and the fields of COLL_DATA and COLL_CTL, whose places in PKT.BODY the spec does not give
(assumption 15). -/
structure Packet where
  type : Nat
  vc : Nat
  epoch : Bool := false
  mark : Bool := false
  echo : Bool := false
  ordered : Bool := false
  dest : Nat
  src : Nat
  path : Nat := 0
  age : Nat := 0
  tag : Nat := 0
  addr : Nat := 0
  counter : Nat := 0
  counted : Bool := false
  status : Nat := 0
  body : List Byte := []
  /-- the payload of R268, wherever it travels -/
  payload : List Byte := []
  /-- of an ATOMIC: its op and width (R162), operand and compare value -/
  atop : Nat := 0
  awid : Nat := 0
  operand : Dword := 0
  compare : Dword := 0
  collGroup : Nat := 0
  collSeq : Dword := 0
  collLevel : Nat := 0
  coll : CollBody := .none
deriving DecidableEq, Repr

/-- A flit as it arrives on a port (R289, R373): channel, sequence number, CRC and its bytes. -/
structure FlitIn where
  vc : Nat
  seq : BitVec 12
  crc : BitVec 32
  bytes : List Byte
deriving DecidableEq, Repr

/-- A field of a transfer, and whether the transfer carries nothing before it in order: its message or flit part, then
its link control, then its credit (R361, R366, R373). -/
structure OnWire where
  value : Nat
  alone : Bool
deriving DecidableEq, Repr

/-- What ATTN_IN does: it falls, it rises, or it has been asserted for 5 approximate ms (R356, R359). -/
inductive AttnIn where
  | low | high | lasted
deriving DecidableEq, Repr

/-- A scan of a data register: the instruction code selected before it, and the bits on TDI, first one first (R385). -/
structure TapScan where
  code : BitVec 8
  tdi : List Bool
deriving DecidableEq, Repr

/-- What SFDP discovery of the serial NOR device reports (R332). -/
structure Sfdp where
  bfptMinor : Nat
  sizeMiB : Nat
  eraseKiB : List Nat
  has144 : Bool
  has114 : Bool
deriving DecidableEq, Repr

/-- The telemetry of one control period (R297, R304): power in units of 0.25 W, the measured cell rate in Mbeat/s,
the 24 sensor words (R406), and each island's measured supply in mV and current in units of 10 mA (R405). -/
structure Telemetry where
  power : Nat
  rate : Nat
  sensors : List Word := []
  islands : List (Nat × Nat) := []
deriving DecidableEq, Repr

/-- What reports a supply fault (R319, R380): an island's supply that stays more than 50 mV off, the word that a
Status read of the regulator returns and whether it reports an alert or a fault, or a frame that has had no valid
response. -/
inductive SupplyCause where
  | island (n : Nat)
  | status (w : BitVec 16) (fault : Bool)
  | silence
deriving DecidableEq, Repr

/-- The two islands of a handshake (R310): the one that asks, and the one that has not answered. -/
structure Handshake where
  asker : Nat
  answerer : Nat
deriving DecidableEq, Repr

/-- The commands: one constructor for each row of the table, in its order. -/
inductive Instr where
  /-- R328. Assertion of the power-on reset input resets the oscillator count, the ledgers, the log, the counters and every register, and holds the cluster in reset. -/
  | poresetN
  /-- R328. Assertion of the warm reset input resets registers but keeps the oscillator, the wear ledger, scratchpad, the log and EEU_FATAL. -/
  | warmresetN
  /-- R329. Release of the last asserted reset input samples RECOVERY and starts the boot sequence at stage FUSES. -/
  | resetRelease (recovery : Bool)
  /-- R330. Fuse sensing completes; the redundant copies are checked and boot moves to SELFTEST, or to FAILED on a disagreement. -/
  | fusesStage (agree : Bool)
  /-- R331. Self-test completes; failing groups set SELFTEST_FAIL and the cluster goes to FLASH or to stage 8 FAILED. -/
  | selftestStage (failing : BitVec 8)
  /-- R332. SFDP discovery of the serial NOR device completes and selects the read mode, or boot goes to RECOVERY with NO_FLASH. -/
  | flashStage (device : Option Sfdp)
  /-- R337. The current settings record is selected and applied, ring 0 is made ACTIVE, and boot goes to IMAGE or to RECOVERY on the strap. -/
  | settingsStage
  /-- R344. Bank selection, image checks and part loading complete; the chosen firmware starts, or boot goes to RECOVERY with NO_IMAGE. -/
  | imageStage
  /-- R375. A rise of FEP_p_LINK_UP restarts the port's link sequence and credits and resumes its queue. -/
  | linkUp (port : Nat)
  /-- R286. A fall of FEP_p_LINK_UP stops the port, discards unacknowledged flits, forgets credits and logs PORT_FAILED. -/
  | linkDown (port : Nat)
  /-- R372. Assertion of CMP_FATAL_N raises the class 4 error CHIP_MEMORY_FATAL and the cluster continues. -/
  | chipMemoryFatal
  /-- R382. Assertion of the thermal alert input sets the 650 mV ceiling and forbids or ends Gale. -/
  | thermAlertN (asserted : Bool)
  /-- R307. A junction reaching the fused trip temperature of 115 degrees C stops every island except island 97, cluster-fatally. -/
  | thermalTrip
  /-- R356. An ATTN_IN assertion that has lasted 5 approximate ms sets CSU_ATTN.REQ; in stage 7 the ROM toggles ring 0. -/
  | attnReq (level : AttnIn)
  /-- R319. A regulator fault, missing AVSBus responses or an island supply off by 50 mV for 10 us raises SUPPLY_FAULT and stops the cluster. -/
  | supplyFault (cause : SupplyCause)
  /-- R379. The regulator reports the raised VIN, and the waiting island supply raise proceeds. -/
  | vinReady (mv : Nat)
  /-- R385. Assertion of TRST_N resets the TAP to Test-Logic-Reset with IDCODE selected. -/
  | trstN
  /-- R385. The IDCODE instruction selects the 32-bit identification register. -/
  | idcode
  /-- R387. The IJTAG_SEL instruction selects the IEEE 1687 segment-insertion chain, open only when the debug path is admitted. -/
  | ijtagSel (segs : BitVec 8)
  /-- R386. Update-DR of REG_ACCESS performs one 4-byte privileged read or write in the register window or near scratchpad. -/
  | regAccess (offset : BitVec 40) (wr : Bool) (data : Word)
  /-- R385. The BYPASS instruction, or any unlisted code, selects the 1-bit bypass register. -/
  | bypass (scan : TapScan)
  /-- R370. An agent READ request arriving on a chip memory channel is checked and served, and answered OK, DECODE_ERR or DATA_ERR. -/
  | cmpRead (ch tag : Nat) (m : CmpReq)
  /-- R370. An agent WRITE request arriving on a chip memory channel is checked, performed in the window and answered. -/
  | cmpWrite (ch tag : Nat) (m : CmpReq)
  /-- R370. An agent ATOMIC request arriving on a chip memory channel is checked, performed indivisibly and answered with the old value. -/
  | cmpAtomic (ch tag : Nat) (m : CmpReq)
  /-- R178. A READ_DATA response from the chip completes a chip-memory read, mapping DECODE_ERR and DATA_ERR to refusal or parity. -/
  | cmpReadData (ch tag : Nat) (st : CmpStatus) (data : List Byte)
  /-- R178. An ACK response from the chip acknowledges a chip-memory write or write-through, or reports its error. -/
  | cmpAck (ch tag : Nat) (st : CmpStatus)
  /-- R207. An ATOMIC_DATA response from the chip returns the old value of a chip-memory atomic. -/
  | cmpAtomicData (ch tag : Nat) (st : CmpStatus) (data : List Byte)
  /-- R368. A CR_REQ or CR_RSP bit on a channel transfer returns one request or response credit. -/
  | cmpCredit (ch : OnWire) (req rsp : Bool)
  /-- R289. A flit arriving on a port is passed on if its CRC and sequence number are good, otherwise a NAK is sent and later flits dropped. -/
  | flit (port : Nat) (f : FlitIn)
  /-- R289. A cumulative link acknowledgement frees replay buffers and acknowledges multicast writes whose last flit it covers. -/
  | linkAck (port : Nat) (lseq : OnWire)
  /-- R289. A NAK makes the sender resend from the named flit, counting replays and declaring the port failed after eight resends. -/
  | nak (port : Nat) (lseq : OnWire)
  /-- R374. A credit field returns one flit credit for the named channel of the port. -/
  | flitCredit (port : Nat) (vc : OnWire)
  /-- R373. 1 approximate us after an unacknowledged flit, the receiver sends an acknowledgement. -/
  | linkAckTimer (port : Nat)
  /-- R289. No acknowledgement advancing for 100 us while flits wait declares the port failed. -/
  | portFailed (port : Nat)
  /-- R278. An arriving WRITE packet, plain, counted or doorbell, is checked against PKT.SRC and performed, and an ACK or REFUSED is returned. -/
  | writePkt (port : Nat) (k : Packet)
  /-- R278. An arriving READ packet is checked and served with READ_DATA or REFUSED. -/
  | readPkt (port : Nat) (k : Packet)
  /-- R278. An arriving ATOMIC packet is checked and performed, with ATOMIC_DATA or REFUSED returned. -/
  | atomicPkt (port : Nat) (k : Packet)
  /-- R237. An arriving COUNT packet is checked as a write to the counter and applies a count-only advance, answered with ACK. -/
  | count (port : Nat) (k : Packet)
  /-- R271. An arriving COLL_WRITE is sorted by sequence, its signature checked, and performed as a counted collective write. -/
  | collWrite (port : Nat) (k : Packet)
  /-- R273. An arriving ACK acknowledges a write, counted write or count-only advance and frees its tag, with any echo acted on. -/
  | ack (port : Nat) (k : Packet)
  /-- R273. Arriving READ_DATA completes a remote read, and a mark on it acts as an echo. -/
  | readData (port : Nat) (k : Packet)
  /-- R273. Arriving ATOMIC_DATA returns a remote atomic's old value. -/
  | atomicData (port : Nat) (k : Packet)
  /-- R176. An arriving REFUSED response delivers the refusal to its requester, ending a descriptor or raising a fault. -/
  | refused (port : Nat) (k : Packet)
  /-- R283. An arriving RETRY schedules the packet to be resent after an aged gap. -/
  | retry (port : Nat) (k : Packet)
  /-- R283. When the retry gap expires, the packet is resent with PKT.AGE one higher, routed by the active bank. -/
  | retrySend (tag : Nat)
  /-- R283. An unclaimed retry reservation lapses after 4 x GAP x 2^MAX_SHIFT ns. -/
  | reservationLapse (resource : Nat)
  /-- R279. An arriving CONG_ECHO acts as an echo on the rate-control group of the marked destination. -/
  | congEcho (port : Nat) (k : Packet)
  /-- R253. An arriving collective chunk is staged and combined at a root, forwarded down, or written to the destination. -/
  | collData (port : Nat) (k : Packet)
  /-- R258. An arriving collective control packet carries a signature, verdict, abort or credit and is processed or held under R260. -/
  | collCtl (port : Nat) (k : Packet)
  /-- R270. An arriving MGMT packet is queued for the Steward, or answered with RETRY when the queue is full. -/
  | mgmt (port : Nat) (k : Packet)
  /-- R287. A request without response after FEP_RSP_TIMEOUT completes with UNREACHABLE and adds to FEP_UNREACH. -/
  | rspTimeout (tag : Nat)
  /-- R280. A PERIOD passing with no echo raises the group's rate by AI up to RMAX. -/
  | rateRaise (g : Nat)
  /-- R170. A scratchpad bank performs one waiting read, write or atomic, oldest first, checking parity. -/
  | bankAccess (bank : Nat)
  /-- R212. The fold of a closed ordered region writes the target in ascending source order, advances DONE_COUNTER and clears ARM and CLOSED. -/
  | fold (n : Nat)
  /-- R186. The home read of a backed block returns and the block is rewritten with fresh parity, or left unchanged on failure. -/
  | refetch (block : Nat)
  /-- R220. A doorbell write is checked and raises the ring's tail, is absorbed, or is refused and counted. -/
  | doorbell (m : Master) (value : Dword)
  /-- R223. A ready ring that has waited DRE_AGE_LIMIT becomes aged and is preferred by the scheduler. -/
  | ageLimit (ring : Nat)
  /-- R223. DRE picks the next ready ring by class and round robin and fetches one descriptor, assigning its sequence number. -/
  | descriptorFetch
  /-- R240. The fetched descriptor and its chain blocks, peer tables and group entries are validated in order, or rejected. -/
  | descriptorValidate (d : Nat)
  /-- R228. A NOP descriptor starts and does nothing but retire with success. -/
  | nopDesc (d : Nat)
  /-- R231. A WAIT descriptor takes a wait-table entry and tests its counter condition, becoming pending or completing. -/
  | waitDesc (d : Nat)
  /-- R231. A pending wait's DESC.limit expires and it completes with WAIT_TIMEOUT. -/
  | waitTimeout (d : Nat)
  /-- R59. A MATMUL descriptor starts with its partition list formed and deals its output tiles to the partitions. -/
  | matmul (d : Nat)
  /-- R65. A DIAG descriptor starts and deals its elements in blocks of 256 to the partition list. -/
  | diag (d : Nat)
  /-- R96. A vector-chain descriptor starts on the lowest available named unit and begins its fills. -/
  | vchain (d : Nat)
  /-- R232. A MOVE descriptor starts and MOV issues its rows in ascending order as pieces. -/
  | moveDesc (d : Nat)
  /-- R248. A COLL descriptor starts its collective on the loaded group, exchanging signatures or data. -/
  | coll (d : Nat)
  /-- R126. A LAUNCH takes an idle group, copies the program image and starts its four threads. -/
  | launch (d : Nat)
  /-- R347. The image descriptor erases a bank and marks it EMPTY. -/
  | imgErase (d : Nat)
  /-- R347. The image descriptor programs LEN bytes into a bank, reads them back and marks it WRITTEN. -/
  | imgWrite (d : Nat)
  /-- R347. The image descriptor checks a bank under R341 and copies its body to the staging area. -/
  | imgVerify (d : Nat)
  /-- R347. The image descriptor schedules the staged bank for an activation front, cancels it, or starts the switch at once with NOW in stage 7. -/
  | imgSchedule (d : Nat)
  /-- R347. The descriptor checks a settings record and stores it in the other slot with the next sequence number. -/
  | settingsWrite (d : Nat)
  /-- R353. The descriptor writes the signed 320-byte identity block. -/
  | identify (d : Nat)
  /-- R46. A weight plane finishes loading over the partition's load-bus share and becomes available to the wavefront. -/
  | planeLoad (d part : Nat)
  /-- R59. A partition drains a finished output tile through the drain and epilogue stages, storing and sending it. -/
  | tileDrain (d tile : Nat)
  /-- R84. A SPLIT vector pass for a row group starts on a named unit once one is free. -/
  | splitPass (d rowGroup : Nat)
  /-- R84. A SPLIT pass retires, and the matrix descriptor completes after its last pass. -/
  | splitPassRetire (d rowGroup : Nat)
  /-- R104. A vector descriptor's fills complete and its first sweep may start. -/
  | fill (d : Nat)
  /-- R112. A sweep of a vector chain finishes at a REDUCE, COLSUM or the chain's end, writing its buffers and statistics. -/
  | sweep (d : Nat)
  /-- R104. A vector descriptor's write-backs complete and their data is visible. -/
  | writeBack (d : Nat)
  /-- R187. After a parity error, quench and refetch, the descriptor runs again from its first read with counts afresh. -/
  | replay (d : Nat)
  /-- R14. A finished descriptor retires in ring order: record, counter addition, chained doorbell and head advance. -/
  | descriptorRetire (d : Nat)
  /-- R217. The ENABLE command reads and checks a ring's context and completion entry and makes the ring ACTIVE or refuses it. -/
  | ringEnable (m : Master) (ring : Nat)
  /-- R217. The DISABLE command stops fetching, aborts unstarted descriptors and pending waits, and disables the ring once all retire. -/
  | ringDisable (m : Master) (ring : Nat)
  /-- R217. The RESUME command makes a HALTED ring ACTIVE. -/
  | ringResume (m : Master) (ring : Nat)
  /-- R217. The FLUSH command writes the ring's context back as a snapshot. -/
  | ringFlush (m : Master) (ring : Nat)
  /-- R246. The CLE LOAD command checks a group entry, records its counter base and marks it idle. -/
  | loadGroup (m : Master) (g : Nat)
  /-- R246. The CLE UNLOAD command ends a group's participation unless a collective is active. -/
  | unloadGroup (m : Master) (g : Nat)
  /-- R261. CLE_TIMEOUT elapsing without an arrival ends the collective with COLL_TIMEOUT and sends an abort verdict. -/
  | collTimeout (d : Nat)
  /-- R155. The SUSPEND command stops a running group's threads and begins draining it. -/
  | suspendGroup (m : Master) (g : Nat)
  /-- R155. A suspending group finishes its drains, writes the save area, releases its quad and becomes SUSPENDED. -/
  | suspendDone (g : Nat)
  /-- R155. The RESUME command reloads a group from a save area and continues its threads. -/
  | resumeGroup (m : Master) (g : Nat)
  /-- R155. The ABORT command ends a group's launch with status ABORTED. -/
  | abortLaunch (m : Master) (g : Nat)
  /-- R127. All four threads have exited; the group drains its tile queue and writes, releases its quad and the launch completes. -/
  | launchComplete (g : Nat)
  /-- R137. After an unhandled fault or abort, the group finishes its drains and the launch completes as a contained error. -/
  | launchEnd (g : Nat)
  /-- R142. The group's tile queue executes its next tile instruction in issue order. -/
  | tileQueue (g : Nat)
  /-- R131. The nop instruction does nothing. -/
  | nopInstr (t : Nat)
  /-- R131. The exit instruction ends the thread with an exit value, reporting deferred refusals. -/
  | exitThread (t : Nat)
  /-- R136. The fret instruction leaves handler mode and re-executes the instruction at FPC. -/
  | fret (t : Nat)
  /-- R131. The brk instruction stops the thread for debug when debug is enabled. -/
  | brk (t : Nat)
  /-- R131. The add instruction writes a + b. -/
  | addOp (t : Nat)
  /-- R131. The sub instruction writes a - b. -/
  | subOp (t : Nat)
  /-- R131. The and instruction writes a and b. -/
  | andOp (t : Nat)
  /-- R131. The or instruction writes a or b. -/
  | orOp (t : Nat)
  /-- R131. The xor instruction writes a xor b. -/
  | xorOp (t : Nat)
  /-- R131. The shl instruction shifts left. -/
  | shl (t : Nat)
  /-- R131. The shr instruction shifts logically right. -/
  | shr (t : Nat)
  /-- R131. The sra instruction shifts arithmetically right. -/
  | sra (t : Nat)
  /-- R131. The mul instruction writes the low 64 bits of the product. -/
  | mulOp (t : Nat)
  /-- R131. The mulh instruction writes the signed high 64 bits of the product. -/
  | mulh (t : Nat)
  /-- R131. The mulhu instruction writes the unsigned high 64 bits of the product. -/
  | mulhu (t : Nat)
  /-- R131. The min instruction writes the signed minimum. -/
  | minOp (t : Nat)
  /-- R131. The max instruction writes the signed maximum. -/
  | maxOp (t : Nat)
  /-- R131. The minu instruction writes the unsigned minimum. -/
  | minu (t : Nat)
  /-- R131. The maxu instruction writes the unsigned maximum. -/
  | maxu (t : Nat)
  /-- R131. The jalr instruction links PC + 4 and jumps to a register. -/
  | jalr (t : Nat)
  /-- R131. The addi instruction adds a sign-extended immediate. -/
  | addi (t : Nat)
  /-- R131. The andi instruction ands a sign-extended immediate. -/
  | andi (t : Nat)
  /-- R131. The ori instruction ors a sign-extended immediate. -/
  | ori (t : Nat)
  /-- R131. The xori instruction xors a sign-extended immediate. -/
  | xori (t : Nat)
  /-- R131. The shli instruction shifts left by an immediate. -/
  | shli (t : Nat)
  /-- R131. The shri instruction shifts logically right by an immediate. -/
  | shri (t : Nat)
  /-- R131. The srai instruction shifts arithmetically right by an immediate. -/
  | srai (t : Nat)
  /-- R131. The li instruction loads a sign-extended 17-bit immediate. -/
  | li (t : Nat)
  /-- R131. The uins instruction shifts d left by 17 and inserts an immediate. -/
  | uins (t : Nat)
  /-- R131. The peq instruction sets a predicate on equality. -/
  | peq (t : Nat)
  /-- R131. The pne instruction sets a predicate on inequality. -/
  | pne (t : Nat)
  /-- R131. The plt instruction sets a predicate on signed less-than. -/
  | plt (t : Nat)
  /-- R131. The pltu instruction sets a predicate on unsigned less-than. -/
  | pltu (t : Nat)
  /-- R131. The pge instruction sets a predicate on signed greater-or-equal. -/
  | pge (t : Nat)
  /-- R131. The pgeu instruction sets a predicate on unsigned greater-or-equal. -/
  | pgeu (t : Nat)
  /-- R131. The pand instruction ands two predicates. -/
  | pand (t : Nat)
  /-- R131. The por instruction ors two predicates. -/
  | por (t : Nat)
  /-- R131. The pxor instruction xors two predicates. -/
  | pxor (t : Nat)
  /-- R131. The br instruction branches by a signed offset. -/
  | br (t : Nat)
  /-- R131. The jal instruction links PC + 4 and jumps by an offset. -/
  | jal (t : Nat)
  /-- R132. The ld.b instruction loads a zero-extended byte. -/
  | ldB (t : Nat)
  /-- R132. The ld.h instruction loads a zero-extended halfword. -/
  | ldH (t : Nat)
  /-- R132. The ld.w instruction loads a zero-extended word. -/
  | ldW (t : Nat)
  /-- R132. The ld.d instruction loads a doubleword. -/
  | ldD (t : Nat)
  /-- R132. The lds.b instruction loads a sign-extended byte. -/
  | ldsB (t : Nat)
  /-- R132. The lds.h instruction loads a sign-extended halfword. -/
  | ldsH (t : Nat)
  /-- R132. The lds.w instruction loads a sign-extended word. -/
  | ldsW (t : Nat)
  /-- R132. A load's data returns, the load retires and an L1 line may be allocated. -/
  | loadData (t : Nat)
  /-- R132. The st.b instruction stores a byte and retires at issue. -/
  | stB (t : Nat)
  /-- R132. The st.h instruction stores a halfword. -/
  | stH (t : Nat)
  /-- R132. The st.w instruction stores a word. -/
  | stW (t : Nat)
  /-- R132. The st.d instruction stores a doubleword. -/
  | stD (t : Nat)
  /-- R129. The sysr instruction reads a system register. -/
  | sysr (t : Nat)
  /-- R129. The sysw instruction writes a system register, or raises ILLEGAL. -/
  | sysw (t : Nat)
  /-- R143. The tzero instruction zeroes a tile and its use mark. -/
  | tzero (t : Nat)
  /-- R145. The tload instruction moves rows from memory into a tile, resuming under TSTART when it matches. -/
  | tload (t : Nat)
  /-- R145. The tstore instruction moves tile rows to memory, plain or counted. -/
  | tstore (t : Nat)
  /-- R143. The tget instruction reads 8 bytes of a row beside the thread. -/
  | tget (t : Nat)
  /-- R143. The tput instruction writes 8 bytes of a row and raises the use mark. -/
  | tput (t : Nat)
  /-- R143. The twait instruction waits until earlier tile instructions complete. -/
  | twait (t : Nat)
  /-- R141. The tcfg instruction replaces one TCFG entry and zeroes that tile. -/
  | tcfg (t : Nat)
  /-- R141. The tcfgm instruction replaces all eight TCFG entries from memory and zeroes every tile. -/
  | tcfgm (t : Nat)
  /-- R150. The tmma instruction computes a product of two tiles on the bound quad into destination tiles. -/
  | tmma (t : Nat)
  /-- R149. The tbind instruction binds the lowest candidate quad, waits, or returns all ones with NB. -/
  | tbind (t : Nat)
  /-- R149. The tfree instruction releases the bound quad after earlier tile instructions complete. -/
  | tfree (t : Nat)
  /-- R158. The eissue instruction hands a descriptor image to DRE and returns a ticket. -/
  | eissue (t : Nat)
  /-- R158. The ewait instruction waits for a ticket's completion and returns its status. -/
  | ewait (t : Nat)
  /-- R158. The etest instruction returns a ticket's status, or -2 while pending. -/
  | etest (t : Nat)
  /-- R158. The mcopy instruction issues a plain MOV copy with a ticket. -/
  | mcopy (t : Nat)
  /-- R159. The cwait instruction waits for an arrival counter to reach a target or its limit. -/
  | cwait (t : Nat)
  /-- R159. A cwait's oscillator limit expires and it exits with the counter value read. -/
  | cwaitLimit (t : Nat)
  /-- R202. The fence.r instruction waits until the thread's earlier writes are acknowledged and reports deferred refusals. -/
  | fenceR (t : Nat)
  /-- R203. The acq instruction invalidates the L1 lines overlapping a range. -/
  | acq (t : Nat)
  /-- R203. The acq.all instruction invalidates the whole L1. -/
  | acqAll (t : Nat)
  /-- R161. The gbar instruction waits until all four group threads reach gbar or end, then releases them. -/
  | gbar (t : Nat)
  /-- R196. The st.c instruction makes a counted 8-byte write. -/
  | stC (t : Nat)
  /-- R206. The atomic add instruction adds to a word and returns the old value. -/
  | amoAdd (t : Nat)
  /-- R206. The atomic min instruction takes the signed minimum. -/
  | amoMin (t : Nat)
  /-- R206. The atomic max instruction takes the signed maximum. -/
  | amoMax (t : Nat)
  /-- R206. The atomic minu instruction takes the unsigned minimum. -/
  | amoMinu (t : Nat)
  /-- R206. The atomic maxu instruction takes the unsigned maximum. -/
  | amoMaxu (t : Nat)
  /-- R206. The atomic swp instruction swaps in a value. -/
  | amoSwp (t : Nat)
  /-- R206. The atomic cas instruction compares and swaps. -/
  | amoCas (t : Nat)
  /-- R208. The famo.add.f32 instruction adds FP32, plain or as an ordered add. -/
  | famoAddF32 (t : Nat)
  /-- R208. The famo.add.bf16 instruction adds BF16, plain or as an ordered add. -/
  | famoAddBf16 (t : Nat)
  /-- R163. The cbar instruction runs a SAFE barrier on a collective group. -/
  | cbar (t : Nat)
  /-- R163. The cred instruction runs a SAFE one-element reduction on a collective group. -/
  | cred (t : Nat)
  /-- R321. A write to a register without a row of its own is checked, applied and may advance a configuration generation. -/
  | registerWrite (m : Master) (offset : Nat) (v : Word)
  /-- R6. A read of an RC register returns its state and clears it. -/
  | readClear (m : Master) (offset : Nat)
  /-- R199. A read of FEP_CNTc_LO or PTM_OSC_LO captures the 64-bit value into the pair's shadow. -/
  | capture (m : Master) (offset : Nat)
  /-- R199. A write of GO to FEP_CNT_CLR sets the named counter to zero, and pending waits test it. -/
  | counterClear (m : Master) (c : Nat)
  /-- R284. A write of FRONT switches the active route bank and epoch, or is refused. -/
  | routeFront (m : Master)
  /-- R302. A write to PTM_MODE.REQ sets the mode, with GALE checked and possibly refused. -/
  | ptmMode (m : Master) (v : Word)
  /-- R297. A write of PTM_POWER_CAP starts a new slew of the effective cap at RAMP. -/
  | ptmPowerCap (m : Master) (v : Word)
  /-- R306. A write of PTM_VLIMIT sets the supply limits and forces a VLIMIT fallback if VMAX falls below 950 mV in Gale. -/
  | ptmVlimit (m : Master) (v : Word)
  /-- R180. A write to NSDS_PAR_INJ_LO arms, replaces or disarms a parity injection. -/
  | parityArm (m : Master) (v : Word)
  /-- R182. A write to VALID of a backed region registers it, refuses with SETUP_ERR, or ends its holds. -/
  | backValid (m : Master) (n : Nat) (v : Word)
  /-- R210. A write of 1 to ARM opens an ordered round, or is refused with SETUP_ERR. -/
  | orderedArm (m : Master) (n : Nat) (v : Word)
  /-- R213. A write of 0 to ARM while CLOSED is clear abandons the round and discards the slots. -/
  | abandon (m : Master) (n : Nat) (v : Word)
  /-- R349. A write of CSU_ACT_FRONT_HI delivers a front that starts the switch when it matches the schedule, or is ignored and counted. -/
  | activationFront (m : Master) (v : Word)
  /-- R350. Once drained, the switch rechecks the staged digest, stores the trial record, loads the parts and starts the new firmware. -/
  | activationSwitch
  /-- R350. The launch drain limit expires and running launches are ended with ABORTED. -/
  | drainLimit
  /-- R351. A write of CONFIRM marks the trial bank GOOD and ends the trial. -/
  | confirm (m : Master)
  /-- R351. A write of REVERT drains, marks the new bank FAILED and restarts the old bank. -/
  | revert (m : Master)
  /-- R351. No confirmation within SET.CONFIRM ms starts a revert. -/
  | confirmTimeout
  /-- R359. The fuse operation programs a key slot's hash from near scratchpad. -/
  | programSlot (m : Master) (slot : Nat)
  /-- R359. The fuse operation blows a key slot's revoke bit. -/
  | revokeSlot (m : Master) (slot : Nat)
  /-- R359. The fuse operation blows one SVN floor bit. -/
  | svnAdvance (m : Master)
  /-- R314. A write of EEU_ERR_DONE completes a log entry and advances RIDX. -/
  | errDone (m : Master) (index : Nat)
  /-- R325. A write of EEU_EVT_SW.SET sets event bit 7. -/
  | evtSw (m : Master)
  /-- R326. Writing 1 to EEU_FATAL0.VALID clears the four fatal registers. -/
  | fatalClear (m : Master)
  /-- R403. An access to IND_DATAk reaches the indirect register named and advances WORD. -/
  | indData (m : Master) (pair : Nat) (wr : Option Word)
  /-- R403. An access to IND_DATAk_NOINC reaches the indirect register named without advancing WORD. -/
  | indDataNoinc (m : Master) (pair : Nat) (wr : Option Word)
  /-- R297. Each 1 us governor period slews the effective cap, steps the supply, updates the ledgers and paces if needed. -/
  | controlPeriod (tel : Telemetry)
  /-- R294. An island idle for PTM_GATE.HOLD is gated and loses its volatile state. -/
  | islandGate (island : Nat)
  /-- R294. A scratchpad bank group idle for HOLD enters retention. -/
  | retention (island : Nat)
  /-- R294. A waking island finishes its wake and the waiting work proceeds. -/
  | islandWake (island : Nat)
  /-- R320. The periodic scrub checks configuration parity and raises CONFIG_PARITY on a mismatch. -/
  | scrub (upset : Option Nat)
  /-- R310. A handshake unanswered for EEU_STALL.LIMIT raises a cluster-fatal error. -/
  | handshakeStall (h : Handshake)
  /-- R325. At each 2^30-count window boundary the corrected-error count restarts at zero. -/
  | windowBoundary
  /-- R347. An erase, program or read-back on the serial NOR device ends, and the image or settings descriptor waiting on it completes or fails with reason FLASH. -/
  | flashDone (ok : Bool)
  /-- R359. A fuse PROGRAM_SLOT, REVOKE_SLOT or SVN_ADVANCE operation finishes, clearing CSU_FUSE_STATUS.BUSY and setting ERROR on a failed read-back. -/
  | fuseProgrammingEnd (ok : Bool)
  /-- R380. The first AVSBus Status read after PORESET_N receives no valid response, and the cluster treats VIN as fixed and adds the VIN-derived ceiling. -/
  | fixedVin (mv : Nat)
  /-- R280. A rate-control group's bucket, refilling at R, becomes non-negative and the REQ or FWD packet waiting on it leaves. -/
  | tokenBucketRefill (g : Nat)
  /-- R361. The neighbour's ACK transition arrives on a transmit bundle of a chip memory channel or fabric port, returning the bundle to idle so the next transfer may be driven. -/
  | bundleAck (bundle : Nat)
  /-- R130. A thread issues a word with an unlisted OP or FN or a non-zero unused bit, raising ILLEGAL before any effect. -/
  | illegal (t : Nat)
  /-- R130. A thread fetches at a PC not below the loaded image length and raises PC_RANGE. -/
  | pcRange (t : Nat)
deriving DecidableEq, Repr

end Sys2Proof
end

