-- ==== Sys2Proof/Decode.lean ====
section
/-! DEFINITION. The decoder of command words.  No row of the table of commands gives a command any bits, so
no word spells one.  (The instruction words of the task cores are data of the machine: their decoder is
Machine/Insn.lean.) -/
namespace Sys2Proof

/-- The command that a word spells: none, since the table gives no row an encoding. -/
def decodeTableWord (_nbits _w : Nat) : Option Instr := none

end Sys2Proof
end

