-- ==== Sys2Proof/Config.lean ====
section
/-! DEFINITION. The values the spec leaves open, each an opaque constant: nothing in Lean can evaluate
one, so what is proved holds for every value of it. -/
namespace Sys2Proof.Config

/-- The free value with number `k` as one byte of storage (R9: an undefined result may hold any bit
pattern).  Assumption 4. -/
opaque freeByte : Nat → BitVec 8

/-- The free value with number `k` as a 64-bit quantity, cut to the width of its destination.
Assumption 4. -/
opaque freeWord : Nat → BitVec 64

/-- Word `i` of the function tables the ROM loads when no firmware manifest gives them (R241, R407):
the spec does not list the built-in coefficients.  Assumption 17. -/
opaque romTable : Nat → BitVec 32

/-- The digest SHA-384 of a byte string (R341): the standard's function, not restated by the spec.
Assumption 10. -/
opaque sha384 : List (BitVec 8) → BitVec 384

/-- Whether a signature verifies under a public key over a digest (R341).  Assumption 10. -/
opaque ecdsaVerify : (key : List (BitVec 8)) → (digest : BitVec 384) → (signature : List (BitVec 8)) → Bool

/-- The signature that the unit's attestation key gives over a digest (R353).  Assumption 10. -/
opaque ecdsaSign : (digest : BitVec 384) → BitVec 768

/-- The sign of a NaN result that carries an operand's payload in strict arithmetic (R33 fixes the
payload and the quiet bit only), as a function of the operand's sign and payload.  Assumption 13. -/
opaque nanSign : Bool → BitVec 22 → Bool

/-- Whether a strict multiply-add of zero and infinity raises INVALID when its addend is a NaN: IEEE
754-2019 leaves it to the implementation and the spec does not choose.  Assumption 13. -/
opaque fmaNanInvalid : Bool

/-- The power the governor predicts in a control period, in units of 0.25 W (R297 gives no formula for
the activity estimate), as a function of a free-value number.  Assumption 12. -/
opaque predictedPower : Nat → Nat

/-- The rise of power that PTM predicts for a wake or a start, in units of 1/16 W (R298 gives no formula), as a
function of a free-value number.  Assumption 12. -/
opaque predictedRise : Nat → Nat

/-- PKT.BODY of an ATOMIC from its op, width, operand and compare value, and those fields of a body: R270 gives them
no places.  Assumption 15. -/
opaque atomicBody : (op width : Nat) → (operand compare : BitVec 64) → List (BitVec 8)
@[inherit_doc atomicBody] opaque atomicFields : List (BitVec 8) → Nat × Nat × BitVec 64 × BitVec 64

/-- PKT.BODY of COLL_DATA and COLL_CTL from its group, sequence number, level and content, and those fields of a
body: the spec gives them no places.  Assumption 15. -/
opaque collBody : (group : Nat) → (seq : BitVec 64) → (level : Nat) → CollBody → List (BitVec 8)
@[inherit_doc collBody] opaque collFields : List (BitVec 8) → Nat × BitVec 64 × Nat × CollBody

/-- Packets the Steward's MGMT queue holds (R270 gives no depth).  Assumption 19. -/
opaque mgmtDepth : Nat

end Sys2Proof.Config
end

