-- ==== Sys2Proof/Machine/Numbers.lean ====
section
/-! DEFINITION. Number formats: the format codes of R18, their parameters (R19), exact decoding (R20 to
R23, R27), the canonical NaNs (R22), and rounding of an exact value into a format (R28 to R34, R44). -/
namespace Sys2Proof.Machine

/-- The formats of R18. -/
inductive Fmt where
  | fp32 | fp16 | bf16 | int8 | int32
  | e4m3 | e5m2 | e3m2 | e2m3 | e2m1
  | mxE4m3 | mxE5m2 | mxE3m2 | mxE2m3 | mxfp4 | mxint8
  | kf4
deriving DecidableEq, Repr

/-- The format a code names, none for a code outside the table of R18. -/
def fmtOfCode : Nat → Option Fmt
  | 0x00 => some .fp32 | 0x01 => some .fp16 | 0x02 => some .bf16
  | 0x03 => some .int8 | 0x04 => some .int32
  | 0x08 => some .e4m3 | 0x09 => some .e5m2 | 0x0A => some .e3m2
  | 0x0B => some .e2m3 | 0x0C => some .e2m1
  | 0x10 => some .mxE4m3 | 0x11 => some .mxE5m2 | 0x12 => some .mxE3m2
  | 0x13 => some .mxE2m3 | 0x14 => some .mxfp4 | 0x15 => some .mxint8
  | 0x18 => some .kf4
  | _ => none

/-- Elements that share one block scale (R18); 0 for a format without blocks. -/
def fmtBlock : Fmt → Nat
  | .mxE4m3 | .mxE5m2 | .mxE3m2 | .mxE2m3 | .mxfp4 | .mxint8 => 32
  | .kf4 => 16
  | _ => 0

/-- A format without blocks. -/
def fmtPlain (f : Fmt) : Bool := fmtBlock f == 0

/-- The element format inside a block format; the format itself otherwise (R18). -/
def fmtElem : Fmt → Fmt
  | .mxE4m3 => .e4m3 | .mxE5m2 => .e5m2 | .mxE3m2 => .e3m2
  | .mxE2m3 => .e2m3 | .mxfp4 => .e2m1 | .kf4 => .e2m1
  | f => f

/-- Bits one element occupies (R18, R23). -/
def fmtBits (f : Fmt) : Nat :=
  match fmtElem f with
  | .fp32 | .int32 => 32
  | .fp16 | .bf16 => 16
  | .e3m2 | .e2m3 => 6
  | .e2m1 => 4
  | _ => 8

/-- FP4-class formats (R55). -/
def fmtFp4Class : Fmt → Bool
  | .e3m2 | .e2m3 | .e2m1 | .mxE3m2 | .mxE2m3 | .mxfp4 | .kf4 => true
  | _ => false

/-- The least multiple of `b` that is at least `n`, divided by `b`. -/
def ceilDiv (n b : Nat) : Nat := (n + b - 1) / b

/-- Bytes of `n` packed elements with the padding of R23 and R24: FP6 to the next group of four, a
short last block to the full block. -/
def fmtRowBytes (f : Fmt) (n : Nat) : Nat :=
  let n1 := if fmtBlock f = 0 then n else ceilDiv n (fmtBlock f) * fmtBlock f
  let n2 := if fmtBits f = 6 then ceilDiv n1 4 * 4 else n1
  ceilDiv (n2 * fmtBits f) 8

/-- Bytes of a row's scales: one for each block (R24). -/
def fmtScaleBytes (f : Fmt) (n : Nat) : Nat :=
  if fmtBlock f = 0 then 0 else ceilDiv n (fmtBlock f)

/-- A value as an engine holds it: a NaN with its FP32-aligned payload below the quiet bit, an
infinity, or a sign with an exact magnitude (R27). -/
inductive Val where
  | nan (neg : Bool) (payload : BitVec 22) (signalling : Bool)
  | inf (neg : Bool)
  | fin (neg : Bool) (mag : Rat)
deriving DecidableEq, Repr

/-- The quiet NaN every fast result is (R22, R32). -/
def canonicalNan : Val := .nan false 0 false
/-- Positive zero. -/
def posZero : Val := .fin false 0
/-- Positive one. -/
def posOne : Val := .fin false 1

/-- Whether the value is a NaN. -/
def valIsNan : Val → Bool
  | .nan .. => true
  | _ => false

/-- Whether the value is a NaN or an infinity (R39). -/
def valNonfinite : Val → Bool
  | .fin .. => false
  | _ => true

/-- Whether the value is a zero of either sign. -/
def valIsZero : Val → Bool
  | .fin _ m => m == 0
  | _ => false

/-- The sign of a value. -/
def valNeg : Val → Bool
  | .nan n _ _ => n
  | .inf n => n
  | .fin n _ => n

/-- A power of two with any integer exponent. -/
def pow2 (e : Int) : Rat :=
  if 0 ≤ e then ((2 ^ e.toNat : Nat) : Rat) else mkRat 1 (2 ^ (-e).toNat)

/-- `floor (log2 a)` of a positive exact magnitude (R35). -/
def exp2floor (a : Rat) : Int :=
  let e := (Nat.log2 a.num.toNat : Int) - (Nat.log2 a.den : Int)
  if pow2 e ≤ a then e else e - 1

/-- The signed rational of a finite value. -/
def signedRat (neg : Bool) (m : Rat) : Rat := if neg then -m else m

/-- A finite value from a signed rational; zero is positive. -/
def valOfRat (r : Rat) : Val := if r < 0 then .fin true (-r) else .fin false r

/-- A finite value from an integer. -/
def valOfInt (i : Int) : Val := valOfRat (i : Rat)

/-- Parameters of a floating-point element format (R19). -/
structure FltParams where
  expBits : Nat
  fracBits : Nat
  bias : Nat
  hasInf : Bool
  hasNan : Bool
  maxFinite : Rat
deriving DecidableEq, Repr

/-- The table of R19; `none` for the integer formats. -/
def fltParams (f : Fmt) : Option FltParams :=
  match fmtElem f with
  | .fp32 => some ⟨8, 23, 127, true, true, (2 - pow2 (-23)) * pow2 127⟩
  | .fp16 => some ⟨5, 10, 15, true, true, 65504⟩
  | .bf16 => some ⟨8, 7, 127, true, true, (2 - pow2 (-7)) * pow2 127⟩
  | .e4m3 => some ⟨4, 3, 7, false, true, 448⟩
  | .e5m2 => some ⟨5, 2, 15, true, true, 57344⟩
  | .e3m2 => some ⟨3, 2, 3, false, false, 28⟩
  | .e2m3 => some ⟨2, 3, 1, false, false, mkRat 15 2⟩
  | .e2m1 => some ⟨2, 1, 1, false, false, 6⟩
  | _ => none

/-- Emax of an element format, as scale selection uses it (R19, R20). -/
def fmtEmax (f : Fmt) : Int :=
  match fmtElem f with
  | .fp32 | .bf16 => 127
  | .fp16 | .e5m2 => 15
  | .e4m3 => 8
  | .e3m2 => 4
  | .e2m3 | .e2m1 => 2
  | _ => 0

/-- The exact value of a floating-point encoding (R19, R22). -/
def decodeFlt (f : Fmt) (p : FltParams) (bits : Nat) : Val :=
  let frac := bits % 2 ^ p.fracBits
  let e := bits / 2 ^ p.fracBits % 2 ^ p.expBits
  let neg := bits / 2 ^ (p.fracBits + p.expBits) % 2 == 1
  let finite : Val :=
    if e = 0 then .fin neg ((frac : Rat) * pow2 (1 - (p.bias : Int) - p.fracBits))
    else .fin neg (((2 ^ p.fracBits + frac : Nat) : Rat) * pow2 ((e : Int) - p.bias - p.fracBits))
  if e = 2 ^ p.expBits - 1 then
    if p.hasInf then
      if frac = 0 then .inf neg
      else
        -- R22: the narrow formats have no signalling NaNs
        let quiet := frac / 2 ^ (p.fracBits - 1) % 2 == 1
        .nan neg (BitVec.ofNat 22 (frac % 2 ^ (p.fracBits - 1) * 2 ^ (23 - p.fracBits)))
          (!quiet && f != .e5m2)
    else if p.hasNan && frac == 2 ^ p.fracBits - 1 then .nan neg 0 false
    else finite
  else finite

/-- Two's-complement reading of `w` bits. -/
def signedOf (w bits : Nat) : Int :=
  let b := bits % 2 ^ w
  if b < 2 ^ (w - 1) then b else (b : Int) - (2 ^ w : Nat)

/-- The exact value of one element encoding, without its block scale (R19, R20, R27). -/
def decodeElem (f : Fmt) (bits : Nat) : Val :=
  match fltParams f with
  | some p => decodeFlt (fmtElem f) p bits
  | none =>
    match f with
    | .int32 => valOfInt (signedOf 32 bits)
    | .mxint8 => valOfRat ((signedOf 8 bits : Rat) * pow2 (-6))
    | _ => valOfInt (signedOf 8 bits)

/-- The value of an E8M0 scale byte (R21). -/
def decodeE8m0 (b : Nat) : Val :=
  if b % 256 = 255 then canonicalNan else .fin false (pow2 ((b % 256 : Nat) - 127))

/-- The value of a KF4 block scale byte, unsigned E5M3 (R21). -/
def decodeUe5m3 (b : Nat) : Val :=
  let b := b % 256
  if b = 255 then canonicalNan
  else
    let e := b / 8
    let fr := b % 8
    if e = 0 then .fin false ((fr : Rat) * pow2 (-17))
    else .fin false (((8 + fr : Nat) : Rat) * pow2 ((e : Int) - 18))

/-- The value of a block scale byte in its format (R21). -/
def decodeScale (f : Fmt) (b : Nat) : Val :=
  if f = .kf4 then decodeUe5m3 b else decodeE8m0 b

/-- The magnitude whose encoding in a floating-point format is asked for is representable there; the
encoding without its sign. -/
def encodeMag (p : FltParams) (m : Rat) : Nat :=
  if m = 0 then 0
  else
    let e := max (exp2floor m) (1 - (p.bias : Int))
    let sig := (m / pow2 (e - p.fracBits)).floor.toNat
    if sig < 2 ^ p.fracBits then sig
    else (e + p.bias).toNat * 2 ^ p.fracBits + (sig - 2 ^ p.fracBits)

/-- The canonical NaN of R22, widened by a strict payload where the format holds one (R33). -/
def encodeNan (f : Fmt) (p : FltParams) (neg : Bool) (payload : BitVec 22) : Nat :=
  if p.hasInf then
    let sign := if neg then 2 ^ (p.expBits + p.fracBits) else 0
    sign + (2 ^ p.expBits - 1) * 2 ^ p.fracBits + 2 ^ (p.fracBits - 1)
      + payload.toNat / 2 ^ (23 - p.fracBits)
  else if f = .e4m3 then 0x7F
  else 0

/-- The encoding of a value that the format holds (after `roundTo`). -/
def encodeElem (f : Fmt) (v : Val) : Nat :=
  match fltParams f with
  | some p =>
    let sign (neg : Bool) : Nat := if neg then 2 ^ (p.expBits + p.fracBits) else 0
    match v with
    | .nan neg pl _ => encodeNan (fmtElem f) p neg pl
    | .inf neg => sign neg + (2 ^ p.expBits - 1) * 2 ^ p.fracBits
    | .fin neg m => sign neg + encodeMag p m
  | none =>
    match v with
    | .fin neg m =>
      let q := if f = .mxint8 then m * 64 else m
      let i := (signedRat neg q).floor
      (i % (2 ^ fmtBits f : Nat)).toNat
    | _ => 0

/-- Exception flags of R34, bit 0 INVALID to bit 4 INEXACT. -/
abbrev Flags := BitVec 8

/-- Flag bits (R34). -/
def flagInvalid : Flags := 1
@[inherit_doc flagInvalid] def flagDivZero : Flags := 2
@[inherit_doc flagInvalid] def flagOverflow : Flags := 4
@[inherit_doc flagInvalid] def flagUnderflow : Flags := 8
@[inherit_doc flagInvalid] def flagInexact : Flags := 16

/-- A result with what it reports: the flags of R34, whether it counts in SATURATED (R38), and whether
a NaN was converted to zero (R39). -/
structure Out where
  val : Val
  flags : Flags := 0
  sat : Bool := false
  nanLost : Bool := false
deriving DecidableEq, Repr

/-- How a result is rounded: strict or fast arithmetic (R32, R33), the SAT field (R31), and the stream
value of a stochastic rounding (R29, R30). -/
structure Rounding where
  strict : Bool := false
  sat : Bool := false
  stream : Option (BitVec 32) := none
deriving DecidableEq, Repr

/-- Flags count only in strict arithmetic (R32). -/
def flagIf (strict : Bool) (b : Bool) (f : Flags) : Flags := if strict && b then f else 0

/-- Rounds an exact multiple of the quantum to an integer: nearest even, or by the stream (R29). -/
def roundUnits (stream : Option (BitVec 32)) (u : Rat) : Nat :=
  let q := u.floor.toNat
  let f := u - (q : Rat)
  match stream with
  | none =>
    if f > mkRat 1 2 then q + 1
    else if f = mkRat 1 2 ∧ q % 2 = 1 then q + 1
    else q
  | some x => if x.toNat < (f * (2 ^ 32 : Nat)).floor.toNat then q + 1 else q

/-- The largest and smallest integers an integer destination takes (R20, R28, R44). -/
def intRange : Fmt → Int × Int
  | .int32 => (-(2 ^ 31), 2 ^ 31 - 1)
  | .mxint8 => (-127, 127)
  | _ => (-128, 127)

/-- Rounds a finite value into a floating-point format (R29, R31, R32, R33, R34). -/
def roundFlt (f : Fmt) (p : FltParams) (r : Rounding) (neg : Bool) (m : Rat) : Out :=
  if m = 0 then { val := .fin neg 0 }
  else
    let emin : Int := 1 - p.bias
    let eu := exp2floor m
    -- the rounding with an unbounded exponent, which decides overflow, tininess and the fast flush
    let qu := pow2 (eu - p.fracBits)
    let mu := (roundUnits r.stream (m / qu) : Rat) * qu
    if mu > p.maxFinite then
      let fl := flagIf r.strict true (flagOverflow ||| flagInexact)
      if p.hasInf && r.stream.isNone && !r.sat then { val := .inf neg, flags := fl }
      else { val := .fin neg p.maxFinite, flags := fl, sat := true }
    else
      let tiny := mu < pow2 emin
      if tiny && !r.strict && (f == .fp32 || f == .bf16) then { val := .fin neg 0 }
      else
        let q := pow2 (max eu emin - p.fracBits)
        let mr := if tiny then (roundUnits r.stream (m / q) : Rat) * q else mu
        { val := .fin neg mr
          flags := flagIf r.strict (mr ≠ m) flagInexact
            ||| flagIf r.strict (mr ≠ m && tiny) flagUnderflow }

/-- Rounds a finite value to an integer format (R28, R44). -/
def roundInt (f : Fmt) (r : Rounding) (neg : Bool) (m : Rat) : Out :=
  let scale : Rat := if f = .mxint8 then 64 else 1
  let u := (roundUnits r.stream (m * scale) : Int)
  let i := if neg then -u else u
  let (lo, hi) := intRange f
  let c := max lo (min hi i)
  let exact := (c : Rat) = signedRat neg m * scale
  -- a result of zero keeps no sign: the format has one zero
  { val := valOfRat ((c : Rat) / scale)
    flags := flagIf r.strict (!exact) flagInexact ||| flagIf r.strict (c ≠ i) flagOverflow
    sat := c ≠ i }

/-- The bits of a NaN's payload that a format holds (R22, R33). -/
def heldPayload (p : FltParams) (payload : BitVec 22) : BitVec 22 :=
  let k := 2 ^ (23 - p.fracBits)
  BitVec.ofNat 22 (payload.toNat / k * k)

/-- One rounding of a value into an element format, with the special values of R28.  DESIGN CHOICE (assumption 150): an
infinity that becomes the largest finite value raises neither OVERFLOW nor INEXACT, since R34 names results that overflow
under R31 and the exact result of a conversion of an infinity is no such one. -/
def roundTo (fm : Fmt) (r : Rounding) (v : Val) : Out :=
  let f := if fm = .mxint8 then .mxint8 else fmtElem fm
  match v with
  | .nan neg pl sg =>
    let fl := flagIf r.strict sg flagInvalid
    match fltParams f with
    | some p =>
      if p.hasNan then
        if r.strict && p.hasInf then { val := .nan neg (heldPayload p pl) false, flags := fl }
        else { val := canonicalNan, flags := fl }
      else { val := posZero, flags := fl, nanLost := true }
    | none => { val := posZero, flags := fl, nanLost := true }
  | .inf neg =>
    match fltParams f with
    | some p =>
      if p.hasInf && !r.sat then { val := .inf neg }
      else { val := .fin neg p.maxFinite, sat := true }
    | none =>
      let (lo, hi) := intRange f
      let scale : Rat := if f = .mxint8 then 64 else 1
      { val := valOfRat (((if neg then lo else hi : Int) : Rat) / scale), sat := true }
  | .fin neg m =>
    match fltParams f with
    | some p => roundFlt f p r neg m
    | none => roundInt f r neg m

/-- Rounds to nearest even into FP32 (`round32` of R81, R74). -/
def round32 (strict : Bool) (v : Val) : Out := roundTo .fp32 { strict } v

/-- A value from its FP32 word. -/
def ofFp32 (w : Word) : Val := decodeElem .fp32 w.toNat
/-- The FP32 word of a value that FP32 holds. -/
def toFp32 (v : Val) : Word := BitVec.ofNat 32 (encodeElem .fp32 v)

/-- KF4 tensor scales must be finite and above zero (R26). -/
def tscaleOk (w : Word) : Bool :=
  match ofFp32 w with
  | .fin neg m => !neg && m != 0
  | _ => false

end Sys2Proof.Machine
end

