-- ==== Sys2Proof/Machine/Flags.lean ====
section
/-! DEFINITION. What a descriptor's arithmetic reports beside its values: the exception flags of R34, the
quantize counts of R38, the non-finite position of R39 and R40, and the first-NaN trap of R41 and R42. -/
namespace Sys2Proof.Machine

/-- A NaN that the trap of R41 would report: its rank in the gate-column scale of R42, the stage (0xF for
the accumulation), and the tile, row and column that the record gives (R40). -/
structure TrapAt where
  row : Nat
  rank : Nat
  stage : Nat
  tile : Nat
  nfRow : Nat
  nfCol : Nat
deriving DecidableEq, Repr

/-- The counts, flags and positions of one run of a descriptor (R34, R38 to R42).  `nf` is the least
(row, column) over the whole output, with the tile, row and column of R40. -/
structure Report where
  zeroBlocks : Nat := 0
  blockUnderflow : Nat := 0
  saturated : Nat := 0
  flags : Flags := 0
  nf : Option (Nat × Nat) := none
  trap : Option TrapAt := none
deriving DecidableEq, Repr

/-- Lexicographic order of positions (R40). -/
def posLe (a b : Nat × Nat) : Bool := a.1 < b.1 || (a.1 == b.1 && a.2 ≤ b.2)

/-- The earlier of two non-finite positions. -/
def minPos : Option (Nat × Nat) → Option (Nat × Nat) → Option (Nat × Nat)
  | none, b => b
  | a, none => a
  | some a, some b => if posLe a b then some a else some b

/-- R42: smallest row, then column on the gate-column scale, then stage index; the accumulation, stage
0xF, precedes every stage. -/
def trapLe (a b : TrapAt) : Bool :=
  let k (t : TrapAt) : Nat := if t.stage = 0xF then 0 else t.stage + 1
  a.row < b.row || (a.row == b.row && (a.rank < b.rank || (a.rank == b.rank && k a ≤ k b)))

/-- The trap reported of two candidates (R42). -/
def minTrap : Option TrapAt → Option TrapAt → Option TrapAt
  | none, b => b
  | a, none => a
  | some a, some b => if trapLe a b then some a else some b

/-- Reports of two parts of one run. -/
def reportJoin (a b : Report) : Report :=
  { zeroBlocks := a.zeroBlocks + b.zeroBlocks
    blockUnderflow := a.blockUnderflow + b.blockUnderflow
    saturated := a.saturated + b.saturated
    flags := a.flags ||| b.flags
    nf := minPos a.nf b.nf
    trap := minTrap a.trap b.trap }

/-- A report of flags alone. -/
def reportFlags (f : Flags) : Report := { flags := f }

/-- A 16-bit count as the record carries it (R38: each field stops at 0xFFFF). -/
def count16 (n : Nat) : Nat := min n 0xFFFF

/-- A result with its report at a position of the output (R38, R39: a NaN converted to zero counts). -/
def reportOut (o : Out) (pos : Nat × Nat) : Report :=
  { saturated := if o.sat then 1 else 0
    flags := o.flags
    nf := if o.nanLost then some pos else none }

end Sys2Proof.Machine
end

