-- ==== Sys2Proof/Machine/Arith.lean ====
section
/-! DEFINITION. Arithmetic on exact values: the stochastic stream (R30), exact products and sums with the
NaN rules of R32 and R33, accumulation (R56 to R58), row sums (R81), the polynomial table stage (R109,
R110), block-scale selection (R35 to R37) and the activations of R75. -/
namespace Sys2Proof.Machine

/-- A value with the flags its making raised. -/
abbrev FV := Val × Flags

/-- The stream value of R30. -/
def streamValue (seed : Dword) (s r c : Nat) : BitVec 32 :=
  let lo : BitVec 32 := seed.truncate 32
  let hi : BitVec 32 := (seed >>> 32).truncate 32
  let x := lo + BitVec.ofNat 32 (s + 1) * 0x6A09E667#32
  let x := x ^^^ (BitVec.ofNat 32 r * 0xA54FF53B#32)
  let x := x.rotateLeft 13 ^^^ (BitVec.ofNat 32 c * 0x510E527F#32) ^^^ hi
  let x := x ^^^ (x >>> 16)
  let x := x * 0x2C1B3C6D#32
  let x := x ^^^ (x >>> 15)
  let x := x * 0x297A2D39#32
  x ^^^ (x >>> 16)

/-- The NaN result of an operation with these operands, if one is a NaN (R32, R33). -/
def nanOf (strict : Bool) (ops : List Val) : Option FV :=
  match ops.find? valIsNan with
  | some (.nan neg pl _) =>
    if strict then
      let sg := ops.any fun v => match v with
        | .nan _ _ s => s
        | _ => false
      some (.nan (Config.nanSign neg pl) pl false, if sg then flagInvalid else 0)
    else some (canonicalNan, 0)
  | _ => none

/-- A NaN of an invalid operation (R33). -/
def invalidNan (strict : Bool) : FV := (canonicalNan, flagIf strict true flagInvalid)

/-- The exact product (R56, R33). -/
def mulV (strict : Bool) (a b : Val) : FV :=
  match nanOf strict [a, b] with
  | some r => r
  | none =>
    match a, b with
    | .fin na ma, .fin nb mb => (.fin (na != nb) (ma * mb), 0)
    | _, _ =>
      if valIsZero a || valIsZero b then invalidNan strict else (.inf (valNeg a != valNeg b), 0)

/-- The exact sum; a zero sum is +0 unless both operands are −0 (round-to-nearest, IEEE 754-2019). -/
def addV (strict : Bool) (a b : Val) : FV :=
  match nanOf strict [a, b] with
  | some r => r
  | none =>
    match a, b with
    | .fin na ma, .fin nb mb =>
      let r := signedRat na ma + signedRat nb mb
      if r = 0 then (.fin (na && nb) 0, 0) else (valOfRat r, 0)
    | .inf na, .inf nb => if na = nb then (.inf na, 0) else invalidNan strict
    | .inf na, _ => (.inf na, 0)
    | _, b => (b, 0)

/-- The same value with the other sign. -/
def negV : Val → Val
  | .nan n p s => .nan n p s
  | .inf n => .inf (!n)
  | .fin n m => .fin (!n) m

/-- The exact `a × b + c`, unrounded (R57, R102). -/
def fmaV (strict : Bool) (a b c : Val) : FV :=
  match nanOf strict [a, b, c] with
  | some r =>
    let zeroInf := (valIsZero a && b == .inf (valNeg b)) || (a == .inf (valNeg a) && valIsZero b)
    (r.1, r.2 ||| flagIf strict (zeroInf && Config.fmaNanInvalid) flagInvalid)
  | none =>
    let (p, f1) := mulV strict a b
    if valIsNan p then (p, f1)
    else
      let (r, f2) := addV strict p c
      (r, f1 ||| f2)

/-- Rounds an exact result into FP32 and joins its flags. -/
def round32F (strict : Bool) (x : FV) : FV :=
  let o := round32 strict x.1
  (o.val, x.2 ||| o.flags)

/-- Strict order of the non-NaN values with +0 above −0 (R82, R108). -/
def valLt (a b : Val) : Bool :=
  match a, b with
  | .inf na, .inf nb => na && !nb
  | .inf na, _ => na
  | _, .inf nb => !nb
  | .fin na ma, .fin nb mb =>
    let x := signedRat na ma
    let y := signedRat nb mb
    x < y || (x == y && ma == 0 && na && !nb)
  | _, _ => false

/-- Maximum of R82 and R108. -/
def maxV (strict : Bool) (a b : Val) : FV :=
  match nanOf strict [a, b] with
  | some r => r
  | none => (if valLt a b then b else a, 0)

/-- Minimum of R108. -/
def minV (strict : Bool) (a b : Val) : FV :=
  match nanOf strict [a, b] with
  | some r => r
  | none => (if valLt b a then b else a, 0)

/-- The relations of a CMP stage (R102, R108): 0 EQ, 1 NE, 2 LT, 3 LE, 4 GT, 5 GE. -/
def cmpV (strict : Bool) (rel : Nat) (a b : Val) : Bool × Flags :=
  if valIsNan a || valIsNan b then
    let sg := [a, b].any fun v => match v with
      | .nan _ _ s => s
      | _ => false
    (rel == 1, flagIf strict (sg || rel ≥ 2) flagInvalid)
  else
    let eq := (valIsZero a && valIsZero b) || a == b
    let lt := !eq && valLt a b
    let r := match rel with
      | 0 => eq
      | 1 => !eq
      | 2 => lt
      | 3 => lt || eq
      | 4 => !lt && !eq
      | _ => !lt
    (r, 0)

/-- One fast group of R56. -/
def groupRound (terms : List Val) : Val :=
  if terms.any valIsNan then canonicalNan
  else if terms.contains (.inf true) && terms.contains (.inf false) then canonicalNan
  else if terms.contains (.inf true) then .inf true
  else if terms.contains (.inf false) then .inf false
  else if terms.all valIsZero then .fin (terms.all valNeg) 0
  else
    let mags := terms.filterMap fun t => match t with
      | .fin n m => if m = 0 then none else some (n, m)
      | _ => none
    let e := (mags.map fun p => exp2floor p.2).foldl max (-100000)
    let q := pow2 (e - 40)
    let s : Int := (mags.map fun p => let u := (p.2 / q).floor; if p.1 then -u else u).foldl (· + ·) 0
    if s = 0 then posZero else (round32 false (valOfRat ((s : Rat) * q))).val

/-- A list cut into pieces of `n`; `fuel` bounds the number of pieces. -/
def chunksOf {α : Type} (n : Nat) : Nat → List α → List (List α)
  | 0, _ => []
  | _, [] => []
  | fuel + 1, xs => xs.take n :: chunksOf n fuel (xs.drop n)

/-- Accumulation of a floating-point pair (R56, R57): the initial value and the exact operand pairs in
contraction order. -/
def accumulate (strict : Bool) (c : Val) (xy : List (Val × Val)) : FV :=
  if strict then
    xy.foldl (fun (acc : FV) p =>
      let r := round32F true (fmaV true p.1 p.2 acc.1)
      (r.1, acc.2 ||| r.2)) (c, 0)
  else
    let prods := xy.map fun p => (mulV false p.1 p.2).1
    ((chunksOf 16 prods.length prods).foldl (fun acc g => groupRound (acc :: g)) c, 0)

/-- Accumulation of an INT8 pair in INT32 (R58): the sum and whether it saturated. -/
def accumulateInt (c : Int) (prods : List Int) : Int × Bool :=
  (chunksOf 16 prods.length prods).foldl (fun (acc : Int × Bool) g =>
    let t := acc.1 + g.foldl (· + ·) 0
    if t > 2 ^ 31 - 1 then (2 ^ 31 - 1, true)
    else if t < -(2 ^ 31) then (-(2 ^ 31), true)
    else (t, acc.2)) (c, false)

/-- One level of the pairwise tree of R81. -/
def pairLevel (strict : Bool) : List FV → List FV
  | a :: b :: rest =>
    let s := round32F strict (addV strict a.1 b.1)
    (s.1, a.2 ||| b.2 ||| s.2) :: pairLevel strict rest
  | xs => xs

/-- `seg_sum` of R81 over up to 64 present positions. -/
def segSum (strict : Bool) (xs : List Val) : FV :=
  let l := xs.map fun v => (v, (0 : Flags))
  let l := (List.range 6).foldl (fun l _ => pairLevel strict l) l
  l.headD (posZero, 0)

/-- `row_sum` of R81. -/
def rowSum (strict : Bool) (xs : List Val) : FV :=
  match chunksOf 64 xs.length xs with
  | [] => (posZero, 0)
  | s0 :: rest =>
    rest.foldl (fun (acc : FV) seg =>
      let s := segSum strict seg
      let r := round32F strict (addV strict acc.1 s.1)
      (r.1, acc.2 ||| s.2 ||| r.2)) (segSum strict s0)

/-- `row_sum` of the squares, each rounded with round32 (R82, R113, R115). -/
def rowSumSq (strict : Bool) (xs : List Val) : FV :=
  let sq := xs.map fun x => round32F strict (mulV strict x x)
  let fl := sq.foldl (fun f p => f ||| p.2) 0
  let r := rowSum strict (sq.map (·.1))
  (r.1, fl ||| r.2)

/-- Row extremum of R82: `hi` for the maximum. -/
def rowExt (strict hi : Bool) (xs : List Val) : FV :=
  match xs with
  | [] => (posZero, 0)
  | x :: rest =>
    rest.foldl (fun (acc : FV) v =>
      let r := if hi then maxV strict acc.1 v else minV strict acc.1 v
      (r.1, acc.2 ||| r.2)) (match nanOf strict [x] with
        | some r => r
        | none => (x, 0))

/-- The functions of the table stage (R109). -/
inductive TableFn where
  | exp2 | log2 | recip | rsqrt | sigmoid
deriving DecidableEq, Repr

/-- First segment of a function in the tables (R109, R407). -/
def tableBase : TableFn → Nat
  | .exp2 => 0
  | .log2 => 64
  | .recip => 128
  | .rsqrt => 192
  | .sigmoid => 384

/-- The cubic of R109 over segment `i`, with `t` rounded once to FP32. -/
def tablePoly (coef : Nat → Word) (strict : Bool) (f : TableFn) (i : Nat) (t : Rat) : FV :=
  let c (j : Nat) : Val := ofFp32 (coef (4 * (tableBase f + i) + j))
  let tv := round32F strict (valOfRat t, 0)
  let p3 : FV := (c 3, tv.2)
  [2, 1, 0].foldl (fun (p : FV) j =>
    let r := round32F strict (fmaV strict p.1 tv.1 (c j))
    (r.1, p.2 ||| r.2)) p3

/-- `p × 2^e`, rounded once; an exponent far below every format's range is cut, which changes no result. -/
def tableScale (strict : Bool) (p : FV) (neg : Bool) (e : Int) : FV :=
  let e := max e (-600)
  let r := round32F strict (mulV strict p.1 (.fin neg (pow2 e)))
  (r.1, p.2 ||| r.2)

/-- The exact results of R110 that need no polynomial, for an input already in FP32. -/
def tableSpecial (strict : Bool) (f : TableFn) (x : Val) : Option FV :=
  let inv := invalidNan strict
  let dz (v : Val) : FV := (v, flagIf strict true flagDivZero)
  match x with
  | .nan .. => nanOf strict [x]
  | .inf false =>
    some <| match f with
      | .exp2 | .log2 => (.inf false, 0)
      | .recip | .rsqrt => (posZero, 0)
      | .sigmoid => (posOne, 0)
  | .inf true =>
    some <| match f with
      | .exp2 | .sigmoid => (posZero, 0)
      | .recip => (.fin true 0, 0)
      | .log2 | .rsqrt => inv
  | .fin neg m =>
    if m = 0 then
      some <| match f with
        | .exp2 => (posOne, 0)
        | .log2 => dz (.inf true)
        | .recip | .rsqrt => dz (.inf neg)
        | .sigmoid => (.fin false (mkRat 1 2), 0)
    else if neg && (f == .log2 || f == .rsqrt) then some inv
    else none

/-- EXP2 of a finite FP32 value (R109, R110). -/
def tableExp2 (coef : Nat → Word) (strict : Bool) (x : Rat) : FV :=
  if x ≥ 128 then (.inf false, flagIf strict true flagOverflow)
  else
    let k := x.floor
    let fr := x - (k : Rat)
    if fr = 0 then tableScale strict (posOne, 0) false k
    else
      let i := (fr * 64).floor.toNat
      let p := tablePoly coef strict .exp2 i (fr - (i : Rat) / 64)
      let r := tableScale strict p false k
      (r.1, r.2 ||| flagIf strict true flagInexact)

/-- The table stage of R109 and R110, in FP32. -/
def tableStage (coef : Nat → Word) (strict : Bool) (f : TableFn) (x0 : Val) : FV :=
  -- R109: the input is rounded to FP32 keeping subnormals, with the flags of DESC.arith
  let rin : FV := match x0 with
    | .fin .. =>
      let o := round32 true x0
      (o.val, if strict then o.flags else 0)
    | _ => (x0, 0)
  let inexact := flagIf strict true flagInexact
  match tableSpecial strict f rin.1 with
  | some r => (r.1, rin.2 ||| r.2)
  | none =>
    match rin.1 with
    | .fin neg m =>
      let x := signedRat neg m
      let r : FV := match f with
        | .exp2 => tableExp2 coef strict x
        | .log2 =>
          let e := exp2floor m
          let fr := m / pow2 e - 1
          if fr = 0 then round32F strict (valOfInt e, 0)
          else
            let i := (fr * 64).floor.toNat
            let p := tablePoly coef strict .log2 i (fr - (i : Rat) / 64)
            let s := addV strict (valOfInt e) p.1
            let r := round32F strict (s.1, p.2 ||| s.2)
            (r.1, r.2 ||| inexact)
        | .recip =>
          let e := exp2floor m
          let fr := m / pow2 e - 1
          if fr = 0 then tableScale strict (posOne, 0) neg (-e)
          else
            let i := (fr * 64).floor.toNat
            let p := tablePoly coef strict .recip i (fr - (i : Rat) / 64)
            let r := tableScale strict p neg (-e)
            (r.1, r.2 ||| inexact)
        | .rsqrt =>
          let e := exp2floor m / 2
          let fr := m / pow2 (2 * e) - 1
          if fr = 0 then tableScale strict (posOne, 0) false (-e)
          else
            let i := (fr * 64).floor.toNat
            let p := tablePoly coef strict .rsqrt i (fr - (i : Rat) / 64)
            let r := tableScale strict p false (-e)
            (r.1, r.2 ||| inexact)
        | .sigmoid =>
          if x ≥ 16 then (posOne, inexact)
          else if x < -16 then
            let y := round32F strict (mulV strict rin.1 (ofFp32 0x3FB8AA3B#32))
            match y.1 with
            | .fin yn ym =>
              let r := tableExp2 coef strict (signedRat yn ym)
              (r.1, y.2 ||| r.2 ||| inexact)
            | _ => (posZero, y.2 ||| inexact)
          else
            let i := ((x + 16) * 8).floor.toNat
            let p := tablePoly coef strict .sigmoid i (x + 16 - (i : Rat) / 8)
            (p.1, p.2 ||| inexact)
      (r.1, rin.2 ||| r.2)
    | v => (v, rin.2)

/-- The activations of R75: 0 IDENT, 1 RELU, 2 SIGMOID, 3 SILU, 4 EXP2. -/
def activate (coef : Nat → Word) (strict : Bool) (code : Nat) (x : Val) : FV :=
  match code with
  | 1 => match nanOf strict [x] with
    | some r => r
    | none => (if valLt posZero x then x else posZero, 0)
  | 2 => tableStage coef strict .sigmoid x
  | 3 =>
    let s := tableStage coef strict .sigmoid x
    let m := mulV strict x s.1
    let r := round32F strict m
    (r.1, s.2 ||| r.2)
  | 4 => tableStage coef strict .exp2 x
  | _ => (x, 0)

/-- The KF4 scale byte that `ue5m3_ceil` picks for a positive quotient (R36). -/
def ue5m3Ceil (a : Rat) : Nat :=
  if a ≤ pow2 (-17) then 1
  else if a > 114688 then 0xFE
  else
    let e := max (exp2floor a) (-14)
    let u := (a / pow2 (e - 3)).ceil.toNat
    -- u eighths of 2^e; below 8 the byte is subnormal, and 16 carries into the next exponent
    if u < 8 then u else ((e + 15).toNat * 8 + (u - 8))

/-- One element of a chain: its value, and, after a quantize, its encoding, its block's scale byte, and
whether storing it is non-finite at its own position (R39, R40). -/
structure Lane where
  val : Val
  code : Nat := 0
  scale : Nat := 0
  nf : Bool := false
deriving DecidableEq, Repr

/-- A lane that holds a plain value. -/
def laneOf (v : Val) : Lane := { val := v, nf := valNonfinite v }

/-- One block quantized under R35, R36 and R37.  `pos c` is the position of element c for R40 and
`stream c` its stochastic stream value. -/
def quantizeBlock (f : Fmt) (tscale : Rat) (strict sat : Bool) (stream : Nat → Option (BitVec 32))
    (pos : Nat → Nat × Nat) (vs : List Val) : List Lane × Report :=
  if vs.any valIsNan then
    let sg := vs.any fun v => match v with
      | .nan _ _ s => s
      | _ => false
    (vs.map fun v => { val := canonicalNan, code := 0, scale := 0xFF, nf := valIsNan v },
      reportFlags (flagIf strict sg flagInvalid))
  else
    let amax := (vs.filterMap fun v => match v with
      | .fin _ m => some m
      | _ => none).foldl max 0
    if amax = 0 && !vs.any valNonfinite then
      (vs.map fun _ => { val := posZero, code := 0, scale := 0 }, { zeroBlocks := 1 })
    else
      let (scale, div) : Nat × Rat :=
        if f = .kf4 then
          let b := if amax = 0 then 0xFE else ue5m3Ceil (amax / (6 * tscale))
          (b, (match decodeUe5m3 b with
            | .fin _ m => m
            | _ => 1) * tscale)
        else
          let e0 : Int := if amax = 0 then 127 else exp2floor amax - fmtEmax f
          let e := max (-127) (min 127 e0)
          ((e + 127).toNat, pow2 e)
      let step (p : List Lane × Report × Bool) (cv : Nat × Val) : List Lane × Report × Bool :=
        let scaled := match cv.2 with
          | .fin n m => .fin n (m / div)
          | v => v
        -- a finite element saturates whatever SAT holds; an infinity follows SAT (R35, R37)
        let fin := match cv.2 with
          | .fin .. => true
          | _ => false
        let o := roundTo f { strict, sat := sat || fin, stream := stream cv.1 } scaled
        let dec := match o.val with
          | .fin n m => .fin n (m * div)
          | v => v
        let lost := match cv.2, o.val with
          | .fin _ m, .fin _ m' => m != 0 && m' == 0
          | _, _ => false
        (p.1 ++ [{ val := dec, code := encodeElem (if f = .mxint8 then .mxint8 else fmtElem f) o.val,
                   scale := scale, nf := valNonfinite o.val }],
          reportJoin p.2.1 (reportOut o (pos cv.1)), p.2.2 || lost)
      let r := ((List.range vs.length).zip vs).foldl step ([], {}, false)
      (r.1, { r.2.1 with blockUnderflow := if r.2.2 then 1 else 0 })

/-- A row of values quantized block by block, block boundaries counted from index 0 of the list
(R28, R80). -/
def quantizeRow (f : Fmt) (tscale : Rat) (strict sat : Bool) (stream : Nat → Option (BitVec 32))
    (pos : Nat → Nat × Nat) (vs : List Val) : List Lane × Report :=
  let b := max (fmtBlock f) 1
  let blocks := chunksOf b vs.length vs
  ((List.range blocks.length).zip blocks).foldl (fun (acc : List Lane × Report) ib =>
    let q := quantizeBlock f tscale strict sat (fun c => stream (ib.1 * b + c))
      (fun c => pos (ib.1 * b + c)) ib.2
    (acc.1 ++ q.1, reportJoin acc.2 q.2)) ([], {})

end Sys2Proof.Machine
end

