-- ==== Sys2Proof/Machine/State.lean ====
section
/-! DEFINITION. The state of the cluster as plain data: every register, memory, queue, mode and pin the
spec names, with the queue of waiting commands, and the state right after the assertion of PORESET_N. -/
namespace Sys2Proof.Machine

/-- Why the model would stop.  No command of this block stops it: every effect of the spec, an error
included, is a next state.  The type has one constructor, which nothing raises. -/
inductive Fault where
  /-- Raised by no command; safe. -/
  | unreachable
deriving DecidableEq, Repr

/-- Why a command would have no meaning. -/
inductive Refusal where
  /-- A command whose arm is not written yet, by its mnemonic; safe. -/
  | notModelled (mnemonic : String)
deriving DecidableEq, Repr

/-- The parameters of a family member (R1, R2). -/
structure Params where
  member : Nat
  arrays : Nat
  edge : Nat
  taskCores : Nat
  vectorUnits : Nat
  nsMib : Nat
  dsMib : Nat
  dsLayers : Nat
  ringLog2 : Nat
  routeLog2 : Nat
  cellRate : Nat
  islands : Nat
deriving DecidableEq, Repr

/-- The KC9 row of R1 with the reset column of R2. -/
def paramsKC9 : Params :=
  { member := 9, arrays := 4, edge := 256, taskCores := 16, vectorUnits := 4, nsMib := 96, dsMib := 1536
    dsLayers := 2, ringLog2 := 18, routeLog2 := 19, cellRate := 2200, islands := 100 }

/-- The fuses (R342, R353, R358, R377, R408). -/
structure Fuses where
  uid : BitVec 128 := 0
  hwType : Word := 0x4B430901
  /-- hash of each of the four key slots, 48 bytes each -/
  keys : List (BitVec 384) := [0, 0, 0, 0]
  programmed : BitVec 4 := 0
  revoked : BitVec 4 := 0
  svnBits : BitVec 64 := 0
  recoveryDebug : Bool := false
  pairing : Word := 0
  attestPub : List Byte := []
  /-- pairing codes of the two stacked dies; none for a die that does not answer (R377) -/
  dies : List (Option Word) := [some 0, some 0]
deriving DecidableEq, Repr

/-- Boot and firmware state outside the CSU registers (R328 to R352). -/
structure Boot where
  /-- PORESET_N is asserted -/
  por : Bool := true
  /-- WARMRESET_N is asserted -/
  warm : Bool := false
  /-- RECOVERY as sampled (R329) -/
  strap : Bool := false
  /-- a stop of R317 is in force -/
  stopped : Bool := false
  /-- the Steward's firmware part in Steward memory (R343) -/
  firmware : List Byte := []
  /-- SET.CONFIRM in force, ms (R336) -/
  confirmMs : Nat := 1000
  /-- staged image: bank, window offset of the staging area, body length (R347) -/
  staged : Option (Nat × Nat × Nat) := none
  /-- the front value of the switch or trial under way (R349, R350) -/
  front : Dword := 0
  /-- the drain of a switch or a revert began at this count (R350) -/
  drainFrom : Nat := 0
  /-- the trial began at this count (R351) -/
  trialFrom : Nat := 0
  /-- the image descriptor that runs, and the device operation it waits for (R346, FLASH_DONE) -/
  imageBusy : Option Nat := none
  /-- the fuse operation under way: 1 PROGRAM_SLOT, 2 REVOKE_SLOT, 3 SVN_ADVANCE, its slot, and the hash -/
  fuseOp : Option (Nat × Nat × BitVec 384) := none
  /-- ATTN_IN level (R359) -/
  attnIn : Bool := false
  /-- stage 7: the disable of ring 0 that a REQ asked for is in progress (R356) -/
  attnDrain : Bool := false
  /-- CSU_ACT_FRONT_LO as last written -/
  frontLo : Word := 0
  /-- the master that last used each IND pair: its source, or 2^19 for the Steward and 2^20 for the debug path (R403) -/
  indUser : List (Nat × Nat) := []
  /-- a word of the Steward's instruction or data memory has bad parity (R310) -/
  stewardBad : Bool := false
deriving DecidableEq, Repr

/-- A frame of the AVSBus: whether it writes, its command code, its data, and the oscillator count at its start
(R380). -/
structure AvsFrame where
  write : Bool
  code : Nat
  data : Nat
  since : Nat
deriving DecidableEq, Repr

/-- Power and timing state outside the PTM registers (R291 to R308, R379, R380). -/
structure Power where
  /-- the effective cap in units of 1/4000 W (R297) -/
  eff : Nat := 660000
  /-- chosen supply in mV (R297) -/
  vset : Nat := 650
  /-- VIN as requested, in mV: above `vset` + 60 while a supply raise waits for it (R379) -/
  vinReq : Nat := 710
  /-- VIN is fixed at this many mV (R380) -/
  fixedVin : Option Nat := none
  /-- the first Status read since PORESET_N has been settled, answered or not (R380) -/
  avsSeen : Bool := false
  /-- the AVSBus frame last started, until it is answered (R380) -/
  avsFrame : Option AvsFrame := none
  /-- the voltage in mV that the last Voltage frame asked for, if there was one (R379) -/
  avsVolt : Option Nat := none
  /-- the word of the last Status read, and the consecutive frames without a valid response (R380) -/
  avsStatus : BitVec 16 := 0
  avsMiss : Nat := 0
  /-- thermal ledger in quarter microseconds (R303) -/
  heat4 : Nat := 0
  /-- wear ledger in tenths of a microsecond (R305) -/
  credit10 : Nat := 0
  /-- Gale time in microseconds (R308) -/
  galeUs : Nat := 0
  /-- THERM_ALERT_N asserted (R296) -/
  alert : Bool := false
  /-- hottest junction in units of 0.25 degrees C (R303) -/
  tempQ : Nat := 0
  /-- measured power of the last period, in units of 0.25 W (R304) -/
  lastPower : Option Nat := none
  /-- islands gated, in retention, and waking (R294) -/
  gated : List Nat := []
  retained : List Nat := []
  waking : List Nat := []
  /-- rises of predicted power that PTM has admitted, and falls it has let happen, not yet spread over periods of
  PTM_STEP.STEP each, in units of 1/16 W (R298) -/
  debt : Nat := 0
  shed : Nat := 0
  /-- PTM_FALLBACK.FIRST was set in the present control period (R306) -/
  firstNow : Bool := false
  /-- the last period paced (R299) -/
  pacing : Bool := false
  /-- sensor words of space 2 (R406) -/
  sensors : List Word := []
  /-- measured supply in mV and current in 10 mA of each island (R405) -/
  islands : List (Nat × Nat) := []
  /-- the words ISL_VSET and ISL_STATE of each island as the last control period left them (R405) -/
  islandRep : List (Nat × Nat) := []
deriving DecidableEq, Repr

/-- An open entry of the error log (R314): index, class, whether delivered, and what R315 compares. -/
structure OpenEntry where
  index : Nat
  cls : Nat
  delivered : Bool
  resource : Nat
  addr : Dword
deriving DecidableEq, Repr

/-- Error unit state outside the EEU registers (R311 to R325). -/
structure Errors where
  opens : List OpenEntry := []
  /-- indices of delivered entries not completed, the one being handled first (R315) -/
  nest : List Nat := []
  /-- by (code, resource): oscillator count of the last entry, if one was written, errors suppressed since (R313) -/
  supp : List ((Nat × Nat) × (Option Nat × Nat)) := []
  /-- corrected errors in window number `windowNo` of R325 -/
  window : Nat := 0
  windowNo : Nat := 0
deriving DecidableEq, Repr

/-- Who waits for the answer of an access. -/
inductive Who where
  /-- a thread's load or atomic: its answer returns to the thread -/
  | load (t : Nat)
  /-- a thread's store: its acknowledgement is tracked (R132) -/
  | store (t : Nat)
  /-- row `r` of the transfer at the head of group `g`'s tile queue -/
  | row (g r : Nat)
  /-- a read buffer (see Gather) -/
  | gather (key : Nat)
  /-- a write of descriptor `d` whose acknowledgement it awaits -/
  | desc (d : Nat)
  /-- a packet of the collective of descriptor `d` for member `m`: tree level, or 7 for a direct transfer (R261) -/
  | coll (d m level : Nat)
  /-- a step-10 to step-12 write of descriptor `d`: 0 record, 1 count-only advance, 2 doorbell -/
  | retire (d part : Nat)
  /-- a context or completion-entry write-back of ring `r` (R217) -/
  | context (r : Nat)
  /-- the write-back of an entry that leaves the context cache (R215, R216) -/
  | evict
  /-- an agent's request on a chip-memory channel (R370): channel, tag, byte mask, line offset -/
  | agent (ch tag : Nat) (be : BitVec 128) (line : Nat)
  /-- a packet's access: the port and the packet to answer (R278) -/
  | packet (port : Nat) (k : Packet)
  /-- a home write of the write-through with this key (R183) -/
  | through (key : Nat)
  /-- the fold of an ordered region (R212) -/
  | fold (n : Nat)
  /-- the save area of a suspending group (R155) -/
  | save (g : Nat)
  /-- a route-table entry read for this destination (R274) -/
  | route (dest : Nat)
  /-- the debug access with this key (R386) -/
  | debug (key : Nat)
  /-- nobody waits -/
  | nobody
deriving DecidableEq, Repr

/-- Kinds of access (R172). -/
inductive AccKind where
  | read | write | atomic
deriving DecidableEq, Repr

/-- One access: its kind, global address, length, data, atomic op and width (R162), compare value, the
counter of a counted write (R196), the source its check uses (R171), whether that master is privileged
beyond its source, the window ranges it names when a byte mask leaves gaps (R366), and who waits for it. -/
structure Access where
  kind : AccKind
  addr : Nat
  len : Nat
  data : List Byte := []
  op : Nat := 0
  width : Nat := 0
  compare : Dword := 0
  counter : Option Nat := none
  src : Nat := 0
  steward : Bool := false
  parts : List (Nat × Nat) := []
  who : Who := .nobody
deriving DecidableEq, Repr

/-- A request waiting at a scratchpad bank (R170); banks 0 to 63 are near, 64 + b deep. -/
structure BankReq where
  bank : Nat
  acc : Access
deriving DecidableEq, Repr

/-- A read of outside memory by DRE or an engine: the bytes that have returned and the requests still
outstanding; `failed` holds the reason of a failure (1 UNMAPPED and the other refusal reasons, 8 data
error, 9 unreachable). -/
structure Gather where
  key : Nat
  owner : Nat
  addr : Nat
  len : Nat
  got : List Host.Cell := []
  left : Nat := 0
  failed : Option Nat := none
deriving DecidableEq, Repr

/-- A refetch under way (R186): the block's window offset, the bad word that was met first, the region, the gather that reads the home
copy once the block's write-throughs are acknowledged, the accesses that wait for its end, and the owners
of the engine reads that wait for it. -/
structure Refetch where
  block : Nat
  word : Nat
  region : Nat
  key : Option Nat := none
  waiters : List Access := []
  pollers : List Nat := []
  /-- ranges made undefined while the refetch runs (R9) -/
  fresh : List (Nat × Nat) := []
deriving DecidableEq, Repr

/-- A write into a backed range whose home copy is being written (R183): the access, the window ranges it
stored to, the counter it advances and by how much, the value an atomic answers with, the home writes
outstanding, and whether one of them failed. -/
structure Through where
  key : Nat
  acc : Access
  ranges : List (Nat × Nat)
  count : Option (Nat × Nat) := none
  old : List Byte := []
  left : Nat
  failed : Bool := false
deriving DecidableEq, Repr

/-- Context of a ring that is not DISABLED, as the context cache holds it (R215, R221, R223). -/
structure Ring where
  ring : Nat
  base : Nat
  log2 : Nat
  cls : Nat
  depth : Nat
  haltOnFail : Bool
  preempt : Bool
  acting : Nat
  cq : Nat
  head : Nat
  tail : Nat
  seq : Nat
  save : Nat
  /-- 1 ACTIVE, 2 HALTED -/
  state : Nat
  haltStatus : Nat := 0
  haltSeq : Nat := 0
  /-- index of the next descriptor to fetch (R222) -/
  fetch : Nat
  /-- pending-tail latch (R221) -/
  latch : Option Nat := none
  /-- a DISABLE is in progress (R217) -/
  disabling : Bool := false
  /-- oscillator count since which the ring has been ready (R223) -/
  readySince : Option Nat := none
  /-- its context stands in the context cache (R218) -/
  cached : Bool := true
  /-- its entry in memory was written while it was not DISABLED (R217) -/
  overwritten : Bool := false
deriving DecidableEq, Repr

/-- A completion ring in use (R216). -/
structure Cq where
  cq : Nat
  base : Nat
  log2 : Nat
  widx : Nat
  /-- its entry stands in the context cache (R218) -/
  cached : Bool := true
  /-- its entry in memory was written while it was in use (R216) -/
  overwritten : Bool := false
deriving DecidableEq, Repr

/-- Details of a failure for the log (R312): resource, address, two details. -/
structure Detail where
  resource : Nat := 0
  addr : Dword := 0
  info0 : Dword := 0
  info1 : Dword := 0
deriving DecidableEq, Repr

/-- DRE state outside its registers (R214 to R238). -/
structure Dre where
  rings : List Ring := []
  cqs : List Cq := []
  /-- last ring fetched in each class (R223) -/
  last : List Nat := [0, 0, 0, 0, 0, 0, 0, 0]
  /-- fetching stopped by a switch or a revert (R350) -/
  stopFetch : Bool := false
  /-- the ring command in progress: command and ring (R242 BUSY) -/
  cmd : Option (Nat × Nat) := none
  /-- write-backs of the command not yet acknowledged, and whether one failed (R217) -/
  ctxLeft : Nat := 0
  ctxFail : Option Detail := none
  /-- hardware-written fields whose write-back failed (R217) -/
  ctxLost : List (Nat × Nat) := []
  /-- words of the context cache whose parity is bad, by ring (R310) -/
  bad : List Nat := []
  /-- rings that the Steward is still to disable after CHIP_MEMORY_FATAL (R327) -/
  doomed : List Nat := []
deriving DecidableEq, Repr

/-- Phases of a descriptor in flight (R14, R224, R240). -/
inductive Phase where
  /-- its 128 bytes are being read -/
  | fetching
  /-- read, not yet validated -/
  | fetched
  /-- validated: waits for its barrier or a resource -/
  | ready
  /-- its engine runs it -/
  | running
  /-- a parity error was met: waits for its refetch and its next run (R187) -/
  | replaying
  /-- step 9 is complete: it has its status and waits to retire -/
  | finished
  /-- its record is written and not yet acknowledged (step 10) -/
  | recording
  /-- its count-only advance is sent and not yet answered (step 11) -/
  | counting
  /-- its chained doorbell is sent and not yet answered (step 12) -/
  | ringing
deriving DecidableEq, Repr

/-- A vector pass of SPLIT (R84). -/
structure Pass where
  group : Nat
  unit : Option Nat := none
  done : Bool := false
deriving DecidableEq, Repr

/-- A stop that a tile of a row group met: its status and the details of it (R41, R78, R189). -/
structure MxStop where
  group : Nat
  tile : Nat
  status : Nat
  det : Detail := {}
deriving DecidableEq, Repr

/-- A write of a matrix descriptor that failed: the status that it gives, and its address in the details (R92, R189). -/
structure MxMiss where
  status : Nat
  det : Detail
deriving DecidableEq, Repr

/-- The run of a matrix descriptor: mode (0 WHOLE, 1 QUAD, 2 SIXTEENTH), its partition list and its place
in the order of starts (R53), the tiles drained, the planes streamed for the current tile of each partition
by its place in the list (R59), the row groups made final (R83 to R85), tiles fully sent (R93), the vector
passes (R84), the place in the list of the partition whose tile last met a parity error (R409), the ROWSTAT results
held of drained tiles (R83 to R85), what each row group reported, the stops met with their row groups (R41, R78, R189),
the writes that failed (R92), and the writes that had left of tiles not fully sent, each by its tile and its place in
the tile's order of sending (R91, R93). -/
structure MxRun where
  mode : Nat
  parts : List (Nat × Nat)
  order : Nat := 0
  drained : List Nat := []
  streamed : List (Nat × Nat) := []
  groups : List Nat := []
  sent : List Nat := []
  passes : List Pass := []
  met : Nat := 0
  kept : List (Nat × List (Nat × List Lane)) := []
  tallies : List (Nat × Report) := []
  stops : List MxStop := []
  missed : List MxMiss := []
  begun : List (Nat × Nat) := []
deriving DecidableEq, Repr

/-- The run of a vector chain (R96, R104, R112, R113): its unit, its place in the order of starts, whether its fills are
done, sweeps finished, the running values, the statistics of the first two REDUCE stages, write-back entries issued,
whether a stage has run, in this or an earlier run, and whether its failure has left the cache as R120 says. -/
structure VxRun where
  unit : Nat
  order : Nat := 0
  filled : Bool := false
  sweeps : Nat := 0
  lanes : List Lane := []
  stat1 : List Word := []
  stat2 : List Word := []
  wroteBack : Nat := 0
  ran : Bool := false
  lost : Bool := false
deriving DecidableEq, Repr

/-- A piece of a MOVE in flight: its destination, its length and its bytes not yet acknowledged. -/
structure Piece where
  addr : Nat
  len : Nat
  left : Nat
deriving DecidableEq, Repr

/-- The run of a MOVE: the row under way and the byte within it, that row's source and destination once its
index is read, pieces issued and not acknowledged, bytes whose writes were acknowledged (R232, R235), and own-window
ranges of writes that were refused or whose home copy failed, which hold what R176 and R183 say. -/
structure MvRun where
  row : Nat := 0
  off : Nat := 0
  cur : Option (Nat × Nat) := none
  inflight : List Piece := []
  moved : Nat := 0
  spared : List (Nat × Nat) := []
deriving DecidableEq, Repr

/-- The run of a collective at this member (R248 to R262). -/
structure ClRun where
  group : Nat
  seq : Dword
  sig : Dword
  /-- 0 waiting to start, 1 signatures, 2 data, 3 ended -/
  phase : Nat := 0
  /-- participants heard in the signature exchange: member, its report (none: it agreed) -/
  heard : List (Nat × Option Nat) := []
  /-- the lowest mismatching member found so far -/
  bad : Option Nat := none
  sentUp : Bool := false
  /-- partial chunks staged: member, first element, bytes (R253) -/
  staged : List (Nat × Nat × List Byte) := []
  /-- chunks whose partial this member has sent up or combined to the end -/
  sentChunks : List Nat := []
  /-- credits granted by the parent (R253) -/
  credits : Nat := 0
  /-- chunks of the result received: first element -/
  results : List Nat := []
  /-- bytes expected of direct transfers: the counter target (R255) -/
  target : Dword := 0
  /-- ALLTOALL: slots whose header has arrived (member, L_j), bytes received by member -/
  slots : List (Nat × Nat) := []
  received : List (Nat × Nat) := []
  dropOut : Nat := 0
  /-- the abort verdict of R261 has been sent -/
  abortSent : Bool := false
  /-- levels of chunks sent to a switch: (first element, level) (R254) -/
  switched : List (Nat × Nat) := []
  /-- count of the last arrival (R261) -/
  lastArrival : Nat := 0
  sentData : Bool := false
  /-- ALLTOALL: where the data for the own slot begins in the data region (R263) -/
  ownAt : Nat := 0
  /-- destinations that overlap those of the collective before it on the group (R255) -/
  overlaps : List (Nat × Nat) := []
  /-- failure: member and level that caused it (R265) -/
  cause : Option (Nat × Nat) := none
  nonfinite : Bool := false
deriving DecidableEq, Repr

/-- What runs a descriptor. -/
inductive Engine where
  | none
  | matrix (r : MxRun)
  | vector (r : VxRun)
  | move (r : MvRun)
  | coll (r : ClRun)
  /-- a pending WAIT, since this oscillator count (R231) -/
  | wait (since : Nat)
  /-- a launch on this task-core group -/
  | launch (g : Nat)
  /-- an image descriptor: its step -/
  | image (step : Nat)
deriving DecidableEq, Repr

/-- The `eissue` or `mcopy` behind a descriptor (R158): group, ticket slot, ticket sequence number,
record address, issuing launch's descriptor, and whether it is an `mcopy`. -/
structure Issue where
  group : Nat
  slot : Nat
  seq : Nat
  record : Nat
  launch : Nat
  copy : Bool := false
deriving DecidableEq, Repr

/-- A descriptor in flight. -/
structure Desc where
  id : Nat
  ring : Nat
  /-- its index in the ring (R214) -/
  index : Nat
  seq : Nat
  cls : Nat
  src : Nat
  issue : Option Issue := none
  bytes : List Byte := []
  phase : Phase := .fetching
  /-- ended without a trusted op byte (R234) -/
  noOp : Bool := false
  /-- rejected at validation (R239) -/
  rejected : Bool := false
  /-- validated, and past its barrier (R224) -/
  free : Bool := false
  status : Nat := 0
  /-- bytes 12 to 31 of the record -/
  body : List Byte := []
  report : Report := {}
  runs : Nat := 0
  /-- it names another cluster, so that it is bound to FEP's generation, which validation finds out; and whether that
  generation has advanced before then (R322) -/
  remote : Bool := false
  fepMoved : Bool := false
  /-- a generation it is bound to has advanced (R322) -/
  disturbed : Bool := false
  /-- backed regions held (R184) -/
  holds : List Nat := []
  /-- own-window ranges written by others while it runs (R62, R94, R122, R263) -/
  clobbered : List (Nat × Nat) := []
  /-- chain block, peer table or group entry, member table as validation read them (R68, R99, R243) -/
  chain : List Byte := []
  aux : List Byte := []
  /-- writes issued and not yet acknowledged -/
  unacked : Nat := 0
  /-- own-window ranges this descriptor, or the threads of this launch, wrote (R323) -/
  wrote : List (Nat × Nat) := []
  /-- failure of the write of steps 10 to 12 in progress, 0 none (R237, R238), and its details -/
  retStatus : Nat := 0
  retDetail : Detail := {}
  /-- address of its record, once step 10 has chosen the slot (R236) -/
  slot : Nat := 0
  engine : Engine := .none
  detail : Detail := {}
  /-- the block a replay waits for (R187) -/
  waitBlock : Option Nat := none
deriving DecidableEq, Repr

/-- A retained or resident weight plane (R45, R61): the descriptor that loaded it, array, partition index,
mode, and B's identity. -/
structure Plane where
  owner : Nat
  array : Nat
  part : Nat
  mode : Nat
  b : Nat
  bScale : Nat
  bStride : Nat
  fmt : Nat
  tscale : Word
  kk : Nat
  nn : Nat
  /-- element range and scale range it was loaded from, in global addresses -/
  range : Nat × Nat
  sRange : Nat × Nat
  /-- kept by DESC.retain after its descriptor -/
  retained : Bool
  /-- the plane that supplies its cells' weights (R45) -/
  active : Bool := false
  /-- the bytes of its weights and block scales, each under the address it was loaded from -/
  cells : List Host.Cell := []
deriving DecidableEq, Repr

/-- An entry of an accumulator (R51): its sum, and whether it has saturated (R58). -/
structure AccSum where
  val : Val
  sat : Bool := false
deriving DecidableEq, Repr

/-- The accumulator share of a partition (R51): the descriptor and the tile that it accumulates, its rows, and the
flags raised so far. -/
structure Accum where
  array : Nat
  part : Nat
  owner : Nat
  tile : Nat
  rows : List (List AccSum)
  flags : Flags := 0
deriving DecidableEq, Repr

/-- Matrix engine state outside its registers: the mode of each array, the planes, the accumulators (R45, R51, R52),
and the sixteenths (16 × array + place) in whose planes, accumulator or elastic links parity is bad (R187). -/
structure Mxe where
  modes : List Nat := [0, 0, 0, 0]
  planes : List Plane := []
  accs : List Accum := []
  bad : List Nat := []
deriving DecidableEq, Repr

/-- What holds a thread (R132, R142, R155). -/
inductive Hold where
  /-- nothing: it may issue -/
  | free
  /-- a load: destination register, bytes, signed, address -/
  | load (d bytes : Nat) (signed : Bool) (addr : Nat)
  /-- an atomic: destination register, op, width, address -/
  | atomic (d op width addr : Nat)
  /-- an `eissue` or `tcfgm` whose operand at this address is being read -/
  | read (addr : Nat)
  /-- a tile instruction in the queue, by number -/
  | tile (n : Nat)
  /-- `cwait` since an oscillator count -/
  | cwait (since : Nat)
  | gbar
  /-- `cbar` or `cred` with the handle of its collective -/
  | coll (d : Nat) (started : Bool)
  /-- `fence.r` that waits for acknowledgements -/
  | fence
  /-- `brk` with debug enabled (R131) -/
  | debug
  /-- the program image of its launch is being copied (R126) -/
  | image
deriving DecidableEq, Repr

/-- A hardware thread (R124, R128, R129). -/
structure Thread where
  pc : Dword := 0
  s : List Dword := List.replicate 32 0
  p : List Bool := [true, false, false, false, false, false, false, false]
  fpc : Dword := 0
  fcause : BitVec 8 := 0
  finfo0 : Dword := 0
  finfo1 : Dword := 0
  hmode : Bool := false
  cstatus : Word := 0
  ended : Bool := false
  exitVal : BitVec 16 := 0
  hold : Hold := .free
  /-- writes not yet acknowledged (R132) -/
  unacked : Nat := 0
  /-- a deferred refusal: fault cause and address (R132) -/
  deferred : Option (Nat × Dword) := none
  /-- data that has returned for a load, or the cause of its failure -/
  ret : Option (List Byte × Nat) := none
  /-- lines of the returning load may not be allocated (R203) -/
  noAlloc : Bool := false
deriving DecidableEq, Repr

/-- A tile instruction in a group's queue (R142): number, thread index, instruction word, the operands
read at issue, rows done so far, whether its row access is outstanding. -/
structure TileOp where
  n : Nat
  thread : Nat
  word : Word
  sa : Dword
  sb : Dword
  row : Nat := 0
  begun : Bool := false
  outstanding : Nat := 0
  /-- the entries of a `tcfgm` -/
  cfg : List Word := []
  /-- the transfer resumes from the record of R146 -/
  resumes : Bool := false
  /-- bytes of the row being loaded that have returned, and rows stored and acknowledged -/
  got : List Host.Cell := []
  acked : List Nat := []
  /-- rows issued -/
  issued : Nat := 0
  /-- lines of the row being filled that may be allocated (R203) -/
  fills : List Nat := []
  /-- lowest failing row and its fault cause -/
  failed : Option (Nat × Nat) := none
deriving DecidableEq, Repr

/-- An entry of the ticket table (R158). -/
structure Ticket where
  seq : Nat := 0
  status : Nat := 0
  pending : Bool := false
  valid : Bool := false
deriving DecidableEq, Repr

/-- A launch on a group: its descriptor, ring, class, acting source, program and save address. -/
structure Launch where
  desc : Nat
  ring : Nat
  cls : Nat
  src : Nat
  prog : Nat
  progLen : Nat
  /-- its place in the order of starts and resumptions (R226): the model's own -/
  started : Nat := 0
  /-- how it ends: status, faulting thread (R137), none while it runs -/
  fate : Option (Nat × Option Nat) := none
deriving DecidableEq, Repr

/-- The save area's write of a suspending group (R155, R183): not made, awaiting its home copy, made, or
failed with this status. -/
inductive Saving where
  | no | awaited | done
  | failed (status : Nat)
deriving DecidableEq, Repr

/-- A thread group (R124, R138 to R154).  `state`: 0 IDLE, 1 RUNNING, 2 SUSPENDING, 3 SUSPENDED,
4 RESUMING, 5 ENDING. -/
structure Group where
  state : Nat := 0
  launch : Option Launch := none
  store : List Byte := []
  /-- words of the instruction store and of tile storage whose parity is bad (R135, R138) -/
  storeBad : List Nat := []
  fhandler : Word := 0
  tcfg : List Word := [0, 0, 0, 0, 0, 0, 0, 0]
  tuse : List Nat := [0, 0, 0, 0, 0, 0, 0, 0]
  tstat : BitVec 8 := 0
  tstart : Word := 0
  tstartAddr : Dword := 0
  tstartStride : Word := 0
  /-- tile storage, key 16,384 × tile + 128 × row + byte (R409), zero where not listed -/
  tiles : List Host.Cell := []
  tileBad : List Nat := []
  quad : Option Nat := none
  bindMask : BitVec 16 := 0
  /-- write counts of the tiles, and the reuse tags of R153: (tile, write count) of the quad's planes, oldest
  first, and of the feeder's rows -/
  writes : List Nat := [0, 0, 0, 0, 0, 0, 0, 0]
  tags : List (Nat × Nat) := []
  feeder : Option (Nat × Nat) := none
  tickets : List Ticket := List.replicate 16 {}
  tq : List TileOp := []
  /-- the place of a waiting `tbind` in the order in which the waits began (R149) -/
  bindSince : Option Nat := none
  threads : List Thread := [{}, {}, {}, {}]
  lastCause : Nat := 0
  refused : Bool := false
  saving : Saving := .no
  /-- suspended by the scheduling policy of R226 -/
  policy : Bool := false
  /-- the save area of a suspended group, and whether it has been written since (R156) -/
  saved : Nat × Nat := (0, 0)
  saveWild : Bool := false
deriving DecidableEq, Repr

/-- A line of a core's L1 (R133). -/
structure Line where
  core : Nat
  addr : Nat
  bytes : List Byte
  bad : Bool := false
deriving DecidableEq, Repr

/-- A loaded collective group (R246, R260, R266). -/
structure ClGroup where
  group : Nat
  entry : List Byte
  base : Dword
  instrSeq : Nat := 0
  /-- sequence number of the last collective that ended here -/
  lastSeq : Option Dword := none
  /-- sequence held as next -/
  next : Option Dword := none
  held : List Packet := []
  /-- the destination of its last direct collective (R255) -/
  lastDst : List (Nat × Nat) := []
deriving DecidableEq, Repr

/-- An ordered region's round (R210, R211): base of COUNTER and the tags of its slots in order. -/
structure OrdRound where
  region : Nat
  base : Dword
  tags : List Nat
  /-- the fold has written the target and awaits the home copy -/
  folding : Bool := false
deriving DecidableEq, Repr

/-- An outstanding request of the fabric endpoint (R273): its packet, the access behind it, its port and
rate-control group. -/
structure FepReq where
  tag : Nat
  packet : Packet
  acc : Access
  port : Nat
  rcg : Nat
  /-- count of the last transmission, or of queuing -/
  since : Nat
  /-- count at which a RETRY was answered, while the request waits for its gap (R283) -/
  retryAt : Option Nat := none
  /-- in flight when the last route front was accepted (R284) -/
  oldEpoch : Bool := false
  /-- its last flit has been acknowledged on the link: a collective packet, which has no response, is delivered -/
  delivered : Bool := false
deriving DecidableEq, Repr

/-- A packet queued for a port, and how many of its flits have been sent (R268, R286). -/
structure Queued where
  packet : Packet
  rcg : Nat
  sentFlits : Nat := 0
  oldEpoch : Bool := false
  /-- the request it carries has ended, so that its delivery acknowledges nothing (R287) -/
  settled : Bool := false
deriving DecidableEq, Repr

/-- A flit sent and not yet acknowledged (R289): its sequence number, its packet and its place in it, and
how often it has been sent again. -/
structure SentFlit where
  seq : Nat
  packet : Packet
  index : Nat
  resent : Nat := 0
  oldEpoch : Bool := false
  settled : Bool := false
deriving DecidableEq, Repr

/-- A transfer on a fabric port's transmit bundle (R373): the flit part it carries (packet, flit, 64-byte
part), its sequence number, the link-control value (NAK, LSEQ) and the credit (CVC) it carries. -/
structure Xfer where
  part : Option (Packet × Nat × Nat) := none
  seq : Nat := 0
  lv : Option (Bool × Nat) := none
  cv : Option Nat := none
deriving DecidableEq, Repr

/-- A fabric port (R286, R289, R373 to R375). -/
structure Port where
  up : Bool := false
  /-- level of FEP_p_LINK_UP: a port that was declared failed is not up while it is high (R289, R375) -/
  link : Bool := false
  queue : List Queued := []
  sent : List SentFlit := []
  /-- sequence numbers of flits to send again, oldest first -/
  resend : List Nat := []
  nextSeq : Nat := 0
  expect : Nat := 0
  nakSent : Bool := false
  /-- bytes of the packet that is arriving, by channel (R268) -/
  rx : List (Nat × List Byte) := []
  /-- flits received and not yet acknowledged, and when the last one arrived -/
  toAck : Nat := 0
  lastRx : Nat := 0
  credits : List Nat := [0, 0, 0, 0, 0, 0]
  /-- oscillator count of the last acknowledgement that advanced -/
  lastAck : Nat := 0
  /-- acknowledgements and NAKs to send: (NAK, LSEQ); and credits to return, by channel -/
  control : List (Bool × Nat) := []
  giveCredit : List Nat := []
  /-- the transfer last driven, and parts of its flit still to drive -/
  wire : Option Xfer := none
  wireLeft : Nat := 0
  /-- levels of REQ and ACK of the transmit bundle, and of the receive bundle's ACK (R361) -/
  txReq : Bool := false
  txAck : Bool := false
  rxAck : Bool := false
deriving DecidableEq, Repr

/-- A rate-control group (R280) not at its reset state: its bucket in thousandths of a byte as it stood at
count `since`, the last cut, and the start of its raise period. -/
structure Bucket where
  group : Nat
  level : Int := 4160000
  since : Nat := 0
  lastCut : Option Nat := none
  raiseFrom : Nat := 0
deriving DecidableEq, Repr

/-- A multicast write not yet acknowledged (R276): its tag and the ports whose link acknowledgement it
awaits. -/
structure Mcast where
  tag : Nat
  ports : List Nat
deriving DecidableEq, Repr

/-- Fabric endpoint state outside its registers. -/
structure Fep where
  ports : List Port := [{}, {}, {}, {}]
  reqs : List FepReq := []
  /-- packets whose last flit has arrived and that wait to be handled, with their ports -/
  inbox : List (Nat × Packet) := []
  buckets : List Bucket := []
  /-- last CONG_ECHO to a source (R279) -/
  echoSent : List (Nat × Nat) := []
  /-- reservations: resource (0 CLE, 1 MGMT), source, tag, age, time of the refusal (R283) -/
  resv : List (Nat × Nat × Nat × Nat × Nat) := []
  /-- packets waiting for a route entry read or a tag (R273, R274), with the access behind a request -/
  unrouted : List (Packet × Option Access) := []
  mcast : List Mcast := []
  /-- tags whose request timed out and whose response may still come, oldest first (R287) -/
  late : List Nat := []
  /-- own-window ranges of the active bank written since it became active, each with a free value's number (R285) -/
  wild : List (Nat × Nat × Nat) := []
  /-- destinations of echoes that wait for a route entry (R279) -/
  echoes : List Nat := []
deriving DecidableEq, Repr

/-- A message waiting on a chip-memory channel (R366): request or response. -/
structure CmpMsg where
  response : Bool
  op : Nat
  st : CmpStatus := .ok
  tag : Nat
  addr : Nat := 0
  be : BitVec 128 := 0
  data : List Byte := []
  atop : Nat := 0
  awid : Nat := 0
deriving DecidableEq, Repr

/-- A chip-memory channel (R361, R364, R368). -/
structure Chan where
  reqCredits : Nat := 0
  rspCredits : Nat := 0
  /-- messages waiting, oldest first, each with the access behind a request -/
  waiting : List (CmpMsg × Option Access) := []
  /-- credits to return to the chip -/
  giveReq : Nat := 0
  giveRsp : Nat := 0
  /-- the transfer last driven on the transmit wires: its message, CR_REQ and CR_RSP -/
  wire : Option (Option CmpMsg × Bool × Bool) := none
  txReq : Bool := false
  txAck : Bool := false
  rxAck : Bool := false
deriving DecidableEq, Repr

/-- An outstanding chip-memory request: channel, tag, the access line it carries. -/
structure CmpOut where
  ch : Nat
  tag : Nat
  acc : Access
deriving DecidableEq, Repr

/-- Chip memory port state (R364 to R372). -/
structure Cmp where
  chans : List Chan := List.replicate 8 {}
  out : List CmpOut := []
  fatal : Bool := false
deriving DecidableEq, Repr

/-- Debug TAP state (R385 to R387): selected instruction, the result of the last REG_ACCESS as Capture-DR loads it, and
the segment-insertion bits. -/
structure Tap where
  ir : BitVec 8 := 0x01
  offset : BitVec 40 := 0
  wr : Bool := false
  data : Word := 0
  status : BitVec 2 := 0
  segs : BitVec 8 := 0
  /-- number of the scratchpad access that REG_ACCESS last started, if it was one: the model's own -/
  key : Option Nat := none
  /-- the bypass register, and the bits the last data-register scan shifted out on TDO, first one first -/
  byp : Bool := false
  tdo : List Bool := []
deriving DecidableEq, Repr

/-- The whole block. -/
structure State where
  /-- commands waiting, first in first out: the model's own -/
  pending : List Instr := []
  /-- number of the next free value: the model's own -/
  freeCtr : Nat := 0
  /-- number of the next handle: the model's own -/
  nextId : Nat := 0
  /-- value the last register command returned to its master: the model's own -/
  readout : Dword := 0
  par : Params := paramsKC9
  osc : Nat := 0
  oscShadow : Dword := 0
  boot : Boot := {}
  fuses : Fuses := {}
  fusesSensed : Fuses := {}
  nor : List Host.Cell := []
  /-- registers by window offset from 0x80_0000_0000; an unlisted one holds its reset value -/
  regs : List (Nat × Word) := []
  /-- registers whose stored parity is bad (R320) -/
  cfgBad : List Nat := []
  /-- configuration generations: DRE, MXE, VXE, TC, NS/DS, MOV, FEP, CLE (R321) -/
  gens : List Nat := [0, 0, 0, 0, 0, 0, 0, 0]
  ftab : List (Nat × Word) := []
  trim : List (Nat × Word) := []
  corr : List (Nat × Word) := []
  spm : List Host.Cell := []
  spmBad : List Nat := []
  /-- scratchpad contents lost by SUPPLY_FAULT (R317): free value of the first byte, if so -/
  spmLost : Option Nat := none
  /-- the armed parity injection: word offset (R180) -/
  inject : Option Nat := none
  counters : List (Nat × Dword) := []
  cntShadow : List (Nat × Dword) := []
  ord : List OrdRound := []
  xbr : List BankReq := []
  refetch : List Refetch := []
  throughs : List Through := []
  gathers : List Gather := []
  power : Power := {}
  errors : Errors := {}
  dre : Dre := {}
  descs : List Desc := []
  mxe : Mxe := {}
  /-- operand caches, key 262,144 × unit + offset, zero where not listed (R97) -/
  voc : List Host.Cell := []
  vocBad : List Nat := []
  groups : List Group := List.replicate 32 {}
  l1 : List Line := []
  cle : List ClGroup := []
  fep : Fep := {}
  cmp : Cmp := {}
  mgmt : List Packet := []
  tap : Tap := {}
deriving DecidableEq, Repr

/-- The machine right after the assertion of PORESET_N (R328): every register at its Reset column, no
work in flight, scratchpad and operand caches zero. -/
def State.reset : State := {}

/-- What the model calls an outcome. -/
abbrev Result := Host.Outcome State Fault Refusal

end Sys2Proof.Machine
end

