-- ==== Sys2Proof/Machine/RegMap.lean ====
section
/-! DEFINITION. The register window (R167, R390 to R401): each block's registers with their bits, access
codes (R6) and reset values, and the locks that cover them (R396).  Offsets count from 0x80_0000_0000. -/
namespace Sys2Proof.Machine

/-- Access codes of R6; `lock` is a lock bit, which a privileged write of 1 sets (R396). -/
inductive Acc where
  | rw | ro | w1c | rc | wm | lk | lock
deriving DecidableEq, Repr

/-- A field: its bits, access code and reset value (R6). -/
structure Field where
  hi : Nat
  lo : Nat
  acc : Acc
  reset : Nat
deriving DecidableEq, Repr

/-- A register, or `count` equal registers `stride` bytes apart, with the lock bit that covers its LK
fields: register offset and bit number (R396). -/
structure RegRow where
  base : Nat
  stride : Nat := 4
  count : Nat := 1
  fields : List Field
  lock : Option (Nat × Nat) := none
deriving DecidableEq, Repr

/-- A register of one field. -/
def fld (acc : Acc) (reset : Nat := 0) : List Field := [⟨31, 0, acc, reset⟩]

/-- A control register whose bit 0 is a lock bit and whose other bits are reserved LK bits. -/
def lockReg : List Field := [⟨0, 0, .lock, 0⟩, ⟨31, 1, .lk, 0⟩]

/-- GEN (R2, R399). -/
def rowsGen : List RegRow :=
  [ { base := 0x0, fields := fld .ro 0x01210049 }, { base := 0x4, fields := fld .ro 0x000B0060 }
  , { base := 0x8, fields := fld .ro 0x00000272 }, { base := 0xC, fields := fld .ro 0x00640898 }
  , { base := 0x10, count := 4, fields := fld .rw } ]

/-- SEC (R173, R174, R400). -/
def rowsSec : List RegRow :=
  let prt := some (0x100040, 31)
  [ { base := 0x100000, fields := lockReg }
  , { base := 0x100010, count := 4, fields := fld .lk, lock := some (0x100000, 0) }
  , { base := 0x100040, fields := [⟨30, 0, .lk, 7⟩, ⟨31, 31, .lock, 0⟩], lock := prt }
  , { base := 0x100044, fields := fld .rc }, { base := 0x100048, count := 3, fields := fld .ro }
  , { base := 0x102000, count := 2048, fields := fld .lk, lock := prt } ]

/-- CSU (R359). -/
def rowsCsu : List RegRow :=
  let l := some (0x200000, 0)
  [ { base := 0x200000, fields := [⟨0, 0, .lock, 0⟩, ⟨31, 1, .lk, 0⟩] }
  , { base := 0x200010, fields := fld .ro }, { base := 0x200014, fields := fld .ro 0x4B430901 }
  , { base := 0x200020, count := 4, fields := fld .ro }, { base := 0x200030, fields := fld .lk, lock := l }
  , { base := 0x200034, fields := fld .rw 0x28 }, { base := 0x200040, fields := fld .ro }
  , { base := 0x200048, count := 4, fields := fld .ro }, { base := 0x200058, count := 2, fields := fld .lk }
  , { base := 0x200060, fields := fld .lk 0x00640000 }, { base := 0x200064, fields := fld .rc }
  , { base := 0x200070, fields := [⟨0, 0, .w1c, 0⟩, ⟨1, 1, .ro, 0⟩, ⟨3, 2, .rw, 0⟩, ⟨4, 4, .ro, 0⟩, ⟨31, 5, .rw, 0⟩] }
  , { base := 0x200080, fields := [⟨0, 0, .lk, 0⟩, ⟨1, 1, .ro, 0⟩, ⟨31, 2, .lk, 0⟩], lock := l }
  , { base := 0x200090, fields := fld .lk, lock := l }, { base := 0x200094, fields := fld .lk }
  , { base := 0x200098, fields := fld .ro } ]

/-- DRE (R242). -/
def rowsDre : List RegRow :=
  let l := some (0x300000, 0)
  [ { base := 0x300000, fields := lockReg }
  , { base := 0x300010, fields := fld .lk 0x05FD0000, lock := l }, { base := 0x300014, fields := fld .lk, lock := l }
  , { base := 0x300018, fields := fld .lk 1, lock := l }
  , { base := 0x300020, fields := fld .lk 0x05FC0000, lock := l }, { base := 0x300024, fields := fld .lk, lock := l }
  , { base := 0x300030, fields := fld .lk }, { base := 0x300034, fields := fld .ro }
  , { base := 0x300040, fields := fld .rw 0xF4240 }, { base := 0x300050, fields := fld .rc }
  , { base := 0x300054, count := 3, fields := fld .ro }, { base := 0x300060, fields := fld .rc } ]

/-- MXE (R148, R401). -/
def rowsMxe : List RegRow :=
  [ { base := 0x400000, fields := fld .rw 3 }
  , { base := 0x400100, fields := [⟨15, 0, .wm, 0⟩, ⟨31, 16, .ro, 0⟩] }
  , { base := 0x400110, count := 4, fields := fld .ro } ]

/-- TC (R154, R401). -/
def rowsTc : List RegRow :=
  [ { base := 0x600000, fields := fld .rw 1 }
  , { base := 0x600400, stride := 0x20, count := 32, fields := fld .rw }
  , { base := 0x600404, stride := 0x20, count := 32, fields := fld .ro }
  , { base := 0x600408, stride := 0x20, count := 32, fields := fld .rw }
  , { base := 0x60040C, stride := 0x20, count := 32, fields := fld .rw } ]

/-- NS/DS (R180, R181, R401). -/
def rowsNsds : List RegRow :=
  [ { base := 0x700000, fields := fld .rw 1 }
  , { base := 0x700200, fields := fld .lk }, { base := 0x700204, fields := fld .lk }
  , { base := 0x701000, stride := 0x20, count := 64, fields := fld .rw }
  , { base := 0x701004, stride := 0x20, count := 64, fields := fld .rw }
  , { base := 0x701008, stride := 0x20, count := 64, fields := fld .rw }
  , { base := 0x70100C, stride := 0x20, count := 64, fields := fld .rw }
  , { base := 0x701010, stride := 0x20, count := 64, fields := fld .rw }
  , { base := 0x701014, stride := 0x20, count := 64,
      fields := [⟨0, 0, .rw, 0⟩, ⟨1, 1, .ro, 0⟩, ⟨7, 2, .rw, 0⟩, ⟨31, 8, .ro, 0⟩] }
  , { base := 0x701018, stride := 0x20, count := 64, fields := fld .rw }
  , { base := 0x70101C, stride := 0x20, count := 64, fields := fld .rw } ]

/-- FEP (R199, R209, R290); the counter pairs of R199 are not held here. -/
def rowsFep : List RegRow :=
  let l := some (0x900000, 0)
  [ { base := 0x900000, fields := lockReg }
  , { base := 0x900010, count := 4, fields := fld .lk, lock := l }
  , { base := 0x900020, fields := fld .lk }, { base := 0x900024, fields := fld .ro }
  , { base := 0x900030, fields := fld .rw 0xF4240 }, { base := 0x900034, fields := fld .rw 0x60100 }
  , { base := 0x900040, fields := fld .rw 0x8001 }, { base := 0x900044, fields := fld .rw 0x00102260 }
  , { base := 0x900048, fields := fld .rw 0x03E80080 }, { base := 0x90004C, fields := fld .rw 0x01F407D0 }
  , { base := 0x900060, count := 4, fields := fld .rc }
  , { base := 0x900100, count := 4, fields := fld .ro }, { base := 0x900110, count := 4, fields := fld .rc }
  , { base := 0x900200, fields := fld .lk }
  , { base := 0x901000, count := 1024, fields := fld .ro 0x2260 }
  , { base := 0x903000, stride := 0x20, count := 16, fields := fld .rw }
  , { base := 0x903004, stride := 0x20, count := 16, fields := fld .rw }
  , { base := 0x903008, stride := 0x20, count := 16, fields := fld .rw }
  , { base := 0x90300C, stride := 0x20, count := 16, fields := fld .rw }
  , { base := 0x903010, stride := 0x20, count := 16,
      fields := [⟨1, 0, .rw, 0⟩, ⟨3, 2, .ro, 0⟩, ⟨31, 4, .rw, 0⟩] }
  , { base := 0x903014, stride := 0x20, count := 16, fields := fld .rw }
  , { base := 0x903018, stride := 0x20, count := 16, fields := fld .rw }
  , { base := 0x90301C, stride := 0x20, count := 16, fields := fld .ro } ]

/-- CLE (R267). -/
def rowsCle : List RegRow :=
  let l := some (0xA00000, 0)
  [ { base := 0xA00000, fields := lockReg }
  , { base := 0xA00010, count := 2, fields := fld .lk, lock := l }
  , { base := 0xA00018, fields := fld .lk 0x1000, lock := l }, { base := 0xA0001C, fields := fld .rw 0x989680 }
  , { base := 0xA00020, fields := fld .lk }, { base := 0xA00024, fields := fld .ro }
  , { base := 0xA00030, count := 2, fields := fld .rc } ]

/-- PTM (R308); the oscillator pair is not held here. -/
def rowsPtm : List RegRow :=
  let l := some (0xB00000, 0)
  [ { base := 0xB00000, fields := lockReg }, { base := 0xB00004, fields := fld .lk 0x03B6028A, lock := l }
  , { base := 0xB00010, fields := fld .rw 1 }, { base := 0xB00014, fields := fld .rw 0x00A00294 }
  , { base := 0xB00018, fields := fld .rw 0x120 }
  , { base := 0xB00020, fields := fld .ro 0x02940001 }, { base := 0xB00024, count := 2, fields := fld .ro }
  , { base := 0xB00030, fields := [⟨6, 0, .w1c, 0⟩, ⟨31, 7, .ro, 0⟩] }
  , { base := 0xB00034, fields := fld .lk 0x0190017C, lock := l }
  , { base := 0xB00038, fields := fld .lk 0xD48, lock := l }
  , { base := 0xB00040, count := 4, fields := fld .ro }
  , { base := 0xB00060, fields := fld .rw 0x000A0007 }, { base := 0xB00070, count := 4, fields := fld .ro } ]

/-- EEU (R326). -/
def rowsEeu : List RegRow :=
  [ { base := 0xC00000, fields := [⟨0, 0, .lock, 0⟩, ⟨31, 1, .lk, 1⟩] }
  , { base := 0xC00010, fields := fld .lk 0x05FBC000, lock := some (0xC00000, 0) }
  , { base := 0xC00014, count := 3, fields := fld .ro }, { base := 0xC00020, fields := fld .lk }
  , { base := 0xC00024, fields := fld .rc }, { base := 0xC00028, fields := fld .ro }
  , { base := 0xC00030, fields := [⟨30, 0, .ro, 0⟩, ⟨31, 31, .w1c, 0⟩] }
  , { base := 0xC00034, count := 3, fields := fld .ro }
  , { base := 0xC00040, fields := [⟨7, 0, .w1c, 0⟩, ⟨31, 8, .ro, 0⟩] }
  , { base := 0xC00044, fields := fld .rw 0xFF }, { base := 0xC00048, fields := fld .lk }
  , { base := 0xC00050, fields := fld .rw 0x004003E8 }, { base := 0xC00054, fields := fld .rw 0x3E8 }
  , { base := 0xC00058, fields := fld .rw 0x3E8 } ]

/-- IND (R402); the data registers are not held here. -/
def rowsInd : List RegRow :=
  [ { base := 0xD00000, stride := 0x10, count := 4, fields := fld .rw }
  , { base := 0xD0000C, stride := 0x10, count := 4, fields := fld .ro }
  , { base := 0xD00100, fields := lockReg } ]

/-- The registers of the block that holds a window-relative offset (R393). -/
def rowsOfBlock (off : Nat) : List RegRow :=
  match off / 0x100000 with
  | 0x0 => rowsGen | 0x1 => rowsSec | 0x2 => rowsCsu | 0x3 => rowsDre | 0x4 => rowsMxe
  | 0x5 => [{ base := 0x500000, fields := fld .rw 1 }]
  | 0x6 => rowsTc | 0x7 => rowsNsds
  | 0x8 => [{ base := 0x800000, fields := fld .rw 0x10 }]
  | 0x9 => rowsFep | 0xA => rowsCle | 0xB => rowsPtm | 0xC => rowsEeu | 0xD => rowsInd
  | _ => []

/-- Whether a row has a register at an offset. -/
def rowHas (r : RegRow) (off : Nat) : Bool :=
  r.base ≤ off && (off - r.base) % r.stride == 0 && (off - r.base) / r.stride < r.count

/-- The row of the register at an offset. -/
def rowOf (off : Nat) : Option RegRow := (rowsOfBlock off).find? (rowHas · off)

/-- The word of a register at reset (the Reset columns of R2 to R402). -/
def regReset (off : Nat) : Word :=
  match rowOf off with
  | some r => BitVec.ofNat 32 (r.fields.foldl (fun a f => a + f.reset * 2 ^ f.lo) 0)
  | none => 0

/-- Partial decoding (R394): the offset at which an access to a block offset is performed. -/
def regDecode (off : Nat) : Nat :=
  let b := off / 0x100000 * 0x100000
  let o := off % 0x100000
  let impl := o < 0x1000 || match off / 0x100000 with
    | 0x1 => 0x2000 ≤ o && o ≤ 0x3FFF
    | 0x7 => 0x1000 ≤ o && o ≤ 0x17FF
    | 0x9 => o ≤ 0x1FFF || (0x3000 ≤ o && o ≤ 0x31FF) || (0x8000 ≤ o && o ≤ 0xFFFF)
    | _ => false
  if impl then off else b + o % 0x1000

/-- Whether an offset is the LO register of a 64-bit pair with a shadow (R199): a counter's number, or
none for the oscillator. -/
def capturePair (off : Nat) : Option (Option Nat) :=
  if off = 0xB00050 then some none
  else if 0x908000 ≤ off && off < 0x910000 && off % 8 == 0 then some (some ((off - 0x908000) / 8))
  else none

/-- A field kept in its range. -/
def clampField (hi lo least most v : Nat) : Nat :=
  let f := v / 2 ^ lo % 2 ^ (hi + 1 - lo)
  let g := max least (min most f)
  v - f * 2 ^ lo + g * 2 ^ lo

/-- A written value with each field that R308 or R401 gives a range at the nearest value in range. -/
def regClamp (off v : Nat) : Nat :=
  match off with
  | 0xB00004 => clampField 27 16 650 950 (clampField 11 0 650 950 v)
  | 0xB00014 => clampField 31 16 1 160 (clampField 15 0 160 1200 v)
  | 0xB00018 => clampField 5 0 1 32 v
  | 0xB00034 => clampField 27 16 50 400 v
  | 0x800000 => clampField 4 0 1 31 v
  | _ => v

/-- The generation a register's accepted write advances (R397), as an index of the eight of R321. -/
def regGens (off : Nat) : List Nat :=
  if off = 0x300010 || off = 0x300014 || off = 0x300018 || off = 0x300020 || off = 0x300024 then [0]
  else if off = 0x400000 then [1]
  else if off = 0x500000 then [2]
  else if off = 0x600000 then [3]
  else if off = 0x700000 then [4]
  else if off = 0x800000 then [5]
  else if off = 0x900030 then [6]
  else if off = 0xA00010 || off = 0xA00014 || off = 0xA00018 then [7]
  else if off = 0x200030 then [0, 6]
  else []

end Sys2Proof.Machine
end

