-- ==== Sys2Proof/Machine/Bits.lean ====
section
/-! DEFINITION. Bit fields, little-endian byte strings, and sparse maps in one canonical form: keys
strictly rising and no entry equal to what an unlisted key reads as. -/
namespace Sys2Proof.Machine

/-- Bits `[hi:lo]` of a natural number. -/
def bitsOf (hi lo n : Nat) : Nat := n / 2 ^ lo % 2 ^ (hi + 1 - lo)

/-- Bit `i` of a natural number. -/
def bitOf (i n : Nat) : Bool := n / 2 ^ i % 2 == 1

/-- `n` with bits `[hi:lo]` replaced by `v`. -/
def setBits (hi lo n v : Nat) : Nat :=
  n / 2 ^ (hi + 1) * 2 ^ (hi + 1) + v % 2 ^ (hi + 1 - lo) * 2 ^ lo + n % 2 ^ lo

/-- A Boolean as a bit. -/
def boolBit (b : Bool) : Nat := if b then 1 else 0

/-- The number a little-endian byte string spells. -/
def leNat : List Byte → Nat
  | [] => 0
  | b :: bs => b.toNat + 256 * leNat bs

/-- The `n` little-endian bytes of a number. -/
def toLe : Nat → Nat → List Byte
  | 0, _ => []
  | n + 1, v => BitVec.ofNat 8 v :: toLe n (v / 256)

/-- The number at bytes `off` to `off + len − 1` of a structure. -/
def fieldAt (bs : List Byte) (off len : Nat) : Nat := leNat ((bs.drop off).take len)

/-- A byte string padded with zeros, or cut, to `n` bytes. -/
def padTo (n : Nat) (bs : List Byte) : List Byte := bs.take n ++ List.replicate (n - bs.length) 0

/-- Two's complement reading as an integer. -/
def sext (w n : Nat) : Int := signedOf w n

/-- An integer modulo `2^w`. -/
def wrapInt (w : Nat) (i : Int) : Nat := (i % (2 ^ w : Nat)).toNat

/-- A number above its least value: the distance `a − b` modulo `2^16` of free-running indices. -/
def dist16 (a b : Nat) : Nat := (a + 65536 - b % 65536) % 65536

/-- Whether two ranges given by start and length overlap. -/
def overlap (a la b lb : Nat) : Bool := 0 < la && 0 < lb && a < b + lb && b < a + la

/-- The value at a key; `d` gives what an unlisted key reads as. -/
def mapGet {α : Type} (d : Nat → α) : List (Nat × α) → Nat → α
  | [], k => d k
  | (k', v) :: r, k => if k' = k then v else mapGet d r k

/-- The map with a value stored at a key. -/
def mapSet {α : Type} [DecidableEq α] (d : Nat → α) : List (Nat × α) → Nat → α → List (Nat × α)
  | [], k, v => if v = d k then [] else [(k, v)]
  | (k', v') :: r, k, v =>
    if k < k' then (if v = d k then (k', v') :: r else (k, v) :: (k', v') :: r)
    else if k = k' then (if v = d k then r else (k, v) :: r)
    else (k', v') :: mapSet d r k v

/-- The canonical form of a sparse map: keys strictly rising, no entry equal to the default. -/
def mapWf {α : Type} [DecidableEq α] (d : Nat → α) : List (Nat × α) → Bool
  | [] => true
  | (k, v) :: r => v ≠ d k && (match r with
      | [] => true
      | (k', _) :: _ => decide (k < k')) && mapWf d r

/-- Consecutive values stored from a key on. -/
def mapSetAll {α : Type} [DecidableEq α] (d : Nat → α) (m : List (Nat × α)) (k : Nat) : List α → List (Nat × α)
  | [] => m
  | v :: vs => mapSetAll d (mapSet d m k v) (k + 1) vs

/-- A sorted list of numbers with one more member. -/
def setInsert : List Nat → Nat → List Nat
  | [], k => [k]
  | k' :: r, k => if k < k' then k :: k' :: r else if k = k' then k' :: r else k' :: setInsert r k

/-- The first element that a test accepts, replaced. -/
def replaceFirst {α : Type} (p : α → Bool) (f : α → α) : List α → List α
  | [] => []
  | x :: xs => if p x then f x :: xs else x :: replaceFirst p f xs

/-- The list without the first element that a test accepts. -/
def dropFirst {α : Type} (p : α → Bool) : List α → List α
  | [] => []
  | x :: xs => if p x then xs else x :: dropFirst p xs

/-- The element at an index replaced. -/
def setAt {α : Type} (xs : List α) (i : Nat) (f : α → α) : List α := xs.modify i f

/-- A list cut at 4 KiB blocks and, within them, at `step`-byte boundaries: the pieces `(start, length)`
of a range, at most `fuel` of them. -/
def piecesOf (step : Nat) : Nat → Nat → Nat → List (Nat × Nat)
  | 0, _, _ => []
  | fuel + 1, a, len =>
    if len = 0 then []
    else
      let n := min len (step - a % step)
      (a, n) :: piecesOf step fuel (a + n) (len - n)

end Sys2Proof.Machine
end

