-- ==== Sys2Proof/Machine/Chip.lean ====
section
/-! DEFINITION. Free values, register words, the address space with its checks, backed regions, and the
chip memory port: its channels, credits and requests (R361 to R372). -/
namespace Sys2Proof.Machine

/-! Free values (R9; assumption 4). -/

/-- The number of the next free value, and the state with `n` of them drawn. -/
def draw (s : State) (n : Nat) : Nat × State := (s.freeCtr, { s with freeCtr := s.freeCtr + n })

/-- `n` undefined bytes. -/
def drawBytes (s : State) (n : Nat) : List Byte × State :=
  let r := draw s n
  ((List.range n).map fun i => Config.freeByte (r.1 + i), r.2)

/-- A new handle. -/
def newId (s : State) : Nat × State := (s.nextId, { s with nextId := s.nextId + 1 })

/-! Registers, by window-relative offset. -/

/-- The word a register holds. -/
def regGet (s : State) (off : Nat) : Nat := (mapGet regReset s.regs off).toNat

/-- A register's word replaced; its parity is written with it (R320). -/
def regPut (s : State) (off v : Nat) : State :=
  { s with regs := mapSet regReset s.regs off (BitVec.ofNat 32 v), cfgBad := s.cfgBad.erase off }

/-- Bits of a register. -/
def regBits (s : State) (off hi lo : Nat) : Nat := bitsOf hi lo (regGet s off)

/-- Bits of a register replaced. -/
def regPutBits (s : State) (off hi lo v : Nat) : State := regPut s off (setBits hi lo (regGet s off) v)

/-- A count register one higher, stopping at its largest value. -/
def regCount (s : State) (off : Nat) : State := regPut s off (min (regGet s off + 1) 0xFFFFFFFF)

/-- A 64-bit value held in a LO and a HI register. -/
def regPair (s : State) (lo : Nat) : Nat := regGet s lo + 2 ^ 32 * regGet s (lo + 4)

/-- A 64-bit value stored in a LO and a HI register. -/
def regPutPair (s : State) (lo v : Nat) : State :=
  regPut (regPut s lo (v % 2 ^ 32)) (lo + 4) (v / 2 ^ 32 % 2 ^ 32)

/-- The cluster's own identifier (R129, R166, R359). -/
def ownId (s : State) : Nat := regBits s 0x200030 18 0

/-- Whether a source identifier is listed in PRIV_SOURCES (R7, R400). -/
def listedSource (s : State) (src : Nat) : Bool :=
  [0, 1, 2, 3].any fun n =>
    let w := regGet s (0x100010 + 4 * n)
    bitOf 31 w && bitsOf 18 0 w == src

/-! Address space (R164 to R168). -/

/-- Chip memory: bit 63 set. -/
def isChip (a : Nat) : Bool := bitOf 63 a

/-- The cluster identifier of a cluster-space address. -/
def clusterOf (a : Nat) : Nat := bitsOf 58 40 a

/-- The window offset of a cluster-space address. -/
def offsetOf (a : Nat) : Nat := a % 2 ^ 40

/-- A cluster-space address of the own cluster. -/
def isOwn (s : State) (a : Nat) : Bool := !isChip a && bitsOf 62 59 a == 0 && clusterOf a == ownId s

/-- The global address of a window offset of the own cluster. -/
def ownAddr (s : State) (off : Nat) : Nat := ownId s * 2 ^ 40 + off

/-- A table base as DRE_CTX_BASE_HI reads it (R242): a chip memory address or an own window offset. -/
def baseAddr (s : State) (v : Nat) : Nat := if isChip v then v else ownAddr s v

/-- Bytes of near and of deep scratchpad present. -/
def nearSize (s : State) : Nat := s.par.nsMib * 2 ^ 20
@[inherit_doc nearSize] def deepSize (s : State) : Nat := s.par.dsMib * 2 ^ 20

/-- First window offset of deep scratchpad. -/
def deepBase : Nat := 0x0100000000
/-- First window offset of the register window. -/
def regBase : Nat := 0x8000000000
/-- First window offset of the doorbell window. -/
def bellBase : Nat := 0xC000000000

/-- Whether a range lies wholly in near scratchpad. -/
def inNear (s : State) (off len : Nat) : Bool := off + len ≤ nearSize s

/-- Whether a range lies wholly in deep scratchpad. -/
def inDeep (s : State) (off len : Nat) : Bool := deepBase ≤ off && off + len ≤ deepBase + deepSize s

/-- Whether a range lies wholly in near or wholly in deep scratchpad. -/
def inSpm (s : State) (off len : Nat) : Bool := inNear s off len || inDeep s off len

/-- Refusal reasons of SEC_PRT_LAST (R173). -/
def reasonUnmapped : Nat := 1
@[inherit_doc reasonUnmapped] def reasonSize : Nat := 2
@[inherit_doc reasonUnmapped] def reasonNoEntry : Nat := 3
@[inherit_doc reasonUnmapped] def reasonDenied : Nat := 4
@[inherit_doc reasonUnmapped] def reasonHeld : Nat := 5

/-- Bytes of the word an atomic acts on, none for an op and width that R162 does not list. -/
def atomicWidth (op width : Nat) : Option Nat :=
  if op < 7 then
    match width with
    | 0 => some 4
    | 1 => some 8
    | _ => none
  else if op = 7 then
    match width with
    | 0 => some 4
    | 2 => some 2
    | _ => none
  else none

/-- Whether a register offset reads as 64 bits (R167, R394). -/
def isPairLo (rel : Nat) : Bool := (capturePair (regDecode rel)).isSome

/-- The window map's own refusal of an access (R167, R168, R207). -/
def mapRefusal (s : State) (a : Access) : Option Nat :=
  let off := offsetOf a.addr
  if inSpm s off a.len && 0 < a.len then
    if a.len > 4096 || off / 4096 != (off + a.len - 1) / 4096 then some reasonSize
    else if a.kind = .atomic then
      match atomicWidth a.op a.width with
      | some w => if a.len = w && off % w = 0 && a.parts.isEmpty then none else some reasonSize
      | none => some reasonSize
    else none
  else if a.counter.isSome then some reasonUnmapped
  else if regBase ≤ off && off + a.len ≤ regBase + 0xE00000 && 0 < a.len then
    let ok := match a.kind with
      | .read => (a.len == 4 && off % 4 == 0) || (a.len == 8 && off % 8 == 0 && isPairLo (off % regBase))
      | .write => a.len == 4 && off % 4 == 0
      | .atomic => false
    if ok && a.parts.isEmpty then none else some reasonSize
  else if bellBase ≤ off && off + a.len ≤ bellBase + 0x1000 && 0 < a.len then
    if a.kind = .write && a.len = 8 && off % 8 = 0 && a.parts.isEmpty then none else some reasonSize
  else some reasonUnmapped

/-- The protection check of R172 over `n` entries from entry `e` on. -/
def protFrom (s : State) (src addr len : Nat) (kind : AccKind) : Nat → Nat → Option Nat
  | _, 0 => 
    let ctl := regGet s 0x100040
    let b := match kind with
      | .read => 0
      | .write => 1
      | .atomic => 2
    if bitOf b ctl then none else some reasonNoEntry
  | e, n + 1 =>
    let r := 0x102000 + 0x20 * e
    let perm := regGet s (r + 0x18)
    let base := regPair s r / 4096 * 4096
    let top := regPair s (r + 8) / 4096 * 4096 + 0xFFF
    if bitOf 0 perm && base ≤ addr && addr ≤ top
        && ((src ^^^ bitsOf 18 0 (regGet s (r + 0x10))) &&& bitsOf 18 0 (regGet s (r + 0x14))) == 0 then
      if addr + len - 1 > top then some reasonDenied
      else
        let b := match kind with
          | .read => 1
          | .write => 2
          | .atomic => 3
        if bitOf b perm then none else some reasonDenied
    else protFrom s src addr len kind (e + 1) n

/-- The protection check of R172: none grants, otherwise the reason. -/
def protCheck (s : State) (src addr len : Nat) (kind : AccKind) : Option Nat :=
  protFrom s src addr len kind 0 256

/-- The window ranges an access names: all of it, or the runs of its byte mask (R366). -/
def accParts (a : Access) : List (Nat × Nat) := if a.parts.isEmpty then [(offsetOf a.addr, a.len)] else a.parts

/-- The bytes of an access at one of its ranges. -/
def partData (a : Access) (p : Nat × Nat) : List Byte := (a.data.drop (p.1 - offsetOf a.addr)).take p.2

/-- The protection check of an access to the own window: each range it names. -/
def accCheck (s : State) (a : Access) : Option Nat :=
  (accParts a).findSome? fun p => protCheck s a.src (ownAddr s p.1) p.2 a.kind

/-- A refusal is counted and recorded (R173, R176). -/
def noteRefusal (s : State) (outgoing : Bool) (src addr reason : Nat) : State :=
  let s := regCount s 0x100044
  let s := regPut s 0x100048 (src % 2 ^ 19 + 2 ^ 19 * boolBit outgoing + 2 ^ 20 * reason + 2 ^ 31)
  regPutPair s 0x10004C (addr % 2 ^ 64)

/-! Backed regions (R181 to R184). -/

/-- Registers of backed region `n`. -/
def backReg (n k : Nat) : Nat := 0x701000 + 0x20 * n + 4 * k

/-- VALID of a backed region. -/
def backValid (s : State) (n : Nat) : Bool := bitOf 0 (regGet s (backReg n 5))

/-- First window offset, size in bytes and home address of a backed region. -/
def backBase (s : State) (n : Nat) : Nat := regPair s (backReg n 0) % 2 ^ 40 / 4096 * 4096
@[inherit_doc backBase] def backSize (s : State) (n : Nat) : Nat := 4096 * regBits s (backReg n 2) 18 0
@[inherit_doc backBase] def backHome (s : State) (n : Nat) : Nat := regPair s (backReg n 3) / 4096 * 4096

/-- The valid backed regions a range overlaps. -/
def backOver (s : State) (off len : Nat) : List Nat :=
  (List.range 64).filter fun n => backValid s n && overlap (backBase s n) (backSize s n) off len

/-- The valid backed region that holds a byte. -/
def backOf (s : State) (off : Nat) : Option Nat := (backOver s off 1).head?

/-- HOLDERS of a backed region (R184). -/
def holders (s : State) (n : Nat) : Nat := (s.descs.filter fun d => d.holds.contains n).length

/-! Tables of contexts and completion rings in memory (R215 to R217). -/

/-- Address of a ring's context entry and of a completion ring's entry (R215, R216). -/
def ctxAddr (s : State) (r : Nat) : Nat := baseAddr s (regPair s 0x300010 / 64 * 64) + 64 * r
@[inherit_doc ctxAddr] def cqAddr (s : State) (q : Nat) : Nat := baseAddr s (regPair s 0x300020 / 16 * 16) + 16 * q

/-- A ring whose entry was written while it was not DISABLED: its later behaviour is open (R217,
assumption 153). -/
def ringWild (k : Nat) (r : Ring) : Ring :=
  let f (i : Nat) : Nat := (Config.freeWord (k + i)).toNat
  { r with head := f 0 % 65536, tail := f 1 % 65536, seq := f 2 % 2 ^ 32, fetch := f 3 % 65536
           state := 1 + f 4 % 2, overwritten := true }

/-- Whether an access is a write-back of DRE's own (R215 to R217). -/
def byDre (a : Access) : Bool :=
  match a.who with
  | .context _ | .evict => true
  | _ => false

/-- A write at a global address by anyone but DRE that meets the entry of a ring or a completion ring in use (R216,
R217). -/
def entriesWritten (s : State) (addr len : Nat) : State :=
  let ring (r : Ring) : Bool := overlap (ctxAddr s r.ring) 64 addr len
  let cq (q : Cq) : Bool := overlap (cqAddr s q.cq) 16 addr len
  if !s.dre.rings.any ring && !s.dre.cqs.any cq then s
  else
    let k := draw s 5
    { k.2 with dre := { k.2.dre with
      rings := s.dre.rings.map fun r => if ring r then ringWild k.1 r else r
      cqs := s.dre.cqs.map fun q => if cq q then { q with overwritten := true } else q } }

/-! Chip memory channels (R361, R366 to R368). -/

/-- The channel that carries the requests to a line (R367). -/
def chanOf (addr : Nat) : Nat := (bitsOf 9 7 addr) ^^^ (bitsOf 12 10 addr) ^^^ (bitsOf 15 13 addr)

/-- A channel changed. -/
def chanUpd (s : State) (ch : Nat) (f : Chan → Chan) : State :=
  { s with cmp := { s.cmp with chans := setAt s.cmp.chans ch f } }

/-- The lowest tag no outstanding request of a channel uses. -/
def freeTag (s : State) (ch : Nat) : Option Nat :=
  (List.range 4096).find? fun t => !s.cmp.out.any fun o => o.ch == ch && o.tag == t

/-- The first waiting message whose class has a credit; a request needs a tag as well. -/
def pickMsg (c : Chan) (tag : Option Nat) : List (CmpMsg × Option Access) → Option (CmpMsg × Option Access)
  | [] => none
  | (m, a) :: r =>
    if m.response then (if c.rspCredits > 0 then some (m, a) else pickMsg c tag r)
    else if c.reqCredits > 0 && tag.isSome then some (m, a)
    else pickMsg c tag r

/-- Drives the next transfer of a channel when its bundle is idle (R361, R368): a message whose class has
a credit, and at most one credit of each class to return. -/
def cmpPump (s : State) (ch : Nat) : State :=
  match s.cmp.chans[ch]? with
  | none => s
  | some c =>
    if c.txReq != c.txAck then s
    else
      let tag := freeTag s ch
      let pick := pickMsg c tag c.waiting
      if pick.isNone && c.giveReq == 0 && c.giveRsp == 0 then s
      else
        let m := pick.map fun p => if p.1.response then p.1 else { p.1 with tag := tag.getD 0 }
        let isReq := match m with
          | some x => !x.response
          | none => false
        let isRsp := m.isSome && !isReq
        let s := chanUpd s ch fun c => { c with
          waiting := match pick with
            | some p => dropFirst (fun x => x == p) c.waiting
            | none => c.waiting
          reqCredits := c.reqCredits - boolBit isReq
          rspCredits := c.rspCredits - boolBit isRsp
          wire := some (m, c.giveReq > 0, c.giveRsp > 0)
          giveReq := c.giveReq - 1, giveRsp := c.giveRsp - 1, txReq := !c.txReq }
        match pick, m with
        | some (_, some a), some x =>
          if x.response then s else { s with cmp := { s.cmp with out := s.cmp.out ++ [{ ch, tag := x.tag, acc := a }] } }
        | _, _ => s

/-- A message queued on a channel. -/
def cmpQueue (s : State) (ch : Nat) (m : CmpMsg) (a : Option Access) : State :=
  cmpPump (chanUpd s ch fun c => { c with waiting := c.waiting ++ [(m, a)] }) ch

/-- The byte mask of a range within its line (R366). -/
def lineMask (addr len : Nat) : BitVec 128 := BitVec.ofNat 128 ((2 ^ len - 1) * 2 ^ (addr % 128))

/-- Bytes placed at their position in a 128-byte line. -/
def lineData (addr : Nat) (bs : List Byte) : List Byte := padTo 128 (List.replicate (addr % 128) 0 ++ bs)

/-- One request for part of one line (R366). -/
def cmpOne (s : State) (a : Access) : State :=
  let addr := a.addr % 2 ^ 63
  let line := addr / 128 * 128
  let cmpv := toLe a.len a.compare.toNat
  let data := match a.kind with
    | .read => []
    | .write => lineData addr a.data
    | .atomic =>
      let d := lineData addr a.data
      if a.op = 6 then
        let o := (addr % 128) ^^^ 64
        padTo 128 (d.take o ++ cmpv ++ d.drop (o + a.len))
      else d
  let m : CmpMsg := { response := false
                      op := match a.kind with
                        | .read => 0
                        | .write => 1
                        | .atomic => 2
                      tag := 0, addr := line, be := lineMask addr a.len, data := data, atop := a.op, awid := a.width }
  cmpQueue s (chanOf addr) m (some a)

/-- An access to chip memory, one request for each line (R367); answers how many it took. -/
def cmpSend (s : State) (a : Access) : State × Nat :=
  let ps := piecesOf 128 (a.len / 128 + 2) a.addr a.len
  let s := if a.kind = .read || byDre a then s else entriesWritten s a.addr a.len
  let s := ps.foldl (fun s p =>
    cmpOne s { a with addr := p.1, len := p.2, data := (a.data.drop (p.1 - a.addr)).take p.2 }) s
  (s, ps.length)

/-- The home-copy writes of a write to scratchpad (R183): the state with them issued, and their number. -/
def homeWrite (s : State) (off : Nat) (bs : List Byte) (who : Who) : State × Nat :=
  (backOver s off bs.length).foldl (fun (r : State × Nat) n =>
    let lo := max off (backBase s n)
    let hi := min (off + bs.length) (backBase s n + backSize s n)
    let x := cmpSend r.1 { kind := .write, addr := backHome s n + (lo - backBase s n), len := hi - lo
                           data := (bs.drop (lo - off)).take (hi - lo), who := who }
    (x.1, r.2 + x.2)) (s, 0)

end Sys2Proof.Machine
end

