-- ==== Sys2Proof/Machine/Ops.lean ====
section
/-! DEFINITION. The named operations every command is built from: free values, registers, scratchpad with
its parity, address and protection checks, the error log and the stop, configuration generations, counters
and the ends of descriptors. -/
namespace Sys2Proof.Machine

/-! Reset and life. -/

/-- The cluster acts: no reset input is asserted and no stop is in force (R317, R328). -/
def live (s : State) : Bool := !s.boot.por && !s.boot.warm && !s.boot.stopped

/-- The next state of a command that is due only while the cluster acts (assumption 1). -/
def whenLive (s : State) (f : State → State) : State := if live s then f s else s

/-! Scratchpad banks (the table of R169) and log resources (R312). -/

/-- Bank of a window offset: 0 to 63 near, 64 + b deep. -/
def bankOf (off : Nat) : Nat :=
  if off < deepBase then (bitsOf 14 9 off) ^^^ (bitsOf 20 15 off)
  else 64 + ((bitsOf 16 8 (off % deepBase)) ^^^ (bitsOf 25 17 (off % deepBase)))

/-- A log resource of a kind and index. -/
def resource (kind idx : Nat) : Nat := kind * 2 ^ 20 + idx

/-- The log resource of a scratchpad word's bank. -/
def bankResource (off : Nat) : Nat :=
  let b := bankOf off
  if b < 64 then resource 4 b else resource 5 (256 * ((b - 64) % 2) + (b - 64) / 2)

/-- The timing island of a scratchpad bank (R292). -/
def bankIsland (b : Nat) : Nat := if b < 64 then 84 + b / 16 else 88 + (b - 64) % 2

/-- An access ends the retention of the bank groups it reaches (R294). -/
def wakeBanks (s : State) (off len : Nat) : State :=
  if s.power.retained.isEmpty then s
  else
    let is' := (List.range (len / 256 + 2)).map fun i => bankIsland (bankOf (min (off + 256 * i) (off + len - 1)))
    { s with power := { s.power with retained := s.power.retained.filter fun i => !is'.contains i } }

/-! Scratchpad contents and parity (R179, R180). -/

/-- What a scratchpad byte nothing has written reads as: zero (R179), or anything after a stop that lost
the contents (R317). -/
def spmDefault (lost : Option Nat) (off : Nat) : Byte :=
  match lost with
  | none => 0
  | some k => Config.freeByte (k + off)

/-- One byte of scratchpad. -/
def spmByte (s : State) (off : Nat) : Byte := mapGet (spmDefault s.spmLost) s.spm off

/-- Bytes of scratchpad, parity aside. -/
def spmBytes (s : State) (off len : Nat) : List Byte := (List.range len).map fun i => spmByte s (off + i)

/-- The first word of bad parity in a range. -/
def spmBadIn (s : State) (off len : Nat) : Option Nat :=
  s.spmBad.find? fun w => overlap w 4 off len

/-- The words of a range written in full. -/
def fullWords (off len : Nat) : List Nat :=
  let a := (off + 3) / 4
  let b := (off + len) / 4
  (List.range (b - a)).map fun i => 4 * (a + i)

/-- The retained planes loaded from a range that is written are cleared, and no others (R61; DESIGN CHOICE, assumption 162). -/
def clearPlanes (s : State) (off len : Nat) : State :=
  let a := ownAddr s off
  let hits (p : Plane) : Bool :=
    overlap p.range.1 p.range.2 a len || overlap p.sRange.1 p.sRange.2 a len
  { s with mxe := { s.mxe with planes := s.mxe.planes.filter fun p => !(p.retained && hits p) } }

/-- Bytes put in scratchpad with their parity: a word written in full loses an earlier error, a word written in
part keeps it (R179). -/
def spmPut (s : State) (off : Nat) (bs : List Byte) : State :=
  let full := fullWords off bs.length
  clearPlanes { s with spm := mapSetAll (spmDefault s.spmLost) s.spm off bs
                       spmBad := s.spmBad.filter fun w => !full.contains w } off bs.length

/-- Bytes stored in scratchpad, where an armed injection takes place (R180). -/
def spmStore (s : State) (off : Nat) (bs : List Byte) : State :=
  let s := spmPut s off bs
  match s.inject with
  | some w =>
    if overlap w 4 off bs.length then
      let s := { s with spmBad := setInsert s.spmBad w, inject := none }
      regPutBits s 0x700200 0 0 0
    else s
  | none => s

/-- A descriptor in flight by its handle. -/
def descGet (s : State) (d : Nat) : Option Desc := s.descs.find? fun x => x.id == d

/-- A descriptor in flight changed. -/
def descUpd (s : State) (d : Nat) (f : Desc → Desc) : State :=
  { s with descs := replaceFirst (fun x => x.id == d) f s.descs }

/-- A write touches operands of the other running descriptors (R62, R94, R122, R263), is among the writes
of its own (R323), and spoils a save area (R156). -/
def noteWrite (s : State) (owner : Option Nat) (off len : Nat) : State :=
  let area (g : Group) : Group :=
    if g.state == 3 && overlap g.saved.1 g.saved.2 off len then { g with saveWild := true } else g
  { s with
    groups := s.groups.map area
    descs := s.descs.map fun d =>
      if some d.id == owner then { d with wrote := d.wrote ++ [(off, len)] }
      else if d.phase = .running || d.phase = .replaying then { d with clobbered := d.clobbered ++ [(off, len)] }
      else d }

/-- A scratchpad write on behalf of a descriptor, or of nobody. -/
def spmWrite (s : State) (owner : Option Nat) (off : Nat) (bs : List Byte) : State :=
  noteWrite (spmStore s off bs) owner off bs.length

/-- The banks that a range lies in, granule by granule (R169). -/
def banksOf (off len : Nat) : List Nat :=
  if len = 0 then []
  else (List.range (min ((off + len - 1) / 256 - off / 256 + 1) 1025)).map fun i => bankOf (off / 256 * 256 + 256 * i)

/-- The banks that an access reaches. -/
def accBanks (a : Access) : List Nat := (accParts a).flatMap fun p => banksOf p.1 p.2

/-- A bank serves its requests oldest first (R170): those of a queue that go before what comes for some banks, and the
rest.  A request for several banks goes before it when it is older at one of them, and draws along what is older at the
others. -/
def queueAhead (banks : List Nat) (rs : List BankReq) : List BankReq × List BankReq :=
  let r := rs.foldr (fun (q : BankReq) (acc : List Nat × List BankReq × List BankReq) =>
    let bs := accBanks q.acc
    if bs.any acc.1.contains then (bs ++ acc.1, q :: acc.2.1, acc.2.2) else (acc.1, acc.2.1, q :: acc.2.2)) (banks, [], [])
  r.2

/-- An access arrives at XBR and waits at its banks; a write clears the retained planes of its range there (R61, R170). -/
def bankQueue (s : State) (a : Access) : State :=
  let s := if a.kind = .read then s else clearPlanes s (offsetOf a.addr) a.len
  { s with xbr := s.xbr ++ [{ bank := bankOf (offsetOf a.addr), acc := a }] }

/-! Refetches under way (R186) and the write-through of backed ranges (R183). -/

/-- The block of a window offset. -/
def blockOf (off : Nat) : Nat := off / 4096 * 4096

/-- Whether a range lies in a block under refetch. -/
def refetching (s : State) (off len : Nat) : Option Nat :=
  (s.refetch.find? fun r => overlap r.block 4096 off len).map (·.block)

/-- An access joins the accesses that wait for a refetch. -/
def waitRefetch (s : State) (block : Nat) (a : Access) : State :=
  let join (r : Refetch) : Refetch := { r with waiters := r.waiters ++ [a] }
  { s with refetch := replaceFirst (fun r => r.block == block) join s.refetch }

/-- The home copies of what a write has stored, and whether there are none to await. -/
def writeThrough (s : State) (a : Access) (runs : List (Nat × List Byte)) (count : Option (Nat × Nat))
    (old : List Byte) : State × Bool :=
  if runs.all fun r => (backOver s r.1 r.2.length).isEmpty then (s, true)
  else
    let n := newId s
    let h := runs.foldl (fun (h : State × Nat) r =>
      let x := homeWrite h.1 r.1 r.2 (.through n.1)
      (x.1, h.2 + x.2)) (n.2, 0)
    ({ h.1 with throughs := h.1.throughs ++
      [{ key := n.1, acc := a, ranges := runs.map fun r => (r.1, r.2.length), count, old, left := h.2 }] }, false)

/-- Bytes that stand for undefined ones take their place (R9); a backed byte's two copies stay equal (R323), and a
refetch that is under way restores nothing there.  They are no write: an armed injection waits on. -/
def wildStore (s : State) (off : Nat) (bs : List Byte) : State :=
  let note (x : Refetch) : Refetch :=
    if overlap x.block 4096 off bs.length then { x with fresh := x.fresh ++ [(off, bs.length)] } else x
  let s := spmPut { s with refetch := s.refetch.map note } off bs
  (writeThrough s { kind := .write, addr := ownAddr s off, len := bs.length } [(off, bs)] none []).1

/-- A scratchpad range made undefined (R9). -/
def spmHavoc (s : State) (off len : Nat) : State :=
  let r := drawBytes s len
  wildStore r.2 off r.1

/-- Ranges without the bytes of one range. -/
def rangesLess (rs : List (Nat × Nat)) (c : Nat × Nat) : List (Nat × Nat) :=
  let cut (r : Nat × Nat) : List (Nat × Nat) :=
    let hi := max r.1 (c.1 + c.2)
    [(r.1, min (r.1 + r.2) c.1 - r.1), (hi, r.1 + r.2 - hi)]
  (rs.map cut).flatten.filter fun r => r.2 != 0

/-- A range of the own scratchpad made undefined, but for what a hold keeps intact (R184, R190); what lies elsewhere is not
the cluster's to change. -/
def rangeHavoc (s : State) (r : Nat × Nat) : State :=
  if r.2 ≠ 0 && isOwn s r.1 && inSpm s (offsetOf r.1) r.2 then
    let held := (backOver s (offsetOf r.1) r.2).filter fun n => holders s n > 0
    ((held.map fun n => (backBase s n, backSize s n)).foldl rangesLess [(offsetOf r.1, r.2)]).foldl (fun s w =>
      spmHavoc s w.1 w.2) s
  else s

/-! The active route bank (R284, R285). -/

/-- The active bank, which is also the epoch of new packets (R284). -/
def activeBank (s : State) : Nat := regBits s 0x900024 0 0

/-- Whether words of the active bank lie in a range of the scratchpad. -/
def routesAt (s : State) (off len : Nat) : Bool :=
  let b := regPair s (0x900010 + 8 * activeBank s) / 4096 * 4096
  b != 0 && !isChip b && overlap (b % 2 ^ 40) (4 * 2 ^ s.par.routeLog2) off len

/-- A write that meets the active bank in scratchpad: where the packets of its entries go is open (R285,
assumption 154). -/
def routeWritten (s : State) (off len : Nat) : State :=
  if !routesAt s off len then s
  else
    let k := draw s len
    { k.2 with fep := { k.2.fep with wild := k.2.fep.wild ++ [(off, len, k.1)] } }

/-- The stores of one write, scratchpad first, then the home copies of backed ranges; whether it is complete
at once. -/
def storeRuns (s : State) (owner : Option Nat) (a : Access) (runs : List (Nat × List Byte))
    (count : Option (Nat × Nat)) (old : List Byte) : State × Bool :=
  let s := runs.foldl (fun s r =>
    let s := spmWrite (wakeBanks s r.1 r.2.length) owner r.1 r.2
    if byDre a then s else routeWritten (entriesWritten s (ownAddr s r.1) r.2.length) r.1 r.2.length) s
  writeThrough s a runs count old

/-! Ordered regions (R209 to R213). -/

/-- Registers of ordered region `n` (R209). -/
def ordReg (n k : Nat) : Nat := 0x903000 + 0x20 * n + 4 * k

/-- ARM and CLOSED of an ordered region. -/
def ordArm (s : State) (n : Nat) : Bool := bitOf 0 (regGet s (ordReg n 4))
@[inherit_doc ordArm] def ordClosed (s : State) (n : Nat) : Bool := bitOf 3 (regGet s (ordReg n 4))

/-- The round of an ordered region. -/
def ordRound (s : State) (n : Nat) : Option OrdRound := s.ord.find? fun r => r.region == n

/-- An ordered region's target and its slot area: window offset and length (R209). -/
def ordTarget (s : State) (n : Nat) : Nat × Nat :=
  let fmt := bitOf 1 (regGet s (ordReg n 4))
  (regPair s (ordReg n 0) % 2 ^ 40 / 2 * 2, regBits s (ordReg n 2) 20 0 * (if fmt then 2 else 4))
@[inherit_doc ordTarget] def ordSlots (s : State) (n : Nat) : Nat × Nat :=
  (regBits s (ordReg n 3) 26 7 * 128, regBits s (ordReg n 4) 10 4 * regBits s (ordReg n 2) 20 0 * 4)

/-- The region with ARM or CLOSED set whose target or slot area a range overlaps (R213). -/
def ordOver (s : State) (off len : Nat) : Option Nat :=
  (List.range 16).find? fun n => (ordArm s n || ordClosed s n)
    && (overlap (ordTarget s n).1 (ordTarget s n).2 off len || overlap (ordSlots s n).1 (ordSlots s n).2 off len)

/-- Whether a hold (R184) keeps writes out of a range. -/
def heldOver (s : State) (off len : Nat) : Bool := (backOver s off len).any fun n => holders s n > 0

/-- A write by one of the cluster's own units that no requester waits on: it waits for a refetch, and a hold
or an ordered region keeps it out (R184, R186, R213). -/
def unitStore (s : State) (off : Nat) (bs : List Byte) : State :=
  let a : Access := { kind := .write, addr := ownAddr s off, len := bs.length, data := bs, steward := true, src := ownId s }
  if heldOver s off bs.length || (ordOver s off bs.length).isSome then noteRefusal s true (ownId s) a.addr reasonHeld
  else match refetching s off bs.length with
    | some b => waitRefetch s b a
    | none => (storeRuns s none a [(off, bs)] none []).1

/-! The error log (R311 to R317). -/

/-- What a source reports to EEU (R310, R312). -/
structure ErrRec where
  code : Nat
  cls : Nat
  internal : Bool := false
  resource : Nat := 0
  unit : Nat := 0
  ring : Nat := 0
  seq : Nat := 0
  status : Nat := 0
  addr : Nat := 0
  info0 : Nat := 0
  info1 : Nat := 0
deriving DecidableEq, Repr

/-- The subsystem of a register block, in the order of the block map (R409). -/
def blockUnit (b : Nat) : Nat :=
  ([21, 21, 21, 2, 5, 9, 3, 12, 16, 17, 18, 19, 20, 21][b]?).getD 21

/-- LOG.UNIT of a record (R409). -/
def errUnit (e : ErrRec) : Nat :=
  match e.resource / 2 ^ 20 with
  | 0 => e.unit
  | 1 => 5 | 2 => 9 | 3 => 3 | 4 => 12 | 5 => 13 | 6 => 17 | 7 => 15
  | 8 => blockUnit (e.resource % 2 ^ 20)
  | 9 => 1 | 10 => 2
  | _ => 19

/-- Stage 8: nothing is written to EEU (R331). -/
def eeuShut (s : State) : Bool := regBits s 0x200010 3 0 == 8

/-- An event bit is set (R325). -/
def setEvent (s : State) (b : Nat) : State := regPutBits s 0xC00040 b b 1

/-- EEU_LOG_IDX.WIDX and RIDX. -/
def logW (s : State) : Nat := regBits s 0xC00014 15 0
@[inherit_doc logW] def logR (s : State) : Nat := regBits s 0xC00014 31 16

/-- The class of an open entry. -/
def openClass (es : List OpenEntry) (i : Nat) : Nat :=
  match es.find? fun e => e.index == i with
  | some e => e.cls
  | none => 0

/-- The undelivered entry that R314 chooses: highest class, then oldest. -/
def pickEntry : List OpenEntry → Option OpenEntry
  | [] => none
  | e :: es =>
    match pickEntry es with
    | some b => if !e.delivered && b.cls ≤ e.cls then some e else some b
    | none => if e.delivered then none else some e

/-- The status registers that follow from the open entries: RIDX, EEU_ERR_STATUS and EEU_ERR_NEXT. -/
def eeuStatus (s : State) : State :=
  let es := s.errors.opens
  let r := match es with
    | e :: _ => e.index
    | [] => logW s
  let s := regPutBits s 0xC00014 31 16 r
  let cur := match s.errors.nest with
    | i :: _ => openClass es i
    | [] => 0
  let n := es.length
  let s := regPut s 0xC00018 (boolBit (n != 0) + 2 * cur + 16 * min s.errors.nest.length 4 + 256 * n)
  let idx := regBits s 0xC0001C 15 0
  regPutBits s 0xC0001C 16 16 (boolBit (s.errors.nest.contains idx))

/-- Delivers the entry R314 chooses, when its class exceeds that of every entry being handled. -/
def deliverEntry (s : State) : State :=
  match pickEntry s.errors.opens with
  | some e =>
    if s.errors.nest.all fun i => openClass s.errors.opens i < e.cls then
      let s := { s with errors := { s.errors with
        opens := s.errors.opens.map fun x => if x.index == e.index then { x with delivered := true } else x
        nest := e.index :: s.errors.nest } }
      eeuStatus (regPutBits s 0xC0001C 15 0 e.index)
    else eeuStatus s
  | none => eeuStatus s

/-- The 64 bytes of an entry (R312). -/
def logBytes (osc widx : Nat) (e : ErrRec) (cls : Nat) (esc : Bool) (supp : Nat) : List Byte :=
  toLe 2 e.code
    ++ toLe 1 (cls + 8 * boolBit esc + 16 * boolBit (widx / 256 % 2 == 0)) ++ toLe 1 (errUnit e)
    ++ toLe 4 e.resource ++ toLe 8 osc ++ toLe 4 e.ring ++ toLe 4 e.seq ++ toLe 2 e.status
    ++ toLe 2 (min supp 0xFFFF) ++ toLe 4 0 ++ toLe 8 e.addr ++ toLe 8 e.info0 ++ toLe 8 e.info1 ++ toLe 8 0

/-- Writes an entry, or loses it when the log is full (R311, R315). -/
def writeEntry (s : State) (e : ErrRec) (cls : Nat) (esc : Bool) (supp : Nat) : State × Bool :=
  let w := logW s
  if dist16 w (logR s) ≥ 256 then
    let s := regCount s 0xC00024
    let s := regPut s 0xC00028 (e.code + 2 ^ 16 * cls + 2 ^ 31)
    (setEvent s 4, false)
  else
    let base := regGet s 0xC00010 % 2 ^ 27 / 64 * 64
    let s := unitStore s (base + 64 * (w % 256)) (logBytes s.osc w e cls esc supp)
    let s := regPutBits s 0xC00014 15 0 ((w + 1) % 65536)
    let s := { s with errors := { s.errors with opens := s.errors.opens ++
      [{ index := w, cls := cls, delivered := false, resource := e.resource, addr := BitVec.ofNat 64 e.addr }] } }
    (deliverEntry s, true)

/-- EEU_FATAL0 to 3 take the first error that stops the cluster (R316). -/
def writeFatal (s : State) (e : ErrRec) (cls : Nat) (esc : Bool) : State :=
  if bitOf 31 (regGet s 0xC00030) then s
  else
    let s := regPut s 0xC00030 (e.code + 2 ^ 16 * cls + 2 ^ 19 * boolBit esc + 2 ^ 20 * errUnit e + 2 ^ 31)
    let s := regPut s 0xC00034 e.resource
    regPutPair s 0xC00038 e.addr

/-- FEP holds all four links down (R317, R331). -/
def linksDown (s : State) : State :=
  let s := [0, 1, 2, 3].foldl (fun s p => regPutBits s (0x900100 + 4 * p) 0 0 0) s
  { s with fep := { s.fep with ports := s.fep.ports.map fun _ => {} } }

/-- A cluster-fatal stop (R317); SUPPLY_FAULT loses the scratchpad. -/
def stopCluster (s : State) (supply : Bool) : State :=
  let s := if eeuShut s then s else setEvent s 2
  let s := if supply then
      let r := draw s (2 ^ 40)
      { r.2 with spm := [], spmBad := [], spmLost := some r.1 }
    else s
  let s := linksDown s
  -- nothing more leaves but answers, and every bank group is in retention
  { s with boot := { s.boot with stopped := true }
           cmp := { s.cmp with chans := s.cmp.chans.map fun c => { c with waiting := c.waiting.filter fun m => m.1.response } }
           power := { s.power with retained := [84, 85, 86, 87, 88, 89] } }

/-- Counts a corrected error toward its window, its resource's count and its event (R313, R325, R408). -/
def countCorrected (s : State) (res : Nat) : State :=
  let no := s.osc / 2 ^ 30
  let n := (if s.errors.windowNo = no then s.errors.window else 0) + 1
  let s := { s with errors := { s.errors with window := n, windowNo := no } }
  let th := regBits s 0xC00050 31 16
  let s := if th ≠ 0 ∧ n = th then setEvent s 0 else s
  let idx := res % 2 ^ 20
  let key := match res / 2 ^ 20 with
    | 4 => some (4 * idx)
    | 5 => some (0x100 + 4 * idx)
    | 6 => some (0x900 + 4 * idx)
    | 7 => some (0x910 + 4 * idx)
    | _ => none
  match key with
  | some k =>
    let v := (mapGet (fun _ => (0 : Word)) s.corr k).toNat
    { s with corr := mapSet (fun _ => 0) s.corr k (BitVec.ofNat 32 (min (v + 1) 0xFFFFFFFF)) }
  | none => s

/-- Suppression record of a code and resource: count of the last entry, errors not logged since (R313). -/
def suppOf (s : State) (k : Nat × Nat) : Option Nat × Nat :=
  ((s.errors.supp.find? fun x => x.1 == k).map (·.2)).getD (none, 0)

/-- The suppression record replaced. -/
def suppPut (s : State) (k : Nat × Nat) (v : Option Nat × Nat) : State :=
  { s with errors := { s.errors with supp := (k, v) :: dropFirst (fun x => x.1 == k) s.errors.supp } }

/-- EEU takes an error (R309 to R317).  In stage 8 it writes nothing, and an error that stops the cluster stops it
(R331; DEDUCED, assumption 169). -/
def raiseErr (s : State) (e : ErrRec) : State :=
  if eeuShut s then
    if s.boot.stopped then s
    else if e.cls = 3 || e.code = 0x0401 then stopCluster s (e.code == 0x0401)
    else s
  else if s.boot.stopped then (if e.cls = 4 then setEvent s 3 else s)
  else
    match e.cls with
    | 1 =>
      let s := countCorrected s e.resource
      let k := (e.code, e.resource)
      let gap := 1000 * regBits s 0xC00050 15 0
      let last := suppOf s k
      if last.1.any fun t => s.osc < t + gap then suppPut s k (last.1, last.2 + 1)
      else
        let r := writeEntry s e 1 false last.2
        if r.2 then suppPut r.1 k (some s.osc, 0) else suppPut r.1 k (last.1, last.2 + 1)
    | 2 =>
      let esc := e.internal && s.errors.opens.any fun o =>
        o.cls == 2 && o.resource == e.resource && o.addr != BitVec.ofNat 64 e.addr
      if esc then
        let s := (writeEntry s e 3 true 0).1
        stopCluster (writeFatal s e 3 true) false
      else setEvent (writeEntry s e 2 false 0).1 1
    | 3 => stopCluster (writeFatal (writeEntry s e 3 false 0).1 e 3 false) false
    | _ =>
      let s := setEvent (writeEntry s e 4 false 0).1 3
      if e.code = 0x0401 then stopCluster (writeFatal s e 4 false) true else s

/-! Configuration parity (R320). -/

/-- CONFIG_PARITY at a register, or at a word that IND reaches (R320). -/
def raiseCfgParity (s : State) (off : Nat) : State :=
  let ind := 2 ^ 24 ≤ off
  raiseErr s { code := 0x0301, cls := 3, internal := true
               resource := resource 8 (if ind then 13 else off / 0x100000)
               info0 := if ind then off % 2 ^ 24 else off % 0x100000 }

/-! Descriptors: their fields, generations and ends. -/

/-- A field of a descriptor (R227 to R233). -/
def dfield (d : Desc) (off len : Nat) : Nat := fieldAt d.bytes off len

/-- Bits of a field of a descriptor. -/
def dbits (d : Desc) (off len hi lo : Nat) : Nat := bitsOf hi lo (fieldAt d.bytes off len)

/-- DESC.op as a trusted op byte. -/
def dop (d : Desc) : Nat := if d.noOp then 0 else dfield d 0 1

/-- Whether a launch's group holds a quad. -/
def groupHasQuad (s : State) (g : Nat) : Bool :=
  match s.groups[g]? with
  | some x => x.quad.isSome
  | none => false

/-- Whether a descriptor is bound to a generation now (R322). -/
def boundTo (s : State) (d : Desc) (gen : Nat) : Bool :=
  let own := match dop d with
    | 0x01 | 0x02 => [0]
    | 0x10 | 0x11 => [0, 1, 4] ++ (if d.remote then [6] else [])
    | 0x20 => [0, 2, 4]
    | 0x30 => [0, 5, 4] ++ (if d.remote then [6] else [])
    | 0x40 => [0, 7, 6, 4]
    | 0x50 => [0, 3] ++ (match d.engine with
        | .launch g => if groupHasQuad s g then [1] else []
        | _ => [])
    | _ => [0]
  let by' := match d.issue with
    | some i => [0, 3] ++ (if groupHasQuad s i.group then [1] else [])
    | none => []
  (own ++ by').contains gen

/-- Whether a descriptor stands in its bound span: validated and not ended (R322). -/
def inSpan (s : State) (d : Desc) : Bool :=
  match d.phase with
  | .ready | .replaying => true
  -- its validation has begun and awaits a read
  | .fetched => s.gathers.any (fun g => g.owner == d.id) || s.refetch.any fun r => r.pollers.contains d.id
  | .running =>
    match d.engine with
    | .launch g => match s.groups[g]? with
      | some x => (match x.launch with
        | some l => l.fate.isNone
        | none => true)
      | none => true
    | _ => true
  | _ => false

/-- The generations advance and disturb the descriptors bound to them (R321, R322). -/
def bumpGens (s : State) (gs : List Nat) : State :=
  let s1 := { s with gens := gs.foldl (fun l g => setAt l g (· + 1)) s.gens }
  { s1 with
    mxe := if gs.contains 1 then { s.mxe with planes := s.mxe.planes.filter fun p => !p.retained } else s.mxe
    descs := s.descs.map fun d =>
      if !inSpan s d then d
      else { d with
        disturbed := d.disturbed || gs.any (boundTo s d)
        fepMoved := d.fepMoved || (d.phase == .fetched && gs.contains 6) } }

/-! Power and islands (R294, R298). -/

/-- PTM_STEP.STEP, in units of 1/16 W in a control period. -/
def stepLimit (s : State) : Nat := regBits s 0xB00018 5 0

/-- PTM admits one more rise of power: what it has admitted before is spread to within STEP (R298,
assumption 156). -/
def admitted (s : State) : Bool := s.power.debt < stepLimit s

/-- A rise of power is admitted; its predicted amount is open (assumption 12). -/
def risePower (s : State) : State :=
  let k := draw s 1
  { k.2 with power := { k.2.power with debt := k.2.power.debt + Config.predictedRise k.1 } }

/-- Work needs islands: once PTM admits it, the gated ones among them begin to wake; none when every one is awake
(R294, R298). -/
def wakeFor (s : State) (is' : List Nat) : Option State :=
  if is'.all fun i => !s.power.gated.contains i && !s.power.waking.contains i then none
  else if is'.all fun i => !s.power.gated.contains i then some s
  else if !admitted s then some s
  else some <| risePower { s with power := { s.power with
    gated := s.power.gated.filter fun i => !is'.contains i
    waking := (s.power.gated.filter fun i => is'.contains i).foldl setInsert s.power.waking } }

/-- The subsystem that runs a descriptor (R409). -/
def descUnit (d : Desc) : Nat :=
  if d.rejected || d.noOp then 2
  else match dop d with
    | 0x10 | 0x11 => 5
    | 0x20 => 9
    | 0x30 => 16
    | 0x40 => 18
    | 0x50 => 3
    | _ => 2

/-- Statuses of R239. -/
def stDescInvalid : Nat := 0x0001
@[inherit_doc stDescInvalid] def stParamRange : Nat := 0x0002
@[inherit_doc stDescInvalid] def stShapeInvalid : Nat := 0x0003
@[inherit_doc stDescInvalid] def stFormatInvalid : Nat := 0x0004
@[inherit_doc stDescInvalid] def stChainInvalid : Nat := 0x0005
@[inherit_doc stDescInvalid] def stHoldOverflow : Nat := 0x0006
@[inherit_doc stDescInvalid] def stCountInvalid : Nat := 0x0007
@[inherit_doc stDescInvalid] def stNoFirmware : Nat := 0x0008
@[inherit_doc stDescInvalid] def stAccessRefused : Nat := 0x0010
@[inherit_doc stDescInvalid] def stRangeHeld : Nat := 0x0011
@[inherit_doc stDescInvalid] def stDataParity : Nat := 0x0012
@[inherit_doc stDescInvalid] def stUnreachable : Nat := 0x0013
@[inherit_doc stDescInvalid] def stNanTrap : Nat := 0x0014
@[inherit_doc stDescInvalid] def stGatherRange : Nat := 0x0015
@[inherit_doc stDescInvalid] def stDisturbed : Nat := 0x0016
@[inherit_doc stDescInvalid] def stWaitTimeout : Nat := 0x0017
@[inherit_doc stDescInvalid] def stAborted : Nat := 0x0018

/-- The status a refusal reason gives a descriptor (R176, R189). -/
def statusOfReason (r : Nat) : Nat := if r = reasonHeld then stRangeHeld else stAccessRefused

/-- A descriptor that ends takes its status (R322 decides CONFIG_DISTURBED), and a failure is logged
before its record (R310, R311). -/
def endDesc (s : State) (d : Nat) (status : Nat) (det : Detail) : State :=
  match descGet s d with
  | none => s
  | some x =>
    if x.phase = .finished then s
    else
      let st := if x.disturbed && !x.rejected then stDisturbed else status
      let x' := { x with phase := .finished, status := st, detail := det, waitBlock := none }
      let s := descUpd s d fun _ => x'
      let s := { s with gathers := s.gathers.filter fun g => g.owner != d }
      let rejectLogged := !x.rejected || bitOf 1 (regGet s 0xC00000)
      if st = 0 || !rejectLogged then s
      else
        let internal := st == stDataParity && det.resource != 0
        raiseErr s { code := 0x0201, cls := 2, internal := internal
                     resource := if st = stDataParity then det.resource else 0
                     unit := descUnit x', ring := x.ring, seq := x.seq, status := st, addr := det.addr.toNat
                     info0 := det.info0.toNat, info1 := if det.info1 = 0 then dop x' else det.info1.toNat }

/-- A descriptor rejected at validation (R239, R240). -/
def rejectDesc (s : State) (d : Nat) (status : Nat) (det : Detail) : State :=
  endDesc (descUpd s d fun x => { x with rejected := true }) d status det

/-! Arrival counters (R195 to R199). -/

/-- A counter's value. -/
def counterGet (s : State) (c : Nat) : Dword := mapGet (fun _ => (0 : Dword)) s.counters c

/-- The condition of R159 and R231: the signed distance to the target is zero or greater. -/
def reached (v target : Dword) : Bool := !(v - target).msb

/-- A pending WAIT on a counter completes when its condition holds (R231). -/
def testWaits (s : State) (c : Nat) : State :=
  let hit := s.descs.filter fun d => (match d.engine with
      | .wait _ => d.phase == .running
      | _ => false) && dbits d 32 2 11 0 == c && reached (counterGet s c) (BitVec.ofNat 64 (dfield d 40 8))
  hit.foldl (fun s d =>
    endDesc (descUpd s d.id fun x => { x with body := toLe 8 (counterGet s c).toNat }) d.id 0 {}) s

/-- Rounds whose COUNTER has advanced far enough close (R211). -/
def closeRounds (s : State) (c : Nat) : State :=
  (List.range 16).foldl (fun s n =>
    if ordArm s n && !ordClosed s n && regBits s (ordReg n 5) 11 0 == c then
      match ordRound s n with
      | some r =>
        if (counterGet s c - r.base).toNat ≥ regGet s (ordReg n 6) then regPutBits s (ordReg n 4) 3 3 1 else s
      | none => s
    else s) s

/-- A counter set to a value: the waits test it, and the rounds that count it may close. -/
def counterSet (s : State) (c : Nat) (v : Dword) : State :=
  closeRounds (testWaits { s with counters := mapSet (fun _ => 0) s.counters c v } c) c

/-- An advance (R195). -/
def counterAdvance (s : State) (c amount : Nat) : State :=
  counterSet s c (counterGet s c + BitVec.ofNat 64 amount)

end Sys2Proof.Machine
end

