-- ==== Sys2Proof/Machine/Fep.lean ====
section
/-! DEFINITION. The fabric endpoint's sending side (R268 to R280): routes, packets and flits, rate control, ports,
the queues, and the answers to agents and packets (R278, R370); and the start of a refetch (R186), which a lookup of
a backed route bank may need. -/
namespace Sys2Proof.Machine

/-! Routes (R274, R275). -/

/-- First multicast identifier (R275). -/
def mcastBase : Nat := 393216

/-- What a route lookup answers: egress ports, path and rate-control group; no valid entry; or an entry
that must be read from memory first. -/
inductive Route where
  | entry (ports : List Nat) (path rcg : Nat)
  | invalid
  | later
deriving DecidableEq, Repr

/-- A route-table entry read for an identifier (R274, R275). -/
def routeEntry (dest w : Nat) : Route :=
  let ports := [0, 1, 2, 3].filter fun p => bitOf (p + 1) w
  if !bitOf 0 w || bitsOf 7 5 w != 0 || bitsOf 31 26 w != 0 then .invalid
  else if dest < mcastBase && ports.length != 1 then .invalid
  else if ports.isEmpty then .invalid
  else .entry ports (bitsOf 15 8 w) (bitsOf 25 16 w)

/-- The address of an entry of the active bank; none for the default bank. -/
def routeAddr (s : State) (dest : Nat) : Option Nat :=
  let b := regPair s (0x900010 + 8 * activeBank s)
  if b = 0 then none else some (baseAddr s (b / 4096 * 4096) + 4 * dest)

/-- The lookup of R273 and R274.  An entry over which an ordered region stands cannot be read (R213), and counts as
invalid (DEDUCED, assumption 170). -/
def routeLookup (s : State) (dest : Nat) : Route :=
  if dest ≥ 2 ^ s.par.routeLog2 then .invalid
  else match routeAddr s dest with
    | none => if dest < mcastBase then .entry [regBits s 0x900020 5 4] 0 0 else .invalid
    | some a =>
      if isChip a then .later
      else
        let off := offsetOf a
        if !inNear s off 4 || (ordOver s off 4).isSome then .invalid
        else match spmBadIn s off 4, s.fep.wild.find? fun w => overlap w.1 w.2.1 off 4 with
          | some _, _ => if (backOf s off).isSome then .later else .invalid
          | none, some w =>
            -- an entry written while its bank was active: an undefined port (R285)
            let v := leNat (spmBytes s off 4)
            .entry [(Config.freeWord (w.2.2 + (off - w.1))).toNat % 4] (bitsOf 15 8 v) (bitsOf 25 16 v)
          | none, none => routeEntry dest (leNat (spmBytes s off 4))

/-! Packets and flits (R268). -/

/-- Packets that carry payload flits. -/
def isData (k : Packet) : Bool :=
  if k.type = 0x05 then k.payload.length > 0
  else if k.type = 0x20 then true
  else k.payload.length > 32

/-- Flits of a packet. -/
def flitCount (k : Packet) : Nat := if isData k then 1 + ceilDiv k.payload.length 256 else 1

/-- Bytes of flit `i` on the wire. -/
def flitBytes (k : Packet) (i : Nat) : Nat :=
  if i = 0 then 64 else ceilDiv (min 256 (k.payload.length - 256 * (i - 1))) 64 * 64

/-- Bytes of a packet on the wire. -/
def wireBytes (k : Packet) : Nat := ((List.range (flitCount k)).map (flitBytes k)).foldl (· + ·) 0

/-- What a packet charges to its group's bucket: a READ pays for its response (R280). -/
def chargeOf (k : Packet) : Nat :=
  if k.type = 0x02 then
    let n := bitsOf 12 0 (leNat k.body)
    if n ≤ 32 then 64 else 64 + ceilDiv n 64 * 64
  else wireBytes k

/-! Rate control (R280). -/

/-- A group's rate: its register, or RMAX while rate control is off. -/
def rateOf (s : State) (g : Nat) : Nat :=
  if bitOf 0 (regGet s 0x900040) then regBits s (0x901000 + 4 * g) 15 0 else regBits s 0x900044 15 0

/-- A group's bucket record. -/
def bucketOf (s : State) (g : Nat) : Bucket :=
  (s.fep.buckets.find? fun b => b.group == g).getD { group := g }

/-- A group's bucket record replaced. -/
def bucketPut (s : State) (b : Bucket) : State :=
  { s with fep := { s.fep with buckets := b :: dropFirst (fun x => x.group == b.group) s.fep.buckets } }

/-- The bucket's level now, in thousandths of a byte. -/
def bucketLevel (s : State) (b : Bucket) : Int :=
  min 4160000 (b.level + ((16 * rateOf s b.group * (s.osc - b.since) : Nat) : Int))

/-- The bucket settled at the present count. -/
def bucketNow (s : State) (g : Nat) : Bucket :=
  let b := bucketOf s g
  { b with level := bucketLevel s b, since := s.osc }

/-- Whether a packet waits for its bucket: REQ and FWD only (R280). -/
def charged (k : Packet) : Bool := k.vc == 0 || k.vc == 2

/-! Ports (R268, R289, R373, R374). -/

/-- A port changed. -/
def portUpd (s : State) (p : Nat) (f : Port → Port) : State :=
  { s with fep := { s.fep with ports := setAt s.fep.ports p f } }

/-- Whether a queued packet's next flit may leave: its channel has a credit, no other packet of its
channel is part sent, and its bucket is not negative when it starts. -/
def mayLeave (s : State) (c : Port) (q : Queued) : Bool :=
  let k := q.packet
  -- R354: at a link-up the identity packet leaves before any other
  let first := match c.queue.head? with
    | some h => h.packet.type == 0x30 && h.packet.body.head? == some 1 && h != q
    | none => false
  !first && ((c.credits[k.vc]?).getD 0 > 0)
    && (match c.queue.find? fun x => x.packet.vc == k.vc && x.sentFlits != 0 with
      | some x => x == q
      | none => true)
    && (q.sentFlits != 0 || !charged k || bucketLevel s (bucketOf s q.rcg) ≥ 0)

/-- A request's timer starts at its transmission (R287). -/
def startTimer (s : State) (tag : Nat) : State :=
  { s with fep := { s.fep with reqs := s.fep.reqs.map fun r => if r.tag == tag then { r with since := s.osc } else r } }

/-- Whether a packet is a request, which holds a tag until it is acknowledged (R273, R276). -/
def isRequest (k : Packet) : Bool := 1 ≤ k.type && k.type ≤ 5

/-- Starts a flit on an idle bundle: a resent one first, else the next flit of a packet that may leave. -/
def startFlit (s : State) (p : Nat) (c : Port) : Option (SentFlit × State) :=
  if !c.up || c.wireLeft != 0 then none
  else match c.resend with
    | n :: rest =>
      match c.sent.find? fun f => f.seq == n with
      | some f =>
        let r := 0x900110 + 4 * p
        some (f, portUpd (regPut s r (min (regGet s r + 1) 0xFFFFFFFF)) p fun c => { c with
          resend := rest, sent := replaceFirst (fun x => x.seq == n) (fun x => { x with resent := x.resent + 1 }) c.sent })
      | none => none
    | [] =>
      let bytes := (c.sent.map fun f => flitBytes f.packet f.index).foldl (· + ·) 0
      if c.sent.length ≥ 512 || bytes ≥ 131072 then none
      else match c.queue.find? (mayLeave s c) with
        | none => none
        | some q =>
          let k := q.packet
          let f : SentFlit := { seq := c.nextSeq, packet := k, index := q.sentFlits, oldEpoch := q.oldEpoch, settled := q.settled }
          let done := q.sentFlits + 1 == flitCount k
          let s := if q.sentFlits = 0 then
              let s := if isRequest k then startTimer s k.tag else s
              if charged k then
                let b := bucketNow s q.rcg
                bucketPut s { b with level := b.level - ((1000 * chargeOf k : Nat) : Int) }
              else s
            else s
          let s := portUpd s p fun c => { c with
            queue := if done then dropFirst (fun x => x == q) c.queue
              else replaceFirst (fun x => x == q) (fun x => { x with sentFlits := x.sentFlits + 1 }) c.queue
            credits := setAt c.credits k.vc (· - 1), nextSeq := (c.nextSeq + 1) % 4096
            lastAck := if c.sent.isEmpty then s.osc else c.lastAck
            sent := c.sent ++ [f] }
          some (f, s)

/-- Drives the next transfer of a port when its bundle is idle: the next part of a flit, a new flit, or
link control and credits alone (R373). -/
def fepPump (s : State) (p : Nat) : State :=
  match s.fep.ports[p]? with
  | none => s
  | some c =>
    if !c.up || c.txReq != c.txAck then s
    else
      let next : Option (Packet × Nat × Nat × Nat × Nat) × State :=
        if c.wireLeft != 0 then
          (match c.wire with
          | some { part := some (k, i, j), seq := n, .. } => some (k, i, j + 1, n, c.wireLeft - 1)
          | _ => none, s)
        else match startFlit s p c with
          | some (f, s) => (some (f.packet, f.index, 0, f.seq, flitBytes f.packet f.index / 64 - 1), s)
          | none => (none, s)
      if next.1.isNone && c.control.isEmpty && c.giveCredit.isEmpty then s
      else portUpd next.2 p fun c =>
        { c with
          wire := some { part := next.1.map fun x => (x.1, x.2.1, x.2.2.1)
                         seq := match next.1 with
                           | some x => x.2.2.2.1
                           | none => 0
                         lv := c.control.head?, cv := c.giveCredit.head? }
          wireLeft := match next.1 with
            | some x => x.2.2.2.2
            | none => 0
          control := c.control.drop 1, giveCredit := c.giveCredit.drop 1, txReq := !c.txReq }

/-- Every port driven where it can be. -/
def fepPumpAll (s : State) : State := [0, 1, 2, 3].foldl fepPump s

/-! Refetches (R186). -/

/-- Starts the home read of a block whose write-throughs have all been acknowledged. -/
def refetchBegin (s : State) (block : Nat) : State :=
  if s.throughs.any fun t => t.ranges.any fun r => overlap r.1 r.2 block 4096 then s
  else match s.refetch.find? fun r => r.block == block && r.key.isNone with
    | none => s
    | some r =>
      let n := newId s
      let home := backHome s r.region + (block - backBase s r.region)
      let s := { n.2 with
        refetch := replaceFirst (fun x => x.block == block) (fun x => { x with key := some n.1 }) s.refetch }
      let c := cmpSend s { kind := .read, addr := home, len := 4096, who := .gather n.1 }
      { c.1 with gathers := c.1.gathers ++ [{ key := n.1, owner := n.1, addr := home, len := 4096, left := c.2 }] }

/-- The refetch of a bad word's block starts, or the one under way is shared. -/
def refetchStart (s : State) (word region : Nat) : State :=
  let block := blockOf word
  if s.refetch.any fun r => r.block == block then s
  else refetchBegin { s with refetch := s.refetch ++ [{ block, word, region }] } block

/-! Sending a packet (R273 to R276). -/

/-- LOG.ADDR of an invalid lookup (R312): the bad word that made the entry invalid, or the entry whose read was
refused or failed in chip memory. -/
def routeBadAddr (s : State) (dest : Nat) (failed : Bool) : Nat :=
  match routeAddr s dest with
  | none => 0
  | some a =>
    if isChip a then (if failed then a else 0)
    else if (ordOver s (offsetOf a) 4).isSome then a
    else match spmBadIn s (offsetOf a) 4 with
      | some w => ownAddr s w
      | none => 0

/-- ROUTE_INVALID (R275, R310); a read of the entry that an ordered region keeps out is counted as refused (R176,
R213). -/
def raiseRoute (s : State) (dest : Nat) (failed : Bool) : State :=
  let a := routeBadAddr s dest failed
  let s := match routeAddr s dest with
    | some e =>
      if !isChip e && (ordOver s (offsetOf e) 4).isSome then noteRefusal s true (ownId s) e reasonHeld else s
    | none => s
  raiseErr s { code := 0x0204, cls := 2, unit := 17, addr := a, info0 := dest }

/-- The request tag that comes next: the lowest free one for which no late response may come, or else the free one
that timed out first (R273, R287, R288, assumption 155). -/
def fepTag (s : State) : Option Nat :=
  let free (t : Nat) : Bool := !s.fep.reqs.any fun r => r.tag == t
  ((List.range 8192).find? fun t => free t && !s.fep.late.contains t).orElse fun _ => s.fep.late.find? free

/-- Whether the entry read for a destination is outstanding. -/
def routePending (s : State) (dest : Nat) : Bool :=
  s.cmp.out.any (fun o => o.acc.who == .route dest)
    || s.cmp.chans.any fun c => c.waiting.any fun m => match m.2 with
      | some a => a.who == .route dest
      | none => false

/-- The entry of a destination that a lookup could not read is fetched: from chip memory, or by the refetch of its
block (R275). -/
def routeFetch (s : State) (dest : Nat) : State :=
  match routeAddr s dest with
  | none => s
  | some a =>
    if isChip a then
      if routePending s dest then s else (cmpSend s { kind := .read, addr := a, len := 4, who := .route dest }).1
    else match spmBadIn s (offsetOf a) 4 with
      | some w => (match backOf s w with
        | some n => refetchStart s w n
        | none => s)
      | none => s

/-- A packet put on its ports' queues under a route.  A request takes a tag, or keeps its own on a retry
(R283); with no tag free it waits, but for a packet on COLL_DOWN, which waits for no request (R282).  A multicast
write also awaits the link acknowledgements (R276). -/
def fepPlace (s : State) (k : Packet) (acc : Option Access) (ports : List Nat) (path rcg : Nat) : State :=
  let k := { k with path := path, epoch := activeBank s == 1 }
  let put (s : State) (k : Packet) : State :=
    fepPumpAll (ports.foldl (fun s p =>
      portUpd s p fun c => { c with queue := c.queue ++ [{ packet := k, rcg := rcg }] }) s)
  match acc with
  | none => put s k
  | some a =>
    if k.age > 0 then
      let upd (r : FepReq) : FepReq :=
        { r with packet := k, port := ports.headD 0, rcg := rcg, since := s.osc, retryAt := none, oldEpoch := false, delivered := false }
      put { s with fep := { s.fep with reqs := replaceFirst (fun r => r.tag == k.tag) upd s.fep.reqs } } k
    else match fepTag s with
      | none =>
        if k.vc = 4 then put s k else { s with fep := { s.fep with unrouted := s.fep.unrouted ++ [(k, acc)] } }
      | some t =>
        let k := { k with tag := t }
        let r : FepReq := { tag := t, packet := k, acc := a, port := ports.headD 0, rcg := rcg, since := s.osc }
        let mc := if k.dest ≥ mcastBase then s.fep.mcast ++ [{ tag := t, ports := ports }] else s.fep.mcast
        put { s with fep := { s.fep with reqs := s.fep.reqs ++ [r], mcast := mc, late := s.fep.late.erase t } } k

/-- A packet queued by the active bank: false when a request's entry is invalid, which completes it with
UNREACHABLE. -/
def fepQueue (s : State) (k : Packet) (acc : Option Access) : State × Bool :=
  match routeLookup s k.dest with
  | .entry ports path rcg => (fepPlace s k acc ports path rcg, true)
  | .invalid =>
    let s := raiseRoute s k.dest false
    (if isRequest k then regCount s 0x900060 else s, false)
  | .later => (routeFetch { s with fep := { s.fep with unrouted := s.fep.unrouted ++ [(k, acc)] } } k.dest, true)

/-! Echoes (R279, R280). -/

/-- An echo acts on a group: counted, perhaps a cut, and the raise period starts again. -/
def echoOn (s : State) (g : Nat) : State :=
  let s := regCount s 0x90006C
  if !bitOf 0 (regGet s 0x900040) then s
  else
    let b := bucketNow s g
    let gap := regBits s 0x90004C 15 0
    let cut : Bool := match b.lastCut with
      | some t => decide (s.osc ≥ t + gap)
      | none => true
    let s := bucketPut s { b with raiseFrom := s.osc, lastCut := if cut then some s.osc else b.lastCut }
    if cut then
      let r := 0x901000 + 4 * g
      regPutBits s r 15 0 (max (regBits s 0x900044 31 16) (regBits s r 15 0 * (256 - regBits s 0x900040 15 8) / 256))
    else s

/-- An echo that names a destination acts on the group its route gives; one whose entry must be read first waits for
it, and one with no route is counted and its lookup logged (R275). -/
def echoFor (s : State) (dest : Nat) : State :=
  match routeLookup s dest with
  | .entry _ _ g => echoOn s g
  | .invalid => regCount (raiseRoute s dest false) 0x90006C
  | .later => routeFetch { s with fep := { s.fep with echoes := s.fep.echoes ++ [dest] } } dest

/-! Answers (R278, R370). -/

/-- The answer to an access. -/
inductive Resp where
  | ok (data : List Byte)
  | refused (reason : Nat)
  | dataErr
  | unreachable
deriving DecidableEq, Repr

/-- The answer to an agent's request on a chip-memory channel (R366, R370). -/
def answerAgent (s : State) (a : Access) (ch tag : Nat) (be : BitVec 128) (r : Resp) : State :=
  let op := match a.kind with
    | .read => 0
    | .write => 1
    | .atomic => 2
  let st : CmpStatus := match r with
    | .ok _ => .ok
    | .dataErr => .dataErr
    | _ => .decodeErr
  let data := match r with
    | .ok bs => if a.kind = .write then [] else lineData a.addr bs
    | _ => []
  cmpQueue s ch { response := true, op := op, st := st, tag := tag, be := be, data := data } none

/-- What follows on a multicast write: nothing, or a CONG_ECHO when it was marked (R276, R279). -/
def answerMulticast (s : State) (k : Packet) : State :=
  if !k.mark || !charged k then s
  else
    let last := (s.fep.echoSent.find? fun x => x.1 == k.src).map (·.2)
    let gap := regBits s 0x90004C 31 16
    if last.any fun t => s.osc < t + gap then s
    else
      let s := { s with fep := { s.fep with echoSent := (k.src, s.osc) :: dropFirst (fun x => x.1 == k.src) s.fep.echoSent } }
      (fepQueue s { type := 0x15, vc := 1, dest := k.src, src := ownId s, body := toLe 32 k.dest } none).1

/-- The response packet to a request packet (R270, R278, R279). -/
def answerPacket (s : State) (k : Packet) (r : Resp) : State :=
  if k.dest ≥ mcastBase then answerMulticast s k
  else
    let echo := k.mark && charged k
    let base : Packet := { type := 0x10, vc := 1, echo := echo, dest := k.src, src := ownId s, tag := k.tag }
    let p := match r with
      | .ok bs => match k.type with
        | 0x02 => { base with type := 0x11, payload := bs }
        | 0x03 => { base with type := 0x12, payload := bs }
        | _ => base
      | .refused n => { base with type := 0x13, status := n }
      | .dataErr => { base with type := 0x13, status := stDataParity }
      | .unreachable => { base with type := 0x13, status := stUnreachable }
    (fepQueue s p none).1

/-- A RETRY response (R270, R283); a multicast packet has no response (R276). -/
def answerRetry (s : State) (k : Packet) : State :=
  if k.dest ≥ mcastBase then answerMulticast s k
  else (fepQueue s { type := 0x14, vc := 1, echo := k.mark && charged k, dest := k.src, src := ownId s, tag := k.tag } none).1

end Sys2Proof.Machine
end

