-- ==== Sys2Proof/Machine/CollEnd.lean ====
section
/-! DEFINITION. What a collective is and how one fails: the group entry and its tree (R243 to R245), the descriptor's
fields (R233), signatures (R257), its packets, and the end of a failed collective (R261, R262, R265). -/
namespace Sys2Proof.Machine

/-! Group entries (R244, R245), as 64 bytes. -/

/-- Fields of a group entry (R244). -/
def grpMembers (e : List Byte) : Nat := bitsOf 17 0 (fieldAt e 0 4)
@[inherit_doc grpMembers] def grpIndex (e : List Byte) : Nat := bitsOf 17 0 (fieldAt e 4 4)
@[inherit_doc grpMembers] def grpFan (e : List Byte) (l : Nat) : Nat := fieldAt e (8 + 2 * l) 2
@[inherit_doc grpMembers] def grpSwitch (e : List Byte) (l : Nat) : Bool := bitOf l (fieldAt e 18 1)
@[inherit_doc grpMembers] def grpSwBase (e : List Byte) (l : Nat) : Nat := bitsOf 18 0 (fieldAt e (20 + 4 * l) 4)
@[inherit_doc grpMembers] def grpMcast (e : List Byte) : Nat := bitsOf 18 0 (fieldAt e 40 4)
@[inherit_doc grpMembers] def grpCounter (e : List Byte) : Nat := bitsOf 11 0 (fieldAt e 44 2)
@[inherit_doc grpMembers] def grpStageKib (e : List Byte) : Nat := fieldAt e 46 2
@[inherit_doc grpMembers] def grpTable (e : List Byte) : Nat := fieldAt e 48 8
@[inherit_doc grpMembers] def grpStage (e : List Byte) : Nat := fieldAt e 56 8

/-- Members in a unit of the `n` lowest levels: s(n − 1) of R245. -/
def unitSize (e : List Byte) (n : Nat) : Nat := ((List.range n).map (grpFan e)).foldl (· * ·) 1

/-- Whether member `i` is the root of a level-`l` unit with more than one participant (R245). -/
def rootsUnit (e : List Byte) (i l : Nat) : Bool :=
  i % unitSize e (l + 1) == 0 && grpFan e l > 1 && i + unitSize e l < grpMembers e

/-- Levels at which a member is such a root, in ascending order. -/
def rootLevels (e : List Byte) (i : Nat) : List Nat := (List.range 5).filter (rootsUnit e i)

/-- The participants of the level-`l` unit that member `i` roots, other than `i`, in ascending order. -/
def unitParts (e : List Byte) (i l : Nat) : List Nat :=
  ((List.range (grpFan e l)).drop 1).filterMap fun j =>
    let c := i + j * unitSize e l
    if c < grpMembers e then some c else none

/-- The participants of every unit that a member roots, with their levels. -/
def treeParts (e : List Byte) (i : Nat) : List (Nat × Nat) :=
  ((rootLevels e i).map fun l => (unitParts e i l).map fun c => (c, l)).flatten

/-- The level at which a member other than 0 takes part under another root, and that root. -/
def treeParent (e : List Byte) (i : Nat) : Option (Nat × Nat) :=
  if i = 0 then none
  else ((List.range 5).find? fun l => i % unitSize e (l + 1) != 0).map fun l =>
    (i / unitSize e (l + 1) * unitSize e (l + 1), l)

/-! Signatures (R257). -/

/-- One step of CRC-64/ECMA-182. -/
def crc64Byte (c : BitVec 64) (b : Byte) : BitVec 64 :=
  (List.range 8).foldl (fun c _ =>
    if c.msb then (c <<< 1) ^^^ 0x42F0E1EBA9EA3693#64 else c <<< 1) (c ^^^ (b.setWidth 64 <<< 56))

/-- CRC-64/ECMA-182 of a byte string. -/
def crc64 (bs : List Byte) : BitVec 64 := bs.foldl crc64Byte 0

/-- The signature of a collective. -/
def signatureOf (group op redop type root seq count : Nat) : Dword :=
  crc64 (toLe 2 group ++ toLe 1 (op + 16 * redop) ++ toLe 1 type ++ toLe 4 root ++ toLe 8 seq ++ toLe 8 count ++ toLe 8 0)

/-- The collective run of a descriptor. -/
def collRun (d : Desc) : Option ClRun :=
  match d.engine with
  | .coll r => some r
  | _ => none

/-! Fields of a collective's descriptor (R233). -/

/-- Fields of a COLL body (R233). -/
def clGroup (d : Desc) : Nat := dbits d 32 2 11 0
@[inherit_doc clGroup] def clOp (d : Desc) : Nat := dbits d 34 1 3 0
@[inherit_doc clGroup] def clFast (d : Desc) : Bool := bitOf 4 (dfield d 34 1)
@[inherit_doc clGroup] def clType (d : Desc) : Nat := dbits d 35 1 4 0
@[inherit_doc clGroup] def clRedop (d : Desc) : Nat := dbits d 36 1 3 0
@[inherit_doc clGroup] def clCount (d : Desc) : Nat := dfield d 40 8
@[inherit_doc clGroup] def clRoot (d : Desc) : Nat := dfield d 48 4
@[inherit_doc clGroup] def clSlot (d : Desc) : Nat := dfield d 52 4
@[inherit_doc clGroup] def clSeq (d : Desc) : Nat := dfield d 56 8
@[inherit_doc clGroup] def clSrc (d : Desc) : Nat := dfield d 64 8
@[inherit_doc clGroup] def clDst (d : Desc) : Nat := dfield d 72 8
@[inherit_doc clGroup] def clDrop (d : Desc) : Nat := dfield d 80 8

/-- The signature of a descriptor's collective (R257, R266). -/
def clSignature (d : Desc) : Dword :=
  signatureOf (clGroup d) (clOp d) (clRedop d) (clType d) (clRoot d) (clSeq d)
    (if clOp d = 5 then clSlot d else clCount d)

/-- Bytes of an element of DESC.type; code 0x1F is the 64-bit integer of `cred` (R266). -/
def clBytes (type : Nat) : Nat :=
  if type = 0x1F then 8 else match fmtOfCode type with
    | some f => fmtBits f / 8
    | none => 1

/-- Whether a collective is a `cbar` or `cred` (R163): its operand and result are in registers. -/
def clInsn (d : Desc) : Bool :=
  match d.issue with
  | some i => i.slot ≥ 16
  | none => false

/-- The group entry of a collective, and its member index, as validation read them (R243). -/
def clEntry (d : Desc) : List Byte := d.aux.take 64
@[inherit_doc clEntry] def clIndex (d : Desc) : Nat := grpIndex (clEntry d)
@[inherit_doc clEntry] def clMembers (d : Desc) : Nat := grpMembers (clEntry d)

/-- Whether a collective moves no data by the tree or directly: BARRIER, or a count of 0 (R249). -/
def clEmpty (d : Desc) : Bool := clOp d == 4 || (clOp d != 5 && clCount d == 0)

/-- Whether a collective goes by the tree (R250). -/
def clTree (d : Desc) : Bool := clOp d ≤ 1

/-- GRP.MCAST; a group of one member sends nothing (R249). -/
def clMcast (d : Desc) : Nat := if clMembers d = 1 then 0 else grpMcast (clEntry d)

/-- The members whose identifiers a collective needs (R243): its tree neighbours, and every member when it
sends to each. -/
def neededMembers (e : List Byte) (op root : Nat) : List Nat :=
  let i := grpIndex e
  let tree := (match treeParent e i with
    | some (p, _) => [p]
    | none => []) ++ (treeParts e i).map (·.1)
  let all := op == 5 || (grpMcast e == 0 && (op == 2 || (op == 3 && root == i)))
  if all then List.range (grpMembers e) else tree

/-- The pairs of a member and its identifier that a collective holds. -/
def clTable (d : Desc) : List (Nat × Nat) :=
  let t := d.aux.drop 64
  (List.range (t.length / 8)).map fun i => (fieldAt t (8 * i) 4, bitsOf 18 0 (fieldAt t (8 * i + 4) 4))

/-- A member's identifier, and the member behind an identifier. -/
def clId (d : Desc) (m : Nat) : Nat := ((clTable d).find? fun p => p.1 == m).map (·.2) |>.getD 0
@[inherit_doc clId] def clMember (d : Desc) (id : Nat) : Option Nat := ((clTable d).find? fun p => p.2 == id).map (·.1)

/-- The run of a descriptor's collective changed. -/
def clUpd (s : State) (d : Nat) (f : ClRun → ClRun) : State :=
  descUpd s d fun x => match x.engine with
    | .coll r => { x with engine := .coll (f r) }
    | _ => x

/-! Packets of a collective (R270, R272, R283). -/

/-- A COLL_CTL to a member, up or down. -/
def clCtlPacket (s : State) (d : Desc) (up : Bool) (m level : Nat) (b : CollBody) : Packet :=
  { type := 0x21, vc := if up then 3 else 4, dest := clId d m, src := ownId s, collGroup := clGroup d
    collSeq := BitVec.ofNat 64 (clSeq d), collLevel := level, coll := b }

/-- A collective packet leaves, for whoever waits to hear that it cannot; it keeps a tag, so that a RETRY finds it
(assumption 33). -/
def clPost (s : State) (k : Packet) (who : Who) : State × Bool :=
  fepQueue s k (some { kind := .write, addr := 0, len := 0, who := who })

/-- A verdict to every tree neighbour but the one it came from. -/
def clTell (s : State) (d : Desc) (skip : Option Nat) (level : Nat) (b : CollBody) : State :=
  let e := clEntry d
  let s := match treeParent e (clIndex d) with
    | some (p, _) => if some p == skip then s else (clPost s (clCtlPacket s d true p level b) .nobody).1
    | none => s
  (treeParts e (clIndex d)).foldl (fun s c =>
    if some c.1 == skip then s else (clPost s (clCtlPacket s d false c.1 level b) .nobody).1) s

/-! The end of a collective (R261, R262, R265). -/

/-- The destination of a collective and its drop vector: window ranges. -/
def clWrites (d : Desc) : List (Nat × Nat) :=
  let n := clCount d * clBytes (clType d)
  let dst := offsetOf (clDst d)
  if clInsn d then []
  else match clOp d with
    | 0 | 1 | 3 => [(dst, n)]
    | 2 => [(dst, clMembers d * n)]
    | 5 => (dst, clMembers d * clSlot d) :: (if clDrop d = 0 then [] else [(offsetOf (clDrop d), 8 * clMembers d)])
    | _ => []

/-- Bytes 12 to 31 of the record (R265).  CR.DROP_IN counts what other members dropped. -/
def clBody (d : Desc) (r : ClRun) : List Byte :=
  let tooLong := r.slots.filter fun x => x.2 > clSlot d
  let others := tooLong.filter fun x => x.1 != clIndex d
  let sat (n : Nat) : Nat := min n 0xFFFFFFFF
  toLe 4 (sat r.dropOut) ++ toLe 4 (sat ((others.map fun x => x.2 - clSlot d).foldl (· + ·) 0)) ++ toLe 4 tooLong.length
    ++ toLe 4 (match r.cause with
      | some (m, l) => m + 2 ^ 18 * l + 2 ^ 31
      | none => 0) ++ toLe 4 0

/-- Whether a packet carries a verdict. -/
def isVerdict (k : Packet) : Bool :=
  match k.coll with
  | .verdictClear | .verdictMismatch _ | .verdictAbort _ => true
  | _ => false

/-- The fabric packets of a collective that has ended are forgotten, but for verdicts, which a RETRY still brings out
again (R260, R283). -/
def clForget (s : State) (d : Desc) : State :=
  let mine (k : Packet) : Bool := (k.type == 0x20 || k.type == 0x21) && k.collGroup == clGroup d
    && k.collSeq == BitVec.ofNat 64 (clSeq d) && !isVerdict k
  { s with fep := { s.fep with reqs := s.fep.reqs.filter fun r => !mine r.packet } }

/-- Statuses of R261. -/
def stCollMismatch : Nat := 0x0501
@[inherit_doc stCollMismatch] def stCollTimeout : Nat := 0x0502
@[inherit_doc stCollMismatch] def stCollAborted : Nat := 0x0503
@[inherit_doc stCollMismatch] def stCollOrder : Nat := 0x0504
@[inherit_doc stCollMismatch] def stCollLength : Nat := 0x0505

/-- The level at which a member finds a failure that is in no packet: 7 for a direct transfer, and for a tree the
lowest level at which the member takes part (R265; assumption 146). -/
def clOwnLevel (x : Desc) : Nat :=
  let e := clEntry x
  if !clTree x then 7
  else match rootLevels e (clIndex x), treeParent e (clIndex x) with
    | l :: _, _ => l
    | [], some (_, l) => l
    | [], none => 0

/-- What a failure leaves (R261, R262, R324): an abort verdict for the statuses that send one, and undefined destinations:
its own, except after the mismatch of R258, and those of consecutive direct collectives that overlap (R255). -/
def clAftermath (s : State) (d : Nat) (status : Nat) : State :=
  match descGet s d with
  | none => s
  | some x => match collRun x with
    | none => s
    | some r =>
      if r.abortSent then s
      else
        let s := clUpd s d fun r => { r with abortSent := true }
        let sends := [stCollTimeout, stCollOrder, stCollLength, stUnreachable, stDataParity, stDisturbed].contains status
        let level := (r.cause.map (·.2)).getD (clOwnLevel x)
        let s := if sends then clTell s x none level (.verdictAbort (clIndex x)) else s
        let own := if status = stCollMismatch && !clFast x then [] else clWrites x
        (own ++ r.overlaps).foldl (fun s w => if w.2 = 0 then s else spmHavoc s w.1 w.2) s

/-- A collective whose data goes straight to its destinations, by writes (R250). -/
def clDirect (d : Desc) : Bool := clOp d == 2 || clOp d == 3 || clOp d == 5

/-- A group's state changed as a collective on it ends: what a direct one wrote, for the next one (R255). -/
def clLast (s : State) (x : Desc) : State :=
  if clDirect x then { s with cle := replaceFirst (fun g => g.group == clGroup x) (fun g => { g with lastDst := clWrites x }) s.cle }
  else s

/-- A collective fails; a failure that is this member's own names it as the first to abort (R265), and NaNs and infinities
that its destination has received are reported (R252). -/
def clFail (s : State) (d status : Nat) (cause : Option (Nat × Nat)) (det : Detail) : State :=
  match descGet s d with
  | none => s
  | some x =>
    if x.phase != .running then s
    else
      let own := some (cause.getD (clIndex x, clOwnLevel x))
      let s := clLast (clUpd s d fun r => { r with cause := own, phase := 3 }) x
      let s := clAftermath (clForget s x) d (if x.disturbed && !x.rejected then stDisturbed else status)
      let s := descUpd s d fun x => match collRun x with
        | some r => { x with body := clBody x r, report := { x.report with nf := if r.nonfinite then some (0, 0) else none } }
        | none => x
      endDesc s d status det

/-- A packet of a running collective leaves for member `m` or its switch; one that cannot be delivered ends it
(R261). -/
def clSend (s : State) (d : Desc) (m level : Nat) (k : Packet) : State :=
  if !(descGet s d.id).any (fun y => y.phase == .running) then s
  else
    let r := clPost s k (.coll d.id m level)
    if r.2 then r.1 else clFail r.1 d.id stUnreachable (some (m, level)) {}

/-- A COLL_CTL of a running collective to a member, up or down. -/
def clCtl (s : State) (d : Desc) (up : Bool) (m level : Nat) (b : CollBody) : State :=
  clSend s d m level (clCtlPacket s d up m level b)

/-- A COLL_DATA chunk to an identifier, up or down, on behalf of member `m`'s unit. -/
def clData (s : State) (d : Desc) (up : Bool) (m dest level first : Nat) (bs : List Byte) : State :=
  clSend s d m level { type := 0x20, vc := if up then 3 else 4, dest := dest, src := ownId s, payload := bs
                       collGroup := clGroup d, collSeq := BitVec.ofNat 64 (clSeq d), collLevel := level
                       coll := .chunk first (clSignature d) }

end Sys2Proof.Machine
end

