-- ==== Sys2Proof/Machine/Link.lean ====
section
/-! DEFINITION. Answers that come back, and requests that leave the cluster: the delivery of an answer to whoever
waits for it, write-throughs (R183), reads of outside memory, and accesses to the own scratchpad (R168 to R213). -/
namespace Sys2Proof.Machine

/-! Delivery of an answer to its requester. -/

/-- A thread changed; thread `t` is thread `t mod 4` of group `t div 4`. -/
def threadUpd (s : State) (t : Nat) (f : Thread → Thread) : State :=
  { s with groups := setAt s.groups (t / 4) fun g => { g with threads := setAt g.threads (t % 4) f } }

/-- The fault cause of a failed answer (R135, R178). -/
def causeOf (r : Resp) : Nat :=
  match r with
  | .ok _ => 0
  | .refused _ => 0x04
  | .dataErr => 0x05
  | .unreachable => 0x06

/-- The status a failed answer gives a descriptor (R176, R178, R189). -/
def statusOf (r : Resp) : Nat :=
  match r with
  | .ok _ => 0
  | .refused n => statusOfReason n
  | .dataErr => stDataParity
  | .unreachable => stUnreachable

/-- The log detail of a failed answer (R312). -/
def detailOf (a : Access) (r : Resp) : Detail :=
  { addr := BitVec.ofNat 64 a.addr
    info0 := match r with
      | .refused n => BitVec.ofNat 64 n
      | _ => 0 }

/-- The end of a ring command whose write-backs are all answered; a failed one is CONTEXT_LOST, and leaves the
hardware-written fields of its entry undefined (R217). -/
def contextDone (s : State) (ring : Nat) : State :=
  if s.dre.ctxLeft != 0 then s
  else
    let fail := s.dre.ctxFail
    let lost := s.dre.ctxLost
    let s := lost.foldl rangeHavoc { s with dre := { s.dre with ctxFail := none, ctxLost := [], cmd := none } }
    match fail with
    | some d => raiseErr s { code := 0x0207, cls := 2, unit := 2, ring := ring, addr := d.addr.toNat, info0 := d.info0.toNat }
    | none => s

/-- The hardware-written fields of the entry that a write-back of ring `r` names (R215, R216): free
values where it fails (assumption 65). -/
def entryFields (s : State) (r addr : Nat) : List (Nat × Nat) :=
  let c := ctxAddr s r
  if c ≤ addr && addr < c + 64 then [(c + 20, 8), (c + 40, 1), (c + 42, 6)] else [(addr, 2)]

/-- The fold of an ordered region ends: its writes are visible, so DONE_COUNTER advances, and CLOSED and ARM
are cleared (R212). -/
def foldEnd (s : State) (n : Nat) : State :=
  let bytes := (ordTarget s n).2
  let s := regPutBits (regPutBits s (ordReg n 4) 3 3 0) (ordReg n 4) 0 0 0
  let s := { s with ord := s.ord.filter fun x => x.region != n }
  counterAdvance s (regBits s (ordReg n 5) 27 16) bytes

/-- A write of a descriptor has failed, which ends it; a matrix descriptor once its row groups up to that of the write
have been examined (R63, R92; DEDUCED, assumption 84). -/
def failWrite (s : State) (d status : Nat) (det : Detail) : State :=
  match descGet s d with
  | none => s
  | some x => match x.engine with
    | .matrix r => descUpd s d fun x => { x with engine := .matrix { r with missed := r.missed ++ [{ status, det }] } }
    | .coll _ => clFail s d status none det
    | _ => endDesc s d status det

/-- The end of the last debug access: its STATUS and the value read (R386).  The field has no code for a parity error or a
failed home copy: STATUS and the value are then free (assumption 35). -/
def answerDebug (s : State) (a : Access) (key : Nat) (r : Resp) : State :=
  if s.tap.key != some key then s
  else match r with
    | .ok bs =>
      let v := if a.kind = .read then BitVec.ofNat 32 (leNat bs) else s.tap.data
      { s with tap := { s.tap with status := 0, data := v } }
    | .refused _ => { s with tap := { s.tap with status := 3 } }
    | _ =>
      let x := draw s 2
      { x.2 with tap := { x.2.tap with
        status := (Config.freeWord x.1).setWidth 2
        data := if a.kind = .read then (Config.freeWord (x.1 + 1)).setWidth 32 else x.2.tap.data } }

/-- The write of a group's save area is answered; a failed one leaves its details with the launch (R312, assumption
139). -/
def saveAnswered (s : State) (g : Nat) (a : Access) (r : Resp) : State :=
  let s := match r, (s.groups[g]?).bind (·.launch) with
    | .ok _, _ | _, none => s
    | r, some l => descUpd s l.desc fun d => { d with detail := detailOf a r }
  { s with groups := setAt s.groups g fun x => { x with saving := if causeOf r = 0 then .done else .failed (statusOf r) } }

/-- Delivery to every requester but a write-through or a route lookup.  A failed write-back of an entry that leaves the
context cache changes nothing (DESIGN CHOICE, assumption 174). -/
def deliverBase (s : State) (a : Access) (r : Resp) : State :=
  match a.who with
  | .load t =>
    threadUpd s t fun x => { x with ret := some (match r with
      | .ok bs => bs
      | _ => [], causeOf r) }
  | .store t =>
    threadUpd s t fun x => { x with
      unacked := x.unacked - 1
      deferred := if causeOf r = 0 || x.deferred.isSome then x.deferred
        else some (causeOf r, BitVec.ofNat 64 a.addr) }
  | .row g n =>
    { s with groups := setAt s.groups g fun x => { x with tq := match x.tq with
        | [] => []
        | o :: os => { o with
            outstanding := o.outstanding - 1
            got := match r with
              | .ok bs => if a.kind = .read then mapSetAll (fun _ => (0 : Byte)) o.got a.addr bs else o.got
              | _ => o.got
            acked := match r with
              | .ok _ => if a.kind = .read then o.acked else n :: o.acked
              | _ => o.acked
            failed := if causeOf r = 0 then o.failed
              else match o.failed with
                | some (m, c) => if n < m then some (n, causeOf r) else some (m, c)
                | none => some (n, causeOf r) } :: os } }
  | .gather key =>
    { s with gathers := replaceFirst (fun g => g.key == key) (fun g => { g with
        left := g.left - 1
        got := match r with
          | .ok bs => mapSetAll (fun _ => (0 : Byte)) g.got a.addr bs
          | _ => g.got
        failed := match r with
          | .ok _ => g.failed
          | .refused n => some (g.failed.getD n)
          | .dataErr => some (g.failed.getD 8)
          | .unreachable => some (g.failed.getD 9) }) s.gathers }
  | .desc d =>
    let s := descUpd s d fun x => { x with
      unacked := x.unacked - 1
      engine := match x.engine, r with
        | .move m, .ok _ =>
          let took := replaceFirst (fun p => p.addr ≤ a.addr && a.addr < p.addr + p.len)
            (fun p => { p with left := p.left - a.len }) m.inflight
          .move { m with
            moved := m.moved + a.len
            -- what is in flight when a move fails is what R190 leaves undefined
            inflight := if x.phase = .running then took.filter fun p => p.left != 0 else m.inflight }
        | .move m, _ => .move { m with spared := if isOwn s a.addr then m.spared ++ [(offsetOf a.addr, a.len)] else m.spared }
        | e, _ => e }
    match r with
    | .ok _ => s
    | _ => failWrite s d (statusOf r) (detailOf a r)
  | .coll d m l =>
    -- a direct transfer is awaited; a packet of the tree has no answer
    let s := if l = 7 then descUpd s d fun x => { x with unacked := x.unacked - 1 } else s
    (match r with
    | .ok _ => s
    | _ => clFail s d (statusOf r) (some (m, l)) (detailOf a r))
  | .retire d _ =>
    descUpd s d fun x => { x with
      unacked := x.unacked - 1
      retStatus := if x.retStatus = 0 then statusOf r else x.retStatus
      retDetail := if x.retStatus = 0 then detailOf a r else x.retDetail }
  | .context ring =>
    let fail := statusOf r != 0
    contextDone { s with dre := { s.dre with
      ctxLeft := s.dre.ctxLeft - 1
      ctxFail := if fail then s.dre.ctxFail.orElse fun _ => some (detailOf a r) else s.dre.ctxFail
      ctxLost := if fail then s.dre.ctxLost ++ entryFields s ring a.addr else s.dre.ctxLost } } ring
  | .fold n => foldEnd s n
  | .save g => saveAnswered s g a r
  | .agent ch tag be _ => answerAgent s a ch tag be r
  | .debug key => answerDebug s a key r
  | .packet _ k => answerPacket s k r
  | .through _ | .route _ | .evict | .nobody => s

/-- A request that a lookup of its route settles: queued, or completed with UNREACHABLE. -/
def fepQueueOr (s : State) (k : Packet) (acc : Option Access) : State :=
  let r := fepQueue s k acc
  if r.2 then r.1
  else match acc with
    | some a => deliverBase r.1 a .unreachable
    | none => r.1

/-- The packets and echoes that wait for a route or a tag, looked up again. -/
def fepRetryUnrouted (s : State) : State :=
  let ws := s.fep.unrouted
  let es := s.fep.echoes
  let s := ws.foldl (fun s w => fepQueueOr s w.1 w.2) { s with fep := { s.fep with unrouted := [], echoes := [] } }
  es.foldl echoFor s

/-- A route entry has been read, or its read has failed: the packets for its destination are queued, or completed as
unreachable, and its echoes act (R275, R279). -/
def routeArrived (s : State) (dest : Nat) (r : Resp) : State :=
  let e := match r with
    | .ok bs => routeEntry dest (leNat bs)
    | _ => .invalid
  let failed : Bool := match r with
    | .ok _ => false
    | _ => true
  let ws := s.fep.unrouted.filter fun w => w.1.dest == dest
  let es := s.fep.echoes.filter fun d => d == dest
  let s := { s with fep := { s.fep with unrouted := s.fep.unrouted.filter fun w => w.1.dest != dest
                                        echoes := s.fep.echoes.filter fun d => d != dest } }
  let s := es.foldl (fun s _ => match e with
    | .entry _ _ g => echoOn s g
    | _ => regCount (raiseRoute s dest failed) 0x90006C) s
  ws.foldl (fun s w => match e with
    | .entry ports path rcg => fepPlace s w.1 w.2 ports path rcg
    | _ =>
      let s := raiseRoute s dest failed
      let s := if isRequest w.1 then regCount s 0x900060 else s
      match w.2 with
      | some a => deliverBase s a .unreachable
      | none => s) s

/-- The refetch of a block has ended: the route entries in it are looked up again, or are invalid when it failed
(R275). -/
def routeRefetched (s : State) (block : Nat) (ok : Bool) : State :=
  if ok then (if s.fep.unrouted.isEmpty && s.fep.echoes.isEmpty then s else fepRetryUnrouted s)
  else
    let inBlock (d : Nat) : Bool := match routeAddr s d with
      | some a => !isChip a && blockOf (offsetOf a) == block && (spmBadIn s (offsetOf a) 4).isSome
      | none => false
    ((s.fep.unrouted.map (·.1.dest) ++ s.fep.echoes).eraseDups.filter inBlock).foldl (fun s d => routeArrived s d .dataErr) s

/-! Write-throughs (R183). -/

/-- An answer delivered to whoever waits. -/
def deliver (s : State) (a : Access) (r : Resp) : State :=
  match a.who with
  | .route d => routeArrived s d r
  | .through key =>
    match s.throughs.find? fun t => t.key == key with
    | none => s
    | some t =>
      let t := { t with left := t.left - 1, failed := t.failed || causeOf r != 0 }
      if t.left != 0 then { s with throughs := replaceFirst (fun x => x.key == key) (fun _ => t) s.throughs }
      else
        let s := { s with throughs := dropFirst (fun x => x.key == key) s.throughs }
        let s := s.refetch.foldl (fun s r => if r.key.isNone then refetchBegin s r.block else s) s
        if t.failed then
          match t.acc.who with
          -- an atomic's old value returns, and its writer is told at its next fence (R178)
          | .load x =>
            let late := some (0x05, BitVec.ofNat 64 t.acc.addr)
            let s := threadUpd s x fun y => { y with deferred := y.deferred.orElse fun _ => late }
            deliverBase s t.acc (.ok t.old)
          | _ => deliverBase s t.acc .dataErr
        else
          let s := match t.count with
            | some c => counterAdvance s c.1 c.2
            | none => s
          deliverBase s t.acc (.ok t.old)
  | _ => deliverBase s a r

/-! Ranges as a whole (R166, R167, R171, R172). -/

/-- Whether a row of R167 maps a range of the own window. -/
def mapped (s : State) (off len : Nat) : Bool :=
  inSpm s off len || (regBase ≤ off && off + len ≤ regBase + 0xE00000)
    || (bellBase ≤ off && off + len ≤ bellBase + 0x1000)

/-- What refuses a range as a whole for a source (R166, R167, R171, R172). -/
def rangeRefusal (s : State) (src addr len : Nat) (kind : AccKind) : Option Nat :=
  if len = 0 then none
  else if addr + len > 2 ^ 64 then some reasonUnmapped
  else if !isChip addr && (bitsOf 62 59 addr != 0 || (isOwn s addr && !mapped s (offsetOf addr) len)) then
    some reasonUnmapped
  else protCheck s src addr len kind

/-! Requests to other clusters and to outside memory. -/

/-- The request packet of an access to another cluster (R273); `fwd` for steps 11 and 12 of R14. -/
def packetOf (s : State) (a : Access) (fwd : Bool) : Packet :=
  let k : Packet := { type := 0x01, vc := if fwd then 2 else 0, dest := clusterOf a.addr, src := ownId s
                      addr := offsetOf a.addr, counted := a.counter.isSome, counter := a.counter.getD 0 }
  match a.kind with
  | .read => { k with type := 0x02, body := toLe 32 a.len }
  | .write => { k with payload := a.data }
  | .atomic => { k with type := 0x03, atop := a.op, awid := a.width
                        operand := BitVec.ofNat 64 (leNat a.data), compare := a.compare }

/-- An access leaves for another cluster; one with any of address bits [62:59] set (R166), and reads and atomics
of a multicast identifier (R276), are refused on the way out. -/
def fepRequest (s : State) (a : Access) (fwd : Bool) : State :=
  if bitsOf 62 59 a.addr != 0 || (clusterOf a.addr ≥ mcastBase && a.kind != .write) then
    deliver (noteRefusal s true a.src a.addr reasonUnmapped) a (.refused reasonUnmapped)
  else
    let r := fepQueue s (packetOf s a fwd) (some a)
    if r.2 then r.1 else deliver r.1 a .unreachable

/-- Sends an access outside, in pieces that R168 and R366 allow; answers how many requests it took. -/
def sendOutside (s : State) (a : Access) (fwd : Bool) : State × Nat :=
  if isChip a.addr then cmpSend s a
  else
    let ps := piecesOf 4096 (a.len / 4096 + 2) a.addr a.len
    (ps.foldl (fun s p =>
      fepRequest s { a with addr := p.1, len := p.2, data := (a.data.drop (p.1 - a.addr)).take p.2 } fwd) s, ps.length)

/-- A read of outside memory on behalf of `owner` starts, unless it is under way or done. -/
def gatherStart (s : State) (owner addr len : Nat) : State :=
  if s.gathers.any fun g => g.owner == owner && g.addr == addr && g.len == len then s
  else
    let n := newId s
    let a : Access := { kind := .read, addr := addr, len := len, steward := true, who := .gather n.1 }
    let cnt := if isChip addr then (piecesOf 128 (len / 128 + 2) addr len).length
      else (piecesOf 4096 (len / 4096 + 2) addr len).length
    let s := { n.2 with gathers := n.2.gathers ++ [{ key := n.1, owner, addr, len, left := cnt }] }
    (sendOutside s a false).1

/-- What a read of outside memory has brought. -/
inductive Got where
  | bytes (bs : List Byte)
  | failed (code : Nat)
  | waiting
deriving DecidableEq, Repr

/-- The bytes of a read of outside memory, once all have returned. -/
def gatherGet (s : State) (owner addr len : Nat) : Got :=
  match s.gathers.find? fun g => g.owner == owner && g.addr == addr && g.len == len with
  | none => .waiting
  | some g =>
    if g.left != 0 then .waiting
    else match g.failed with
      | some c => .failed c
      | none => .bytes ((List.range len).map fun i => mapGet (fun _ => (0 : Byte)) g.got (addr + i))

/-- The status a failed read of outside memory gives (R176, R178). -/
def gotStatus (code : Nat) : Nat :=
  if code = 8 then stDataParity else if code = 9 then stUnreachable else statusOfReason code

/-- The reads of an owner forgotten. -/
def gatherDrop (s : State) (owner : Nat) : State :=
  { s with gathers := s.gathers.filter fun g => g.owner != owner }

/-! Accesses to the own scratchpad (R168 to R170, R179, R183, R188, R206 to R213). -/

/-- What a scratchpad access meets. -/
inductive SpmOut where
  | done (data : List Byte)
  /-- the write is performed; its home copies are being written -/
  | through
  /-- it waits for the refetch of a block -/
  | refetch (block : Nat)
  | bad (word : Nat)
deriving DecidableEq, Repr

/-- The identifier an access carries: that of its agent or cluster, or the own one for the cluster's own
requesters (R171). -/
def carried (s : State) (a : Access) : Nat :=
  match a.who with
  | .agent .. | .packet .. => a.src
  | _ => ownId s

/-- Whether a floating-point atomic add is addressed to the target of region `n`. -/
def inTarget (s : State) (n : Nat) (a : Access) : Bool :=
  let t := ordTarget s n
  t.1 ≤ offsetOf a.addr && offsetOf a.addr < t.1 + t.2

/-- The open region in whose target a floating-point atomic add lies, which makes it an ordered add. -/
def ordAdd (s : State) (a : Access) : Option Nat :=
  if a.kind = .atomic && a.op = 7 then
    (List.range 16).find? fun n => ordArm s n && !ordClosed s n && inTarget s n a
  else none

/-- An ordered add's slot: whether its source holds one, the offset of its entry, and the range it writes: the
entry, or all of a slot that is allocated (R211). -/
def ordSlot (s : State) (n : Nat) (a : Access) (r : OrdRound) : Bool × Nat × (Nat × Nat) :=
  let elems := regBits s (ordReg n 2) 20 0
  let src := carried s a
  let known := r.tags.contains src
  let j := if known then r.tags.findIdx (· == src) else r.tags.length
  let base := (ordSlots s n).1 + 4 * j * elems
  let at' := base + 4 * ((offsetOf a.addr - (ordTarget s n).1) / a.len)
  (known, at', if known then (at', 4) else (base, 4 * elems))

/-- An ordered add's own refusals (R184, R211): width, slots, and a slot in a held region. -/
def ordAddRefusal (s : State) (n : Nat) (a : Access) : Option Nat :=
  let bf := bitOf 1 (regGet s (ordReg n 4))
  if a.width != (if bf then 2 else 0) then some reasonSize
  else match ordRound s n with
    | none => some reasonDenied
    | some r =>
      let p := ordSlot s n a r
      if !p.1 && r.tags.length ≥ regBits s (ordReg n 4) 10 4 then some reasonDenied
      else if heldOver s p.2.2.1 p.2.2.2 then some reasonHeld
      else none

/-- What refuses an access to the own scratchpad beyond the map and the protection table: held regions
(R184) and ordered regions (R211, R213). -/
def spmRefusal (s : State) (a : Access) : Option Nat :=
  if a.kind != .read && (accParts a).any (fun p => heldOver s p.1 p.2) then some reasonHeld
  else match ordAdd s a with
    | some n => ordAddRefusal s n a
    | none => if (accParts a).any (fun p => (ordOver s p.1 p.2).isSome) then some reasonHeld else none

/-- REFUSED of an ordered region counts a refused floating-point add to its target (R209, R213). -/
def ordNoteRefused (s : State) (a : Access) : State :=
  if a.kind = .atomic && a.op = 7 && isOwn s a.addr then
    match (List.range 16).find? fun n => (ordArm s n || ordClosed s n) && inTarget s n a with
    | some n => regPutBits s (ordReg n 7) 31 16 (min (regBits s (ordReg n 7) 31 16 + 1) 0xFFFF)
    | none => s
  else s

/-- An access refused at its destination: counted, recorded, and answered (R173, R176, R213). -/
def refuseAccess (s : State) (outgoing : Bool) (a : Access) (n : Nat) : State :=
  deliver (ordNoteRefused (noteRefusal s outgoing a.src a.addr n) a) a (.refused n)

/-- The new word of an atomic (R206, R208). -/
def atomicNew (op width w b cmp : Nat) : Nat :=
  let n := if width = 1 then 64 else if width = 2 then 16 else 32
  let sw := signedOf n w
  let sb := signedOf n b
  match op with
  | 0 => (w + b) % 2 ^ n
  | 1 => if sw ≤ sb then w else b
  | 2 => if sw ≥ sb then w else b
  | 3 => min w b
  | 4 => max w b
  | 5 => b
  | 6 => if w = cmp % 2 ^ n then b else w
  | _ =>
    let f : Fmt := if width = 2 then .bf16 else .fp32
    let r := addV false (decodeElem f w) (decodeElem f b)
    encodeElem f (roundTo f {} r.1).val

/-- The first word of bad parity that stops an access: any word read, and a word written in part in a
backed range. -/
def blockingWord (s : State) (a : Access) : Option Nat :=
  let parts := accParts a
  match a.kind with
  | .write =>
    s.spmBad.find? fun w => (backOf s w).isSome
      && parts.any fun p => overlap w 4 p.1 p.2 && !(fullWords p.1 p.2).contains w
  | _ => parts.findSome? fun p => spmBadIn s p.1 p.2

/-- The stores of a performed write: the scratchpad copy, and the home copies of a backed range, whose
acknowledgements the writer awaits; `count` names the counter that advances with it and the amount (R183,
R197). -/
def spmCommit (s : State) (owner : Option Nat) (a : Access) (runs : List (Nat × List Byte))
    (count : Option (Nat × Nat)) (old : List Byte) : State × SpmOut :=
  let r := storeRuns s owner a runs count old
  if r.2 then
    (match count with
      | some c => counterAdvance r.1 c.1 c.2
      | none => r.1, .done old)
  else (r.1, .through)

/-- What a bad word makes of an access: a refetch of its block, or an error. -/
def meetBad (s : State) (w : Nat) (giveUp : Bool) : State × SpmOut :=
  match backOf s w, giveUp with
  | some n, false => (refetchStart s w n, .refetch (blockOf w))
  | _, _ => (s, .bad w)

/-- An ordered add (R211): its slot, the accumulation, and the counter. -/
def orderedAdd (s : State) (n : Nat) (a : Access) (giveUp : Bool) : State × SpmOut :=
  match ordRound s n with
  | none => (s, .done (List.replicate a.len 0))
  | some r =>
    let p := ordSlot s n a r
    match refetching s p.2.2.1 p.2.2.2, (if p.1 then spmBadIn s p.2.1 4 else none) with
    | some b, _ => (s, .refetch b)
    | none, some w => meetBad s w giveUp
    | none, none =>
      let elems := regBits s (ordReg n 2) 20 0
      let s := if p.1 then s
        else
          let tag (x : OrdRound) : OrdRound := { x with tags := x.tags ++ [carried s a] }
          let s := { s with ord := replaceFirst (fun x => x.region == n) tag s.ord }
          regPutBits s (ordReg n 7) 6 0 (r.tags.length + 1)
      let e := if p.1 then ofFp32 (BitVec.ofNat 32 (leNat (spmBytes s p.2.1 4))) else ofFp32 0
      let x := decodeElem (if a.width = 2 then .bf16 else .fp32) (leNat a.data)
      let v := round32 false (addV false e x).1
      let runs := (if p.1 then [] else [(p.2.2.1, List.replicate (4 * elems) (0 : Byte))])
        ++ [(p.2.1, toLe 4 (toFp32 v.val).toNat)]
      spmCommit s none a runs (some (regBits s (ordReg n 5) 11 0, a.len)) (List.replicate a.len 0)

/-- The block under refetch for which an access waits: a write waits for any, and a read for one in which an
older access to its bytes waits already (R170, R186). -/
def refetchWait (s : State) (a : Access) : Option Nat :=
  let parts := accParts a
  if a.kind = .read then
    (s.refetch.find? fun r => r.waiters.any fun w =>
      parts.any fun p => (accParts w).any fun q => overlap p.1 p.2 q.1 q.2).map (·.block)
  else parts.findSome? fun p => refetching s p.1 p.2

/-- Performs an access to the own scratchpad that nothing refuses.  With `giveUp`, a failed refetch leaves
the word as unbacked data. -/
def spmAccess (s : State) (owner : Option Nat) (a : Access) (giveUp : Bool) : State × SpmOut :=
  let parts := accParts a
  match refetchWait s a, giveUp with
  | some b, false => (s, .refetch b)
  | _, _ =>
    match ordAdd s a with
    | some n => orderedAdd s n a giveUp
    | none =>
      match blockingWord s a with
      | some w => if giveUp && a.kind = .write then write s parts else meetBad s w giveUp
      | none =>
        match a.kind with
        | .read => (s, .done (readData s parts))
        | .write => write s parts
        | .atomic =>
          let old := spmBytes s (offsetOf a.addr) a.len
          let nw := atomicNew a.op a.width (leNat old) (leNat a.data) a.compare.toNat
          spmCommit s owner a [(offsetOf a.addr, toLe a.len nw)] none old
where
  write (s : State) (parts : List (Nat × Nat)) : State × SpmOut :=
    spmCommit s owner a (parts.map fun p => (p.1, partData a p)) (a.counter.map fun c => (c, a.len)) []
  /-- the bytes named, at their places in the span of the access (R366) -/
  readData (s : State) (parts : List (Nat × Nat)) : List Byte :=
    (List.range a.len).map fun i =>
      if parts.any fun p => p.1 ≤ offsetOf a.addr + i && offsetOf a.addr + i < p.1 + p.2 then
        spmByte s (offsetOf a.addr + i) else 0

/-- Performs a scratchpad access and answers its requester, or leaves it waiting. -/
def spmServe (s : State) (owner : Option Nat) (a : Access) (giveUp : Bool) : State :=
  match spmRefusal s a with
  | some n =>
    let out := match a.who with
      | .agent .. | .packet .. | .debug _ => false
      | _ => true
    refuseAccess s out a n
  | none =>
    let r := spmAccess s owner a giveUp
    match r.2 with
    | .done bs => deliver r.1 a (.ok bs)
    | .through => r.1
    | .refetch b => waitRefetch r.1 b a
    | .bad _ => deliver r.1 a .dataErr

/-- The descriptor on whose behalf a queued access is made: a thread's launch, or the descriptor itself. -/
def ownerOf (s : State) (w : Who) : Option Nat :=
  let launchOf (g : Nat) : Option Nat := match s.groups[g]? with
    | some x => x.launch.map (·.desc)
    | none => none
  match w with
  | .load t | .store t => launchOf (t / 4)
  | .row g _ => launchOf g
  | .desc d => some d
  | _ => none

/-- Requests of the banks' queues performed, oldest first. -/
def serveQueued (s : State) (rs : List BankReq) : State :=
  rs.foldl (fun s r => spmServe s (ownerOf s r.acc.who) r.acc false) s

/-- The requests that wait at the banks of a range are older than what comes now: they are performed first, oldest
first (R170). -/
def settleRange (s : State) (off len : Nat) : State :=
  let q := queueAhead (banksOf off len) s.xbr
  serveQueued { s with xbr := q.2 } q.1

/-- A scratchpad access that comes now and is performed at once. -/
def serveNow (s : State) (owner : Option Nat) (a : Access) : State :=
  spmServe ((accParts a).foldl (fun s p => settleRange (wakeBanks s p.1 p.2) p.1 p.2) s) owner a false

/-! Reads by the cluster's own engines and units. -/

/-- What a read of an operand meets: bytes; bytes still outside; a bad word; a refetch to wait for; or a
failed read of outside memory. -/
inductive Rd where
  | bytes (bs : List Byte)
  | waiting
  | refetch (block : Nat)
  | bad (word : Nat)
  | failed (code : Nat)
deriving DecidableEq, Repr

/-- Whether the refetch that an owner waited for has failed, so that its word counts as unbacked (R186). -/
def gaveUp (s : State) (owner block : Nat) : Bool :=
  s.gathers.any fun g => g.owner == owner && g.addr == ownAddr s block && g.failed.isSome

/-- An owner joins the readers that wait for the refetch of a bad word's block. -/
def pollRefetch (s : State) (owner word region : Nat) : State :=
  let join (r : Refetch) : Refetch := { r with pollers := setInsert r.pollers owner }
  let s := refetchStart s word region
  { s with refetch := replaceFirst (fun r => r.block == blockOf word) join s.refetch }

/-- A range read by the own cluster on behalf of `owner`: scratchpad at once, outside memory through a
gather.  Nothing here is checked by the protection table. -/
def readRange (s : State) (owner addr len : Nat) : State × Rd :=
  if len = 0 then (s, .bytes [])
  else if isOwn s addr && !inSpm s (offsetOf addr) len then
    -- an engine's read of the register or doorbell window has no size that R167 allows
    let src := match descGet s owner with
      | some d => d.src
      | none => ownId s
    (noteRefusal s true src addr reasonSize, .failed reasonSize)
  else if isOwn s addr then
    let off := offsetOf addr
    let s := settleRange (wakeBanks s off len) off len
    if (ordOver s off len).isSome then
      let src := match descGet s owner with
        | some d => d.src
        | none => ownId s
      (noteRefusal s true src addr reasonHeld, .failed reasonHeld)
    else match spmBadIn s off len with
      | none => (s, .bytes (spmBytes s off len))
      | some w =>
        match backOf s w with
        | some n =>
          if gaveUp s owner (blockOf w) then (s, .bad w)
          else (pollRefetch s owner w n, .refetch (blockOf w))
        | none => (s, .bad w)
  else
    let s := gatherStart s owner addr len
    match gatherGet s owner addr len with
    | .bytes bs => (s, .bytes bs)
    | .failed c => (s, .failed c)
    | .waiting => (s, .waiting)

/-- A write by one of the cluster's own units, which the protection table does not check: to the own
scratchpad or to chip memory, answered to `a.who` (R171). -/
def unitWrite (s : State) (owner : Option Nat) (a : Access) : State :=
  if isOwn s a.addr then
    match mapRefusal s a with
    | some n => refuseAccess s true a n
    | none => serveNow s owner a
  else (sendOutside s a false).1

/-- The log detail of a parity error in a scratchpad word (R310). -/
def badDetail (s : State) (w : Nat) : Detail :=
  { resource := bankResource w, addr := BitVec.ofNat 64 (ownAddr s w) }

/-- The status and the details that a failed read gives (R176, R188, R189). -/
def rdFault (s : State) (addr : Nat) : Rd → Option (Nat × Detail)
  | .bad w => some (stDataParity, badDetail s w)
  | .failed c => some (gotStatus c, { addr := BitVec.ofNat 64 addr, info0 := if c < 8 then BitVec.ofNat 64 c else 0 })
  | _ => none

end Sys2Proof.Machine
end

