-- ==== Sys2Proof/Machine/Insn.lean ====
section
/-! DEFINITION. The instruction words of the task cores: fields (R130), the decoder of R131, R143 and R157,
and a thread's registers (R128). -/
namespace Sys2Proof.Machine

/-- The instructions of R131, R143 and R157. -/
inductive Mn where
  | nop | exit | fret | brk
  | add | sub | and | or | xor | shl | shr | sra | mul | mulh | mulhu | min | max | minu | maxu | jalr
  | addi | andi | ori | xori | shli | shri | srai | li | uins
  | peq | pne | plt | pltu | pge | pgeu | pand | por | pxor | br | jal
  | ldb | ldh | ldw | ldd | ldsb | ldsh | ldsw | stb | sth | stw | std | sysr | sysw
  | tzero | tload | tstore | tget | tput | twait | tcfg | tcfgm | tmma | tbind | tfree
  | eissue | ewait | etest | mcopy | cwait | fencer | acq | acqall | gbar | stc
  | amo (op : Nat) | famoF32 | famoBf16 | cbar | cred
deriving DecidableEq, Repr

/-- Fields of an instruction word (R130). -/
def iD (w : Word) : Nat := bitsOf 21 17 w.toNat
@[inherit_doc iD] def iA (w : Word) : Nat := bitsOf 16 12 w.toNat
@[inherit_doc iD] def iB (w : Word) : Nat := bitsOf 11 7 w.toNat
@[inherit_doc iD] def iFn (w : Word) : Nat := bitsOf 6 0 w.toNat
@[inherit_doc iD] def iOp (w : Word) : Nat := bitsOf 31 26 w.toNat
@[inherit_doc iD] def iTD (w : Word) : Nat := bitsOf 21 19 w.toNat
@[inherit_doc iD] def iTA (w : Word) : Nat := bitsOf 18 16 w.toNat
@[inherit_doc iD] def iTB (w : Word) : Nat := bitsOf 15 13 w.toNat
@[inherit_doc iD] def iSA (w : Word) : Nat := bitsOf 12 8 w.toNat
@[inherit_doc iD] def iSB (w : Word) : Nat := bitsOf 7 3 w.toNat

/-- The 12-bit immediate, sign-extended. -/
def iImm12 (w : Word) : Dword := BitVec.ofInt 64 (sext 12 (bitsOf 11 0 w.toNat))
/-- The 17-bit immediate, sign-extended. -/
def iImm17 (w : Word) : Dword := BitVec.ofInt 64 (sext 17 (bitsOf 16 0 w.toNat))
/-- The 22-bit branch offset in instructions, sign-extended. -/
def iOff22 (w : Word) : Dword := BitVec.ofInt 64 (sext 22 (bitsOf 21 0 w.toNat))

/-- The format A instruction of an OP and FN, with the fields it uses: d, a, b. -/
def insnA (op fn : Nat) : Option (Mn × Bool × Bool × Bool) :=
  match op, fn with
  | 0x00, 0x00 => some (.nop, false, false, false) | 0x00, 0x01 => some (.exit, false, true, false)
  | 0x00, 0x02 => some (.fret, false, false, false) | 0x00, 0x03 => some (.brk, false, false, false)
  | 0x01, 0x00 => some (.add, true, true, true) | 0x01, 0x01 => some (.sub, true, true, true)
  | 0x01, 0x02 => some (.and, true, true, true) | 0x01, 0x03 => some (.or, true, true, true)
  | 0x01, 0x04 => some (.xor, true, true, true) | 0x01, 0x05 => some (.shl, true, true, true)
  | 0x01, 0x06 => some (.shr, true, true, true) | 0x01, 0x07 => some (.sra, true, true, true)
  | 0x01, 0x08 => some (.mul, true, true, true) | 0x01, 0x09 => some (.mulh, true, true, true)
  | 0x01, 0x0A => some (.mulhu, true, true, true) | 0x01, 0x0B => some (.min, true, true, true)
  | 0x01, 0x0C => some (.max, true, true, true) | 0x01, 0x0D => some (.minu, true, true, true)
  | 0x01, 0x0E => some (.maxu, true, true, true) | 0x01, 0x10 => some (.jalr, true, true, false)
  | 0x24, 0x00 => some (.eissue, true, true, true) | 0x24, 0x01 => some (.ewait, true, true, false)
  | 0x24, 0x02 => some (.etest, true, true, false) | 0x25, 0x00 => some (.mcopy, true, true, true)
  | 0x28, 0x00 => some (.cwait, true, true, true) | 0x28, 0x01 => some (.fencer, false, false, false)
  | 0x28, 0x02 => some (.acq, false, true, true) | 0x28, 0x03 => some (.acqall, false, false, false)
  | 0x28, 0x04 => some (.gbar, false, false, false) | 0x28, 0x05 => some (.stc, true, true, true)
  | 0x2C, 0x00 => some (.cbar, true, true, false) | 0x2C, 0x01 => some (.cred, true, true, true)
  | 0x29, f =>
    if f ≥ 64 then none
    else match f % 16, f / 16 with
      | 7, 0 => some (.famoF32, true, true, true)
      | 7, 2 => some (.famoBf16, true, true, true)
      | o, 0 => if o < 7 then some (.amo o, true, true, true) else none
      | o, 1 => if o < 7 then some (.amo o, true, true, true) else none
      | _, _ => none
  | _, _ => none

/-- The format P instruction of an FN, and whether its operands are predicates. -/
def insnP (fn : Nat) : Option (Mn × Bool) :=
  match fn with
  | 0x00 => some (.peq, false) | 0x01 => some (.pne, false) | 0x02 => some (.plt, false)
  | 0x03 => some (.pltu, false) | 0x04 => some (.pge, false) | 0x05 => some (.pgeu, false)
  | 0x08 => some (.pand, true) | 0x09 => some (.por, true) | 0x0A => some (.pxor, true)
  | _ => none

/-- The format T instruction of an OP and FN, with the bits [21:3] it uses. -/
def insnT (op fn : Nat) : Option (Mn × Nat) :=
  let td := 0x380000
  let ta := 0x070000
  let tb := 0x00E000
  let sa := 0x001F00
  let sb := 0x0000F8
  match op, fn with
  | 0x20, 0 => some (.tzero, ta) | 0x20, 1 => some (.tload, ta + sa + sb) | 0x20, 2 => some (.tstore, ta + sa + sb)
  | 0x20, 3 => some (.tget, ta + sa + sb) | 0x20, 4 => some (.tput, ta + sa + sb) | 0x20, 5 => some (.twait, 0)
  | 0x20, 6 => some (.tcfg, ta + sa) | 0x20, 7 => some (.tcfgm, sa)
  | 0x21, 0 => some (.tmma, td + ta + tb + 0x700) | 0x21, 1 => some (.tbind, sa + sb + 0x2000)
  | 0x21, 2 => some (.tfree, 0)
  | _, _ => none

/-- The instruction a word encodes; none where R130 raises ILLEGAL. -/
def insnOf (w : Word) : Option Mn :=
  let n := w.toNat
  let noA := iA w == 0
  match iOp w with
  | 0x02 => some .addi | 0x03 => some .andi | 0x04 => some .ori | 0x05 => some .xori
  | 0x06 => if bitsOf 11 6 n = 0 then some .shli else none
  | 0x07 => if bitsOf 11 6 n = 0 then some .shri else none
  | 0x08 => if bitsOf 11 6 n = 0 then some .srai else none
  | 0x09 => some .li | 0x0A => some .uins | 0x0C => some .br | 0x0D => some .jal
  | 0x0B =>
    if bitsOf 18 17 n != 0 then none
    else match insnP (iFn w) with
      | some (m, true) => if bitsOf 16 15 n = 0 && bitsOf 11 10 n = 0 then some m else none
      | some (m, false) => some m
      | none => none
  | 0x10 => some .ldb | 0x11 => some .ldh | 0x12 => some .ldw | 0x13 => some .ldd
  | 0x14 => some .ldsb | 0x15 => some .ldsh | 0x16 => some .ldsw
  | 0x18 => some .stb | 0x19 => some .sth | 0x1A => some .stw | 0x1B => some .std
  | 0x3E => if noA then some .sysr else none
  | 0x3F => if iD w = 0 then some .sysw else none
  | 0x20 | 0x21 =>
    match insnT (iOp w) (bitsOf 2 0 n) with
    | some (m, used) => if (bitsOf 21 3 n * 8) &&& (0x3FFFF8 - used) = 0 then some m else none
    | none => none
  | op =>
    match insnA op (iFn w) with
    | some (m, d, a, b) =>
      if (d || iD w == 0) && (a || noA) && (b || iB w == 0) then some m else none
    | none => none

/-- A scalar register; s0 reads zero (R128). -/
def sGet (x : Thread) (n : Nat) : Dword := if n = 0 then 0 else (x.s[n]?).getD 0

/-- A scalar register written; s0 discards (R128). -/
def sSet (x : Thread) (n : Nat) (v : Dword) : Thread := if n = 0 then x else { x with s := x.s.set n v }

/-- A predicate; p0 reads true (R128). -/
def pGet (x : Thread) (n : Nat) : Bool := if n = 0 then true else (x.p[n]?).getD false

/-- A predicate written; p0 discards (R128). -/
def pSet (x : Thread) (n : Nat) (v : Bool) : Thread := if n = 0 then x else { x with p := x.p.set n v }

/-- Whether the guard lets the instruction act (R128, R130). -/
def guardOk (x : Thread) (w : Word) : Bool := pGet x (bitsOf 24 22 w.toNat) != bitOf 25 w.toNat

/-- A group and one of its threads. -/
def threadAt (s : State) (t : Nat) : Option (Group × Thread) :=
  match s.groups[t / 4]? with
  | some g => match g.threads[t % 4]? with
    | some x => some (g, x)
    | none => none
  | none => none

/-- A group changed. -/
def groupUpd (s : State) (g : Nat) (f : Group → Group) : State := { s with groups := setAt s.groups g f }

/-- Length of the loaded image. -/
def imageLen (g : Group) : Nat :=
  match g.launch with
  | some l => l.progLen
  | none => 0

/-- The word a thread fetches, if its PC lies below the loaded image length. -/
def fetchWord (g : Group) (x : Thread) : Option Word :=
  if x.pc.toNat < imageLen g then some (BitVec.ofNat 32 (fieldAt (padTo (x.pc.toNat + 4) g.store) x.pc.toNat 4))
  else none

/-- Whether a thread may issue: the cluster acts, its group runs, and nothing holds it (R124, R132). -/
def mayIssue (s : State) (g : Group) (x : Thread) : Bool := live s && g.state == 1 && !x.ended && x.hold == .free

/-- The thread advanced past its instruction. -/
def nextPc (x : Thread) : Thread := { x with pc := x.pc + 4, hold := .free, ret := none, noAlloc := false }

end Sys2Proof.Machine
end

