-- ==== Sys2Proof/Machine/Parts.lean ====
section
/-! DEFINITION. The fields of a matrix descriptor (R47, R229), its mode (R51, R54), and the partitions of the arrays:
who holds them, and the list that a descriptor would form of them (R52, R53). -/
namespace Sys2Proof.Machine

/-- The format of a code; codes that R18 does not list are rejected at validation. -/
def fmtAt (code : Nat) : Fmt := (fmtOfCode code).getD .fp32

/-! The matrix descriptor (R47, R229). -/

/-- Fields of a matrix descriptor (R229). -/
def mxDiag (d : Desc) : Bool := dop d == 0x11
@[inherit_doc mxDiag] def mxFwd (d : Desc) : Bool := !bitOf 0 (dfield d 32 1)
@[inherit_doc mxDiag] def mxPart (d : Desc) : Nat := dbits d 32 1 2 1
@[inherit_doc mxDiag] def mxCEn (d : Desc) : Bool := bitOf 3 (dfield d 32 1)
@[inherit_doc mxDiag] def mxRetain (d : Desc) : Bool := bitOf 4 (dfield d 32 1)
@[inherit_doc mxDiag] def mxArrays (d : Desc) : Nat := dbits d 33 1 3 0
@[inherit_doc mxDiag] def mxFmtA (d : Desc) : Nat := dbits d 34 1 4 0
@[inherit_doc mxDiag] def mxFmtB (d : Desc) : Nat := dbits d 35 1 4 0
@[inherit_doc mxDiag] def mxM (d : Desc) : Nat := dbits d 36 4 24 0
@[inherit_doc mxDiag] def mxN (d : Desc) : Nat := dbits d 40 4 24 0
@[inherit_doc mxDiag] def mxK (d : Desc) : Nat := dbits d 44 4 24 0
@[inherit_doc mxDiag] def mxA (d : Desc) : Nat := dfield d 48 8
@[inherit_doc mxDiag] def mxB (d : Desc) : Nat := dfield d 56 8
@[inherit_doc mxDiag] def mxAScale (d : Desc) : Nat := dfield d 64 8
@[inherit_doc mxDiag] def mxBScale (d : Desc) : Nat := dfield d 72 8
@[inherit_doc mxDiag] def mxAStride (d : Desc) : Nat := dfield d 80 4
@[inherit_doc mxDiag] def mxBStride (d : Desc) : Nat := dfield d 84 4
@[inherit_doc mxDiag] def mxTsA (d : Desc) : Word := BitVec.ofNat 32 (dfield d 88 4)
@[inherit_doc mxDiag] def mxTsB (d : Desc) : Word := BitVec.ofNat 32 (dfield d 92 4)
@[inherit_doc mxDiag] def mxC (d : Desc) : Nat := dfield d 96 8
@[inherit_doc mxDiag] def mxCStride (d : Desc) : Nat := dfield d 104 4
@[inherit_doc mxDiag] def mxChain (d : Desc) : Nat := dfield d 112 8

/-- AUTO (R54). -/
def autoMode (m n k : Nat) (fp4 fwd : Bool) : Nat :=
  let kp := ceilDiv k (if fp4 && fwd then 2 else 1)
  if m ≤ 64 || n ≤ 64 || kp ≤ 64 then 2
  else if m ≤ 512 || n ≤ 128 || kp ≤ 128 then 1
  else 0

/-- Partition edge and tile rows of a mode (R51). -/
def modeEdge (mode : Nat) : Nat := if mode = 0 then 256 else if mode = 1 then 128 else 64
@[inherit_doc modeEdge] def modeRows (mode : Nat) : Nat := if mode = 0 then 2048 else if mode = 1 then 1024 else 512

/-- The mode of a matrix descriptor: the one named, or the one that AUTO chooses (R54); a diagonal product runs in WHOLE
(R65). -/
def mxMode (d : Desc) : Nat :=
  if mxDiag d then 0
  else if mxPart d = 3 then
    autoMode (mxM d) (mxN d) (mxK d) (fmtFp4Class (fmtAt (mxFmtA d)) && fmtFp4Class (fmtAt (mxFmtB d))) (mxFwd d)
  else mxPart d

/-! Partitions (R52, R53, R292). -/

/-- The quad of an array that a partition lies in: partition `i` of a mode. -/
def quadOf (mode i : Nat) : List Nat :=
  match mode with
  | 0 => [0, 1, 2, 3]
  | 1 => [i]
  | _ => [i / 8 * 2 + i % 4 / 2]

/-- Whether a partition of a mode covers SIXTEENTH position `p` (R292). -/
def covers (mode part p : Nat) : Bool :=
  match mode with
  | 0 => true
  | 1 => quadOf 2 p == [part]
  | _ => part == p

/-- The islands of quad `4a + q` (R292). -/
def quadIslands (n : Nat) : List Nat := ((List.range 16).filter (covers 1 (n % 4))).map fun p => 16 * (n / 4) + p

/-- The runs of matrix descriptors. -/
def matrixRuns (s : State) : List MxRun :=
  s.descs.filterMap fun d => match d.engine with
    | .matrix r => if d.phase = .running || d.phase = .replaying then some r else none
    | _ => none

/-- Whether a running descriptor's partition list names an array. -/
def arrayBusy (s : State) (a : Nat) : Bool := (matrixRuns s).any fun r => r.parts.any fun p => p.1 == a

/-- The holder of quad `4a + q`, if a group holds it. -/
def quadHolder (s : State) (n : Nat) : Option Nat :=
  ((List.range s.groups.length).zip s.groups).findSome? fun (p : Nat × Group) =>
    if p.2.quad == some n then some p.1 else none

/-- Whether an array is idle: no descriptor and no group holds a part of it. -/
def arrayIdle (s : State) (a : Nat) : Bool :=
  !arrayBusy s a && ([0, 1, 2, 3].all fun q => (quadHolder s (4 * a + q)).isNone)

/-! The partition list (R53). -/

/-- Whether a descriptor is a matrix one. -/
def isMatrix (d : Desc) : Bool := dop d == 0x10 || dop d == 0x11

/-- Partitions of a mode. -/
def modeParts (mode : Nat) : Nat := if mode = 0 then 1 else if mode = 1 then 4 else 16

/-- The partition list that a descriptor would form now. -/
def formList (s : State) (mask mode : Nat) : List (Nat × Nat) :=
  ((List.range s.par.arrays).map fun a =>
    if bitOf a mask && (arrayIdle s a || (s.mxe.modes[a]?).getD 0 == mode) then
      ((List.range (modeParts mode)).filter fun p =>
        (quadOf mode p).all fun q => (quadHolder s (4 * a + q)).isNone).map fun p => (a, p)
    else []).flatten

/-- Whether a descriptor waits under R53 for an array: its list would be empty. -/
def waitsForArray (s : State) (d : Desc) (a : Nat) : Bool :=
  d.phase == .ready && d.free && isMatrix d && bitOf a (mxArrays d) && (formList s (mxArrays d) (mxMode d)).isEmpty

end Sys2Proof.Machine
end

