-- ==== Sys2Proof/Machine/Launch.lean ====
section
/-! DEFINITION. Launches of task-core groups: faults (R134 to R137), the bound quad (R148, R149), the ends of
a launch (R127), and the commands SUSPEND, RESUME and ABORT with the save area (R154 to R156). -/
namespace Sys2Proof.Machine

/-! The bound quad (R148, R149). -/

/-- Whether a quad may be bound (R149). -/
def quadFreeFor (s : State) (mask n : Nat) : Bool :=
  let a := n / 4
  bitOf n mask && bitOf n (regGet s 0x400100) && a < s.par.arrays && (quadHolder s n).isNone
    && !((matrixRuns s).any fun r => r.parts.any fun p => p.1 == a && (quadOf r.mode p.2).contains (n % 4))
    && ((s.mxe.modes[a]?).getD 0 == 1 || arrayIdle s a)
    && !(s.descs.any fun d => waitsForArray s d a)

/-- The lowest-numbered candidate of a bind. -/
def bindPick (s : State) (mask : Nat) : Option Nat := (List.range 16).find? (quadFreeFor s mask)

/-- The mask of a group's waiting bind: the saved one while it is RESUMING, else that of the `tbind` at the
head of its queue. -/
def bindMaskOf (g : Group) : Nat :=
  if g.state = 4 then g.bindMask.toNat else match g.tq with
    | o :: _ => bitsOf 15 0 o.sa.toNat
    | [] => 0

/-- Whether no bind that began to wait before group `g`'s could be served now (R149).  DESIGN CHOICE (assumption 138):
an earlier bind that has no candidate does not hold back a later one that has. -/
def bindTurn (s : State) (g since : Nat) : Bool :=
  ((List.range s.groups.length).zip s.groups).all fun (p : Nat × Group) =>
    match p.2.bindSince with
    | some t => p.1 == g || since < t || (since == t && g < p.1) || (bindPick s (bindMaskOf p.2)).isNone
    | none => true

/-- A group's work on a quad waits: its islands wake, or PTM does not admit its start yet (R294, R298). -/
def quadHeld (s : State) (n : Nat) : Option State :=
  match wakeFor s (quadIslands n) with
  | some s => some s
  | none => if admitted s then none else some s

/-- An array's mode changes, which clears its retained planes (R61). -/
def setMode (s : State) (a mode : Nat) : State :=
  if (s.mxe.modes[a]?).getD 0 = mode then s
  else { s with mxe := { s.mxe with modes := s.mxe.modes.set a mode, planes := s.mxe.planes.filter fun p => p.array != a } }

/-- MXE_QOWN as the holders stand (R148). -/
def syncOwners (s : State) : State :=
  [0, 1, 2, 3].foldl (fun s a =>
    regPut s (0x400110 + 4 * a) (([0, 1, 2, 3].map fun q => match quadHolder s (4 * a + q) with
      | some g => (g + 128) * 256 ^ q
      | none => 0).foldl (· + ·) 0)) s

/-- A group takes a quad: the array turns to QUAD and the retained planes there are cleared (R61, R149). -/
def quadTake (s : State) (g n mask : Nat) : State :=
  let s := setMode s (n / 4) 1
  let s := { s with mxe := { s.mxe with planes := s.mxe.planes.filter fun p => !(p.array == n / 4 && p.part == n % 4) } }
  syncOwners (groupUpd s g fun x => { x with quad := some n, bindMask := BitVec.ofNat 16 mask, bindSince := none })

/-- A group's quad is released; its reuse tags are cleared (R149, R153). -/
def quadRelease (s : State) (g : Nat) : State :=
  syncOwners (groupUpd s g fun x => { x with quad := none, tags := [], feeder := none, bindSince := none })

/-! Faults (R134 to R137). -/

/-- The status of a launch that a fault ends (R239). -/
def statusOfCause (c : Nat) : Nat :=
  if c = 0x05 then stDataParity else if c = 0x06 then stUnreachable else if c = 0x09 then stFormatInvalid
  else 0x0300 + c

/-- Collectives of a group's threads that have not started are given up (R137, R155). -/
def dropColls (s : State) (g : Nat) : State :=
  { s with descs := s.descs.filter fun d => match d.issue with
    | some i => !(i.group == g && i.slot ≥ 16 && (d.phase == .fetched || d.phase == .ready))
    | none => true }

/-- The launch of a group ends: its threads stop and abandon their waits, and the tile instructions not
started are discarded (R137). -/
def endLaunch (s : State) (g status : Nat) (th : Option Nat) : State :=
  groupUpd (dropColls s g) g fun x => { x with
    state := 5
    launch := x.launch.map fun l => { l with fate := l.fate.orElse fun _ => some (status, th) }
    tq := x.tq.filter fun o => o.begun
    bindSince := none }

/-- A thread faults with a cause and two details: its handler runs, or the launch ends (R136, R137). -/
def raiseFault (s : State) (t cause : Nat) (i0 i1 : Dword) : State :=
  match threadAt s t with
  | none => s
  | some (g, x) =>
    let handled := g.fhandler != 0 && !x.hmode
    let x' := { x with
      fpc := x.pc, fcause := BitVec.ofNat 8 cause, finfo0 := i0, finfo1 := i1
      hold := .free, ret := none, noAlloc := false
      hmode := x.hmode || handled
      pc := if handled then g.fhandler.setWidth 64 else x.pc }
    let s := groupUpd (threadUpd s t fun _ => x') (t / 4) fun g => { g with lastCause := cause }
    if handled then s else endLaunch s (t / 4) (statusOfCause cause) (some (t % 4))

/-- The details of R135 for a cause with an address. -/
def raiseAt (s : State) (t cause : Nat) (addr : Nat) : State := raiseFault s t cause (BitVec.ofNat 64 addr) 0

/-! The ends of a launch (R127, R137). -/

/-- Whether a group's threads, its tile queue and its writes have all settled. -/
def groupDrained (g : Group) : Bool :=
  g.tq.isEmpty && g.threads.all fun x => x.unacked == 0
    && (match x.hold with
      | .load .. | .atomic .. | .read _ => x.ret.isSome
      | _ => true)

/-- The launch's part of a completion record (R235): exit values, and the faulting thread's details. -/
def launchBody (gi : Nat) (g : Group) (th : Option Nat) : List Byte :=
  let exits := (g.threads.map fun x => if x.ended then toLe 2 x.exitVal.toNat else toLe 2 0).flatten
  match th with
  | none => exits ++ toLe 12 0
  | some k =>
    match g.threads[k]? with
    | some x => exits ++ toLe 1 (128 + 4 * (gi % 2) + k) ++ toLe 1 0 ++ toLe 2 x.fpc.toNat ++ toLe 8 x.finfo0.toNat
    | none => exits ++ toLe 12 0

/-- Fields of a TCFG entry (R139). -/
def tRows (c : Word) : Nat := bitsOf 7 0 c.toNat
@[inherit_doc tRows] def tBpr (c : Word) : Nat := bitsOf 15 8 c.toNat
@[inherit_doc tRows] def tFmt (c : Word) : Nat := bitsOf 20 16 c.toNat

/-- A group's TCFG entry and use mark of a tile. -/
def tcfgOf (g : Group) (i : Nat) : Word := (g.tcfg[i]?).getD 0
@[inherit_doc tcfgOf] def tuseOf (g : Group) (i : Nat) : Nat := (g.tuse[i]?).getD 0

/-- Bytes of the access that an instruction makes of memory (R132, R145, R158). -/
def accessLen (g : Group) (w : Word) : Nat :=
  match insnOf w with
  | some .ldb | some .ldsb => 1
  | some .ldh | some .ldsh => 2
  | some .ldw | some .ldsw => 4
  | some .eissue => 128
  | some .tcfgm => 32
  | some .tload | some .tstore => max 1 (tBpr (tcfgOf g (iTA w)))
  | some (.amo _) | some .famoF32 | some .famoBf16 => (atomicWidth (bitsOf 3 0 w.toNat) (bitsOf 5 4 w.toNat)).getD 8
  | _ => 8

/-- The scratchpad word whose bad parity a faulting thread's access met (R135, R310). -/
def faultWord (s : State) (g : Group) (y : Thread) : Option Nat :=
  let a := y.finfo0.toNat
  match fetchWord g { y with pc := y.fpc } with
  | some w =>
    if y.fcause != 0x05 || g.storeBad.contains (y.fpc.toNat / 4 * 4) || !isOwn s a then none
    else spmBadIn s (offsetOf a) (accessLen g w)
  | none => none

/-- An idle group: what a launch leaves is discarded (R126, R127); LAST_CAUSE and CMD_REFUSED stay. -/
def idleGroup (g : Group) : Group := { lastCause := g.lastCause, refused := g.refused }

/-- A drained launch gives up its quad and its tiles, and its descriptor ends. -/
def retireLaunch (s : State) (gi : Nat) (status : Nat) (th : Option Nat) : State :=
  match s.groups[gi]? with
  | none => s
  | some g =>
    match g.launch with
    | none => s
    | some l =>
      let det : Detail :=
        match th.bind fun k => g.threads[k]? with
        | some y =>
          let refused := status = 0x0304 || status = stDataParity || status = stUnreachable
          { addr := if refused then y.finfo0 else 0, info0 := y.finfo0, info1 := y.finfo1 }
        | none => match descGet s l.desc with
          | some d => d.detail
          | none => {}
      let s := groupUpd (quadRelease s gi) gi idleGroup
      let s := descUpd s l.desc fun d => { d with body := launchBody gi g th, engine := .none }
      -- R310, R312: bad parity of an own scratchpad word names its bank and the word
      let det := match (th.bind fun k => g.threads[k]?).bind (faultWord s g) with
        | some w => { det with resource := bankResource w, addr := BitVec.ofNat 64 (ownAddr s w) }
        | none => det
      endDesc s l.desc status det

/-! Suspension (R154 to R156). -/

/-- TC_GRPn_SAVE. -/
def saveAddr (s : State) (g : Nat) : Nat := regPair s (0x600408 + 0x20 * g)

/-- Bytes of the largest save area (R156). -/
def saveMax : Nat := 132608

/-- Whether a save address lies in the own near scratchpad at a 128-byte boundary (R155). -/
def saveOk (s : State) (a : Nat) : Bool := isOwn s a && a % 128 == 0 && inNear s (offsetOf a) 1

/-- Bytes of a save area that lie in the near scratchpad. -/
def saveRoom (s : State) (off : Nat) : Nat := min saveMax (nearSize s - off)

/-- A command of R155 is refused. -/
def refuseGroup (s : State) (g : Nat) : State := groupUpd s g fun x => { x with refused := true }

/-- A descriptor of a group's launch that still runs: an `eissue`, an `mcopy`, or a started collective. -/
def groupWaits (g : Group) : Bool :=
  g.tickets.any (·.pending) || g.threads.any fun x => match x.hold with
    | .coll _ started => started
    | _ => false

/-- SUSPEND: the threads stop at instruction boundaries, and waits are abandoned (R155). -/
def suspendCmd (s : State) (g : Nat) : State :=
  match s.groups[g]? with
  | none => s
  | some x =>
    if x.state != 1 || !saveOk s (saveAddr s g) then refuseGroup s g
    else groupUpd (dropColls s g) g fun x => { x with
      state := 2, refused := false, bindSince := none
      tq := x.tq.filter fun o => iOp o.word != 0x21 || bitsOf 2 0 o.word.toNat != 1
      threads := x.threads.map fun y => match y.hold with
        | .cwait _ | .gbar | .coll _ false => { y with hold := .free }
        | .tile n => if x.tq.any (fun o => o.n == n && iOp o.word == 0x21 && bitsOf 2 0 o.word.toNat == 1)
            then { y with hold := .free } else y
        | _ => y }

/-- ABORT (R155): ends the launch as R137 does; a suspended one at once. -/
def abortCmd (s : State) (g : Nat) : State :=
  match s.groups[g]? with
  | none => s
  | some x =>
    if x.state = 0 || !saveOk s (saveAddr s g) then refuseGroup s g
    else if x.state = 3 then
      let s := groupUpd s g fun y => { y with refused := false }
      retireLaunch s g stAborted none
    else if x.state = 5 then groupUpd s g fun y => { y with refused := false }
    else endLaunch (groupUpd s g fun y => { y with refused := false }) g stAborted none

/-- A tile's row of storage: byte `b` of row `r` of tile `i` (R138, R409). -/
def tileByte (g : Group) (i r b : Nat) : Byte := mapGet (fun _ => (0 : Byte)) g.tiles (16384 * i + 128 * r + b)

/-- The rows of a tile below its use mark, BPR bytes each (R156). -/
def tileBytes (g : Group) (i rows bpr : Nat) : List Byte :=
  ((List.range rows).map fun r => (List.range bpr).map fun b => tileByte g i r b).flatten

/-- Rounds a byte string up to a multiple of 128 bytes with zeros. -/
def pad128 (bs : List Byte) : List Byte := padTo (ceilDiv bs.length 128 * 128) bs

/-- The saved CSTATUS: the threads' value when they agree; the four bytes cannot hold four values
(assumption 30). -/
def saveCstatus (g : Group) : Option Word :=
  let c := (g.threads.map (·.cstatus)).headD 0
  if g.threads.all (fun x => x.cstatus == c) then some c else none

/-- The save area of R156; `cst` is the CSTATUS word. -/
def saveArea (g : Group) (l : Launch) (cst : List Byte) : List Byte :=
  let regs := (g.threads.map fun x => ((List.range 32).map fun j => toLe 8 (sGet x j).toNat).flatten).flatten
  let thr := (g.threads.map fun x =>
    toLe 4 x.pc.toNat ++ toLe 1 (((List.range 8).map fun j => boolBit (pGet x j) * 2 ^ j).foldl (· + ·) 0)
      ++ toLe 1 (boolBit x.hmode) ++ toLe 2 0
      ++ toLe 4 x.fpc.toNat ++ toLe 1 x.fcause.toNat ++ toLe 3 0 ++ toLe 8 x.finfo0.toNat ++ toLe 8 x.finfo1.toNat).flatten
  let cfg := (g.tcfg.map fun c => toLe 4 c.toNat).flatten
  let exited := (((List.range 4).zip g.threads).map fun (p : Nat × Thread) => boolBit p.2.ended * 2 ^ p.1).foldl (· + ·) 0
  let misc := toLe 4 g.tstart.toNat ++ toLe 1 g.tstat.toNat ++ toLe 1 exited ++ toLe 1 (boolBit g.quad.isSome)
    ++ toLe 1 0 ++ toLe 2 g.bindMask.toNat ++ toLe 2 0 ++ toLe 4 g.fhandler.toNat ++ cst
    ++ (g.threads.map fun x => toLe 2 x.exitVal.toNat).flatten ++ toLe 4 g.tstartStride.toNat
  let tick := (g.tickets.map fun k => toLe 8 k.seq ++ toLe 2 k.status ++ toLe 1 (boolBit k.valid) ++ toLe 5 0).flatten
  let last := toLe 8 l.prog ++ toLe 4 l.progLen ++ toLe 8 l.desc ++ toLe 4 l.ring ++ toLe 4 l.src ++ toLe 4 l.cls
    ++ toLe 8 g.tstartAddr.toNat ++ g.tuse.map (BitVec.ofNat 8) ++ toLe 16 0
  let tiles := ((List.range 8).map fun i =>
    if tuseOf g i = 0 then [] else pad128 (tileBytes g i (tuseOf g i) (tBpr (tcfgOf g i)))).flatten
  regs ++ thr ++ cfg ++ misc ++ tick ++ last ++ tiles

/-- A thread whose `fence.r` completes while its group suspends (R155): a deferred refusal faults there. -/
def finishFence (s : State) (t : Nat) : State :=
  match threadAt s t with
  | some (_, x) =>
    if x.hold = .fence then
      match x.deferred with
      | some (c, a) => raiseFault (threadUpd s t fun x => { x with deferred := none }) t c a 0
      | none => threadUpd s t nextPc
    else s
  | none => s

/-- The write of the save area.  What of it lies beyond the near scratchpad is not stored (assumption 139). -/
def saveGroup (s : State) (g : Nat) (x : Group) (l : Launch) : State :=
  let r := match saveCstatus x with
    | some c => (toLe 4 c.toNat, s)
    | none => drawBytes s 4
  let at' := saveAddr s g
  let bs := (saveArea x l r.1).take (saveRoom s (offsetOf at'))
  let s := groupUpd r.2 g fun x => { x with saving := .awaited, saved := (offsetOf at', bs.length) }
  serveNow s none { kind := .write, addr := at', len := bs.length, data := bs, steward := true, src := ownId s, who := .save g }

/-- The end of a suspension, once the save area's write is answered: a failed one ends the launch
(assumption 139). -/
def saveEnd (s : State) (g : Nat) : State :=
  match s.groups[g]? with
  | some x => match x.saving with
    | .done => groupUpd (quadRelease s g) g fun x => { x with state := 3, saving := .no, saveWild := false }
    | .failed st => endLaunch (groupUpd s g fun x => { x with saving := .no }) g st none
    | _ => s
  | none => s

/-- Whether a suspending group's drains have ended (R155). -/
def suspendReady (x : Group) : Bool :=
  let settled := x.threads.all fun y => match y.hold with
    | .free | .fence | .debug => true
    | .read _ => (fetchWord x y).bind insnOf != some .tcfgm
    | _ => false
  x.state = 2 && groupDrained x && settled && !groupWaits x

/-- A thread as a save area holds it (R156). -/
def loadThread (bs : List Byte) (k : Nat) : Thread :=
  let o := 0x400 + 0x20 * k
  { pc := BitVec.ofNat 64 (fieldAt bs o 4)
    s := (List.range 32).map fun j => BitVec.ofNat 64 (fieldAt bs (0x100 * k + 8 * j) 8)
    p := (List.range 8).map fun j => bitOf j (fieldAt bs (o + 4) 1)
    hmode := bitOf 0 (fieldAt bs (o + 5) 1)
    fpc := BitVec.ofNat 64 (fieldAt bs (o + 8) 4), fcause := BitVec.ofNat 8 (fieldAt bs (o + 12) 1)
    finfo0 := BitVec.ofNat 64 (fieldAt bs (o + 16) 8), finfo1 := BitVec.ofNat 64 (fieldAt bs (o + 24) 8)
    cstatus := BitVec.ofNat 32 (fieldAt bs 0x4B0 4)
    ended := bitOf k (fieldAt bs 0x4A5 1), exitVal := BitVec.ofNat 16 (fieldAt bs (0x4B4 + 2 * k) 2) }

/-- The tiles as a save area holds them, rows at or above the use marks zero (R156). -/
def loadTiles (bs : List Byte) : Nat → Nat → Nat → List Host.Cell → List Host.Cell
  | 0, _, _, m => m
  | fuel + 1, i, off, m =>
    let u := min (fieldAt bs (0x5E8 + i) 1) 128
    let bpr := bitsOf 15 8 (fieldAt bs (0x480 + 4 * i) 4)
    let m := (List.range u).foldl (fun m r =>
      mapSetAll (fun _ => (0 : Byte)) m (16384 * i + 128 * r) ((bs.drop (off + r * bpr)).take bpr)) m
    loadTiles bs fuel (i + 1) (if u = 0 then off else off + ceilDiv (u * bpr) 128 * 128) m

/-- The bytes of a save area: undefined ones where it lies beyond the near scratchpad or, with `wild`, everywhere
(R156). -/
def areaBytes (s : State) (off : Nat) (wild : Bool) : State × List Byte :=
  let n := if wild then 0 else saveRoom s off
  let d := drawBytes s (saveMax - n)
  (d.2, spmBytes s off n ++ d.1)

/-- The suspended group that holds a descriptor's launch. -/
def suspendedGroup (s : State) (d : Nat) : Option Nat :=
  ((List.range s.groups.length).zip s.groups).findSome? fun (p : Nat × Group) =>
    match p.2.launch with
    | some l => if l.desc = d && p.2.state == 3 then some p.1 else none
    | none => none

/-- The end of RESUMING: the quad is bound when one was held, and the threads continue (R155). -/
def resumeBind (s : State) (g : Nat) (held : Bool) (mask : Nat) : State :=
  if held then
    let n := newId s
    let since := ((s.groups[g]?).bind (·.bindSince)).getD n.1
    let s := n.2
    match bindTurn s g since, bindPick s mask with
    | true, some q => match quadHeld s q with
      | some s => groupUpd s g fun x => { x with bindSince := some since }
      | none => groupUpd (quadTake (risePower s) g q mask) g fun x => { x with state := 1 }
    | _, _ => groupUpd s g fun x => { x with bindSince := some since }
  else groupUpd s g fun x => { x with state := 1 }

/-- Bytes of the save area that its header gives (R156). -/
def savedLen (bs : List Byte) : Nat :=
  let tile (i : Nat) : Nat := min (fieldAt bs (0x5E8 + i) 1) 128 * bitsOf 15 8 (fieldAt bs (0x480 + 4 * i) 4)
  min saveMax (0x600 + ((List.range 8).map fun i => ceilDiv (tile i) 128 * 128).foldl (· + ·) 0)

/-- A group's state as a save area holds it (R156). -/
def reloadGroup (bs : List Byte) (x : Group) : Group :=
  { x with
    fhandler := BitVec.ofNat 32 (fieldAt bs 0x4AC 4)
    tcfg := (List.range 8).map fun i => BitVec.ofNat 32 (fieldAt bs (0x480 + 4 * i) 4)
    tuse := (List.range 8).map fun i => fieldAt bs (0x5E8 + i) 1
    tstat := BitVec.ofNat 8 (fieldAt bs 0x4A4 1)
    tstart := BitVec.ofNat 32 (fieldAt bs 0x4A0 4)
    tstartAddr := BitVec.ofNat 64 (fieldAt bs 0x5E0 8)
    tstartStride := BitVec.ofNat 32 (fieldAt bs 0x4BC 4)
    tiles := loadTiles bs 8 0 0x600 [], tileBad := []
    bindMask := BitVec.ofNat 16 (fieldAt bs 0x4A8 2), quad := none
    writes := [0, 0, 0, 0, 0, 0, 0, 0], tags := [], feeder := none
    tickets := (List.range 16).map fun i =>
      { seq := fieldAt bs (0x4C0 + 16 * i) 8, status := fieldAt bs (0x4C8 + 16 * i) 2
        valid := bitOf 0 (fieldAt bs (0x4CA + 16 * i) 1) }
    tq := [], threads := (List.range 4).map (loadThread bs) }

/-- A read of the save area or of the program image that a resumption cannot have ends the launch, with its details
(R312). -/
def resumeFails (s : State) (g d addr : Nat) (rd : Rd) : State :=
  match rdFault s addr rd with
  | some f => endLaunch (descUpd (gatherDrop s d) d fun d => { d with detail := f.2 }) g f.1 none
  | none => s

/-- The rest of a resumption, with the bytes of its save area: the state, then the program image, then the quad. -/
def resumeFrom (s : State) (g : Nat) (l : Launch) (bs : List Byte) : State :=
  let s := groupUpd s g (reloadGroup bs)
  let r := readRange s l.desc l.prog l.progLen
  match r.2 with
  | .bytes im =>
    let s := groupUpd (gatherDrop r.1 l.desc) g fun x => { x with store := im }
    resumeBind s g (bitOf 0 (fieldAt bs 0x4A6 1)) (fieldAt bs 0x4A8 2)
  | rd => resumeFails r.1 g l.desc l.prog rd

/-- Bytes of a save area that a resumption reads. -/
def areaLen (s : State) (off : Nat) : Nat := min (saveRoom s off) (savedLen (spmBytes s off 0x600))

/-- A resumption has read the `n` bytes of its save area. -/
def resumeArea (s : State) (g : Nat) (l : Launch) (wild : Bool) (n : Nat) : State :=
  let a := readRange s l.desc (saveAddr s g) n
  match a.2 with
  | .bytes _ =>
    let b := areaBytes a.1 (offsetOf (saveAddr s g)) wild
    resumeFrom b.1 g l b.2
  | rd => resumeFails a.1 g l.desc (saveAddr s g) rd

/-- Reloads a group from the save area: the state, then the program image, then the quad (R155, R156), once its
core is awake (R294).  A word of bad parity in the area is refetched or ends the launch, as one in the image does
(assumption 135).  Called again while the group is RESUMING. -/
def resumeStep (s : State) (g : Nat) : State :=
  match s.groups[g]? with
  | none => s
  | some x =>
    match x.launch, wakeFor s [68 + g / 2] with
    | none, _ => s
    | some _, some s => s
    | some l, none => resumeArea s g l x.saveWild (areaLen s (offsetOf (saveAddr s g)))

/-- An idle group takes the launch that the bytes of a save area name; the group that held it is idle.  The launch counts
as started now, at its resumption (R226; DESIGN CHOICE, assumption 172). -/
def resumeInto (s : State) (g off : Nat) (bs : List Byte) : State :=
  let d := fieldAt bs 0x5CC 8
  let held := suspendedGroup s d
  let wild := match held.bind fun o => s.groups[o]? with
    | some o => o.saveWild && o.saved.1 == off
    | none => false
  let n := newId s
  let id := if held.isSome then d else n.1
  let l : Launch := { desc := id, ring := fieldAt bs 0x5D4 4, src := fieldAt bs 0x5D8 4, cls := fieldAt bs 0x5DC 4
                      prog := fieldAt bs 0x5C0 8, progLen := fieldAt bs 0x5C8 4, started := n.1 }
  let s := match held with
    | some old => descUpd (groupUpd n.2 old idleGroup) d fun d => { d with engine := .launch g }
    | none => n.2
  resumeStep (groupUpd s g fun x =>
    { x with state := 4, refused := false, launch := some l, store := [], saveWild := wild }) g

/-- RESUME on an idle group (R155): the save area names the launch.  An area that names no suspended launch resumes
with a handle that no descriptor has, so that no record follows (assumption 50). -/
def resumeCmd (s : State) (g : Nat) : State :=
  match s.groups[g]? with
  | none => s
  | some x =>
    let a := saveAddr s g
    if x.state != 0 || !saveOk s a then refuseGroup s g
    else
      let off := offsetOf a
      let s := settleRange (wakeBanks s off (saveRoom s off)) off (saveRoom s off)
      let b := areaBytes s off false
      resumeInto b.1 g off b.2

/-- TC_GRPn_STATUS as the group stands (R154). -/
def groupStatus (g : Group) : Nat :=
  g.state + 8 * boolBit (g.threads.any (·.hmode)) + 16 * boolBit g.quad.isSome
    + 32 * (g.quad.getD 0)
    + 512 * (((List.range 8).map fun i => boolBit (tuseOf g i != 0) * 2 ^ i).foldl (· + ·) 0)
    + 2 ^ 17 * (g.lastCause % 256) + 2 ^ 25 * boolBit g.refused

end Sys2Proof.Machine
end

