-- ==== Sys2Proof/Machine/Rings.lean ====
section
/-! DEFINITION. Rings: contexts and completion rings (R214 to R218), doorbells (R219 to R222), the scheduler
(R223) and the ring commands of R217. -/
namespace Sys2Proof.Machine

/-- The cached context of a ring that is not DISABLED. -/
def ringGet (s : State) (r : Nat) : Option Ring := s.dre.rings.find? fun x => x.ring == r

/-- A cached context changed. -/
def ringUpd (s : State) (r : Nat) (f : Ring → Ring) : State :=
  { s with dre := { s.dre with rings := replaceFirst (fun x => x.ring == r) f s.dre.rings } }

/-- Rings that exist: below DRE_CTX_LIMIT and the ring count (R215). -/
def ringExists (s : State) (r : Nat) : Bool := r < regBits s 0x300018 18 0 && r < 2 ^ s.par.ringLog2

/-- Descriptors of a ring in flight, oldest first. -/
def ringDescs (s : State) (r : Nat) : List Desc := s.descs.filter fun d => d.ring == r && d.issue.isNone

/-- Whether a descriptor waits under DESC.barrier: an earlier one of its ring has not retired (R224). -/
def barrierHeld (s : State) (d : Desc) : Bool :=
  d.issue.isNone && bitOf 2 (dfield d 1 1) && (match ringDescs s d.ring with
    | x :: _ => x.id != d.id
    | [] => false)

/-- Validated descriptors whose barrier has been passed may start, unless a switch has stopped new starts
(R224, R350). -/
def freeBarriers (s : State) : State :=
  if s.dre.stopFetch then s
  else { s with descs := s.descs.map fun d =>
    if d.phase = .ready && !barrierHeld s d then { d with free := true } else d }

/-- Whether a descriptor is validated and may start (R224). -/
def mayStart (s : State) (d : Desc) : Bool := live s && d.phase == .ready && d.free

/-- Whether a waiting descriptor comes before another for a freed resource (R224). -/
def before (a b : Desc) : Bool := a.cls < b.cls || (a.cls == b.cls && a.id < b.id)

/-- Whether no other descriptor that may start and passes a test comes before this one. -/
def firstOf (s : State) (x : Desc) (p : Desc → Bool) : Bool :=
  !(s.descs.any fun y => y.id != x.id && mayStart s y && p y && before y x)

/-- The holds of a descriptor's read ranges start with its first read (R184, assumption 157). -/
def takeHolds (s : State) (d : Nat) (reads : List (Nat × Nat)) : State :=
  let hs := (reads.map fun r => if isOwn s r.1 then backOver s (offsetOf r.1) r.2 else []).flatten
  descUpd s d fun x => { x with holds := hs.foldl setInsert x.holds }

/-- Entries of the wait table taken (R231). -/
def waitsTaken (s : State) : Nat :=
  (s.descs.filter fun d => match d.engine with
    | .wait _ => d.phase == .running
    | _ => false).length

/-! The context cache (R215, R216, R218). -/

/-- Entries of the context cache in use. -/
def cacheUsed (s : State) : Nat :=
  (s.dre.rings.filter fun r => r.cached).length + (s.dre.cqs.filter fun q => q.cached).length

/-- Bytes that a write-back puts into an entry: undefined ones when the entry was written in use (R216, R217). -/
def backBytes (s : State) (wild : Bool) (bs : List Byte) : State × List Byte :=
  if wild then let d := drawBytes s bs.length; (d.2, d.1) else (s, bs)

/-- A write-back of part of an entry. -/
def entryBack (s : State) (wild : Bool) (who : Who) (addr : Nat) (bs : List Byte) : State :=
  let b := backBytes s wild bs
  unitWrite b.1 none { kind := .write, addr := addr, len := bs.length, data := b.2, steward := true, src := ownId s, who := who }

/-- The hardware-written fields of a context go back to its entry; the state the entry takes is given (R215). -/
def ringBack (s : State) (r : Ring) (state : Nat) (who : Who) : State :=
  let a := ctxAddr s r.ring
  let s := entryBack s r.overwritten who (a + 20) (toLe 2 r.head ++ toLe 2 r.tail ++ toLe 4 r.seq)
  let s := entryBack s r.overwritten who (a + 40) (toLe 1 state)
  entryBack s r.overwritten who (a + 42) (toLe 2 r.haltStatus ++ toLe 4 r.haltSeq)

/-- CQE.WIDX goes back to its entry (R216). -/
def cqBack (s : State) (q : Cq) (who : Who) : State :=
  entryBack s q.overwritten who (cqAddr s q.cq + 10) (toLe 2 q.widx)

/-- A completion ring's entry changed. -/
def cqUpd (s : State) (q : Nat) (f : Cq → Cq) : State :=
  { s with dre := { s.dre with cqs := replaceFirst (fun x => x.cq == q) f s.dre.cqs } }

/-- Room for one more entry: with the cache full, one of its entries leaves it and is written back.  Which one
leaves, the spec does not say: a free value picks it (assumption 152). -/
def cacheRoom (s : State) : State :=
  if cacheUsed s < 4096 then s
  else
    let k := draw s 1
    let i := (Config.freeWord k.1).toNat % cacheUsed s
    let rs := s.dre.rings.filter fun r => r.cached
    match rs[i]?, (s.dre.cqs.filter fun q => q.cached)[i - rs.length]? with
    | some r, _ => ringBack (ringUpd k.2 r.ring fun r => { r with cached := false }) r r.state .evict
    | none, some q => cqBack (cqUpd k.2 q.cq fun q => { q with cached := false }) q .evict
    | none, none => s

/-- A ring is served with its context in the cache. -/
def cacheRing (s : State) (r : Nat) : State :=
  if (ringGet s r).any fun x => !x.cached then ringUpd (cacheRoom s) r fun x => { x with cached := true } else s

/-- A completion ring is served with its entry in the cache. -/
def cacheCq (s : State) (q : Nat) : State :=
  if s.dre.cqs.any fun x => x.cq == q && !x.cached then cqUpd (cacheRoom s) q fun x => { x with cached := true } else s

/-- A use of a ring's cached context checks its parity (R310). -/
def contextParity (s : State) (r : Nat) : State :=
  if s.dre.bad.contains r && (ringGet s r).isSome then
    raiseErr s { code := 0x0303, cls := 3, internal := true, resource := resource 10 0, unit := 2, ring := r }
  else s

/-- Whether a ring is ready (R222); a ring at or above DRE_CTX_LIMIT does not exist for any purpose (R215). -/
def ringReady (s : State) (r : Ring) : Bool :=
  let ds := ringDescs s r.ring
  r.state == 1 && ringExists s r.ring && !r.disabling && !s.dre.stopFetch && dist16 r.tail r.fetch != 0 && ds.length < r.depth
    && !(ds.any fun d => d.phase == .ready && (barrierHeld s d || (dop d == 0x02 && waitsTaken s ≥ 2048)))

/-- The rings' ready times follow their readiness (R223). -/
def ringSync (s : State) : State :=
  let upd (r : Ring) : Ring :=
    if ringReady s r then { r with readySince := some (r.readySince.getD s.osc) } else { r with readySince := none }
  { s with dre := { s.dre with rings := s.dre.rings.map upd } }

/-! Doorbells (R219 to R221). -/

/-- A refused doorbell is counted and recorded (R220, R242). -/
def bellRefuse (s : State) (src value reason : Nat) : State :=
  let s := regCount s 0x300050
  let s := regPutPair s 0x300054 value
  regPut s 0x30005C (src % 2 ^ 19 + 2 ^ 20 * reason + 2 ^ 31)

/-- Whether one of the ring's descriptors stands between steps 10 and 13 of R14 (R221). -/
def ringRetiring (s : State) (r : Nat) : Bool :=
  (ringDescs s r).any fun d => d.phase == .recording || d.phase == .counting || d.phase == .ringing

/-- A tail that passed its checks raises CTX.TAIL when it lies further ahead (R220). -/
def raiseTail (r : Ring) (tail : Nat) : Ring :=
  if dist16 tail r.head > dist16 r.tail r.head then { r with tail := tail } else r

/-- DRE applies a doorbell that has passed the protection check (R220, R221). -/
def applyDoorbell (s : State) (src value : Nat) : State :=
  let ring := bitsOf 17 0 value
  let tail := bitsOf 47 32 value
  if bitsOf 31 18 value != 0 || bitsOf 63 48 value != 0 then bellRefuse s src value 1
  else if !ringExists s ring then bellRefuse s src value 2
  else match ringGet s ring with
    | none => bellRefuse s src value 3
    | some r =>
      let s := contextParity s ring
      if !live s then s
      else if ringRetiring s ring then
        let h := (r.head + 1) % 65536
        if dist16 tail h > 2 ^ r.log2 then bellRefuse s src value 4
        else ringUpd s ring fun r => { r with latch := some (match r.latch with
          | some t => if dist16 tail h > dist16 t h then tail else t
          | none => tail) }
      else if dist16 tail r.head > 2 ^ r.log2 then bellRefuse s src value 4
      else ringSync (ringUpd (cacheRing s ring) ring fun r => raiseTail r tail)

/-! Scheduling and fetching (R223). -/

/-- The first ring of a list above the last one fetched, wrapping to the lowest. -/
def nextRing (rs : List Ring) (last : Nat) : Option Ring :=
  let pick (p : Ring → Bool) : Option Ring := (rs.filter p).foldl (fun m r => match m with
    | some b => if r.ring < b.ring then some r else some b
    | none => some r) none
  match pick (fun r => r.ring > last) with
  | some r => some r
  | none => pick (fun _ => true)

/-- Lowest class number of a list of rings. -/
def lowClass (rs : List Ring) : Nat := rs.foldl (fun m r => min m r.cls) 8

/-- The mask of the middle bit over rings 64 `j` to 64 `j` + 63: the classes of the ready rings among them
(R222). -/
def midMask (s : State) (j : Nat) : BitVec 8 :=
  (s.dre.rings.filter fun r => r.ring / 64 == j && ringReady s r).foldl (fun m r => m ||| (1#8 <<< r.cls)) 0

/-- Middle bit `j` and its top bit: set while a ready ring lies beneath (R222). -/
def midBit (s : State) (j : Nat) : Bool := s.dre.rings.any fun r => r.ring / 64 == j && ringReady s r
@[inherit_doc midBit] def topBit (s : State) (k : Nat) : Bool :=
  (List.range 64).any fun j => midBit s (64 * k + j)

/-- The mask of the top bit over middle bits 64 `k` to 64 `k` + 63 (R222). -/
def topMask (s : State) (k : Nat) : BitVec 8 :=
  (List.range 64).foldl (fun m j => m ||| midMask s (64 * k + j)) 0

/-- The ring that DRE picks (R223). -/
def pickRing (s : State) : Option Ring :=
  let ready := s.dre.rings.filter (ringReady s)
  let lim := regGet s 0x300040
  let aged := ready.filter fun r => lim != 0 && (match r.readySince with
    | some t => s.osc ≥ t + lim
    | none => false)
  let from' := if aged.isEmpty then ready else aged
  let c := lowClass from'
  nextRing (from'.filter fun r => r.cls == c) ((s.dre.last[c]?).getD 0)

/-- R223. A ready ring has waited DRE_AGE_LIMIT: the count stands at its limit or beyond, so that it is
among the aged. -/
def execAgeLimit (ring : Nat) (s : State) : Result :=
  .next <| whenLive s fun s => match ringGet s ring with
    | some r =>
      let lim := regGet s 0x300040
      match r.readySince with
      | some t => if lim = 0 then s else { s with osc := max s.osc (t + lim) }
      | none => s
    | none => s

/-- R223. DRE fetches one descriptor from the ring it picks, with its sequence number. -/
def execDescriptorFetch (s : State) : Result :=
  .next <| whenLive s fun s => match pickRing s with
    | none => s
    | some r => whenLive (contextParity s r.ring) fun s =>
      let n := newId (cacheRing s r.ring)
      let d : Desc := { id := n.1, ring := r.ring, index := r.fetch, seq := r.seq, cls := r.cls, src := r.acting }
      let s := { n.2 with descs := n.2.descs ++ [d] }
      let s := ringUpd s r.ring fun r => { r with
        fetch := (r.fetch + 1) % 65536, seq := (r.seq + 1) % 2 ^ 32, readySince := none }
      let s := { s with dre := { s.dre with last := s.dre.last.set r.cls r.ring } }
      let x := readRange s d.id (r.base + 128 * (r.fetch % 2 ^ r.log2)) 128
      ringSync (match x.2 with
        | .bytes bs => descUpd x.1 d.id fun d => { d with bytes := bs, phase := .fetched }
        | _ => x.1)

/-! Writes of a descriptor's data. -/

/-- Answers that a write of a range will bring: one for each line of chip memory, or each 4 KiB piece. -/
def answersOf (addr len : Nat) : Nat :=
  if isChip addr then (piecesOf 128 (len / 128 + 2) addr len).length
  else (piecesOf 4096 (len / 4096 + 2) addr len).length

/-- A write of descriptor `d`'s data, in the pieces of R168, each of which `serve` performs in the own window; each
answer is awaited. -/
def descWriteBy (serve : State → Option Nat → Access → State) (s : State) (d : Nat) (a : Access) : State :=
  let s := descUpd s d fun x => { x with unacked := x.unacked + answersOf a.addr a.len }
  if isOwn s a.addr then
    (piecesOf 4096 (a.len / 4096 + 2) a.addr a.len).foldl (fun s p =>
      serve s (some d) { a with addr := p.1, len := p.2, data := (a.data.drop (p.1 - a.addr)).take p.2
                                who := .desc d }) s
  else (sendOutside s { a with who := .desc d } false).1

/-! Ring commands (R217, R242). -/

/-- REFUSED and REASON of DRE_RING_CMD_STATUS. -/
def ringRefuse (s : State) (reason : Nat) : State :=
  regPut { s with dre := { s.dre with cmd := none } } 0x300034 (2 + 4 * reason)

/-- The reader's handle of a ring command's reads. -/
def ringOwner (ring : Nat) : Nat := 2 ^ 60 + ring

/-- Whether a structure of `bytes` bytes lies wholly in the own near scratchpad or in chip memory at a
boundary of `align` bytes (R214, R216). -/
def placed (s : State) (a bytes align : Nat) : Bool :=
  a % align == 0 && ((isChip a && a + bytes ≤ 2 ^ 64) || (isOwn s a && inNear s (offsetOf a) bytes))

/-- The checks of ENABLE on a context entry and its completion ring's (R217).  A CTX.STATE of 3 is a field outside its range
(DESIGN CHOICE, assumption 173). -/
def contextOk (s : State) (bs cq : List Byte) : Bool :=
  let f := fieldAt bs
  let lg := bitsOf 3 0 (f 8 1)
  let depth := bitsOf 4 0 (f 10 1)
  let head := f 20 2
  let tail := f 22 2
  let q := fieldAt cq
  let qlg := bitsOf 3 0 (q 8 1)
  bitsOf 7 4 (f 8 1) == 0 && bitsOf 7 3 (f 9 1) == 0 && bitsOf 7 5 (f 10 1) == 0 && bitsOf 7 2 (f 11 1) == 0
    && bitsOf 31 19 (f 12 4) == 0 && bitsOf 15 12 (f 16 2) == 0 && f 18 2 == 0 && f 28 4 == 0
    && bitsOf 7 2 (f 40 1) == 0 && f 41 1 == 0 && f 48 16 == 0
    && bitsOf 7 4 (q 8 1) == 0 && q 9 1 == 0 && q 12 4 == 0
    && 1 ≤ lg && 1 ≤ depth && depth ≤ 16 && 1 ≤ qlg && bitsOf 1 0 (f 40 1) ≤ 2
    && placed s (f 0 8) (128 * 2 ^ lg) 128 && placed s (q 0 8) (32 * 2 ^ qlg) 32
    && dist16 tail head ≤ 2 ^ lg
    && (!bitOf 1 (f 11 1) || (depth == 1 && saveOk s (f 32 8) && inNear s (offsetOf (f 32 8)) saveMax))

/-- ENABLE: reads and checks the entries; called again while a read is outstanding. -/
def enableStep (s : State) (ring : Nat) : State :=
  let own := ringOwner ring
  let c := readRange s own (ctxAddr s ring) 64
  match c.2 with
  | .bytes bs =>
    let q := bitsOf 11 0 (fieldAt bs 16 2)
    let known := c.1.dre.cqs.find? fun x => x.cq == q
    let r := readRange c.1 own (cqAddr c.1 q) 16
    match r.2 with
    | .bytes qs =>
      let s := gatherDrop r.1 own
      if !contextOk s bs qs then ringRefuse s 2
      else
        let f := fieldAt bs
        let x : Ring :=
          { ring := ring, base := f 0 8, log2 := bitsOf 3 0 (f 8 1), cls := bitsOf 2 0 (f 9 1)
            depth := bitsOf 4 0 (f 10 1), haltOnFail := bitOf 0 (f 11 1), preempt := bitOf 1 (f 11 1)
            acting := bitsOf 18 0 (f 12 4), cq := q, head := f 20 2, tail := f 22 2, seq := f 24 4, save := f 32 8
            state := 1, fetch := f 20 2 }
        let c : Cq := { cq := q, base := fieldAt qs 0 8, log2 := bitsOf 3 0 (fieldAt qs 8 1), widx := fieldAt qs 10 2 }
        let s := if known.isSome then cacheCq s q
          else
            let s := cacheRoom s
            { s with dre := { s.dre with cqs := s.dre.cqs ++ [c] } }
        let s := cacheRoom s
        let s := { s with dre := { s.dre with rings := s.dre.rings ++ [x], cmd := none } }
        ringSync (regPut s 0x300034 0)
    | .bad _ | .failed _ => ringRefuse (gatherDrop r.1 own) 4
    | _ => r.1
  | .bad _ | .failed _ => ringRefuse (gatherDrop c.1 own) 4
  | _ => c.1

/-- Answers that the write-backs of a ring's context and of its completion ring's entry will bring. -/
def backAnswers (s : State) (r : Ring) : Nat :=
  let n (a len : Nat) : Nat := if isChip a then (piecesOf 128 4 a len).length else 1
  let a := ctxAddr s r.ring
  n (a + 20) 8 + n (a + 40) 1 + n (a + 42) 6
    + (if s.dre.cqs.any fun x => x.cq == r.cq then n (cqAddr s r.cq + 10) 2 else 0)

/-- The hardware-written fields of a context go back to its entry, and CQE.WIDX to its entry (R215, R216);
the state the entry takes is given.  The command is held open until the last write-back is answered. -/
def contextBack (s : State) (r : Ring) (state : Nat) : State :=
  let s := { s with dre := { s.dre with ctxLeft := s.dre.ctxLeft + backAnswers s r } }
  let s := ringBack s r state (.context r.ring)
  match s.dre.cqs.find? fun x => x.cq == r.cq with
  | some q => cqBack s q (.context r.ring)
  | none => s

/-- A ring under DISABLE whose descriptors have all retired is DISABLED (R217). -/
def disableCheck (s : State) (ring : Nat) : State :=
  match ringGet s ring with
  | none => s
  | some r =>
    if r.disabling && (ringDescs s ring).isEmpty then
      let s := contextBack s r 0
      let rings := dropFirst (fun x => x.ring == ring) s.dre.rings
      let cqs := s.dre.cqs.filter fun q => rings.any fun x => x.cq == q.cq
      { s with dre := { s.dre with rings := rings, cqs := cqs } }
    else s

/-- DISABLE takes effect (R217). -/
def disableRing (s : State) (ring : Nat) : State :=
  let s := ringUpd s ring fun r => { r with disabling := true }
  let s := (ringDescs s ring).foldl (fun s d =>
    match d.phase with
    | .fetching | .fetched => endDesc s d.id stAborted {}
    | .ready =>
      if !d.free then endDesc s d.id stAborted {}
      else if dop d = 0x02 then
        endDesc (descUpd s d.id fun x => { x with body := toLe 8 (counterGet s (dbits d 32 2 11 0)).toNat }) d.id stAborted {}
      else s
    | .running => match d.engine with
      | .wait _ =>
        endDesc (descUpd s d.id fun x => { x with body := toLe 8 (counterGet s (dbits d 32 2 11 0)).toNat }) d.id stAborted {}
      | _ => s
    | _ => s) s
  ringSync (disableCheck s ring)

/-- A command written to DRE_RING_CMD (R217, R242). -/
def ringCmd (s : State) (cmd ring : Nat) : State :=
  if s.dre.cmd.isSome || cmd = 0 || cmd > 4 then s
  else if !ringExists s ring then ringRefuse s 1
  else
    let r := ringGet s ring
    let wrong := match cmd, r with
      | 1, some _ => true
      | 2, none => true
      | 3, some x => x.state != 2
      | 3, none => true
      | _, _ => false
    if wrong then ringRefuse s 3
    else
      let s := regPut { s with dre := { s.dre with cmd := some (cmd, ring), ctxLeft := 0, ctxFail := none, ctxLost := [] } } 0x300034 0
      match cmd with
      | 1 => enableStep s ring
      | 2 => disableRing s ring
      | 3 =>
        let s := ringUpd s ring fun r => { r with state := 1, haltStatus := 0, haltSeq := 0 }
        ringSync { s with dre := { s.dre with cmd := none } }
      | _ => match r with
        | some x => contextBack s x x.state
        | none => { s with dre := { s.dre with cmd := none } }

/-- Ring 0 with no programming (R241): the ROM writes the context and the completion ring, and the ring is
ACTIVE. -/
def romRing0 (s : State) : State :=
  let base := ownAddr s 0x05FF0000
  let cqb := ownAddr s 0x05FE0000
  let ctx := toLe 8 base ++ toLe 1 9 ++ toLe 1 0 ++ toLe 1 1 ++ toLe 1 0 ++ toLe 4 (ownId s) ++ toLe 24 0 ++ toLe 1 1 ++ toLe 23 0
  let cqe := toLe 8 cqb ++ toLe 1 11 ++ toLe 7 0
  let s := spmStore s 0x05FD0000 ctx
  let s := spmStore s 0x05FC0000 cqe
  let inCq (n : Nat) : Bool := 0x05FE0000 ≤ n && n < 0x05FF0000
  let s := { s with spm := if s.spmLost.isNone then s.spm.filter fun c => !inCq c.1
                      else (spmStore s 0x05FE0000 (List.replicate 65536 0)).spm
                    spmBad := s.spmBad.filter fun w => !inCq w }
  let r : Ring := { ring := 0, base := base, log2 := 9, cls := 0, depth := 1, haltOnFail := false, preempt := false
                    acting := ownId s, cq := 0, head := 0, tail := 0, seq := 0, save := 0, state := 1, fetch := 0 }
  { s with dre := { s.dre with rings := [r], cqs := [{ cq := 0, base := cqb, log2 := 11, widx := 0 }] } }

end Sys2Proof.Machine
end

