-- ==== Sys2Proof/Machine/Fabric.lean ====
section
/-! DEFINITION. The fabric ports and the packets that answer requests: link-level replay (R289), lost links
(R286, R287), echoes and rates (R279, R280), retries (R283), and the route front (R284). -/
namespace Sys2Proof.Machine

/-! Flits (R268, R289, R373). -/

/-- One bit of CRC-32C, polynomial 0x1EDC_6F41 in its reflected form. -/
def crcBit (c : BitVec 32) : BitVec 32 := if c.getLsbD 0 then (c >>> 1) ^^^ 0x82F63B78#32 else c >>> 1

/-- CRC-32C of a byte string (R289). -/
def crc32c (bs : List Byte) : BitVec 32 :=
  ~~~ (bs.foldl (fun c b => (List.range 8).foldl (fun c _ => crcBit c) (c ^^^ b.setWidth 32)) 0xFFFFFFFF#32)

/-- Whether a flit's CRC checks over its bytes and its sequence number (assumption 31). -/
def flitGood (f : FlitIn) : Bool := crc32c (f.bytes ++ toLe 2 f.seq.toNat) == f.crc

/-- Whether the table of R270 lists a packet's type on its channel. -/
def typeOnChannel (k : Packet) : Bool :=
  match k.type, k.vc with
  | 0x01, 0 | 0x01, 2 | 0x02, 0 | 0x03, 0 | 0x04, 2 | 0x05, 0 => true
  | 0x10, 1 | 0x11, 1 | 0x12, 1 | 0x13, 1 | 0x14, 1 | 0x15, 1 => true
  | 0x20, 3 | 0x20, 4 | 0x21, 3 | 0x21, 4 | 0x30, 5 => true
  | _, _ => false

/-- Whether a header of a type and PKT.LEN is followed by payload flits (R268, R271). -/
def lenIsData (type len : Nat) : Bool :=
  if type = 0x05 then decide (0 < len) else type == 0x20 || decide (32 < len)

/-- PKT.BODY of a packet (R269 to R271, R273). -/
def packetBody (k : Packet) : List Byte :=
  padTo 32 (match k.type with
    | 0x03 => Config.atomicBody k.atop k.awid k.operand k.compare
    | 0x20 | 0x21 => Config.collBody k.collGroup k.collSeq k.collLevel k.coll
    | _ => k.body ++ (if isData k then [] else k.payload))

/-- The 64 bytes of a header flit (R269). -/
def packetHeader (k : Packet) : List Byte :=
  toLe 1 k.type
    ++ toLe 1 (k.vc + 8 * boolBit k.epoch + 16 * boolBit k.mark + 32 * boolBit k.echo + 64 * boolBit k.ordered)
    ++ toLe 2 k.payload.length ++ toLe 4 k.dest ++ toLe 4 k.src ++ toLe 1 k.path ++ toLe 1 (min k.age 255) ++ toLe 2 k.tag
    ++ toLe 8 k.addr ++ toLe 2 (k.counter + 2 ^ 15 * boolBit k.counted) ++ toLe 2 k.status ++ toLe 4 0 ++ packetBody k

/-- The packet of a header flit and the payload bytes that follow it; reserved bits are ignored (R269). -/
def packetRead (bs : List Byte) : Packet :=
  let f := fieldAt bs
  let type := f 0 1
  let len := bitsOf 12 0 (f 2 2)
  let body := (padTo 64 (bs.take 64)).drop 32
  let data := lenIsData type len
  let inBody := !data && (type == 0x01 || type == 0x11 || type == 0x12)
  let at' := Config.atomicFields body
  let co := Config.collFields body
  { type := type, vc := bitsOf 2 0 (f 1 1), epoch := bitOf 3 (f 1 1), mark := bitOf 4 (f 1 1), echo := bitOf 5 (f 1 1)
    ordered := bitOf 6 (f 1 1), dest := bitsOf 18 0 (f 4 4), src := bitsOf 18 0 (f 8 4), path := f 12 1, age := f 13 1
    tag := bitsOf 12 0 (f 14 2), addr := bitsOf 39 0 (f 16 8), counter := bitsOf 11 0 (f 24 2), counted := bitOf 15 (f 24 2)
    status := f 26 2
    body := if inBody then [] else body
    payload := if data then (bs.drop 64).take len else if inBody then body.take len else []
    atop := if type = 0x03 then at'.1 % 16 else 0
    awid := if type = 0x03 then at'.2.1 % 4 else 0
    operand := if type = 0x03 then at'.2.2.1 else 0
    compare := if type = 0x03 then at'.2.2.2 else 0
    collGroup := if type = 0x20 || type = 0x21 then co.1 % 4096 else 0
    collSeq := if type = 0x20 || type = 0x21 then co.2.1 else 0
    collLevel := if type = 0x20 || type = 0x21 then co.2.2.1 % 8 else 0
    coll := if type = 0x20 || type = 0x21 then co.2.2.2 else .none }

/-- Whether the flits of a packet that have arrived on a channel are all of it (R268). -/
def packetWhole (bs : List Byte) : Bool :=
  let len := bitsOf 12 0 (fieldAt bs 2 2)
  let want := if lenIsData (fieldAt bs 0 1) len then 64 + ceilDiv len 64 * 64 else 64
  decide (want ≤ bs.length)

/-- A port's links acknowledgement queued: every flit before the expected one (R289, R373). -/
def queueAck (c : Port) : Port :=
  { c with control := c.control ++ [(false, (c.expect + 4095) % 4096)], toAck := 0 }

/-- A flit that is passed on joins the packet of its channel; a whole packet is handled if R270 lists it, and
discarded and counted if not. -/
def flitTaken (s : State) (port : Nat) (c : Port) (f : FlitIn) : State :=
  let bs := ((c.rx.find? fun r => r.1 == f.vc).map (·.2)).getD [] ++ f.bytes
  let rest := c.rx.filter fun r => r.1 != f.vc
  if packetWhole bs then
    let s := portUpd s port fun c => { c with rx := rest }
    let k := packetRead bs
    if typeOnChannel k then { s with fep := { s.fep with inbox := s.fep.inbox ++ [(port, k)] } } else regCount s 0x900068
  else portUpd s port fun c => { c with rx := rest ++ [(f.vc, bs)] }

/-- A transfer on a port's receive bundle is acknowledged once: by the row of its flit part, or, when it carries
none, by that of its link control or, with neither, of its credit (R361, R373). -/
def rxTaken (s : State) (port : Nat) (alone : Bool) : State :=
  portUpd s port fun c => { c with rxAck := c.rxAck != (c.link && alone) }

/-- R289. A flit arrives: in sequence with a good CRC it is passed on and its buffer returned as a credit;
otherwise a NAK names the expected number and later flits are dropped.  Each of its transfers is acknowledged on the
bundle (R361). -/
def execFlit (port : Nat) (f : FlitIn) (s : State) : Result :=
  .next <| whenLive s fun s => match s.fep.ports[port]? with
    | none => s
    | some c =>
      let s := rxTaken s port (f.bytes.length / 64 % 2 == 1)
      if !c.up then s
      else
        if flitGood f && f.seq.toNat == c.expect then
          let s := portUpd s port fun c =>
            let c := { c with expect := (c.expect + 1) % 4096, toAck := c.toAck + 1, lastRx := s.osc, nakSent := false
                              giveCredit := c.giveCredit ++ [f.vc] }
            if c.toAck ≥ 32 then queueAck c else c
          fepPump (flitTaken s port c f) port
        else if c.nakSent then s
        else fepPump (portUpd s port fun c => { c with control := c.control ++ [(true, c.expect)], nakSent := true }) port

/-- R373. The receiver acknowledges within 1 approximate µs of the last flit it has not acknowledged. -/
def execLinkAckTimer (port : Nat) (s : State) : Result :=
  .next <| whenLive s fun s => match s.fep.ports[port]? with
    | some c =>
      if c.up && c.toAck > 0 then fepPump (portUpd { s with osc := max s.osc (c.lastRx + 1000) } port queueAck) port
      else s
    | none => s

/-! Requests that end (R273, R287). -/

/-- A request is removed. -/
def dropReq (s : State) (tag : Nat) : State :=
  { s with fep := { s.fep with reqs := dropFirst (fun r => r.tag == tag) s.fep.reqs
                               mcast := dropFirst (fun m => m.tag == tag) s.fep.mcast } }

/-- A request ends with an answer; its tag is free again. -/
def endReq (s : State) (r : FepReq) (x : Resp) : State :=
  fepRetryUnrouted (deliver (dropReq s r.tag) r.acc x)

/-- The last flits of multicast writes acknowledged on a port (R276); collective packets are delivered with theirs. -/
def mcastAcked (s : State) (port : Nat) (fs : List SentFlit) : State :=
  fs.foldl (fun s f =>
    if f.settled then s
    else if f.index + 1 == flitCount f.packet && (f.packet.type == 0x20 || f.packet.type == 0x21) then
      let mark (r : FepReq) : FepReq := { r with delivered := true }
      { s with fep := { s.fep with reqs := replaceFirst (fun r => r.packet == f.packet) mark s.fep.reqs } }
    else if f.index + 1 == flitCount f.packet && f.packet.dest ≥ mcastBase && isRequest f.packet then
      let upd (m : Mcast) : Mcast := { m with ports := m.ports.erase port }
      let s := { s with fep.mcast := replaceFirst (fun m => m.tag == f.packet.tag) upd s.fep.mcast }
      match s.fep.mcast.find? fun m => m.tag == f.packet.tag with
      | some m =>
        if m.ports.isEmpty then
          match s.fep.reqs.find? fun r => r.tag == m.tag with
          | some r => endReq s r (.ok [])
          | none => dropReq s m.tag
        else s
      | none => s
    else s) s

/-- R289. A cumulative acknowledgement frees the flits up to the one it names. -/
def execLinkAck (port : Nat) (lseq : OnWire) (s : State) : Result :=
  .next <| whenLive s fun s => match s.fep.ports[port]? with
    | none => s
    | some c =>
      let s := rxTaken s port lseq.alone
      if !c.up then s
      else
        if c.sent.any fun f => f.seq == lseq.value then
          let n := c.sent.findIdx (fun f => f.seq == lseq.value) + 1
          let done := c.sent.take n
          let s := portUpd s port fun c => { c with
            sent := c.sent.drop n, lastAck := s.osc
            resend := c.resend.filter fun q => !done.any fun f => f.seq == q }
          fepPump (mcastAcked s port done) port
        else s

/-- Effects of a lost link or a failed port (R286): the port stops, what it sent is discarded, packets not
started wait, and PORT_FAILED is logged.  A transfer on its bundles stands until it is acknowledged (R361). -/
def portDown (s : State) (port : Nat) : State :=
  let s := portUpd s port fun c => { ({} : Port) with
    queue := c.queue.filter fun q => q.sentFlits == 0
    link := c.link, wire := c.wire, txReq := c.txReq, txAck := c.txAck, rxAck := c.rxAck }
  let st := 0x900100 + 4 * port
  let s := regPutBits s st 0 0 0
  let s := regPutBits s st 15 8 (min (regBits s st 15 8 + 1) 0xFF)
  raiseErr s { code := 0x0206, cls := 2, resource := resource 6 port, info1 := port }

/-- R289. The port is declared failed. -/
def portFail (s : State) (port : Nat) : State := portDown (regPutBits s (0x900100 + 4 * port) 1 1 1) port

/-- R289. A NAK makes the port send again from the flit it names; the port fails when one of those flits has been
sent again eight times already. -/
def execNak (port : Nat) (lseq : OnWire) (s : State) : Result :=
  .next <| whenLive s fun s => match s.fep.ports[port]? with
    | none => s
    | some c =>
      let s := rxTaken s port lseq.alone
      if !c.up then s
      else
        let again := c.sent.dropWhile fun f => f.seq != lseq.value
        if again.isEmpty then s
        else if again.any fun f => f.resent ≥ 8 then portFail s port
        else
          let s := portUpd s port fun c => { c with resend := again.map (·.seq) }
          fepPump (raiseErr s { code := 0x0104, cls := 1, resource := resource 6 port, info1 := port }) port

/-- R374. A credit returns one flit credit of a channel; a transfer that carries nothing names none (assumption 102). -/
def execFlitCredit (port : Nat) (vc : OnWire) (s : State) : Result :=
  .next <| whenLive s fun s => match s.fep.ports[port]? with
    | some c =>
      let s := rxTaken s port vc.alone
      if c.up then fepPump (portUpd s port fun c => { c with credits := setAt c.credits vc.value (· + 1) }) port else s
    | none => s

/-- R286, R375. The link of a port is lost: both bundles of the port are held at 0. -/
def execLinkDown (port : Nat) (s : State) : Result :=
  .next <| whenLive s fun s => match s.fep.ports[port]? with
    | some c =>
      portUpd (if c.up then portDown s port else s) port fun c => { ({} : Port) with queue := c.queue }
    | none => s

/-- R289. No acknowledgement has advanced for 100 µs while flits wait. -/
def execPortFailed (port : Nat) (s : State) : Result :=
  .next <| whenLive s fun s => match s.fep.ports[port]? with
    | some c =>
      if c.up && !c.sent.isEmpty then portFail { s with osc := max s.osc (c.lastAck + 100000) } port else s
    | none => s

/-- R361. The neighbour's ACK returns a transmit bundle to idle: bundles 0 to 7 are the chip memory channels
and 8 to 11 the fabric ports. -/
def execBundleAck (bundle : Nat) (s : State) : Result :=
  .next <| if bundle < 8 then
      if s.boot.por || s.boot.warm then s else cmpPump (chanUpd s bundle fun c => { c with txAck := c.txReq }) bundle
    else whenLive s fun s => match s.fep.ports[bundle - 8]? with
      | some c => if c.link then fepPump (portUpd s (bundle - 8) fun c => { c with txAck := c.txReq }) (bundle - 8) else s
      | none => s

/-! Echoes and rates (R279, R280). -/

/-- R280. A PERIOD has passed with no echo: the group's rate rises by AI. -/
def execRateRaise (g : Nat) (s : State) : Result :=
  .next <| whenLive s fun s =>
    if g < 1024 && bitOf 0 (regGet s 0x900040) then
      let s := { s with osc := max s.osc ((bucketOf s g).raiseFrom + regBits s 0x900048 31 16) }
      let b := bucketNow s g
      let s := bucketPut s { b with raiseFrom := s.osc }
      let r := 0x901000 + 4 * g
      regPutBits s r 15 0 (min (regBits s 0x900044 15 0) (regBits s r 15 0 + regBits s 0x900048 15 0))
    else s

/-- R280. A group's bucket has refilled to zero or above: what waits for it may leave. -/
def execTokenBucketRefill (g : Nat) (s : State) : Result :=
  .next <| whenLive s fun s =>
    let b := bucketNow s g
    let rate := 16 * rateOf s g
    if b.level ≥ 0 then fepPumpAll s
    else if rate = 0 then s
    else
      let s := { s with osc := s.osc + ceilDiv (-b.level).toNat rate }
      fepPumpAll (bucketPut s (bucketNow (bucketPut s { b with since := b.since }) g))

/-! Packets. -/

/-- A packet taken from the inbox; none when it has not arrived. -/
def takePacket (s : State) (port : Nat) (k : Packet) : Option State :=
  if s.fep.inbox.contains (port, k) then some { s with fep := { s.fep with inbox := s.fep.inbox.erase (port, k) } }
  else none

/-- A packet of a type, handled under the destination check of R278: a misrouted request is refused with
UNMAPPED, a misrouted packet without a response discarded. -/
def onPacket (s : State) (port type : Nat) (k : Packet) (f : State → State) : State :=
  if !live s || k.type != type then s
  else match takePacket s port k with
    | none => s
    | some s =>
      if k.dest = ownId s || k.dest ≥ mcastBase then f s
      else
        let s := regCount s 0x900068
        if isRequest k then
          answerPacket (noteRefusal s false k.src (k.dest * 2 ^ 40 + k.addr) reasonUnmapped) k (.refused reasonUnmapped)
        else s

/-- Whether a response answers a request: its tag, the source it was sent to, and a type R270 gives it (R273, R288). -/
def answers (k : Packet) (r : FepReq) : Bool :=
  r.tag == k.tag && r.retryAt.isNone && r.packet.dest == k.src
    && (match k.type with
      | 0x10 => r.packet.type == 0x01 || r.packet.type == 0x04 || r.packet.type == 0x05
      | 0x11 => r.packet.type == 0x02
      | 0x12 => r.packet.type == 0x03
      | 0x13 => isRequest r.packet
      | _ => r.packet.type == 0x05 || r.packet.type == 0x20 || r.packet.type == 0x21 || r.packet.type == 0x30)

/-- A response that answers no request: discarded and counted, and its tag may serve again (R287). -/
def lateResponse (s : State) (k : Packet) : State :=
  regCount { s with fep := { s.fep with late := s.fep.late.erase k.tag } } 0x900064

/-- A response packet: the request it answers ends, or it is late (R278, R287); an echo acts first. -/
def onResponse (s : State) (port type : Nat) (k : Packet) (echo : Bool) (x : Resp) : State :=
  onPacket s port type k fun s =>
    match s.fep.reqs.find? (answers k) with
    | none => lateResponse s k
    | some r => endReq (if echo then echoOn s r.rcg else s) r x

/-- R273. An ACK acknowledges a write, a counted write or a count-only advance. -/
def execAck (port : Nat) (k : Packet) (s : State) : Result := .next (onResponse s port 0x10 k k.echo (.ok []))

/-- R273, R279. READ_DATA completes a remote read; a mark on it acts as an echo. -/
def execReadData (port : Nat) (k : Packet) (s : State) : Result :=
  .next (onResponse s port 0x11 k (k.echo || k.mark) (.ok k.payload))

/-- R273. ATOMIC_DATA returns a remote atomic's old value. -/
def execAtomicData (port : Nat) (k : Packet) (s : State) : Result :=
  .next (onResponse s port 0x12 k k.echo (.ok k.payload))

/-- R176, R188. REFUSED delivers a refusal reason, or the data error of a bad word, to its requester. -/
def execRefused (port : Nat) (k : Packet) (s : State) : Result :=
  .next (onResponse s port 0x13 k k.echo
    (if k.status = stDataParity then .dataErr else if k.status = stUnreachable then .unreachable else .refused k.status))

/-- R283. RETRY: the request waits its gap before it is sent again. -/
def execRetry (port : Nat) (k : Packet) (s : State) : Result :=
  .next (onPacket s port 0x14 k fun s =>
    match s.fep.reqs.find? (answers k) with
    | none => lateResponse s k
    | some r =>
      let s := if k.echo then echoOn s r.rcg else s
      let wait (q : FepReq) : FepReq := { q with retryAt := some s.osc }
      { s with fep := { s.fep with reqs := replaceFirst (fun q => q.tag == r.tag) wait s.fep.reqs } })

/-- The gap before a retry (R283). -/
def retryGap (s : State) (age : Nat) : Nat := regBits s 0x900034 15 0 * 2 ^ min age (regBits s 0x900034 19 16)

/-- R283. The gap has passed: the packet is sent again one age older, routed by the active bank. -/
def execRetrySend (tag : Nat) (s : State) : Result :=
  .next <| whenLive s fun s =>
    match s.fep.reqs.find? fun r => r.tag == tag with
    | none => s
    | some r => match r.retryAt with
      | none => s
      | some t =>
        let s := { s with osc := max s.osc (t + retryGap s r.packet.age) }
        let q := fepQueue s { r.packet with age := min (r.packet.age + 1) 255 } (some r.acc)
        if q.2 then q.1 else endReq q.1 r .unreachable

/-- R283. A reservation that nobody claimed lapses. -/
def execReservationLapse (res : Nat) (s : State) : Result :=
  .next <| whenLive s fun s =>
    match s.fep.resv.find? fun x => x.1 == res with
    | some (_, _, _, _, t) =>
      let life := 4 * regBits s 0x900034 15 0 * 2 ^ regBits s 0x900034 19 16
      { s with osc := max s.osc (t + life), fep := { s.fep with resv := dropFirst (fun x => x.1 == res) s.fep.resv } }
    | none => s

/-- Whether a packet holds a resource's reservation. -/
def holdsResv (k : Packet) (res : Nat) (x : Nat × Nat × Nat × Nat × Nat) : Bool :=
  x.1 == res && x.2.1 == k.src && x.2.2.1 == k.tag

/-- The holder's retry has arrived: its reservation is claimed (R283). -/
def claimResv (s : State) (res : Nat) (k : Packet) : State :=
  { s with fep := { s.fep with resv := dropFirst (holdsResv k res) s.fep.resv } }

/-- Whether a resource with so many free entries takes a packet now, and the reservations after it.  A reserved
resource holds one free entry for the holder; a packet refused takes the reservation if nobody has it, or by a
greater age (R283). -/
def claimEntry (s : State) (res free : Nat) (k : Packet) : Bool × State :=
  let held := s.fep.resv.find? fun x => x.1 == res
  let mine := (res, k.src, k.tag, k.age, s.osc)
  let reserve : State := { s with fep := { s.fep with resv := mine :: dropFirst (fun x => x.1 == res) s.fep.resv } }
  match held with
  | some x =>
    if 0 < free && holdsResv k res x then (true, claimResv s res k)
    else if 1 < free then (true, s)
    else if k.age > x.2.2.2.1 then (false, reserve)
    else (false, s)
  | none => if 0 < free then (true, s) else (false, reserve)

/-- R270, R283. A MGMT packet is queued for the Steward, or answered with RETRY. -/
def execMgmt (port : Nat) (k : Packet) (s : State) : Result :=
  .next (onPacket s port 0x30 k fun s =>
    let c := claimEntry s 1 (Config.mgmtDepth - s.mgmt.length) k
    if c.1 then { c.2 with mgmt := c.2.mgmt ++ [k] } else answerRetry c.2 k)

/-- R279. A CONG_ECHO acts on the group of the identifier it names. -/
def execCongEcho (port : Nat) (k : Packet) (s : State) : Result :=
  .next (onPacket s port 0x15 k fun s => echoFor s (bitsOf 18 0 (leNat k.body)))

/-! The route front (R284). -/

/-- A request in flight: one whose response is outstanding, and not one that RETRY has answered. -/
def inFlight (r : FepReq) : Bool := isRequest r.packet && r.retryAt.isNone

/-- OLD_INFLIGHT: requests without their response, and other packets queued or not yet acknowledged on the
link, of the old epoch. -/
def oldInflight (s : State) : Nat :=
  let ports := s.fep.ports.map fun c =>
    (c.queue.filter fun q => q.oldEpoch && !isRequest q.packet).length
      + (c.sent.filter fun f => f.oldEpoch && !isRequest f.packet && f.index + 1 == flitCount f.packet).length
  (s.fep.reqs.filter fun r => r.oldEpoch && inFlight r).length + ports.foldl (· + ·) 0

/-- Whether a route bank's BASE obeys R274. -/
def routeBaseOk (s : State) (b : Nat) : Bool :=
  let v := regPair s (0x900010 + 8 * b) / 4096 * 4096
  let size := 4 * 2 ^ s.par.routeLog2
  v = 0 || (isChip v && v + size ≤ 2 ^ 64) || (!isChip v && inNear s v size)

/-- A lookup of the bank that was active answers nobody. -/
def forgetRoute (a : Access) : Access :=
  match a.who with
  | .route _ => { a with who := .nobody }
  | _ => a

/-- A route front is requested (R284).  Lookups that it overtakes are made again in the new bank (R273). -/
def routeFrontCmd (s : State) : State :=
  let refuse (r : Nat) : State := regPutBits (regPutBits s 0x900024 1 1 1) 0x900024 3 2 r
  if oldInflight s != 0 then refuse 1
  else if !routeBaseOk s (1 - activeBank s) then refuse 2
  else
    let old (c : Port) : Port := { c with
      queue := c.queue.map fun q => { q with oldEpoch := true }
      sent := c.sent.map fun f => { f with oldEpoch := true } }
    let s := { s with
      fep := { s.fep with ports := s.fep.ports.map old, wild := []
                          reqs := s.fep.reqs.map fun r => if inFlight r then { r with oldEpoch := true } else r }
      cmp := { s.cmp with
        out := s.cmp.out.map fun o => { o with acc := forgetRoute o.acc }
        chans := s.cmp.chans.map fun c => { c with waiting := c.waiting.map fun m => (m.1, m.2.map forgetRoute) } } }
    fepRetryUnrouted (regPutBits (regPutBits s 0x900024 0 0 (1 - activeBank s)) 0x900024 1 1 0)

/-! The chip's answers (R178, R366 to R369). -/

/-- The outstanding chip-memory request that a response names; one still waiting to be sent is none. -/
def takeOut (s : State) (ch tag kind : Nat) : Option (CmpOut × State) :=
  match s.cmp.out.find? fun o => o.ch == ch && o.tag == tag with
  | some o =>
    let k := match o.acc.kind with
      | .read => 0
      | .write => 1
      | .atomic => 2
    if k != kind then none
    else some (o, { s with cmp := { s.cmp with out := dropFirst (fun x => x.ch == ch && x.tag == tag) s.cmp.out } })
  | none => none

/-- A response of the chip: its transfer is acknowledged and its credit goes back, and while the cluster acts its
requester has the answer (R178, R361, R368). -/
def onChip (s : State) (ch tag kind : Nat) (st : CmpStatus) (data : List Byte) : State :=
  if s.boot.por || s.boot.warm then s
  else
    let s := chanUpd s ch fun c => { c with giveRsp := c.giveRsp + 1, rxAck := !c.rxAck }
    match takeOut s ch tag kind with
    | none => cmpPump s ch
    | some (o, s) =>
      let r : Resp := match st with
        | .ok => .ok ((padTo 128 data).drop (o.acc.addr % 128) |>.take (if kind = 1 then 0 else o.acc.len))
        | .decodeErr => .refused reasonUnmapped
        | .dataErr => .dataErr
      cmpPump (whenLive s fun s => deliver s o.acc r) ch

/-- R178. READ_DATA from the chip completes a chip-memory read. -/
def execCmpReadData (ch tag : Nat) (st : CmpStatus) (data : List Byte) (s : State) : Result :=
  .next (onChip s ch tag 0 st data)

/-- R207. ATOMIC_DATA from the chip returns a chip-memory atomic's old value. -/
def execCmpAtomicData (ch tag : Nat) (st : CmpStatus) (data : List Byte) (s : State) : Result :=
  .next (onChip s ch tag 2 st data)

/-- R368. A transfer returns request or response credits; one that carries no message is acknowledged here (R361). -/
def execCmpCredit (ch : OnWire) (req rsp : Bool) (s : State) : Result :=
  .next <| if s.boot.por || s.boot.warm then s
    else cmpPump (chanUpd s ch.value fun c => { c with
      reqCredits := c.reqCredits + boolBit req, rspCredits := c.rspCredits + boolBit rsp, rxAck := c.rxAck != ch.alone }) ch.value

end Sys2Proof.Machine
end

