-- ==== Sys2Proof/Machine/Power.lean ====
section
/-! DEFINITION. Self-timed operation and power control (R291 to R308, R378 to R382): the governor's control
period, Gale with its ledgers and fallbacks, VIN, and the gating of islands.  The predicted power of R297 is
open (assumption 12). -/
namespace Sys2Proof.Machine

/-! Registers of the PTM block (R308). -/

/-- PTM_MODE.REQ in force: 3 reads as 1. -/
def modeReq (s : State) : Nat :=
  let r := regBits s 0xB00010 1 0
  if r = 3 then 1 else r

/-- PTM_VLIMIT.VMIN and VMAX in mV. -/
def vMin (s : State) : Nat := regBits s 0xB00004 11 0
@[inherit_doc vMin] def vMax (s : State) : Nat := regBits s 0xB00004 27 16

/-- PTM_GALE_TJ.BUDGET in microseconds; PTM_THERM.HEAT and PTM_WEAR.CREDIT. -/
def budget (s : State) : Nat := 1000 * regBits s 0xB00034 27 16
@[inherit_doc budget] def heat (s : State) : Nat := s.power.heat4 / 4
@[inherit_doc budget] def credit (s : State) : Nat := s.power.credit10 / 10

/-- Whether the 650 mV ceiling of R296 and R307 is in force. -/
def hotCeiling (s : State) : Bool := s.power.alert || 420 ≤ s.power.tempQ

/-- The supply ceiling: the lowest of those of R296, R300 and R380. -/
def ceiling (s : State) : Nat :=
  let mode := match modeReq s with
    | 0 => 650
    | 1 => 800
    | _ => 950
  let c := min mode (vMax s)
  let c := if hotCeiling s then min c 650 else c
  match s.power.fixedVin with
  | some v => min c (v - 60)
  | none => c

/-- A control period is Gale time while the chosen supply exceeds 800 mV (R301). -/
def galeTime (s : State) : Bool := 800 < s.power.vset

/-- PTM_STATUS, PTM_MEAS.VOLT and the ledgers' registers as the state stands. -/
def ptmSync (s : State) : State :=
  let v := s.power.vset
  let st := 0xB00020
  let s := regPutBits s st 1 0 (if v ≤ 650 then 0 else if v ≤ 800 then 1 else 2)
  let s := regPutBits s st 2 2 (boolBit (s.power.eff != 1000 * regBits s 0xB00014 15 0))
  let s := regPutBits s st 3 3 (boolBit s.power.pacing)
  let s := regPutBits s st 31 16 (s.power.eff / 1000)
  let s := regPutBits s 0xB00024 27 16 v
  let s := regPut s 0xB00040 (heat s)
  let s := regPut s 0xB00044 (credit s)
  let s := regPut s 0xB00048 (min (budget s - heat s) (credit s) / 1000)
  regPut s 0xB0004C (min (s.power.galeUs / 1000000) 0xFFFFFFFF)

/-- An event that PTM reports; EEU takes none after a stop (R317) or in stage 8 (R331). -/
def ptmEvent (s : State) (b : Nat) : State := if s.boot.stopped || eeuShut s then s else setEvent s b

/-- A fallback from Gale (R306) on conditions in ascending order: their bits, FIRST as the lowest-numbered of the
period in which it was 0, the request and the power event.  A request of CALM stays, since the lowest ceiling wins
(R300; DEDUCED, assumption 167). -/
def fallback (s : State) (bits : List Nat) : State :=
  match bits with
  | [] => s
  | b :: _ =>
    let fb := 0xB00030
    let first := regBits s fb 10 8
    let s := bits.foldl (fun s i => regPutBits s fb i i 1) s
    let s := if first = 0 then regPutBits { s with power := { s.power with firstNow := true } } fb 10 8 (b + 1)
      else if s.power.firstNow then regPutBits s fb 10 8 (min first (b + 1))
      else s
    ptmEvent (if modeReq s = 0 then s else regPutBits s 0xB00010 1 0 1) 5

/-- A write of PTM_MODE (R302): a request of GALE is checked once. -/
def modeWrite (s : State) (v : Nat) : State :=
  let req := v % 4
  if req = 2 then
    let why := if credit s < 50000 then 1
      else if heat s + 50000 > budget s then 2
      else if s.power.alert then 3
      else if s.power.tempQ ≥ regBits s 0xB00034 11 0 then 4
      else if vMax s < 950 then 5
      else 0
    if why = 0 then regPutBits (regPut s 0xB00010 v) 0xB00020 4 4 0
    else regPutBits (regPutBits (regPut s 0xB00010 (v - 1)) 0xB00020 4 4 1) 0xB00020 7 5 why
  else regPut s 0xB00010 (if req = 3 then v - 2 else v)

/-- A write of PTM_POWER_CAP (R297, R300): the slew goes on from eff. -/
def capWrite (s : State) (v : Nat) : State := ptmSync (regPut s 0xB00014 (regClamp 0xB00014 v))

/-- A write of PTM_VLIMIT (R306, R308): ignored when VMIN would exceed VMAX. -/
def vlimitWrite (s : State) (v : Nat) : State :=
  let w := regClamp 0xB00004 v
  if bitsOf 11 0 w > bitsOf 27 16 w then s
  else
    let s := regPut s 0xB00004 w
    if galeTime s && vMax s < 950 then fallback s [6] else s

/-- A write of PTM_GALE_TJ (R308): REMAIN follows the budget. -/
def galeTjWrite (s : State) (v : Nat) : State := ptmSync (regPut s 0xB00034 (regClamp 0xB00034 v))

/-- R296, R306, R382. THERM_ALERT_N is asserted or released. -/
def execThermAlertN (asserted : Bool) (s : State) : Result :=
  .next <| if !live s then { s with power := { s.power with alert := asserted } }
    else
      let was := hotCeiling s
      let s := { s with power := { s.power with alert := asserted } }
      let s := if asserted && !was then ptmEvent s 6 else s
      if asserted && galeTime s then fallback s [2] else s

/-- R307. The trip temperature is reached: every island but island 97 stops. -/
def execThermalTrip (s : State) : Result :=
  .next <| whenLive s fun s => raiseErr s { code := 0x0305, cls := 3, unit := 19 }

/-! The AVSBus port (R379, R380). -/

/-- Command codes of the frames the cluster uses (R380). -/
def avsVoltage : Nat := 0x0
@[inherit_doc avsVoltage] def avsVoutRate : Nat := 0x1
@[inherit_doc avsVoltage] def avsCurrent : Nat := 0x2
@[inherit_doc avsVoltage] def avsTemperature : Nat := 0x3
@[inherit_doc avsVoltage] def avsStatusRead : Nat := 0xE

/-- VIN is requested at a voltage (R379). -/
def askVin (p : Power) (mv : Nat) : Power := { p with vinReq := mv }

/-- A frame has had a valid response. -/
def avsGood (p : Power) : Power := { p with avsSeen := true, avsMiss := 0, avsFrame := none }

/-- A frame and its response take 64 periods of AVS_CLK (PRESUMED, assumption 145). -/
def avsBusy (p : Power) (osc : Nat) : Bool :=
  match p.avsFrame with
  | some f => osc < f.since + 2560
  | none => false

/-- The frame that starts on an idle bus (R379, R380): a Voltage write while VIN is not yet asked for, or else one of
the others, which is open: word `n` and the next of the free values name it and its data. -/
def avsNext (p : Power) (osc n : Nat) : Power :=
  let w := (Config.freeWord n).toNat
  let read (code : Nat) : Option AvsFrame := some { write := false, code := code, data := 0xFFFF, since := osc }
  if p.fixedVin.isSome || avsBusy p osc then p
  else if p.avsVolt != some p.vinReq then
    { p with avsVolt := some p.vinReq, avsFrame := some { write := true, code := avsVoltage, data := p.vinReq, since := osc } }
  else
    let f : Option AvsFrame := match w % 5 with
      | 0 => read avsStatusRead
      | 1 => read avsCurrent
      | 2 => read avsTemperature
      | 3 => some { write := true, code := avsVoutRate, data := (Config.freeWord (n + 1)).toNat % 65536, since := osc }
      | _ => p.avsFrame
    { p with avsFrame := f }

/-- SUPPLY_FAULT of an island, or of the rail, which is logged under the island of the AVSBus pins (assumption 143). -/
def raiseSupply (s : State) (island : Nat) : State :=
  raiseErr s { code := 0x0401, cls := 4, resource := resource 11 island, info0 := island }

/-- R319, R380. The supply of an island has failed, a Status read reports an alert or a fault, or a frame has had no
valid response, the third of them in a row after a first good one being a fault. -/
def execSupplyFault (cause : SupplyCause) (s : State) : Result :=
  .next <| if s.boot.por || s.boot.warm then s
    else match cause with
      | .island n => raiseSupply s n
      | .status w fault =>
        if s.power.fixedVin.isSome then s
        else
          let s := { s with power := { avsGood s.power with avsStatus := w } }
          if fault then raiseSupply s 97 else s
      | .silence =>
        if s.power.fixedVin.isSome || !s.power.avsSeen then s
        else
          let s := { s with power := { s.power with avsMiss := s.power.avsMiss + 1, avsFrame := none } }
          if s.power.avsMiss = 3 then raiseSupply s 97 else s

/-- R379. The regulator reports VIN: a raise that waited for it takes place, if its rise is admitted (R298). -/
def execVinReady (mv : Nat) (s : State) : Result :=
  .next <| whenLive s fun s =>
    if s.power.fixedVin.isSome then s
    else
      let s := { s with power := avsGood s.power }
      if s.power.vset + 60 < s.power.vinReq && s.power.vinReq ≤ mv && s.power.vinReq ≤ ceiling s + 60 && admitted s then
        ptmSync (risePower { s with power := { s.power with vset := s.power.vinReq - 60 } })
      else s

/-- R380. The first Status read after PORESET_N has had no valid response: VIN is fixed at what the cluster
measures. -/
def execFixedVin (mv : Nat) (s : State) : Result :=
  .next <| whenLive s fun s =>
    if s.power.avsSeen then s
    else { s with power := { s.power with fixedVin := some mv, avsSeen := true, avsFrame := none } }

/-- The supply after one governor period that aims at `v`: one 5 mV step, once what the steps before it changed is
spread to within STEP, and a raise only once VIN allows it (R297, R298, R379). -/
def stepSupply (s : State) (pred : Nat → Nat) (v : Nat) : State :=
  let cur := s.power.vset
  let stay : State := { s with power := askVin s.power (cur + 60) }
  if v < cur then
    let n := max v (cur - 5)
    if s.power.shed < stepLimit s then
      { s with power := { askVin s.power (n + 60) with vset := n, shed := s.power.shed + 4 * (pred cur - pred n) } }
    else stay
  else if cur < v then
    let n := min v (cur + 5)
    if !admitted s then stay
    else if s.power.fixedVin.isSome then
      { s with power := { s.power with vset := n, debt := s.power.debt + 4 * (pred n - pred cur) } }
    else { s with power := askVin s.power (n + 60) }
  else stay

/-- The hottest valid sensor (R303, R406), or the last one known when none is valid. -/
def hottest (s : State) (words : List Word) : Nat :=
  match words.filter fun w => bitOf 31 w.toNat with
  | [] => s.power.tempQ
  | ws => ws.foldl (fun m w => max m (bitsOf 11 0 w.toNat)) 0

/-- The summed supply current of the islands, in units of 10 mA (R304). -/
def summedCurrent (tel : Telemetry) : Nat := tel.islands.foldl (fun n i => n + i.2) 0

/-- The conditions 0 to 5 of R306 that hold at the end of a period of Gale time; `delta` is the change of the
measured power in units of 0.25 W. -/
def galeConds (s : State) (current delta : Nat) : List Nat :=
  let conds : List Bool := [decide (heat s ≥ budget s), decide (s.power.tempQ ≥ regBits s 0xB00034 11 0), s.power.alert,
    decide (current > 10 * regBits s 0xB00038 15 0), decide (4 * delta > 2 * stepLimit s), credit s == 0]
  (List.range 6).filter fun i => (conds[i]?).getD false

/-- Gated islands whose group's bit in PTM_GATE is clear wake, one rise at a time (R298, R308). -/
def wakeOpen (s : State) : State :=
  let v := regGet s 0xB00060
  let open' (i : Nat) : Bool := (i < 64 && !bitOf 0 v) || (64 ≤ i && i < 68 && !bitOf 1 v) || (68 ≤ i && !bitOf 2 v)
  (s.power.gated.filter open').foldl (fun s i => (wakeFor s [i]).getD s) s

/-- The ledgers after one control period (R303, R305, R308). -/
def ledgers (p : Power) (gale : Bool) : Power :=
  if gale then { p with heat4 := p.heat4 + 4, credit10 := p.credit10 - 10, galeUs := p.galeUs + 1 }
  else { p with heat4 := p.heat4 - 1, credit10 := min (p.credit10 + 1) 40000000 }

/-- STATE of an island (R405). -/
def islandState (s : State) (i : Nat) : Nat :=
  if s.power.waking.contains i then 1 else if s.power.gated.contains i then 2
  else if s.power.retained.contains i then 3 else 0

/-- ISL_VSET of an island (R405): VAON is 0.75 V (R378), and a gated island has none. -/
def islandVset (s : State) (i : Nat) : Nat :=
  if i = 97 then 750 else if s.power.gated.contains i then 0 else s.power.vset % 4096

/-- ISL_STATE of an island (R405). -/
def islandWord (s : State) (i : Nat) : Nat :=
  islandState s i + 4 * boolBit (s.power.pacing && i < 84) + 8 * boolBit (i == 97)

/-- What every island shows until the next control period (R405). -/
def reportIslands (s : State) : State :=
  { s with power := { s.power with
    islandRep := (List.range s.par.islands).map fun i => (islandVset s i, islandWord s i) } }

/-- One run of island 97's governor (R297 to R306), with the frame of the AVSBus that it starts (R380). -/
def governor (tel : Telemetry) (s : State) : State :=
  let gale := galeTime s
  let hot := hotCeiling s
  let delta := match s.power.lastPower with
    | some q => max (tel.power - q) (q - tel.power)
    | none => 0
  let t := hottest s tel.sensors
  let p := ledgers s.power gale
  let s := { s with
    osc := s.osc + 1000
    power := { p with
      tempQ := t, lastPower := some tel.power, sensors := tel.sensors, islands := tel.islands
      debt := p.debt - stepLimit s, shed := p.shed - stepLimit s } }
  let s := regPut (regPut s 0xB00024 (tel.power % 65536)) 0xB00028 (tel.rate % 65536 + 65536 * t)
  let s := if hotCeiling s && !hot then ptmEvent s 6 else s
  let s := if gale then fallback s (galeConds s (summedCurrent tel) delta) else s
  let s := wakeOpen { s with power := { s.power with firstNow := false } }
  -- the effective cap slews toward the cap
  let target := 1000 * max 160 (min 1200 (regBits s 0xB00014 15 0))
  let ramp := regBits s 0xB00014 31 16
  let eff := if target ≥ s.power.eff then min target (s.power.eff + ramp) else max target (s.power.eff - ramp)
  let s := { s with power := { s.power with eff := eff } }
  -- the supply
  let r := draw s 1
  let s := r.2
  let pred (v : Nat) : Nat := Config.predictedPower (1024 * r.1 + v)
  let top := ceiling s
  let lo := vMin s
  let fits := (List.range 61).filterMap fun i =>
    let v := lo + 5 * i
    if v ≤ top && 1000 * pred v ≤ eff then some v else none
  let v := if top < lo then top else fits.foldl max lo
  let s := { s with power := { s.power with pacing := 1000 * pred (min lo top) > eff } }
  let s := stepSupply s pred v
  let n := draw s 2
  reportIslands (ptmSync { n.2 with power := avsNext n.2.power n.2.osc n.1 })

/-- R297 to R306. One control period of 1,000 oscillator counts has passed.  Island 97 runs on after a stop (R317),
and its oscillator through a warm reset (R295). -/
def execControlPeriod (tel : Telemetry) (s : State) : Result :=
  .next <| if s.boot.por then s
    else if s.boot.warm then { s with osc := s.osc + 1000 }
    else governor tel s

/-! Islands (R292, R294). -/

/-- Whether a matrix island's position is in use (R294). -/
def positionBusy (s : State) (a p : Nat) : Bool :=
  ((matrixRuns s).any fun r => r.parts.any fun x => x.1 == a && covers r.mode x.2 p)
    || ([0, 1, 2, 3].any fun q => covers 1 q p && (quadHolder s (4 * a + q)).isSome)
    || s.mxe.planes.any fun x => x.retained && x.array == a && covers x.mode x.part p

/-- Whether a chain has a hold on its unit: it runs, or it has failed and its cache ranges are not yet as R120 says. -/
def vxHolds (d : Desc) (r : VxRun) : Bool :=
  d.phase == .running || d.phase == .replaying || (d.status != 0 && !r.lost)

/-- Whether a vector unit runs a descriptor or a pass. -/
def unitBusy (s : State) (v : Nat) : Bool :=
  s.descs.any fun d => match d.engine with
    | .vector r => vxHolds d r && r.unit == v
    | .matrix r => (d.phase == .running || d.phase == .replaying) && r.passes.any fun p => p.unit == some v && !p.done
    | _ => false

/-- Whether an island may be gated now. -/
def mayGate (s : State) (i : Nat) : Bool :=
  let gate := regGet s 0xB00060
  if i < 64 then bitOf 0 gate && i / 16 < s.par.arrays && !positionBusy s (i / 16) (i % 16)
  else if i < 68 then bitOf 1 gate && i - 64 < s.par.vectorUnits && !unitBusy s (i - 64)
  else if i < 84 then
    bitOf 2 gate && i - 68 < s.par.taskCores && ([0, 1].all fun k => match s.groups[2 * (i - 68) + k]? with
      | some g => g.state == 0
      | none => false)
  else false

/-- R294. An island idle for PTM_GATE.HOLD is gated, and loses what no later descriptor depends on. -/
def execIslandGate (island : Nat) (s : State) : Result :=
  .next <| whenLive s fun s =>
    if s.power.gated.contains island || s.power.waking.contains island || !mayGate s island then s
    else
      let s := { s with power := { s.power with gated := setInsert s.power.gated island } }
      if island < 64 then
        { s with mxe := { s.mxe with planes := s.mxe.planes.filter fun x =>
          !(x.array == island / 16 && covers x.mode x.part (island % 16)) } }
      else if island < 68 then s
      else { s with l1 := s.l1.filter fun l => l.core != island - 68 }

/-- R294. A scratchpad bank group idle for HOLD enters retention; one for which an access waits is not idle. -/
def execRetention (island : Nat) (s : State) : Result :=
  .next <| whenLive s fun s =>
    if 84 ≤ island && island ≤ 89 && bitOf 0 (regGet s 0x700000) && !(s.xbr.any fun r => (accBanks r.acc).any fun b => bankIsland b == island)
        && !s.power.waking.contains island then
      { s with power := { s.power with retained := setInsert s.power.retained island } }
    else s

/-- R294. An island finishes its wake, or a bank group leaves retention; the work that waits for it may
proceed. -/
def execIslandWake (island : Nat) (s : State) : Result :=
  .next <| whenLive s fun s =>
    { s with power := { s.power with waking := s.power.waking.erase island, retained := s.power.retained.erase island } }

/-- A write of PTM_GATE (R308): clearing a bit wakes the group's gated islands under the step limit. -/
def gateWrite (s : State) (v : Nat) : State := wakeOpen (regPut s 0xB00060 v)

/-- PTM_ISLANDj: the islands gated or in retention. -/
def islandBits (s : State) (j : Nat) : Nat :=
  ((List.range 32).map fun b =>
    boolBit (s.power.gated.contains (32 * j + b) || s.power.retained.contains (32 * j + b)) * 2 ^ b).foldl (· + ·) 0

/-! The error unit's registers and timed events (R309 to R326). -/

/-- A log entry is completed (R314): it is no longer open, and the next one is delivered. -/
def completeEntry (s : State) (index : Nat) : State :=
  if s.errors.opens.any fun e => e.index == index then
    deliverEntry { s with errors := { s.errors with
      opens := s.errors.opens.filter fun e => e.index != index, nest := s.errors.nest.erase index } }
  else s

/-- EEU_FATAL0 to EEU_FATAL3 cleared (R326). -/
def clearFatal (s : State) : State := [0xC00030, 0xC00034, 0xC00038, 0xC0003C].foldl (fun s o => regPut s o 0) s

/-- Whether a register carries parity: by offset, or 2^24 × space + byte offset for a word that IND reaches (R320). -/
def carriesParity (o : Nat) : Bool :=
  if o < 2 ^ 24 then match rowOf o with
    | some r => r.fields.any fun f => f.acc == .rw || f.acc == .wm || f.acc == .lk || f.acc == .lock
    | none => false
  else o % 4 == 0 && ((o / 2 ^ 24 == 3 && o % 2 ^ 24 < 0x2800) || (o / 2 ^ 24 == 6 && o % 2 ^ 24 < 0x400))

/-- R320. The scrub checks every register with parity; `upset` names one whose storage has been upset, which the
block's next use finds even where no scrub runs (assumption 142). -/
def execScrub (upset : Option Nat) (s : State) : Result :=
  .next <| whenLive s fun s =>
    if regBits s 0xC00054 15 0 = 0 && upset.isNone then s
    else
      let s := match upset with
        | some o => if carriesParity o then { s with cfgBad := setInsert s.cfgBad o } else s
        | none => s
      match s.cfgBad with
      | o :: _ => raiseCfgParity s o
      | [] => s

/-- Whether an island is powered, awake and not paced (R299, R310). -/
def answering (s : State) (i : Nat) : Bool :=
  !(s.power.gated.contains i || s.power.waking.contains i || s.power.retained.contains i || (s.power.pacing && i < 84))

/-- R310. A handshake between two islands that are powered, awake and not paced has stayed unanswered for
EEU_STALL.LIMIT: the entry names the island that has not answered (DEDUCED, assumption 168). -/
def execHandshakeStall (h : Handshake) (s : State) : Result :=
  .next <| whenLive s fun s =>
    if regBits s 0xC00058 15 0 = 0 || !answering s h.asker || !answering s h.answerer then s
    else raiseErr s { code := 0x0304, cls := 3, internal := true, resource := resource 11 h.answerer, info0 := h.answerer }

/-- R325. The boundary of a window of 2^30 counts: the count of corrected errors restarts. -/
def execWindowBoundary (s : State) : Result :=
  .next <| whenLive s fun s =>
    let no := s.osc / 2 ^ 30 + 1
    { s with osc := no * 2 ^ 30, errors := { s.errors with window := 0, windowNo := no } }

/-- The levels of EVT_OUT (R325). -/
def evtOut (s : State) : Nat := regGet s 0xC00040 % 256 &&& regGet s 0xC00044 % 256

end Sys2Proof.Machine
end

