-- ==== Sys2Proof/Machine/Boot.lean ====
section
/-! DEFINITION. Reset, settings, firmware and identity (R328 to R359): the reset inputs, the boot stages, the
serial NOR device with its settings records, images and bank states, the image descriptors, activation at a
front, fuses, the attention input and the link's return with its identity packet. -/
namespace Sys2Proof.Machine

/-! CSU fields (R359). -/

/-- CSU_BOOT.STAGE. -/
def stage (s : State) : Nat := regBits s 0x200010 3 0
/-- CSU_BOOT.BANK. -/
def runBank (s : State) : Nat := regBits s 0x200010 8 8
/-- CSU_IMG.STATE: 0 IDLE, 1 VERIFYING, 2 STAGED, 3 SCHEDULED, 4 SWITCHING, 5 TRIAL, 6 REVERTING. -/
def imgState (s : State) : Nat := regBits s 0x200040 2 0

/-- CSU_BOOT.STAGE written. -/
def setStage (s : State) (n : Nat) : State := regPutBits s 0x200010 3 0 n
/-- CSU_IMG.STATE written. -/
def setImgState (s : State) (n : Nat) : State := regPutBits s 0x200040 2 0 n

/-! The attention input in stage 7 (R356). -/

/-- The ROM's action on a request in stage 7: ring 0 is disabled and OUT set once that completes, or enabled
again and OUT cleared. -/
def attnRom (s : State) : State :=
  if stage s != 7 || imgState s = 4 || !bitOf 0 (regGet s 0x200070) || s.boot.attnDrain || s.dre.cmd.isSome then s
  else
    let s := regPutBits s 0x200070 0 0 0
    match ringGet s 0 with
    | some _ =>
      let s := ringCmd { s with boot := { s.boot with attnDrain := true } } 2 0
      if (ringGet s 0).isSome then s
      else regPutBits { s with boot := { s.boot with attnDrain := false } } 0x200070 3 2 1
    | none => regPutBits (ringCmd s 1 0) 0x200070 3 2 0

/-- Whether a table entry lies in chip memory, or cannot be read, which counts as such (R327). -/
def entryAtRisk (s : State) (a len : Nat) : Bool := isChip a || (spmBadIn s (offsetOf a) len).isSome

/-- Whether a ring depends on chip memory (R327). -/
def onChipMemory (s : State) (r : Ring) : Bool :=
  isChip r.base || (s.dre.cqs.any fun q => q.cq == r.cq && isChip q.base)
    || entryAtRisk s (ctxAddr s r.ring) 64 || entryAtRisk s (cqAddr s r.cq) 16

/-- The Steward's next disable after CHIP_MEMORY_FATAL, while no ring command is in progress (R217, R327). -/
def disableNext (s : State) : State :=
  match s.dre.doomed with
  | [] => s
  | r :: rs =>
    if s.dre.cmd.isSome then s
    else
      let s := { s with dre := { s.dre with doomed := rs } }
      if (ringGet s r).isSome then ringCmd s 2 r else s

/-- What the Steward does once the ring command register is free: the disables of R327, then what a request of the
attention input asks for. -/
def stewardNext (s : State) : State :=
  whenLive s fun s => attnRom (s.dre.doomed.foldl (fun s _ => disableNext s) s)

/-- R319, R327, R372. CMP_FATAL_N is asserted: CHIP_MEMORY_FATAL is raised once, the cluster continues, and the Steward
disables every ring that depends on chip memory. -/
def execChipMemoryFatal (s : State) : Result :=
  .next (if s.boot.por || s.boot.warm || s.cmp.fatal then s
    else
      let s := { s with cmp := { s.cmp with fatal := true } }
      whenLive (raiseErr s { code := 0x0402, cls := 4, unit := 15 }) fun s =>
        stewardNext { s with dre := { s.dre with
          doomed := (s.dre.rings.filter fun r => !r.disabling && onChipMemory s r).map (·.ring) } })

/-- The disable that a request asked for has completed (R356). -/
def attnDone (s : State) : State :=
  stewardNext (if s.boot.attnDrain && (ringGet s 0).isNone then
      regPutBits { s with boot := { s.boot with attnDrain := false } } 0x200070 3 2 1
    else s)

/-- Recovery mode with its reason: the built-in function tables serve ring 0, and a request that stands is acted on
(R241, R330, R345, R356). -/
def toRecovery (s : State) (why : Nat) : State :=
  attnRom (setStage (regPutBits { s with ftab := [] } 0x200010 6 4 why) 7)

/-- Out of service: every link is held down (R331). -/
def outOfService (s : State) : State := setStage (linksDown s) 8

/-- Whether the cluster serves accesses from outside: its scratchpad is ready, it has not failed, and no
stop is in force (R317, R331). -/
def serving (s : State) : Bool := live s && 2 ≤ stage s && stage s != 8

/-! The serial NOR device (R334). -/

/-- A byte of the device; an erased one reads 0xFF. -/
def norByte (s : State) (a : Nat) : Byte := mapGet (fun _ => (0xFF : Byte)) s.nor a

/-- Bytes of the device. -/
def norBytes (s : State) (a n : Nat) : List Byte := (List.range n).map fun i => norByte s (a + i)

/-- A range of the device erased. -/
def norErase (s : State) (a n : Nat) : State := { s with nor := s.nor.filter fun c => !(a ≤ c.1 && c.1 < a + n) }

/-- Bytes stored in the device. -/
def norStore (s : State) (a : Nat) (bs : List Byte) : State :=
  { s with nor := mapSetAll (fun _ => (0xFF : Byte)) s.nor a bs }

/-- A range of the device left with undefined bytes. -/
def norHavoc (s : State) (a n : Nat) : State :=
  let r := drawBytes s n
  norStore r.2 a r.1

/-- First device offset of a bank, and its size. -/
def bankAt (b : Nat) : Nat := 0x100000 + 0x780000 * (b % 2)
@[inherit_doc bankAt] def bankSize : Nat := 0x780000

/-! Settings records (R335 to R339). -/

/-- Shortest record of a version. -/
def setLen (v : Nat) : Nat := if v = 1 then 48 else if v = 2 then 64 else 96

/-- Whether a byte string starts with a valid record (R335). -/
def settingsOk (bs : List Byte) : Bool :=
  let ver := fieldAt bs 4 2
  let len := fieldAt bs 6 2
  fieldAt bs 0 4 == 0x5445534B && 1 ≤ ver && len % 16 == 0 && setLen ver ≤ len && len ≤ 4096 && len ≤ bs.length
    && (crc32c (bs.take 12 ++ toLe 4 0 ++ (bs.drop 16).take (len - 16))).toNat == fieldAt bs 12 4

/-- The record of a settings slot, if it is valid. -/
def slotRecord (s : State) (slot : Nat) : Option (List Byte) :=
  let bs := norBytes s (0x10000 * slot) 4096
  if settingsOk bs then some (bs.take (fieldAt bs 6 2)) else none

/-- The current record and its slot: the greater sequence number. -/
def currentRecord (s : State) : Option (Nat × List Byte) :=
  match slotRecord s 0, slotRecord s 1 with
  | some a, some b => if fieldAt a 8 4 < fieldAt b 8 4 then some (1, b) else some (0, a)
  | some a, none => some (0, a)
  | none, some b => some (1, b)
  | none, none => none

/-- A field of a record: its default before its version, beyond the record's length, or outside its range
(R336). -/
def setField (r : Option (List Byte)) (off len ver dflt : Nat) (ok : Nat → Bool) : Nat :=
  match r with
  | none => dflt
  | some bs =>
    if fieldAt bs 4 2 < ver || fieldAt bs 6 2 < off + len then dflt
    else
      let v := fieldAt bs off len
      if ok v then v else dflt

/-- A record stored in the slot that does not hold the current one, with the next sequence number and a
fresh CRC (R339). -/
def storeRecord (s : State) (bs : List Byte) : State :=
  let cur := currentRecord s
  let slot := match cur with
    | some (n, _) => 1 - n
    | none => 0
  let seq := match cur with
    | some (_, c) => (fieldAt c 8 4 + 1) % 2 ^ 32
    | none => 0
  let b0 := bs.take 8 ++ toLe 4 seq ++ toLe 4 0 ++ bs.drop 16
  norStore (norErase s (0x10000 * slot) 0x10000) (0x10000 * slot)
    (bs.take 8 ++ toLe 4 seq ++ toLe 4 (crc32c b0).toNat ++ bs.drop 16)

/-- The migration of the current record to the settings version a bank's manifest requires, as far as the
ROM's version 3 (R338). -/
def migrate (s : State) (want : Nat) : State :=
  match currentRecord s with
  | none => s
  | some (_, r) =>
    let v := fieldAt r 4 2
    let w := min want 3
    if w ≤ v then s
    else
      let v1 := padTo 48 (r.take 48)
      let v2 := if v ≥ 2 then padTo 64 (r.take 64)
        else v1 ++ toLe 4 0x00A00294 ++ toLe 4 0x03B6028A ++ toLe 4 0x000A0007 ++ toLe 4 0
      let v3 := v2 ++ toLe 16 s.fusesSensed.uid.toNat ++ toLe 2 1000 ++ toLe 14 0
      let body := if w = 2 then v2 else v3
      storeRecord s (body.take 4 ++ toLe 2 w ++ toLe 2 (setLen w) ++ body.drop 8)

/-- A supply pair of PTM_VLIMIT in range (R308). -/
def vlimitOk (v : Nat) : Bool :=
  let lo := bitsOf 11 0 v
  let hi := bitsOf 27 16 v
  650 ≤ lo && lo ≤ 950 && 650 ≤ hi && hi ≤ 950 && lo ≤ hi

/-- The current record applied (R337, R355, R400). -/
def applySettings (s : State) : State :=
  let r := (currentRecord s).map (·.2)
  let any (_ : Nat) : Bool := true
  let s := regPut s 0x200030 (setField r 16 4 1 0 any % 2 ^ 19)
  let s := regPutBits s 0x200034 7 0 (setField r 20 1 1 11 fun v => 10 ≤ v)
  let s := regPutBits s 0x900020 5 4 (setField r 21 1 1 0 any % 4)
  let s := [0, 1, 2, 3].foldl (fun s n =>
    let v := setField r (32 + 4 * n) 4 1 0 any
    regPut s (0x100010 + 4 * n) (if bitOf 31 v then 2 ^ 31 + v % 2 ^ 19 else 0)) s
  let s := capWrite s (setField r 48 4 2 0x00A00294 fun v => regClamp 0xB00014 v == v)
  let s := regPut s 0xB00004 (setField r 52 4 2 0x03B6028A vlimitOk)
  let s := gateWrite s (setField r 56 4 2 0x000A0007 any)
  let replaced := match r with
    | some bs => 3 ≤ fieldAt bs 4 2 && fieldAt bs 64 16 != s.fusesSensed.uid.toNat
    | none => false
  let ver := match r with
    | some bs => min (fieldAt bs 4 2) 3
    | none => 0
  let s := regPutBits (regPutBits s 0x200010 7 7 (boolBit replaced)) 0x200010 27 24 ver
  { s with boot := { s.boot with confirmMs := setField r 80 2 3 1000 fun v => 10 ≤ v && v ≤ 60000 } }

/-! Bank-state records (R344). -/

/-- What the bank-state sectors say: sequence, active bank, trial, the banks' states (0 EMPTY, 1 WRITTEN,
2 GOOD, 3 FAILED), the epoch, and the place of the record: its sector and slot. -/
structure BankState where
  seq : Nat := 0
  active : Nat := 0
  trial : Bool := false
  state0 : Nat := 0
  state1 : Nat := 0
  epoch : Nat := 0
  place : Option (Nat × Nat) := none
deriving DecidableEq, Repr

/-- The record in a slot of a sector, if it is valid. -/
def bankRecord (s : State) (sector slot : Nat) : Option BankState :=
  let bs := norBytes s (0x20000 + 0x10000 * sector + 64 * slot) 64
  if fieldAt bs 0 4 == 0x5453424B && (crc32c (bs.take 60)).toNat == fieldAt bs 60 4 then
    some { seq := fieldAt bs 4 4, active := fieldAt bs 8 1 % 2, trial := fieldAt bs 9 1 != 0
           state0 := fieldAt bs 10 1, state1 := fieldAt bs 11 1, epoch := fieldAt bs 16 8
           place := some (sector, slot) }
  else none

/-- The current bank state: the valid record of the greatest sequence number; both banks EMPTY without
one. -/
def bankState (s : State) : BankState :=
  (List.range 2048).foldl (fun m i =>
    match bankRecord s (i / 1024) (i % 1024) with
    | some b => if m.place.isNone || m.seq < b.seq then b else m
    | none => m) {}

/-- A bank's state. -/
def stateOfBank (b : BankState) (n : Nat) : Nat := if n = 0 then b.state0 else b.state1

/-- The state of one bank replaced. -/
def withBank (b : BankState) (n v : Nat) : BankState :=
  if n = 0 then { b with state0 := v } else { b with state1 := v }

/-- A changed bank state appended as a new record; a full sector sends it to the other one, erased. -/
def storeBank (s : State) (b : BankState) : State :=
  let seq := (b.seq + 1) % 2 ^ 32
  let r := toLe 4 0x5453424B ++ toLe 4 seq ++ toLe 1 b.active ++ toLe 1 (boolBit b.trial) ++ toLe 1 b.state0
    ++ toLe 1 b.state1 ++ toLe 4 0 ++ toLe 8 b.epoch ++ toLe 36 0
  let r := r ++ toLe 4 (crc32c r).toNat
  match b.place with
  | none => norStore (norErase s 0x20000 0x10000) 0x20000 r
  | some (sec, slot) =>
    if slot + 1 < 1024 then norStore s (0x20000 + 0x10000 * sec + 64 * (slot + 1)) r
    else
      let o := 0x20000 + 0x10000 * (1 - sec)
      norStore (norErase s o 0x10000) o r

/-! Images (R340 to R343). -/

/-- A big-endian number. -/
def beNat (bs : List Byte) : Nat := leNat bs.reverse
/-- The 48 bytes of a digest. -/
def digestBytes (d : BitVec 384) : List Byte := (toLe 48 d.toNat).reverse

/-- The SVN floor: the number of bits blown (R342). -/
def svnFloor (f : Fuses) : Nat := ((List.range 64).filter fun i => f.svnBits.getLsbD i).length

/-- A part of a manifest (R343). -/
structure Part where
  type : Nat
  off : Nat
  len : Nat
  target : Nat
deriving DecidableEq, Repr

/-- The parts a manifest lists. -/
def manifestParts (man : List Byte) : List Part :=
  (List.range (fieldAt man 4 1)).map fun i =>
    let e := man.drop (16 + 32 * i)
    { type := fieldAt e 0 1, off := fieldAt e 8 4, len := fieldAt e 12 4, target := fieldAt e 16 8 }

/-- Whether an endpoint register may be named in part 4 (R343). -/
def endpointReg (o : Nat) : Bool := [0x10, 0x14, 0x18, 0x1C, 0x30, 0x34, 0x40, 0x44, 0x48, 0x4C].contains o

/-- Whether a part obeys R343 on its own. -/
def partOk (s : State) (body : List Byte) (manOff manLen : Nat) (p : Part) : Bool :=
  let bs := (body.drop p.off).take p.len
  let inside := p.off + p.len ≤ body.length && !overlap p.off p.len manOff manLen
  let placed := p.target % 128 == 0 && p.target + p.len ≤ 0x05FBC000 && inNear s p.target p.len
    && !overlap p.target p.len (regGet s 0xC00010 % 2 ^ 27 / 64 * 64) 16384
  inside && (match p.type with
    | 1 => p.len ≤ 0x80000 && p.target == 0
    | 2 => p.len ≤ 0x400000 && placed
    | 3 => p.len == 10240 && p.target == 0 && (List.range 2560).all fun i =>
        !valNonfinite (ofFp32 (BitVec.ofNat 32 (fieldAt bs (4 * i) 4)))
    | 4 => p.len % 8 == 0 && p.target == 0 && (List.range (p.len / 8)).all fun i => endpointReg (fieldAt bs (8 * i) 4)
    | 5 => placed
    | _ => false)

/-- Whether two parts overlap, in the body or at their targets. -/
def partsClash (a b : Part) : Bool :=
  let loads (p : Part) : Bool := p.type == 2 || p.type == 5
  overlap a.off a.len b.off b.len || (loads a && loads b && overlap a.target a.len b.target b.len)

/-- The entry of a manifest that breaks R343, counted from 0; entry 0 for its header. -/
def manifestFault (s : State) (body : List Byte) (manOff manLen : Nat) : Option Nat :=
  let man := (body.drop manOff).take manLen
  let n := fieldAt man 4 1
  let ps := manifestParts man
  let count (t : Nat) : Nat := (ps.filter fun p => p.type == t).length
  if fieldAt man 0 4 != 0x4E414D4B || n = 0 || n > 16 || manLen < 16 + 32 * n || count 1 != 1 || count 2 > 1
      || count 3 != 1 || count 4 > 1 then some 0
  else (List.range n).find? fun i => match ps[i]? with
    | some p => !partOk s body manOff manLen p || (ps.take i).any (partsClash p)
    | none => true

/-- Checks 1 to 7 of R341 on an image header: 0 passes, otherwise the reason. -/
def headerReason (s : State) (h : List Byte) : Nat :=
  let f := fieldAt h
  let z (o n : Nat) : Bool := f o n == 0
  let step := s.fusesSensed.hwType.toNat % 256
  let slot := f 14 2
  let key := (h.drop 104).take 97
  let hash := (s.fuses.keys[slot]?).getD 0
  if f 0 4 != 0x474D494B || f 4 2 != 1 || !z 6 2 || f 13 1 ≥ 2 || !z 201 55 || !z 352 160 then 1
  else if f 8 4 / 256 != s.fusesSensed.hwType.toNat / 256 || step < f 8 4 % 256 || f 12 1 < step then 2
  else if bitOf 0 (f 13 1) && f 16 16 != s.fusesSensed.uid.toNat then 3
  else if f 36 4 % 128 != 0 || f 36 4 < 128 || f 36 4 > 7863808 || f 40 4 + f 44 4 > f 36 4 then 4
  else if f 32 4 < svnFloor s.fuses then 5
  else if slot ≥ 4 || !s.fuses.programmed.getLsbD slot || s.fuses.revoked.getLsbD slot || hash == 0
      || Config.sha384 key != hash then 6
  else if !Config.ecdsaVerify key (Config.sha384 (h.take 256)) ((h.drop 256).take 96) then 7
  else 0

/-- The body an image's header names, given what follows the header. -/
def bodyOf (h rest : List Byte) : List Byte := rest.take (fieldAt h 36 4)

/-- The checks of R341 on a header and its body: reason and detail, 0 when every check passes. -/
def imageReason (s : State) (h body : List Byte) : Nat × Nat :=
  let r := headerReason s h
  if r != 0 then (r, 0)
  else if digestBytes (Config.sha384 body) != (h.drop 56).take 48 then (8, 0)
  else match manifestFault s body (fieldAt h 40 4) (fieldAt h 44 4) with
    | some i => (9, i)
    | none => (0, 0)

/-- The header and the body of a bank's image. -/
def bankImage (s : State) (b : Nat) : List Byte × List Byte :=
  let h := norBytes s (bankAt b) 512
  (h, norBytes s (bankAt b + 512) (min (fieldAt h 36 4) (bankSize - 512)))

/-- The buckets settled at the rates in force until now (R280). -/
def settleBuckets (s : State) : State :=
  { s with fep := { s.fep with buckets := s.fep.buckets.map fun b => bucketNow s b.group } }

/-- A write of the endpoint configuration: a locked base, and the base of the active bank, ignore it (R285,
R343, R396); FEP_RSP_TIMEOUT advances its generation, and the buckets fill at the rates in force until now (R280). -/
def endpointWrite (s : State) (o v : Nat) : State :=
  let off := 0x900000 + o
  if o < 0x20 && (bitOf 0 (regGet s 0x900000) || (o - 0x10) / 8 == activeBank s) then s
  else bumpGens (regPut (settleBuckets s) off v) (regGens off)

/-- What keeps a part of an image from its target: a refetch to wait for, or a hold or an ordered region that refuses the
write (R184, R186, R213). -/
inductive PartStop where
  | wait
  | refused (off : Nat)
deriving DecidableEq, Repr

/-- The first part that cannot be loaded at its target (R343, R350). -/
def partStop (s : State) (h body : List Byte) : Option PartStop :=
  let man := (body.drop (fieldAt h 40 4)).take (fieldAt h 44 4)
  (manifestParts man).findSome? fun p =>
    if p.type = 1 || p.type = 3 || p.type = 4 then none
    else if heldOver s p.target p.len || (ordOver s p.target p.len).isSome then some (.refused p.target)
    else if (refetching s p.target p.len).isSome then some .wait
    else none

/-- The parts of an image loaded and its endpoint configuration applied (R343, R350). -/
def loadParts (s : State) (h body : List Byte) : State :=
  let man := (body.drop (fieldAt h 40 4)).take (fieldAt h 44 4)
  let s := (manifestParts man).foldl (fun s p =>
    let bs := (body.drop p.off).take p.len
    match p.type with
    | 1 => { s with boot := { s.boot with firmware := bs } }
    | 3 => { s with ftab := mapSetAll Config.romTable [] 0 ((List.range 2560).map fun i => BitVec.ofNat 32 (fieldAt bs (4 * i) 4)) }
    | 4 => (List.range (p.len / 8)).foldl (fun s i => endpointWrite s (fieldAt bs (8 * i) 4) (fieldAt bs (8 * i + 4) 4)) s
    | _ => unitStore s p.target bs) s
  migrate s (fieldAt man 6 2)

/-- A bank's firmware starts (R330, R344). -/
def startBank (s : State) (b : Nat) : State := setStage (regPutBits s 0x200010 8 8 b) 5

/-! The reset inputs (R328, R329, R384). -/

/-- The bytes that a device operation was changing are undefined when a reset breaks it off; its bank is
EMPTY or WRITTEN, and a settings slot is whole or erased (R352). -/
def abandonDevice (s : State) : State :=
  match s.boot.imageBusy.bind (descGet s) with
  | none => s
  | some d => match d.engine with
    | .image 1 =>
      let b := dbits d 32 1 0 0
      match dop d with
      | 0xF0 => storeBank (norHavoc s (bankAt b) bankSize) (withBank (bankState s) b 0)
      | 0xF1 => storeBank (norHavoc s (bankAt b + dfield d 36 4) (dfield d 40 4)) (withBank (bankState s) b 1)
      | 0xF4 =>
        let r := draw s 1
        if (Config.freeWord r.1).getLsbD 0 then storeRecord r.2 d.aux
        else match currentRecord r.2 with
          | some (n, _) => norErase r.2 (0x10000 * (1 - n)) 0x10000
          | none => norErase r.2 0 0x10000
      | _ => s
    | _ => s

/-- R328. PORESET_N is asserted: everything but the fuses and the device takes its reset state. -/
def execPoresetN (s : State) : Result :=
  let n := abandonDevice s
  .next { State.reset with
    pending := s.pending, freeCtr := n.freeCtr, nextId := s.nextId, readout := s.readout, par := s.par
    fuses := s.fuses, fusesSensed := s.fusesSensed, nor := n.nor
    boot := { warm := s.boot.warm, attnIn := s.boot.attnIn }
    power := { alert := s.power.alert } }

/-- What a warm reset keeps of the registers: WIDX with RIDX set to it, EEU_FATAL0 to EEU_FATAL3, the wear
credit and the Gale total (R318, R328). -/
def warmRegs (s : State) : List (Nat × Word) :=
  let keep := [0xC00030, 0xC00034, 0xC00038, 0xC0003C, 0xB00044, 0xB0004C]
  let s' := keep.foldl (fun (t : State) o => regPut t o (regGet s o)) { s with regs := [], cfgBad := [] }
  (regPut s' 0xC00014 (logW s + 65536 * logW s)).regs

/-- R328. WARMRESET_N is asserted; PORESET_N prevails while both are. -/
def execWarmresetN (s : State) : Result :=
  if s.boot.por then .next { s with boot := { s.boot with warm := true } }
  else
    let n := abandonDevice s
    .next { State.reset with
      pending := s.pending, freeCtr := n.freeCtr, nextId := s.nextId, readout := s.readout, par := s.par
      fuses := s.fuses, fusesSensed := s.fusesSensed, nor := n.nor
      boot := { por := false, warm := true, attnIn := s.boot.attnIn }
      osc := s.osc, regs := warmRegs s, corr := s.corr, spm := s.spm, spmBad := s.spmBad, spmLost := s.spmLost
      errors := { supp := s.errors.supp, window := s.errors.window, windowNo := s.errors.windowNo }
      power := { alert := s.power.alert, credit10 := s.power.credit10, galeUs := s.power.galeUs
                 fixedVin := s.power.fixedVin, avsSeen := s.power.avsSeen }
      tap := s.tap }

/-- R329, R368. The last asserted reset input is released: RECOVERY is sampled, the boot sequence starts, and
every chip-memory channel returns its credits. -/
def execResetRelease (recovery : Bool) (s : State) : Result :=
  .next <| if !s.boot.por && !s.boot.warm then s
    else
      let s1 := regPutBits s 0x200010 9 9 (boolBit (!s.boot.por))
      let first : Option AvsFrame := if s.power.avsSeen then s.power.avsFrame
        else some { write := false, code := avsStatusRead, data := 0xFFFF, since := s.osc }
      let s2 := { s1 with boot := { s1.boot with por := false, warm := false, strap := recovery }
                          power := { s1.power with avsFrame := first } }
      (List.range 8).foldl (fun s c => cmpPump (chanUpd s c fun c => { c with giveReq := 32, giveRsp := 32 }) c) s2

/-! The boot stages (R330 to R344). -/

/-- R330. Fuse sensing ends: stage 1, or stage 8 when a redundant copy disagrees. -/
def execFusesStage (agree : Bool) (s : State) : Result :=
  .next <| whenLive s fun s =>
    if stage s != 0 then s
    else if agree then setStage { s with fusesSensed := s.fuses } 1
    else outOfService s

/-- The failing groups with bit 7 for a stacked die whose pairing code differs or that does not answer (R377). -/
def withDies (s : State) (failing : BitVec 8) : BitVec 8 :=
  if s.fusesSensed.dies.all fun c => c == some s.fusesSensed.pairing then failing else failing ||| 0x80

/-- R331, R377. Self-test ends; after PORESET_N it leaves scratchpad zero with correct parity. -/
def execSelftestStage (failing : BitVec 8) (s : State) : Result :=
  .next <| whenLive s fun s =>
    if stage s != 1 then s
    else
      let failing := withDies s failing
      let s := regPutBits s 0x200010 23 16 failing.toNat
      let s := if bitOf 9 (regGet s 0x200010) then s else { s with spm := [], spmBad := [], spmLost := none }
      if failing = 0 then setStage s 2 else outOfService s

/-- Whether a discovered device counts as present (R332). -/
def deviceOk (d : Sfdp) : Bool := d.bfptMinor ≥ 6 && d.sizeMiB ≥ 16 && d.eraseKiB.any fun e => 0 < e && e ≤ 64

/-- R332. Discovery of the device ends: the read mode is chosen, or recovery begins with NO_FLASH. -/
def execFlashStage (device : Option Sfdp) (s : State) : Result :=
  .next <| whenLive s fun s =>
    if stage s != 2 then s
    else match device.filter deviceOk with
      | some d =>
        setStage (regPutBits s 0x200010 29 28 (if d.has144 then 2 else if d.has114 then 1 else 0)) 3
      | none => toRecovery (romRing0 s) 2

/-- R330, R337, R359. The settings are applied, the ROM's function tables written, ring 0 made ACTIVE, and the epoch of the
bank-state record shown. -/
def execSettingsStage (s : State) : Result :=
  .next <| whenLive s fun s =>
    if stage s != 3 then s
    else
      let s := romRing0 { applySettings s with ftab := [] }
      let s := regPutPair s 0x200048 (bankState s).epoch
      if s.boot.strap then toRecovery s 1 else setStage s 4

/-- R344. A bank is chosen, checked and loaded, or recovery begins with NO_IMAGE. -/
def execImageStage (s : State) : Result :=
  .next <| whenLive s fun s =>
    if stage s != 4 then s
    else
      let b := bankState s
      let s := regPutPair s 0x200048 b.epoch
      let b' := if b.trial then
          { withBank b b.active 3 with active := 1 - b.active, trial := false }
        else b
      let s := if b.trial then storeBank s b' else s
      let cands := [b'.active, 1 - b'.active].filter fun n => stateOfBank b' n == 2
      match cands.find? fun n => (imageReason s (bankImage s n).1 (bankImage s n).2).1 == 0 with
      | some n => startBank (loadParts s (bankImage s n).1 (bankImage s n).2) n
      | none => toRecovery s 3

/-! Identity (R353, R354). -/

/-- Bytes 0 to 223 of the identity block. -/
def identityHead (s : State) (nonce : List Byte) : List Byte :=
  let b := bankState s
  let bank := runBank s
  let version (n : Nat) : Nat := fieldAt (norBytes s (bankAt n) 512) 48 8
  toLe 16 s.fusesSensed.uid.toNat ++ toLe 4 s.fusesSensed.hwType.toNat ++ toLe 4 (ownId s)
    ++ toLe 8 (regPair s 0x200048) ++ toLe 8 (if stage s = 5 then version bank else 0)
    ++ toLe 8 (if stateOfBank b (1 - bank) = 2 then version (1 - bank) else 0)
    ++ toLe 1 bank ++ toLe 1 b.state0 ++ toLe 1 b.state1 ++ toLe 1 (svnFloor s.fusesSensed)
    ++ toLe 2 (regBits s 0x200010 27 24) ++ toLe 1 (regBits s 0x200010 6 4)
    ++ toLe 1 (regBits s 0x200010 7 7 + 2 * boolBit (imgState s = 5) + 4 * boolBit (stage s = 7))
    ++ toLe 8 0 ++ padTo 48 nonce ++ padTo 97 s.fusesSensed.attestPub ++ toLe 15 0

/-- The identity block: its head and the signature over it. -/
def identityBlock (s : State) (nonce : List Byte) : List Byte :=
  let h := identityHead s nonce
  h ++ (toLe 96 (Config.ecdsaSign (Config.sha384 h)).toNat).reverse

/-- R286, R354, R375. A port's link comes up: its sequence and credits start afresh, the identity packet goes
first, and the queue resumes. -/
def execLinkUp (port : Nat) (s : State) : Result :=
  .next <| whenLive s fun s => match s.fep.ports[port]? with
    | none => s
    | some c =>
      if c.up || stage s = 8 then s
      else
        let k : Packet := { type := 0x30, vc := 5, dest := ownId s, src := ownId s, epoch := activeBank s == 1
                            body := toLe 32 1, payload := (identityHead s []).take 64 }
        let st := 0x900100 + 4 * port
        let s := regPutBits (regPutBits s st 0 0 1) st 1 1 0
        fepPump (portUpd s port fun c =>
          { ({} : Port) with up := true, link := true, queue := { packet := k, rcg := 0 } :: c.queue
                             giveCredit := ((List.range 6).map fun v => List.replicate 16 v).flatten }) port

/-! Image descriptors (R346 to R348). -/

/-- An image descriptor ends: CR.IMG_REASON, CR.IMG_STATE and CR.IMG_DETAIL, and the status R348 gives its
reason. -/
def imgEnd (s : State) (d reason detail : Nat) : State :=
  let s := if reason = 0 then s else regPutBits s 0x200040 7 4 reason
  let s := { s with boot := { s.boot with imageBusy := none } }
  let s := descUpd s d fun x => { x with
    body := toLe 2 reason ++ toLe 1 (imgState s) ++ toLe 1 0 ++ toLe 8 detail ++ toLe 8 0 }
  endDesc s d (if reason = 0 then 0 else if reason = 13 then stDataParity else stAccessRefused) {}

/-- Whether no image descriptor runs: one that a refused write has ended runs no more (R346). -/
def imgFree (s : State) : Bool :=
  match s.boot.imageBusy.bind (descGet s) with
  | some y => y.phase != .running
  | none => true

/-- An image descriptor that may run now: it starts when no other one runs, in the order of R224. -/
def imgDesc (s : State) (d op : Nat) : Option Desc :=
  match descGet s d with
  | none => none
  | some x =>
    if dop x != op then none
    else if mayStart s x && imgFree s && firstOf s x (fun y => 0xF0 ≤ dop y) then some x
    else if live s && x.phase == .running && x.engine == .image 0 then some x
    else none

/-- The descriptor runs, at a step of its own. -/
def imgRun (s : State) (d step : Nat) : State :=
  { descUpd s d fun x => { x with phase := .running, runs := 1, engine := .image step } with
    boot := { s.boot with imageBusy := some d } }

/-- Whether a bank may not be touched now (reason 11 of R348). -/
def imgBusy (s : State) (bank : Nat) : Bool := (stage s == 5 && runBank s == bank) || imgState s ≥ 3

/-- What an image descriptor leaves that a failed read or write has ended: a verification ends with it, and its record
still gives CSU_IMG.STATE (R348). -/
def imgSettle (s : State) (x : Desc) : State :=
  if 0xF0 ≤ dop x && dop x ≤ 0xF5 && x.body.isEmpty && !x.rejected then
    let s := if dop x = 0xF2 && imgState s = 1 then setImgState s (if s.boot.staged.isSome then 2 else 0) else s
    descUpd s x.id fun y => { y with body := toLe 2 0 ++ toLe 1 (imgState s) }
  else s

/-- R347. IMG_ERASE starts: the device erases the bank. -/
def execImgErase (d : Nat) (s : State) : Result :=
  .next <| match imgDesc s d 0xF0 with
    | none => s
    | some x => if imgBusy s (dbits x 32 1 0 0) then imgEnd (imgRun s d 0) d 11 0 else imgRun s d 1

/-- The source of an image descriptor read; `done` takes its bytes. -/
def imgSource (s : State) (d addr len : Nat) (done : State → List Byte → State) : State :=
  let r := readRange s d addr len
  match r.2 with
  | .bytes bs => done r.1 bs
  | .bad w => endDesc r.1 d stDataParity (badDetail s w)
  | .failed c => endDesc r.1 d (gotStatus c) { addr := BitVec.ofNat 64 addr, info0 := if c < 8 then BitVec.ofNat 64 c else 0 }
  | _ => r.1

/-- R347. IMG_WRITE reads its source, and the device programs it. -/
def execImgWrite (d : Nat) (s : State) : Result :=
  .next <| match imgDesc s d 0xF1 with
    | none => s
    | some x =>
      let s := imgRun s d 0
      if imgBusy s (dbits x 32 1 0 0) then imgEnd s d 11 0
      else imgSource (takeHolds s d [(dfield x 48 8, dfield x 40 4)]) d (dfield x 48 8) (dfield x 40 4) fun s bs =>
        descUpd (gatherDrop s d) d fun x => { x with aux := bs, engine := .image 1 }

/-- Whether a staging area holds a body, clear of the parts' targets, the log and ring 0: the entry index
that it breaks on (R347). -/
def stagingFault (s : State) (addr : Nat) (h body : List Byte) : Option Nat :=
  let off := offsetOf addr
  let n := body.length
  let ps := manifestParts ((body.drop (fieldAt h 40 4)).take (fieldAt h 44 4))
  if !isOwn s addr || addr % 128 != 0 || !inNear s off n || overlap off n 0x05FC0000 0x40000
      || overlap off n (regGet s 0xC00010 % 2 ^ 27 / 64 * 64) 16384 then some 0
  else (List.range ps.length).find? fun i => match ps[i]? with
    | some p => (p.type == 2 || p.type == 5) && overlap p.target p.len off n
    | none => false

/-- The end of a verification (R347): the staged image is the new one, or as it was before. -/
def verifyEnd (s : State) (d reason detail : Nat) : State :=
  imgEnd (setImgState s (if s.boot.staged.isSome then 2 else 0)) d reason detail

/-- The write of the staging area, once answered, leaves the image staged (R347). -/
def verifyStaged (s : State) (d b off n : Nat) : State :=
  match descGet s d with
  | some y =>
    if y.phase = .finished || y.unacked != 0 then s
    else verifyEnd (regPutBits { s with boot := { s.boot with staged := some (b, off, n) } } 0x200040 3 3 b) d 0 0
  | none => s

/-- R347. IMG_VERIFY reads the bank, checks it under R341 and stages its body; called again while it runs, and while
the staging area's write is unanswered. -/
def execImgVerify (d : Nat) (s : State) : Result :=
  .next <| match imgDesc s d 0xF2 with
    | none => s
    | some x =>
      let b := dbits x 32 1 0 0
      let im := bankImage s b
      let off := offsetOf (dfield x 48 8)
      if x.phase != .running then
        if imgBusy s b then imgEnd (imgRun s d 0) d 11 0 else setImgState (imgRun s d 0) 1
      else if x.wrote.isEmpty && x.unacked = 0 then
        let r := imageReason s im.1 im.2
        if r.1 != 0 then verifyEnd s d r.1 r.2
        else match stagingFault s (dfield x 48 8) im.1 im.2 with
          | some i => verifyEnd s d 10 i
          | none =>
            let s := descUpd s d fun x => { x with unacked := 1 }
            verifyStaged (serveNow s (some d) { kind := .write, addr := dfield x 48 8, len := im.2.length, data := im.2,
                                                steward := true, src := ownId s, who := .desc d }) d b off im.2.length
      else verifyStaged s d b off im.2.length

/-- A switch begins: fetching stops, the schedule is cleared and the drain is timed (R349, R350). -/
def startSwitch (s : State) (front : Nat) : State :=
  let s := regPutPair (setImgState s 4) 0x200050 0
  ringSync { s with boot := { s.boot with front := BitVec.ofNat 64 front, drainFrom := s.osc }
                    dre := { s.dre with stopFetch := true } }

/-- R347. IMG_SCHEDULE names the epoch of the staged bank's front, cancels it, or starts the switch. -/
def execImgSchedule (d : Nat) (s : State) : Result :=
  .next <| match imgDesc s d 0xF3 with
    | none => s
    | some x =>
      let s := imgRun s d 0
      let e := dfield x 56 8
      if e = 0 then
        let s := regPutPair s 0x200050 0
        imgEnd (if imgState s = 3 then setImgState s 2 else s) d 0 0
      else if e ≤ regPair s 0x200048 || s.boot.staged.isNone || 4 ≤ imgState s then imgEnd s d 12 0
      else
        let s := regPutPair (setImgState s 3) 0x200050 e
        imgEnd (if bitOf 1 (dfield x 32 1) then startSwitch s e else s) d 0 0

/-- R347. SETTINGS_WRITE reads and checks a record, and the device stores it.  The record's own length is checked
as its range is, once its header has been read (R240). -/
def execSettingsWrite (d : Nat) (s : State) : Result :=
  .next <| match imgDesc s d 0xF4 with
    | none => s
    | some x =>
      let a := dfield x 48 8
      imgSource (takeHolds (imgRun s d 0) d [(a, 16)]) d a 16 fun s h =>
        let n := fieldAt h 6 2
        if n < 48 || n > 4096 then imgEnd (gatherDrop s d) d 14 0
        else match rangeRefusal s x.src a n .read with
          | some r =>
            endDesc (noteRefusal (gatherDrop s d) true x.src a r) d stAccessRefused
              { addr := BitVec.ofNat 64 a, info0 := BitVec.ofNat 64 r }
          | none => imgSource (takeHolds s d [(a, n)]) d a n fun s bs =>
            let s := gatherDrop s d
            if settingsOk bs then descUpd s d fun x => { x with aux := bs, engine := .image 1 }
            else imgEnd s d 14 0

/-- R353. IDENTIFY writes the identity block; it ends when the write is acknowledged. -/
def execIdentify (d : Nat) (s : State) : Result :=
  .next <| match imgDesc s d 0xF5 with
    | none => s
    | some x =>
      let s := if x.phase = .running then s
        else
          let s := imgRun s d 0
          let a : Access :=
            { kind := .write, addr := dfield x 48 8, len := 320, src := x.src
              data := identityBlock s ((x.bytes.drop 64).take 48) }
          descWriteBy unitWrite s d a
      match descGet s d with
      | some y => if y.phase != .finished && y.unacked = 0 then imgEnd s d 0 0 else s
      | none => s

/-- R347, R348. The device has ended an erase, a program or a read-back. -/
def execFlashDone (ok : Bool) (s : State) : Result :=
  .next <| whenLive s fun s =>
    match s.boot.imageBusy.bind (descGet s) with
    | none => s
    | some x =>
      if x.engine != .image 1 then s
      else
        let b := dbits x 32 1 0 0
        let lost (s : State) (a n : Nat) : State :=
          let r := draw (norHavoc s a n) 1
          imgEnd r.2 x.id 13 (a + (Config.freeWord r.1).toNat % n)
        match dop x, ok with
        | 0xF0, true =>
          imgEnd (storeBank (norErase s (bankAt b) bankSize) (withBank (bankState s) b 0)) x.id 0 0
        | 0xF0, false => lost s (bankAt b) bankSize
        | 0xF1, true =>
          let a := bankAt b + dfield x 36 4
          -- a byte that was not erased fails its read-back, and holds anything
          match (List.range x.aux.length).find? fun i => norByte s (a + i) != 0xFF with
          | none => imgEnd (storeBank (norStore s a x.aux) (withBank (bankState s) b 1)) x.id 0 0
          | some i => imgEnd (norHavoc s a x.aux.length) x.id 13 (a + i)
        | 0xF1, false => lost s (bankAt b + dfield x 36 4) (dfield x 40 4)
        | _, true => imgEnd (storeRecord s x.aux) x.id 0 0
        | _, false =>
          let slot := match currentRecord s with
            | some (n, _) => 1 - n
            | none => 0
          let r := draw (norErase s (0x10000 * slot) 0x10000) 1
          imgEnd r.2 x.id 13 (0x10000 * slot + (Config.freeWord r.1).toNat % 0x10000)

/-! Activation at a front (R349 to R352). -/

/-- R349. A front is delivered by a privileged write of CSU_ACT_FRONT_HI. -/
def deliverFront (s : State) (v : Nat) : State :=
  let f := v * 2 ^ 32 + s.boot.frontLo.toNat
  if imgState s = 3 && f == regPair s 0x200050 && s.boot.staged.isSome then startSwitch s f
  else regCount s 0x200064

/-- Whether step 2 of R350 is complete: every started descriptor but a pending WAIT or a suspended launch has
retired, and no log entry is open. -/
def switchDrained (s : State) : Bool :=
  s.errors.opens.isEmpty && s.descs.all fun d => match d.phase with
    | .fetching | .fetched => true
    | .ready => !d.free || dop d == 0x02
    | .running => match d.engine with
      | .wait _ => true
      | .launch g => match s.groups[g]? with
        | some x => x.state == 3
        | none => false
      | _ => false
    | _ => false

/-- Fetching and starting resume, and a request latched in the switch is handled (R350, R352). -/
def resumeFetch (s : State) : State := attnRom (ringSync (freeBarriers { s with dre := { s.dre with stopFetch := false } }))

/-- A switch fails: fetching resumes under the old firmware, with the bank still staged (R350). -/
def switchFails (s : State) : State := resumeFetch (regPutBits (setImgState s 2) 0x200040 7 4 10)

/-- Steps 3 to 6 of R350.  The read of the staged body meets the queues and refusals that any read does, and a part that
is refused at its target fails the switch before anything of the new image takes effect, as a mismatch does (DEDUCED,
assumption 171). -/
def switchSteps (s : State) : State :=
  match s.boot.staged with
  | none => resumeFetch (setImgState s 0)
  | some (b, off, n) =>
    let s := settleRange (wakeBanks s off n) off n
    let h := norBytes s (bankAt b) 512
    let body := spmBytes s off n
    if (ordOver s off n).isSome then switchFails (noteRefusal s true (ownId s) (ownAddr s off) reasonHeld)
    else if (spmBadIn s off n).isSome || digestBytes (Config.sha384 body) != (h.drop 56).take 48 then switchFails s
    else match partStop s h body with
      | some .wait => s
      | some (.refused t) => switchFails (noteRefusal s true (ownId s) (ownAddr s t) reasonHeld)
      | none =>
        let front := s.boot.front.toNat
        let s := storeBank s { bankState s with active := b, trial := true, epoch := front }
        let s := loadParts (regPutPair s 0x200048 front) h body
        let s := setImgState (startBank s b) 5
        resumeFetch { s with boot := { s.boot with staged := none, trialFrom := s.osc } }

/-- The end of a revert (R351): the old bank is checked, stored as active and started, or recovery begins; one that is
refused at a part's target counts as failed (assumption 171). -/
def revertSteps (s : State) : State :=
  let new := runBank s
  let old := 1 - new
  let im := bankImage s old
  let good := (imageReason s im.1 im.2).1 == 0
  let stop := if good then partStop s im.1 im.2 else none
  if stop = some .wait then s
  else
    let ok := good && stop.isNone
    let s := match stop with
      | some (.refused t) => noteRefusal s true (ownId s) (ownAddr s t) reasonHeld
      | _ => s
    let s := storeBank s { withBank (bankState s) new 3 with active := old, trial := false }
    let s := setImgState s 0
    resumeFetch (if ok then startBank (loadParts s im.1 im.2) old else toRecovery s 3)

/-- R350, R351. The drain of a switch or of a revert is complete, and its further steps follow. -/
def execActivationSwitch (s : State) : Result :=
  .next <| whenLive s fun s =>
    if !switchDrained s then s
    else if imgState s = 4 then switchSteps s
    else if imgState s = 6 then revertSteps s
    else s

/-- R350. The launch drain limit expires: running launches end with ABORTED. -/
def execDrainLimit (s : State) : Result :=
  .next <| whenLive s fun s =>
    if imgState s != 4 && imgState s != 6 then s
    else
      let s := { s with osc := max s.osc (s.boot.drainFrom + 1000000 * regBits s 0x200060 31 16) }
      (List.range 32).foldl (fun s g => match s.groups[g]? with
        | some x => if x.state = 1 || x.state = 2 || x.state = 4 then endLaunch s g stAborted none else s
        | none => s) s

/-- A confirmation (R351). -/
def confirmTrial (s : State) : State :=
  if imgState s != 5 then s
  else setImgState (storeBank s { withBank (bankState s) (runBank s) 2 with trial := false }) 0

/-- A revert begins (R351). -/
def startRevert (s : State) : State :=
  if imgState s != 5 then s
  else ringSync { setImgState s 6 with boot := { s.boot with drainFrom := s.osc }, dre := { s.dre with stopFetch := true } }

/-- R351. No confirmation has come within SET.CONFIRM: a revert begins. -/
def execConfirmTimeout (s : State) : Result :=
  .next <| whenLive s fun s =>
    if imgState s != 5 then s
    else startRevert { s with osc := max s.osc (s.boot.trialFrom + 1000000 * s.boot.confirmMs) }

/-! Fuses (R342, R359). -/

/-- An operation of CSU_FUSE_PROG starts, or is refused with ERROR; the read of the hash meets the queues and refusals that
any read does (R170, R213). -/
def fuseStart (s : State) (op slot : Nat) : State :=
  let st := 0x200098
  if s.boot.fuseOp.isSome then s
  else
    let off := regGet s 0x200094 % 2 ^ 27 / 64 * 64
    let held := op == 1 && (ordOver s off 48).isSome
    let s := if op = 1 && inNear s off 48 then settleRange (wakeBanks s off 48) off 48 else s
    let s := if held then noteRefusal s true (ownId s) (ownAddr s off) reasonHeld else s
    let ok := match op with
      | 1 => slot != 0 && !s.fuses.programmed.getLsbD slot && inNear s off 48 && (spmBadIn s off 48).isNone && !held
      | 2 => slot != 0
      | 3 => svnFloor s.fuses < 64
      | _ => false
    if ok then
      let hash := BitVec.ofNat 384 (beNat (spmBytes s off 48))
      regPutBits (regPutBits { s with boot := { s.boot with fuseOp := some (op, slot, hash) } } st 15 15 1) st 16 16 0
    else regPutBits s st 16 16 1

/-- R359. A fuse operation ends: BUSY clears, and a failed read-back sets ERROR.  Bits are blown and never restored
(R342): a key slot keeps those an earlier failure left, and then its read-back fails too; what a failed operation blows
is undefined. -/
def execFuseProgrammingEnd (ok : Bool) (s : State) : Result :=
  .next <| whenLive s fun s => match s.boot.fuseOp with
    | none => s
    | some (op, slot, hash) =>
      let old := (s.fuses.keys[slot]?).getD 0
      let ok := ok && (op != 1 || old ||| hash == hash)
      let r := draw s 7
      let w (i : Nat) : Dword := Config.freeWord (r.1 + i)
      let bit := ok || (w 6).getLsbD 0
      let s := if ok then s else r.2
      let mask : BitVec 4 := if bit then 1#4 <<< slot else 0
      let f := s.fuses
      let f := match op with
        | 1 => { f with keys := f.keys.set slot (old ||| (if ok then hash else w 0 ++ w 1 ++ w 2 ++ w 3 ++ w 4 ++ w 5))
                        programmed := f.programmed ||| mask }
        | 2 => { f with revoked := f.revoked ||| mask }
        | _ => { f with svnBits := if bit then f.svnBits ||| (1#64 <<< svnFloor f) else f.svnBits }
      let s := { s with fuses := f, boot := { s.boot with fuseOp := none } }
      regPutBits (regPutBits s 0x200098 15 15 0) 0x200098 16 16 (boolBit (!ok))

/-! The attention input (R356, R357). -/

/-- R356, R359. ATTN_IN changes its level, or has been asserted for 5 approximate ms. -/
def execAttnReq (level : AttnIn) (s : State) : Result :=
  let s := { s with boot := { s.boot with attnIn := level != .low } }
  .next <| whenLive s fun s => if level = .lasted then attnRom (regPutBits s 0x200070 0 0 1) else s

/-- Whether the hardware overrides CSU_ATTN.OUT (R357). -/
def attnForced (s : State) : Bool :=
  s.boot.stopped || stage s = 8 || (stage s = 7 && regBits s 0x200070 3 2 == 0)

/-- ATTN_OUT's field in force: the override of R357, or CSU_ATTN.OUT. -/
def attnOut (s : State) : Nat :=
  let out := regBits s 0x200070 3 2
  if s.boot.stopped || stage s = 8 then 1 else if stage s = 7 && out == 0 then 3 else out

/-- The level of ATTN_OUT at the present oscillator count (R357). -/
def attnLevel (s : State) : Bool :=
  match attnOut s with
  | 0 => false
  | 1 => true
  | 2 => s.osc % 1000000000 < 500000000
  | _ => s.osc % 250000000 < 125000000

end Sys2Proof.Machine
end

