-- ==== Sys2Proof/Machine/Cle.lean ====
section
/-! DEFINITION. Collective groups: the checks on a group entry (R247), and the LOAD and UNLOAD commands of R246. -/
namespace Sys2Proof.Machine

/-! Chunks (R253). -/

/-- CLE_SWITCH_CHUNK.BYTES in force. -/
def switchChunk (s : State) : Nat :=
  let v := regBits s 0xA00018 12 0
  if 256 ≤ v && v ≤ 4096 && v % 256 == 0 then v else 4096

/-- Bytes of a chunk limit (R253). -/
def chunkLimit (s : State) (e : List Byte) : Nat := if fieldAt e 18 1 % 32 = 0 then 4096 else switchChunk s

/-- Chunk slots of the staging area (R253); none where the member roots no unit of several participants. -/
def chunkSlots (s : State) (e : List Byte) : Option Nat :=
  match rootLevels e (grpIndex e) with
  | [] => none
  | ls =>
    let f := (ls.map fun l => if grpSwitch e l then 1 else grpFan e l - 1).foldl max 0
    some (grpStageKib e * 1024 / (f * chunkLimit s e))

/-! Checks (R247). -/

/-- The checks of R247 on a group entry, for the source `src`. -/
def groupOk (s : State) (e : List Byte) (src : Nat) : Bool :=
  let zero (off len hi lo : Nat) : Bool := bitsOf hi lo (fieldAt e off len) == 0
  let m := grpMembers e
  let bytes := 1024 * grpStageKib e
  zero 0 4 31 18 && zero 4 4 31 18 && zero 18 1 7 5 && fieldAt e 19 1 == 0
    && ([0, 1, 2, 3, 4].all fun l => zero (20 + 4 * l) 4 31 19) && zero 40 4 31 19 && zero 44 2 15 12
    && 1 ≤ m && m ≤ 131072 && ([0, 1, 2, 3, 4].all fun l => grpFan e l ≥ 1)
    && grpIndex e < m && unitSize e 5 ≥ m
    && ([0, 1, 2, 3, 4].all fun l => !grpSwitch e l || grpFan e l > 1)
    && (grpMcast e == 0 || mcastBase ≤ grpMcast e)
    && isOwn s (grpStage e) && grpStage e % 128 == 0 && inNear s (offsetOf (grpStage e)) bytes
    && (rangeRefusal s src (grpTable e) (4 * m) .read).isNone
    && (rangeRefusal s src (grpStage e) bytes .read).isNone
    && (rangeRefusal s src (grpStage e) bytes .write).isNone
    && (match chunkSlots s e with
      | some n => n ≥ 1
      | none => true)

/-! Loaded groups (R246, R260, R264). -/

/-- Address of an entry of the group table (R243). -/
def grpAddr (s : State) (g : Nat) : Nat := baseAddr s (regPair s 0xA00010 / 64 * 64) + 64 * g

/-- A loaded group. -/
def grpGet (s : State) (g : Nat) : Option ClGroup := s.cle.find? fun x => x.group == g

/-- A loaded group changed. -/
def grpUpd (s : State) (g : Nat) (f : ClGroup → ClGroup) : State :=
  { s with cle := replaceFirst (fun x => x.group == g) f s.cle }

/-- The collective of a group that has not retired (R264). -/
def grpHolder (s : State) (g : Nat) : Option Desc :=
  s.descs.find? fun d => match collRun d with
    | some r => r.group == g
    | none => false

/-- The active collective of a group: started and not ended. -/
def grpActive (s : State) (g : Nat) : Option Desc :=
  s.descs.find? fun d => d.phase == .running && (match collRun d with
    | some r => r.group == g
    | none => false)

/-- CLE_GRP_CMD_STATUS after a command: refused with a reason, or accepted. -/
def grpCmdEnd (s : State) (reason : Nat) : State := regPut s 0xA00024 (if reason = 0 then 0 else 2 + 4 * reason)

/-- The handle of a LOAD's reads. -/
def loadOwner (g : Nat) : Nat := 2 ^ 61 + g

/-- LOAD: reads the entry, checks it, and records the base; called again while the read is outstanding.
A group whose collective is active is not reloaded (assumption 32), and an entry that cannot be read is a bad one (DESIGN
CHOICE, assumption 177). -/
def loadStep (s : State) (g : Nat) : State :=
  let r := readRange s (loadOwner g) (grpAddr s g) 64
  match r.2 with
  | .bytes e =>
    let s := gatherDrop r.1 (loadOwner g)
    if (grpActive s g).isSome then grpCmdEnd s 2
    else if !groupOk s e (ownId s) then grpCmdEnd s 1
    else
      let x : ClGroup := { group := g, entry := e, base := counterGet s (grpCounter e) }
      grpCmdEnd { s with cle := x :: dropFirst (fun y => y.group == g) s.cle } 0
  | .bad _ | .failed _ => grpCmdEnd (gatherDrop r.1 (loadOwner g)) 1
  | _ => regPut r.1 0xA00024 1

/-- A command written to CLE_GRP_CMD (R246, R267), the register's bits aside. -/
def grpCmd (s : State) (cmd g : Nat) : State :=
  match cmd with
  | 1 => loadStep s g
  | 2 =>
    if (grpActive s g).isSome then grpCmdEnd s 2
    else grpCmdEnd { s with cle := s.cle.filter fun x => x.group != g } 0
  | _ => s

end Sys2Proof.Machine
end

