-- ==== Sys2Proof/Machine/Policy.lean ====
section
/-! DEFINITION. What a register write does by its access codes (R6, R397), the commands of a thread group (R154, R155),
and the scheduling policy of the Steward (R226). -/
namespace Sys2Proof.Machine

/-! Access codes (R6, R395, R396). -/

/-- A field of a register after a write of `v`. -/
def fieldAfter (priv locked : Bool) (old v : Nat) (f : Field) : Nat :=
  let cur := bitsOf f.hi f.lo old
  let new := bitsOf f.hi f.lo v
  match f.acc with
  | .rw => new
  | .ro | .rc => cur
  | .w1c => cur - (cur &&& new)
  | .wm =>
    let m := bitsOf 31 16 v
    (cur - (cur &&& m)) + (new &&& m)
  | .lk => if priv && !locked then new else cur
  | .lock => if priv && new == 1 then 1 else cur

/-- A register's word after a write (R6). -/
def applyFields (priv locked : Bool) (old v : Nat) (fs : List Field) : Nat :=
  fs.foldl (fun w f => setBits f.hi f.lo w (fieldAfter priv locked old v f)) old

/-- Whether the lock that covers a register is set. -/
def lockedReg (s : State) (r : RegRow) : Bool :=
  match r.lock with
  | some (off, b) => bitOf b (regGet s off)
  | none => false

/-- Whether a write to an LK register at an offset is accepted. -/
def lkAccepted (s : State) (priv : Bool) (off : Nat) : Bool :=
  priv && (match rowOf off with
    | some r => !lockedReg s r
    | none => false)

/-- Whether an offset belongs to a unit that the member does not have (R394). -/
def unitAbsent (s : State) (off : Nat) : Bool :=
  (0x600400 ≤ off && off < 0x600800 && (off - 0x600400) / 0x20 ≥ 2 * s.par.taskCores)
    || (0x400110 ≤ off && off < 0x400120 && (off - 0x400110) / 4 ≥ s.par.arrays)

/-- A write with no effect beyond the register and its generation (R6, R397). -/
def plainWrite (s : State) (priv : Bool) (off v : Nat) : State :=
  match rowOf off with
  | none => s
  | some r =>
    if unitAbsent s off then s
    else
      let locked := lockedReg s r
      let v := if off = 0x400100 then v % 2 ^ 16 + (bitsOf 31 16 v % 2 ^ (4 * s.par.arrays)) * 2 ^ 16 else v
      -- a write that every field drops leaves the word and its parity (R320)
      let takes := r.fields.any fun f => match f.acc with
        | .ro | .rc => false
        | .lk => priv && !locked
        | .lock => priv
        | _ => true
      let s' := if takes then regPut s off (regClamp off (applyFields priv locked (regGet s off) v r.fields)) else s
      let accepted := r.fields.all fun f => f.acc != .lk || (priv && !locked)
      if accepted then bumpGens s' (regGens off) else s'

/-! Groups and launches (R126, R230). -/

/-- Fields of a LAUNCH (R230). -/
def lcCores (d : Desc) : Nat := dfield d 32 2
@[inherit_doc lcCores] def lcProgLen (d : Desc) : Nat := dfield d 36 4
@[inherit_doc lcCores] def lcProg (d : Desc) : Nat := dfield d 40 8
@[inherit_doc lcCores] def lcArg (d : Desc) (i : Nat) : Dword := BitVec.ofNat 64 (dfield d (48 + 8 * i) 8)
@[inherit_doc lcCores] def lcHandler (d : Desc) : Nat := dfield d 80 4

/-- A group that holds no launch (R126). -/
def groupIdle (s : State) (g : Nat) : Bool :=
  match s.groups[g]? with
  | some x => x.state == 0 && x.launch.isNone
  | none => false

/-- Whether a launch names the core of a group. -/
def namesGroup (s : State) (d : Desc) (g : Nat) : Bool := g / 2 < s.par.taskCores && bitOf (g / 2) (lcCores d)

/-- The group that a launch would take: the lowest core it names, group 0 first. -/
def pickGroup (s : State) (d : Desc) : Option Nat :=
  (List.range s.groups.length).find? fun g => namesGroup s d g && groupIdle s g

/-- SUSPEND and RESUME in a group's command register (R154, R155). -/
def groupCmd (s : State) (g v : Nat) : State :=
  let s := plainWrite s true (0x600400 + 0x20 * g) v
  match v % 4 with
  | 1 => suspendCmd s g
  | 2 => resumeCmd s g
  | _ => s

/-- STEWARD_PARITY: the Steward's own memory is checked where it acts (R310). -/
def stewardParity (s : State) : State :=
  if s.boot.stewardBad then
    raiseErr s { code := 0x0302, cls := 3, internal := true, resource := resource 9 0, unit := 1 }
  else s

/-! The Steward's scheduling policy (R226). -/

/-- A validated launch that waits for a group. -/
def launchWaits (s : State) (d : Desc) : Bool := dop d == 0x50 && mayStart s d

/-- Launches that wait under R126 with no idle group among those they name. -/
def crowded (s : State) : List Desc := s.descs.filter fun d => launchWaits s d && (pickGroup s d).isNone

/-- The groups, each with its number. -/
def numbered (s : State) : List (Nat × Group) := (List.range s.groups.length).zip s.groups

/-- The running launches that a crowded launch of a lower class number lets the Steward suspend, with the save
areas of their rings. -/
def preemptible (s : State) : List (Nat × Launch × Nat) :=
  (numbered s).filterMap fun p => match p.2.launch.bind fun l => (ringGet s l.ring).map fun r => (l, r) with
    | some (l, r) =>
      if p.2.state == 1 && r.preempt && (crowded s).any (fun w => w.cls < l.cls) then some (p.1, l, r.save) else none
    | none => none

/-- The launch of the highest class number, and among those the one that started last. -/
def pickVictim : List (Nat × Launch × Nat) → Option (Nat × Launch × Nat)
  | [] => none
  | x :: xs => match pickVictim xs with
    | some b =>
      if b.2.1.cls < x.2.1.cls || (b.2.1.cls == x.2.1.cls && b.2.1.started < x.2.1.started) then some x else some b
    | none => some x

/-- The Steward's write of a group's SAVE and CTL registers (R154). -/
def stewardCtl (s : State) (g save cmd : Nat) : State := groupCmd (regPutPair s (0x600408 + 0x20 * g) save) g cmd

/-- The Steward suspends one launch, unless a launch that it suspended before stands suspended for each crowded
one (assumption 140). -/
def stewardPreempt (s : State) : State :=
  let held := (s.groups.filter fun g => g.policy && (g.state == 2 || g.state == 3)).length
  if held ≥ (crowded s).length then s
  else match pickVictim (preemptible s) with
    | some (g, _, save) => groupUpd (stewardCtl s g save 1) g fun x => { x with policy := x.state == 2 }
    | none => s

/-- The first idle group that no launch of a class number below `cls` waits for. -/
def resumeGroup (s : State) (cls : Nat) : Option Nat :=
  (List.range s.groups.length).find? fun g => g / 2 < s.par.taskCores && groupIdle s g
    && !(s.descs.any fun d => launchWaits s d && d.cls < cls && namesGroup s d g)

/-- A launch that the policy suspended resumes where R226 lets it. -/
def stewardResume (s : State) (old : Nat) : State :=
  match s.groups[old]? with
  | some x => match x.launch with
    | some l =>
      if x.policy && x.state == 3 then
        match resumeGroup s l.cls with
        | some g => stewardCtl s g (ownAddr s x.saved.1) 2
        | none => s
      else s
    | none => s
  | none => s

/-- The scheduling policy: resumes first, then a suspension (R226). -/
def stewardAct (s : State) : State :=
  whenLive (stewardParity s) fun s => stewardPreempt ((List.range s.groups.length).foldl stewardResume s)

/-- A group's command register (R154, R155); the policy acts when an ABORT frees the group (R226). -/
def groupCtl (s : State) (g v : Nat) : State :=
  if v % 4 = 3 then
    let s' := abortCmd (plainWrite s true (0x600400 + 0x20 * g) v) g
    if groupIdle s' g && !groupIdle s g then stewardAct s' else s'
  else groupCmd s g v

/-- The end of a suspension, after which the policy may resume a launch (R226). -/
def suspendEnd (s : State) (g : Nat) : State :=
  let s' := saveEnd s g
  if (s'.groups[g]?).any fun x => x.state == 3 then stewardAct s' else s'

/-- R155. A suspending group whose drains have ended writes the save area, releases its quad and becomes
SUSPENDED; called again while the write of the save area is unanswered. -/
def execSuspendDone (g : Nat) (s : State) : Result :=
  .next <| whenLive s fun s => match s.groups[g]? with
    | some x =>
      if !suspendReady x then s
      else if x.saving != .no then suspendEnd s g
      else
        let s := (List.range 4).foldl (fun s k => finishFence s (4 * g + k)) s
        match s.groups[g]? with
        | some x =>
          if x.state != 2 then s
          else match x.launch with
            | some l => suspendEnd (saveGroup s g x l) g
            | none => s
        | none => s
    | none => s

end Sys2Proof.Machine
end

