-- ==== Sys2Proof/Machine/Regs.lean ====
section
/-! DEFINITION. Register reads and writes with every register's effects (R6, R390 to R408), and the commands
that are a write or a read of one register. -/
namespace Sys2Proof.Machine

/-! Registers whose writes do more. -/

/-- NSDS_PAR_INJ_LO (R180). -/
def injectWrite (s : State) (v : Nat) : State :=
  let off := v / 4 * 4 + 2 ^ 32 * regBits s 0x700204 7 0
  let arm := bitOf 0 v && inSpm s off 4
  { regPut s 0x700200 (v / 2 * 2 + boolBit arm) with inject := if arm then some off else none }

/-- NSDS_BACKn_CTL (R181, R182). -/
def backCtl (s : State) (n v : Nat) : State :=
  let c := backReg n 5
  let base := backBase s n
  let size := backSize s n
  let others := (List.range 64).any fun k =>
    k != n && backValid s k && overlap (backBase s k) (backSize s k) base size
  if bitOf 0 v then
    if backValid s n then regPutBits s c 1 1 0
    else if size == 0 || !inSpm s base size || others || !isChip (backHome s n) then regPutBits s c 1 1 1
    else regPut s c (v % 256 / 4 * 4 + 1)
  else
    let s := if backValid s n then regPutBits s c 0 0 0 else regPutBits s c 7 2 (bitsOf 7 2 v)
    { regPutBits s c 1 1 0 with descs := s.descs.map fun d => { d with holds := d.holds.filter fun k => k != n } }

/-- Whether a round may open (R210), with the control word written. -/
def ordSetupOk (s : State) (n ctl : Nat) : Bool :=
  let s := regPut s (ordReg n 4) ctl
  let elems := regBits s (ordReg n 2) 20 0
  let width := if bitOf 1 ctl then 2 else 4
  let t := ordTarget s n
  let a := ordSlots s n
  let cnt := regGet s (ordReg n 5)
  let clash := (List.range 16).any fun k => k != n && (ordArm s k || ordClosed s k)
    && ([t, a].any fun p => [ordTarget s k, ordSlots s k].any fun q => overlap p.1 p.2 q.1 q.2)
  1 ≤ elems && elems ≤ 1048576 && 1 ≤ bitsOf 10 4 ctl && bitsOf 10 4 ctl ≤ 64 && regGet s (ordReg n 6) != 0
    && inSpm s t.1 t.2 && t.1 % width == 0 && inNear s a.1 a.2 && !overlap t.1 t.2 a.1 a.2 && !clash
    && bitsOf 11 0 cnt != bitsOf 27 16 cnt

/-- FEP_ORDn_CTL (R209, R210, R213).  A refused arming changes SETUP_ERR alone (assumption 34). -/
def ordCtl (s : State) (n v : Nat) : State :=
  let c := ordReg n 4
  let fields := setBits 3 2 v 0 / 2 * 2
  if ordClosed s n then s
  else if ordArm s n then
    if bitOf 0 v then s
    else { regPutBits s c 0 0 0 with ord := s.ord.filter fun r => r.region != n }
  else if bitOf 0 v then
    if ordSetupOk s n fields then
      let base := counterGet s (regBits s (ordReg n 5) 11 0)
      let s := regPut (regPut s c (fields + 1)) (ordReg n 7) 0
      { s with ord := s.ord.filter (fun r => r.region != n) ++ [{ region := n, base := base, tags := [] }] }
    else regPutBits s c 2 2 1
  else regPut s c fields

/-- EEU_EVT_STATUS: bits written 1 clear, but bit 2 (R325, R326). -/
def evtWrite (s : State) (v : Nat) : State :=
  let cur := regGet s 0xC00040
  regPut s 0xC00040 (cur - (cur &&& (v % 256 - boolBit (bitOf 2 v) * 4)))

/-- PTM_FALLBACK: REASON bits clear, and FIRST with the last of them (R308). -/
def fallbackWrite (s : State) (v : Nat) : State :=
  let s := plainWrite s true 0xB00030 v
  if regBits s 0xB00030 6 0 = 0 then regPutBits s 0xB00030 10 8 0 else s

/-- Offsets with an effect of their own. -/
inductive Special where
  | none
  | group (g : Nat)
  | back (n k : Nat)
  | ord (n k : Nat)
  | routeBase (b : Nat)
deriving DecidableEq, Repr

/-- The register array that an offset belongs to. -/
def specialOf (off : Nat) : Special :=
  if 0x600400 ≤ off && off < 0x600800 && (off - 0x600400) % 0x20 == 0 then .group ((off - 0x600400) / 0x20)
  else if 0x701000 ≤ off && off < 0x701800 then .back ((off - 0x701000) / 0x20) ((off - 0x701000) % 0x20 / 4)
  else if 0x903000 ≤ off && off < 0x903200 then .ord ((off - 0x903000) / 0x20) ((off - 0x903000) % 0x20 / 4)
  else if 0x900010 ≤ off && off < 0x900020 then .routeBase ((off - 0x900010) / 8)
  else .none

/-- The privileged registers whose accepted write does more than change the register. -/
def lkWrite (s : State) (off v : Nat) : Option State :=
  match off with
  | 0x200058 => some { s with boot := { s.boot with frontLo := BitVec.ofNat 32 v } }
  | 0x20005C => some (deliverFront s v)
  | 0x200060 =>
    let s := regPut s off (v / 4 * 4)
    let s := if bitOf 0 v then confirmTrial s else s
    some (if bitOf 1 v then startRevert s else s)
  | 0x200090 =>
    let s := regPut s off (v % 2 ^ 31)
    some (if bitOf 31 v then fuseStart s (v % 4) (bitsOf 3 2 v) else s)
  | 0x300030 => some (if s.dre.cmd.isSome then s else ringCmd (regPut s off v) (bitsOf 22 20 v) (bitsOf 17 0 v))
  | 0x300018 => some (ringSync (plainWrite s true off v))
  | 0x700200 => some (injectWrite s v)
  | 0x900020 =>
    if bitOf 0 v then some (routeFrontCmd (regPut s off (setBits 5 4 v (regBits s off 5 4) / 2 * 2)))
    else some (bumpGens (regPut s off v) [6])
  | 0x900200 =>
    let s := regPut s off (v % 2 ^ 31)
    some (if bitOf 31 v then counterSet s (bitsOf 11 0 v) 0 else s)
  | 0xA00020 =>
    some (if bitOf 0 (regGet s 0xA00024) then s else grpCmd (regPut s off v) (bitsOf 13 12 v) (bitsOf 11 0 v))
  | 0xB00004 => some (vlimitWrite s v)
  | 0xB00034 => some (galeTjWrite s v)
  | 0xC00010 =>
    some (if bitOf 0 (regGet s 0xC00018) || !inNear s (v % 2 ^ 27 / 64 * 64) 16384 then s else regPut s off v)
  | 0xC00020 => some (completeEntry (regPut s off (v / 2 ^ 16 * 2 ^ 16)) (v % 2 ^ 16))
  | 0xC00048 =>
    let s := regPut s off (v / 2 * 2)
    some (if bitOf 0 v then setEvent s 7 else s)
  | _ => none

/-- The registers open to every master whose write does more than change the register. -/
def openWrite (s : State) (off v : Nat) : Option State :=
  match off with
  | 0x900040 | 0x900044 => some (plainWrite (settleBuckets s) true off v)
  | 0xB00010 => some (modeWrite s v)
  | 0xB00014 => some (capWrite s v)
  | 0xB00030 => some (fallbackWrite s v)
  | 0xB00060 => some (gateWrite s v)
  | 0xC00030 => some (if bitOf 31 v then clearFatal s else s)
  | 0xC00040 => some (evtWrite s v)
  | _ => none

/-- A direct register written (R390 to R398); the offset is decoded. -/
def directWrite (s : State) (priv : Bool) (off v : Nat) : State :=
  match specialOf off with
  | .group g => if unitAbsent s off then s else groupCtl s g v
  | .back n 5 => backCtl s n v
  | .back n _ => if backValid s n then s else plainWrite s priv off v
  | .ord n 4 => ordCtl s n v
  | .ord n _ => if ordArm s n || ordClosed s n then s else plainWrite s priv off v
  | .routeBase b => if b = activeBank s then s else plainWrite s priv off v
  | .none =>
    match openWrite s off v with
    | some s' => s'
    | none =>
      match (if lkAccepted s priv off then lkWrite s off v else none) with
      | some s' => s'
      | none =>
        -- the registers of `lkWrite` take nothing from a write that is not accepted
        if (lkWrite s off v).isSome then s else plainWrite s priv off v

/-! Reads. -/

/-- CSU_FUSE_STATUS as sensed, with BUSY and ERROR (R359). -/
def fuseStatus (s : State) : Nat :=
  let f := s.fusesSensed
  svnFloor f + 2 ^ 7 * f.programmed.toNat + 2 ^ 11 * f.revoked.toNat + 2 ^ 15 * regBits s 0x200098 16 15

/-- A register's word as it reads now, its privilege aside. -/
def liveWord (s : State) (off : Nat) : Nat :=
  let w := regGet s off
  if unitAbsent s off then 0
  else if 0x200020 ≤ off && off < 0x200030 then bitsOf 31 0 (s.fusesSensed.uid.toNat / 2 ^ (8 * (off - 0x200020)))
  else if 0x600400 ≤ off && off < 0x600800 && (off - 0x600400) % 0x20 == 4 then
    match s.groups[(off - 0x600400) / 0x20]? with
    | some g => groupStatus g
    | none => 0
  else if 0xB00070 ≤ off && off < 0xB00080 then islandBits s ((off - 0xB00070) / 4)
  else match specialOf off with
    | .back n 5 => setBits 15 8 w (min (holders s n) 255)
    | _ =>
      match off with
      | 0x200014 => s.fusesSensed.hwType.toNat
      | 0x200070 => setBits 4 4 (setBits 1 1 w (boolBit s.boot.attnIn)) (boolBit (attnForced s))
      | 0x200080 => setBits 1 1 w (boolBit s.fusesSensed.recoveryDebug)
      | 0x200098 => fuseStatus s
      | 0x300034 => setBits 0 0 w (boolBit s.dre.cmd.isSome)
      | 0x900024 => setBits 31 8 w (min (oldInflight s) 0xFFFFFF)
      | _ => w

/-- What a master sees of a register's word: LK fields read zero without privilege (R6). -/
def visible (priv : Bool) (w : Nat) (fs : List Field) : Nat :=
  fs.foldl (fun a f => match f.acc with
    | .lk | .lock => if priv then a else setBits f.hi f.lo a 0
    | _ => a) w

/-- The 64-bit value of a pair that captures (R199, R295). -/
def pairValue (s : State) : Option Nat → Dword
  | some c => counterGet s c
  | none => BitVec.ofNat 64 s.osc

/-- The shadow of a pair. -/
def shadowOf (s : State) : Option Nat → Dword
  | some c => mapGet (fun _ => (0 : Dword)) s.cntShadow c
  | none => s.oscShadow

/-- A pair captured into its shadow. -/
def capturePut (s : State) (p : Option Nat) : State :=
  match p with
  | some c => { s with cntShadow := mapSet (fun _ => 0) s.cntShadow c (counterGet s c) }
  | none => { s with oscShadow := BitVec.ofNat 64 s.osc }

/-- A direct register read (R6, R199, R320); the offset is decoded. -/
def directRead (s : State) (priv : Bool) (off : Nat) : Nat × State :=
  match capturePair off with
  | some p => ((pairValue s p).toNat % 2 ^ 32, capturePut s p)
  | none =>
    match (if off ≥ 4 then capturePair (off - 4) else none) with
    | some p => ((shadowOf s p).toNat / 2 ^ 32, s)
    | none =>
      match rowOf off with
      | none => (0, s)
      | some r =>
        let w := visible priv (liveWord s off) r.fields
        let s := if s.cfgBad.contains off then raiseCfgParity s off else s
        (w, if r.fields.any fun f => f.acc == .rc then regPut s off 0 else s)

/-! Indirect access (R402 to R408). -/

/-- Words of an indirect space. -/
def spaceWords (space : Nat) : Nat :=
  match space with
  | 1 => 400
  | 2 => 24
  | 3 => 2560
  | 4 => 64
  | 5 => 596
  | 6 => 256
  | _ => 0

/-- A word of space 1 (R405): the values of the last control period. -/
def islandEntry (s : State) (w : Nat) : Nat :=
  let i := w / 4
  let m := (s.power.islands[i]?).getD (0, 0)
  let rep := (s.power.islandRep[i]?).getD (islandVset s i, islandWord s i)
  match w % 4 with
  | 0 => rep.1
  | 1 => m.1 % 4096
  | 2 => m.2 % 65536
  | _ => rep.2

/-- The fuse shadow of space 4 (R408). -/
def fuseBytes (f : Fuses) : List Byte :=
  toLe 16 f.uid.toNat ++ toLe 4 f.hwType.toNat ++ toLe 12 0 ++ (f.keys.map digestBytes).flatten
    ++ toLe 8 f.svnBits.toNat ++ toLe 1 (f.programmed.toNat + 16 * f.revoked.toNat) ++ toLe 3 0
    ++ toLe 1 (boolBit f.recoveryDebug) ++ toLe 3 0 ++ toLe 4 f.pairing.toNat ++ toLe 12 0

/-- A word of an indirect space. -/
def indRead (s : State) (priv : Bool) (space w : Nat) : Nat :=
  match space with
  | 1 => islandEntry s w
  | 2 => setBits 30 19 ((s.power.sensors[w]?).getD 0).toNat 0
  | 3 => if priv then (mapGet Config.romTable s.ftab w).toNat else 0
  | 4 => fieldAt (fuseBytes s.fusesSensed) (4 * w) 4
  | 5 => (mapGet (fun _ => (0 : Word)) s.corr (4 * w)).toNat
  | _ => if priv then (mapGet (fun _ => (0 : Word)) s.trim w).toNat else 0

/-- A word that IND reaches, as parity knows it (R320). -/
def indKey (space w : Nat) : Nat := 2 ^ 24 * space + 4 * w

/-- A write to an indirect space, with its parity; none where it is dropped. -/
def indWrite (s : State) (priv : Bool) (space w v : Nat) : Option State :=
  if !priv || bitOf 0 (regGet s 0xD00100) then none
  else
    let s := { s with cfgBad := s.cfgBad.erase (indKey space w) }
    match space with
    | 3 => some (bumpGens { s with ftab := mapSet Config.romTable s.ftab w (BitVec.ofNat 32 v) } [1, 2])
    | 6 => some { s with trim := mapSet (fun _ => 0) s.trim w (BitVec.ofNat 32 v) }
    | _ => none

/-- The user of an IND pair changes. -/
def indUse (s : State) (k user : Nat) : State :=
  { s with boot := { s.boot with indUser := (k, user) :: s.boot.indUser.filter fun x => x.1 != k } }

/-- The user that stands for several: two masters have used the pair since its address was written. -/
def severalUsers : Nat := 2 ^ 21

/-- The word of the pair's space that a data access reaches, with the use recorded: the pair's address, or an undefined
word once two masters use the pair, until its address is written again (R403; assumptions 24 and 141). -/
def indWord (s : State) (k user : Nat) : Nat × State :=
  let w := regBits s (0xD00000 + 0x10 * k) 19 2
  match s.boot.indUser.find? fun x => x.1 == k with
  | some x =>
    if x.2 = user then (w, s)
    else
      let r := draw s 1
      ((Config.freeWord r.1).toNat % 2 ^ 18, indUse r.2 k severalUsers)
  | none => (w, indUse s k user)

/-- An access to IND_DATAk or IND_DATAk_NOINC by a master (R403). -/
def indAccess (s : State) (priv : Bool) (k user : Nat) (inc : Bool) (wr : Option Nat) : Nat × State :=
  let at' := 0xD00000 + 0x10 * k
  let next := (regBits s at' 19 2 + 1) % 2 ^ 18
  let space := regBits s at' 23 20
  let x := indWord s k user
  let w := x.1
  let s := x.2
  let s := if wr.isNone && s.cfgBad.contains (indKey space w) then raiseCfgParity s (indKey space w) else s
  let impl := w < spaceWords space
  let r : Nat × State × Bool := match wr with
    | none => (if impl then indRead s priv space w else 0, s, false)
    | some v =>
      if !impl then (0, s, false)
      else match indWrite s priv space w v with
        | some s' => (0, s', false)
        | none => (0, s, true)
  let s := regPut r.2.1 (at' + 0xC) (boolBit (!impl) + 2 * boolBit r.2.2)
  (r.1, if inc then regPutBits s at' 19 2 next else s)

/-- The pair and kind of an IND data register: whether the address moves on. -/
def indData? (off : Nat) : Option (Nat × Bool) :=
  if 0xD00000 ≤ off && off < 0xD00040 then
    match off % 16 with
    | 4 => some ((off - 0xD00000) / 16, true)
    | 8 => some ((off - 0xD00000) / 16, false)
    | _ => none
  else none

/-- A register write by a master (R390); the offset counts from the register window's start. -/
def regWrite (s : State) (priv : Bool) (user off v : Nat) : State :=
  let off := regDecode off
  match indData? off with
  | some (k, inc) => (indAccess s priv k user inc (some v)).2
  | none =>
    directWrite (if 0xD00000 ≤ off && off < 0xD00040 && off % 16 == 0 then indUse s ((off - 0xD00000) / 16) user else s)
      priv off v

/-- A register read by a master (R390), of 4 bytes, or of 8 at a pair that reads whole. -/
def regRead (s : State) (priv : Bool) (user off len : Nat) : Nat × State :=
  let off := regDecode off
  match indData? off with
  | some (k, inc) => indAccess s priv k user inc none
  | none =>
    match (if len = 8 then capturePair off else none) with
    | some p => ((pairValue s p).toNat, s)
    | none => directRead s priv off

/-! Masters (R7, R171, R358, R395). -/

/-- Whether R358 admits the debug path. -/
def debugOpen (s : State) : Bool := bitOf 0 (regGet s 0x200080) || (stage s == 7 && s.fuses.recoveryDebug)

/-- Whether a master is privileged (R7, R395). -/
def masterPriv (s : State) : Master → Bool
  | .steward | .debug => true
  | .agent src => listedSource s src.toNat

/-- A master as a user of an IND pair. -/
def masterUser : Master → Nat
  | .steward => 2 ^ 19
  | .debug => 2 ^ 20
  | .agent src => src.toNat

/-- What refuses a master's access to the own window, if anything: the window map, and for an agent the
protection table. -/
def masterRefusal (s : State) (m : Master) (a : Access) : Option Nat :=
  match mapRefusal s a with
  | some n => some n
  | none => match m with
    | .agent src => protCheck s src.toNat a.addr a.len a.kind
    | _ => none

/-- Whether the cluster serves an arriving access: with its scratchpad ready, or a read of a GEN or CSU
register (R317, R331). -/
def inService (s : State) (a : Access) : Bool :=
  let off := offsetOf a.addr
  let block (k : Nat) : Bool := regBase + k * 0x100000 ≤ off && off < regBase + (k + 1) * 0x100000
  serving s || (live s && a.kind == .read && (block 0 || block 2))

/-- An access of a master's command: performed, refused and counted, or not admitted at all. -/
def masterDo (s : State) (m : Master) (a : Access) (f : State → Bool → State) : State :=
  let s := match m with
    | .steward => if live s then stewardParity s else s
    | _ => s
  let admitted := match m with
    | .steward => live s
    | .debug => live s && debugOpen s
    | .agent _ => inService s a
  if !admitted then s
  else match masterRefusal s m a with
    | none => f s (masterPriv s m)
    | some n => match m with
      | .agent src => noteRefusal s false src.toNat a.addr n
      | _ => s

/-- A register write by a master's command. -/
def masterWrite (s : State) (m : Master) (off v : Nat) : State :=
  let a : Access := { kind := .write, addr := ownAddr s (regBase + off), len := 4 }
  masterDo s m a fun s priv => regWrite s priv (masterUser m) off v

/-- A register read by a master's command; its value goes to the master. -/
def masterRead (s : State) (m : Master) (off : Nat) : State :=
  let a : Access := { kind := .read, addr := ownAddr s (regBase + off), len := 4 }
  masterDo s m a fun s priv =>
    let r := regRead s priv (masterUser m) off 4
    { r.2 with readout := BitVec.ofNat 64 r.1 }

/-! The commands. -/

/-- R6, R397. A write to a register. -/
def execRegisterWrite (m : Master) (offset : Nat) (v : Word) (s : State) : Result :=
  .next (masterWrite s m offset v.toNat)

/-- R6. A read of an RC register, which clears it. -/
def execReadClear (m : Master) (offset : Nat) (s : State) : Result := .next (masterRead s m offset)

/-- R199. A read of the LO register of a pair captures the whole value. -/
def execCapture (m : Master) (offset : Nat) (s : State) : Result :=
  .next (if (capturePair (regDecode offset)).isSome then masterRead s m offset else s)

/-- R199. GO written to FEP_CNT_CLR. -/
def execCounterClear (m : Master) (c : Nat) (s : State) : Result :=
  .next (masterWrite s m 0x900200 (setBits 11 0 (regGet s 0x900200) c + 2 ^ 31))

/-- R284. FRONT written to FEP_RT_CTL. -/
def execRouteFront (m : Master) (s : State) : Result := .next (masterWrite s m 0x900020 (regGet s 0x900020 + 1))

/-- R302. A write of PTM_MODE. -/
def execPtmMode (m : Master) (v : Word) (s : State) : Result := .next (masterWrite s m 0xB00010 v.toNat)

/-- R297. A write of PTM_POWER_CAP. -/
def execPtmPowerCap (m : Master) (v : Word) (s : State) : Result := .next (masterWrite s m 0xB00014 v.toNat)

/-- R306. A write of PTM_VLIMIT. -/
def execPtmVlimit (m : Master) (v : Word) (s : State) : Result := .next (masterWrite s m 0xB00004 v.toNat)

/-- R180. A write of NSDS_PAR_INJ_LO. -/
def execParityArm (m : Master) (v : Word) (s : State) : Result := .next (masterWrite s m 0x700200 v.toNat)

/-- R182. A write of NSDS_BACKn_CTL. -/
def execBackValid (m : Master) (n : Nat) (v : Word) (s : State) : Result :=
  .next (if n < 64 then masterWrite s m (backReg n 5) v.toNat else s)

/-- R210. A write of FEP_ORDn_CTL with ARM set. -/
def execOrderedArm (m : Master) (n : Nat) (v : Word) (s : State) : Result :=
  .next (if n < 16 && v.getLsbD 0 then masterWrite s m (ordReg n 4) v.toNat else s)

/-- R213. A write of FEP_ORDn_CTL with ARM clear. -/
def execAbandon (m : Master) (n : Nat) (v : Word) (s : State) : Result :=
  .next (if n < 16 && !v.getLsbD 0 then masterWrite s m (ordReg n 4) v.toNat else s)

/-- R349. A write of CSU_ACT_FRONT_HI. -/
def execActivationFront (m : Master) (v : Word) (s : State) : Result := .next (masterWrite s m 0x20005C v.toNat)

/-- R351. CONFIRM written to CSU_ACT_CTL. -/
def execConfirm (m : Master) (s : State) : Result := .next (masterWrite s m 0x200060 (regGet s 0x200060 + 1))

/-- R351. REVERT written to CSU_ACT_CTL. -/
def execRevert (m : Master) (s : State) : Result := .next (masterWrite s m 0x200060 (regGet s 0x200060 + 2))

/-- A write of CSU_FUSE_PROG that starts an operation. -/
def fuseCmd (s : State) (m : Master) (op slot : Nat) : State :=
  masterWrite s m 0x200090 (setBits 3 0 (regGet s 0x200090) (op + 4 * slot) + 2 ^ 31)

/-- R359. PROGRAM_SLOT. -/
def execProgramSlot (m : Master) (slot : Nat) (s : State) : Result := .next (fuseCmd s m 1 slot)

/-- R359. REVOKE_SLOT. -/
def execRevokeSlot (m : Master) (slot : Nat) (s : State) : Result := .next (fuseCmd s m 2 slot)

/-- R359. SVN_ADVANCE. -/
def execSvnAdvance (m : Master) (s : State) : Result := .next (fuseCmd s m 3 0)

/-- R314. A write of EEU_ERR_DONE. -/
def execErrDone (m : Master) (index : Nat) (s : State) : Result :=
  .next (masterWrite s m 0xC00020 (setBits 15 0 (regGet s 0xC00020) index))

/-- R325. SET written to EEU_EVT_SW. -/
def execEvtSw (m : Master) (s : State) : Result := .next (masterWrite s m 0xC00048 (regGet s 0xC00048 + 1))

/-- R326. 1 written to EEU_FATAL0.VALID. -/
def execFatalClear (m : Master) (s : State) : Result := .next (masterWrite s m 0xC00030 (2 ^ 31))

/-- An access of a master to a data register of an IND pair. -/
def indCmd (s : State) (m : Master) (off : Nat) (wr : Option Word) : State :=
  match wr with
  | some v => masterWrite s m off v.toNat
  | none => masterRead s m off

/-- R403. An access to IND_DATAk. -/
def execIndData (m : Master) (pair : Nat) (wr : Option Word) (s : State) : Result :=
  .next (if pair < 4 then indCmd s m (0xD00004 + 0x10 * pair) wr else s)

/-- R403. An access to IND_DATAk_NOINC. -/
def execIndDataNoinc (m : Master) (pair : Nat) (wr : Option Word) (s : State) : Result :=
  .next (if pair < 4 then indCmd s m (0xD00008 + 0x10 * pair) wr else s)

/-- A command of DRE_RING_CMD written by a master. -/
def ringWrite (s : State) (m : Master) (cmd ring : Nat) : State :=
  masterWrite s m 0x300030 (ring % 2 ^ 18 + 2 ^ 20 * cmd)

/-- R217. ENABLE; while its reads are outstanding, the command goes on. -/
def execRingEnable (m : Master) (ring : Nat) (s : State) : Result :=
  .next (if live s && s.dre.cmd == some (1, ring) then stewardNext (enableStep s ring) else ringWrite s m 1 ring)

/-- R217. DISABLE. -/
def execRingDisable (m : Master) (ring : Nat) (s : State) : Result := .next (ringWrite s m 2 ring)

/-- R217. RESUME. -/
def execRingResume (m : Master) (ring : Nat) (s : State) : Result := .next (ringWrite s m 3 ring)

/-- R217. FLUSH. -/
def execRingFlush (m : Master) (ring : Nat) (s : State) : Result := .next (ringWrite s m 4 ring)

/-- R246. LOAD; while its read is outstanding, the command goes on. -/
def execLoadGroup (m : Master) (g : Nat) (s : State) : Result :=
  .next (if live s && bitOf 0 (regGet s 0xA00024) && regBits s 0xA00020 13 0 == g % 4096 + 4096 then loadStep s (g % 4096)
    else masterWrite s m 0xA00020 (g % 4096 + 4096))

/-- R246. UNLOAD. -/
def execUnloadGroup (m : Master) (g : Nat) (s : State) : Result :=
  .next (masterWrite s m 0xA00020 (g % 4096 + 8192))

/-- A command of TC_GRPn_CTL written by a master. -/
def groupWrite (s : State) (m : Master) (g cmd : Nat) : State :=
  if g < 32 then masterWrite s m (0x600400 + 0x20 * g) (setBits 1 0 (regGet s (0x600400 + 0x20 * g)) cmd) else s

/-- R155. SUSPEND. -/
def execSuspendGroup (m : Master) (g : Nat) (s : State) : Result := .next (groupWrite s m g 1)

/-- Whether a group is RESUMING. -/
def resuming (s : State) (g : Nat) : Bool :=
  match s.groups[g]? with
  | some x => x.state == 4
  | none => false

/-- R155. RESUME; while the group is RESUMING, the command goes on. -/
def execResumeGroup (m : Master) (g : Nat) (s : State) : Result :=
  .next (if live s && resuming s g then resumeStep s g else groupWrite s m g 2)

/-- R155. ABORT. -/
def execAbortLaunch (m : Master) (g : Nat) (s : State) : Result := .next (groupWrite s m g 3)

/-! The debug path (R358, R385 to R387). -/

/-- Whether the TAP works: it does not after a stop (R385). -/
def tapAlive (s : State) : Bool := !s.boot.stopped

/-- The TAP changed. -/
def tapUpd (s : State) (f : Tap → Tap) : State := if tapAlive s then { s with tap := f s.tap } else s

/-- R385. Test-Logic-Reset, by TRST_N or through TMS (assumption 144), with IDCODE selected. -/
def execTrstN (s : State) : Result := .next (tapUpd s fun t => { t with ir := 0x01, segs := 0 })

/-- The bits of a data register as they leave on TDO, lowest first. -/
def tdoBits (n : Nat) (v : Nat) : List Bool := (List.range n).map fun i => bitOf i v

/-- R385. IDCODE: the identification register is selected, its value captured and shifted out. -/
def execIdcode (s : State) : Result :=
  .next (if tapAlive s then
      { tapUpd s (fun t => { t with ir := 0x01, tdo := tdoBits 32 0x14B09A6F }) with readout := 0x14B09A6F }
    else s)

/-- The eight segments of the IEEE 1687 network (R387), in order from TDI. -/
inductive Segment where
  /-- Steward and debug -/
  | steward
  /-- matrix arrays -/
  | matrix
  /-- vector units -/
  | vector
  /-- task cores -/
  | tasks
  /-- near scratchpad -/
  | near
  /-- deep scratchpad and the stacked-die interface -/
  | deep
  /-- port loopback and link test -/
  | ports
  /-- sensors and oscillator trim -/
  | sensors
deriving DecidableEq, Repr

/-- The segments in order from TDI. -/
def segments : List Segment := [.steward, .matrix, .vector, .tasks, .near, .deep, .ports, .sensors]

/-- Place of a segment's insertion bit, from TDI. -/
def segPlace (x : Segment) : Nat := segments.findIdx (· == x)

/-- The segment-insertion bits as they read: all closed while the debug path is not admitted (R387). -/
def segBits (s : State) : BitVec 8 := if live s && debugOpen s then s.tap.segs else 0

/-- Whether a segment is open. -/
def segOpen (s : State) (x : Segment) : Bool := bitOf (segPlace x) (segBits s).toNat

/-- R387. IJTAG_SEL: the insertion bits as they read leave on TDO, the last from TDI first, and those shifted in take
their place; the segments open only while the debug path is admitted. -/
def execIjtagSel (segs : BitVec 8) (s : State) : Result :=
  .next (tapUpd s fun t => { t with
    ir := 0x10, segs := if live s && debugOpen s then segs else 0
    tdo := segments.reverse.map fun x => bitOf (segPlace x) (segBits s).toNat })

/-- A debug access that R167 or R168 refuses (R176, R386): recorded with OUTGOING 0, as an access that comes from outside
(DESIGN CHOICE, assumption 166). -/
def debugRefuse (s : State) (a : Access) (n : Nat) : State :=
  let s := noteRefusal s false a.src a.addr n
  { s with tap := { s.tap with status := 3 } }

/-- A debug access that the map of R167 allows: the register window, and the near scratchpad, where it is busy until the
bank has performed it, and the home copy of a backed word is written (R186, R192, R386). -/
def debugInside (s : State) (a : Access) (off : Nat) (wr : Bool) (data : Word) : State :=
  if !(regBase ≤ off && off < regBase + 0xE00000 || inNear s off 4) then debugRefuse s a reasonUnmapped
  else if regBase ≤ off then
    if wr then
      let s := regWrite s true (masterUser .debug) (off % regBase) data.toNat
      { s with tap := { s.tap with status := 0 } }
    else
      let r := regRead s true (masterUser .debug) (off % regBase) 4
      { r.2 with tap := { r.2.tap with status := 0, data := BitVec.ofNat 32 r.1 } }
  else
    let n := newId s
    serveNow { n.2 with tap := { n.2.tap with key := some n.1 } } none { a with who := .debug n.1 }

/-- The access that an Update-DR of REG_ACCESS starts. -/
def debugAccess (s : State) (off : Nat) (wr : Bool) (data : Word) : State :=
  let a : Access := { kind := if wr then .write else .read, addr := ownAddr s off, len := 4
                      data := if wr then toLe 4 data.toNat else [], src := ownId s, steward := true }
  if !(live s && debugOpen s) then { s with tap := { s.tap with status := 2 } }
  else if off % 4 != 0 then debugRefuse s a reasonSize
  else match mapRefusal s a with
    | some n => debugRefuse s a n
    | none => debugInside s a off wr data

/-- The bits that Capture-DR loads into REG_ACCESS: the result of the last access (R386). -/
def tapWord (t : Tap) : Nat :=
  t.offset.toNat + 2 ^ 40 * boolBit t.wr + 2 ^ 41 * t.data.toNat + 2 ^ 73 * t.status.toNat

/-- R386. A scan of REG_ACCESS: the result of the last access is captured and leaves on TDO, and Update-DR starts one
4-byte access, busy until it has ended. -/
def execRegAccess (offset : BitVec 40) (wr : Bool) (data : Word) (s : State) : Result :=
  .next (if !tapAlive s then s
    else
      let t := s.tap
      let s := { s with
        tap := { t with ir := 0x20, offset := offset, wr := wr, data := if wr then data else 0, status := 1, key := none
                        tdo := tdoBits 80 (tapWord t) }
        readout := t.data.setWidth 64 }
      debugAccess s offset.toNat wr data)

/-- R385. BYPASS, or any code not listed: the 1-bit register captures 0 and stands between TDI and TDO, whose bits
so leave one shift later. -/
def execBypass (scan : TapScan) (s : State) : Result :=
  .next (if scan.code = 0x01 || scan.code = 0x10 || scan.code = 0x20 then s
    else tapUpd s fun t => { t with ir := scan.code, byp := scan.tdi.getLastD false, tdo := (false :: scan.tdi).take scan.tdi.length })

end Sys2Proof.Machine
end

