-- ==== Sys2Proof/Machine/Access.lean ====
section
/-! DEFINITION. Accesses that arrive at the cluster's window (R164 to R179, R278, R370): requests of the
chip's agents, request packets, doorbells, the scratchpad banks (R170), the end of a refetch (R186) and the
fold of an ordered region (R212). -/
namespace Sys2Proof.Machine

/-! The window (R167). -/

/-- The master of an access as a user of an IND pair. -/
def accUser (a : Access) : Nat := if a.steward then 2 ^ 19 else a.src

/-- Performs an access to the own window that nothing has refused, and answers it. -/
def windowServe (s : State) (owner : Option Nat) (a : Access) : State :=
  let off := offsetOf a.addr
  if inSpm s off a.len then serveNow s owner a
  else if off < bellBase then
    let priv := a.steward || listedSource s a.src
    if a.kind = .read then
      let r := regRead s priv (accUser a) (off % regBase) a.len
      deliver r.2 a (.ok (toLe a.len r.1))
    else deliver (regWrite s priv (accUser a) (off % regBase) (leNat a.data)) a (.ok [])
  else deliver (applyDoorbell s (carried s a) (leNat a.data)) a (.ok [])

/-- An access that arrives from another cluster or an agent: checked and performed, or refused (R171, R176);
`owner` is the descriptor whose data it carries, if CLE has sorted it to one. -/
def arriveFor (s : State) (owner : Option Nat) (a : Access) : State :=
  if !inService s a then deliver s a (.refused reasonUnmapped)
  else match (mapRefusal s a).orElse fun _ => accCheck s a with
    | some n => refuseAccess s false a n
    | none => windowServe s owner a

/-- An arriving access that no descriptor of this cluster owns. -/
def arrive (s : State) (a : Access) : State := arriveFor s none a

/-! Agents of the chip (R366, R370). -/

/-- The first set bit of a byte mask at or above `i`, and the first clear bit at or above `i`. -/
def maskNext (be : BitVec 128) (v : Bool) (i : Nat) : Nat :=
  ((List.range 128).find? fun k => i ≤ k && be.getLsbD k == v).getD 128

/-- The runs of set bits of a byte mask. -/
def maskRuns (be : BitVec 128) : Nat → Nat → List (Nat × Nat)
  | 0, _ => []
  | fuel + 1, i =>
    let a := maskNext be true i
    if a ≥ 128 then []
    else
      let b := maskNext be false a
      (a, b - a) :: maskRuns be fuel b

/-- A request of an agent: its message's credit goes back, and the access is served.  A mask with gaps names the
ranges of one access (R366; assumption 36). -/
def agentServe (s : State) (ch tag : Nat) (m : CmpReq) (kind : AccKind) : State :=
  if s.boot.por || s.boot.warm || ch ≥ 8 then s
  else
    let s := chanUpd s ch fun c => { c with giveReq := c.giveReq + 1, rxAck := !c.rxAck }
    let line := m.addr / 128 * 128
    let runs := maskRuns m.be 64 0
    let lo := (runs.head?.map (·.1)).getD 0
    let hi := (runs.getLast?.map fun r => r.1 + r.2).getD 0
    let data := padTo 128 m.data
    let a : Access :=
      { kind := kind, addr := ownAddr s (line + lo), len := hi - lo, data := (data.drop lo).take (hi - lo), op := m.atop
        width := m.awid, src := m.src.toNat, who := .agent ch tag m.be line
        parts := if runs.length > 1 then runs.map fun r => (line + r.1, r.2) else []
        compare := if kind = .atomic then BitVec.ofNat 64 (leNat ((data.drop (lo ^^^ 64)).take (hi - lo))) else 0 }
    cmpPump (arrive s a) ch

/-- R370. A READ of an agent. -/
def execCmpRead (ch tag : Nat) (m : CmpReq) (s : State) : Result := .next (agentServe s ch tag m .read)

/-- R370. A WRITE of an agent. -/
def execCmpWrite (ch tag : Nat) (m : CmpReq) (s : State) : Result := .next (agentServe s ch tag m .write)

/-- R370. An ATOMIC of an agent. -/
def execCmpAtomic (ch tag : Nat) (m : CmpReq) (s : State) : Result := .next (agentServe s ch tag m .atomic)

/-- R178, R183. ACK from the chip acknowledges a chip-memory write or a write-through; the last of a ring command's
write-backs ends it, and a request that waited for that is acted on (R356). -/
def execCmpAck (ch tag : Nat) (st : CmpStatus) (s : State) : Result := .next (stewardNext (onChip s ch tag 1 st []))

/-! Request packets (R269, R270, R278). -/

/-- The access that a request packet makes. -/
def packetAccess (s : State) (port : Nat) (k : Packet) (kind : AccKind) : Access :=
  let n := match kind with
    | .read => bitsOf 12 0 (leNat k.body)
    | .write => k.payload.length
    | .atomic => (atomicWidth k.atop k.awid).getD 4
  { kind := kind, addr := ownAddr s k.addr, len := n
    data := match kind with
      | .read => []
      | .write => k.payload
      | .atomic => toLe n k.operand.toNat
    op := k.atop, width := k.awid, compare := k.compare
    counter := if k.counted && kind = .write then some k.counter else none
    src := k.src, who := .packet port k }

/-- R278. A WRITE packet: plain, counted, or a doorbell. -/
def execWritePkt (port : Nat) (k : Packet) (s : State) : Result :=
  .next (onPacket s port 0x01 k fun s => arrive s (packetAccess s port k .write))

/-- R278. A READ packet. -/
def execReadPkt (port : Nat) (k : Packet) (s : State) : Result :=
  .next (onPacket s port 0x02 k fun s => arrive s (packetAccess s port k .read))

/-- R278. An ATOMIC packet. -/
def execAtomicPkt (port : Nat) (k : Packet) (s : State) : Result :=
  .next (onPacket s port 0x03 k fun s => arrive s (packetAccess s port k .atomic))

/-- R237. A COUNT packet: checked as an 8-byte write to the counter's register, then a count-only advance. -/
def execCount (port : Nat) (k : Packet) (s : State) : Result :=
  .next (onPacket s port 0x04 k fun s =>
    let at' := ownAddr s (regBase + 0x908000 + 8 * (k.counter % 4096))
    if !serving s then answerPacket s k (.refused reasonUnmapped)
    else match protCheck s k.src at' 8 .write with
      | some n => answerPacket (noteRefusal s false k.src at' n) k (.refused n)
      | none => answerPacket (counterAdvance s (k.counter % 4096) (bitsOf 31 0 (leNat k.body))) k (.ok []))

/-! Doorbells (R12, R219, R220). -/

/-- R220. A doorbell written to the window: checked like any write, then applied by DRE. -/
def execDoorbell (m : Master) (value : Dword) (s : State) : Result :=
  .next
    (let src := match m with
      | .agent src => src.toNat
      | _ => ownId s
     let a : Access := { kind := .write, addr := ownAddr s bellBase, len := 8, src := src }
     match m with
     -- the debug path reaches the register window and near scratchpad only (R386)
     | .debug => s
     | _ => masterDo s m a fun s _ => applyDoorbell s src value.toNat)

/-! Banks (R170). -/

/-- What a bank's oldest request waits for at the other banks that it reaches: requests that are older there, and the
queue's rest without it (R170). -/
def bankAhead (s : State) (bank : Nat) (r : BankReq) : List BankReq × List BankReq :=
  let q := queueAhead (accBanks r.acc) (s.xbr.takeWhile fun x => x.bank != bank)
  (q.1, q.2 ++ (s.xbr.dropWhile fun x => x.bank != bank).drop 1)

/-- R170. A bank performs the oldest request that waits for it, once the bank groups that it reaches are out of
retention (R294). -/
def execBankAccess (bank : Nat) (s : State) : Result :=
  .next <| whenLive s fun s =>
    match s.xbr.find? fun r => r.bank == bank with
    | none => s
    | some r =>
      let q := bankAhead s bank r
      let is' := (q.1 ++ [r]).flatMap fun x => (accBanks x.acc).map bankIsland
      let p := s.power
      match is'.find? p.retained.contains with
      | some i => { s with power := { p with retained := p.retained.erase i, waking := setInsert p.waking i } }
      | none =>
        if is'.any p.waking.contains then s
        else
          let s := serveQueued { s with xbr := q.2 } q.1
          spmServe s (ownerOf s r.acc.who) r.acc false

/-! Refetches (R186). -/

/-- An owner's wait for a refetch has ended in failure: its next read treats the word as unbacked. -/
def pollFail (s : State) (block owner : Nat) : State :=
  let n := newId s
  { n.2 with gathers := n.2.gathers ++ [{ key := n.1, owner := owner, addr := ownAddr s block, len := 0, failed := some 8 }] }

/-- The refetch that a descriptor waits for has ended: it runs again, or fails (R187).  A failed one leaves the word of a
matrix descriptor unbacked, so that the partition which reads it meets its stop there (R63; DEDUCED, assumption 84). -/
def refetchEnds (s : State) (d : Desc) (ok : Bool) : State :=
  if ok then descUpd s d.id fun x => { x with waitBlock := none }
  else match d.engine with
    | .matrix _ => descUpd s d.id fun x => { x with phase := .running, waitBlock := none }
    | _ => endDesc s d.id stDataParity d.detail

/-- R186. The home copy has been read: the block is rewritten with fresh parity, or left unchanged; whoever
waited for it proceeds. -/
def execRefetch (block : Nat) (s : State) : Result :=
  .next <| whenLive s fun s =>
    match s.refetch.find? fun r => r.block == block && r.key.isSome with
    | none => s
    | some r =>
      let key := r.key.getD 0
      match s.gathers.find? fun g => g.key == key with
      | none => s
      | some g =>
        if g.left != 0 then s
        else
          let ok := g.failed.isNone
          let bytes := (List.range 4096).map fun i => mapGet (fun _ => (0 : Byte)) g.got (g.addr + i)
          let s := { s with
            gathers := s.gathers.filter fun x => x.key != key
            refetch := dropFirst (fun x => x.block == block) s.refetch }
          let det : ErrRec := { code := if ok then 0x0101 else 0x0205, cls := if ok then 1 else 2, internal := ok
                                resource := bankResource r.word, addr := ownAddr s r.word }
          -- what was made undefined meanwhile stays so
          let s := if ok then r.fresh.foldl (fun s p => spmHavoc s p.1 p.2) (spmStore (wakeBanks s block 4096) block bytes) else s
          let count := backReg r.region 5
          let s := if ok then regPutBits s count 31 16 (min (regBits s count 31 16 + 1) 0xFFFF) else s
          let s := raiseErr s det
          if !live s then s
          else
            let s := s.descs.foldl (fun s d =>
              if d.waitBlock == some block then refetchEnds s d ok else s) s
            let s := if ok then s else r.pollers.foldl (fun s o => pollFail s block o) s
            let s := routeRefetched s block ok
            stewardNext <| r.waiters.foldl (fun s a => spmServe s (ownerOf s a.who) a (!ok)) s

/-! The fold (R212). -/

/-- One element of the fold: the target's exact value and the slots' entries in ascending source order, as
the bytes of the result. -/
def foldElem (f : Fmt) (target : Nat) (slots : List Word) : Nat :=
  let v := slots.foldl (fun v w => (round32 false (addV false v (ofFp32 w)).1).val) (decodeElem f target)
  encodeElem f (roundTo f {} v).val

/-- The words that a fold reads (R212). -/
def foldReads (s : State) (n : Nat) (r : OrdRound) : List (Nat × Nat) :=
  let elems := regBits s (ordReg n 2) 20 0
  ordTarget s n :: (List.range r.tags.length).map fun j => ((ordSlots s n).1 + 4 * j * elems, 4 * elems)

/-- Ordered tags with their slots, in ascending source identifier. -/
def foldOrder (r : OrdRound) : List (Nat × Nat) :=
  ((List.range r.tags.length).zip r.tags).foldl (fun (l : List (Nat × Nat)) p =>
    l.takeWhile (fun q => q.2 < p.2) ++ p :: l.dropWhile (fun q => q.2 < p.2)) []

/-- The bytes a fold writes to its target; an element that a word of bad parity enters is free, since R212 says
nothing of one (assumption 37). -/
def foldBytes (s : State) (n : Nat) (r : OrdRound) : List Byte × State :=
  let bf := bitOf 1 (regGet s (ordReg n 4))
  let f : Fmt := if bf then .bf16 else .fp32
  let w := if bf then 2 else 4
  let elems := regBits s (ordReg n 2) 20 0
  let t := ordTarget s n
  let slot := (ordSlots s n).1
  let tags := foldOrder r
  let value (i : Nat) : List Byte :=
    toLe w (foldElem f (leNat (spmBytes s (t.1 + w * i) w))
      (tags.map fun p => BitVec.ofNat 32 (leNat (spmBytes s (slot + 4 * (p.1 * elems + i)) 4))))
  let bad (i : Nat) : Bool := (spmBadIn s (t.1 + w * i) w).isSome
    || tags.any fun p => (spmBadIn s (slot + 4 * (p.1 * elems + i)) 4).isSome
  let fr := drawBytes s (if s.spmBad.isEmpty then 0 else elems * w)
  (((List.range elems).map fun i => if bad i then (fr.1.drop (w * i)).take w else value i).flatten, fr.2)

/-- The handle of a fold's reads. -/
def foldOwner (n : Nat) : Nat := 2 ^ 62 + n

/-- A bad word that a fold reads in a backed region, whose refetch it awaits (R186, R188). -/
def foldBad (s : State) (n : Nat) (r : OrdRound) : Option (Nat × Nat) :=
  (foldReads s n r).findSome? fun p => s.spmBad.findSome? fun w =>
    if overlap w 4 p.1 p.2 && !gaveUp s (foldOwner n) (blockOf w) then (backOf s w).map fun k => (w, k) else none

/-- R212. A closed region's fold: every target element, then, once the writes are visible, DONE_COUNTER, CLOSED
and ARM.  A bad word of a backed region is refetched first, and a target under refetch waits (R186). -/
def execFold (n : Nat) (s : State) : Result :=
  .next <| whenLive s fun s =>
    if n ≥ 16 || !ordClosed s n then s
    else match ordRound s n with
      | none => s
      | some r =>
        let t := ordTarget s n
        if r.folding || (refetching s t.1 t.2).isSome then s
        else match foldBad s n r with
          | some (w, k) => pollRefetch s (foldOwner n) w k
          | none =>
            let s := wakeBanks (wakeBanks (gatherDrop s (foldOwner n)) t.1 t.2) (ordSlots s n).1 (ordSlots s n).2
            let b := foldBytes s n r
            let a : Access := { kind := .write, addr := ownAddr s t.1, len := t.2, steward := true, src := ownId s, who := .fold n }
            let o := storeRuns b.2 none a [(t.1, b.1)] none []
            if o.2 then foldEnd o.1 n
            else { o.1 with ord := replaceFirst (fun x => x.region == n) (fun x => { x with folding := true }) o.1.ord }

/-! Writes of a descriptor's data to anywhere (R12, R167). -/

/-- A unit's write at the own window: scratchpad, a register, or a doorbell. -/
def windowWrite (s : State) (owner : Option Nat) (a : Access) : State :=
  match mapRefusal s a with
  | some n => refuseAccess s true a n
  | none => windowServe s owner a

/-- A write of descriptor `d`'s data; each answer is awaited. -/
def descWrite (s : State) (d : Nat) (a : Access) : State := descWriteBy windowWrite s d a

end Sys2Proof.Machine
end

