-- ==== Sys2Proof/Machine/Wires.lean ====
section
/-! DEFINITION. The wires of the block's ports: what the outputs show in a state, and which commands a transfer that
arrives spells (R360, R361, R366, R373, R380, R383, R385).  A command is one transfer or one field of it; the bits
inside a serial command pass between two states of the model (assumption 145). -/
namespace Sys2Proof.Machine

/-! Chip memory channels (R366). -/

/-- The ST code of a response. -/
def statusCode (st : CmpStatus) : Nat :=
  match st with
  | .ok => 0
  | .decodeErr => 1
  | .dataErr => 2

/-- The header H of a transfer that carries a message or none, and credits. -/
def chipHeader (m : Option CmpMsg) (crReq crRsp : Bool) : BitVec 128 :=
  let cr := 2 ^ 108 * boolBit crReq + 2 ^ 109 * boolBit crRsp
  match m with
  | none => BitVec.ofNat 128 cr
  | some m =>
    let req := if m.response then 0
      else 2 ^ 20 * (m.addr % 2 ^ 63) + (if m.op = 2 then 2 ^ 102 * (m.atop % 16) + 2 ^ 106 * (m.awid % 4) else 0)
    BitVec.ofNat 128 (1 + 2 * boolBit m.response + 4 * (m.op % 8) + (if m.response then 2 ^ 5 * statusCode m.st else 0)
      + 2 ^ 8 * (m.tag % 4096) + req + cr)

/-- CMP_c_TXH, CMP_c_TXBE and CMP_c_TXD as the channel's transmit bundle holds them. -/
def chanTxH (c : Chan) : BitVec 128 :=
  match c.wire with
  | some (m, a, b) => chipHeader m a b
  | none => 0
@[inherit_doc chanTxH] def chanTxBE (c : Chan) : BitVec 128 :=
  match c.wire with
  | some (some m, _) => m.be
  | _ => 0
@[inherit_doc chanTxH] def chanTxD (c : Chan) : List Byte :=
  match c.wire with
  | some (some m, _) => padTo 128 m.data
  | _ => List.replicate 128 0

/-- The commands that a transfer on a channel's receive bundle spells: its message, and its credits, or the credits
alone. -/
def chipCommands (ch : Nat) (h be : BitVec 128) (d : List Byte) : List Instr :=
  let f (hi lo : Nat) : Nat := bitsOf hi lo h.toNat
  let m : CmpReq := { addr := f 59 27 * 128, src := BitVec.ofNat 19 (f 101 83), be := be, data := d, atop := f 105 102, awid := f 107 106 }
  let st : CmpStatus := match f 6 5 with
    | 0 => .ok
    | 1 => .decodeErr
    | _ => .dataErr
  let msg : Option Instr :=
    if f 0 0 = 0 then none
    else match f 1 1, f 4 2 with
      | 0, 0 => some (.cmpRead ch (f 19 8) m)
      | 0, 1 => some (.cmpWrite ch (f 19 8) m)
      | 0, 2 => some (.cmpAtomic ch (f 19 8) m)
      | 1, 0 => some (.cmpReadData ch (f 19 8) st d)
      | 1, 1 => some (.cmpAck ch (f 19 8) st)
      | 1, 2 => some (.cmpAtomicData ch (f 19 8) st d)
      | _, _ => none
  let cr := bitOf 108 h.toNat || bitOf 109 h.toNat
  match msg with
  | some c => if cr then [c, .cmpCredit ⟨ch, false⟩ (bitOf 108 h.toNat) (bitOf 109 h.toNat)] else [c]
  | none => [.cmpCredit ⟨ch, true⟩ (bitOf 108 h.toNat) (bitOf 109 h.toNat)]

/-! Fabric ports (R268, R269, R289, R373). -/

/-- The bytes of flit `i` of a packet. -/
def flitData (k : Packet) (i : Nat) : List Byte :=
  if i = 0 then packetHeader k else padTo (flitBytes k i) ((k.payload.drop (256 * (i - 1))).take 256)

/-- The CRC that a flit carries. -/
def flitCrc (k : Packet) (i seq : Nat) : BitVec 32 := crc32c (flitData k i ++ toLe 2 seq)

/-- FEP_p_TXD: the 64 bytes of a transfer. -/
def xferData (x : Xfer) : List Byte :=
  match x.part with
  | some (k, i, j) => ((flitData k i).drop (64 * j)).take 64
  | none => List.replicate 64 0

/-- FEP_p_TXSB: the sideband of a transfer. -/
def xferSideband (x : Xfer) : BitVec 72 :=
  let part := match x.part with
    | none => 0
    | some (k, i, j) =>
      let eof := decide (64 * (j + 1) = flitBytes k i)
      1 + 2 * boolBit (j == 0) + 4 * boolBit eof + 8 * (k.vc % 8)
        + (if eof then 2 ^ 6 * (x.seq % 4096) + 2 ^ 18 * (flitCrc k i (x.seq % 4096)).toNat else 0)
  let lv := match x.lv with
    | none => 0
    | some (nak, n) => 2 ^ 50 + 2 ^ 51 * boolBit nak + 2 ^ 52 * (n % 4096)
  let cv := match x.cv with
    | none => 0
    | some v => 2 ^ 64 + 2 ^ 65 * (v % 8)
  BitVec.ofNat 72 (part + lv + cv)

/-- The channel of the credit that a transfer with no field at all does not carry (assumption 102). -/
def noChannel : Nat := 8

/-- The commands that a transfer on a port's receive bundle spells; `bytes` are those of its flit so far. -/
def portCommands (port : Nat) (sb : BitVec 72) (bytes : List Byte) : List Instr :=
  let f (hi lo : Nat) : Nat := bitsOf hi lo sb.toNat
  let b (i : Nat) : Bool := bitOf i sb.toNat
  (if b 0 && b 2 then
      [.flit port { vc := f 5 3, seq := BitVec.ofNat 12 (f 17 6), crc := BitVec.ofNat 32 (f 49 18), bytes := bytes }]
    else [])
    ++ (if b 50 then [if b 51 then .nak port ⟨f 63 52, !b 0⟩ else .linkAck port ⟨f 63 52, !b 0⟩] else [])
    ++ (if b 64 then [.flitCredit port ⟨f 67 65, !b 0 && !b 50⟩] else [])
    ++ (if !b 0 && !b 50 && !b 64 then [.flitCredit port ⟨noChannel, true⟩] else [])

/-- The receive bundles between commands: every transfer has been captured and acknowledged, so that REQ stands at the
level of ACK (R361). -/
def chanRxReq (c : Chan) : Bool := c.rxAck
@[inherit_doc chanRxReq] def portRxReq (c : Port) : Bool := c.rxAck

/-! Serial NOR (R332, R333, R383). -/

/-- The phases of a device command. -/
inductive SpiPhase where
  | instr | addr | dummy | write | read
deriving DecidableEq, Repr

/-- The mode of the device command under way, 0 1-1-1, 1 1-1-4 and 2 1-4-4; none between commands.  Discovery and the
commands of an erase or a program go in 1-1-1; the reads of settings and images, IMG_VERIFY's too, in
CSU_BOOT.SPI_MODE (R332). -/
def spiNow (s : State) : Option Nat :=
  if !live s then none
  else match stage s with
    | 2 => some 0
    | 3 | 4 => some (regBits s 0x200010 29 28)
    | _ => match s.boot.imageBusy.bind (descGet s) with
      | some x =>
        if dop x = 0xF2 then (if x.phase = .running then some (regBits s 0x200010 29 28) else none)
        else if x.engine = .image 1 then some 0
        else none
      | none => none

/-- What the model leaves open of the pins within a device command, by the place of the state among the free values and
its oscillator count: the phase, and the bits that the cluster drives (assumption 145). -/
def spiDraw (s : State) (i : Nat) : Nat := (Config.freeWord (2 ^ 70 * (s.freeCtr + 1) + 4 * s.osc + i)).toNat

/-- The phase of the device command under way. -/
def spiPhase (s : State) : SpiPhase :=
  match spiDraw s 0 % 5 with
  | 0 => .instr
  | 1 => .addr
  | 2 => .dummy
  | 3 => .write
  | _ => .read

/-- Lines that carry a phase of a mode. -/
def spiLines (mode : Nat) (p : SpiPhase) : Nat :=
  match p with
  | .instr => 1
  | .addr | .dummy => if mode = 2 then 4 else 1
  | .write => 1
  | .read => if mode = 0 then 1 else 4

/-- Lines driven in a phase: on one line IO0, and IO2 and IO3, which are held high; on four, all or none. -/
def phaseOe (mode : Nat) (p : SpiPhase) : BitVec 4 :=
  if spiLines mode p = 1 then 0xD else match p with
    | .dummy | .read => 0
    | _ => 0xF

/-- Levels driven in a phase, with the bits sent. -/
def phaseOut (mode : Nat) (p : SpiPhase) (bits : BitVec 4) : BitVec 4 :=
  if spiLines mode p = 1 then 0xC ||| (bits &&& 1) else bits

/-- SPI_IO_OE and SPI_IO_OUT as the state drives them; nothing is driven between commands. -/
def spiOe (s : State) : BitVec 4 :=
  match spiNow s with
  | some mode => phaseOe mode (spiPhase s)
  | none => 0
@[inherit_doc spiOe] def spiOut (s : State) : BitVec 4 :=
  match spiNow s with
  | some mode => phaseOut mode (spiPhase s) (BitVec.ofNat 4 (spiDraw s 1)) &&& spiOe s
  | none => 0

/-- The byte that the samples of SPI_IO_IN spell in a read phase: on one line IO1 carries its bits, highest first, and on
four lines IO3 to IO0 carry each half of it. -/
def spiIn (mode : Nat) (samples : List (BitVec 4)) : Byte :=
  let lines := spiLines mode .read
  BitVec.ofNat 8 (samples.foldl (fun v x =>
    if lines = 1 then 2 * v + bitsOf 1 1 x.toNat else 16 * v + x.toNat) 0)

/-- SPI_CS_N and SPI_SCK: SCK is the oscillator count divided by CSU_SPI.DIV, low and high for half of a period. -/
def spiCsN (s : State) : Bool := (spiNow s).isNone
@[inherit_doc spiCsN] def spiSck (s : State) : Bool :=
  let div := regBits s 0x200034 7 0
  (spiNow s).isSome && div ≤ 2 * (s.osc % div)

/-! AVSBus and the test access port (R380, R385). -/

/-- AVS_CLK: the oscillator divided by 40. -/
def avsClk (s : State) : Bool := 20 ≤ s.osc % 40

/-- The 3-bit remainder of a bit string, highest bit first, by x³ + x + 1. -/
def crc3 (bits : List Bool) : Nat :=
  bits.foldl (fun r b =>
    let top := bitOf 2 r != b
    Nat.xor (2 * r % 8) (if top then 3 else 0)) 0

/-- The bits that the master drives in a frame, first one first: start, command type, group, code, rail, data and
remainder (PRESUMED of the AVSBus standard, assumption 145). -/
def avsBits (f : AvsFrame) : List Bool :=
  let v := 2 ^ 27 + 2 ^ 25 * (if f.write then 0 else 3) + 2 ^ 20 * (f.code % 16) + f.data % 65536
  let bs := (List.range 29).map fun i => bitOf (28 - i) v
  bs ++ [2, 1, 0].map fun i => bitOf i (crc3 bs)

/-- AVS_MDATA: the bit of the frame under way, and high while the cluster drives none. -/
def avsMdata (s : State) : Bool :=
  match s.power.avsFrame with
  | some f => ((avsBits f)[(s.osc - f.since) / 40]?).getD true
  | none => true

/-- The bits that the last data-register scan drove on TDO. -/
def tdoOut (s : State) : List Bool := s.tap.tdo

end Sys2Proof.Machine
end

