-- ==== Sys2Proof/Machine/Coll.lean ====
section
/-! DEFINITION. The collective engine (R248 to R266, R271, R277): signatures and verdicts, tree reductions in
chunks, direct transfers, early and stale arrivals, and failures.  The bodies of COLL_DATA and COLL_CTL are
fields (assumption 15). -/
namespace Sys2Proof.Machine

/-- Reads member-table entries: pairs of a member and its identifier, 4 bytes each. -/
def readMembers (s : State) (owner table : Nat) : List Nat → State × Rd
  | [] => (s, .bytes [])
  | m :: ms =>
    let r := readRange s owner (table + 4 * m) 4
    match r.2 with
    | .bytes bs =>
      let x := readMembers r.1 owner table ms
      match x.2 with
      | .bytes rest => (x.1, .bytes (toLe 4 m ++ bs ++ rest))
      | y => (x.1, y)
    | y => (r.1, y)

/-! Undefined bytes (R62, R94, R122, R263). -/

/-- Bytes read from a window offset, with those that others wrote while the descriptor runs replaced by free
values. -/
def freshen (s : State) (written : List (Nat × Nat)) (off : Nat) (bs : List Byte) : List Byte × State :=
  if written.any fun w => overlap w.1 w.2 off bs.length then
    let r := drawBytes s bs.length
    let pick (i : Nat) : Byte :=
      if written.any fun w => overlap w.1 w.2 (off + i) 1 then (r.1[i]?).getD 0 else (bs[i]?).getD 0
    ((List.range bs.length).map pick, r.2)
  else (bs, s)

/-- Whether bytes of a format hold a NaN or an infinity. -/
def bytesNonfinite (type : Nat) (bs : List Byte) : Bool :=
  match fmtOfCode type with
  | some f =>
    let n := clBytes type
    if type = 0x03 || type = 0x04 then false
    else (List.range (bs.length / n)).any fun i => valNonfinite (decodeElem f (fieldAt bs (n * i) n))
  | none => false

/-- The part of a range that lies in another, widened to whole elements of it. -/
def elemsOf (w : Nat) (into r : Nat × Nat) : Option (Nat × Nat) :=
  let lo := max into.1 r.1
  let hi := min (into.1 + into.2) (r.1 + r.2)
  if hi ≤ lo then none
  else
    let a := into.1 + (lo - into.1) / w * w
    some (a, into.1 + ceilDiv (hi - into.1) w * w - a)

/-- The own source's parts that the own destination's elements derive from: where each begins, how many bytes it has,
and where they go. -/
def clFlows (x : Desc) (r : ClRun) : List (Nat × Nat × Nat) :=
  let n := clCount x * clBytes (clType x)
  let src := offsetOf (clSrc x)
  let dst := offsetOf (clDst x)
  let i := clIndex x
  if clInsn x then []
  else match clOp x with
    | 0 => [(src, n, dst)]
    | 1 => [(src + i * n, n, dst)]
    | 2 => [(src, n, dst + i * n)]
    | 3 => if clRoot x = i then [(src, n, dst)] else []
    | 5 =>
      let len := ((r.slots.find? fun p => p.1 == i).map (·.2)).getD 0
      [(src + ceilDiv (4 * clMembers x) 128 * 128 + r.ownAt, min len (clSlot x), dst + i * clSlot x)]
    | _ => []

/-- The result elements that derive from bytes others wrote while a collective ran: those written themselves, and
those whose sources were (R263); a length vector gives the own slot and its drop vector entry. -/
def clTouched (x : Desc) (r : ClRun) : List (Nat × Nat) :=
  let w := clBytes (clType x)
  let i := clIndex x
  let el := if clOp x = 5 then 1 else w
  (x.clobbered.map fun c =>
    ((clWrites x).zipIdx.filterMap fun d => elemsOf (if d.2 = 0 then el else 8) d.1 c)
      ++ ((clFlows x r).filterMap fun f => (elemsOf el (f.1, f.2.1) c).map fun p => (f.2.2 + (p.1 - f.1), p.2))
      ++ (if clOp x = 5 && overlap (offsetOf (clSrc x)) (4 * clMembers x) c.1 c.2 then
          (offsetOf (clDst x) + i * clSlot x, clSlot x)
            :: (if clDrop x = 0 then [] else [(offsetOf (clDrop x) + 8 * i, 8)])
        else [])).flatten

/-- A collective succeeds, unless it is disturbed (R324): result elements that others touched are undefined (R263),
and so are the destinations of consecutive direct collectives that overlap (R255). -/
def clDone (s : State) (d : Nat) : State :=
  match descGet s d with
  | none => s
  | some x => match collRun x with
    | none => s
    | some r =>
      let ws := clWrites x
      let nf := r.nonfinite || ((clOp x == 2 || clOp x == 3) && ws.any fun w => bytesNonfinite (clType x) (spmBytes s w.1 w.2))
      let s := (clTouched x r ++ r.overlaps).foldl (fun s c => if c.2 = 0 then s else spmHavoc s c.1 c.2) s
      let s := clForget s x
      let s := descUpd s d fun x => { x with
        body := if clInsn x then x.body else clBody x r
        report := { x.report with nf := if nf then some (0, 0) else none } }
      let s := clUpd s d fun r => { r with phase := 3 }
      let s := clLast (grpUpd s r.group fun g => { g with base := if clTree x || clOp x ≥ 4 then g.base else r.target }) x
      let s := if x.disturbed && !x.rejected then clAftermath s d stDisturbed else s
      endDesc s d 0 {}

/-! Signatures (R258). -/

/-- A clear verdict goes down to the participants, and data moves (R258); one that cannot be delivered ends the member
(R261). -/
def clClear (s : State) (x : Desc) : State :=
  let s := (treeParts (clEntry x) (clIndex x)).foldl (fun s c => clCtl s x false c.1 c.2 .verdictClear) s
  clUpd s x.id fun r => { r with phase := if r.phase = 1 then 2 else r.phase }

/-- The signature exchange: once every participant below has been heard, the verdict or the report moves on. -/
def clSign (s : State) (x : Desc) (r : ClRun) : State :=
  let e := clEntry x
  let i := clIndex x
  let parts := treeParts e i
  if !(parts.all fun c => r.heard.any fun h => h.1 == c.1) then s
  else match treeParent e i with
    | none => match r.bad with
      | none => clClear s x
      | some m =>
        let level := (r.cause.map (·.2)).getD 0
        clFail (clTell s x none level (.verdictMismatch m)) x.id stCollMismatch (some (m, level)) {}
    | some (p, l) =>
      if r.sentUp then s
      else
        -- a report names the level at which the mismatch was found (R265)
        let k := match r.bad with
          | none => clCtlPacket s x true p l (.signature r.sig)
          | some m => clCtlPacket s x true p ((r.cause.map (·.2)).getD l) (.mismatch m)
        clUpd (clSend s x p l k) x.id fun r => { r with sentUp := true }

/-! Tree reductions (R250 to R254). -/

/-- combine(a, b) of R251 on encodings of DESC.type.  A sum is rounded and flushed; MIN and MAX give one of their operands
as it is, a subnormal one too (R32, R250; DESIGN CHOICE, assumption 160). -/
def combine (type redop a b : Nat) : Nat :=
  let n := 8 * clBytes type
  if type = 0x04 || type = 0x1F then
    match redop with
    | 0 => (a + b) % 2 ^ n
    | 1 => if signedOf n a ≤ signedOf n b then a else b
    | _ => if signedOf n a ≥ signedOf n b then a else b
  else match fmtOfCode type with
    | none => a
    | some f =>
      let x := decodeElem f a
      let y := decodeElem f b
      match redop with
      | 0 => encodeElem f (roundTo f {} (addV false x y).1).val
      | 1 => encodeElem f (minV false x y).1
      | _ => encodeElem f (maxV false x y).1

/-- Two partials combined element by element. -/
def combineBytes (type redop : Nat) (a b : List Byte) : List Byte :=
  let n := clBytes type
  ((List.range (a.length / n)).map fun i =>
    toLe n (combine type redop (fieldAt a (n * i) n) (fieldAt b (n * i) n))).flatten

/-- Elements of a tree reduction, and of one chunk (R248, R253). -/
def clTotal (d : Desc) : Nat := if clOp d = 1 then clMembers d * clCount d else clCount d
@[inherit_doc clTotal] def clChunk (s : State) (d : Desc) : Nat := chunkLimit s (clEntry d) / clBytes (clType d)

/-- The elements that the subtree of `n` members from member `i` needs of the result (R252): first and one
past the last. -/
def clNeeds (d : Desc) (i n : Nat) : Nat × Nat :=
  if clOp d = 1 then (i * clCount d, min (i + n) (clMembers d) * clCount d) else (0, clCount d)

/-- Key under which a switch's result of a level is staged. -/
def switchKey (l : Nat) : Nat := 2 ^ 20 + l

/-- The level-by-level value of a chunk at a member (R251, R254). -/
inductive ChunkVal where
  | value (bs : List Byte)
  | waits
  | toSwitch (level : Nat) (bs : List Byte)
deriving DecidableEq, Repr

/-- Combines a chunk's partials over the levels that the member roots. -/
def clLevels (x : Desc) (r : ClRun) (first : Nat) : List Nat → List Byte → ChunkVal
  | [], v => .value v
  | l :: ls, v =>
    let e := clEntry x
    let got (k : Nat) : Option (List Byte) := (r.staged.find? fun p => p.1 == k && p.2.1 == first).map (·.2.2)
    if grpSwitch e l then
      match got (switchKey l) with
      | some bs => clLevels x r first ls bs
      | none => if r.switched.contains (first, l) then .waits else .toSwitch l v
    else
      let cs := (unitParts e (clIndex x) l).map got
      if cs.all (·.isSome) then
        clLevels x r first ls (cs.foldl (fun v c => match c with
          | some bs => combineBytes (clType x) (clRedop x) v bs
          | none => v) v)
      else .waits

/-- Identifier of the switch over the unit of member `i` at a level (R254). -/
def switchId (e : List Byte) (i l : Nat) : Nat := grpSwBase e l + i / unitSize e (l + 1)

/-- The source bytes of a chunk. -/
def clSource (s : State) (x : Desc) (first n : Nat) : State × Rd :=
  let w := clBytes (clType x)
  if clInsn x then (s, .bytes ((x.chain.drop (w * first)).take (w * n)))
  else
    let addr := clSrc x + w * first
    let r := readRange s x.id addr (w * n)
    match r.2 with
    | .bytes bs =>
      let f := freshen r.1 x.clobbered (offsetOf addr) bs
      (f.2, .bytes f.1)
    | y => (r.1, y)

/-- A source read that brings no bytes: it waits, or the collective ends (R176, R188, R261). -/
def clReadFails (s : State) (d addr : Nat) (r : Rd) : State :=
  match rdFault s addr r with
  | some f => clFail s d f.1 none f.2
  | none => s

/-- Part of a chunk's bytes: elements `lo` to `hi − 1` of one that starts at `first`. -/
def slice (w first lo hi : Nat) (bs : List Byte) : List Byte := (bs.drop (w * (lo - first))).take (w * (hi - lo))

/-- A result chunk arrives at a member: it is forwarded to the subtrees that need it, and the member's own
part is written (R252). -/
def clResult (s : State) (d first : Nat) (bs : List Byte) : State :=
  match descGet s d with
  | none => s
  | some x => match collRun x with
    | none => s
    | some r =>
      let w := clBytes (clType x)
      let e := clEntry x
      let i := clIndex x
      let last := first + bs.length / w
      let chunk := first / clChunk s x
      if r.results.contains chunk then s
      else
        let send (s : State) (m dest l : Nat) (need : Nat × Nat) : State :=
          let lo := max first need.1
          let hi := min last need.2
          if lo < hi then clData s x false m dest l lo (slice w first lo hi bs) else s
        let s := (rootLevels e i).foldl (fun s l =>
          if grpSwitch e l then send s i (switchId e i l) l (clNeeds x i (unitSize e (l + 1)))
          else (unitParts e i l).foldl (fun s c => send s c (clId x c) l (clNeeds x c (unitSize e l))) s) s
        let own := clNeeds x i 1
        let lo := max first own.1
        let hi := min last own.2
        let s := clUpd s d fun r => { r with results := chunk :: r.results }
        if lo < hi then
          let mine := slice w first lo hi bs
          let s := clUpd s d fun r => { r with nonfinite := r.nonfinite || bytesNonfinite (clType x) mine }
          if clInsn x then descUpd s d fun x => { x with body := mine }
          else descWrite s d { kind := .write, addr := clDst x + w * (lo - own.1), len := mine.length, data := mine, src := x.src }
        else s

/-- Whether a staging word has bad parity (R261). -/
def stageBad (s : State) (e : List Byte) : Option Nat := spmBadIn s (offsetOf (grpStage e)) (1024 * grpStageKib e)

/-- One chunk's progress at a member. -/
def clChunkStep (s : State) (d first : Nat) : State :=
  match descGet s d with
  | none => s
  | some x => match collRun x with
    | none => s
    | some r =>
      if x.phase != .running || r.sentChunks.contains first then s
      else
        let e := clEntry x
        let i := clIndex x
        let n := min (clChunk s x) (clTotal x - first)
        let src := clSource s x first n
        match src.2 with
        | .bytes own =>
          let s := src.1
          match clLevels x r first (rootLevels e i) own with
          | .waits => s
          | .toSwitch l v =>
            clUpd (clData s x true i (switchId e i l) l first v) d fun r => { r with switched := (first, l) :: r.switched }
          | .value v =>
            let finish (s : State) : State :=
              let s := clUpd s d fun r => { r with
                sentChunks := first :: r.sentChunks, staged := r.staged.filter fun p => p.2.1 != first }
              (treeParts e i).foldl (fun s c => clCtl s x false c.1 c.2 (.credit 1)) s
            match (if (rootLevels e i).isEmpty then none else stageBad s e), treeParent e i with
            | some w, _ => clFail s d stDataParity none (badDetail s w)
            | none, none => clResult (finish s) d first v
            | none, some (p, l) =>
              if r.credits = 0 then s
              else
                let dest := if grpSwitch e l then switchId e i l else clId x p
                clUpd (finish (clData s x true p dest l first v)) d fun r => { r with credits := r.credits - 1 }
        | y => clReadFails src.1 d (clSrc x + clBytes (clType x) * first) y

/-- The first elements of the chunks of a reduction. -/
def clFirsts (s : State) (x : Desc) : List Nat :=
  let c := max (clChunk s x) 1
  (List.range (ceilDiv (clTotal x) c)).map (c * ·)

/-- Progress of a tree reduction, and its end once the member has what it and its subtree need. -/
def clTreeStep (s : State) (d : Nat) : State :=
  match descGet s d with
  | none => s
  | some x =>
    let firsts := clFirsts s x
    let s := firsts.foldl (fun s f => clChunkStep s d f) s
    match descGet s d with
    | none => s
    | some x => match collRun x with
      | none => s
      | some r =>
        if x.phase != .running then s
        else
          let c := clChunk s x
          let i := clIndex x
          let e := clEntry x
          let span := ((rootLevels e i).map fun l => unitSize e (l + 1)).foldl max 1
          let need := clNeeds x i span
          let ready := firsts.all fun f => r.sentChunks.contains f
            && (r.results.contains (f / c) || f + c ≤ need.1 || need.2 ≤ f)
          if ready && x.unacked == 0 then clDone s d else s

/-! Direct transfers (R255, R256, R271). -/

/-- PKT.BODY of a COLL_WRITE (R271). -/
def cwBody (d : Desc) (header : Bool) (length : Nat) : List Byte :=
  toLe 2 (clGroup d) ++ toLe 1 (clOp d + 16 * boolBit header) ++ toLe 1 0 ++ toLe 4 length ++ toLe 8 (clSeq d)
    ++ toLe 8 (clSignature d).toNat ++ toLe 4 (clIndex d) ++ toLe 4 0

/-- Sends bytes to an offset of member `m`'s cluster, or of a multicast group, as COLL_WRITE packets. -/
def clWriteTo (s : State) (x : Desc) (m dest off : Nat) (counter : Option Nat) (bs : List Byte) : State :=
  let ps := piecesOf 4096 (bs.length / 4096 + 2) off bs.length
  ps.foldl (fun s p =>
    let data := (bs.drop (p.1 - off)).take p.2
    let a : Access := { kind := .write, addr := dest * 2 ^ 40 + p.1, len := p.2, data := data, counter := counter
                        src := x.src, who := .coll x.id m 7 }
    let k : Packet := { type := 0x05, vc := 0, dest := dest, src := ownId s, addr := p.1, counted := counter.isSome
                        counter := counter.getD 0, payload := data, body := cwBody x false 0 }
    let s := descUpd s x.id fun y => { y with unacked := y.unacked + 1 }
    let r := fepQueue s k (some a)
    if r.2 then r.1 else deliver r.1 a .unreachable) s

/-- Sends an ALLTOALL slot header (R256). -/
def clHeaderTo (s : State) (x : Desc) (m dest length : Nat) : State :=
  let a : Access := { kind := .write, addr := dest * 2 ^ 40, len := 0, src := x.src, who := .coll x.id m 7 }
  let k : Packet := { type := 0x05, vc := 0, dest := dest, src := ownId s, addr := offsetOf (clDst x)
                      body := cwBody x true length }
  let s := descUpd s x.id fun y => { y with unacked := y.unacked + 1 }
  let r := fepQueue s k (some a)
  if r.2 then r.1 else deliver r.1 a .unreachable

/-- A slot whose header and bytes have all come is filled with zeros, and its drop vector entry written. -/
def slotCheck (s : State) (d m : Nat) : State :=
  match descGet s d with
  | none => s
  | some x => match collRun x with
    | none => s
    | some r =>
      match r.slots.find? fun p => p.1 == m with
      | none => s
      | some (_, len) =>
        let n := min len (clSlot x)
        let got := ((r.received.find? fun p => p.1 == m).map (·.2)).getD 0
        if got < n || r.results.contains m then s
        else
          let s := clUpd s d fun r => { r with results := m :: r.results }
          let zero := List.replicate (clSlot x - n) (0 : Byte)
          let s := if zero.isEmpty then s
            else descWrite s d { kind := .write, addr := clDst x + m * clSlot x + n, len := zero.length, data := zero, src := x.src }
          if clDrop x = 0 then s
          else descWrite s d { kind := .write, addr := clDrop x + 8 * m, len := 8, src := x.src
                               data := toLe 4 n ++ toLe 4 (len - n) }

/-- A slot header, and bytes of a slot, have arrived. -/
def slotHeader (s : State) (d m len : Nat) : State :=
  slotCheck (clUpd s d fun r => { r with slots := (m, len) :: r.slots.filter fun p => p.1 != m }) d m
@[inherit_doc slotHeader] def slotBytes (s : State) (d m n : Nat) : State :=
  slotCheck (clUpd s d fun r => { r with received :=
    (m, n + ((r.received.find? fun p => p.1 == m).map (·.2)).getD 0) :: r.received.filter fun p => p.1 != m }) d m

/-- Sends of ALLGATHER and BROADCAST (R255). -/
def clSpread (s : State) (x : Desc) : State :=
  let i := clIndex x
  let n := clCount x * clBytes (clType x)
  let sent (s : State) : State := clUpd s x.id fun r => { r with sentData := true }
  if clOp x = 3 && clRoot x != i then sent s
  else
    let r := clSource s x 0 (clCount x)
    match r.2 with
    | .bytes bs =>
      let s := sent r.1
      let off := offsetOf (clDst x) + (if clOp x = 2 then i * n else 0)
      let cnt := grpCounter (clEntry x)
      if clMcast x != 0 then clWriteTo s x i (clMcast x) off (some cnt) bs
      else
        let others := (List.range (clMembers x)).filter (· != i)
        let s := others.foldl (fun s m => clWriteTo s x m (clId x m) off (some cnt) bs) s
        let s := clUpd s x.id fun r => { r with nonfinite := r.nonfinite || bytesNonfinite (clType x) bs }
        let s := descUpd s x.id fun y => { y with unacked := y.unacked + answersOf (ownAddr s off) n }
        (piecesOf 4096 (n / 4096 + 2) off n).foldl (fun s p =>
          unitWrite s (some x.id) { kind := .write, addr := ownAddr s p.1, len := p.2, src := x.src, counter := some cnt
                                    data := (bs.drop (p.1 - off)).take p.2, who := .desc x.id }) s
    | y => clReadFails r.1 x.id (clSrc x) y

/-- Sends of ALLTOALL (R256). -/
def clScatter (s : State) (x : Desc) : State :=
  let m := clMembers x
  let v := readRange s x.id (clSrc x) (4 * m)
  match v.2 with
  | .bytes lens =>
    let f := freshen v.1 x.clobbered (offsetOf (clSrc x)) lens
    let len (j : Nat) : Nat := fieldAt f.1 (4 * j) 4
    let sums := (List.range (m + 1)).map fun j => ((List.range j).map len).foldl (· + ·) 0
    let start (j : Nat) : Nat := (sums[j]?).getD 0
    if start m > clCount x then clFail f.2 x.id stCollLength none {}
    else
      let base := clSrc x + ceilDiv (4 * m) 128 * 128
      let dat := readRange f.2 x.id base (start m)
      match dat.2 with
      | .bytes bs =>
        let f := freshen dat.1 x.clobbered (offsetOf base) bs
        let i := clIndex x
        let drop := ((List.range m).map fun j => len j - clSlot x).foldl (· + ·) 0
        let s := clUpd f.2 x.id fun r => { r with sentData := true, dropOut := drop, ownAt := start i }
        let off := offsetOf (clDst x) + i * clSlot x
        (List.range m).foldl (fun s j =>
          let part := (f.1.drop (start j)).take (min (len j) (clSlot x))
          if j = i then
            let s := slotHeader s x.id i (len i)
            if part.isEmpty then s
            else slotBytes (descWrite s x.id { kind := .write, addr := ownAddr s off, len := part.length, data := part
                                               src := x.src }) x.id i part.length
          else clWriteTo (clHeaderTo s x j (clId x j) (len j)) x j (clId x j) off none part) s
      | y => clReadFails dat.1 x.id base y
  | y => clReadFails v.1 x.id (clSrc x) y

/-- Progress of a direct collective, and its end. -/
def clDirectStep (s : State) (d : Nat) : State :=
  match descGet s d with
  | none => s
  | some x => match collRun x with
    | none => s
    | some r =>
      let s := if r.sentData then s else if clOp x = 5 then clScatter s x else clSpread s x
      match descGet s d with
      | none => s
      | some x => match collRun x with
        | none => s
        | some r =>
          let all := if clOp x = 5 then (List.range (clMembers x)).all fun m => r.results.contains m
            else reached (counterGet s (grpCounter (clEntry x))) r.target
          if x.phase == .running && r.sentData && x.unacked == 0 && all then clDone s d else s

/-- Progress of a collective. -/
def clStep (s : State) (d : Nat) : State :=
  match descGet s d with
  | none => s
  | some x => match collRun x with
    | none => s
    | some r =>
      if x.phase != .running then s
      else
        let s := if r.phase = 1 then clSign s x r else s
        match descGet s d with
        | none => s
        | some x => match collRun x with
          | none => s
          | some r =>
            if r.phase != 2 || x.phase != .running then s
            else if clEmpty x then clDone s d
            else if clTree x then clTreeStep s d
            else clDirectStep s d

/-! Arrivals (R258 to R261, R271). -/

/-- A mismatch found in the data (R259): the verdict goes up and down, and the member ends. -/
def clMismatch (s : State) (x : Desc) (m level : Nat) : State :=
  clFail (clTell s x none level (.verdictMismatch m)) x.id stCollMismatch (some (m, level)) {}

/-- A participant's signature or report is heard (R258). -/
def clHear (s : State) (x : Desc) (c level : Nat) (bad : Option Nat) : State :=
  clUpd s x.id fun r =>
    let worse : Bool := match bad, r.bad with
      | some m, some b => m < b
      | some _, none => true
      | none, _ => false
    { r with
      heard := (c, bad) :: r.heard.filter fun h => h.1 != c
      bad := if worse then bad else r.bad
      cause := if worse then bad.map fun m => (m, level) else r.cause }

/-- A COLL_CTL or COLL_DATA of the active collective. -/
def clTake (s : State) (x : Desc) (r : ClRun) (k : Packet) : State :=
  let e := clEntry x
  let i := clIndex x
  let from' := clMember x k.src
  let sender := from'.getD 0
  let stage (key first : Nat) : State := clUpd s x.id fun r => { r with
    staged := (key, first, k.payload) :: r.staged.filter fun p => !(p.1 == key && p.2.1 == first) }
  match k.coll with
  | .signature sig => clHear s x sender k.collLevel (if sig = r.sig then none else some sender)
  | .mismatch m => clHear s x sender k.collLevel (some m)
  | .verdictClear => clClear s x
  | .verdictMismatch m =>
    clFail (clTell s x from' k.collLevel k.coll) x.id stCollMismatch (some (m, k.collLevel)) {}
  | .verdictAbort m => clFail (clTell s x from' k.collLevel k.coll) x.id stCollAborted (some (m, k.collLevel)) {}
  | .credit n => clUpd s x.id fun r => { r with credits := r.credits + n }
  | .chunk first sig =>
    -- a chunk from the switch of a unit that the member roots: only a combined one is taken (R254, R277)
    let switch := (rootLevels e i).find? fun l => grpSwitch e l && k.src == switchId e i l
    match switch with
    | some l =>
      if !k.ordered then clFail s x.id stCollOrder (some (i, l)) {}
      else if sig != r.sig then clMismatch s x i l
      else if r.switched.contains (first, l) then stage (switchKey l) first
      else s
    | none =>
      if sig != r.sig then clMismatch s x sender k.collLevel
      else if k.vc = 3 then stage sender first
      else clResult s x.id first k.payload
  | .none => s

/-- The collective part of a COLL_WRITE of the active collective: its signature, and an ALLTOALL slot. -/
def clTakeWrite (s : State) (x : Desc) (r : ClRun) (k : Packet) (performed : Bool) : State :=
  let m := bitsOf 17 0 (fieldAt k.body 24 4)
  if fieldAt k.body 16 8 != r.sig.toNat then (if clFast x then clMismatch s x m 7 else s)
  else if clOp x != 5 then
    -- what the destination receives (R252)
    if performed then clUpd s x.id fun r => { r with nonfinite := r.nonfinite || bytesNonfinite (clType x) k.payload } else s
  else if bitOf 4 (fieldAt k.body 2 1) then slotHeader s x.id m (fieldAt k.body 4 4)
  else if performed then slotBytes s x.id m k.payload.length
  else s

/-- An arrival of the active collective handled, and the collective's progress after it. -/
def clArrive (s : State) (d : Nat) (k : Packet) (performed : Bool) : State :=
  match descGet s d with
  | none => s
  | some x => match collRun x with
    | none => s
    | some r =>
      if x.phase != .running then s
      else
        let s := clUpd s d fun r => { r with lastArrival := s.osc }
        clStep (if k.type = 0x05 then clTakeWrite s x r k performed else clTake s x r k) d

/-- How R260 sorts an arriving packet. -/
inductive Sorted where
  | active (d : Nat)
  | next
  | refuse
  | stale
deriving DecidableEq, Repr

/-- The sequence number of a collective packet. -/
def packetSeq (k : Packet) : Dword := if k.type = 0x05 then BitVec.ofNat 64 (fieldAt k.body 8 8) else k.collSeq

/-- Control packets held as next over all groups (R260). -/
def heldControl (s : State) : Nat := (s.cle.map fun g => (g.held.filter fun k => k.type != 0x05).length).foldl (· + ·) 0

/-- R260, by sequence number. -/
def clSort (s : State) (g : ClGroup) (k : Packet) : Sorted :=
  let q := packetSeq k
  let room := k.type == 0x05 || heldControl s < 1024
  match (grpActive s g.group).bind fun d => (collRun d).map fun r => (d.id, r.seq) with
  | some (d, a) =>
    if q = a then .active d
    else if q < a then .stale
    else if q = a + 1 && room then .next
    else .refuse
  | none =>
    let done := match g.lastSeq with
      | some l => decide (q ≤ l)
      | none => false
    if done then .stale
    else if (g.next.all fun n => n == q) && room then .next
    else .refuse

/-- A packet held as next. -/
def clHold (s : State) (g : ClGroup) (k : Packet) : State :=
  grpUpd s g.group fun x => { x with next := some (packetSeq k), held := x.held ++ [k] }

/-- A packet of a later sequence, or one that finds the store full, is refused, counted, and answered with RETRY
(R260, R283). -/
def clRefuse (s : State) (k : Packet) : State :=
  answerRetry (regCount (claimEntry s 0 0 k).2 0xA00030) k

/-- A control or data packet of a collective (R258 to R260). -/
def clPacket (s : State) (k : Packet) : State :=
  match grpGet s k.collGroup with
  | none => claimResv s 0 k
  | some g => match clSort s g k with
    | .active d => clArrive (claimResv s 0 k) d k true
    | .next =>
      let c := claimEntry s 0 (1024 - heldControl s) k
      if c.1 then clHold c.2 g k else answerRetry (regCount c.2 0xA00030) k
    | .refuse => clRefuse s k
    | .stale => regCount (claimResv s 0 k) 0xA00034

/-- R253, R254. A collective chunk. -/
def execCollData (port : Nat) (k : Packet) (s : State) : Result :=
  .next (onPacket s port 0x20 k fun s => clPacket s k)

/-- R258 to R261. A signature, verdict, abort or credit. -/
def execCollCtl (port : Nat) (k : Packet) (s : State) : Result :=
  .next (onPacket s port 0x21 k fun s => clPacket s k)

/-- Where ALLTOALL data of member `m` goes at its receiver: into the member's slot at DESC.dst, as far into it as the
packet's address says, or after what has come from it when that names no place in the slot (assumption 109). -/
def clSlotPlace (x : Desc) (r : ClRun) (k : Packet) : Nat :=
  let m := bitsOf 17 0 (fieldAt k.body 24 4)
  let base := offsetOf (clDst x) + m * clSlot x
  if base ≤ k.addr && k.addr + k.payload.length ≤ base + clSlot x then k.addr
  else base + ((r.received.find? fun p => p.1 == m).map (·.2)).getD 0

/-- The write of a COLL_WRITE, or the answer to its header. -/
def collWriteAccess (s : State) (port : Nat) (k : Packet) (owner : Option Nat) : State × Bool :=
  if k.payload.isEmpty then (answerPacket s k (.ok []), true)
  else
    let a := packetAccess s port k .write
    let place : Nat := match owner.bind (descGet s) with
      | some x => (match collRun x with
        | some r => if clOp x = 5 then clSlotPlace x r k else k.addr
        | none => k.addr)
      | none => k.addr
    let a := { a with addr := ownAddr s place }
    let no := !inService s a || ((mapRefusal s a).orElse fun _ => protCheck s a.src a.addr a.len .write).isSome
      || (spmRefusal s a).isSome
    (arriveFor s owner a, !no)

/-- R271. A direct collective write: sorted, compared, and performed as a write in every respect. -/
def execCollWrite (port : Nat) (k : Packet) (s : State) : Result :=
  .next (onPacket s port 0x05 k fun s =>
    let g := bitsOf 11 0 (fieldAt k.body 0 2)
    if !serving s then answerPacket s k (.refused reasonUnmapped)
    else match grpGet s g with
    | none =>
      answerPacket (noteRefusal (claimResv s 0 k) false k.src (ownAddr s k.addr) reasonDenied) k (.refused reasonDenied)
    | some x => match clSort s x k with
      | .active d =>
        let w := collWriteAccess (claimResv s 0 k) port k (some d)
        clArrive w.1 d k w.2
      | .next =>
        let w := collWriteAccess (claimResv s 0 k) port k none
        if w.2 then clHold w.1 x k else w.1
      | .refuse => clRefuse s k
      | .stale =>
        let s := regCount (claimResv s 0 k) 0xA00034
        if k.dest ≥ mcastBase then answerMulticast s k else s)

/-! Start (R248, R260, R264). -/

/-- Collectives active at once (R264). -/
def clActive (s : State) : Nat := (s.descs.filter fun d => d.phase == .running && (collRun d).isSome).length

/-- The destinations of a direct collective and of the one before it on the group, where they overlap (R255). -/
def clOverlaps (x : Desc) (g : ClGroup) : List (Nat × Nat) :=
  let ws := clWrites x
  if clTree x then []
  else
    let hit := g.lastDst.filter fun a => ws.any fun b => overlap a.1 a.2 b.1 b.2
    if hit.isEmpty then [] else g.lastDst ++ ws

/-- A collective starts on its loaded group: held arrivals of its sequence are taken, and its own packets go
out.  A descriptor whose group is unloaded while it waits goes on waiting until the group is loaded again (R246; DESIGN
CHOICE, assumption 176). -/
def clBegin (s : State) (d : Nat) : State :=
  match descGet s d with
  | none => s
  | some x => match grpGet s (clGroup x) with
    | none => s
    | some g =>
      let seq := BitVec.ofNat 64 (clSeq x)
      let e := clEntry x
      let bytes := clCount x * clBytes (clType x)
      let expect := match clOp x with
        | 2 => clMembers x * bytes
        | 3 => bytes
        | _ => 0
      let signs := !clFast x || clEmpty x
      let run : ClRun := { group := g.group, seq := seq, sig := clSignature x, phase := if signs then 1 else 2
                           target := g.base + BitVec.ofNat 64 expect, lastArrival := s.osc
                           overlaps := clOverlaps x g }
      let mine := g.held.filter fun k => packetSeq k == seq
      let old := g.held.filter fun k => packetSeq k < seq
      let later := g.held.filter fun k => seq < packetSeq k
      let s := grpUpd s g.group fun x => { x with
        lastSeq := some seq, held := later, next := if later.isEmpty then none else x.next }
      let s := old.foldl (fun s _ => regCount s 0xA00034) s
      let s := descUpd s d fun x => { x with phase := .running, engine := .coll run }
      -- the staging area's contents are the model's own business: its layout is open (assumption 15)
      let roots := clTree x && !clEmpty x && !(rootLevels e (clIndex x)).isEmpty
      let area := (offsetOf (grpStage e), 1024 * grpStageKib e)
      if roots && heldOver s area.1 area.2 then
        clFail (noteRefusal s true x.src (grpStage e) reasonHeld) d stRangeHeld none { addr := BitVec.ofNat 64 (grpStage e), info0 := 5 }
      else
        let s := if roots then spmHavoc s area.1 area.2 else s
        let s := match roots, chunkSlots s e with
          | true, some n => (treeParts e (clIndex x)).foldl (fun s c => clCtl s x false c.1 c.2 (.credit n)) s
          | _, _ => s
        clStep (mine.foldl (fun s k => clArrive s d k true) s) d

/-- The source of a collective. -/
def clReads (d : Desc) : List (Nat × Nat) :=
  let n := clCount d * clBytes (clType d)
  if clInsn d then []
  else match clOp d with
    | 0 | 2 => [(clSrc d, n)]
    | 1 => [(clSrc d, clMembers d * n)]
    | 3 => if clRoot d = clIndex d then [(clSrc d, n)] else []
    | 5 => [(clSrc d, ceilDiv (4 * clMembers d) 128 * 128 + clCount d)]
    | _ => []

/-- The tables that validation reads for a collective: its group entry and the member-table entries it needs (R243). -/
def clTables (s : State) (x : Desc) : List (Nat × Nat) :=
  if clInsn x then []
  else (grpAddr s (clGroup x), 64) :: (clTable x).map fun p => (grpTable (clEntry x) + 4 * p.1, 4)

/-- R248. A COLL descriptor starts its collective on the loaded group, or goes on with it. -/
def execColl (d : Nat) (s : State) : Result :=
  .next <| whenLive s fun s => match descGet s d with
    | none => s
    | some x =>
      if dop x != 0x40 then s
      else if x.phase = .running then clStep s d
      else if mayStart s x && (grpHolder s (clGroup x)).isNone && clActive s < 256
          && firstOf s x (fun y => dop y == 0x40 && clGroup y == clGroup x) then
        clBegin (takeHolds s d (clReads x ++ clTables s x)) d
      else s

/-- R261. CLE_TIMEOUT has passed with no arrival. -/
def execCollTimeout (d : Nat) (s : State) : Result :=
  .next <| whenLive s fun s => match descGet s d with
    | none => s
    | some x => match collRun x with
      | none => s
      | some r =>
        let lim := regGet s 0xA0001C
        if lim = 0 || x.phase != .running then s
        else clFail { s with osc := max s.osc (r.lastArrival + lim) } d stCollTimeout none {}

/-! Requests without a response (R287). -/

/-- R287. A request has had no response for FEP_RSP_TIMEOUT: it completes with UNREACHABLE, and is discarded if it is
still queued.  A collective packet, which has no response, is settled when its link has acknowledged it, and
otherwise ends its collective (R261). -/
def execRspTimeout (tag : Nat) (s : State) : Result :=
  .next <| whenLive s fun s =>
    let lim := regGet s 0x900030
    match s.fep.reqs.find? fun r => r.tag == tag && r.retryAt.isNone with
    | none => s
    | some r =>
      if lim = 0 then s
      else
        let s := { s with osc := max s.osc (r.since + lim) }
        let its (k : Packet) : Bool := k.type == r.packet.type && k.tag == tag
        let clean (c : Port) : Port := { c with
          queue := (c.queue.filter fun q => !(its q.packet && q.sentFlits == 0)).map fun q =>
            if its q.packet then { q with settled := true } else q
          sent := c.sent.map fun f => if its f.packet then { f with settled := true } else f }
        if !isRequest r.packet then
          if r.delivered then
            fepRetryUnrouted (dropReq { s with fep := { s.fep with ports := s.fep.ports.map clean } } tag)
          else endReq { s with fep := { s.fep with ports := s.fep.ports.map clean } } r .unreachable
        else
          -- of one that has left, a response may still come
          let left := decide (r.packet.dest < mcastBase)
            && s.fep.ports.all fun c => (clean c).queue.length == c.queue.length
          let s := { s with fep := { s.fep with ports := s.fep.ports.map clean
                                                late := if left then s.fep.late ++ [tag] else s.fep.late } }
          endReq (regCount s 0x900060) r .unreachable

end Sys2Proof.Machine
end

