-- ==== Sys2Proof/Machine/Wait.lean ====
section
/-! DEFINITION. The NOP and WAIT descriptors (R228, R231). -/
namespace Sys2Proof.Machine

/-- R228. A NOP descriptor does nothing and has completed with success. -/
def execNopDesc (d : Nat) (s : State) : Result :=
  .next <| whenLive s fun s => match descGet s d with
    | some x => if mayStart s x && dop x == 0x01 then endDesc s d 0 {} else s
    | none => s

/-- Fields of a WAIT (R231). -/
def waitCounter (d : Desc) : Nat := dbits d 32 2 11 0
@[inherit_doc waitCounter] def waitLimit (d : Desc) : Nat := dfield d 36 4
@[inherit_doc waitCounter] def waitTarget (d : Desc) : Dword := BitVec.ofNat 64 (dfield d 40 8)

/-- A wait ends with the counter value of its exit in its record. -/
def endWait (s : State) (d : Nat) (c status : Nat) : State :=
  endDesc (descUpd s d fun x => { x with body := toLe 8 (counterGet s c).toNat }) d status {}

/-- R231. A WAIT takes an entry of the wait table and tests its condition. -/
def execWaitDesc (d : Nat) (s : State) : Result :=
  .next <| whenLive s fun s => match descGet s d with
    | some x =>
      if mayStart s x && dop x == 0x02 && waitsTaken s < 2048 && firstOf s x (fun y => dop y == 0x02) then
        let s := ringSync (descUpd s d fun x => { x with phase := .running, engine := .wait s.osc })
        if reached (counterGet s (waitCounter x)) (waitTarget x) then endWait s d (waitCounter x) 0 else s
      else s
    | none => s

/-- R231. The limit of a pending wait has passed. -/
def execWaitTimeout (d : Nat) (s : State) : Result :=
  .next <| whenLive s fun s => match descGet s d with
    | some x => match x.engine with
      | .wait since =>
        if x.phase != .running || waitLimit x == 0 then s
        else endWait { s with osc := max s.osc (since + waitLimit x) } d (waitCounter x) stWaitTimeout
      | _ => s
    | none => s

end Sys2Proof.Machine
end

