-- ==== Sys2Proof/Machine/Move.lean ====
section
/-! DEFINITION. The MOVE descriptor: its rows, its pieces and its end (R168, R188, R190, R232). -/
namespace Sys2Proof.Machine

/-- Fields of a MOVE (R232). -/
def mvKind (d : Desc) : Nat := dbits d 32 1 1 0
@[inherit_doc mvKind] def mvCounted (d : Desc) : Bool := bitOf 2 (dfield d 32 1)
@[inherit_doc mvKind] def mvCounter (d : Desc) : Nat := dbits d 34 2 11 0
@[inherit_doc mvKind] def mvRowBytes (d : Desc) : Nat := dfield d 36 4
@[inherit_doc mvKind] def mvRows (d : Desc) : Nat := dbits d 40 4 24 0
@[inherit_doc mvKind] def mvLimit (d : Desc) : Nat := dfield d 44 4
@[inherit_doc mvKind] def mvDst (d : Desc) : Nat := dfield d 48 8
@[inherit_doc mvKind] def mvSrc (d : Desc) : Nat := dfield d 56 8
@[inherit_doc mvKind] def mvDstStride (d : Desc) : Int := sext 64 (dfield d 64 8)
@[inherit_doc mvKind] def mvSrcStride (d : Desc) : Int := sext 64 (dfield d 72 8)
@[inherit_doc mvKind] def mvIndex (d : Desc) : Nat := dfield d 80 8

/-- The smallest range that covers `rows` rows of `bytes` bytes: its start and length, none where it does
not fit within the 64-bit address space. -/
def rowSpan (base : Nat) (stride : Int) (rows bytes : Nat) : Option (Nat × Nat) :=
  if rows = 0 then some (base, 0)
  else
    let last : Int := stride * ((rows - 1 : Nat) : Int)
    let lo : Int := (base : Int) + min 0 last
    let hi : Int := (base : Int) + max 0 last + (bytes : Int)
    if lo < 0 || hi > (2 ^ 64 : Nat) then none else some (lo.toNat, (hi - lo).toNat)

/-- Rows a MOVE may read, and rows it may write. -/
def mvSrcRows (d : Desc) : Nat := if mvKind d = 1 then mvLimit d else mvRows d
@[inherit_doc mvSrcRows] def mvDstRows (d : Desc) : Nat := if mvKind d = 2 then mvLimit d else mvRows d

/-- The source and the destination span of a MOVE. -/
def mvSrcSpan (d : Desc) : Option (Nat × Nat) := rowSpan (mvSrc d) (mvSrcStride d) (mvSrcRows d) (mvRowBytes d)
@[inherit_doc mvSrcSpan] def mvDstSpan (d : Desc) : Option (Nat × Nat) :=
  rowSpan (mvDst d) (mvDstStride d) (mvDstRows d) (mvRowBytes d)

/-- The ranges a MOVE reads. -/
def mvReads (d : Desc) : List (Nat × Nat) :=
  (mvSrcSpan d).toList ++ (if mvKind d = 0 then [] else [(mvIndex d, 4 * mvRows d)])

/-- The address of row `i`. -/
def rowAddr (base : Nat) (stride : Int) (i : Nat) : Nat := wrapInt 64 ((base : Int) + stride * (i : Int))

/-- Bytes of the piece that starts at row byte `off`: it crosses no 4 KiB boundary of its source or its
destination, and no granule of a scratchpad destination (R168, R169). -/
def pieceLen (s : State) (d : Desc) (src dst off : Nat) : Nat :=
  let a := src + off
  let b := dst + off
  let step := if isOwn s b && inSpm s (offsetOf b) 1 then (if offsetOf b < deepBase then 512 else 256) else 4096
  min (mvRowBytes d - off) (min (4096 - a % 4096) (step - b % step))

/-- A read of a MOVE's source: scratchpad, another cluster, chip memory, or the own register window. -/
def moveRead (s : State) (d : Desc) (addr len : Nat) : State × Rd :=
  if isOwn s addr && !inSpm s (offsetOf addr) len then
    match mapRefusal s { kind := .read, addr, len } with
    | some n => (noteRefusal s true d.src addr n, .failed n)
    | none =>
      let r := regRead s (listedSource s d.src) d.src (offsetOf addr % regBase) len
      (r.2, .bytes (toLe len r.1))
  else readRange s d.id addr len

/-- A read of outside memory that has been used is forgotten. -/
def gatherForget (s : State) (owner addr len : Nat) : State :=
  { s with gathers := s.gathers.filter fun g => !(g.owner == owner && g.addr == addr && g.len == len) }

/-- The run of a MOVE changed. -/
def mvUpd (s : State) (d : Nat) (f : MvRun → MvRun) : State :=
  descUpd s d fun x => { x with engine := match x.engine with
    | .move m => .move (f m)
    | e => e }

/-- A piece's write: queued at its bank, performed in the own register or doorbell window, or sent. -/
def movePiece (s : State) (d : Desc) (dst : Nat) (bs : List Byte) : State :=
  let a : Access := { kind := .write, addr := dst, len := bs.length, data := bs, src := d.src, who := .desc d.id
                      counter := if mvCounted d then some (mvCounter d) else none }
  let own := isOwn s dst
  let n := if own then 1 else answersOf dst bs.length
  let s := mvUpd s d.id fun m => { m with
    off := m.off + bs.length, inflight := m.inflight ++ [{ addr := dst, len := bs.length, left := bs.length }] }
  let s := descUpd s d.id fun x => { x with unacked := x.unacked + n }
  if !own then (sendOutside s a false).1
  else if inSpm s (offsetOf dst) bs.length then
    bankQueue s a
  else match mapRefusal s a with
    | some r => deliver (noteRefusal s true d.src dst r) a (.refused r)
    | none => windowServe s (some d.id) a

/-- A failed read of a running descriptor (R176, R188, R189). -/
def readFails (s : State) (d addr : Nat) (r : Rd) : State :=
  match rdFault s addr r with
  | some f => endDesc s d f.1 f.2
  | none => s

/-- The row under way: its source and destination, once its index has been read and checked. -/
def moveRow (s : State) (x : Desc) (row : Nat) : State :=
  let place (s : State) (i j : Nat) : State := mvUpd s x.id fun m => { m with
    cur := some (rowAddr (mvSrc x) (mvSrcStride x) i, rowAddr (mvDst x) (mvDstStride x) j) }
  if mvKind x = 0 then place s row row
  else
    let at' := mvIndex x + 4 * row
    let r := moveRead s x at' 4
    match r.2 with
    | .bytes bs =>
      let s := gatherForget r.1 x.id at' 4
      let i := leNat bs
      if i ≥ mvLimit x then endDesc s x.id stGatherRange { addr := BitVec.ofNat 64 at', info0 := BitVec.ofNat 64 i }
      else if mvKind x = 1 then place s i row
      else place s row i
    | f => readFails r.1 x.id at' f

/-- Pieces of all moves that are outstanding at MOV (R401). -/
def movOut (s : State) : Nat :=
  (s.descs.map fun x => match x.phase, x.engine with
    | .running, .move m => m.inflight.length
    | _, _ => 0).foldl (· + ·) 0

/-- Issues rows in ascending order as pieces while fewer than MOV_CFG.PIECES are outstanding at MOV; ends the move
once every piece is acknowledged. -/
def moveStep : Nat → State → Nat → State
  | 0, s, _ => s
  | fuel + 1, s, d =>
    match descGet s d with
    | none => s
    | some x => match x.engine with
      | .move m =>
        if x.phase != .running then s
        else if m.row ≥ mvRows x then (if x.unacked = 0 then endDesc s d 0 {} else s)
        else if movOut s ≥ regBits s 0x800000 4 0 then s
        else match m.cur with
          | none =>
            let s' := moveRow s x m.row
            let found : Bool := match descGet s' d with
              | some y => (match y.engine with
                | .move n => n.cur.isSome
                | _ => false)
              | none => false
            if found then moveStep fuel s' d else s'
          | some (src, dst) =>
            if m.off ≥ mvRowBytes x then
              moveStep fuel (mvUpd s d fun m => { m with row := m.row + 1, off := 0, cur := none }) d
            else
              let n := pieceLen s x src dst m.off
              let r := moveRead s x (src + m.off) n
              match r.2 with
              | .bytes bs => moveStep fuel (movePiece (gatherForget r.1 d (src + m.off) n) x (dst + m.off) bs) d
              | f => readFails r.1 d (src + m.off) f
      | _ => s

/-- R232. A MOVE starts, or goes on as far as its outstanding pieces and reads allow. -/
def execMoveDesc (d : Nat) (s : State) : Result :=
  .next <| whenLive s fun s => match descGet s d with
    | none => s
    | some x =>
      if dop x != 0x30 then s
      else if x.phase = .running then moveStep 128 s d
      else if mayStart s x then
        let s := takeHolds s d (mvReads x)
        moveStep 128 (descUpd s d fun x => { x with phase := .running, engine := .move {}, runs := 1 }) d
      else s

/-- A failed MOVE leaves the destination blocks under way undefined (R190): what it wrote of them, and the rest
of its row in them, but for writes whose outcome R176 or R183 states. -/
def moveAftermath (s : State) (d : Desc) : State :=
  match d.engine with
  | .move m =>
    let here := match m.cur with
      | some (_, dst) => if m.off < mvRowBytes d then [dst + m.off] else []
      | none => []
    let blocks := (m.inflight.map fun p => p.addr) ++ here
    blocks.foldl (fun s a =>
      if !isOwn s a then s
      else
        let b := blockOf (offsetOf a)
        let cut (r : Nat × Nat) : Nat × Nat :=
          let lo := max r.1 b
          (lo, min (r.1 + r.2) (b + 4096) - lo)
        let row := match m.cur with
          | some (_, dst) => if isOwn s dst then [(offsetOf dst, mvRowBytes d)] else []
          | none => []
        (m.spared.foldl rangesLess ((d.wrote ++ row).map cut)).foldl (fun s r =>
          if r.2 = 0 || !inSpm s r.1 r.2 then s else spmHavoc s r.1 r.2) s) s
  | _ => s

/-- Every destination row of a MOVE in the own scratchpad undefined (R323). -/
def moveHavoc (s : State) (d : Desc) : State :=
  (List.range (mvDstRows d)).foldl (fun s i =>
    let a := rowAddr (mvDst d) (mvDstStride d) i
    if isOwn s a && inSpm s (offsetOf a) (mvRowBytes d) then spmHavoc s (offsetOf a) (mvRowBytes d) else s) s

end Sys2Proof.Machine
end

