-- ==== Sys2Proof/Machine/TaskCore.lean ====
section
/-! DEFINITION. The scalar instructions of a task-core thread: control, arithmetic, predicates, branches and
system registers (R128 to R131, R136). -/
namespace Sys2Proof.Machine

/-! Issue (R124, R130). -/

/-- Whether the instruction word at a PC has bad parity (R135). -/
def fetchBad (g : Group) (pc : Nat) : Bool := g.storeBad.contains (pc / 4)

/-- Issues the instruction at a thread's PC when it is `m`: its effect where its guard holds, else only the
next PC (R128, R130).  An instruction that holds its thread goes on where `held` accepts the hold and the
group's state. -/
def onHeld (s : State) (t : Nat) (m : Mn) (held : Group → Hold → Bool)
    (f : State → Group → Thread → Word → State) : State :=
  whenLive s fun s => match threadAt s t with
    | some (g, x) =>
      if mayIssue s g x || (live s && !x.ended && held g x.hold) then
        match fetchWord g x with
        | some w =>
          if insnOf w = some m then
            if fetchBad g x.pc.toNat then raiseAt s t 0x05 x.pc.toNat
            else if guardOk x w then f s g x w
            else threadUpd s t nextPc
          else s
        | none => s
      else s
    | none => s

/-- An instruction that holds its thread in no way of its own. -/
def onInsn (s : State) (t : Nat) (m : Mn) (f : State → Group → Thread → Word → State) : State :=
  onHeld s t m (fun _ _ => false) f

/-- ILLEGAL (R135). -/
def raiseIllegal (s : State) (t : Nat) (w : Word) : State := raiseFault s t 0x01 (w.setWidth 64) 0

/-- The thread writes `d` and goes on. -/
def retire (s : State) (t d : Nat) (v : Dword) : State := threadUpd s t fun x => nextPc (sSet x d v)

/-- An instruction `d ← a op b`. -/
def alu (s : State) (t : Nat) (m : Mn) (f : Dword → Dword → Dword) : Result :=
  .next (onInsn s t m fun s _ x w => retire s t (iD w) (f (sGet x (iA w)) (sGet x (iB w))))

/-- An instruction `d ← a op imm12`. -/
def aluImm (s : State) (t : Nat) (m : Mn) (f : Dword → Dword → Dword) : Result :=
  .next (onInsn s t m fun s _ x w => retire s t (iD w) (f (sGet x (iA w)) (iImm12 w)))

/-- An instruction `pd ← a relation b`. -/
def predCmp (s : State) (t : Nat) (m : Mn) (f : Dword → Dword → Bool) : Result :=
  .next (onInsn s t m fun s _ x w =>
    threadUpd s t fun _ => nextPc (pSet x (bitsOf 21 19 w.toNat) (f (sGet x (iA w)) (sGet x (iB w)))))

/-- An instruction `pd ← pa op pb`. -/
def predOp (s : State) (t : Nat) (m : Mn) (f : Bool → Bool → Bool) : Result :=
  .next (onInsn s t m fun s _ x w =>
    threadUpd s t fun _ => nextPc (pSet x (bitsOf 21 19 w.toNat) (f (pGet x (iA w % 8)) (pGet x (iB w % 8)))))

/-- A shift amount: the low six bits (R128). -/
def shamt (b : Dword) : Nat := b.toNat % 64

/-! Control (R131, R136). -/

/-- R131. `nop`. -/
def execNopInstr (t : Nat) (s : State) : Result := .next (onInsn s t .nop fun s _ _ _ => threadUpd s t nextPc)

/-- The threads of a group that wait at `gbar` are released once all four have reached it or ended (R161). -/
def gbarCheck (s : State) (gi : Nat) : State :=
  match s.groups[gi]? with
  | none => s
  | some g =>
    if g.threads.all fun x => x.ended || x.hold == .gbar then
      groupUpd s gi fun g => { g with threads := g.threads.map fun x => if x.hold = .gbar then nextPc x else x }
    else s

/-- R131, R132. `exit`: waits for the thread's writes; a deferred refusal faults, otherwise the thread ends. -/
def execExitThread (t : Nat) (s : State) : Result :=
  .next (onInsn s t .exit fun s _ x w =>
    if x.unacked != 0 then s
    else match x.deferred with
      | some (c, a) => raiseFault (threadUpd s t fun x => { x with deferred := none }) t c a 0
      | none => gbarCheck (threadUpd s t fun x =>
          { x with ended := true, exitVal := (sGet x (iA w)).setWidth 16 }) (t / 4))

/-- R136. `fret`. -/
def execFret (t : Nat) (s : State) : Result :=
  .next (onInsn s t .fret fun s _ _ _ => threadUpd s t fun x => { x with hmode := false, pc := x.fpc })

/-- R131. `brk`: stops the thread for the debug logic when debug is open, else as `nop`. -/
def execBrk (t : Nat) (s : State) : Result :=
  .next (onInsn s t .brk fun s _ _ _ =>
    if debugOpen s then threadUpd s t fun x => { nextPc x with hold := .debug } else threadUpd s t nextPc)

/-! Arithmetic (R128, R131). -/

/-- R131. `add`. -/
def execAddOp (t : Nat) (s : State) : Result := alu s t .add fun a b => a + b
/-- R131. `sub`. -/
def execSubOp (t : Nat) (s : State) : Result := alu s t .sub fun a b => a - b
/-- R131. `and`. -/
def execAndOp (t : Nat) (s : State) : Result := alu s t .and fun a b => a &&& b
/-- R131. `or`. -/
def execOrOp (t : Nat) (s : State) : Result := alu s t .or fun a b => a ||| b
/-- R131. `xor`. -/
def execXorOp (t : Nat) (s : State) : Result := alu s t .xor fun a b => a ^^^ b
/-- R131. `shl`. -/
def execShl (t : Nat) (s : State) : Result := alu s t .shl fun a b => a <<< shamt b
/-- R131. `shr`. -/
def execShr (t : Nat) (s : State) : Result := alu s t .shr fun a b => a >>> shamt b
/-- R131. `sra`. -/
def execSra (t : Nat) (s : State) : Result := alu s t .sra fun a b => a.sshiftRight (shamt b)
/-- R131. `mul`. -/
def execMulOp (t : Nat) (s : State) : Result := alu s t .mul fun a b => a * b
/-- R131. `mulh`. -/
def execMulh (t : Nat) (s : State) : Result :=
  alu s t .mulh fun a b => BitVec.ofInt 64 ((a.toInt * b.toInt) / 2 ^ 64)
/-- R131. `mulhu`. -/
def execMulhu (t : Nat) (s : State) : Result := alu s t .mulhu fun a b => BitVec.ofNat 64 (a.toNat * b.toNat / 2 ^ 64)
/-- R131. `min`. -/
def execMinOp (t : Nat) (s : State) : Result := alu s t .min fun a b => if a.slt b then a else b
/-- R131. `max`. -/
def execMaxOp (t : Nat) (s : State) : Result := alu s t .max fun a b => if a.slt b then b else a
/-- R131. `minu`. -/
def execMinu (t : Nat) (s : State) : Result := alu s t .minu fun a b => if a < b then a else b
/-- R131. `maxu`. -/
def execMaxu (t : Nat) (s : State) : Result := alu s t .maxu fun a b => if a < b then b else a
/-- R131. `addi`. -/
def execAddi (t : Nat) (s : State) : Result := aluImm s t .addi fun a b => a + b
/-- R131. `andi`. -/
def execAndi (t : Nat) (s : State) : Result := aluImm s t .andi fun a b => a &&& b
/-- R131. `ori`. -/
def execOri (t : Nat) (s : State) : Result := aluImm s t .ori fun a b => a ||| b
/-- R131. `xori`. -/
def execXori (t : Nat) (s : State) : Result := aluImm s t .xori fun a b => a ^^^ b
/-- R131. `shli`. -/
def execShli (t : Nat) (s : State) : Result := aluImm s t .shli fun a b => a <<< shamt b
/-- R131. `shri`. -/
def execShri (t : Nat) (s : State) : Result := aluImm s t .shri fun a b => a >>> shamt b
/-- R131. `srai`. -/
def execSrai (t : Nat) (s : State) : Result := aluImm s t .srai fun a b => a.sshiftRight (shamt b)
/-- R131. `li`. -/
def execLi (t : Nat) (s : State) : Result := .next (onInsn s t .li fun s _ _ w => retire s t (iD w) (iImm17 w))
/-- R131. `uins`. -/
def execUins (t : Nat) (s : State) : Result :=
  .next (onInsn s t .uins fun s _ x w =>
    retire s t (iD w) ((sGet x (iD w) <<< 17) ||| BitVec.ofNat 64 (bitsOf 16 0 w.toNat)))

/-! Predicates (R131). -/

/-- R131. `peq`. -/
def execPeq (t : Nat) (s : State) : Result := predCmp s t .peq fun a b => a == b
/-- R131. `pne`. -/
def execPne (t : Nat) (s : State) : Result := predCmp s t .pne fun a b => a != b
/-- R131. `plt`. -/
def execPlt (t : Nat) (s : State) : Result := predCmp s t .plt fun a b => a.slt b
/-- R131. `pltu`. -/
def execPltu (t : Nat) (s : State) : Result := predCmp s t .pltu fun a b => a.ult b
/-- R131. `pge`. -/
def execPge (t : Nat) (s : State) : Result := predCmp s t .pge fun a b => !a.slt b
/-- R131. `pgeu`. -/
def execPgeu (t : Nat) (s : State) : Result := predCmp s t .pgeu fun a b => !a.ult b
/-- R131. `pand`. -/
def execPand (t : Nat) (s : State) : Result := predOp s t .pand fun a b => a && b
/-- R131. `por`. -/
def execPor (t : Nat) (s : State) : Result := predOp s t .por fun a b => a || b
/-- R131. `pxor`. -/
def execPxor (t : Nat) (s : State) : Result := predOp s t .pxor fun a b => a != b

/-! Branches and jumps (R131). -/

/-- A jump that links `PC + 4` into `d`. -/
def jumpLink (s : State) (t d : Nat) (target : Dword) : State :=
  threadUpd s t fun x => { sSet x d (x.pc + 4) with pc := target }

/-- R131. `jalr`. -/
def execJalr (t : Nat) (s : State) : Result :=
  .next (onInsn s t .jalr fun s _ x w => jumpLink s t (iD w) (sGet x (iA w)))
/-- R131. `br`. -/
def execBr (t : Nat) (s : State) : Result :=
  .next (onInsn s t .br fun s _ _ w => threadUpd s t fun x => { x with pc := x.pc + 4 * iOff22 w })
/-- R131. `jal`; its offset is signed (assumption 38). -/
def execJal (t : Nat) (s : State) : Result :=
  .next (onInsn s t .jal fun s _ x w => jumpLink s t (iD w) (x.pc + 4 * iImm17 w))

/-! System registers (R129). -/

/-- The value of a system register; none for a number that R129 does not list. -/
def sysGet (s : State) (t : Nat) (g : Group) (x : Thread) (n : Nat) : Option Dword :=
  match n with
  | 0x000 => some (BitVec.ofNat 64 (t % 8 + 8 * (t / 4 % 2) + 16 * (t / 8) + 256 * ownId s))
  | 0x001 => some (BitVec.ofNat 64 s.osc)
  | 0x010 => some (g.fhandler.setWidth 64)
  | 0x011 => some x.fpc
  | 0x012 => some (x.fcause.setWidth 64)
  | 0x013 => some x.finfo0
  | 0x014 => some x.finfo1
  | 0x020 => some (g.tstart.setWidth 64)
  | 0x021 => some (BitVec.ofNat 64 (leNat (g.tuse.map (BitVec.ofNat 8))))
  | 0x022 => some (g.tstat.setWidth 64)
  | 0x023 => some g.tstartAddr
  | 0x024 => some (g.tstartStride.setWidth 64)
  | 0x030 => some (x.cstatus.setWidth 64)
  | 0x031 => some (match g.quad with
      | some q => BitVec.ofNat 64 (16 + q)
      | none => 0)
  | _ => if 0x028 ≤ n && n ≤ 0x02F then some ((tcfgOf g (n - 0x028)).setWidth 64) else none

/-- R129. `sysr`. -/
def execSysr (t : Nat) (s : State) : Result :=
  .next (onInsn s t .sysr fun s g x w =>
    match sysGet s t g x (bitsOf 11 0 w.toNat) with
    | some v => retire s t (iD w) v
    | none => raiseIllegal s t w)

/-- R129. `sysw`: FHANDLER, FPC and TSTAT are writable; anything else is ILLEGAL. -/
def execSysw (t : Nat) (s : State) : Result :=
  .next (onInsn s t .sysw fun s _ x w =>
    let v := sGet x (iA w)
    match bitsOf 11 0 w.toNat with
    | 0x010 => threadUpd (groupUpd s (t / 4) fun g => { g with fhandler := v.setWidth 32 }) t nextPc
    | 0x011 => threadUpd s t fun x => nextPc { x with fpc := v }
    | 0x022 => threadUpd (groupUpd s (t / 4) fun g => { g with tstat := g.tstat &&& ~~~ (v.setWidth 8) }) t nextPc
    | _ => raiseIllegal s t w)

/-! Words that are no instruction (R130). -/

/-- R130. A word with an unlisted OP or FN or a non-zero unused bit raises ILLEGAL. -/
def execIllegal (t : Nat) (s : State) : Result :=
  .next <| whenLive s fun s => match threadAt s t with
    | some (g, x) =>
      if mayIssue s g x then
        match fetchWord g x with
        | some w =>
          if insnOf w != none then s
          else if fetchBad g x.pc.toNat then raiseAt s t 0x05 x.pc.toNat
          else raiseIllegal s t w
        | none => s
      else s
    | none => s

/-- R130. A PC not below the loaded image length raises PC_RANGE. -/
def execPcRange (t : Nat) (s : State) : Result :=
  .next <| whenLive s fun s => match threadAt s t with
    | some (g, x) =>
      if mayIssue s g x && (fetchWord g x).isNone then raiseAt s t 0x03 x.pc.toNat else s
    | none => s

end Sys2Proof.Machine
end

