-- ==== Sys2Proof/Machine/Memory.lean ====
section
/-! DEFINITION. The memory instructions of a task-core thread: loads, stores and the L1 cache (R132, R133,
R203, R204), fences (R202), counter waits (R159), barriers (R161), counted writes (R162) and atomics (R206). -/
namespace Sys2Proof.Machine

/-! The L1 cache of a core (R133). -/

/-- The core of a thread. -/
def coreOf (t : Nat) : Nat := t / 8

/-- The line that holds an address. -/
def lineOf (a : Nat) : Nat := a / 128 * 128

/-- Whether reads go through the L1 (TC_CFG.L1_EN, R401). -/
def l1On (s : State) : Bool := bitOf 0 (regGet s 0x600000)

/-- A core's line with good parity, if it is present and reads go through the L1. -/
def l1Find (s : State) (core line : Nat) : Option Line :=
  if l1On s then s.l1.find? fun l => l.core == core && l.addr == line && !l.bad else none

/-- A line of bad parity that a read meets is dropped and reported; the read fetches it again (R133, R310). -/
def l1Check (s : State) (core line : Nat) : State :=
  let bad (l : Line) : Bool := l.core == core && l.addr == line && l.bad
  if l1On s && s.l1.any bad then
    raiseErr { s with l1 := s.l1.filter fun l => !bad l }
      { code := 0x0103, cls := 1, internal := true, resource := resource 7 core, addr := line }
  else s

/-- A core's lines that overlap a range, removed. -/
def l1Drop (s : State) (core a len : Nat) : State :=
  { s with l1 := s.l1.filter fun l => !(l.core == core && overlap l.addr 128 a len) }

/-- A line allocated; a full set gives up one of its eight ways, which one is open (R133; assumption 39);
nothing is allocated while L1_EN is clear (R401). -/
def l1Alloc (s : State) (core line : Nat) (bs : List Byte) : State :=
  if !l1On s then s else
  let s := l1Drop s core line 128
  let same (l : Line) : Bool := l.core == core && l.addr / 128 % 128 == line / 128 % 128
  let n := (s.l1.filter same).length
  let s :=
    if n < 8 then s
    else
      let r := draw s 1
      let out := (s.l1.filter same)[(Config.freeWord r.1).toNat % n]?
      { r.2 with l1 := r.2.l1.filter fun l => some l != out }
  { s with l1 := s.l1 ++ [{ core := core, addr := line, bytes := bs }] }

/-- A store's bytes in the line of the own core, when it is present (R204). -/
def l1Store (s : State) (core a : Nat) (bs : List Byte) : State :=
  { s with l1 := s.l1.map fun l =>
    if l.core == core && overlap l.addr 128 a bs.length then
      { l with bytes := (List.range 128).map fun i =>
          if a ≤ l.addr + i && l.addr + i < a + bs.length then (bs[l.addr + i - a]?).getD 0 else (l.bytes[i]?).getD 0 }
    else l }

/-! Accesses of threads (R132, R166, R171). -/

/-- The source of a launch's accesses. -/
def launchSrc (g : Group) : Nat :=
  match g.launch with
  | some l => l.src
  | none => 0

/-- What refuses a thread's access at issue (R166 to R168, R171, R172). -/
def issueRefusal (s : State) (a : Access) : Option Nat :=
  if isChip a.addr then protCheck s a.src a.addr a.len a.kind
  else if bitsOf 62 59 a.addr != 0 then some reasonUnmapped
  else if isOwn s a.addr then (mapRefusal s a).orElse fun _ => protCheck s a.src a.addr a.len a.kind
  else protCheck s a.src a.addr a.len a.kind

/-- A thread's access leaves for its destination: a scratchpad bank, a register or the doorbell window, chip
memory, or another cluster. -/
def threadAccess (s : State) (a : Access) : State :=
  if isChip a.addr then (cmpSend s a).1
  else if isOwn s a.addr then
    if inSpm s (offsetOf a.addr) a.len then bankQueue s a
    else windowServe s none a
  else fepRequest s a false

/-- An access that is not naturally aligned or is refused at issue faults; otherwise `f` makes it. -/
def checked (s : State) (t : Nat) (a : Access) (f : State → State) : State :=
  if a.addr % a.len != 0 then raiseAt s t 0x02 a.addr
  else match issueRefusal s a with
    | some n => raiseAt (ordNoteRefused (noteRefusal s true a.src a.addr n) a) t 0x04 a.addr
    | none => f s

/-- A thread is held by a read of memory, which chip memory serves through the L1 (R132, R133). -/
def threadRead (s : State) (t : Nat) (g : Group) (addr len : Nat) (h : Hold) : State :=
  let a : Access := { kind := .read, addr := addr, len := len, src := launchSrc g, who := .load t }
  checked s t a fun s =>
    let s := threadUpd s t fun x => { x with hold := h, ret := none, noAlloc := false }
    if isChip addr then
      let s := l1Check s (coreOf t) (lineOf addr)
      match l1Find s (coreOf t) (lineOf addr) with
      | some l => threadUpd s t fun x => { x with ret := some (l.bytes, 0), noAlloc := true }
      | none => threadAccess s { a with addr := lineOf addr, len := 128 }
    else threadAccess s a

/-- The bytes that a thread's read brought: a chip-memory read brings a line, which may be allocated. -/
def takeRead (s : State) (t : Nat) (x : Thread) (addr len : Nat) (bs : List Byte) : State × List Byte :=
  if isChip addr then
    (if x.noAlloc then s else l1Alloc s (coreOf t) (lineOf addr) bs, (bs.drop (addr % 128)).take len)
  else (s, bs)

/-- A load issues (R132). -/
def loadInsn (s : State) (t : Nat) (m : Mn) (bytes : Nat) (signed : Bool) : Result :=
  .next (onInsn s t m fun s g x w =>
    let addr := (sGet x (iA w) + iImm12 w).toNat
    threadRead s t g addr bytes (.load (iD w) bytes signed addr))

/-- R132. `ld.b`. -/
def execLdB (t : Nat) (s : State) : Result := loadInsn s t .ldb 1 false
/-- R132. `ld.h`. -/
def execLdH (t : Nat) (s : State) : Result := loadInsn s t .ldh 2 false
/-- R132. `ld.w`. -/
def execLdW (t : Nat) (s : State) : Result := loadInsn s t .ldw 4 false
/-- R132. `ld.d`. -/
def execLdD (t : Nat) (s : State) : Result := loadInsn s t .ldd 8 false
/-- R132. `lds.b`. -/
def execLdsB (t : Nat) (s : State) : Result := loadInsn s t .ldsb 1 true
/-- R132. `lds.h`. -/
def execLdsH (t : Nat) (s : State) : Result := loadInsn s t .ldsh 2 true
/-- R132. `lds.w`. -/
def execLdsW (t : Nat) (s : State) : Result := loadInsn s t .ldsw 4 true

/-- R132. The data of a load, or the old value of an atomic (R206), returns and the instruction retires; a
failed access faults (R135, R178). -/
def execLoadData (t : Nat) (s : State) : Result :=
  .next <| whenLive s fun s => match threadAt s t with
    | some (g, x) =>
      if g.state != 1 && g.state != 2 then s
      else match x.hold, x.ret with
        | .load d n signed addr, some (bs, 0) =>
          let r := takeRead s t x addr n bs
          let v := leNat r.2
          retire r.1 t d (if signed then BitVec.ofInt 64 (sext (8 * n) v) else BitVec.ofNat 64 v)
        | .load _ _ _ addr, some (_, c) => raiseAt s t c addr
        | .atomic d op width _, some (bs, 0) =>
          retire s t d (BitVec.ofNat 64 (leNat (bs.take ((atomicWidth op width).getD 4))))
        | .atomic _ _ _ addr, some (_, c) => raiseAt s t c addr
        | _, _ => s
    | none => s

/-! Stores (R132, R133, R162). -/

/-- A write of a thread, which retires at issue. -/
def threadWrite (s : State) (t : Nat) (g : Group) (addr : Nat) (bs : List Byte) (counter : Option Nat) : State :=
  let a : Access := { kind := .write, addr := addr, len := bs.length, data := bs, counter := counter
                      src := launchSrc g, who := .store t }
  checked s t a fun s =>
    let s := threadUpd s t fun x => { nextPc x with unacked := x.unacked + 1 }
    threadAccess (if isChip addr then l1Store s (coreOf t) addr bs else s) a

/-- A store issues. -/
def storeInsn (s : State) (t : Nat) (m : Mn) (bytes : Nat) : Result :=
  .next (onInsn s t m fun s g x w =>
    threadWrite s t g (sGet x (iA w) + iImm12 w).toNat (toLe bytes (sGet x (iD w)).toNat) none)

/-- R132. `st.b`. -/
def execStB (t : Nat) (s : State) : Result := storeInsn s t .stb 1
/-- R132. `st.h`. -/
def execStH (t : Nat) (s : State) : Result := storeInsn s t .sth 2
/-- R132. `st.w`. -/
def execStW (t : Nat) (s : State) : Result := storeInsn s t .stw 4
/-- R132. `st.d`. -/
def execStD (t : Nat) (s : State) : Result := storeInsn s t .std 8

/-- R162, R196. `st.c`: a counted 8-byte write; ILLEGAL to chip memory. -/
def execStC (t : Nat) (s : State) : Result :=
  .next (onInsn s t .stc fun s g x w =>
    let addr := (sGet x (iA w)).toNat
    if isChip addr then raiseIllegal s t w
    else threadWrite s t g addr (toLe 8 (sGet x (iD w)).toNat) (some (bitsOf 11 0 (sGet x (iB w)).toNat)))

/-! Fences, invalidation, waits and barriers. -/

/-- R202. `fence.r`: waits for the thread's writes, and reports a deferred refusal. -/
def execFenceR (t : Nat) (s : State) : Result :=
  .next (onHeld s t .fencer (fun g h => g.state == 1 && h == .fence) fun s _ x _ =>
    if x.unacked != 0 then threadUpd s t fun x => { x with hold := .fence }
    else match x.deferred with
      | some (c, a) => raiseFault (threadUpd s t fun x => { x with deferred := none }) t c a 0
      | none => threadUpd s t nextPc)

/-- A line fill in flight for a thread of a core returns its data and allocates no line in a range (R203). -/
def killFills (s : State) (core a len : Nat) : State :=
  let thread (x : Thread) : Thread :=
    match x.hold with
    | .load _ _ _ addr | .read addr => if overlap (lineOf addr) 128 a len then { x with noAlloc := true } else x
    | _ => x
  let op (o : TileOp) : TileOp := { o with fills := o.fills.filter fun l => !overlap l 128 a len }
  let kill (g : Group) : Group := { g with threads := g.threads.map thread, tq := g.tq.map op }
  groupUpd (groupUpd s (2 * core) kill) (2 * core + 1) kill

/-- R203. `acq`. -/
def execAcq (t : Nat) (s : State) : Result :=
  .next (onInsn s t .acq fun s _ x w =>
    let a := (sGet x (iA w)).toNat
    let n := (sGet x (iB w)).toNat
    threadUpd (killFills (l1Drop s (coreOf t) a n) (coreOf t) a n) t nextPc)

/-- R203. `acq.all`. -/
def execAcqAll (t : Nat) (s : State) : Result :=
  .next (onInsn s t .acqall fun s _ _ _ =>
    threadUpd (killFills (l1Drop s (coreOf t) 0 (2 ^ 64)) (coreOf t) 0 (2 ^ 64)) t nextPc)

/-- The counter and the limit of a `cwait`. -/
def cwCounter (x : Thread) (w : Word) : Nat := bitsOf 11 0 (sGet x (iA w)).toNat
@[inherit_doc cwCounter] def cwLimit (x : Thread) (w : Word) : Nat := bitsOf 63 32 (sGet x (iA w)).toNat

/-- Whether a `cwait` holds a thread of a running group. -/
def inCwait (g : Group) (h : Hold) : Bool :=
  match h with
  | .cwait _ => g.state == 1
  | _ => false

/-- R159. `cwait`: exits with the counter's value once it has reached the target. -/
def execCwait (t : Nat) (s : State) : Result :=
  .next (onHeld s t .cwait inCwait fun s _ x w =>
    let v := counterGet s (cwCounter x w)
    if reached v (sGet x (iB w)) then retire s t (iD w) v
    else match x.hold with
      | .cwait _ => s
      | _ => threadUpd s t fun x => { x with hold := .cwait s.osc })

/-- R159. The limit of a `cwait` has passed: it exits with the counter's value. -/
def execCwaitLimit (t : Nat) (s : State) : Result :=
  .next (onHeld s t .cwait inCwait fun s _ x w =>
    match x.hold with
    | .cwait since =>
      let lim := cwLimit x w
      if lim = 0 then s
      else
        let s := { s with osc := max s.osc (since + lim) }
        retire s t (iD w) (counterGet s (cwCounter x w))
    | _ => s)

/-- R161. `gbar`. -/
def execGbar (t : Nat) (s : State) : Result :=
  .next (onInsn s t .gbar fun s _ _ _ => gbarCheck (threadUpd s t fun x => { x with hold := .gbar }) (t / 4))

/-! Atomics (R162, R206 to R208). -/

/-- An atomic issues: it bypasses the L1 and invalidates its line, and holds the thread until the old value
returns. -/
def atomicInsn (s : State) (t : Nat) (m : Mn) (op : Nat) : Result :=
  .next (onInsn s t m fun s g x w =>
    let width := bitsOf 5 4 w.toNat
    let addr := (sGet x (iA w)).toNat
    match atomicWidth op width with
    | none => raiseIllegal s t w
    | some n =>
      let a : Access := { kind := .atomic, addr := addr, len := n, data := toLe n (sGet x (iB w)).toNat, op := op
                          width := width, compare := sGet x (iD w), src := launchSrc g, who := .load t }
      checked s t a fun s =>
        let s := threadUpd s t fun x => { x with hold := .atomic (iD w) op width addr, ret := none }
        threadAccess (if isChip addr then l1Drop s (coreOf t) addr n else s) a)

/-- R206. `amo.add`. -/
def execAmoAdd (t : Nat) (s : State) : Result := atomicInsn s t (.amo 0) 0
/-- R206. `amo.min`. -/
def execAmoMin (t : Nat) (s : State) : Result := atomicInsn s t (.amo 1) 1
/-- R206. `amo.max`. -/
def execAmoMax (t : Nat) (s : State) : Result := atomicInsn s t (.amo 2) 2
/-- R206. `amo.minu`. -/
def execAmoMinu (t : Nat) (s : State) : Result := atomicInsn s t (.amo 3) 3
/-- R206. `amo.maxu`. -/
def execAmoMaxu (t : Nat) (s : State) : Result := atomicInsn s t (.amo 4) 4
/-- R206. `amo.swp`. -/
def execAmoSwp (t : Nat) (s : State) : Result := atomicInsn s t (.amo 5) 5
/-- R206. `amo.cas`. -/
def execAmoCas (t : Nat) (s : State) : Result := atomicInsn s t (.amo 6) 6
/-- R208. `famo.add.f32`. -/
def execFamoAddF32 (t : Nat) (s : State) : Result := atomicInsn s t .famoF32 7
/-- R208. `famo.add.bf16`. -/
def execFamoAddBf16 (t : Nat) (s : State) : Result := atomicInsn s t .famoBf16 7

end Sys2Proof.Machine
end

