-- ==== Sys2Proof/Machine/Issue.lean ====
section
/-! DEFINITION. The instructions of a task-core thread that use the engines: descriptors and tickets (R158)
and collectives (R163, R266). -/
namespace Sys2Proof.Machine

/-! Tickets (R158). -/

/-- A slot that is not pending: which of them a new ticket takes is open (assumption 40). -/
def pickSlot (s : State) (g : Group) : Option (Nat × State) :=
  let free := (List.range 16).filter fun i => match g.tickets[i]? with
    | some k => !k.pending
    | none => false
  if free.isEmpty then none
  else
    let r := draw s 1
    (free[(Config.freeWord r.1).toNat % free.length]?).map fun i => (i, r.2)

/-- A descriptor image goes to DRE with a ticket, which the thread receives. -/
def issueImage (s : State) (t : Nat) (g : Group) (w : Word) (bytes : List Byte) (record : Nat) (copy : Bool) : State :=
  match g.launch, pickSlot s g with
  | some l, some (slot, s) =>
    let n := newId s
    let seq := ((g.tickets[slot]?).map (·.seq)).getD 0 + 1
    let d : Desc :=
      { id := n.1, ring := l.ring, index := 0, seq := seq % 2 ^ 32, cls := l.cls, src := l.src, bytes := bytes
        phase := .fetched, issue := some { group := t / 4, slot, seq, record, launch := l.desc, copy } }
    let s := { n.2 with descs := n.2.descs ++ [d] }
    let s := groupUpd s (t / 4) fun g => { g with tickets := g.tickets.set slot { seq := seq, pending := true, valid := true } }
    retire s t (iD w) (BitVec.ofNat 64 (slot + 16 * seq))
  | _, _ => s

/-- Whether an operand read holds a thread of a running group. -/
def inRead (g : Group) (h : Hold) : Bool :=
  match h with
  | .read _ => g.state == 1
  | _ => false

/-- R158. `eissue`: reads a descriptor image, waits for a ticket slot, and hands the image to DRE. -/
def execEissue (t : Nat) (s : State) : Result :=
  .next (onHeld s t .eissue inRead fun s g x w =>
    let addr := (sGet x (iA w)).toNat
    match x.hold, x.ret with
    | .read _, some (bs, 0) =>
      let r := takeRead s t x addr 128 bs
      if (pickSlot s g).isNone then s else issueImage r.1 t g w r.2 (sGet x (iB w)).toNat false
    | .read _, some (_, c) => raiseAt s t c addr
    | .read _, none => s
    | _, _ => threadRead s t g addr 128 (.read addr))

/-- The image of an `mcopy`: a MOVE of one row (R157, R232). -/
def copyImage (d a b : Nat) : List Byte :=
  toLe 1 0x30 ++ toLe 31 0 ++ toLe 1 (4 * boolBit (bitOf 63 d)) ++ toLe 1 0
    ++ toLe 2 (if bitOf 63 d then bitsOf 43 32 d else 0) ++ toLe 4 (bitsOf 31 0 d) ++ toLe 4 1 ++ toLe 4 0
    ++ toLe 8 a ++ toLe 8 b ++ toLe 56 0

/-- R158. `mcopy`: a plain copy through MOV with a ticket. -/
def execMcopy (t : Nat) (s : State) : Result :=
  .next (onInsn s t .mcopy fun s g x w =>
    issueImage s t g w (copyImage (sGet x (iD w)).toNat (sGet x (iA w)).toNat (sGet x (iB w)).toNat) 0 true)

/-- What a ticket names: its entry, a slot since reused, or nothing that was ever issued. -/
inductive TicketAt where
  | here (k : Ticket)
  | reused
  | unknown
deriving DecidableEq, Repr

/-- The entry that a ticket value names. -/
def ticketAt (g : Group) (v : Nat) : TicketAt :=
  match g.tickets[v % 16]? with
  | some k =>
    if k.valid && k.seq == v / 16 then .here k
    else if k.valid && 0 < v / 16 && v / 16 < k.seq then .reused
    else .unknown
  | none => .unknown

/-- `d` receives what `ewait` and `etest` return for a ticket that never was: the spec gives no value
(assumption 41). -/
def unknownTicket (s : State) (t d : Nat) : State :=
  let r := draw s 1
  retire r.2 t d (Config.freeWord r.1)

/-- R158. `ewait`: waits while the ticket is pending and returns its status. -/
def execEwait (t : Nat) (s : State) : Result :=
  .next (onInsn s t .ewait fun s g x w =>
    match ticketAt g (sGet x (iA w)).toNat with
    | .here k => if k.pending then s else retire s t (iD w) (BitVec.ofNat 64 k.status)
    | .reused => retire s t (iD w) (-1)
    | .unknown => unknownTicket s t (iD w))

/-- R158. `etest`: a ticket's status, −2 while it is pending. -/
def execEtest (t : Nat) (s : State) : Result :=
  .next (onInsn s t .etest fun s g x w =>
    match ticketAt g (sGet x (iA w)).toNat with
    | .here k => retire s t (iD w) (if k.pending then -2 else BitVec.ofNat 64 k.status)
    | .reused => retire s t (iD w) (-1)
    | .unknown => unknownTicket s t (iD w))

/-! Collectives (R163, R266). -/

/-- The descriptor that stands for a `cbar` or `cred` at CLE: SAFE, root 0. -/
def collImage (group op type redop count seq : Nat) : List Byte :=
  toLe 1 0x40 ++ toLe 31 0 ++ toLe 2 group ++ toLe 1 op ++ toLe 1 type ++ toLe 1 redop ++ toLe 3 0 ++ toLe 8 count
    ++ toLe 8 0 ++ toLe 8 seq ++ toLe 64 0

/-- The status of a `cbar` or `cred` goes to CSTATUS, and a value to `d`. -/
def collDone (s : State) (t d status : Nat) (v : Dword) : State :=
  threadUpd s t fun x => nextPc { sSet x d v with cstatus := BitVec.ofNat 32 status }

/-- Whether a collective instruction holds a thread of a group that runs, or that suspends after it has
started. -/
def inColl (g : Group) (h : Hold) : Bool :=
  match h with
  | .coll _ started => g.state == 1 || (g.state == 2 && started)
  | _ => false

/-- The collective instruction of a thread at CLE: `result` gives `d` from the status and the result bytes.
Each call goes as far as it can: the member table, the wait of R264, the collective, the end. -/
def collRound (s : State) (t : Nat) (group op type redop count : Nat) (chain : List Byte) (d : Nat)
    (result : State → Nat → List Byte → Dword × State) : State :=
  let finish (s : State) (status : Nat) (body : List Byte) : State :=
    let r := result s status body
    collDone r.2 t d status r.1
  match threadAt s t with
  | none => s
  | some (g, x) =>
    match grpGet s group, x.hold, g.launch with
    | none, .free, _ => finish s stDescInvalid []
    | some _, .free, some l =>
      let n := newId s
      let c : Desc :=
        { id := n.1, ring := l.ring, index := 0, seq := 0, cls := l.cls, src := l.src, phase := .fetched, chain := chain
          bytes := collImage group op type redop count 0
          issue := some { group := t / 4, slot := 16 + t % 4, seq := 0, record := 0, launch := l.desc } }
      threadUpd { n.2 with descs := n.2.descs ++ [c] } t fun x => { x with hold := .coll n.1 false }
    | _, .coll c _, _ =>
      match descGet s c with
      | none => threadUpd s t fun x => { x with hold := .free }
      | some y => match y.phase with
        | .fetched =>
          match grpGet s group with
          | none => finish { s with descs := s.descs.filter fun z => z.id != c } stDescInvalid []
          | some e =>
            let r := readMembers s c (grpTable e.entry) (neededMembers e.entry op 0)
            match r.2 with
            | .bytes ms => descUpd (gatherDrop r.1 c) c fun z => { z with
                aux := padTo 64 e.entry ++ ms, phase := .ready, free := true }
            | .bad _ => finish { r.1 with descs := r.1.descs.filter fun z => z.id != c } stDataParity []
            | .failed k => finish { gatherDrop r.1 c with descs := r.1.descs.filter fun z => z.id != c } (gotStatus k) []
            | _ => r.1
        | .ready =>
          match grpGet s group with
          | none => finish { s with descs := s.descs.filter fun z => z.id != c } stDescInvalid []
          | some e =>
            if (grpHolder s group).isNone && clActive s < 256
                && firstOf s y (fun z => dop z == 0x40 && clGroup z == group) then
              let s := descUpd s c fun z => { z with bytes := collImage group op type redop count e.instrSeq, runs := 1 }
              let s := grpUpd s group fun e => { e with instrSeq := e.instrSeq + 1 }
              clBegin (threadUpd s t fun x => { x with hold := .coll c true }) c
            else s
        | .finished => finish { s with descs := s.descs.filter fun z => z.id != c } y.status y.body
        | _ => clStep s c
    | _, _, _ => s

/-- Goes on with a thread's collective instruction while it holds the thread. -/
def collInsn (s : State) (t pc : Nat) (round : State → State) : State :=
  let go (s : State) : State := match threadAt s t with
    | some (_, x) => if x.pc.toNat = pc && (match x.hold with
        | .coll .. => true
        | _ => false) then round s else s
    | none => s
  go (go (go (round s)))

/-- R163. `cbar`: a SAFE barrier; the status goes to CSTATUS and to `d`. -/
def execCbar (t : Nat) (s : State) : Result :=
  .next (onHeld s t .cbar inColl fun s _ x w =>
    collInsn s t x.pc.toNat fun s =>
      collRound s t (bitsOf 11 0 (sGet x (iA w)).toNat) 4 0 0 0 [] (iD w) fun s st _ => (BitVec.ofNat 64 st, s))

/-- Type, redop and bytes of a `cred` operation (R163, R266). -/
def credOp : Nat → Option (Nat × Nat × Nat)
  | 0 => some (0x1F, 0, 8)
  | 1 => some (0x1F, 1, 8)
  | 2 => some (0x1F, 2, 8)
  | 3 => some (0x00, 0, 4)
  | 4 => some (0x00, 2, 4)
  | _ => none

/-- R163. `cred`: a SAFE reduction of one element; on a failure `d` is undefined. -/
def execCred (t : Nat) (s : State) : Result :=
  .next (onHeld s t .cred inColl fun s _ x w =>
    let a := (sGet x (iA w)).toNat
    match credOp (bitsOf 15 12 a) with
    | none => raiseIllegal s t w
    | some (type, redop, n) =>
      collInsn s t x.pc.toNat fun s =>
        collRound s t (bitsOf 11 0 a) 0 type redop 1 (toLe n (sGet x (iB w)).toNat) (iD w) fun s st body =>
          if st = 0 then (BitVec.ofNat 64 (leNat (body.take n)), s)
          else
            let r := draw s 1
            (Config.freeWord r.1, r.2))

end Sys2Proof.Machine
end

