-- ==== Sys2Proof/Machine/Operands.lean ====
section
/-! DEFINITION. Operands as the engines read them: packed rows of elements with their block scales (R23, R24,
R26, R27), the reads that bring them, and rows packed for storing. -/
namespace Sys2Proof.Machine

/-- `n` bytes at an address through a byte reader. -/
def peek (byte : Nat → Byte) (addr n : Nat) : List Byte := (List.range n).map fun i => byte (addr + i)

/-- An FP32 word at an address. -/
def peekFp32 (byte : Nat → Byte) (addr : Nat) : Val := ofFp32 (BitVec.ofNat 32 (leNat (peek byte addr 4)))

/-- The encoding of element `j` of a packed row (R23). -/
def elemCode (byte : Nat → Byte) (f : Fmt) (addr j : Nat) : Nat :=
  let b := fmtBits f
  let o := j * b
  leNat (peek byte (addr + o / 8) ((o % 8 + b + 7) / 8)) / 2 ^ (o % 8) % 2 ^ b

/-- An element's value under its block's scale and the tensor scale (R26, R27). -/
def scaleVal (v scale tscale : Val) : Val :=
  match scale, v, tscale with
  | .fin _ s, .fin n m, .fin _ t => .fin n (m * s * t)
  | .fin _ _, v, _ => v
  | _, _, _ => canonicalNan

/-- Element `j` of a stored row: its exact value (R27). -/
def elemVal (byte : Nat → Byte) (f : Fmt) (addr saddr : Nat) (tscale : Val) (j : Nat) : Val :=
  let v := decodeElem f (elemCode byte f addr j)
  if fmtPlain f then v
  else
    let sc := decodeScale f (byte (saddr + j / fmtBlock f)).toNat
    scaleVal v sc (if f = .kf4 then tscale else posOne)

/-- Elements of a row packed into its bytes, with the padding of R23 and R24.  DESIGN CHOICE (assumption 149): the high
nibble past the last element of an odd row of plain FP4 is written zero. -/
def packCodes (f : Fmt) (codes : List Nat) : List Byte :=
  let b := fmtBits f
  let n := ((List.range codes.length).zip codes).foldl (fun n p => n + p.2 % 2 ^ b * 2 ^ (b * p.1)) 0
  toLe (fmtRowBytes f codes.length) n

/-- The bytes from a range that starts at element `lo` of a row and holds `n` of them: offset and length. -/
def elemSpan (f : Fmt) (lo n : Nat) : Nat × Nat :=
  let b := fmtBits f
  let a := lo * b / 8
  (a, (lo + n) * b / 8 + boolBit ((lo + n) * b % 8 != 0) - a)

/-- The scale bytes of elements `lo` to `lo + n − 1` of a row: offset and length. -/
def scaleSpan (f : Fmt) (lo n : Nat) : Nat × Nat :=
  if fmtPlain f || n = 0 then (0, 0)
  else
    let b := fmtBlock f
    (lo / b, (lo + n - 1) / b + 1 - lo / b)

/-- Bytes of which bits `sh` to `sh + n − 1` come from others. -/
def mixBits (old fresh : List Byte) (sh n : Nat) : List Byte :=
  if n = 0 then old else toLe old.length (setBits (sh + n - 1) sh (leNat old) (leNat fresh / 2 ^ sh))

/-- Length of the smallest range that covers `rows` rows of `bytes` bytes at a stride. -/
def spanLen (rows stride bytes : Nat) : Nat := if rows = 0 || bytes = 0 then 0 else (rows - 1) * stride + bytes

/-! Reading (R186, R187). -/

/-- Reads ranges in turn, outside ones together; the first that does not bring its bytes decides. -/
def readAll (s : State) (owner : Nat) : List (Nat × Nat) → State × Option (Nat × Rd)
  | [] => (s, none)
  | (a, n) :: rest =>
    let r := readRange s owner a n
    match r.2 with
    | .bytes _ => readAll r.1 owner rest
    | .waiting => ((readAll r.1 owner rest).1, some (a, .waiting))
    | x => (r.1, some (a, x))

/-- A byte that an owner has read: scratchpad as it stands, outside memory as its reads brought it. -/
def heldByte (s : State) (owner addr : Nat) : Byte :=
  if isOwn s addr then spmByte s (offsetOf addr)
  else match s.gathers.find? fun g => g.owner == owner && g.left == 0 && g.addr ≤ addr && addr < g.addr + g.len with
    | some g => mapGet (fun _ => (0 : Byte)) g.got addr
    | none => 0

/-- The descriptor's view of memory, in which what others wrote of the own window while it runs is undefined
(R62, R94, R122): the reader, and the state with the free values drawn. -/
def viewOf (s : State) (d : Desc) : (Nat → Byte) × State :=
  if d.clobbered.isEmpty then (heldByte s d.id, s)
  else
    let r := draw s (2 ^ 40)
    (fun a =>
      if isOwn s a && d.clobbered.any (fun w => overlap w.1 w.2 (offsetOf a) 1) then
        Config.freeByte (r.1 + offsetOf a)
      else heldByte s d.id a, r.2)

/-- A matrix or vector descriptor waits for the refetch of a block, after which it runs again (R187). -/
def refetchStop (s : State) (d block : Nat) : State :=
  descUpd s d fun x => { x with phase := .replaying, waitBlock := some block
                                detail := ((spmBadIn s block 4096).map (badDetail s)).getD {} }

/-- A vector chain meets a read that brings no bytes: it waits, replays (R187), or fails. -/
def engineStops (s : State) (d addr : Nat) (r : Rd) : State :=
  match r with
  | .refetch b => refetchStop s d b
  | r => readFails s d addr r

/-- The coefficient words of the function tables in force (R76, R407). -/
def coefOf (s : State) (i : Nat) : Word := mapGet Config.romTable s.ftab i

/-! Peers of a SEND (R90). -/

/-- An entry of a peer table. -/
structure Peer where
  base : Nat
  scale : Nat
  stride : Nat
  counter : Nat
  counted : Bool
deriving DecidableEq, Repr

/-- Entry `i` of a peer table. -/
def peerAt (bs : List Byte) (i : Nat) : Peer :=
  let f := fieldAt (bs.drop (32 * i))
  { base := f 0 8, scale := f 8 8, stride := f 16 4, counter := bitsOf 11 0 (f 20 2), counted := bitOf 0 (f 22 1) }

/-- Whether an entry's reserved bits are zero. -/
def peerOk (bs : List Byte) (i : Nat) : Bool :=
  let f := fieldAt (bs.drop (32 * i))
  bitsOf 15 12 (f 20 2) == 0 && bitsOf 7 1 (f 22 1) == 0 && f 23 9 == 0

end Sys2Proof.Machine
end

