-- ==== Sys2Proof/Machine/Chain.lean ====
section
/-! DEFINITION. Matrix descriptors and their chains: tiling (R54, R59), the chain block
(R68 to R71), the accumulated values (R56 to R58, R65, R66), the stages (R74 to R80) and the row statistics
(R81 to R85). -/
namespace Sys2Proof.Machine

/-- DESC.arith and DESC.nan_trap, and the seed of R30. -/
def descStrict (d : Desc) : Bool := bitOf 4 (dfield d 1 1)
@[inherit_doc descStrict] def descTrap (d : Desc) : Bool := bitOf 3 (dfield d 1 1)
@[inherit_doc descStrict] def descSeed (d : Desc) : Dword := BitVec.ofNat 64 (dfield d 24 8)

/-! The chain block (R69, R70). -/

/-- A stage entry (R70), with its position. -/
structure Stage where
  pos : Nat
  kind : Nat
  fmt : Nat
  rnd : Bool
  sat : Bool
  sub : Nat
  imm0 : Nat
  imm1 : Nat
  stride : Nat
  addr : Nat
  addr2 : Nat
deriving DecidableEq, Repr

/-- Stage entry `i` of a chain block. -/
def stageAt (bs : List Byte) (i : Nat) : Stage :=
  let f := fieldAt (bs.drop (64 + 32 * i))
  { pos := i, kind := f 0 1, fmt := bitsOf 4 0 (f 1 1), rnd := bitOf 0 (f 2 1), sat := bitOf 1 (f 2 1), sub := f 3 1
    imm0 := f 4 4, imm1 := f 8 4, stride := f 12 4, addr := f 16 8, addr2 := f 24 8 }

/-- Fields of a chain block's header (R69). -/
def chNStages (bs : List Byte) : Nat := fieldAt bs 0 1
@[inherit_doc chNStages] def chPolicy (bs : List Byte) : Nat := fieldAt bs 1 1
@[inherit_doc chNStages] def chRms (bs : List Byte) : Bool := fieldAt bs 2 1 == 1
@[inherit_doc chNStages] def chSplitVu (bs : List Byte) : Nat := bitsOf 3 0 (fieldAt bs 3 1)
@[inherit_doc chNStages] def chHoldAddr (bs : List Byte) : Nat := fieldAt bs 8 8
@[inherit_doc chNStages] def chHoldBytes (bs : List Byte) : Nat := fieldAt bs 16 4
@[inherit_doc chNStages] def chStatAddr (bs : List Byte) : Nat := fieldAt bs 24 8
@[inherit_doc chNStages] def chCorrAddr (bs : List Byte) : Nat := fieldAt bs 32 8
@[inherit_doc chNStages] def chSplitAddr (bs : List Byte) : Nat := fieldAt bs 40 8
@[inherit_doc chNStages] def chSplitStride (bs : List Byte) : Nat := fieldAt bs 48 4

/-- The stages in force, and whether a kind is among them. -/
def chStages (bs : List Byte) : List Stage := (List.range (min (chNStages bs) 8)).map (stageAt bs)
@[inherit_doc chStages] def chHas (bs : List Byte) (k : Nat) : Bool := (chStages bs).any fun t => t.kind == k
@[inherit_doc chStages] def chFind (bs : List Byte) (k : Nat) : Option Stage := (chStages bs).find? fun t => t.kind == k

/-- Prologue kinds, and terminal kinds (R71, R72). -/
def isPrologue (k : Nat) : Bool := 1 ≤ k && k ≤ 3
@[inherit_doc isPrologue] def isTerminal (k : Nat) : Bool := k == 0x18 || k == 0x19

/-- The peer table of a chain, as validation appended it to the block. -/
def chPeers (bs : List Byte) : List Byte := bs.drop 320

/-! The tiling (R54, R59). -/

/-- The shape of a matrix descriptor: output rows and columns, contraction length, mode and its tile rows,
columns and planes, operand formats, whether it accumulates in INT32, and its arithmetic. -/
structure Geo where
  diag : Bool
  fwd : Bool
  mode : Nat
  edge : Nat
  pack : Nat
  m : Nat
  cols : Nat
  red : Nat
  rows : Nat
  ct : Nat
  tm : Nat
  tn : Nat
  tr : Nat
  fa : Fmt
  fb : Fmt
  ints : Bool
  strict : Bool
deriving DecidableEq, Repr

/-- The shape of a matrix descriptor (R59, R65).  DESC.arith is ignored for the products of an INT8 pair without
DECODE (R47, R58), and governs the roundings of the stages of its chain as of every other (R74, R87; DEDUCED, assumption
147). -/
def geoOf (d : Desc) : Geo :=
  let fa := fmtAt (mxFmtA d)
  let fb := fmtAt (mxFmtB d)
  let ints := fa == .int8 && fb == .int8 && !chHas d.chain 0x03
  let strict := descStrict d
  if mxDiag d then
    { diag := true, fwd := true, mode := 0, edge := 256, pack := 1, m := 1, cols := mxM d, red := 1, rows := 1, ct := 256
      tm := 1, tn := ceilDiv (mxM d) 256, tr := 0, fa, fb, ints, strict }
  else
    let fwd := mxFwd d
    let fp4 := fmtFp4Class fa && fmtFp4Class fb
    let mode := mxMode d
    let p := modeEdge mode
    let pack := if fp4 then 2 else 1
    let cols := if fwd then mxN d else mxK d
    let red := if fwd then mxK d else mxN d
    let rows := if fwd then modeRows mode else modeRows mode / pack
    let ct := if fwd then p else p * pack
    { diag := false, fwd, mode, edge := p, pack, m := mxM d, cols, red, rows, ct
      tm := ceilDiv (mxM d) rows, tn := ceilDiv cols ct, tr := ceilDiv red (if fwd then p * pack else p), fa, fb, ints, strict }

/-- Tiles of the product (R59). -/
def geoTiles (g : Geo) : Nat := g.tm * g.tn

/-- First row and rows of a tile; first column and columns of a tile, in the product. -/
def tileRow (g : Geo) (t : Nat) : Nat × Nat :=
  let i := t / g.tn
  (i * g.rows, min g.m ((i + 1) * g.rows) - i * g.rows)
@[inherit_doc tileRow] def tileCol (g : Geo) (t : Nat) : Nat × Nat :=
  let j := t % g.tn
  (j * g.ct, min g.cols ((j + 1) * g.ct) - j * g.ct)

/-- Position of the GATE stage, if the chain has one. -/
def gatePos (bs : List Byte) : Option Nat := (chFind bs 0x11).map (·.pos)

/-- Whether a stage's input has the halved columns of GATE (R79). -/
def halvedAt (bs : List Byte) (pos : Nat) : Bool :=
  match gatePos bs with
  | some g => g < pos
  | none => false

/-- Columns and tile width at a stage's input. -/
def colsAt (g : Geo) (bs : List Byte) (pos : Nat) : Nat := if halvedAt bs pos then g.cols / 2 else g.cols
@[inherit_doc colsAt] def widthAt (g : Geo) (bs : List Byte) (pos : Nat) : Nat := if halvedAt bs pos then g.ct / 2 else g.ct

/-- Position of ROWSTAT, past the chain where it has none. -/
def statPos (bs : List Byte) : Nat := ((chFind bs 0x16).map (·.pos)).getD 8

/-! Accumulated values (R56 to R58, R65, R66, R77). -/

/-- The streamed row of output row `r`: GATHER names it (R77). -/
def streamRow (byte : Nat → Byte) (d : Desc) (r : Nat) : Nat :=
  match chFind d.chain 0x02 with
  | some t => leNat (peek byte (t.addr + 4 * r) 4)
  | none => r

/-- The DECODE factor of a streamed element, if the chain has that stage (R77). -/
def decodeFactor (byte : Nat → Byte) (d : Desc) (r j : Nat) : Option Val :=
  (chFind d.chain 0x03).map fun t =>
    peekFp32 byte (if t.sub = 0 then t.addr + 4 * r else t.addr + r * t.stride + 4 * (j / 64))

/-- Element `j` of the streamed operand's row for output row `r`. -/
def streamElem (byte : Nat → Byte) (d : Desc) (g : Geo) (r j : Nat) : Val :=
  if chHas d.chain 0x01 then elemVal byte g.fa (mxA d + j * mxAStride d) 0 posOne r
  else
    let x := streamRow byte d r
    elemVal byte g.fa (mxA d + x * mxAStride d) (mxAScale d + x * fmtScaleBytes g.fa g.red) (ofFp32 (mxTsA d)) j

/-- The weight at contraction index `j` and output column `c` (R48, R49). -/
def weightElem (byte : Nat → Byte) (d : Desc) (g : Geo) (j c : Nat) : Val :=
  let row := if g.fwd then c else j
  let at' := if g.fwd then j else c
  let k := if g.fwd then g.red else g.cols
  elemVal byte g.fb (mxB d + row * mxBStride d) (mxBScale d + row * fmtScaleBytes g.fb k) (ofFp32 (mxTsB d)) at'

/-- The initial value of an element's accumulator (R47). -/
def initialAcc (byte : Nat → Byte) (d : Desc) (g : Geo) (r c : Nat) : Val :=
  if mxCEn d then
    let w := leNat (peek byte (mxC d + r * mxCStride d + 4 * c) 4)
    if g.ints then valOfInt (signedOf 32 w) else ofFp32 (BitVec.ofNat 32 w)
  else posZero

/-- The integer a value holds. -/
def intOf (v : Val) : Int :=
  match v with
  | .fin n m => (signedRat n m).floor
  | _ => 0

/-- An accumulator entry before any product (R47, R66). -/
def accStart (byte : Nat → Byte) (d : Desc) (g : Geo) (r c : Nat) : AccSum := { val := initialAcc byte d g r c }

/-- One accumulator entry with further operand pairs, whole groups of 16 but for the last of the contraction (R56 to
R58): the entry, and the flags of strict arithmetic. -/
def accElem (g : Geo) (a : AccSum) (xy : List (Val × Val)) : AccSum × Flags :=
  if g.ints then
    let r := accumulateInt (intOf a.val) (xy.map fun p => intOf p.1 * intOf p.2)
    ({ val := valOfInt r.1, sat := a.sat || r.2 }, 0)
  else
    let r := accumulate g.strict a.val xy
    ({ a with val := r.1 }, r.2)

/-- Elements `k0` to `k0 + n − 1` of the streamed row for output row `r`, DECODE's factors included, and the flags of
forming them. -/
def streamVals (byte : Nat → Byte) (d : Desc) (g : Geo) (r k0 n : Nat) : List Val × Flags :=
  (List.range n).foldl (fun (acc : List Val × Flags) i =>
    let j := k0 + i
    let v := streamElem byte d g r j
    match decodeFactor byte d r j with
    | some f =>
      let p := mulV g.strict v f
      (acc.1 ++ [p.1], acc.2 ||| p.2)
    | none => (acc.1 ++ [v], acc.2)) ([], 0)

/-- A row of accumulator entries, columns `c0` on, after output row `r` has streamed through a plane whose bytes
`weight` gives and which holds contraction indices `k0` to `k0 + n − 1` (R59). -/
def accRow (byte weight : Nat → Byte) (d : Desc) (g : Geo) (r k0 n c0 : Nat) (row : List AccSum) : List AccSum × Flags :=
  let a := streamVals byte d g r k0 n
  ((List.range row.length).zip row).foldl (fun (acc : List AccSum × Flags) p =>
    let ys := (List.range n).map fun j => weightElem weight d g (k0 + j) (c0 + p.1)
    let e := accElem g p.2 (a.1.zip ys)
    (acc.1 ++ [e.1], acc.2 ||| e.2)) ([], a.2)

/-- A row of accumulator entries of a diagonal product, columns `c0` to `c0 + n − 1` (R65). -/
def diagRow (byte : Nat → Byte) (d : Desc) (g : Geo) (c0 n : Nat) : List AccSum × Flags :=
  (List.range n).foldl (fun (acc : List AccSum × Flags) i =>
    let j := c0 + i
    let x := elemVal byte g.fa (mxA d) (mxAScale d) (ofFp32 (mxTsA d)) j
    let y := elemVal byte g.fb (mxB d) (mxBScale d) (ofFp32 (mxTsB d)) j
    let e := accElem g (accStart byte d g 0 j) [(x, y)]
    (acc.1 ++ [e.1], acc.2 ||| e.2)) ([], 0)

/-- A row of accumulator entries as lanes, with its report (R58: an entry counts once). -/
def accLanes (row : List AccSum) : List Lane × Report :=
  (row.map fun a => laneOf a.val, { saturated := (row.filter (·.sat)).length })

/-! Stages (R74, R75, R79, R80). -/

/-- The column of the stored output at which an element of a stage reports (R40). -/
def storedCol (bs : List Byte) (pos c : Nat) : Nat :=
  match gatePos bs with
  | some g => if pos ≤ g then 32 * (c / 64) + c % 32 else c
  | none => c

/-- The stochastic stream of a stage, if it rounds so (R30, R74). -/
def stageStream (d : Desc) (t : Stage) (r c : Nat) : Option (BitVec 32) :=
  if t.rnd then some (streamValue (descSeed d) t.pos r c) else none

/-- A stage's result rounded once into its format, with its report.  DESIGN CHOICE (assumption 151): R38 counts an
element at each stage, and each rounding of GATE, that saturates it. -/
def stageRound (d : Desc) (g : Geo) (t : Stage) (r c : Nat) (x : FV) : Lane × Report :=
  let o := roundTo (fmtAt t.fmt) { strict := g.strict, sat := t.sat, stream := stageStream d t r c } x.1
  let rep := reportOut o (r, storedCol d.chain t.pos c)
  (laneOf o.val, { rep with flags := rep.flags ||| x.2 })

/-- What a value-changing stage forms before it rounds (R75). -/
def stageForm (byte : Nat → Byte) (coef : Nat → Word) (g : Geo) (t : Stage) (r c : Nat) (x : Val) : FV :=
  let vec (i : Nat) : Val := peekFp32 byte (t.addr + 4 * i)
  let operand : Val := match t.sub with
    | 1 => vec r
    | 2 => vec c
    | _ => ofFp32 (BitVec.ofNat 32 t.imm0)
  match t.kind with
  | 0x12 => mulV g.strict x operand
  | 0x13 => addV g.strict x operand
  | 0x14 => activate coef g.strict t.sub x
  | 0x15 =>
    let a := maxV g.strict x (ofFp32 (BitVec.ofNat 32 t.imm0))
    let b := minV g.strict a.1 (ofFp32 (BitVec.ofNat 32 t.imm1))
    (b.1, a.2 ||| b.2)
  | _ => (x, 0)

/-- GATE (R79): the outputs formed from a row of an even number of 32-column blocks. -/
def gateRow (coef : Nat → Word) (d : Desc) (g : Geo) (t : Stage) (r c0 : Nat) (xs : List Lane) : List Lane × Report :=
  (List.range (xs.length / 2)).foldl (fun (acc : List Lane × Report) o =>
    let gi := 64 * (o / 32) + o % 32
    let gv := ((xs[gi]?).map (·.val)).getD posZero
    let uv := ((xs[gi + 32]?).map (·.val)).getD posZero
    let a := stageRound d g t r (c0 + gi) (activate coef g.strict t.sub gv)
    let y := stageRound d g t r (c0 + gi + 32) (mulV g.strict a.1.val uv)
    (acc.1 ++ [y.1], reportJoin acc.2 (reportJoin a.2 y.2))) ([], {})

/-- A row of a tile through one stage; `c0` is its first column at the stage's input (R75, R80). -/
def stageRow (byte : Nat → Byte) (coef : Nat → Word) (d : Desc) (g : Geo) (t : Stage) (r c0 : Nat) (xs : List Lane) :
    List Lane × Report :=
  match t.kind with
  | 0x11 => gateRow coef d g t r c0 xs
  | 0x10 =>
    let ts : Rat := match ofFp32 (BitVec.ofNat 32 t.imm1) with
      | .fin _ m => m
      | _ => 1
    quantizeRow (fmtAt t.fmt) ts g.strict t.sat (fun i => stageStream d t r (c0 + i))
      (fun i => (r, storedCol d.chain t.pos (c0 + i))) (xs.map (·.val))
  | _ =>
    ((List.range xs.length).zip xs).foldl (fun (acc : List Lane × Report) p =>
      let y := stageRound d g t r (c0 + p.1) (stageForm byte coef g t r (c0 + p.1) p.2.val)
      (acc.1 ++ [y.1], reportJoin acc.2 y.2)) ([], {})

/-! Positions (R40 to R42). -/

/-- The trap of the first NaN of a row after a stage (R41, R42); `halved` says that its columns are those
after GATE, and `w` is a tile's width in them. -/
def rowTrap (d : Desc) (g : Geo) (stage r c0 w : Nat) (halved : Bool) (xs : List Lane) : Option TrapAt :=
  if !descTrap d then none
  else match xs.findIdx? fun l => valIsNan l.val && l.nf with
    | none => none
    | some i =>
      let c := c0 + i
      some { row := r, rank := if halved then 64 * (c / 32) + c % 32 else c, stage := stage
             tile := r / g.rows * g.tn + c / w, nfRow := r % g.rows, nfCol := c % w }

/-- The least non-finite position of a stored row (R39, R40). -/
def rowNf (r c0 : Nat) (xs : List Lane) : Option (Nat × Nat) := (xs.findIdx? (·.nf)).map fun i => (r, c0 + i)

/-- The lanes after GATE for the trap: a NaN that a paired value already held was produced by an earlier stage
(R41, R79). -/
def gateFresh (xs ys : List Lane) : List Lane :=
  let old (i : Nat) : Bool := match xs[i]? with
    | some l => valIsNan l.val
    | none => false
  ((List.range ys.length).zip ys).map fun p =>
    let g := 64 * (p.1 / 32) + p.1 % 32
    if old g || old (g + 32) then { p.2 with nf := false } else p.2

/-- A row through consecutive value-changing stages, with the traps that their NaNs give.  A block is formed
once its elements have passed the stages before it, so that past a QUANTIZE an earlier trap stands (R42). -/
def stagesRow (byte : Nat → Byte) (coef : Nat → Word) (d : Desc) (g : Geo) (r : Nat) :
    List Stage → Nat → List Lane → Report → List Lane × Report
  | [], _, xs, rep => (xs, rep)
  | t :: ts, c0, xs, rep =>
    let y := stageRow byte coef d g t r c0 xs
    let c1 := if t.kind = 0x11 then c0 / 2 else c0
    let halved := halvedAt d.chain (t.pos + 1)
    let w := widthAt g d.chain (t.pos + 1)
    let past := rep.trap.isSome && (chStages d.chain).any fun q => q.kind == 0x10 && q.pos ≤ t.pos
    let ys := if t.kind = 0x11 then gateFresh xs y.1 else y.1
    let trap := if past then none else rowTrap d g t.pos r c1 w halved ys
    let rep := reportJoin rep (reportJoin y.2 { trap })
    stagesRow byte coef d g r ts c1 y.1 rep

/-- The value-changing epilogue stages up to ROWSTAT, or all of them where the chain has none; and those
after NORMALIZE. -/
def stagesBefore (bs : List Byte) : List Stage :=
  (chStages bs).filter fun t => !isPrologue t.kind && !isTerminal t.kind && t.pos ≤ statPos bs
@[inherit_doc stagesBefore] def stagesAfter (bs : List Byte) : List Stage :=
  (chStages bs).filter fun t => !isTerminal t.kind && t.pos > statPos bs + 1

/-- A row of a tile from its accumulator entries to the last stage before a row statistic; `c0` is its first column. -/
def preRow (byte : Nat → Byte) (coef : Nat → Word) (d : Desc) (g : Geo) (r c0 : Nat) (row : List AccSum) :
    List Lane × Report :=
  let a := accLanes row
  stagesRow byte coef d g r (stagesBefore d.chain) c0 a.1
    (reportJoin a.2 { trap := rowTrap d g 0xF r c0 g.ct false a.1 })

/-! Row statistics (R81 to R85). -/

/-- The statistic of a row (R82): two values of the statistic vector, the factor, and the subtrahend. -/
structure RowStat where
  first : Val
  second : Val
  rr : Val
  flags : Flags
deriving DecidableEq, Repr

/-- The sum of two values rounded to FP32, with flags. -/
def sub32 (strict : Bool) (a b : Val) : FV := round32F strict (addV strict a (negV b))

/-- e_j of a softmax row, and the flags of forming them. -/
def softmaxExps (coef : Nat → Word) (strict : Bool) (m : Val) (xs : List Val) : List Val × Flags :=
  xs.foldl (fun (acc : List Val × Flags) x =>
    let d := sub32 strict x m
    let e := tableStage coef strict .exp2 d.1
    (acc.1 ++ [e.1], acc.2 ||| d.2 ||| e.2)) ([], 0)

/-- q and rr of an RMS row (R82). -/
def rmsStat (coef : Nat → Word) (strict : Bool) (n : Stage) (xs : List Val) : RowStat :=
  let q := rowSumSq strict xs
  let a := round32F strict (mulV strict q.1 (ofFp32 (BitVec.ofNat 32 n.imm0)))
  let b := round32F strict (addV strict a.1 (ofFp32 (BitVec.ofNat 32 n.imm1)))
  let rr := tableStage coef strict .rsqrt b.1
  { first := q.1, second := rr.1, rr := rr.1, flags := q.2 ||| a.2 ||| b.2 ||| rr.2 }

/-- The statistic of a row, and y_j before it is rounded into NORMALIZE's format (R82). -/
def normRow (coef : Nat → Word) (strict rms : Bool) (n : Stage) (xs : List Val) : RowStat × List FV :=
  if rms then
    let s := rmsStat coef strict n xs
    (s, xs.map fun x => mulV strict x s.rr)
  else
    let m := rowExt strict true xs
    let e := softmaxExps coef strict m.1 xs
    let l := rowSum strict e.1
    let rr := tableStage coef strict .recip l.1
    ({ first := m.1, second := l.1, rr := rr.1, flags := m.2 ||| e.2 ||| l.2 ||| rr.2 }, e.1.map fun x => mulV strict x rr.1)

/-- One segment under RESCALE (R85): its maximum and sum, its unnormalised values, and flags. -/
def segStat (coef : Nat → Word) (strict rms : Bool) (xs : List Val) : Val × Val × List Val × Flags :=
  if rms then (posZero, posZero, xs, 0)
  else
    let m := rowExt strict true xs
    let e := softmaxExps coef strict m.1 xs
    let l := segSum strict e.1
    (m.1, l.1, e.1, m.2 ||| e.2 ||| l.2)

/-- The end of a row under RESCALE (R85): the statistic, the correction vector, and flags. -/
def rescaleEnd (coef : Nat → Word) (strict rms : Bool) (n : Stage) (xs : List Val) : RowStat × List Val :=
  let segs := chunksOf 64 xs.length xs
  if rms then
    let s := rmsStat coef strict n xs
    (s, segs.map fun _ => s.rr)
  else
    let st := segs.map (segStat coef strict false)
    let m := rowExt strict true (st.map (·.1))
    let scale (ms : Val) : FV :=
      let d := sub32 strict ms m.1
      let e := tableStage coef strict .exp2 d.1
      (e.1, d.2 ||| e.2)
    let ts : List FV := st.map fun x =>
      let e := scale x.1
      let t := round32F strict (mulV strict e.1 x.2.1)
      (t.1, e.2 ||| t.2)
    let l : FV := match ts with
      | [] => (posZero, 0)
      | t :: rest => rest.foldl (fun (a : FV) t =>
          let r := round32F strict (addV strict a.1 t.1)
          (r.1, a.2 ||| t.2 ||| r.2)) t
    let rr := tableStage coef strict .recip l.1
    let ws : List FV := st.map fun x =>
      let e := scale x.1
      let w := round32F strict (mulV strict e.1 rr.1)
      (w.1, e.2 ||| w.2)
    ({ first := m.1, second := l.1, rr := rr.1, flags := ws.foldl (fun f w => f ||| w.2) (m.2 ||| l.2 ||| rr.2) }, ws.map (·.1))

/-! Terminal stages (R89, R91). -/

/-- What a STORE or SEND makes of a row: the bytes of its elements and of its scales, the lanes that the next stage
sees, and its report. -/
structure TermOut where
  elems : List Byte
  scales : List Byte := []
  lanes : List Lane
  report : Report
deriving DecidableEq, Repr

/-- A row at a STORE or SEND.  A block format is written exactly as the last QUANTIZE formed it (R80), also past a
STORE that rounds to another format (R72 item 8). -/
def termRow (d : Desc) (g : Geo) (t : Stage) (r c0 : Nat) (xs : List Lane) : TermOut :=
  let f := fmtAt t.fmt
  let trap (ys : List Lane) := rowTrap d g t.pos r c0 (widthAt g d.chain t.pos) (halvedAt d.chain t.pos) ys
  if !fmtPlain f then
    let b := fmtBlock f
    let scales := (List.range (ceilDiv xs.length b)).map fun i => BitVec.ofNat 8 (((xs[i * b]?).map (·.scale)).getD 0)
    { elems := packCodes f (xs.map (·.code)), scales, lanes := xs, report := { nf := rowNf r c0 xs } }
  else
    let ys := ((List.range xs.length).zip xs).foldl (fun (acc : List Lane × Report) p =>
      let y := stageRound d g t r (c0 + p.1) (p.2.val, 0)
      (acc.1 ++ [{ y.1 with code := p.2.code, scale := p.2.scale }], reportJoin acc.2 y.2)) ([], {})
    { elems := packCodes f (ys.1.map fun l => encodeElem f l.val), lanes := ys.1
      report := reportJoin ys.2 { nf := rowNf r c0 ys.1, trap := trap ys.1 } }

end Sys2Proof.Machine
end

