-- ==== Sys2Proof/Machine/Matrix.lean ====
section
/-! DEFINITION. Running matrix descriptors: their ranges (R67, R73, R89, R90), partition lists (R53), plane
loads and retention (R45, R46, R61), tiles as they drain (R59, R78, R83 to R85, R91, R93), SPLIT passes (R84)
and what a write by others leaves undefined (R62, R94). -/
namespace Sys2Proof.Machine

/-! Ranges. -/

/-- Whether a code is one of R18. -/
def codeKnown (c : Nat) : Bool := (fmtOfCode c).isSome

/-- The ranges of a tensor whose format code is one of R18: another names no range. -/
def ifKnown (code : Nat) (rs : List (Nat × Nat)) : List (Nat × Nat) := if codeKnown code then rs else []

/-- The operand ranges of a matrix descriptor: A, B, their scales, and C (R48, R49, R65, R66, R77). -/
def mxOperands (d : Desc) (g : Geo) : List (Nat × Nat) :=
  if geoTiles g = 0 then []
  else
    let c := if mxCEn d then [(mxC d, spanLen g.m (mxCStride d) (4 * g.cols))] else []
    if g.diag then
      ifKnown (mxFmtA d) [(mxA d, fmtRowBytes g.fa g.cols), (mxAScale d, fmtScaleBytes g.fa g.cols)]
        ++ ifKnown (mxFmtB d) [(mxB d, fmtRowBytes g.fb g.cols), (mxBScale d, fmtScaleBytes g.fb g.cols)] ++ c
    else if g.red = 0 then c
    else
      let rows := match chFind d.chain 0x02 with
        | some t => t.imm0
        | none => g.m
      let a := if chHas d.chain 0x01 then [(mxA d, spanLen g.red (mxAStride d) (fmtRowBytes g.fa g.m))]
        else [(mxA d, spanLen rows (mxAStride d) (fmtRowBytes g.fa g.red)), (mxAScale d, rows * fmtScaleBytes g.fa g.red)]
      let n := if g.fwd then g.cols else g.red
      let k := if g.fwd then g.red else g.cols
      ifKnown (mxFmtA d) a
        ++ ifKnown (mxFmtB d) [(mxB d, spanLen n (mxBStride d) (fmtRowBytes g.fb k)), (mxBScale d, n * fmtScaleBytes g.fb k)]
        ++ c

/-- The entries of a stage's vector that output rows `r0` to `r0 + nr − 1` and, at the stage's input, columns
`c0` to `c0 + nc − 1` take. -/
def stageReads (g : Geo) (t : Stage) (r0 nr c0 nc : Nat) : List (Nat × Nat) :=
  match t.kind with
  | 0x02 => if g.red = 0 then [] else [(t.addr + 4 * r0, 4 * nr)]
  | 0x03 =>
    if g.red = 0 then []
    else if t.sub = 0 then [(t.addr + 4 * r0, 4 * nr)]
    else (List.range nr).map fun i => (t.addr + (r0 + i) * t.stride, 4 * ceilDiv g.red 64)
  | 0x12 | 0x13 =>
    if t.sub = 1 then [(t.addr + 4 * r0, 4 * nr)]
    else if t.sub = 2 then [(t.addr + 4 * c0, 4 * nc)]
    else []
  | _ => []

/-- The whole vector of each stage, as a range. -/
def stageVectors (d : Desc) (g : Geo) : List (Nat × Nat) :=
  if geoTiles g = 0 then []
  else ((chStages d.chain).map fun t =>
    if t.kind = 0x03 && t.sub = 1 then
      (if g.red = 0 then [] else [(t.addr, spanLen g.m t.stride (4 * ceilDiv g.red 64))])
    else stageReads g t 0 g.m 0 (colsAt g d.chain t.pos)).flatten

/-- Columns at the ROWSTAT input, and bytes of one of its results. -/
def statCols (d : Desc) (g : Geo) : Nat := if chHas d.chain 0x16 then colsAt g d.chain (statPos d.chain) else 0
@[inherit_doc statCols] def statCode (d : Desc) : Nat := ((chFind d.chain 0x16).map (·.fmt)).getD 0
@[inherit_doc statCols] def statFmt (d : Desc) : Fmt := fmtAt (statCode d)
@[inherit_doc statCols] def statWidth (d : Desc) : Nat := fmtBits (statFmt d) / 8

/-- The STORE's elements and scales. -/
def storeRanges (d : Desc) (g : Geo) : List (Nat × Nat) :=
  if geoTiles g = 0 then []
  else match chFind d.chain 0x19 with
    | some t =>
      let w := colsAt g d.chain t.pos
      let f := fmtAt t.fmt
      ifKnown t.fmt [(t.addr, spanLen g.m t.stride (fmtRowBytes f w)), (t.addr2, g.m * fmtScaleBytes f w)]
    | none => []

/-- The width of a peer's rows, under EVERY and under DEAL (R91). -/
def sendWidth (d : Desc) (g : Geo) (t : Stage) : Nat := if bitOf 7 t.sub then t.imm0 else colsAt g d.chain t.pos

/-- Peers of a SEND whose table has been read. -/
def sendPeers (d : Desc) (t : Stage) : List Peer :=
  let n := t.sub % 32
  if n > 16 || (chPeers d.chain).length < 32 * n then [] else (List.range n).map (peerAt (chPeers d.chain))

/-- The SEND's ranges at each peer. -/
def sendRanges (d : Desc) (g : Geo) : List (Nat × Nat) :=
  if geoTiles g = 0 then []
  else match chFind d.chain 0x18 with
    | some t =>
      let w := sendWidth d g t
      let f := fmtAt t.fmt
      ((sendPeers d t).map fun p =>
        ifKnown t.fmt [(p.base, spanLen g.m p.stride (fmtRowBytes f w)), (p.scale, g.m * fmtScaleBytes f w)]).flatten
    | none => []

/-- The statistic vector, the correction vector and the SPLIT buffer (R82, R84, R85). -/
def statRanges (d : Desc) (g : Geo) : List (Nat × Nat) :=
  if geoTiles g = 0 || chPolicy d.chain = 0 then []
  else
    let n := statCols d g
    (if chStatAddr d.chain = 0 then [] else [(chStatAddr d.chain, 8 * g.m)])
      ++ (if chPolicy d.chain = 3 then [(chCorrAddr d.chain, g.m * (4 * ceilDiv n 64))] else [])
      ++ (if chPolicy d.chain = 2 then ifKnown (statCode d) [(chSplitAddr d.chain, spanLen g.m (chSplitStride d.chain) (n * statWidth d))] else [])

/-- The ranges a matrix descriptor reads, and those it writes. -/
def mxReads (d : Desc) : List (Nat × Nat) := mxOperands d (geoOf d) ++ stageVectors d (geoOf d)
@[inherit_doc mxReads] def mxWrites (d : Desc) : List (Nat × Nat) :=
  storeRanges d (geoOf d) ++ sendRanges d (geoOf d) ++ statRanges d (geoOf d)

/-- What validation read beside the operands: the chain block and the peer table (R68, R90). -/
def chainReads (d : Desc) : List (Nat × Nat) :=
  (mxChain d, 320) :: (match chFind d.chain 0x18 with
    | some t => [(t.addr, 32 * (t.sub % 32))]
    | none => [])

/-- Bytes of a slot, and slots in the hold region (R83). -/
def holdSlot (d : Desc) (g : Geo) : Nat :=
  let n := statCols d g
  min g.rows g.m * (ceilDiv (n * statWidth d) 128 * 128 + 8 * ceilDiv n 64)
@[inherit_doc holdSlot] def holdSlots (d : Desc) (g : Geo) : Nat :=
  if holdSlot d g = 0 then 0 else chHoldBytes d.chain / holdSlot d g

/-! Waiting (R94). -/

/-- A descriptor whose hold region overlaps that of one not yet retired waits (R94). -/
def holdClash (s : State) (x : Desc) : Bool :=
  chPolicy x.chain == 1 && s.descs.any fun y => y.id != x.id && chPolicy y.chain == 1
    && (match y.engine with
      | .matrix _ => overlap (chHoldAddr x.chain) (chHoldBytes x.chain) (chHoldAddr y.chain) (chHoldBytes y.chain)
      | _ => false)

/-- The matrix run of a descriptor, if it has one. -/
def mxRun (d : Desc) : Option MxRun :=
  match d.engine with
  | .matrix r => some r
  | _ => none

/-- The matrix run of a descriptor changed. -/
def mxUpd (s : State) (d : Nat) (f : MxRun → MxRun) : State :=
  descUpd s d fun x => match x.engine with
    | .matrix r => { x with engine := .matrix (f r) }
    | _ => x

/-- Whether a descriptor still runs. -/
def stillRuns (s : State) (d : Nat) : Bool :=
  match descGet s d with
  | some x => x.phase == .running
  | none => false

/-- The lowest tile of list entry `i` that has not drained (R59). -/
def curTile (g : Geo) (r : MxRun) (i : Nat) : Option Nat :=
  let len := r.parts.length
  match (List.range (r.drained.length + 1)).find? fun j => !r.drained.contains (i + j * len) with
  | some j => if i < len && i + j * len < geoTiles g then some (i + j * len) else none
  | none => none

/-- Whether a partition has run every tile that descriptors started earlier dealt to it (R53). -/
def partTurn (s : State) (r : MxRun) (p : Nat × Nat) : Bool :=
  !(s.descs.any fun y => match mxRun y with
    | some q =>
      (y.phase == .running || y.phase == .replaying) && q.order < r.order
        && ((List.range q.parts.length).any fun i => q.parts[i]? == some p && (curTile (geoOf y) q i).isSome)
    | none => false)

/-- Planes streamed for the current tile of list entry `i`. -/
def streamedOf (r : MxRun) (i : Nat) : Nat := ((r.streamed.find? fun p => p.1 == i).map (·.2)).getD 0

/-- The count of streamed planes of an entry set. -/
def streamedSet (r : MxRun) (i n : Nat) : MxRun :=
  { r with streamed := (i, n) :: r.streamed.filter fun p => p.1 != i }

/-! Destinations (R83 to R85, R89, R91). -/

/-- First column and columns of a tile at a stage's input. -/
def tileColAt (d : Desc) (g : Geo) (pos t : Nat) : Nat × Nat :=
  let c := tileCol g t
  if halvedAt d.chain pos then (c.1 / 2, c.2 / 2) else c

/-- Where a row of a tile lies in a destination whose rows hold `w` columns: elements, then scales. -/
def rowPlace (f : Fmt) (base stride scale w row col n : Nat) : (Nat × Nat) × (Nat × Nat) :=
  let e := elemSpan f col n
  let c := scaleSpan f col n
  ((base + row * stride + e.1, fmtRowBytes f n), (scale + row * fmtScaleBytes f w + c.1, c.2))

/-- The destinations of a tile at a terminal stage: a STORE has one, a SEND the entries of its table, of which DEAL takes
that of the tile's columns (R89, R91). -/
def destSlots (d : Desc) (g : Geo) (t : Stage) (col : Nat) : List Nat :=
  if t.kind = 0x19 then [0]
  else if bitOf 7 t.sub then [col / max (sendWidth d g t) 1]
  else List.range (t.sub % 32)

/-- Where a row of a tile lies in a destination, elements and scales, and the counter that its writes advance. -/
def rowDest (d : Desc) (g : Geo) (t : Stage) (slot row col n : Nat) : (Nat × Nat) × (Nat × Nat) × Option Nat :=
  let f := fmtAt t.fmt
  if t.kind = 0x19 then
    let r := rowPlace f t.addr t.stride t.addr2 (colsAt g d.chain t.pos) row col n
    (r.1, r.2, none)
  else
    let w := sendWidth d g t
    let p := peerAt (chPeers d.chain) slot
    let r := rowPlace f p.base p.stride p.scale w row (if bitOf 7 t.sub then col - slot * w else col) n
    (r.1, r.2, if p.counted then some p.counter else none)

/-- The ranges of a tile's destinations at a terminal stage. -/
def tileRanges (d : Desc) (g : Geo) (t : Nat) (st : Stage) : List (Nat × Nat) :=
  let c := tileColAt d g 8 t
  let rows := tileRow g t
  ((destSlots d g st c.1).map fun k => ((List.range rows.2).map fun i =>
    let p := rowDest d g st k (rows.1 + i) c.1 c.2
    [p.1, p.2.1]).flatten).flatten

/-- Tiles of a row group, and its rows. -/
def groupTiles (g : Geo) (i : Nat) : List Nat := (List.range g.tn).map fun j => i * g.tn + j
@[inherit_doc groupTiles] def groupRows (g : Geo) (i : Nat) : List Nat :=
  (List.range (min g.rows (g.m - i * g.rows))).map fun j => i * g.rows + j

/-- Everything that a tile stores and sends. -/
def tileDests (d : Desc) (g : Geo) (t : Nat) : List (Nat × Nat) :=
  ((chStages d.chain).filter fun st => isTerminal st.kind).flatMap (tileRanges d g t)

/-- The statistics, corrections, SPLIT buffer rows and slot of a row group (R82 to R85). -/
def groupDests (d : Desc) (g : Geo) (i : Nat) : List (Nat × Nat) :=
  let n := statCols d g
  let rows (a stride len : Nat) : List (Nat × Nat) := (groupRows g i).map fun r => (a + r * stride, len)
  match chPolicy d.chain with
  | 0 => []
  | p =>
    (if chStatAddr d.chain ≠ 0 then rows (chStatAddr d.chain) 8 8 else [])
      ++ (if p = 1 && holdSlots d g ≠ 0 then
          [(chHoldAddr d.chain + i % holdSlots d g * holdSlot d g, holdSlot d g)] else [])
      ++ (if p = 2 then rows (chSplitAddr d.chain) (chSplitStride d.chain) (n * statWidth d) else [])
      ++ (if p = 3 then rows (chCorrAddr d.chain) (4 * ceilDiv n 64) (4 * ceilDiv n 64) else [])

/-! Outputs undefined by a write of others (R62, R94). -/

/-- Whether others have written in a range of the own window while the descriptor runs. -/
def touched (s : State) (d : Desc) (r : Nat × Nat) : Bool :=
  isOwn s r.1 && d.clobbered.any fun w => overlap w.1 w.2 (offsetOf r.1) r.2

/-- A range as the elements `lo` to `lo + n − 1` of a stored row, elements and scales. -/
def elemReads (f : Fmt) (addr saddr lo n : Nat) : List (Nat × Nat) :=
  let e := elemSpan f lo n
  let c := scaleSpan f lo n
  if n = 0 then [] else [(addr + e.1, e.2)] ++ (if c.2 = 0 then [] else [(saddr + c.1, c.2)])

/-- The stored row of B with index `n`, its elements `lo` to `lo + k − 1`. -/
def weightReads (d : Desc) (g : Geo) (n lo k : Nat) : List (Nat × Nat) :=
  let len := if g.fwd then g.red else g.cols
  elemReads g.fb (mxB d + n * mxBStride d) (mxBScale d + n * fmtScaleBytes g.fb len) lo k

/-- What output rows `r0` to `r0 + nr − 1` read of the streamed operand at contraction indices `k0` to `k0 + n − 1`;
`row` gives the streamed row. -/
def streamReads (d : Desc) (g : Geo) (row : Nat → Nat) (r0 nr k0 n : Nat) : List (Nat × Nat) :=
  if chHas d.chain 0x01 then
    ((List.range n).map fun i => elemReads g.fa (mxA d + (k0 + i) * mxAStride d) 0 r0 nr).flatten
  else ((List.range nr).map fun i =>
    let x := row (r0 + i)
    elemReads g.fa (mxA d + x * mxAStride d) (mxAScale d + x * fmtScaleBytes g.fa g.red) k0 n).flatten

/-- C's entries for a row. -/
def initReads (d : Desc) (r c0 n : Nat) : List (Nat × Nat) :=
  if mxCEn d then [(mxC d + r * mxCStride d + 4 * c0, 4 * n)] else []

/-- Whether row group `i` read or wrote a range that others wrote (R94). -/
def groupTouched (s : State) (d : Desc) (g : Geo) (i : Nat) : Bool :=
  let vecs := ((chStages d.chain).map fun t =>
    stageReads g t (i * g.rows) (groupRows g i).length 0 (colsAt g d.chain t.pos)).flatten
  (groupDests d g i ++ vecs).any (touched s d)

/-- Columns whose values follow from the marked ones, through the stages (R79, R80, R82, R85). -/
def spreadMarks (d : Desc) (marks : List Bool) : List Bool :=
  let blocks (n : Nat) (ms : List Bool) : List Bool :=
    ((chunksOf n ms.length ms).map fun c => c.map fun _ => c.any id).flatten
  (chStages d.chain).foldl (fun ms t =>
    match t.kind with
    | 0x11 => (List.range (ms.length / 2)).map fun o =>
        (ms[64 * (o / 32) + o % 32]?).getD false || (ms[64 * (o / 32) + o % 32 + 32]?).getD false
    | 0x10 => blocks (max (fmtBlock (fmtAt t.fmt)) 1) ms
    | 0x16 => if chPolicy d.chain = 3 then (if chRms d.chain then ms else blocks 64 ms) else ms.map fun _ => ms.any id
    | _ => ms) marks

/-- Elements `lo` to `lo + n − 1` of a stored row of the own scratchpad made undefined, and no bit more. -/
def elemHavoc (s : State) (f : Fmt) (row lo n : Nat) : State :=
  let e := elemSpan f lo n
  let off := offsetOf row + e.1
  if n = 0 || !isOwn s row || !inSpm s off e.2 then s
  else
    let r := drawBytes s e.2
    let sh := lo * fmtBits f - 8 * e.1
    wildStore r.2 off (mixBits (spmBytes s off e.2) r.1 sh (min (8 * e.2 - sh) (n * fmtBits f)))

/-- A row's stored elements and scales, marked columns made undefined. -/
def markHavoc (s : State) (f : Fmt) (row srow : Nat) (marks : List Bool) : State :=
  (List.range marks.length).foldl (fun s c =>
    if (marks[c]?).getD false then
      let s := elemHavoc s f row c 1
      let b := fmtBlock f
      if b ≠ 0 && c % b = 0 then rangeHavoc s (srow + c / b, 1) else s
    else s) s

/-- Marked columns of a row, but for those of tiles that have not been stored. -/
def storedMarks (d : Desc) (g : Geo) (r : MxRun) (row : Nat) (marks : List Bool) : List Bool :=
  let w := max (widthAt g d.chain 8) 1
  ((List.range marks.length).zip marks).map fun p => p.2 && r.sent.contains (row / g.rows * g.tn + p.1 / w)

/-- A row of the SPLIT buffer made undefined, but for the columns of tiles that have not drained (R94). -/
def splitTaint (s : State) (d : Desc) (g : Geo) (r : MxRun) (row : Nat) : State :=
  let w := max (widthAt g d.chain (statPos d.chain)) 1
  let n := statCols d g
  (List.range g.tn).foldl (fun s j =>
    if r.drained.contains (row / g.rows * g.tn + j) && j * w < n then
      rangeHavoc s (chSplitAddr d.chain + row * chSplitStride d.chain + j * w * statWidth d, min w (n - j * w) * statWidth d)
    else s) s

/-- The outputs of a descriptor whose operands others wrote are undefined, as far as it stored them (R62, R94). -/
def mxTaint (s : State) (d : Desc) : State :=
  if d.clobbered.isEmpty then s
  else
    let g := geoOf d
    let run := (mxRun d).getD { mode := 0, parts := [] }
    let view := heldByte s d.id
    let colHit := (List.range g.cols).map fun c =>
      if g.diag then (elemReads g.fb (mxB d) (mxBScale d) c 1).any (touched s d)
      else if g.red = 0 then false
      else if g.fwd then (weightReads d g c 0 g.red).any (touched s d)
      else (List.range g.red).any fun n => (weightReads d g n c 1).any (touched s d)
    let w := statCols d g
    (List.range g.m).foldl (fun s r =>
      let i := r / g.rows
      let whole := groupTouched s d g i
        || (!g.diag && (streamReads d g (streamRow view d) r 1 0 g.red).any (touched s d))
      let marks := (List.range g.cols).map fun c =>
        whole || (colHit[c]?).getD false || (initReads d r c 1).any (touched s d)
          || (g.diag && (elemReads g.fa (mxA d) (mxAScale d) c 1).any (touched s d))
      if !marks.any id then s
      else
        let out := storedMarks d g run r (spreadMarks d marks)
        let s := match chFind d.chain 0x19 with
          | some t =>
            let f := fmtAt t.fmt
            markHavoc s f (t.addr + r * t.stride) (t.addr2 + r * fmtScaleBytes f (colsAt g d.chain t.pos)) out
          | none => s
        let s := match chFind d.chain 0x18 with
          | some t =>
            let f := fmtAt t.fmt
            let sw := sendWidth d g t
            (List.range (t.sub % 32)).foldl (fun s k =>
              let p := peerAt (chPeers d.chain) k
              let part := if bitOf 7 t.sub then (out.drop (k * sw)).take sw else out
              markHavoc s f (p.base + r * p.stride) (p.scale + r * fmtScaleBytes f sw) part) s
          | none => s
        if chPolicy d.chain = 0 then s
        else
          let s := if chPolicy d.chain = 2 then splitTaint s d g run r else s
          if !run.groups.contains i then s
          else
            let s := if chStatAddr d.chain = 0 then s else rangeHavoc s (chStatAddr d.chain + 8 * r, 8)
            if chPolicy d.chain = 3 then
              rangeHavoc s (chCorrAddr d.chain + r * (4 * ceilDiv w 64), 4 * ceilDiv w 64) else s) s

/-! Completion (R45, R61, R84, R91), and stops (R41 to R43, R78). -/

/-- The planes of a descriptor that gives up its partitions: with `keep`, kept and tagged under DESC.retain, which
MXE_CFG.RETAIN_EN honours (R61, R401).  Its accumulator shares are free again. -/
def mxPlanes (s : State) (d : Desc) (keep : Bool) : State :=
  let planes := s.mxe.planes.filterMap fun p =>
    if p.owner != d.id || p.retained then some p
    else if keep && mxRetain d && bitOf 1 (regGet s 0x400000) then some { p with retained := true }
    else none
  { s with mxe := { s.mxe with planes := planes, accs := s.mxe.accs.filter fun a => a.owner != d.id } }

/-- The report of a descriptor that ends at a stop: what the row groups up to it gave, whatever the order in which their
tiles drained (R60, R63; DEDUCED, assumption 84). -/
def stopReport (r : MxRun) (x : MxStop) : Report :=
  let rep := r.tallies.foldl (fun a p => if p.1 ≤ x.group then reportJoin a p.2 else a) {}
  if x.status = stNanTrap then rep else { rep with trap := none }

/-- Whether one stop decides before another: that of the lower row group, there a failed access or a gather index before
a NaN, and then that of the lower tile. -/
def stopBefore (x y : MxStop) : Bool :=
  let key (z : MxStop) : Nat × Nat := (boolBit (z.status == stNanTrap), z.tile)
  x.group < y.group || (x.group == y.group
    && ((key x).1 < (key y).1 || ((key x).1 == (key y).1 && (key x).2 < (key y).2)))

/-- The stop that a failed write makes: that of the tile that it belongs to, or of the row group whose statistic,
correction, SPLIT buffer or slot it writes (R92). -/
def missStop (d : Desc) (g : Geo) (m : MxMiss) : MxStop :=
  let a := m.det.addr.toNat
  let into (w : Nat × Nat) : Bool := w.1 ≤ a && a < w.1 + w.2
  let tile := ((List.range (geoTiles g)).find? fun t => (tileDests d g t).any into)
  let group := (List.range g.tm).find? fun i => (groupDests d g i).any into
  let t := tile.getD (group.getD 0 * g.tn)
  { group := t / max g.tn 1, tile := t, status := m.status, det := m.det }

/-- The stop that decides among those met (R41, R78, R92, R189). -/
def firstStop (d : Desc) (g : Geo) (r : MxRun) : Option MxStop :=
  (r.stops ++ r.missed.map (missStop d g)).foldl (fun a x => match a with
    | some y => if stopBefore x y then some x else a
    | none => some x) none

/-- Whether every tile that could bring an earlier stop than that of row group `i` has been examined and its writes
answered, so that the stop takes effect: it then depends on no order of drains (R59, R60, R63). -/
def stopDue (d : Desc) (g : Geo) (r : MxRun) (i : Nat) : Bool :=
  d.unacked == 0 && ((List.range ((i + 1) * g.tn)).all r.drained.contains)
    && (chPolicy d.chain == 0 || (List.range i).all r.groups.contains)
    && r.passes.all fun p => p.done || i < p.group

/-- A running matrix descriptor ends at its stop, or completes once every tile has drained, every row group is final,
every pass has retired and every write is acknowledged. -/
def mxDone (s : State) (d : Nat) : State :=
  match descGet s d with
  | none => s
  | some x => match mxRun x with
    | none => s
    | some r =>
      let g := geoOf x
      if x.phase != .running then s
      else match firstStop x g r with
        | some st =>
          if !stopDue x g r st.group then s
          else endDesc (descUpd s d fun x => { x with report := stopReport r st }) d st.status st.det
        | none =>
          if x.unacked = 0 && r.drained.length = geoTiles g
              && (geoTiles g = 0 || chPolicy x.chain = 0 || r.groups.length = g.tm) && r.passes.all (·.done) then
            endDesc (mxPlanes (mxTaint s x) x true) d 0 {}
          else s

/-! Starting (R53, R59, R65, R224). -/

/-- A matrix descriptor starts when its list can be formed, and PTM admits the start of its partitions (R298); one that
runs completes if nothing is left.  One with no output tile waits for its list too and then takes no partition, so that no
array changes (R53; DESIGN CHOICE, assumption 161).  Every array of the list changes its mode at the start, also one that is
dealt no tile (R52; DESIGN CHOICE, assumption 163). -/
def mxStart (s : State) (x : Desc) : State :=
  if x.phase = .running then mxDone s x.id
  else
    let g := geoOf x
    let list := formList s (mxArrays x) g.mode
    let rival (y : Desc) : Bool :=
      isMatrix y && mxArrays y &&& mxArrays x != 0 && !(formList s (mxArrays y) (geoOf y).mode).isEmpty && !holdClash s y
    if !mayStart s x || list.isEmpty || holdClash s x || !firstOf s x rival then s
    else
      let parts := if geoTiles g = 0 then [] else list
      let islands := (parts.map fun p =>
        ((List.range 16).filter (covers g.mode p.2)).map fun q => 16 * p.1 + q).flatten
      match wakeFor s islands with
      | some s => s
      | none =>
        if !parts.isEmpty && !admitted s then s
        else
          let s := if parts.isEmpty then s else risePower s
          let n := newId s
          let s := parts.foldl (fun s p => setMode s p.1 g.mode) n.2
          let s := takeHolds s x.id (mxReads x ++ chainReads x)
          mxDone (descUpd s x.id fun x => { x with
            phase := .running, runs := 1, engine := .matrix { mode := g.mode, parts, order := n.1 } }) x.id

/-- R59. A MATMUL descriptor starts, or completes once nothing of it is left to do. -/
def execMatmul (d : Nat) (s : State) : Result :=
  .next <| whenLive s fun s => match descGet s d with
    | some x => if dop x = 0x10 then mxStart s x else s
    | none => s

/-- R65. A DIAG descriptor starts, or completes once nothing of it is left to do. -/
def execDiag (d : Nat) (s : State) : Result :=
  .next <| whenLive s fun s => match descGet s d with
    | some x => if dop x = 0x11 then mxStart s x else s
    | none => s

/-- A partition's accumulator share is free again. -/
def accDrop (s : State) (p : Nat × Nat) : State :=
  { s with mxe := { s.mxe with accs := s.mxe.accs.filter fun a => !(a.array == p.1 && a.part == p.2) } }

/-- Whether a descriptor may still examine a tile of row group `i`: past its stop, only the tiles that the stop waits
for. -/
def groupOpen (d : Desc) (g : Geo) (r : MxRun) (i : Nat) : Bool :=
  match firstStop d g r with
  | some x => i ≤ x.group
  | none => true

/-- A stop met in a row group. -/
def noteStop (s : State) (d : Nat) (x : MxStop) : State := mxUpd s d fun r => { r with stops := r.stops ++ [x] }

/-- A partition is done with its tile. -/
def tileDrained (s : State) (d i t : Nat) : State :=
  mxUpd s d fun r => streamedSet { r with drained := t :: r.drained } i 0

/-- A tile's stop before it drains: its partition turns to the next one. -/
def tileFails (s : State) (d i : Nat) (p : Nat × Nat) (x : MxStop) : State :=
  mxDone (tileDrained (accDrop (noteStop s d x) p) d i x.tile) d

/-- The tile of entry `i` of the partition list meets a read that brings no bytes: it waits, the descriptor replays
(R187), or the read is the tile's stop (R188, R189). -/
def tileStops (s : State) (d : Nat) (g : Geo) (i t : Nat) (p : Nat × Nat) (x : Nat × Rd) : State :=
  match x.2 with
  | .refetch b => refetchStop (mxUpd s d fun r => { r with met := i }) d b
  | rd => match rdFault s x.1 rd with
    | some f => tileFails s d i p { group := t / max g.tn 1, tile := t, status := f.1, det := f.2 }
    | none => s

/-- What the end of row group `i` reads is bad or missing: it waits, the descriptor replays, or the group stops. -/
def groupStops (s : State) (d : Nat) (g : Geo) (i : Nat) (x : Nat × Rd) : State :=
  match x.2 with
  | .refetch b => refetchStop s d b
  | rd => match rdFault s x.1 rd with
    | some f => noteStop s d { group := i, tile := i * g.tn, status := f.1, det := f.2 }
    | none => s

/-! The cells' parity (R187). -/

/-- Whether parity is bad in the planes, the accumulator or the elastic links of a partition. -/
def cellsBad (s : State) (mode : Nat) (p : Nat × Nat) : Bool :=
  s.mxe.bad.any fun c => c / 16 == p.1 && covers mode p.2 (c % 16)

/-- A descriptor meets such an error: it is replayed, backed or not, since its operands are still in place (R187); what
the cells held is formed again. -/
def cellsMet (s : State) (d i mode : Nat) (p : Nat × Nat) : State :=
  let here (c : Nat) : Bool := c / 16 == p.1 && covers mode p.2 (c % 16)
  if !stillRuns s d then s
  else
    let s := { s with mxe := { s.mxe with bad := s.mxe.bad.filter fun c => !here c } }
    descUpd (mxUpd s d fun r => { r with met := i }) d fun x => { x with phase := .replaying, waitBlock := none, detail := {} }

/-! Plane loads (R45, R46, R59, R61). -/

/-- The ranges of B that plane (kk, nn) holds: its K and N extents (R59). -/
def planeReads (d : Desc) (g : Geo) (kk nn : Nat) : List (Nat × Nat) :=
  let n := if g.fwd then g.cols else g.red
  let k := if g.fwd then g.red else g.cols
  let k0 := kk * (g.edge * g.pack)
  let n0 := nn * g.edge
  ((List.range (min g.edge (n - n0))).map fun i =>
    weightReads d g (n0 + i) k0 (min (g.edge * g.pack) (k - k0))).flatten

/-- Plane (kk, nn) of a descriptor's B on a partition; its cells come with its load. -/
def planeOf (d : Desc) (g : Geo) (p : Nat × Nat) (kk nn : Nat) : Plane :=
  let n := if g.fwd then g.cols else g.red
  let k := if g.fwd then g.red else g.cols
  let k0 := kk * (g.edge * g.pack)
  let n0 := nn * g.edge
  let nc := min g.edge (n - n0)
  let e := elemSpan g.fb k0 (min (g.edge * g.pack) (k - k0))
  let sb := fmtScaleBytes g.fb k
  { owner := d.id, array := p.1, part := p.2, mode := g.mode, b := mxB d, bScale := mxBScale d, bStride := mxBStride d
    fmt := mxFmtB d, tscale := mxTsB d, kk, nn, range := (mxB d + n0 * mxBStride d + e.1, spanLen nc (mxBStride d) e.2)
    sRange := if sb = 0 then (0, 0) else (mxBScale d + n0 * sb, nc * sb), retained := false, active := true }

/-- Whether two planes have one identity on one partition (R61). -/
def samePlane (a b : Plane) : Bool :=
  a.array == b.array && a.part == b.part && a.mode == b.mode && a.b == b.b && a.bScale == b.bScale
    && a.bStride == b.bStride && a.fmt == b.fmt && a.tscale == b.tscale && a.kk == b.kk && a.nn == b.nn

/-- The byte of a weight or block scale that a plane holds, by the address it was loaded from. -/
def planeByte (p : Plane) (a : Nat) : Byte := ((p.cells.find? fun c => c.1 == a).map (·.2)).getD 0

/-- Whether a plane holds every byte of these ranges: one kept of a smaller shape is only partly filled. -/
def planeHolds (p : Plane) (rs : List (Nat × Nat)) : Bool :=
  rs.all fun r => (List.range r.2).all fun i => p.cells.any fun c => c.1 == r.1 + i

/-- The retained plane that a partition may be issued in place of a load (R61): of a B in the own scratchpad, whose every
write XBR sees, so that the bits are those of a load (DESIGN CHOICE, assumption 86). -/
def planeKept (s : State) (d : Desc) (g : Geo) (p : Plane) : Option Plane :=
  let rs := planeReads d g p.kk p.nn
  if rs.all fun r => isOwn s r.1 then s.mxe.planes.find? fun q => q.retained && samePlane q p && planeHolds q rs
  else none

/-- The wavefront of a partition switches to a plane that it holds (R45). -/
def planeSwitch (s : State) (p : Plane) : State :=
  let turn (q : Plane) : Plane :=
    if q.array == p.array && q.part == p.part then { q with active := samePlane q p } else q
  { s with mxe := { s.mxe with planes := s.mxe.planes.map turn } }

/-- A plane loaded and switched to: the partition's retained planes are cleared, an older load of the plane is replaced,
and at most four planes stay there (R45, R61). -/
def planePut (s : State) (p : Plane) : State :=
  let here (q : Plane) : Bool := q.array == p.array && q.part == p.part
  let old := (s.mxe.planes.filter fun q => here q && !q.retained && !samePlane q p).map fun q => { q with active := false }
  { s with mxe := { s.mxe with
    planes := (s.mxe.planes.filter fun q => !here q) ++ (old.drop (old.length - 3)) ++ [p] } }

/-- The bytes of ranges, each under its address. -/
def cellsOf (byte : Nat → Byte) (rs : List (Nat × Nat)) : List Host.Cell :=
  (rs.map fun r => (List.range r.2).map fun i => (r.1 + i, byte (r.1 + i))).flatten

/-- Contraction indices that a plane serves: first and count (R59). -/
def planeSpan (g : Geo) (kk nn : Nat) : Nat × Nat :=
  let d := if g.fwd then g.edge * g.pack else g.edge
  let k0 := (if g.fwd then kk else nn) * d
  (k0, min d (g.red - k0))

/-! The accumulator (R51, R59). -/

/-- The rows that a tile's accumulator share holds before any product, and those of a diagonal tile with its one
product (R65). -/
def accOpen (byte : Nat → Byte) (d : Desc) (g : Geo) (t : Nat) : List (List AccSum) × Flags :=
  let rs := tileRow g t
  let cs := tileCol g t
  if g.diag then
    let r := diagRow byte d g cs.1 cs.2
    ([r.1], r.2)
  else ((List.range rs.2).map fun i => (List.range cs.2).map fun c => accStart byte d g (rs.1 + i) (cs.1 + c), 0)

/-- What a partition has accumulated of a tile. -/
def accAt (s : State) (byte : Nat → Byte) (d : Desc) (g : Geo) (p : Nat × Nat) (t : Nat) : List (List AccSum) × Flags :=
  match s.mxe.accs.find? fun a => a.array == p.1 && a.part == p.2 && a.owner == d.id && a.tile == t with
  | some a => (a.rows, a.flags)
  | none => accOpen byte d g t

/-- A partition's accumulator share takes a tile's sums. -/
def accPut (s : State) (d : Desc) (p : Nat × Nat) (t : Nat) (x : List (List AccSum) × Flags) : State :=
  { s with mxe := { s.mxe with
    accs := (s.mxe.accs.filter fun a => !(a.array == p.1 && a.part == p.2))
      ++ [{ array := p.1, part := p.2, owner := d.id, tile := t, rows := x.1, flags := x.2 }] } }

/-- A tile's output rows stream through a plane (R59). -/
def accStream (byte weight : Nat → Byte) (d : Desc) (g : Geo) (t : Nat) (span : Nat × Nat)
    (x : List (List AccSum) × Flags) : List (List AccSum) × Flags :=
  ((List.range x.1.length).zip x.1).foldl (fun (acc : List (List AccSum) × Flags) p =>
    let r := accRow byte weight d g ((tileRow g t).1 + p.1) span.1 span.2 (tileCol g t).1 p.2
    (acc.1 ++ [r.1], acc.2 ||| r.2)) ([], x.2)

/-- C's entries that a tile takes. -/
def tileInit (d : Desc) (g : Geo) (t : Nat) : List (Nat × Nat) :=
  let rs := tileRow g t
  let cs := tileCol g t
  ((List.range rs.2).map fun i => initReads d (rs.1 + i) cs.1 cs.2).flatten

/-- The gather indices that a tile's rows take. -/
def gatherReads (d : Desc) (g : Geo) (t : Nat) : List (Nat × Nat) :=
  match chFind d.chain 0x02 with
  | some st => stageReads g st (tileRow g t).1 (tileRow g t).2 0 0
  | none => []

/-- What a tile reads as it streams through a plane, beside the plane, once its gather indices are known: the streamed
operand and DECODE's factors, and C before the first plane. -/
def passReads (d : Desc) (g : Geo) (row : Nat → Nat) (t : Nat) (span : Nat × Nat) (first : Bool) : List (Nat × Nat) :=
  let rs := tileRow g t
  streamReads d g row rs.1 rs.2 span.1 span.2
    ++ (match chFind d.chain 0x03 with
      | some st => stageReads g st rs.1 rs.2 0 0
      | none => [])
    ++ (if first then tileInit d g t else [])

/-- The first gather index of a tile that breaks R78: its address and its value. -/
def gatherBad (byte : Nat → Byte) (d : Desc) (g : Geo) (t : Nat) : Option (Nat × Nat) :=
  match chFind d.chain 0x02 with
  | none => none
  | some st =>
    let rs := tileRow g t
    ((List.range rs.2).map fun i => st.addr + 4 * (rs.1 + i)).findSome? fun a =>
      let v := leNat (peek byte a 4)
      if v ≥ st.imm0 then some (a, v) else none

/-- Whether an entry of the list may work on its current tile, which is in row group `i`. -/
def entryTurn (s : State) (x : Desc) (g : Geo) (r : MxRun) (p : Nat × Nat) (i : Nat) : Bool :=
  x.phase == .running && partTurn s r p && groupOpen x g r i

/-- The plane through which a tile streams next. -/
def nextPlane (x : Desc) (g : Geo) (p : Nat × Nat) (t k : Nat) : Plane :=
  let j := t % g.tn
  planeOf x g p (if g.fwd then k else j) (if g.fwd then j else k)

/-- R46. The next plane of a partition's tile finishes loading, or is already retained there, and the tile's rows stream
through it (R45, R59). -/
def execPlaneLoad (d part : Nat) (s : State) : Result :=
  .next <| whenLive s fun s => match descGet s d with
    | none => s
    | some x => match mxRun x with
      | none => s
      | some r =>
        let g := geoOf x
        match r.parts[part]?, curTile g r part with
        | some p, some t =>
          let k := streamedOf r part
          if k ≥ g.tr || !entryTurn s x g r p (t / max g.tn 1) then s
          else
            let q := readAll s d (gatherReads x g t)
            match q.2, gatherBad (heldByte q.1 d) x g t with
            | some e, _ => tileStops q.1 d g part t p e
            | none, some (a, v) =>
              tileFails q.1 d part p { group := t / max g.tn 1, tile := t, status := stGatherRange
                                       det := { addr := BitVec.ofNat 64 a, info0 := BitVec.ofNat 64 v } }
            | none, none =>
              let pl := nextPlane x g p t k
              let span := planeSpan g pl.kk pl.nn
              let kept := planeKept s x g pl
              let weights := planeReads x g pl.kk pl.nn
              let q := readAll q.1 d ((if kept.isSome then [] else weights)
                ++ passReads x g (streamRow (heldByte q.1 d) x) t span (k == 0))
              match q.2 with
              | some e => tileStops q.1 d g part t p e
              | none =>
                if cellsBad q.1 g.mode p then cellsMet q.1 d part g.mode p
                else
                  let view := viewOf q.1 x
                  let pl := kept.getD { pl with cells := cellsOf view.1 weights }
                  let s := if kept.isSome then planeSwitch view.2 pl else planePut view.2 pl
                  let sums := accStream view.1 (planeByte pl) x g t span
                    (if k = 0 then accOpen view.1 x g t else accAt s view.1 x g p t)
                  mxUpd (accPut s x p t sums) d fun r => streamedSet r part (k + 1)
        | _, _ => s

/-! Tiles (R59, R83 to R85, R89, R91). -/

/-- A tile's rows at a terminal stage: stage, row, first column, columns, element bytes and scale bytes. -/
structure OutRow where
  stage : Stage
  row : Nat
  col : Nat
  n : Nat
  elems : List Byte
  scales : List Byte
deriving DecidableEq, Repr

/-- Rows of lanes from the last value-changing stage's input through the terminal stages, each of which sees what the
one before it rounded (R74). -/
def tileOut (byte : Nat → Byte) (coef : Nat → Word) (d : Desc) (g : Geo) (c0 : Nat) (rows : List (Nat × List Lane)) :
    List OutRow × Report :=
  let r := rows.foldl (fun (acc : List OutRow × List Lane × Report) p =>
    let y := stagesRow byte coef d g p.1 (stagesAfter d.chain) c0 p.2 {}
    ((chStages d.chain).filter fun t => isTerminal t.kind).foldl (fun (acc : List OutRow × List Lane × Report) t =>
      let z := termRow d g t p.1 c0 acc.2.1
      (acc.1 ++ [{ stage := t, row := p.1, col := c0, n := y.1.length, elems := z.elems, scales := z.scales }],
        z.lanes, reportJoin acc.2.2 z.report)) (acc.1, y.1, reportJoin acc.2.2 y.2)) ([], [], {})
  (r.1, r.2.2)

/-- A write of a row's bytes while the descriptor runs. -/
def rowWrite (s : State) (d : Desc) (addr : Nat) (bs : List Byte) (counter : Option Nat) : State :=
  if bs.isEmpty || !stillRuns s d.id then s
  else descWrite s d.id { kind := .write, addr, len := bs.length, data := bs, src := d.src, counter }

/-- A write of a tile: address, bytes and counter. -/
structure TileWrite where
  addr : Nat
  bytes : List Byte
  counter : Option Nat
deriving DecidableEq, Repr

/-- The writes of a tile at the stages of a kind: entry by entry in table order, and row by row within one (R91). -/
def tileWrites (d : Desc) (g : Geo) (kind : Nat) (outs : List OutRow) : List TileWrite :=
  let rows := outs.filter fun o => o.stage.kind == kind
  match rows with
  | [] => []
  | o :: _ => ((destSlots d g o.stage o.col).map fun k =>
    (rows.map fun o =>
      let p := rowDest d g o.stage k o.row o.col o.n
      [{ addr := p.1.1, bytes := o.elems, counter := p.2.2 }, { addr := p.2.1.1, bytes := o.scales, counter := p.2.2 }]).flatten).flatten

/-- The destinations of a tile at the terminal stages of a kind, in the own scratchpad, made undefined (R43, R92). -/
def tileWild (s : State) (d : Desc) (g : Geo) (kind t : Nat) : State :=
  ((chStages d.chain).filter fun st => st.kind == kind).foldl (fun s st => (tileRanges d g t st).foldl rangeHavoc s) s

/-- A tile whose store was under way (R43). -/
def tileHavoc (s : State) (d : Desc) (g : Geo) (t : Nat) : State := tileWild (tileWild s d g 0x19 t) d g 0x18 t

/-- A tile's report joins that of its row group, and of the descriptor. -/
def addReport (s : State) (d i : Nat) (rep : Report) : State :=
  let s := mxUpd s d fun r =>
    let old := ((r.tallies.find? fun p => p.1 == i).map (·.2)).getD {}
    { r with tallies := (i, reportJoin old rep) :: r.tallies.filter fun p => p.1 != i }
  descUpd s d fun x => { x with report := reportJoin x.report { rep with trap := none } }

/-- The report of tile `t`, and the stop that its NaN makes (R41).  What the tile would have stored is then undefined and
counts as no value stored (R39, R43; DEDUCED, assumption 84). -/
def reportStop (s : State) (d : Nat) (g : Geo) (t : Nat) (rep : Report) : State :=
  let i := t / max g.tn 1
  if rep.trap.isSome then noteStop (addReport s d i { rep with nf := none }) d { group := i, tile := t, status := stNanTrap }
  else addReport s d i rep

/-- The write at place `k` of a tile's order of sending, counted unless an earlier run had sent it (R93). -/
def tileSend (s : State) (d : Desc) (t k : Nat) (w : TileWrite) : State :=
  let r := ((descGet s d.id).bind mxRun).getD { mode := 0, parts := [] }
  let again := r.begun.contains (t, k)
  let s := rowWrite s d w.addr w.bytes (if again then none else w.counter)
  mxUpd s d.id fun r => if again then r else { r with begun := r.begun ++ [(t, k)] }

/-- What a tile stores, and what it sends unless an earlier run sent it whole (R89, R91, R93). -/
def tileOrder (d : Desc) (g : Geo) (t : Nat) (outs : List OutRow) : List TileWrite × List TileWrite :=
  let sent := match mxRun d with
    | some r => r.sent.contains t
    | none => true
  (tileWrites d g 0x19 outs, if sent then [] else tileWrites d g 0x18 outs)

/-- A tile is stored, then sent (R89, R91, R93); `limit` bounds the writes that leave before a stop. -/
def tileEmit (s : State) (d : Desc) (g : Geo) (t : Nat) (outs : List OutRow) (limit : Option Nat) : State :=
  let o := tileOrder d g t outs
  let all := o.1.length + o.2.length
  let n := limit.getD all
  let s := (o.1.take n).foldl (fun s w => rowWrite s d w.addr w.bytes w.counter) s
  let s := ((List.range o.2.length).zip o.2 |>.take (n - o.1.length)).foldl (fun s p => tileSend s d t p.1 p.2) s
  if n < all then s
  else mxUpd s d.id fun r => { r with sent := setInsert r.sent t, begun := r.begun.filter fun p => p.1 != t }

/-- A tile's rows of lanes pass the later stages and are stored and sent, unless one of them traps: its store was then
under way (R43). -/
def tileFinish (s : State) (byte : Nat → Byte) (d : Desc) (g : Geo) (t : Nat) (rows : List (Nat × List Lane)) : State :=
  if !stillRuns s d.id then s
  else
    let o := tileOut byte (coefOf s) d g (tileColAt d g 8 t).1 rows
    let s := reportStop s d.id g t o.2
    if o.2.trap.isSome then tileHavoc s d g t else tileEmit s d g t o.1 none

/-- The columns of a tile cut from whole rows. -/
def sliceRows (d : Desc) (g : Geo) (t : Nat) (rows : List (Nat × List Lane)) : List (Nat × List Lane) :=
  let c := tileColAt d g 8 t
  rows.map fun p => (p.1, (p.2.drop c.1).take c.2)

/-- The NORMALIZE stage. -/
def normStage (d : Desc) : Stage := (chFind d.chain 0x17).getD (stageAt [] 0)

/-- The trap of a NaN statistic or correction of row `r`, at column `c` (R41). -/
def statTrap (d : Desc) (g : Geo) (r c : Nat) (vs : List Val) : Option TrapAt :=
  if !descTrap d || !vs.any valIsNan then none
  else
    let pos := (normStage d).pos
    let w := max (widthAt g d.chain pos) 1
    some { row := r, rank := if halvedAt d.chain pos then 64 * (c / 32) + c % 32 else c, stage := pos
           tile := r / g.rows * g.tn + c / w, nfRow := r % g.rows, nfCol := c % w }

/-- The report of a row's statistic, written or not (R39 to R41). -/
def statReport (d : Desc) (g : Geo) (r : Nat) (st : RowStat) : Report :=
  { flags := st.flags, trap := statTrap d g r 0 [st.first, st.second, st.rr]
    nf := if chStatAddr d.chain ≠ 0 && [st.first, st.second].any valNonfinite then some (r, 0) else none }

/-- A row normalised (R82): its statistic, its lanes and its report. -/
def normalRow (coef : Nat → Word) (d : Desc) (g : Geo) (r : Nat) (xs : List Val) : RowStat × List Lane × Report :=
  let n := normStage d
  let y := normRow coef g.strict (chRms d.chain) n xs
  let z := ((List.range y.2.length).zip y.2).foldl (fun (acc : List Lane × Report) p =>
    let l := stageRound d g n r p.1 p.2
    (acc.1 ++ [l.1], reportJoin acc.2 l.2)) ([], {})
  let trap := rowTrap d g n.pos r 0 (widthAt g d.chain n.pos) (halvedAt d.chain n.pos) z.1
  (y.1, z.1, reportJoin (reportJoin (statReport d g r y.1) z.2) { trap })

/-- The words of row statistics, written when the vector's address is set. -/
def statWrite (s : State) (d : Desc) (r : Nat) (off : Nat) (vs : List Val) : State :=
  if chStatAddr d.chain = 0 then s
  else rowWrite s d (chStatAddr d.chain + 8 * r + off) ((vs.map fun v => toLe 4 (toFp32 v).toNat).flatten) none

/-- The reads of the stages past NORMALIZE for a row group. -/
def postReads (d : Desc) (g : Geo) (i : Nat) : List (Nat × Nat) :=
  ((stagesAfter d.chain).map fun t =>
    stageReads g t (i * g.rows) (groupRows g i).length 0 (colsAt g d.chain t.pos)).flatten

/-- A tile's ROWSTAT results held, and those held of a row (R83 to R85). -/
def keepRows (s : State) (d t : Nat) (rows : List (Nat × List Lane)) : State :=
  mxUpd s d fun r => { r with kept := (t, rows) :: r.kept.filter fun p => p.1 != t }
@[inherit_doc keepRows] def keptRow (s : State) (d : Nat) (ts : List Nat) (row : Nat) : List Lane :=
  let r := ((descGet s d).bind mxRun).getD { mode := 0, parts := [] }
  (ts.map fun t => (((r.kept.find? fun p => p.1 == t).bind fun p => p.2.find? fun q => q.1 == row).map (·.2)).getD []).flatten

/-- A row group is final: what was held of it is given up. -/
def groupFinal (s : State) (d : Nat) (g : Geo) (i : Nat) : State :=
  mxUpd s d fun r => { r with groups := setInsert r.groups i, kept := r.kept.filter fun p => p.1 / max g.tn 1 != i }

/-- The end of a row group under HOLD (R83): the statistic, the tiles in ascending order, the vector. -/
def holdEnd (s : State) (byte : Nat → Byte) (d : Desc) (g : Geo) (i : Nat) : State :=
  let q := readAll s d.id [(chHoldAddr d.chain + i % max (holdSlots d g) 1 * holdSlot d g, holdSlot d g)]
  let s := q.1
  match q.2 with
  | some e => groupStops s d.id g i e
  | none =>
    let coef := coefOf s
    let rows := (groupRows g i).map fun r =>
      (r, normalRow coef d g r ((keptRow s d.id (groupTiles g i) r).map (·.val)))
    let rep := rows.foldl (fun a p => reportJoin a p.2.2.2) {}
    let s := reportStop s d.id g (i * g.tn) rep
    if rep.trap.isSome then s
    else
      let s := (groupTiles g i).foldl (fun s t =>
        tileFinish s byte d g t (sliceRows d g t (rows.map fun p => (p.1, p.2.2.1)))) s
      let s := rows.foldl (fun s p => statWrite s d p.1 0 [p.2.1.first, p.2.1.second]) s
      groupFinal s d.id g i

/-- The end of a row group under SPLIT on the matrix side (R84): its statistic, and its vector pass. -/
def splitEnd (s : State) (d : Desc) (g : Geo) (i : Nat) : State :=
  let coef := coefOf s
  let stat (r : Nat) : RowStat :=
    let xs := (keptRow s d.id (groupTiles g i) r).map (·.val)
    if chRms d.chain then rmsStat coef g.strict (normStage d) xs
    else
      let m := rowExt g.strict true xs
      { first := m.1, second := posZero, rr := posZero, flags := m.2 }
  let rows := (groupRows g i).map fun r => (r, stat r)
  let rep := rows.foldl (fun a p => reportJoin a (statReport d g p.1 p.2)) {}
  let s := reportStop s d.id g (i * g.tn) rep
  if rep.trap.isSome then s
  else
    let s := rows.foldl (fun s p =>
      statWrite s d p.1 0 (if chRms d.chain then [p.2.first, p.2.second] else [p.2.first])) s
    mxUpd s d.id fun r => { r with groups := setInsert r.groups i, passes := r.passes ++ [{ group := i }] }

/-- A tile's unnormalised values under RESCALE (R85), from its rows at the ROWSTAT output. -/
def rescaleRows (coef : Nat → Word) (d : Desc) (g : Geo) (c0 : Nat) (rows : List (Nat × List Lane)) :
    List (Nat × List Lane) × Report :=
  let n := normStage d
  rows.foldl (fun (acc : List (Nat × List Lane) × Report) p =>
    let z := ((List.range ((p.2.length + 63) / 64)).zip (chunksOf 64 p.2.length p.2)).foldl
      (fun (a : List Lane × Report) seg =>
        let st := segStat coef g.strict (chRms d.chain) (seg.2.map (·.val))
        ((List.range st.2.2.1.length).zip st.2.2.1).foldl (fun (a : List Lane × Report) e =>
          let l := stageRound d g n p.1 (c0 + 64 * seg.1 + e.1) (e.2, 0)
          (a.1 ++ [l.1], reportJoin a.2 l.2)) (a.1, reportJoin a.2 { flags := st.2.2.2 })) ([], {})
    let trap := rowTrap d g n.pos p.1 c0 (widthAt g d.chain n.pos) (halvedAt d.chain n.pos) z.1
    (acc.1 ++ [(p.1, z.1)], reportJoin acc.2 (reportJoin z.2 { trap }))) ([], {})

/-- The tiles that a tile completes under RESCALE: itself, or both halves of its segments, or none yet. -/
def rescaleTiles (d : Desc) (g : Geo) (drained : List Nat) (t : Nat) : List Nat :=
  let pos := statPos d.chain
  let c := tileColAt d g pos t
  if c.1 % 64 ≠ 0 then (if drained.contains (t - 1) then [t - 1, t] else [])
  else if c.2 % 64 = 0 || c.1 + c.2 = colsAt g d.chain pos then [t]
  else if drained.contains (t + 1) then [t, t + 1]
  else []

/-- Writes the tiles whose segments are complete (R85). -/
def rescaleEmit (s : State) (byte : Nat → Byte) (d : Desc) (g : Geo) (ts : List Nat) : State :=
  match ts with
  | [] => s
  | t0 :: _ =>
    let coef := coefOf s
    let c0 := (tileColAt d g 8 t0).1
    let rs := tileRow g t0
    let rows := (List.range rs.2).map fun i => (rs.1 + i, keptRow s d.id ts (rs.1 + i))
    let z := rescaleRows coef d g c0 rows
    let s := reportStop s d.id g t0 z.2
    if z.2.trap.isSome then ts.foldl (fun s t => tileHavoc s d g t) s
    else
      ts.foldl (fun s t =>
        let c := tileColAt d g 8 t
        tileFinish s byte d g t (z.1.map fun p => (p.1, (p.2.drop (c.1 - c0)).take c.2))) s

/-- The end of a row group under RESCALE (R85): the correction vector and the statistic vector. -/
def rescaleFinal (s : State) (d : Desc) (g : Geo) (i : Nat) : State :=
  let coef := coefOf s
  let rows := (groupRows g i).map fun r =>
    (r, rescaleEnd coef g.strict (chRms d.chain) (normStage d) ((keptRow s d.id (groupTiles g i) r).map (·.val)))
  let rep := rows.foldl (fun a (p : Nat × RowStat × List Val) =>
    let w := ((List.range p.2.2.length).zip p.2.2).foldl (fun (a : Report) (v : Nat × Val) =>
      reportJoin a { nf := if valNonfinite v.2 then some (p.1, 64 * v.1) else none
                     trap := statTrap d g p.1 (64 * v.1) [v.2] }) {}
    reportJoin a (reportJoin (statReport d g p.1 p.2.1) w)) {}
  let s := reportStop s d.id g (i * g.tn) rep
  if rep.trap.isSome then s
  else
    let s := rows.foldl (fun s p =>
      let s := rowWrite s d (chCorrAddr d.chain + p.1 * (4 * ceilDiv (statCols d g) 64))
        ((p.2.2.map fun v => toLe 4 (toFp32 v).toNat).flatten) none
      statWrite s d p.1 0 [p.2.1.first, p.2.1.second]) s
    groupFinal s d.id g i

/-- A tile's ROWSTAT outputs stored in the SPLIT buffer (R84).  DESIGN CHOICE (assumption 148): the buffer is between
the two parts of the descriptor, so that its values are none of those that R39 counts. -/
def splitStore (s : State) (d : Desc) (c0 : Nat) (rows : List (Nat × List Lane)) : State :=
  rows.foldl (fun s p =>
    rowWrite s d (chSplitAddr d.chain + p.1 * chSplitStride d.chain + c0 * statWidth d)
      (packCodes (statFmt d) (p.2.map fun l => encodeElem (statFmt d) l.val)) none) s

/-- What a tile reads when it drains: its operands where no plane brought them, and the vectors of its stages. -/
def tileReads (d : Desc) (g : Geo) (t : Nat) (last : Bool) : List (Nat × Nat) :=
  let rs := tileRow g t
  let cs := tileCol g t
  let ops := if g.diag then
      elemReads g.fa (mxA d) (mxAScale d) cs.1 cs.2 ++ elemReads g.fb (mxB d) (mxBScale d) cs.1 cs.2 else []
  let pre := (((chStages d.chain).filter fun t => !isPrologue t.kind && t.pos ≤ statPos d.chain).map fun st =>
    let q := tileColAt d g st.pos t
    stageReads g st rs.1 rs.2 q.1 q.2).flatten
  ops ++ (if g.tr = 0 then tileInit d g t else []) ++ pre
    ++ (if last && chPolicy d.chain = 1 then postReads d g (t / g.tn) else [])

/-- The slot of row group `i` takes ROWSTAT results and partials, whose places in it are not stated (R83). -/
def slotTakes (s : State) (d : Desc) (g : Geo) (i : Nat) : State :=
  let f := drawBytes s (holdSlot d g)
  rowWrite f.2 d (chHoldAddr d.chain + i % max (holdSlots d g) 1 * holdSlot d g) f.1 none

/-- A tile that trapped before ROWSTAT, or in a chain that has none: what it was storing is undefined (R43). -/
def trapHavoc (s : State) (d : Desc) (g : Geo) (t : Nat) : State :=
  let c := tileColAt d g (statPos d.chain) t
  let rs := tileRow g t
  match chPolicy d.chain with
  | 0 | 3 => tileHavoc s d g t
  | 1 => slotTakes s d g (t / g.tn)
  | _ => (List.range rs.2).foldl (fun s i => rangeHavoc s
      (chSplitAddr d.chain + (rs.1 + i) * chSplitStride d.chain + c.1 * statWidth d, c.2 * statWidth d)) s

/-- The effect of a drained tile under its policy; `r` is the run before the drain. -/
def tilePolicy (s : State) (byte : Nat → Byte) (d : Desc) (g : Geo) (r : MxRun) (t : Nat) (rows : List (Nat × List Lane)) :
    State :=
  let i := t / g.tn
  let others := (groupTiles g i).filter fun u => u != t
  let last := others.all r.drained.contains
  let ends (s : State) : Bool :=
    last && stillRuns s d.id && ((descGet s d.id).bind mxRun).all fun r => r.stops.all fun x => x.group != i
  match chPolicy d.chain with
  | 0 => tileFinish s byte d g t rows
  | 1 =>
    let s := keepRows s d.id t rows
    let s := if others.any r.drained.contains then s else slotTakes s d g i
    if ends s then holdEnd s byte d g i else s
  | 2 =>
    let s := splitStore (keepRows s d.id t rows) d (tileColAt d g (statPos d.chain) t).1 rows
    if ends s then splitEnd s d g i else s
  | _ =>
    let held := t :: (r.drained.filter fun u => r.kept.any fun p => p.1 == u)
    let s := rescaleEmit (keepRows s d.id t rows) byte d g (rescaleTiles d g held t)
    if ends s then rescaleFinal s d g i else s

/-- A drain that meets bad parity in its cells has stored or sent some of its rows before it stops, how many is open
(R93, R187, assumption 158). -/
def drainBreaks (s : State) (byte : Nat → Byte) (d : Desc) (g : Geo) (i t : Nat) (p : Nat × Nat)
    (rows : List (Nat × List Lane)) (rep : Report) : State :=
  let s := if chPolicy d.chain != 0 || rep.trap.isSome then s
    else
      let o := tileOut byte (coefOf s) d g (tileColAt d g 8 t).1 rows
      let w := tileOrder d g t o.1
      let k := draw s 1
      if o.2.trap.isSome then s
      else tileEmit k.2 d g t o.1 (some ((Config.freeWord k.1).toNat % (w.1.length + w.2.length + 1)))
  cellsMet s d.id i g.mode p

/-- R59. A finished tile drains: its rows pass the chain, and are held, stored or sent. -/
def execTileDrain (d tile : Nat) (s : State) : Result :=
  .next <| whenLive s fun s => match descGet s d with
    | none => s
    | some x => match mxRun x with
      | none => s
      | some r =>
        let g := geoOf x
        let i := tile % max r.parts.length 1
        let grp := tile / max g.tn 1
        -- R83: the row group's slot must have been released
        let slots := holdSlots x g
        let slotFree := chPolicy x.chain != 1 || grp < slots || r.groups.contains (grp - slots)
        match r.parts[i]? with
        | none => s
        | some p =>
          if curTile g r i != some tile || streamedOf r i != g.tr || !slotFree || !entryTurn s x g r p grp then s
          else
            let last := ((groupTiles g grp).filter fun u => u != tile).all r.drained.contains
            let q := readAll s d (tileReads x g tile last)
            match q.2 with
            | some e => tileStops q.1 d g i tile p e
            | none =>
              let view := viewOf q.1 x
              let sums := accAt view.2 view.1 x g p tile
              let pre := ((List.range sums.1.length).zip sums.1).map fun e =>
                ((tileRow g tile).1 + e.1,
                  preRow view.1 (coefOf s) x g ((tileRow g tile).1 + e.1) (tileCol g tile).1 e.2)
              let rep := pre.foldl (fun a e => reportJoin a e.2.2) { flags := sums.2 }
              let rows := pre.map fun e => (e.1, e.2.1)
              if cellsBad view.2 g.mode p then drainBreaks view.2 view.1 x g i tile p rows rep
              else
                let s := reportStop view.2 d g tile rep
                let s := if rep.trap.isSome then trapHavoc s x g tile else tilePolicy s view.1 x g r tile rows
                mxDone (tileDrained (accDrop s p) d i tile) d

/-- What a failed matrix descriptor leaves undefined: at each peer, the tiles in transfer whose writes failed (R92), the
tiles of passes under way, whose stores may have begun (R43), and what others' writes affected of the rest (R94). -/
def mxAftermath (s : State) (d : Desc) : State :=
  match mxRun d with
  | none => s
  | some r =>
    let g := geoOf d
    let hit (kind : Nat) : List Nat := ((r.sent ++ r.begun.map (·.1)).foldl setInsert []).filter fun t =>
      (((chStages d.chain).filter fun st => st.kind == kind).flatMap (tileRanges d g t)).any fun w =>
        r.missed.any fun m => w.1 ≤ m.det.addr.toNat && m.det.addr.toNat < w.1 + w.2
    let passes := ((r.passes.filter fun p => p.unit.isSome && !p.done).map fun p => groupTiles g p.group).flatten
    let s := (hit 0x18).foldl (fun s t => tileWild s d g 0x18 t) s
    let s := (hit 0x19).foldl (fun s t => tileWild s d g 0x19 t) s
    mxPlanes (mxTaint (passes.foldl (fun s t => tileHavoc s d g t) s) d) d true

/-! SPLIT passes (R84). -/

/-- Whether a waiting descriptor or pass wants vector unit `v`. -/
def wantsUnit (s : State) (y : Desc) (v : Nat) : Bool :=
  (mayStart s y && dop y == 0x20 && bitOf v (dfield y 32 1))
    || (y.phase == .running && bitOf v (chSplitVu y.chain) && (match mxRun y with
      | some r => r.passes.any fun p => p.unit.isNone
      | none => false))

/-- R84. The pass of a final row group starts on a free unit that the chain names: the one of the lowest number (DESIGN
CHOICE, assumption 164). -/
def execSplitPass (d rowGroup : Nat) (s : State) : Result :=
  .next <| whenLive s fun s => match descGet s d with
    | none => s
    | some x => match mxRun x with
      | none => s
      | some r =>
        let free := (List.range s.par.vectorUnits).filter fun v => bitOf v (chSplitVu x.chain) && !unitBusy s v
        let waits := r.passes.any fun p => p.group == rowGroup && p.unit.isNone
        let turn := !(s.descs.any fun y => y.id != x.id && before y x && free.any (wantsUnit s y))
        match free with
        | v :: _ =>
          if x.phase != .running || !waits || !turn || !groupOpen x (geoOf x) r rowGroup then s
          else match wakeFor s [64 + v] with
            | some s => s
            | none =>
              let take (p : Pass) : Pass := { p with unit := some v }
              if !admitted s then s
              else mxUpd (risePower s) d fun r => { r with passes := replaceFirst (fun p => p.group == rowGroup) take r.passes }
        | [] => s

/-- The rows of a row group in the SPLIT buffer, which lies in the own scratchpad. -/
def splitRows (d : Desc) (g : Geo) (i : Nat) : List (Nat × Nat) :=
  (groupRows g i).map fun r => (chSplitAddr d.chain + r * chSplitStride d.chain, statCols d g * statWidth d)

/-- A pass is over. -/
def passEnds (s : State) (d i : Nat) : State :=
  let close (p : Pass) : Pass := { p with done := true }
  mxDone (mxUpd s d fun r => { r with passes := replaceFirst (fun p => p.group == i) close r.passes }) d

/-- R84. A pass reads the SPLIT buffer, completes the statistic, normalises and stores, and retires; the
descriptor completes after its last one. -/
def execSplitPassRetire (d rowGroup : Nat) (s : State) : Result :=
  .next <| whenLive s fun s => match descGet s d with
    | none => s
    | some x => match mxRun x with
      | none => s
      | some r =>
        let g := geoOf x
        let under := r.passes.any fun p => p.group == rowGroup && p.unit.isSome && !p.done
        if x.phase != .running || !under then s
        else
          let q := readAll s d (splitRows x g rowGroup ++ postReads x g rowGroup)
          match q.2 with
          | some (_, .waiting) => q.1
          | some (_, .refetch b) => refetchStop q.1 d b
          | some e => passEnds (groupStops q.1 d g rowGroup e) d rowGroup
          | none =>
            let view := viewOf q.1 x
            let coef := coefOf s
            let w := statWidth x
            let rows := (groupRows g rowGroup).map fun r =>
              (r, normalRow coef x g r ((List.range (statCols x g)).map fun c =>
                decodeElem (statFmt x) (leNat (peek view.1 (chSplitAddr x.chain + r * chSplitStride x.chain + c * w) w))))
            let rep := rows.foldl (fun a p => reportJoin a p.2.2.2) {}
            let s := reportStop view.2 d g (rowGroup * g.tn) rep
            let s := if rep.trap.isSome then s
              else
                let s := (groupTiles g rowGroup).foldl (fun s t =>
                  tileFinish s view.1 x g t (sliceRows x g t (rows.map fun p => (p.1, p.2.2.1)))) s
                if chRms x.chain then s else rows.foldl (fun s p => statWrite s x p.1 4 [p.2.1.second]) s
            passEnds (groupFinal s d g rowGroup) d rowGroup

end Sys2Proof.Machine
end

