-- ==== Sys2Proof/Machine/Vector.lean ====
section
/-! DEFINITION. Vector chains (R96 to R122): the chain block, sources, stages, reductions and statistics, the
operand cache with its parity, fills, sweeps and write-backs, and the replays of R187. -/
namespace Sys2Proof.Machine

/-! The chain block (R98 to R103). -/

/-- Fields of a VCHAIN body (R230). -/
def vxMask (d : Desc) : Nat := dbits d 32 1 3 0
@[inherit_doc vxMask] def vxCount (d : Desc) : Nat := dbits d 36 4 14 0
@[inherit_doc vxMask] def vxChain (d : Desc) : Nat := dfield d 40 8

/-- A stage entry (R101), with its position. -/
structure VStage where
  pos : Nat
  kind : Nat
  fmt : Nat
  rnd : Bool
  sat : Bool
  sub : Nat
  selA : Nat
  selB : Nat
  offA : Nat
  offB : Nat
  imm0 : Nat
  imm1 : Nat
  offOut : Nat
  offStat : Nat
deriving DecidableEq, Repr

/-- Stage entry `i` of a vector chain block. -/
def vstageAt (bs : List Byte) (i : Nat) : VStage :=
  let f := fieldAt (bs.drop (64 + 32 * i))
  { pos := i, kind := f 0 1, fmt := bitsOf 4 0 (f 1 1), rnd := bitOf 0 (f 2 1), sat := bitOf 1 (f 2 1), sub := f 3 1
    selA := f 4 2, selB := f 6 2, offA := bitsOf 17 0 (f 8 4), offB := bitsOf 17 0 (f 12 4), imm0 := f 16 4
    imm1 := f 20 4, offOut := bitsOf 17 0 (f 24 4), offStat := f 28 4 }

/-- A transfer entry (R103). -/
structure VXfer where
  addr : Nat
  stride : Nat
  voc : Nat
  bytes : Nat
  rows : Nat
  back : Bool
deriving DecidableEq, Repr

/-- Transfer entry `i` of a vector chain block. -/
def vxferAt (bs : List Byte) (i : Nat) : VXfer :=
  let f := fieldAt (bs.drop (320 + 32 * i))
  { addr := f 0 8, stride := f 8 4, voc := bitsOf 17 0 (f 12 4), bytes := bitsOf 18 0 (f 16 4), rows := f 20 2
    back := bitOf 0 (f 22 1) }

/-- Fields of the header (R99). -/
def vcRowLen (bs : List Byte) : Nat := fieldAt bs 4 4
@[inherit_doc vcRowLen] def vcInput (bs : List Byte) : Nat := fieldAt bs 8 2
@[inherit_doc vcRowLen] def vcInputOff (bs : List Byte) : Nat := bitsOf 17 0 (fieldAt bs 12 4)
@[inherit_doc vcRowLen] def vcTscale (bs : List Byte) : Word := BitVec.ofNat 32 (fieldAt bs 16 4)

/-- The stages and the transfers in force. -/
def vcStages (bs : List Byte) : List VStage := (List.range (min (fieldAt bs 0 1) 8)).map (vstageAt bs)
@[inherit_doc vcStages] def vcXfers (bs : List Byte) : List VXfer := (List.range (min (fieldAt bs 1 1) 4)).map (vxferAt bs)

/-- The fills, and the write-backs. -/
def vcFills (bs : List Byte) : List VXfer := (vcXfers bs).filter fun x => !x.back
@[inherit_doc vcFills] def vcBacks (bs : List Byte) : List VXfer := (vcXfers bs).filter fun x => x.back

/-- The scratchpad range of a transfer, and its cache range. -/
def xferSpan (x : VXfer) : Nat × Nat := (x.addr, spanLen x.rows x.stride x.bytes)
@[inherit_doc xferSpan] def xferVoc (x : VXfer) : Nat × Nat := (x.voc, x.rows * x.bytes)

/-- Row length of a chain (R105). -/
def vxRow (d : Desc) : Nat := if vcRowLen d.chain = 0 then vxCount d else vcRowLen d.chain

/-- A stage with the number of elements and the row length in force at its input (R105, R114). -/
structure VStep where
  stage : VStage
  n : Nat
  w : Nat
deriving DecidableEq, Repr

/-- The stages with the shapes at their inputs: a COLSUM leaves one row. -/
def vxSteps (n w : Nat) : List VStage → List VStep
  | [] => []
  | t :: ts => { stage := t, n, w } :: (if t.kind = 0x0B then vxSteps w w ts else vxSteps n w ts)

/-- The steps of a descriptor. -/
def vxPlan (d : Desc) : List VStep := vxSteps (vxCount d) (vxRow d) (vcStages d.chain)

/-- Whether a kind ends a sweep (R112). -/
def endsSweep (k : Nat) : Bool := k == 0x0A || k == 0x0B

/-- The steps cut into sweeps: one more than there are REDUCE and COLSUM stages. -/
def sweepsOf : List VStep → List VStep → List (List VStep)
  | acc, [] => [acc]
  | acc, t :: ts => if endsSweep t.stage.kind then (acc ++ [t]) :: sweepsOf [] ts else sweepsOf (acc ++ [t]) ts

/-- The sweeps of a descriptor. -/
def vxSweeps (d : Desc) : List (List VStep) := sweepsOf [] (vxPlan d)

/-! Cache ranges (R106, R113 to R116). -/

/-- The ranges of `n` elements of a format at a cache offset: elements, then scales (R106). -/
def vocElems (f : Fmt) (off n : Nat) : List (Nat × Nat) :=
  let len := ceilDiv (n * fmtBits f) 8
  (off, len) :: (if fmtPlain f then [] else [(ceilDiv (off + len) 128 * 128, fmtScaleBytes f n)])

/-- Entries that a selector reads of the cache: ELEMENT, SCALAR, PER_ROW or PER_COLUMN. -/
def selEntries (sel n w : Nat) : Nat :=
  match bitsOf 4 3 sel with
  | 0 => n
  | 1 => 1
  | 2 => n / max w 1
  | _ => w

/-- The cache ranges that a selector reads. -/
def selReads (sel off n w : Nat) : List (Nat × Nat) :=
  if bitsOf 2 0 sel = 1 then vocElems (fmtAt (bitsOf 9 5 sel)) off (selEntries sel n w) else []

/-- Whether a kind uses operand A, or operand B (R102). -/
def usesA (k : Nat) : Bool := (1 ≤ k && k ≤ 7)
@[inherit_doc usesA] def usesB (k : Nat) : Bool := k == 3 || k == 7

/-- The cache ranges that a step reads, and those that it writes. -/
def stepReads (p : VStep) : List (Nat × Nat) :=
  (if usesA p.stage.kind then selReads p.stage.selA p.stage.offA p.n p.w else [])
    ++ (if usesB p.stage.kind then selReads p.stage.selB p.stage.offB p.n p.w else [])
@[inherit_doc stepReads] def stepWrites (p : VStep) : List (Nat × Nat) :=
  let t := p.stage
  let rows := p.n / max p.w 1
  match t.kind with
  | 0x0A => vocElems (fmtAt t.fmt) t.offOut p.n ++ (if bitOf 31 t.offStat then [(bitsOf 17 0 t.offStat, 4 * rows)] else [])
  | 0x0B => [(t.offOut, 4 * p.w)]
  | 0x0C => [(t.offOut, 16 * rows)]
  | 0x0D => vocElems (fmtAt t.fmt) t.offOut p.n
  | _ => []

/-- The ranges of the chain's input. -/
def inputReads (d : Desc) : List (Nat × Nat) := selReads (vcInput d.chain) (vcInputOff d.chain) (vxCount d) (vxRow d)

/-- Every cache range that a chain's stages write. -/
def vxStageWrites (d : Desc) : List (Nat × Nat) := ((vxPlan d).map stepWrites).flatten

/-- Every cache range that a descriptor reads, writes, fills or writes back. -/
def vxRanges (d : Desc) : List (Nat × Nat) :=
  inputReads d ++ ((vxPlan d).map stepReads).flatten ++ vxStageWrites d ++ (vcXfers d.chain).map xferVoc

/-- Whether two lists of ranges meet. -/
def rangesMeet (as bs : List (Nat × Nat)) : Bool := as.any fun a => bs.any fun b => overlap a.1 a.2 b.1 b.2

/-! The operand cache (R97). -/

/-- Key of a byte of a unit's cache. -/
def vocKey (u off : Nat) : Nat := 262144 * u + off

/-- Bytes of a unit's cache, parity aside, and the first word of bad parity in some ranges. -/
def vocBytes (s : State) (u off len : Nat) : List Byte :=
  (List.range len).map fun i => mapGet (fun _ => (0 : Byte)) s.voc (vocKey u (off + i))
@[inherit_doc vocBytes] def vocBadIn (s : State) (u : Nat) (rs : List (Nat × Nat)) : Option Nat :=
  (s.vocBad.find? fun k => rs.any fun r => overlap k 4 (vocKey u r.1) r.2).map (· - 262144 * u)

/-- Bytes stored in a unit's cache; a word written in full has good parity. -/
def vocStore (s : State) (u off : Nat) (bs : List Byte) : State :=
  let full := fullWords (vocKey u off) bs.length
  { s with voc := mapSetAll (fun _ => 0) s.voc (vocKey u off) bs
           vocBad := s.vocBad.filter fun k => !full.contains k }

/-- A cache range made undefined. -/
def vocHavoc (s : State) (u : Nat) (r : Nat × Nat) : State :=
  let b := drawBytes s r.2
  vocStore b.2 u r.1 b.1

/-! Values (R106 to R108). -/

/-- The value that a selector supplies to element `i` (R106). -/
def vsource (byte : Nat → Byte) (ts : Val) (n w : Nat) (st1 st2 : List Word) (sel off imm : Nat) (x : Nat → Val)
    (i : Nat) : Val :=
  let row := i / max w 1
  match bitsOf 2 0 sel with
  | 0 => x i
  | 1 =>
    let f := fmtAt (bitsOf 9 5 sel)
    let j := match bitsOf 4 3 sel with
      | 0 => i
      | 1 => 0
      | 2 => row
      | _ => i % max w 1
    let s := ceilDiv (off + ceilDiv (n * fmtBits f) 8) 128 * 128
    elemVal byte f off s ts j
  | 2 => ofFp32 (BitVec.ofNat 32 imm)
  | 3 => ofFp32 ((st1[row]?).getD 0)
  | _ => ofFp32 ((st2[row]?).getD 0)

/-- The least NaN of a list of lanes as a trap (R40 to R42); entry `i` stands at element `i × step`. -/
def vtrap (d : Desc) (stage step : Nat) (xs : List Lane) : Option TrapAt :=
  if !descTrap d then none
  else (xs.findIdx? fun l => valIsNan l.val && l.nf).map fun i =>
    let e := i * step
    { row := 0, rank := e, stage, tile := 0, nfRow := e / 256, nfCol := e % 256 }

/-- The least non-finite lane as a position (R39, R40). -/
def vnf (step : Nat) (xs : List Lane) : Option (Nat × Nat) := (xs.findIdx? (·.nf)).map fun i => (0, i * step)

/-- The stochastic stream of a vector stage (R107). -/
def vstream (d : Desc) (t : VStage) (i : Nat) : Option (BitVec 32) :=
  if t.rnd then some (streamValue (descSeed d) t.pos 0 i) else none

/-- A result rounded once into the stage's format. -/
def vround (d : Desc) (t : VStage) (i : Nat) (x : FV) : Lane × Report :=
  let o := roundTo (fmtAt t.fmt) { strict := descStrict d, sat := t.sat, stream := vstream d t i } x.1
  let r := reportOut o (0, i)
  (laneOf o.val, { r with flags := r.flags ||| x.2 })

/-- What a sweep carries from stage to stage: the running values, the predicates, the report, and the bytes
written to the cache. -/
structure VFlow where
  xs : List Lane
  ps : List Bool
  rep : Report := {}
  writes : List (Nat × List Byte) := []
  stat1 : List Word
  stat2 : List Word
deriving DecidableEq, Repr

/-- A cache byte as the sweep's own writes leave it. -/
def flowByte (base : Nat → Byte) (fl : VFlow) (a : Nat) : Byte :=
  match (fl.writes.reverse).find? fun w => w.1 ≤ a && a < w.1 + w.2.length with
  | some w => (w.2[a - w.1]?).getD 0
  | none => base a

/-- What a stage forms for an element before it rounds (R102, R108), and its predicate. -/
def vform (coef : Nat → Word) (strict : Bool) (t : VStage) (x a b : Val) (p : Bool) : FV × Bool :=
  match t.kind with
  | 0x01 => (match t.sub with
    | 0 => addV strict x a
    | 1 => addV strict x (negV a)
    | _ => addV strict a (negV x), p)
  | 0x02 => (mulV strict x a, p)
  | 0x03 => (fmaV strict x a b, p)
  | 0x04 => (minV strict x a, p)
  | 0x05 => (maxV strict x a, p)
  | 0x06 =>
    let c := cmpV strict t.sub x a
    ((x, c.2), c.1)
  | 0x07 => ((if p then a else b, 0), p)
  | 0x09 => (tableStage coef strict (match t.sub with
    | 0 => .exp2
    | 1 => .log2
    | 2 => .recip
    | 3 => .rsqrt
    | _ => .sigmoid) x, p)
  | _ => ((x, 0), p)

/-- A row's reduction and its finish (R113). -/
def vreduce (coef : Nat → Word) (strict : Bool) (t : VStage) (xs : List Val) : FV :=
  let s := match bitsOf 1 0 t.sub with
    | 0 => rowSum strict xs
    | 1 => rowSumSq strict xs
    | 2 => rowExt strict true xs
    | _ => rowExt strict false xs
  match bitsOf 3 2 t.sub with
  | 0 => s
  | 1 =>
    let r := tableStage coef strict .recip s.1
    (r.1, s.2 ||| r.2)
  | _ =>
    let a := round32F strict (mulV strict s.1 (ofFp32 (BitVec.ofNat 32 t.imm0)))
    let b := round32F strict (addV strict a.1 (ofFp32 (BitVec.ofNat 32 t.imm1)))
    let r := tableStage coef strict .rsqrt b.1
    (r.1, s.2 ||| a.2 ||| b.2 ||| r.2)

/-- Column sums (R114). -/
def vcolsum (strict : Bool) (w : Nat) (xs : List Val) : List FV :=
  let rows := chunksOf w xs.length xs
  match rows with
  | [] => []
  | r0 :: rest =>
    rest.foldl (fun (acc : List FV) row => (acc.zip row).map fun p =>
      let r := round32F strict (addV strict p.1.1 p.2)
      (r.1, p.1.2 ||| r.2)) (r0.map fun v => round32F strict (v, 0))

/-- FP32 words as bytes. -/
def wordsOf (vs : List Val) : List Byte := (vs.map fun v => toLe 4 (toFp32 v).toNat).flatten

/-- One stage over the running values (R102, R107, R113 to R115).  DESIGN CHOICE (assumption 149): a vector of a 6-bit
format in the cache takes just the bytes that its elements reach, since R23's padding to groups of four is of stored
rows. -/
def vstep (base : Nat → Byte) (coef : Nat → Word) (d : Desc) (p : VStep) (fl : VFlow) : VFlow :=
  let strict := descStrict d
  let t := p.stage
  let rows := p.n / max p.w 1
  let ts := ofFp32 (vcTscale d.chain)
  let byte := flowByte base fl
  let x (i : Nat) : Val := ((fl.xs[i]?).map (·.val)).getD posZero
  let src (sel off imm i : Nat) : Val := vsource byte ts p.n p.w fl.stat1 fl.stat2 sel off imm x i
  let f := fmtAt t.fmt
  let late := fl.rep.trap.isSome && (vcStages d.chain).any fun q => q.kind == 0x08 && q.pos ≤ t.pos && !fmtPlain (fmtAt q.fmt)
  let trapOf (step : Nat) (ls : List Lane) : Option TrapAt := if late then none else vtrap d t.pos step ls
  if t.kind = 0x0D && !fmtPlain f then
    -- the blocks as the CVT before formed them (R116)
    let b := fmtBlock f
    let len := ceilDiv (p.n * fmtBits f) 8
    let scales := (List.range (fmtScaleBytes f p.n)).map fun i => BitVec.ofNat 8 (((fl.xs[i * b]?).map (·.scale)).getD 0)
    { fl with
      writes := fl.writes ++ [(t.offOut, (packCodes f (fl.xs.map (·.code))).take len), (ceilDiv (t.offOut + len) 128 * 128, scales)]
      rep := reportJoin fl.rep { nf := vnf 1 fl.xs } }
  else if t.kind = 0x08 && !fmtPlain f then
    let kts : Rat := match ofFp32 (BitVec.ofNat 32 t.imm1) with
      | .fin _ m => m
      | _ => 1
    let q := quantizeRow f kts strict t.sat (vstream d t) (fun i => (0, i)) (fl.xs.map (·.val))
    { fl with xs := q.1, rep := reportJoin fl.rep (reportJoin q.2 { trap := trapOf 1 q.1 }) }
  else if t.kind = 0x0B then
    let sums := vcolsum strict p.w (fl.xs.map (·.val))
    let ys := ((List.range sums.length).zip sums).map fun c => vround d t c.1 c.2
    let lanes := sums.map fun v => laneOf v.1
    { fl with
      xs := ys.map (·.1), ps := ys.map fun _ => false
      writes := fl.writes ++ [(t.offOut, wordsOf (sums.map (·.1)))]
      rep := reportJoin (ys.foldl (fun r y => reportJoin r y.2) fl.rep)
        { nf := vnf 1 lanes, trap := minTrap (trapOf 1 lanes) (trapOf 1 (ys.map (·.1))) } }
  else
    let ys := (List.range fl.xs.length).map fun i =>
      let z := vform coef strict t (x i) (src t.selA t.offA t.imm0 i) (src t.selB t.offB t.imm1 i) ((fl.ps[i]?).getD false)
      (vround d t i z.1, z.2)
    let xs := ys.map (·.1.1)
    let rep := reportJoin (ys.foldl (fun r y => reportJoin r y.1.2) fl.rep) { trap := trapOf 1 xs }
    let fl := { fl with xs, ps := ys.map (·.2), rep }
    let vals := xs.map (·.val)
    let packed := (packCodes f (vals.map (encodeElem f))).take (ceilDiv (p.n * fmtBits f) 8)
    match t.kind with
    | 0x0D => { fl with writes := fl.writes ++ [(t.offOut, packed)], rep := reportJoin rep { nf := vnf 1 xs } }
    | 0x0A =>
      let st := (chunksOf p.w p.n vals).map (vreduce coef strict t)
      let sl := st.map fun v => laneOf v.1
      let words := st.map fun v => toFp32 v.1
      let first := !((vcStages d.chain).any fun q => q.kind == 0x0A && q.pos < t.pos)
      let stored := bitOf 31 t.offStat
      { fl with
        stat1 := if first then words else fl.stat1
        stat2 := if first then fl.stat2 else words
        writes := fl.writes ++ [(t.offOut, packed)] ++ (if stored then [(bitsOf 17 0 t.offStat, wordsOf (st.map (·.1)))] else [])
        rep := reportJoin rep { flags := st.foldl (fun g v => g ||| v.2) 0, trap := trapOf p.w sl
                                nf := minPos (vnf 1 xs) (if stored then vnf p.w sl else none) } }
    | 0x0C =>
      let st := (chunksOf p.w p.n vals).map fun r => [rowSum strict r, rowSumSq strict r, rowExt strict true r, rowExt strict false r]
      let rowNf (r : List FV) : Lane := { val := if r.any (fun v => valIsNan v.1) then canonicalNan else posZero
                                          nf := r.any fun v => valNonfinite v.1 }
      let sl := st.map rowNf
      { fl with
        writes := fl.writes ++ [(t.offOut, wordsOf ((st.take rows).flatten.map (·.1)))]
        rep := reportJoin rep { flags := st.flatten.foldl (fun g v => g ||| v.2) 0, trap := trapOf p.w sl, nf := vnf p.w sl } }
    | _ => fl

/-! Runs. -/

/-- The vector run of a descriptor, if it has one. -/
def vxRun (d : Desc) : Option VxRun :=
  match d.engine with
  | .vector r => some r
  | _ => none

/-- The vector run of a descriptor changed. -/
def vxUpd (s : State) (d : Nat) (f : VxRun → VxRun) : State :=
  descUpd s d fun x => match x.engine with
    | .vector r => { x with engine := .vector (f r) }
    | _ => x

/-- A failed chain of which a stage has run leaves the cache ranges that its stages write undefined, and holds its unit no
more (R120). -/
def vxLose (s : State) (d : Desc) : State :=
  match vxRun d with
  | some r =>
    if r.lost then s
    else
      let s := if r.ran then (vxStageWrites d).foldl (fun s w => vocHavoc s r.unit w) s else s
      vxUpd s d.id fun r => { r with lost := true }
  | none => s

/-- The end of a failed chain. -/
def vxFail (s : State) (d status : Nat) (det : Detail) : State :=
  let s := endDesc s d status det
  match descGet s d with
  | some x => vxLose s x
  | none => s

/-- A fill's read brings no bytes: the chain replays or fails. -/
def vxStops (s : State) (d addr : Nat) (r : Rd) : State :=
  let s := engineStops s d addr r
  match descGet s d with
  | some x => if x.phase = .finished then vxLose s x else s
  | none => s

/-- Whether stages that have run changed in place, under R116, a range that the chain's fills did not supply
(R121). -/
def inPlaceDone (d : Desc) (r : VxRun) : Bool :=
  let fills := (vcFills d.chain).map xferVoc
  let supplied (w : Nat × Nat) : Bool := (List.range w.2).all fun i => fills.any fun f => f.1 ≤ w.1 + i && w.1 + i < f.1 + f.2
  let reads := inputReads d ++ ((vxPlan d).map stepReads).flatten
  ((vxSweeps d).take r.sweeps).any fun sw => sw.any fun p =>
    p.stage.kind == 0x0D && (stepWrites p).any fun w => rangesMeet [w] reads && !supplied w

/-- A parity error in the operand cache (R121); `back` says that a write-back met it.  DESIGN CHOICE (assumption 94): a
transfer's range in scratchpad runs from its first byte to its last, gaps between its rows included. -/
def vxParity (s : State) (d : Desc) (r : VxRun) (w : Nat) (back : Bool) : State :=
  let done := ((vxSweeps d).take r.sweeps).flatten
  let own := rangesMeet [(w, 4)] ((vcFills d.chain).map xferVoc ++ (done.map stepWrites).flatten)
  let spread := back && rangesMeet ((vcBacks d.chain).map xferSpan) ((vcFills d.chain).map xferSpan)
  let det : Detail := { resource := resource 2 r.unit, addr := BitVec.ofNat 64 w }
  if own && !inPlaceDone d r && !spread then
    descUpd s d.id fun x => { x with phase := .replaying, waitBlock := none, detail := det }
  else vxFail s d.id stDataParity det

/-! Undefined results (R122). -/

/-- A piece of the cache in bits: its first bit and its length. -/
abbrev BitSpan := Nat × Nat

/-- A byte range as bits. -/
def bitSpan (r : Nat × Nat) : BitSpan := (8 * r.1, 8 * r.2)

/-- Cache bits that fills copied from scratchpad bytes that others have written, and that no later fill replaced. -/
def fillMarks (s : State) (d : Desc) : List BitSpan :=
  (vcFills d.chain).foldl (fun bits x => (List.range x.rows).foldl (fun bits j =>
    let a := x.addr + j * x.stride
    rangesLess bits (bitSpan (x.voc + j * x.bytes, x.bytes)) ++ (if !isOwn s a then []
      else d.clobbered.filterMap fun w =>
        let lo := max w.1 (offsetOf a)
        let hi := min (w.1 + w.2) (offsetOf a + x.bytes)
        if lo < hi then some (bitSpan (x.voc + j * x.bytes + (lo - offsetOf a), hi - lo)) else none)) bits) []

/-- The bits of element `j` of a vector of `n` in the cache, and its block's scale (R106). -/
def elemBits (f : Fmt) (off n j : Nat) : List BitSpan :=
  let b := fmtBits f
  (8 * off + j * b, b) :: (if fmtPlain f then []
    else [bitSpan (ceilDiv (off + ceilDiv (n * b) 8) 128 * 128 + j / fmtBlock f, 1)])

/-- What of a chain's values follows from changed bytes (R122): the marked elements, predicates and statistics, and the
marked bits of the cache. -/
structure VMarks where
  xs : List Bool
  ps : List Bool
  st1 : List Bool := []
  st2 : List Bool := []
  bits : List BitSpan
deriving DecidableEq, Repr

/-- Whether a selector gives element `i` a marked value. -/
def selMarked (m : VMarks) (sel off n w i : Nat) : Bool :=
  let row := i / max w 1
  match bitsOf 2 0 sel with
  | 0 => (m.xs[i]?).getD false
  | 1 =>
    let j := match bitsOf 4 3 sel with
      | 0 => i
      | 1 => 0
      | 2 => row
      | _ => i % max w 1
    rangesMeet (elemBits (fmtAt (bitsOf 9 5 sel)) off n j) m.bits
  | 3 => (m.st1[row]?).getD false
  | 4 => (m.st2[row]?).getD false
  | _ => false

/-- The marks past a step: its own results, and what it writes in the cache, which replaces what stood there. -/
def stepMarks (first : Bool) (m : VMarks) (p : VStep) : VMarks :=
  let t := p.stage
  let kept := (stepWrites p).foldl (fun bits w => rangesLess bits (bitSpan w)) m.bits
  let x (i : Nat) : Bool := (m.xs[i]?).getD false
  let a (i : Nat) : Bool := usesA t.kind && selMarked m t.selA t.offA p.n p.w i
  let b (i : Nat) : Bool := usesB t.kind && selMarked m t.selB t.offB p.n p.w i
  let each (f : Nat → Bool) : List Bool := (List.range p.n).map f
  let rows (f : Nat → Bool) : List Bool := (List.range (p.n / max p.w 1)).map f
  let row (ms : List Bool) (j : Nat) : Bool := ((ms.drop (j * p.w)).take p.w).any id
  let stored (ms : List Bool) : List BitSpan :=
    ((List.range ms.length).map fun i => if (ms[i]?).getD false then elemBits (fmtAt t.fmt) t.offOut p.n i else []).flatten
  match t.kind with
  | 0x06 => { m with ps := each fun i => x i || a i }
  | 0x07 => { m with xs := each fun i => (m.ps[i]?).getD false || a i || b i }
  | 0x08 =>
    -- a block shares its scale
    let n := max (fmtBlock (fmtAt t.fmt)) 1
    if fmtPlain (fmtAt t.fmt) then m
    else { m with xs := each fun i => ((m.xs.drop (i / n * n)).take n).any id }
  | 0x0A =>
    let st := rows (row m.xs)
    let words := if !bitOf 31 t.offStat then []
      else ((List.range st.length).map fun j =>
        if (st[j]?).getD false then [bitSpan (bitsOf 17 0 t.offStat + 4 * j, 4)] else []).flatten
    { m with
      ps := each fun _ => false, bits := kept ++ stored m.xs ++ words
      st1 := if first then st else m.st1
      st2 := if first then m.st2 else st }
  | 0x0B =>
    let cols := (List.range p.w).map fun c => (List.range (p.n / max p.w 1)).any fun j => x (j * p.w + c)
    { m with
      xs := cols, ps := cols.map fun _ => false
      bits := kept ++ ((List.range p.w).map fun c =>
        if (cols[c]?).getD false then [bitSpan (t.offOut + 4 * c, 4)] else []).flatten }
  | 0x0C => { m with bits := kept ++ ((List.range (p.n / max p.w 1)).map fun j =>
      if row m.xs j then [bitSpan (t.offOut + 16 * j, 16)] else []).flatten }
  | 0x0D => { m with bits := kept ++ stored m.xs }
  | _ => { m with xs := each fun i => x i || a i || b i }

/-- The marks past all steps. -/
def chainMarks (d : Desc) (m : VMarks) : VMarks :=
  (vxPlan d).foldl (fun m p =>
    stepMarks (!((vcStages d.chain).any fun q => q.kind == 0x0A && q.pos < p.stage.pos)) m p) m

/-- Cache bits made undefined. -/
def vocHavocBits (s : State) (u : Nat) (r : BitSpan) : State :=
  let off := r.1 / 8
  let n := ceilDiv (r.1 + r.2) 8 - off
  let b := drawBytes s n
  vocStore b.2 u off (mixBits (vocBytes s u off n) b.1 (r.1 % 8) r.2)

/-- The bits of the write-back destinations that marked cache bits went to, made undefined. -/
def backHavoc (s : State) (d : Desc) (marks : List BitSpan) : State :=
  (vcBacks d.chain).foldl (fun s x =>
    (List.range x.rows).foldl (fun s j =>
      let v := 8 * (x.voc + j * x.bytes)
      marks.foldl (fun s m =>
        let lo := max m.1 v
        let hi := min (m.1 + m.2) (v + 8 * x.bytes)
        let dst := 8 * (x.addr + j * x.stride) + (lo - v)
        let n := ceilDiv (dst + (hi - lo)) 8 - dst / 8
        if hi ≤ lo || !isOwn s (dst / 8) || !inSpm s (offsetOf (dst / 8)) n then s
        else
          let b := drawBytes s n
          let off := offsetOf (dst / 8)
          wildStore b.2 off (mixBits (spmBytes s off n) b.1 (dst % 8) (hi - lo))) s) s) s

/-- A completed chain whose fill sources others wrote: what follows from the changed bytes is undefined, and nothing
else (R122). -/
def vxTaint (s : State) (d : Desc) (u : Nat) : State :=
  let bits := fillMarks s d
  if bits.isEmpty then s
  else
    let n := vxCount d
    let w := vxRow d
    let input := (List.range n).map fun i => selMarked { xs := [], ps := [], bits } (vcInput d.chain) (vcInputOff d.chain) n w i
    let all := (chainMarks d { xs := input, ps := input.map fun _ => false, bits }).bits
    backHavoc (all.foldl (fun s r => vocHavocBits s u r) s) d all

/-! The rows of the table. -/

/-- Units that a descriptor names and that exist (R96, R115). -/
def vxUnits (s : State) (d : Desc) : List Nat :=
  let tap := (vcStages d.chain).any fun t => t.kind == 0x0C
  (List.range s.par.vectorUnits).filter fun v => bitOf v (vxMask d) && (!tap || v % 2 == 0)

/-- Whether a descriptor may take a unit now: it is free, or its one descriptor is in its sweeps and none of
its cache ranges meets a fill of the newcomer (R118), where VXE_CFG.OVERLAP allows that (R401). -/
def vxAvailable (s : State) (d : Desc) (v : Nat) : Bool :=
  if !unitBusy s v then true
  else if !bitOf 0 (regGet s 0x500000) then false
  else
    let on := s.descs.filter fun y => match vxRun y with
      | some r => vxHolds y r && r.unit == v
      | none => false
    let pass := s.descs.any fun y => (y.phase == .running || y.phase == .replaying) && (match mxRun y with
      | some r => r.passes.any fun p => p.unit == some v && !p.done
      | none => false)
    !pass && (match on with
      | [y] => y.phase == .running && (match vxRun y with
        | some r => r.filled && r.sweeps < (vxSweeps y).length
        | none => false) && !rangesMeet ((vcFills d.chain).map xferVoc) (vxRanges y)
      | _ => false)

/-- A chain completes once its write-backs are issued and acknowledged (R104). -/
def vxDone (s : State) (d : Nat) : State :=
  match descGet s d with
  | none => s
  | some x => match vxRun x with
    | none => s
    | some r =>
      let all := vxCount x = 0 || (r.sweeps = (vxSweeps x).length && r.wroteBack = (vcBacks x.chain).length)
      if x.phase = .running && x.unacked = 0 && all then
        -- a disturbed chain fails (R322), and its stages' ranges are undefined (R323)
        endDesc (if x.disturbed then vxLose s x else vxTaint s x r.unit) d 0 {}
      else s

/-- R96. A vector chain starts on the lowest-numbered unit that it names and that is available. -/
def execVchain (d : Nat) (s : State) : Result :=
  .next <| whenLive s fun s => match descGet s d with
    | none => s
    | some x =>
      if dop x != 0x20 || !mayStart s x then s
      else
        let free := (vxUnits s x).filter (vxAvailable s x)
        let rival (y : Desc) : Bool :=
          if dop y = 0x20 then mayStart s y && ((vxUnits s y).filter (vxAvailable s y)).any free.contains
          else free.any (wantsUnit s y)
        match free with
        | [] => s
        | v :: _ =>
          if s.descs.any fun y => y.id != d && before y x && rival y then s
          else match wakeFor s [64 + v] with
            | some s => s
            | none =>
              let idle := vxCount x = 0
              if !idle && !admitted s then s
              else
                let s := if idle then s else risePower s
                let s := takeHolds s d ((vxChain x, 448) :: (if idle then [] else (vcFills x.chain).map xferSpan))
                let n := newId s
                vxDone (descUpd n.2 d fun x => { x with
                  phase := .running, runs := 1, engine := .vector { unit := v, order := n.1 } }) d

/-- One row of a fill: scratchpad bytes to the cache, those that others wrote meanwhile undefined (R122). -/
def fillRow (s : State) (d : Desc) (u : Nat) (x : VXfer) (j : Nat) : State :=
  match (descGet s d.id).map (fun y => y.phase == .running) with
  | some true =>
    let a := x.addr + j * x.stride
    let r := readRange s d.id a x.bytes
    match r.2 with
    | .bytes bs =>
      let f := freshen r.1 d.clobbered (offsetOf a) bs
      vocStore f.2 u (x.voc + j * x.bytes) f.1
    | y => vxStops r.1 d.id a y
  | _ => s

/-- Whether a chain's fills may run: with VXE_CFG.OVERLAP clear, every descriptor that took the unit before has
retired (R118, R401). -/
def fillTurn (s : State) (x : Desc) (u order : Nat) : Bool :=
  bitOf 0 (regGet s 0x500000) || !(s.descs.any fun y => y.id != x.id && (match vxRun y with
    | some r => r.unit == u && r.order < order
    | none => false))

/-- R104. The fills of a chain, in entry order, complete before its first stage reads. -/
def execFill (d : Nat) (s : State) : Result :=
  .next <| whenLive s fun s => match descGet s d with
    | none => s
    | some x => match vxRun x with
      | none => s
      | some r =>
        if x.phase != .running || r.filled || vxCount x = 0 || !fillTurn s x r.unit r.order then s
        else
          let s := (vcFills x.chain).foldl (fun s f =>
            (List.range f.rows).foldl (fun s j => fillRow s x r.unit f j) s) s
          if stillRuns s d then vxUpd s d fun r => { r with filled := true } else s

/-- Whether a chain's sweeps may run: every descriptor that took the unit before has finished its sweeps, and while one of
them writes back, which a parity error may replay, no cache range of this one meets any of its (R118, R119, R121;
DEDUCED, assumption 165). -/
def sweepTurn (s : State) (x : Desc) (u order : Nat) : Bool :=
  !(s.descs.any fun y => y.id != x.id && (match vxRun y with
    | some r => vxHolds y r && r.unit == u && r.order < order
        && (r.sweeps < (vxSweeps y).length || rangesMeet (vxRanges x) (vxRanges y))
    | none => false))

/-- The buffer that the stage ending a sweep left for the next one (R112 to R114). -/
def sweepBuffer (steps : List VStep) : List (Nat × Nat) :=
  match steps.getLast? with
  | some p =>
    if p.stage.kind = 0x0A then vocElems (fmtAt p.stage.fmt) p.stage.offOut p.n
    else if p.stage.kind = 0x0B then [(p.stage.offOut, 4 * p.w)]
    else []
  | none => []

/-- The first bad word that a sweep reads: `first` before its stages, and each stage's reads but for words that the stages
before it in the sweep have written in full (R113, R116, R121). -/
def sweepBad (s : State) (u : Nat) (first : List (Nat × Nat)) (steps : List VStep) : Option Nat :=
  let bad (past rs : List (Nat × Nat)) : Option Nat :=
    (s.vocBad.find? fun k => (rs.any fun r => overlap k 4 (vocKey u r.1) r.2)
      && !(past.any fun w => vocKey u w.1 ≤ k && k + 4 ≤ vocKey u (w.1 + w.2))).map (· - 262144 * u)
  (steps.foldl (fun (acc : Option Nat × List (Nat × Nat)) p =>
    (acc.1.orElse fun _ => bad acc.2 (stepReads p), acc.2 ++ stepWrites p)) (bad [] first, [])).1

/-- R112. The next sweep passes every element through its stages and writes their buffers and statistics. -/
def execSweep (d : Nat) (s : State) : Result :=
  .next <| whenLive s fun s => match descGet s d with
    | none => s
    | some x => match vxRun x with
      | none => s
      | some r => match (vxSweeps x)[r.sweeps]? with
        | none => s
        | some steps =>
          if x.phase != .running || !r.filled || !sweepTurn s x r.unit r.order then s
          else
            let first := if r.sweeps = 0 then inputReads x else sweepBuffer (((vxSweeps x)[r.sweeps - 1]?).getD [])
            let s := vxUpd s d fun r => { r with ran := true }
            match sweepBad s r.unit first steps with
            | some w => vxParity s x r w false
            | none =>
              let byte (a : Nat) : Byte := mapGet (fun _ => (0 : Byte)) s.voc (vocKey r.unit a)
              let n := vxCount x
              let start := if r.sweeps = 0 then (List.range n).map fun i =>
                  laneOf (vsource byte (ofFp32 (vcTscale x.chain)) n (vxRow x) [] [] (vcInput x.chain)
                    (vcInputOff x.chain) 0 (fun _ => posZero) i)
                else r.lanes
              let fl := steps.foldl (fun fl p => vstep byte (coefOf s) x p fl)
                { xs := start, ps := start.map fun _ => false, stat1 := r.stat1, stat2 := r.stat2 }
              if fl.rep.trap.isSome then
                vxFail (descUpd s d fun x => { x with report := reportJoin x.report fl.rep }) d stNanTrap {}
              else
                let s := fl.writes.foldl (fun s w => vocStore s r.unit w.1 w.2) s
                let s := descUpd s d fun x => { x with report := reportJoin x.report fl.rep }
                vxDone (vxUpd s d fun r => { r with
                  sweeps := r.sweeps + 1, lanes := fl.xs, stat1 := fl.stat1, stat2 := fl.stat2 }) d

/-- A write-back entry's rows go to scratchpad. -/
def backEntry (s : State) (x : Desc) (u : Nat) (e : VXfer) : State :=
  (List.range e.rows).foldl (fun s j => rowWrite s x (e.addr + j * e.stride) (vocBytes s u (e.voc + j * e.bytes) e.bytes) none) s

/-- R104. The write-backs run in entry order after the last sweep; the chain completes once they are
visible. -/
def execWriteBack (d : Nat) (s : State) : Result :=
  .next <| whenLive s fun s => match descGet s d with
    | none => s
    | some x => match vxRun x with
      | none => s
      | some r =>
        if x.phase != .running || r.sweeps < (vxSweeps x).length then s
        else
          let es := vcBacks x.chain
          let s := ((List.range es.length).zip es).foldl (fun s (p : Nat × VXfer) =>
            match (descGet s d).bind vxRun with
            | none => s
            | some q =>
              let i := p.1
              let e := p.2
              if !stillRuns s d || i < q.wroteBack then s
              else match vocBadIn s r.unit [xferVoc e] with
                | some w =>
                  let s := vxParity s x q w true
                  -- the destination of the entry under way is undefined when the error is contained (R121)
                  if (descGet s d).any (fun y => y.phase == .finished) then
                    (List.range e.rows).foldl (fun s j => rangeHavoc s (e.addr + j * e.stride, e.bytes)) s
                  else s
                | none => vxUpd (backEntry s x r.unit e) d fun q => { q with wroteBack := q.wroteBack + 1 }) s
          vxDone s d

/-! Replays (R187). -/

/-- R187. After its issued writes are acknowledged and its refetch is done, a descriptor runs again from its
first read, unless it has run four times. -/
def execReplay (d : Nat) (s : State) : Result :=
  .next <| whenLive s fun s => match descGet s d with
    | none => s
    | some x =>
      if x.phase != .replaying || x.unacked != 0 || x.waitBlock.isSome then s
      else if x.runs ≥ 4 then vxFail s d stDataParity x.detail
      else
        let s := { s with gathers := s.gathers.filter fun g => g.owner != d || g.failed.isSome }
        let again (x : Desc) : Desc := { x with phase := .running, runs := x.runs + 1, report := {} }
        let log (s : State) (res : Nat) : State :=
          raiseErr s { code := 0x0102, cls := 1, internal := true, resource := res, ring := x.ring, seq := x.seq
                       addr := x.detail.addr.toNat }
        match x.engine with
        | .matrix r =>
          let p := (r.parts[r.met]?).getD (0, 0)
          let pos := ((List.range 16).find? fun q => covers r.mode p.2 q).getD 0
          let s := descUpd (mxPlanes s x false) d fun x => { again x with engine := .matrix { r with
            drained := [], streamed := [], groups := [], passes := [], kept := [], tallies := [], stops := [] } }
          log s (resource 1 (16 * p.1 + pos))
        | .vector r =>
          let s := descUpd s d fun x => { again x with engine := .vector { unit := r.unit, order := r.order, ran := r.ran } }
          log s (resource 2 r.unit)
        | _ => s

end Sys2Proof.Machine
end

