-- ==== Sys2Proof/Machine/Tiles.lean ====
section
/-! DEFINITION. Tile registers and their instructions (R138 to R153): TCFG checks, the tile queue, row transfers
with their resume record, and products on a bound quad. -/
namespace Sys2Proof.Machine

/-! Shapes (R138, R139, R144). -/

/-- Elements per row of an entry (R138). -/
def tElems (c : Word) : Nat := tBpr c * 8 / max (fmtBits (fmtAt (tFmt c))) 1

/-- Whether a TCFG entry is valid (R139). -/
def tcfgOk (c : Word) : Bool :=
  let f := fmtAt (tFmt c)
  let unit := match f with
    | .fp32 | .int32 => 4
    | .fp16 | .bf16 => 2
    | _ => if fmtBits f = 6 then 3 else 1
  let shape := 1 ≤ tRows c && tRows c ≤ 128 && 1 ≤ tBpr c && tBpr c ≤ 128
  (c == 0 || shape) && codeKnown (tFmt c) && fmtPlain f && tBpr c % unit == 0 && bitsOf 31 21 c.toNat == 0

/-- The TCFG that the writes already in a group's queue leave (R142). -/
def tcfgAhead (g : Group) : List Word :=
  g.tq.foldl (fun cfg o => match insnOf o.word with
    | some .tcfg => cfg.set (iTA o.word) (o.sa.truncate 32)
    | some .tcfgm => o.cfg
    | _ => cfg) g.tcfg

/-- FINFO0 of TILE_SHAPE (R144). -/
def shapeInfo0 (w : Word) (cfg : List Word) (i : Nat) : Dword :=
  let c := (cfg[i]?).getD 0
  BitVec.ofNat 64 (w.toNat + 2 ^ 32 * i + 2 ^ 35 * tRows c + 2 ^ 43 * tBpr c + 2 ^ 51 * tFmt c)

/-- FINFO1 of TILE_SHAPE for a second tile (R144). -/
def shapeTile (cfg : List Word) (i : Nat) : Dword :=
  let c := (cfg[i]?).getD 0
  BitVec.ofNat 64 (i + 2 ^ 3 * tRows c + 2 ^ 11 * tBpr c + 2 ^ 19 * tFmt c)

/-- TILE_SHAPE with a second tile. -/
def shapePair (s : State) (t : Nat) (w : Word) (cfg : List Word) (i j : Nat) : State :=
  raiseFault s t 0x07 (shapeInfo0 w cfg i) (shapeTile cfg j)

/-- TILE_SHAPE without a second shape: the fields of the second tile are open. -/
def shapeNone (s : State) (t : Nat) (w : Word) (cfg : List Word) (i : Nat) : State :=
  let r := draw s 1
  raiseFault r.2 t 0x07 (shapeInfo0 w cfg i)
    (BitVec.ofNat 64 ((Config.freeWord r.1).toNat % 2 ^ 24 + 2 ^ 24 * 2))

/-- TILE_SHAPE with a requested shape; the field of the second tile is open, and a row and byte offset leave
the format field open. -/
def shapeAsked (s : State) (t : Nat) (w : Word) (cfg : List Word) (i rows bpr : Nat) (fmt : Option Nat) : State :=
  let r := draw s 1
  let free := (Config.freeWord r.1).toNat
  let f := fmt.getD (free / 8 % 32)
  raiseFault r.2 t 0x07 (shapeInfo0 w cfg i)
    (BitVec.ofNat 64 (free % 8 + 2 ^ 3 * (rows % 256) + 2 ^ 11 * (bpr % 256) + 2 ^ 19 * (f % 32) + 2 ^ 24))

/-- TILE_SHAPE or FORMAT_INVALID of a TCFG write of the entries from tile `i` on; none when all are valid. -/
def tcfgFault (s : State) (t : Nat) (w : Word) (cfg : List Word) (i : Nat) (es : List Word) : Option State :=
  match es.find? fun c => !codeKnown (tFmt c) with
  | some c => some (raiseFault s t 0x09 (w.setWidth 64) (c.setWidth 64))
  | none => (es.findIdx? fun c => !tcfgOk c).map fun k =>
    let c := (es[k]?).getD 0
    shapeAsked s t w cfg (i + k) (tRows c) (tBpr c) (some (tFmt c))

/-! Tile storage and use marks (R138, R140, R147). -/

/-- A tile's writes are counted (R153), and a record that names it loses VALID (R147). -/
def tileWritten (i : Nat) (g : Group) : Group :=
  { g with
    writes := setAt g.writes i (· + 1)
    tstart := if bitOf 15 g.tstart.toNat && bitsOf 10 8 g.tstart.toNat == i then g.tstart &&& ~~~0x8000#32 else g.tstart }

/-- Bytes stored in a tile's row; words written in full have good parity. -/
def tileStore (i r : Nat) (off : Nat) (bs : List Byte) (g : Group) : Group :=
  let k := 16384 * i + 128 * r + off
  let full := fullWords k bs.length
  { g with tiles := mapSetAll (fun _ => 0) g.tiles k bs, tileBad := g.tileBad.filter fun w => !full.contains w }

/-- A tile's use mark raised (R140). -/
def useRaise (i n : Nat) (g : Group) : Group := { g with tuse := setAt g.tuse i (max n) }

/-- A tile zeroed, its use mark 0 (R140). -/
def tileZero (i : Nat) (g : Group) : Group :=
  { g with
    tiles := g.tiles.filter fun c => c.1 / 16384 != i
    tileBad := g.tileBad.filter fun w => w / 16384 != i
    tuse := g.tuse.set i 0 }

/-- TCFG entries replaced (R141): their tiles zeroed, the record and the reuse tags that name them cleared. -/
def tcfgWrite (es : List (Nat × Word)) (g : Group) : Group :=
  es.foldl (fun g p =>
    let g := tileWritten p.1 (tileZero p.1 g)
    { g with
      tcfg := g.tcfg.set p.1 p.2
      tags := g.tags.filter fun x => x.1 != p.1
      feeder := g.feeder.filter fun x => x.1 != p.1 }) g

/-- The first word of bad parity in the first `n` bytes of a tile's rows. -/
def tileBadIn (g : Group) (i rows n : Nat) : Option Nat :=
  g.tileBad.find? fun k => k / 16384 == i && (List.range rows).any fun r => overlap k 4 (16384 * i + 128 * r) n

/-- A parity error in tile storage ends the launch (R151, R188). -/
def tileParity (s : State) (gi word : Nat) : State :=
  match s.groups[gi]? with
  | some g =>
    let s := match g.launch with
      | some l => descUpd s l.desc fun d => { d with detail := { resource := resource 3 gi, addr := BitVec.ofNat 64 word } }
      | none => s
    endLaunch s gi stDataParity none
  | none => s

/-- Bad parity in the planes, the accumulator or the links of a launch's quad ends the launch (R188). -/
def quadParity (s : State) (gi q : Nat) : State :=
  let here (c : Nat) : Bool := c / 16 == q / 4 && covers 1 (q % 4) (c % 16)
  endLaunch { s with mxe := { s.mxe with bad := s.mxe.bad.filter fun c => !here c } } gi stDataParity none

/-! Issue (R142). -/

/-- A tile instruction enters its group's queue; a waiting one holds its thread, another retires. -/
def tileEnter (s : State) (t : Nat) (x : Thread) (w : Word) (waits : Bool) (cfg : List Word) : State :=
  let n := newId s
  let o : TileOp := { n := n.1, thread := t % 4, word := w, sa := sGet x (iSA w), sb := sGet x (iSB w), cfg }
  let s := groupUpd n.2 (t / 4) fun g => { g with tq := g.tq ++ [o] }
  threadUpd s t fun x => if waits then { x with hold := .tile n.1 } else nextPc x

/-- R143. `tzero`. -/
def execTzero (t : Nat) (s : State) : Result :=
  .next (onInsn s t .tzero fun s _ x w => tileEnter s t x w false [])

/-- R145. `tload`: the tile must be configured. -/
def execTload (t : Nat) (s : State) : Result :=
  .next (onInsn s t .tload fun s g x w =>
    let cfg := tcfgAhead g
    if (cfg[iTA w]?).getD 0 = 0 then shapeNone s t w cfg (iTA w) else tileEnter s t x w true [])

/-- R145. `tstore`: the tile must be configured, and a counted one must not go to chip memory. -/
def execTstore (t : Nat) (s : State) : Result :=
  .next (onInsn s t .tstore fun s g x w =>
    let cfg := tcfgAhead g
    if (cfg[iTA w]?).getD 0 = 0 then shapeNone s t w cfg (iTA w)
    else if bitOf 63 (sGet x (iSB w)).toNat && isChip (sGet x (iSA w)).toNat then raiseIllegal s t w
    else tileEnter s t x w true [])

/-- Whether a `tget` or `tput` names a row beside its thread and an aligned offset (R143). -/
def rowOk (t : Nat) (c : Word) (sa : Dword) : Bool :=
  let row := bitsOf 14 8 sa.toNat
  bitsOf 6 0 sa.toNat % 8 == 0 && row < tRows c && row % 4 == t % 4

/-- A `tget` or a `tput` is checked and queued. -/
def rowInsn (s : State) (t : Nat) (m : Mn) (waits : Bool) : Result :=
  .next (onInsn s t m fun s g x w =>
    let cfg := tcfgAhead g
    let sa := sGet x (iSA w)
    if rowOk t ((cfg[iTA w]?).getD 0) sa then tileEnter s t x w waits []
    else shapeAsked s t w cfg (iTA w) (bitsOf 14 8 sa.toNat) (bitsOf 6 0 sa.toNat) none)

/-- R143. `tget`. -/
def execTget (t : Nat) (s : State) : Result := rowInsn s t .tget true
/-- R143. `tput`. -/
def execTput (t : Nat) (s : State) : Result := rowInsn s t .tput false

/-- R143. `twait`. -/
def execTwait (t : Nat) (s : State) : Result :=
  .next (onInsn s t .twait fun s _ x w => tileEnter s t x w true [])

/-- R139, R141. `tcfg`: a bad entry faults at issue. -/
def execTcfg (t : Nat) (s : State) : Result :=
  .next (onInsn s t .tcfg fun s g x w =>
    match tcfgFault s t w (tcfgAhead g) (iTA w) [(sGet x (iSA w)).truncate 32] with
    | some s => s
    | none => tileEnter s t x w true [])

/-- Whether the read of a `tcfgm` holds a thread of a group that runs, or that suspends and completes it (R155). -/
def inTcfgm (g : Group) (h : Hold) : Bool :=
  match h with
  | .read _ => g.state == 1 || g.state == 2
  | _ => false

/-- R139, R141, R143. `tcfgm`: the entries are read, then checked; a memory fault changes none. -/
def execTcfgm (t : Nat) (s : State) : Result :=
  .next (onHeld s t .tcfgm inTcfgm fun s g x w =>
    let addr := (sGet x (iSA w)).toNat
    match x.hold, x.ret with
    | .read _, some (bs, 0) =>
      let r := takeRead s t x addr 32 bs
      let es := (List.range 8).map fun i => BitVec.ofNat 32 (fieldAt r.2 (4 * i) 4)
      let s := threadUpd r.1 t fun x => { x with ret := none, noAlloc := false }
      match tcfgFault s t w (tcfgAhead g) 0 es with
      | some s => s
      | none => tileEnter s t x w true es
    | .read _, some (_, c) => raiseAt s t c addr
    | .read _, none => s
    | _, _ => threadRead s t g addr 32 (.read addr))

/-- Whether R55 accepts a pair of formats. -/
def pairOk (a b : Fmt) : Bool :=
  a != .fp32 && a != .int32 && b != .fp32 && b != .int32 && (a == .int8) == (b == .int8)

/-- The contraction length and the columns of a `tmma` (R150): as A has them, and as B has them. -/
def mmaRed (w : Word) (cb : Word) : Nat := if bitOf 9 w.toNat then tRows cb else tElems cb
@[inherit_doc mmaRed] def mmaCols (w : Word) (cb : Word) : Nat := if bitOf 9 w.toNat then tElems cb else tRows cb

/-- The checks of R151 in order: none when all pass, else the tiles to report. -/
def mmaBad (w : Word) (cfg : List Word) : Option (Nat × Option Nat) :=
  let c (i : Nat) : Word := (cfg[i]?).getD 0
  let ta := iTA w
  let tb := iTB w
  let td := iTD w
  let fa := fmtAt (tFmt (c ta))
  let fb := fmtAt (tFmt (c tb))
  let red := tElems (c ta)
  let cols := mmaCols w (c tb)
  let n := ceilDiv cols 32
  let fp4 := fmtFp4Class fa && fmtFp4Class fb && !bitOf 9 w.toNat
  match [ta, tb, td].find? fun i => c i == 0 with
  | some i => some (i, none)
  | none =>
    if !pairOk fa fb then some (ta, some tb)
    else if red != mmaRed w (c tb) || red > (if fp4 then 256 else 128) then some (ta, some tb)
    else if cols > 128 || td + n > 8 then some (tb, some td)
    else
      let wrong (i : Nat) : Bool :=
        let k := c (td + i)
        !(tRows k == tRows (c ta) && tElems k == min 32 (cols - 32 * i)
          && fmtAt (tFmt k) == (if fa == .int8 then .int32 else .fp32))
      match (List.range n).find? wrong with
      | some i => some (ta, some (td + i))
      | none =>
        match [ta, tb].find? fun i => td ≤ i && i < td + n with
        | some i => some (i, some i)
        | none => none

/-- The last instruction in a queue that binds or releases the quad. -/
def bindAhead (g : Group) : Option Mn :=
  (g.tq.reverse.map fun o => insnOf o.word).findSome? fun m => match m with
    | some .tbind => some .tbind
    | some .tfree => some .tfree
    | _ => none

/-- R150, R151. `tmma`: its shapes are checked, then the quad; a bind still queued is awaited. -/
def execTmma (t : Nat) (s : State) : Result :=
  .next (onInsn s t .tmma fun s g x w =>
    let cfg := tcfgAhead g
    match mmaBad w cfg with
    | some (i, some j) => shapePair s t w cfg i j
    | some (i, none) => shapeNone s t w cfg i
    | none =>
      match bindAhead g with
      | some .tbind => s
      | some _ => raiseFault s t 0x08 (w.setWidth 64) 0
      | none => if g.quad.isSome then tileEnter s t x w false [] else raiseFault s t 0x08 (w.setWidth 64) 0)

/-- R149. `tbind`. -/
def execTbind (t : Nat) (s : State) : Result :=
  .next (onInsn s t .tbind fun s _ x w => tileEnter s t x w true [])

/-- R149. `tfree`. -/
def execTfree (t : Nat) (s : State) : Result :=
  .next (onInsn s t .tfree fun s _ x w => tileEnter s t x w false [])

/-! Products (R150, R152, R153). -/

/-- Element `j` of row `r` of a tile. -/
def tileElem (g : Group) (i r j : Nat) : Val :=
  decodeElem (fmtAt (tFmt (tcfgOf g i))) (elemCode (fun a => tileByte g i r a) (fmtAt (tFmt (tcfgOf g i))) 0 j)

/-- A product of two tiles: the destination bytes by tile and row, the flags, a non-finite value, saturation. -/
def mmaRow (g : Group) (w : Word) (i : Nat) : List Byte × Flags × Bool × Bool :=
  let ta := iTA w
  let tb := iTB w
  let cb := tcfgOf g tb
  let trans := bitOf 9 w.toNat
  let strict := bitOf 10 w.toNat
  let ints := fmtAt (tFmt (tcfgOf g ta)) == .int8
  let xs := (List.range (tElems (tcfgOf g ta))).map (tileElem g ta i)
  (List.range (mmaCols w cb)).foldl (fun (acc : List Byte × Flags × Bool × Bool) c =>
    let ys := (List.range xs.length).map fun k => if trans then tileElem g tb k c else tileElem g tb c k
    let old := if bitOf 8 w.toNat then 0
      else leNat ((List.range 4).map fun b => tileByte g (iTD w + c / 32) i (4 * (c % 32) + b))
    if ints then
      let r := accumulateInt (sext 32 old) ((xs.zip ys).map fun p => intOf p.1 * intOf p.2)
      (acc.1 ++ toLe 4 (wrapInt 32 r.1), acc.2.1, acc.2.2.1, acc.2.2.2 || r.2)
    else
      let r := accumulate strict (ofFp32 (BitVec.ofNat 32 old)) (xs.zip ys)
      (acc.1 ++ toLe 4 (toFp32 r.1).toNat, acc.2.1 ||| r.2, acc.2.2.1 || valNonfinite r.1, acc.2.2.2)) ([], 0, false, false)

/-- A `tmma` executes: destinations, use marks, TSTAT and tags (R140, R150, R153). -/
def mmaRun (g : Group) (w : Word) : Group :=
  let m := tRows (tcfgOf g (iTA w))
  let n := ceilDiv (mmaCols w (tcfgOf g (iTB w))) 32
  let rows := (List.range m).map fun i => (i, mmaRow g w i)
  let out := (List.range n).foldl (fun g' k =>
    let td := iTD w + k
    let g' := rows.foldl (fun g' p => tileStore td p.1 0 ((p.2.1.drop (128 * k)).take 128) g') g'
    tileWritten td (useRaise td m g')) g
  let flags := rows.foldl (fun f p => f ||| p.2.2.1.toNat % 32) 0
  let nf := rows.any fun p => p.2.2.2.1
  let sat := rows.any fun p => p.2.2.2.2
  let tag (i : Nat) : Nat × Nat := (i, (g.writes[i]?).getD 0)
  let tags := if g.tags.contains (tag (iTB w)) then g.tags
    else (g.tags.drop (g.tags.length - 3)) ++ [tag (iTB w)]
  { out with
    tstat := out.tstat ||| BitVec.ofNat 8 (flags + 32 * boolBit nf + 64 * boolBit sat)
    tags := tags, feeder := some (tag (iTA w)) }

/-! Row transfers (R145 to R147). -/

/-- The stride of a transfer, and the address of its row. -/
def xferStride (o : TileOp) : Int := sext 32 (bitsOf 31 0 o.sb.toNat)
@[inherit_doc xferStride] def xferRow (o : TileOp) (r : Nat) : Nat := rowAddr o.sa.toNat (xferStride o) r

/-- Whether a transfer matches the group's record (R147). -/
def recordMatches (g : Group) (o : TileOp) (store : Bool) : Bool :=
  let k := g.tstart.toNat
  bitOf 15 k && bitsOf 10 8 k == iTA o.word && bitOf 11 k == store && g.tstartAddr == o.sa
    && g.tstartStride == o.sb.truncate 32

/-- The record of a transfer interrupted at a row (R146). -/
def recordSet (o : TileOp) (store : Bool) (r : Nat) (g : Group) : Group :=
  { g with
    tstart := BitVec.ofNat 32 (r + 2 ^ 8 * iTA o.word + 2 ^ 11 * boolBit store + 2 ^ 15)
    tstartAddr := o.sa, tstartStride := o.sb.truncate 32 }

/-- TSTART.ROW advanced by a resuming transfer, and VALID cleared when it completes (R147). -/
def recordRow (r : Nat) (g : Group) : Group :=
  { g with tstart := BitVec.ofNat 32 (setBits 7 0 g.tstart.toNat r) }
@[inherit_doc recordRow] def recordDone (g : Group) : Group := { g with tstart := g.tstart &&& ~~~0x8000#32 }

/-- The head of a group's tile queue changed, and removed. -/
def headUpd (s : State) (gi : Nat) (f : TileOp → TileOp) : State :=
  groupUpd s gi fun g => { g with tq := match g.tq with
    | o :: os => f o :: os
    | [] => [] }
@[inherit_doc headUpd] def headDrop (s : State) (gi : Nat) : State := groupUpd s gi fun g => { g with tq := g.tq.drop 1 }

/-- A waiting instruction at the head completes: its thread writes a result, if it has one, and goes on. -/
def tileDone (s : State) (gi : Nat) (o : TileOp) (d : Option (Nat × Dword)) : State :=
  threadUpd (headDrop s gi) (4 * gi + o.thread) fun x =>
    if x.hold = .tile o.n then
      nextPc (match d with
        | some (r, v) => sSet x r v
        | none => x)
    else x

/-- A transfer stops without a fault, at a row: its thread stands at its instruction (R155). -/
def xferStop (s : State) (gi : Nat) (o : TileOp) : State :=
  threadUpd (headDrop s gi) (4 * gi + o.thread) fun x => if x.hold = .tile o.n then { x with hold := .free } else x

/-- The destinations of a `tstore`'s rows from `r` on, in the own scratchpad, undefined (R146,
assumption 159). -/
def storeHavoc (s : State) (o : TileOp) (r rows bpr : Nat) : State :=
  (List.range (rows - r)).foldl (fun s i => rangeHavoc s (xferRow o (r + i), bpr)) s

/-- A row fault at a transfer's lowest failing row (R135, R146). -/
def rowFault (s : State) (gi : Nat) (o : TileOp) (store : Bool) (r cause rows bpr : Nat) : State :=
  let s := groupUpd (headDrop s gi) gi (recordSet o store r)
  let s := if store then storeHavoc s o r rows bpr else s
  match threadAt s (4 * gi + o.thread) with
  | some (g, x) =>
    if x.hold = .tile o.n && g.state != 5 then
      raiseFault s (4 * gi + o.thread) cause (BitVec.ofNat 64 (xferRow o r)) (BitVec.ofNat 64 r)
    else s
  | none => s

/-- The access of a row. -/
def rowAccess (g : Group) (gi : Nat) (o : TileOp) (r : Nat) (data : List Byte) (store : Bool) : Access :=
  { kind := if store then .write else .read, addr := xferRow o r, len := tBpr (tcfgOf g (iTA o.word)), data
    counter := if store && bitOf 63 o.sb.toNat then some (bitsOf 43 32 o.sb.toNat) else none
    src := launchSrc g, who := .row gi r }

/-- A row of a `tload` is read: from the L1 or chip memory by lines, else by one access (R132, R133). -/
def rowRead (s : State) (gi : Nat) (a : Access) : State :=
  if isChip a.addr then
    let lines := (piecesOf 128 3 a.addr a.len).map fun p => lineOf p.1
    lines.foldl (fun s l =>
      let s := l1Check s (gi / 2) l
      match l1Find s (gi / 2) l with
      | some x => headUpd s gi fun o => { o with got := mapSetAll (fun _ => 0) o.got l x.bytes }
      | none =>
        let s := headUpd s gi fun o => { o with fills := o.fills ++ [l], outstanding := o.outstanding + 1 }
        threadAccess s { a with addr := l, len := 128 }) s
  else threadAccess (headUpd s gi fun o => { o with outstanding := o.outstanding + 1 }) a

/-- The head `tload` issues its next row, unless it is done. -/
def tloadIssue (s : State) (gi : Nat) : State :=
  match s.groups[gi]? with
  | none => s
  | some g => match g.tq with
    | [] => s
    | o :: _ =>
      let c := tcfgOf g (iTA o.word)
      if o.row ≥ tRows c then
        tileDone (if o.resumes then groupUpd s gi recordDone else s) gi o none
      else
        let a := rowAccess g gi o o.row [] false
        match issueRefusal s a with
        | some n => rowFault (noteRefusal s true a.src a.addr n) gi o false o.row 0x04 (tRows c) (tBpr c)
        | none => rowRead (headUpd s gi fun o => { o with issued := o.row + 1 }) gi a

/-- The head `tload`: its row in flight is committed or faults; a suspension or an ending group stops it
between rows (R145, R146, R155). -/
def tloadStep (s : State) (gi : Nat) (g : Group) (o : TileOp) : State :=
  let t := iTA o.word
  if o.outstanding != 0 then s
  else match o.failed with
    | some (r, c) => rowFault s gi o false r c 0 0
    | none =>
      let pending := o.issued > o.row
      let row := if pending then o.row + 1 else o.row
      let s := if !pending then s
        else
          let a := xferRow o o.row
          let bs := (List.range (tBpr (tcfgOf g t))).map fun i => mapGet (fun _ => (0 : Byte)) o.got (a + i)
          let s := o.fills.foldl (fun s l =>
            l1Alloc s (gi / 2) l ((List.range 128).map fun i => mapGet (fun _ => (0 : Byte)) o.got (l + i))) s
          let s := groupUpd s gi fun g =>
            let g := useRaise t row (tileStore t o.row 0 bs g)
            let g := { g with writes := setAt g.writes t (· + 1) }
            if o.resumes then recordRow row g else g
          headUpd s gi fun o => { o with row := row, got := [], fills := [] }
      if g.state = 1 || row ≥ tRows (tcfgOf g t) then tloadIssue s gi
      else if g.state = 2 then xferStop (groupUpd s gi (recordSet o false row)) gi o
      else headDrop s gi

/-- Answers that a row's write brings. -/
def rowAnswers (a : Access) : Nat := if isChip a.addr then (piecesOf 128 3 a.addr a.len).length else 1

/-- Rows of a `tstore` acknowledged from row `r` on without a gap. -/
def ackedFrom (g : Group) (gi : Nat) (o : TileOp) : Nat → Nat → Nat
  | 0, r => r
  | fuel + 1, r =>
    if r < o.issued && (o.acked.filter (· == r)).length ≥ rowAnswers (rowAccess g gi o r [] true) then
      ackedFrom g gi o fuel (r + 1)
    else r

/-- The head `tstore` issues rows: eight at a time, or a counted one after its predecessor's answer (R145). -/
def tstoreIssue (gi : Nat) : Nat → State → State
  | 0, s => s
  | fuel + 1, s =>
    match s.groups[gi]? with
    | none => s
    | some g => match g.tq with
      | [] => s
      | o :: _ =>
        let t := iTA o.word
        let c := tcfgOf g t
        let limit := if bitOf 63 o.sb.toNat then 1 else 8
        if g.state != 1 || o.issued ≥ tRows c || o.issued ≥ o.row + limit || o.failed.isSome then s
        else match tileBadIn { g with tileBad := g.tileBad.filter fun k => k % 16384 / 128 == o.issued } t (o.issued + 1) (tBpr c) with
          | some w => tileParity s gi w
          | none =>
            let a := rowAccess g gi o o.issued ((List.range (tBpr c)).map (tileByte g t o.issued)) true
            match issueRefusal s a with
            | some n => headUpd (noteRefusal s true a.src a.addr n) gi fun o => { o with failed := some (o.issued, 0x04) }
            | none =>
              let s := headUpd s gi fun o => { o with issued := o.issued + 1, outstanding := o.outstanding + rowAnswers a }
              tstoreIssue gi fuel (threadAccess (if isChip a.addr then l1Store s (gi / 2) a.addr a.data else s) a)

/-- The head `tstore`: rows acknowledged are counted off and further ones issued; it completes, faults at its
lowest failing row, or is stopped between rows (R145, R146, R155). -/
def tstoreStep (s : State) (gi : Nat) (g : Group) (o : TileOp) : State :=
  let c := tcfgOf g (iTA o.word)
  let row := ackedFrom g gi o 128 o.row
  let s := headUpd s gi fun o => { o with row := row }
  let s := if o.resumes then groupUpd s gi (recordRow row) else s
  if o.outstanding = 0 && o.failed.isNone && row ≥ tRows c then
    tileDone (if o.resumes then groupUpd s gi recordDone else s) gi o none
  else
    let s := tstoreIssue gi 8 s
    match s.groups[gi]? with
    | none => s
    | some g => match g.tq with
      | [] => s
      | o :: _ =>
        if o.outstanding != 0 then s
        else match o.failed with
          | some (r, k) => rowFault s gi o true r k (tRows c) (tBpr c)
          | none =>
            -- a stop between rows leaves the destinations of the rows to come undefined, as a fault does (R137, R146)
            if g.state = 2 then
              xferStop (storeHavoc (groupUpd s gi (recordSet o true o.row)) o o.row (tRows c) (tBpr c)) gi o
            else if g.state = 5 then headDrop (storeHavoc s o o.row (tRows c) (tBpr c)) gi
            else s

/-- A transfer at the head starts: it resumes where the record says, or starts at row 0; a `tload` that does
not match a record of its tile clears it (R147). -/
def xferStart (s : State) (gi : Nat) (g : Group) (o : TileOp) (store : Bool) : State :=
  let on := recordMatches g o store
  let row := if on then bitsOf 7 0 g.tstart.toNat else 0
  let s := if !on && !store then groupUpd s gi fun g =>
      if bitOf 15 g.tstart.toNat && bitsOf 10 8 g.tstart.toNat == iTA o.word then recordDone g else g
    else s
  headUpd s gi fun o => { o with begun := true, row := row, issued := row, resumes := on }

/-- A bind at the head of the queue (R149). -/
def bindStep (s : State) (gi : Nat) (g : Group) (o : TileOp) : State :=
  let mask := bitsOf 15 0 o.sa.toNat
  let d := iSB o.word
  match g.quad with
  | some q => tileDone s gi o (some (d, BitVec.ofNat 64 q))
  | none =>
    let n := newId s
    let since := g.bindSince.getD n.1
    let s := n.2
    match bindTurn s gi since, bindPick s mask with
    | true, some q =>
      match quadHeld s q with
      | some s => groupUpd s gi fun g => { g with bindSince := some since }
      | none => tileDone (quadTake (risePower s) gi q mask) gi o (some (d, BitVec.ofNat 64 q))
    | _, _ =>
      if bitOf 13 o.word.toNat then tileDone s gi o (some (d, BitVec.ofInt 64 (-1)))
      else groupUpd s gi fun g => { g with bindSince := some since }

/-- The instruction at the head of a group's queue executes, or a transfer there goes on (R142). -/
def tileStep (s : State) (gi : Nat) (g : Group) (o : TileOp) : State :=
  let t := iTA o.word
  let row := bitsOf 14 8 o.sa.toNat
  let off := bitsOf 6 0 o.sa.toNat
  let bpr := tBpr (tcfgOf g t)
  let quiet (f : Group → Group) : State := groupUpd (headDrop s gi) gi f
  match insnOf o.word with
  | some .tzero => quiet fun g => tileWritten t (tileZero t g)
  | some .tload | some .tstore =>
    let store := iFn o.word % 8 == 2
    if o.begun then (if store then tstoreStep s gi g o else tloadStep s gi g o)
    else
      let s := xferStart s gi g o store
      match s.groups[gi]? with
      | some g => match g.tq with
        | o :: _ => if store then tstoreStep s gi g o else tloadStep s gi g o
        | [] => s
      | none => s
  | some .tget =>
    match tileBadIn { g with tileBad := g.tileBad.filter fun k => k % 16384 / 128 == row && k % 128 / 8 == off / 8 } t 128 128 with
    | some w => tileParity s gi w
    | none =>
      let bs := (List.range 8).map fun i => if off + i < bpr then tileByte g t row (off + i) else 0
      tileDone s gi o (some (iSB o.word, BitVec.ofNat 64 (leNat bs)))
  | some .tput => quiet fun g =>
      tileWritten t (useRaise t (row + 1) (tileStore t row off ((toLe 8 o.sb.toNat).take (bpr - off)) g))
  | some .twait => tileDone s gi o none
  | some .tcfg => tileDone (groupUpd s gi (tcfgWrite [(t, o.sa.truncate 32)])) gi o none
  | some .tcfgm => tileDone (groupUpd s gi (tcfgWrite ((List.range 8).zip o.cfg))) gi o none
  | some .tmma =>
    let cb := tcfgOf g (iTB o.word)
    let ca := tcfgOf g t
    let dest := if bitOf 8 o.word.toNat then []
      else (List.range (ceilDiv (mmaCols o.word cb) 32)).filterMap fun k =>
        tileBadIn g (iTD o.word + k) (tRows ca) (tBpr (tcfgOf g (iTD o.word + k)))
    match (tileBadIn g t (tRows ca) bpr).toList ++ (tileBadIn g (iTB o.word) (tRows cb) (tBpr cb)).toList ++ dest with
    | w :: _ => tileParity (headDrop s gi) gi w
    | [] => match g.quad with
      | some q => if cellsBad s 1 (q / 4, q % 4) then quadParity (headDrop s gi) gi q else quiet fun g => mmaRun g o.word
      | none => quiet fun g => mmaRun g o.word
  | some .tbind => bindStep s gi g o
  | some .tfree => quadRelease (headDrop s gi) gi
  | _ => headDrop s gi

/-- R142. The head of a group's tile queue executes, in issue order. -/
def execTileQueue (g : Nat) (s : State) : Result :=
  .next <| whenLive s fun s => match s.groups[g]? with
    | some x =>
      if x.state = 1 || x.state = 2 || x.state = 5 then
        match x.tq with
        | o :: _ => tileStep s g x o
        | [] => s
      else s
    | none => s

end Sys2Proof.Machine
end

