-- ==== Sys2Proof/Machine/Start.lean ====
section
/-! DEFINITION. The start of a launch (R126): the group it takes, the copy of the program image, and the
state its threads begin in; the scheduling policy of the Steward (R226); and the ends of a launch (R127, R137). -/
namespace Sys2Proof.Machine

/-- A thread as a launch starts it, held until the image is copied. -/
def startThread (d : Desc) : Thread :=
  { s := [0, lcArg d 0, lcArg d 1, lcArg d 2, lcArg d 3] ++ List.replicate 27 0, hold := .image }

/-- A group as a launch takes it. -/
def startGroup (order : Nat) (d : Desc) (g : Group) : Group :=
  { state := 1
    launch := some { desc := d.id, ring := d.ring, cls := d.cls, src := d.src, prog := lcProg d
                     progLen := lcProgLen d, started := order }
    fhandler := BitVec.ofNat 32 (lcHandler d)
    threads := List.replicate 4 (startThread d)
    lastCause := g.lastCause, refused := g.refused }

/-- Whether a group still waits for its program image. -/
def groupCopying (s : State) (g : Nat) : Bool :=
  match s.groups[g]? with
  | some x => (x.state == 1 || x.state == 2) && x.threads.any fun y => y.hold == .image
  | none => false

/-- The copy of the program image; once it is whole the four threads start together. -/
def copyProgram (s : State) (x : Desc) (g : Nat) : State :=
  let r := readRange s x.id (lcProg x) (lcProgLen x)
  match r.2 with
  | .bytes im =>
    groupUpd (gatherDrop r.1 x.id) g fun y => { y with
      store := im, threads := y.threads.map fun z => if z.hold = .image then { z with hold := .free } else z }
  | .bad w => endLaunch (descUpd r.1 x.id fun y => { y with detail := badDetail s w }) g stDataParity none
  | .failed c =>
    endLaunch (descUpd (gatherDrop r.1 x.id) x.id fun y => { y with detail :=
      { addr := BitVec.ofNat 64 (lcProg x), info0 := if c < 8 then BitVec.ofNat 64 c else 0 } }) g (gotStatus c) none
  | _ => r.1

/-- R126. A LAUNCH takes an idle group, copies the program image and starts its four threads; called again
while the copy or the group's wake is outstanding. -/
def execLaunch (d : Nat) (s : State) : Result :=
  .next <| whenLive s fun s => match descGet s d with
    | none => s
    | some x =>
      if dop x != 0x50 then s
      else match x.engine with
        | .launch g => if x.phase = .running && groupCopying s g then copyProgram s x g else s
        | _ =>
          if !mayStart s x then s
          else match pickGroup s x with
            | none => stewardAct s
            | some g =>
              if !firstOf s x (fun y => dop y == 0x50 && namesGroup s y g) then s
              else match wakeFor s [68 + g / 2] with
                | some s' => s'
                | none =>
                  let n := newId s
                  let s := groupUpd n.2 g (startGroup n.1 x)
                  let s := descUpd s d fun x => { x with phase := .running, engine := .launch g, runs := 1 }
                  copyProgram s x g

/-- R127. All four threads have ended and the group has drained: the launch completes with success. -/
def execLaunchComplete (g : Nat) (s : State) : Result :=
  .next <| whenLive s fun s => match s.groups[g]? with
    | some x =>
      if x.state = 1 && x.launch.isSome && x.threads.all (·.ended) && groupDrained x then
        stewardAct (retireLaunch s g 0 none) else s
    | none => s

/-- R137. A launch that ends has drained: it completes as a contained error. -/
def execLaunchEnd (g : Nat) (s : State) : Result :=
  .next <| whenLive s fun s => match s.groups[g]? with
    | some x =>
      if x.state = 5 && groupDrained x then
        match x.launch with
        | some l => match l.fate with
          | some (st, th) => stewardAct (retireLaunch s g st th)
          | none => s
        | none => s
      else s
    | none => s

end Sys2Proof.Machine
end

