-- ==== Sys2Proof/Machine/Checks.lean ====
section
/-! DEFINITION. What validation checks of a descriptor (R240): its fields (R227 to R233, R346, R347), the
ranges it names, and the rows of its type's table (R67, R73, R117, R126, R198, R232, R247, R248). -/
namespace Sys2Proof.Machine

/-! Step 1: the operation and its fields (R227, R228, R346). -/

/-- Header fields of R227. -/
def dCntEn (d : Desc) : Bool := bitOf 0 (dfield d 1 1)
@[inherit_doc dCntEn] def dDbEn (d : Desc) : Bool := bitOf 1 (dfield d 1 1)
@[inherit_doc dCntEn] def dCntId (d : Desc) : Nat := dbits d 4 4 11 0
@[inherit_doc dCntEn] def dCntCluster (d : Desc) : Nat := dbits d 4 4 30 12
@[inherit_doc dCntEn] def dCntAdd (d : Desc) : Nat := dfield d 8 4
@[inherit_doc dCntEn] def dDbCluster (d : Desc) : Nat := dbits d 12 4 18 0
@[inherit_doc dCntEn] def dDbValue (d : Desc) : Nat := dfield d 16 8

/-- Whether a code is one of the image descriptors' (R346). -/
def isImage (op : Nat) : Bool := 0xF0 ≤ op && op ≤ 0xFF

/-- Whether a code is listed in R228. -/
def opListed (op : Nat) : Bool := [0x01, 0x02, 0x10, 0x11, 0x20, 0x30, 0x40, 0x50].contains op || isImage op

/-- Whether an image descriptor is accepted (R346). -/
def imageAccepted (s : State) (d : Desc) : Bool :=
  let op := dop d
  op ≤ 0xF5 && d.ring == 0 && d.issue.isNone
    && (stage s == 7 || op == 0xF5 || bitOf 1 (regGet s 0x200000))

/-- Bits of the body that must be zero, as first and last bit of the descriptor: the reserved bits and the
fields that the type does not use (R227 to R233, R248, R347). -/
def bodyZeros (d : Desc) : List (Nat × Nat) :=
  match dop d with
  | 0x01 => [(256, 1023)]
  | 0x02 => [(268, 287), (384, 1023)]
  | 0x10 | 0x11 =>
    [(261, 263), (268, 271), (277, 279), (285, 287), (313, 319), (345, 351), (377, 383), (864, 895), (960, 1023)]
  | 0x20 => [(260, 287), (303, 319), (384, 1023)]
  | 0x30 => [(259, 271), (284, 287), (313, 319), (345, 351), (704, 1023)]
  | 0x40 => [(268, 271), (277, 279), (285, 287), (292, 319), (704, 1023)] ++ (match clOp d with
      | 0 | 1 => [(384, 447), (640, 703)]
      | 2 => [(288, 291), (384, 447), (640, 703)]
      | 3 => [(288, 291), (416, 447), (640, 703)]
      | 4 => [(280, 284), (288, 291), (320, 447), (512, 703)]
      | 5 => [(280, 284), (288, 291), (384, 415)]
      | _ => [])
  | 0x50 => [(272, 287), (672, 1023)]
  | op => [(258, 287), (352, 383), (896, 1023)] ++ (match op with
      | 0xF0 => [(257, 257), (288, 351), (384, 895)]
      | 0xF1 => [(257, 257), (448, 895)]
      | 0xF2 => [(257, 257), (288, 351), (448, 895)]
      | 0xF3 => [(256, 256), (288, 351), (384, 447), (512, 895)]
      | 0xF4 => [(256, 257), (288, 351), (448, 895)]
      | _ => [(256, 257), (288, 351), (448, 511)])

/-- Bits of the header that must be zero. -/
def headZeros (d : Desc) : List (Nat × Nat) :=
  [(13, 31), (63, 63), (115, 127)] ++ (if isMatrix d || dop d == 0x20 then [] else [(11, 12), (192, 255)])

/-- Whether the reserved bits and unused fields are zero. -/
def zerosOk (d : Desc) : Bool :=
  let n := dfield d 0 128
  (headZeros d ++ bodyZeros d).all fun r => bitsOf r.2 r.1 n == 0

/-- Field values that step 1 checks beside: DESC.kind (R232), and the fields of image descriptors (R347). -/
def valuesOk (s : State) (d : Desc) : Bool :=
  match dop d with
  | 0x30 => mvKind d != 3
  | 0xF1 =>
    let len := dfield d 40 4
    dfield d 36 4 % 128 == 0 && 128 ≤ len && len ≤ 65536 && len % 128 == 0 && dfield d 36 4 + len ≤ bankSize
  | 0xF3 => !bitOf 1 (dfield d 32 1) || stage s == 7
  | 0xF5 => dfield d 48 8 % 64 == 0
  | _ => true

/-- The chained doorbell obeys R219 and its cluster is not a multicast identifier. -/
def bellOk (d : Desc) : Bool :=
  !dDbEn d || (bitsOf 31 18 (dDbValue d) == 0 && bitsOf 63 48 (dDbValue d) == 0 && dDbCluster d < mcastBase)

/-- Step 1 of R240: the status of its first check that fails, 0 when none does. -/
def stepOne (s : State) (d : Desc) : Nat :=
  let op := dop d
  if !opListed op || (isImage op && !imageAccepted s d) then stDescInvalid
  else if op = 0x50 && stage s != 5 then stNoFirmware
  else if zerosOk d && valuesOk s d && bellOk d then 0
  else stDescInvalid

/-! The ranges a descriptor names, in the order of its fields: reads, then writes. -/

/-- A range that a descriptor names. -/
structure Range where
  addr : Nat
  len : Nat
  write : Bool
deriving DecidableEq, Repr

/-- Ranges read, and ranges written. -/
def readsOf (rs : List (Nat × Nat)) : List Range := rs.map fun r => { addr := r.1, len := r.2, write := false }
@[inherit_doc readsOf] def writesOf (rs : List (Nat × Nat)) : List Range := rs.map fun r => { addr := r.1, len := r.2, write := true }

/-- The counter address of a remote count-only advance (R237). -/
def cntAddr (cluster c : Nat) : Nat := cluster * 2 ^ 40 + regBase + 0x908000 + 8 * c

/-- The doorbell window of a cluster. -/
def bellAddr (cluster : Nat) : Nat := cluster * 2 ^ 40 + bellBase

/-- The ranges of a descriptor's header. -/
def headRanges (s : State) (d : Desc) : List Range :=
  (if dCntEn d && dCntCluster d != ownId s then writesOf [(cntAddr (dCntCluster d) (dCntId d), 8)] else [])
    ++ (if dDbEn d then writesOf [(bellAddr (dDbCluster d), 8)] else [])

/-- The chain block of a matrix or vector descriptor, when it names one: address and bytes (R68, R99). -/
def chainBlock (d : Desc) : List (Nat × Nat) :=
  if isMatrix d then (if mxChain d = 0 then [] else [(mxChain d, 320)])
  else if dop d = 0x20 then [(vxChain d, 448)]
  else []

/-- Whether a chain block is aligned, and not missing. -/
def chainPlaced (d : Desc) : Bool :=
  match chainBlock d with
  | (a, _) :: _ => a % 64 == 0
  | [] => false

/-- The peer table that a chain names (R90). -/
def peerTable (d : Desc) : List (Nat × Nat) :=
  match chFind d.chain 0x18 with
  | some t =>
    let n := t.sub % 32
    if 1 ≤ n && n ≤ 16 then [(t.addr, 32 * n)] else []
  | none => []

/-- The members whose table entries a collective reads, when its entry can name them. -/
def clTableReads (d : Desc) : List Nat :=
  let e := clEntry d
  if 1 ≤ grpMembers e && grpMembers e ≤ 131072 && grpIndex e < grpMembers e
      && ([0, 1, 2, 3, 4].all fun l => grpFan e l ≥ 1) then neededMembers e (clOp d) (clRoot d)
  else []

/-- The destination and the drop vector of a collective, as addresses. -/
def clDests (d : Desc) : List (Nat × Nat) :=
  let n := clCount d * clBytes (clType d)
  match clOp d with
  | 0 | 1 | 3 => [(clDst d, n)]
  | 2 => [(clDst d, clMembers d * n)]
  | 5 => (clDst d, clMembers d * clSlot d) :: (if clDrop d = 0 then [] else [(clDrop d, 8 * clMembers d)])
  | _ => []

/-- Bytes that a verification copies to its staging area: the body that the bank's header gives, when the header passes
its checks (R341, R347). -/
def stagedLen (s : State) (d : Desc) : Nat :=
  let im := bankImage s (dbits d 32 1 0 0)
  if headerReason s im.1 = 0 then im.2.length else 128

/-- The ranges that a descriptor's type names, from the bytes that validation has read so far. -/
def typeRanges (s : State) (d : Desc) : List Range :=
  match dop d with
  | 0x10 | 0x11 =>
    readsOf (chainBlock d ++ peerTable d ++ mxReads d) ++ writesOf (mxWrites d)
  | 0x20 =>
    readsOf (chainBlock d ++ (vcFills d.chain).map xferSpan) ++ writesOf ((vcBacks d.chain).map xferSpan)
  | 0x30 => readsOf (mvReads d) ++ writesOf (mvDstSpan d).toList
  | 0x40 =>
    readsOf ((grpAddr s (clGroup d), 64) :: (clTableReads d).map (fun m => (grpTable (clEntry d) + 4 * m, 4)) ++ clReads d)
      ++ writesOf (clDests d)
  | 0x50 => readsOf [(lcProg d, lcProgLen d)]
  | 0xF1 => readsOf [(dfield d 48 8, dfield d 40 4)]
  | 0xF2 => writesOf [(dfield d 48 8, stagedLen s d)]
  | 0xF4 => readsOf [(dfield d 48 8, 48)]
  | 0xF5 => writesOf [(dfield d 48 8, 320)]
  | _ => []

/-- Every range that a descriptor names. -/
def descRanges (s : State) (d : Desc) : List Range := headRanges s d ++ typeRanges s d

/-! Step 2: parameters (R3). -/

/-- Whether a range starts in the own scratchpad spaces and reaches beyond the parameters. -/
def beyond (s : State) (addr len : Nat) : Bool :=
  0 < len && isOwn s addr && (let off := offsetOf addr
    if off < deepBase then !inNear s off len
    else if off < 2 * deepBase then !inDeep s off len
    else false)

/-- Whether the units and rings that a descriptor names exist. -/
def unitsOk (s : State) (d : Desc) : Bool :=
  (match dop d with
    | 0x10 | 0x11 => mxArrays d < 2 ^ s.par.arrays
    | 0x20 => vxMask d < 2 ^ s.par.vectorUnits
    | 0x50 => lcCores d < 2 ^ s.par.taskCores
    | _ => true)
  && (!dDbEn d || dDbCluster d != ownId s || bitsOf 17 0 (dDbValue d) < 2 ^ s.par.ringLog2)

/-- The hold region, which step 2 checks and step 3 does not (R171). -/
def holdRange (d : Desc) : List (Nat × Nat) :=
  if isMatrix d && chPolicy d.chain = 1 then [(chHoldAddr d.chain, chHoldBytes d.chain)] else []

/-- Step 2 of R240. -/
def stepTwo (s : State) (d : Desc) : Bool :=
  unitsOk s d && (descRanges s d).all (fun r => !beyond s r.addr r.len) && (holdRange d).all fun r => !beyond s r.1 r.2

/-! Step 3: protection (R166, R167, R171, R172, R184). -/

/-- Why a range is refused, if it is. -/
def refusalOf (s : State) (d : Desc) (r : Range) : Option Nat :=
  rangeRefusal s d.src r.addr r.len (if r.write then .write else .read)

/-- Whether validation may read a range. -/
def readable (s : State) (d : Desc) (r : Nat × Nat) : Bool :=
  !beyond s r.1 r.2 && (rangeRefusal s d.src r.1 r.2 .read).isNone

/-- The refused ranges of a descriptor with their reasons. -/
def refusedRanges (s : State) (d : Desc) : List (Nat × Nat) :=
  (descRanges s d).filterMap fun r => (refusalOf s d r).map fun n => (r.addr, n)

/-- The ranges that a descriptor reads, its chain block and its tables among them, and those it writes while it runs
(R184). -/
def runReads (s : State) (d : Desc) : List (Nat × Nat) :=
  match dop d with
  | 0x10 | 0x11 => chainReads d ++ mxReads d
  | 0x20 => (vxChain d, 448) :: (vcFills d.chain).map xferSpan
  | 0x30 => mvReads d
  | 0x40 => clTables s d ++ clReads d
  | 0xF1 => [(dfield d 48 8, dfield d 40 4)]
  | 0xF4 => [(dfield d 48 8, 48)]
  | _ => []
@[inherit_doc runReads] def runWrites (s : State) (d : Desc) : List (Nat × Nat) :=
  match dop d with
  | 0x10 | 0x11 => mxWrites d
  | 0x20 => (vcBacks d.chain).map xferSpan
  | 0x30 => (mvDstSpan d).toList
  | 0x40 => clDests d
  | 0xF2 => [(dfield d 48 8, stagedLen s d)]
  | 0xF5 => [(dfield d 48 8, 320)]
  | _ => []

/-- The valid backed regions that a range overlaps. -/
def regionsOf (s : State) (r : Nat × Nat) : List Nat := if isOwn s r.1 then backOver s (offsetOf r.1) r.2 else []

/-- A range that the descriptor writes in a region that its own reads would hold (R184). -/
def heldWrite (s : State) (d : Desc) : Option (Nat × Nat) :=
  let held := ((runReads s d).map (regionsOf s)).flatten
  (runWrites s d).find? fun w => (regionsOf s w).any held.contains

/-! Step 4: matrix descriptors (R67, R73). -/

/-- The stride row of R67, which holds of every shape, also of one that reads nothing (R66). -/
def mxStrides (d : Desc) (g : Geo) : Bool :=
  let k := if mxFwd d then mxK d else mxN d
  (codeKnown (mxFmtA d) && mxAStride d < fmtRowBytes g.fa (if chHas d.chain 0x01 then mxM d else k))
    || (codeKnown (mxFmtB d) && mxBStride d < fmtRowBytes g.fb (if g.diag then mxM d else mxK d))
    || (mxCEn d && mxCStride d < 4 * g.cols)

/-- Whether operand formats and tensor scales break R18, R26 or R55. -/
def mxFormats (d : Desc) (g : Geo) : Bool :=
  !codeKnown (mxFmtA d) || !codeKnown (mxFmtB d) || !pairOk g.fa g.fb
    || (g.fa == .kf4 && !tscaleOk (mxTsA d)) || (g.fb == .kf4 && !tscaleOk (mxTsB d))

/-- Stage kinds of R71. -/
def stageKinds : List Nat := [0x01, 0x02, 0x03, 0x10, 0x11, 0x12, 0x13, 0x14, 0x15, 0x16, 0x17, 0x18, 0x19]

/-- Fields of a stage that its kind leaves unused and that must be zero (R71): SUB, IMM0, IMM1, ADDR, ADDR2 and
STRIDE, as bits 0 to 5 of a mask of the fields in use. -/
def stageUses : Nat → Nat
  | 0x02 => 0b001010
  | 0x03 => 0b101001
  | 0x10 => 0b000100
  | 0x11 | 0x14 => 0b000001
  | 0x12 => 0b001011
  | 0x13 => 0b001001
  | 0x15 => 0b000110
  | 0x17 => 0b000110
  | 0x18 => 0b001011
  | 0x19 => 0b111000
  | _ => 0

/-- Whether a stage's unused fields are zero. -/
def stageBlank (t : Stage) : Bool :=
  let u := stageUses t.kind
  (bitOf 0 u || t.sub == 0) && (bitOf 1 u || t.imm0 == 0) && (bitOf 2 u || t.imm1 == 0)
    && (bitOf 3 u || t.addr == 0) && (bitOf 4 u || t.addr2 == 0) && (bitOf 5 u || t.stride == 0)

/-- The reserved bits of a stage entry (R70), and of SEND's SUB (R71). -/
def stageReserved (bs : List Byte) (t : Stage) : Bool :=
  let f := fieldAt (bs.drop (64 + 32 * t.pos))
  bitsOf 7 5 (f 1 1) == 0 && bitsOf 7 2 (f 2 1) == 0 && (t.kind != 0x18 || bitsOf 6 5 t.sub == 0)

/-- The value of a bound as FP32, and whether two bounds are in order and not NaN. -/
def boundsOk (lo hi : Nat) : Bool := (cmpV false 3 (ofFp32 (BitVec.ofNat 32 lo)) (ofFp32 (BitVec.ofNat 32 hi))).1

/-- FP32, FP16 or BF16. -/
def floatCode (c : Nat) : Bool := c ≤ 2

/-- The last stage before the chain's terminal stages. -/
def lastValue (bs : List Byte) : Option Stage := ((chStages bs).filter fun t => !isTerminal t.kind).getLast?

/-- R72 item 8: whether a stage's format suits its kind; a code that R18 does not list breaks R18 alone. -/
def stageFormat (d : Desc) (t : Stage) : Bool :=
  match fmtOfCode t.fmt with
  | none => true
  | some f =>
    match t.kind with
    | 0x01 | 0x02 | 0x03 => t.fmt == mxFmtA d
    | 0x10 => !fmtPlain f
    | 0x16 | 0x17 => floatCode t.fmt
    | 0x18 | 0x19 => fmtPlain f || (match lastValue d.chain with
        | some q => q.kind == 0x10 && q.fmt == t.fmt
        | none => false)
    | _ => fmtPlain f && f != .int32

/-- R72 item 9 and the selectors of R71: whether a stage's parameters are in range. -/
def stageParams (d : Desc) (g : Geo) (t : Stage) : Bool :=
  match t.kind with
  | 0x03 => t.sub ≤ 1
  | 0x10 => t.fmt == 0x18 || t.imm1 == 0
  | 0x11 => t.sub ≤ 4 && g.cols % 64 == 0
  | 0x12 => t.sub ≤ 2
  | 0x13 => t.sub == 1 || t.sub == 2
  | 0x14 => t.sub ≤ 4
  | 0x15 => boundsOk t.imm0 t.imm1
  | 0x18 =>
    let n := t.sub % 32
    1 ≤ n && n ≤ 16 && (!bitOf 7 t.sub || (n * t.imm0 == colsAt g d.chain t.pos && t.imm0 % widthAt g d.chain t.pos == 0))
  | _ => true

/-- R72 items 1 to 7: the order and the company of the stages. -/
def chainOrder (d : Desc) : Bool :=
  let ts := chStages d.chain
  let ks := ts.map (·.kind)
  let pol := chPolicy d.chain
  let from' (k : Nat) : List Nat := (ks.dropWhile (· != k)).drop 1
  let once := [0x01, 0x02, 0x03, 0x11, 0x16, 0x17, 0x18, 0x19]
  (ks.dropWhile isPrologue).all (fun k => !isPrologue k)
    && once.all (fun k => ks.count k ≤ 1)
    && (!ks.contains 0x01 || (!ks.contains 0x02 && (match fmtOfCode (mxFmtA d) with
        | some f => fmtPlain f
        | none => true)))
    && ks.any isTerminal && (ks.dropWhile fun k => !isTerminal k).all isTerminal
    && ks.contains 0x16 == (pol != 0) && ks.contains 0x17 == ks.contains 0x16
    && (!ks.contains 0x16 || ((from' 0x16).head? == some 0x17 && !(from' 0x16).contains 0x11))
    && (pol != 2 || (from' 0x17).all [0x12, 0x13, 0x14, 0x15, 0x10, 0x19].contains)
    && (pol != 3 || (from' 0x17).all [0x10, 0x19, 0x18].contains)
    && (!mxDiag d || ts.all fun t =>
        [0x12, 0x13, 0x14, 0x15, 0x10, 0x18, 0x19].contains t.kind && !((t.kind == 0x12 || t.kind == 0x13) && t.sub == 1))

/-- Whether a range lies in the own near or deep scratchpad. -/
def ownScratch (s : State) (r : Nat × Nat) : Bool := isOwn s r.1 && inSpm s (offsetOf r.1) r.2

/-- The SPLIT buffer. -/
def splitRange (d : Desc) (g : Geo) : List (Nat × Nat) :=
  if geoTiles g = 0 || chPolicy d.chain != 2 then []
  else ifKnown (statCode d) [(chSplitAddr d.chain, spanLen g.m (chSplitStride d.chain) (statCols d g * statWidth d))]

/-- The header of a chain block (R69). -/
def chainHeader (s : State) (d : Desc) (g : Geo) : Bool :=
  let bs := d.chain
  let pol := chPolicy bs
  1 ≤ chNStages bs && chNStages bs ≤ 8 && pol ≤ 3 && (pol == 0 || fieldAt bs 2 1 ≤ 1) && bitsOf 7 4 (fieldAt bs 3 1) == 0
    && fieldAt bs 4 4 == 0 && fieldAt bs 20 4 == 0 && fieldAt bs 52 12 == 0
    && (pol != 2 || (chStatAddr bs != 0 && statCols d g ≤ 16384 && chSplitVu bs % 2 ^ s.par.vectorUnits != 0
      && (splitRange d g).all (ownScratch s)))

/-- The first row of R73: a chain block that keeps R68 to R72, formats and tensor scales of R18 and R26 aside. -/
def chainOk (s : State) (d : Desc) (g : Geo) : Bool :=
  let ts := chStages d.chain
  chainPlaced d && chainHeader s d g
    && ts.all (fun t => stageKinds.contains t.kind && stageReserved d.chain t && stageBlank t && stageFormat d t
      && stageParams d g t)
    && chainOrder d
    && (List.range ((chPeers d.chain).length / 32)).all (peerOk (chPeers d.chain))

/-- The second row of R73. -/
def chainFormats (d : Desc) : Bool :=
  (chStages d.chain).any fun t => !codeKnown t.fmt || (t.kind == 0x10 && t.fmt == 0x18 && !tscaleOk (BitVec.ofNat 32 t.imm1))

/-- The stride row of R73: STORE, and the SPLIT buffer. -/
def chainStrides (d : Desc) (g : Geo) : Bool :=
  (match chFind d.chain 0x19 with
    | some t => t.stride < fmtRowBytes (fmtAt t.fmt) (colsAt g d.chain t.pos)
    | none => false)
    || (chPolicy d.chain == 2 && chSplitStride d.chain < statCols d g * statWidth d)

/-- The hold region lies in the own near scratchpad at a 128-byte boundary. -/
def holdPlaced (s : State) (d : Desc) : Bool :=
  (holdRange d).all fun r => isOwn s r.1 && r.1 % 128 == 0 && inNear s (offsetOf r.1) r.2

/-- Ranges of the first list that overlap each other or a range of the second. -/
def anyOverlap : List (Nat × Nat) → List (Nat × Nat) → Bool
  | [], _ => false
  | a :: as, bs => (as ++ bs).any (fun b => overlap a.1 a.2 b.1 b.2) || anyOverlap as bs

/-- The overlap row of R73 with the last clause of R184. -/
def chainOverlaps (s : State) (d : Desc) (g : Geo) : Bool :=
  let named := holdRange d ++ statRanges d g
  anyOverlap (named ++ storeRanges d g) (mxReads d) || named.any fun r => !(regionsOf s r).isEmpty

/-- R198 for the SEND of a chain: a counted peer outside the scratchpad rows of R167. -/
def sendUncountable (s : State) (d : Desc) (g : Geo) : Bool :=
  match chFind d.chain 0x18 with
  | some t =>
    let w := sendWidth d g t
    let f := fmtAt t.fmt
    (sendPeers d t).any fun p => p.counted && (isChip p.base
      || [(p.base, spanLen g.m p.stride (fmtRowBytes f w)), (p.scale, g.m * fmtScaleBytes f w)].any fun r =>
        0 < r.2 && (isChip r.1 || bitsOf 62 59 r.1 != 0 || !inSpm s (offsetOf r.1) r.2))
  | none => false

/-- A count-only advance to a multicast identifier (R198). -/
def countMulticast (d : Desc) : Bool := dCntEn d && dCntCluster d ≥ mcastBase

/-- The status of the first row that holds, 0 when none does. -/
def firstRow : List (Bool × Nat) → Nat
  | [] => 0
  | (b, st) :: rs => if b then st else firstRow rs

/-- R67, then R73, then R198. -/
def mxRows (s : State) (d : Desc) : Nat :=
  let g := geoOf d
  let big := 2 ^ 24
  firstRow [
    (mxM d > big || mxN d > big || mxK d > big, stShapeInvalid),
    (mxArrays d == 0, stShapeInvalid),
    (mxStrides d g, stShapeInvalid),
    (g.diag && (mxN d != 1 || mxK d != 1 || mxPart d == 1 || mxPart d == 2), stShapeInvalid),
    (mxFormats d g, stFormatInvalid),
    (!chainOk s d g, stChainInvalid),
    (chainFormats d, stFormatInvalid),
    (chHas d.chain 0x02 && mxM d > 65536, stShapeInvalid),
    (chainStrides d g, stShapeInvalid),
    (!holdPlaced s d, stChainInvalid),
    (chainOverlaps s d g, stChainInvalid),
    (chPolicy d.chain == 1 && holdSlot d g != 0 && holdSlots d g == 0, stHoldOverflow),
    (sendUncountable s d g || countMulticast d, stCountInvalid)]

/-! Step 4: vector chains (R117). -/

/-- Whether a selector keeps R100. -/
def selOk (sel : Nat) : Bool :=
  bitsOf 2 0 sel ≤ 4 && bitsOf 15 10 sel == 0 && (bitsOf 2 0 sel == 1 || bitsOf 9 3 sel == 0)

/-- Whether a selector names the cache, and its format code. -/
def selVoc (sel : Nat) : Bool := bitsOf 2 0 sel == 1
@[inherit_doc selVoc] def selFmt (sel : Nat) : Nat := bitsOf 9 5 sel

/-- A broadcast source in a block format (R106). -/
def selBroadcast (sel : Nat) : Bool :=
  selVoc sel && bitsOf 4 3 sel != 0 && (match fmtOfCode (selFmt sel) with
    | some f => !fmtPlain f
    | none => false)

/-- Whether an immediate serves an operand. -/
def selImm (sel : Nat) : Bool := bitsOf 2 0 sel == 2

/-- Whether a stage's reserved bits and unused fields are zero and its kind and SUB are listed (R101, R102). -/
def vstageFields (bs : List Byte) (t : VStage) : Bool :=
  let f := fieldAt (bs.drop (64 + 32 * t.pos))
  let a := usesA t.kind
  let b := usesB t.kind
  let out := 0x0A ≤ t.kind && t.kind ≤ 0x0D
  let red := t.kind == 0x0A
  1 ≤ t.kind && t.kind ≤ 0x0D
    && bitsOf 7 5 (f 1 1) == 0 && bitsOf 7 2 (f 2 1) == 0 && bitsOf 31 18 (f 8 4) == 0 && bitsOf 31 18 (f 12 4) == 0
    && bitsOf 31 18 (f 24 4) == 0 && bitsOf 30 18 (f 28 4) == 0
    && (a || t.selA == 0) && (b || t.selB == 0) && (out || t.offOut == 0) && (red || t.offStat == 0)
    && ((a && selVoc t.selA) || t.offA == 0) && ((b && selVoc t.selB) || t.offB == 0)
    && ((a && selImm t.selA) || red || t.imm0 == 0)
    && ((b && selImm t.selB) || red || (t.kind == 0x08 && t.fmt == 0x18) || t.imm1 == 0)
    && (match t.kind with
      | 0x01 => t.sub ≤ 2
      | 0x06 => t.sub ≤ 5
      | 0x09 => t.sub ≤ 4
      | 0x0A => bitsOf 7 4 t.sub == 0 && bitsOf 3 2 t.sub ≤ 2
      | _ => t.sub == 0)
    && (!a || (selOk t.selA && !selBroadcast t.selA)) && (!b || (selOk t.selB && !selBroadcast t.selB))

/-- R116 items 2 to 4, read along the stages with the REDUCEs and COLSUMs met and whether a CMP has set
predicates in this sweep. -/
def vchainOrder : Nat → Nat → Nat → Bool → List VStage → Bool
  | _, _, _, _, [] => true
  | reds, cols, taps, cmp, t :: ts =>
    let stat (sel : Nat) : Bool := (bitsOf 2 0 sel != 3 || reds ≥ 1) && (bitsOf 2 0 sel != 4 || reds ≥ 2)
    (!usesA t.kind || stat t.selA) && (!usesB t.kind || stat t.selB) && (match t.kind with
      | 0x07 => cmp && vchainOrder reds cols taps cmp ts
      | 0x06 => vchainOrder reds cols taps true ts
      | 0x0A => reds < 2 && vchainOrder (reds + 1) cols taps false ts
      | 0x0B => reds == 0 && cols == 0 && vchainOrder reds 1 taps false ts
      | 0x0C => taps == 0 && vchainOrder reds cols 1 cmp ts
      | _ => vchainOrder reds cols taps cmp ts)

/-- R116 item 5 for a stage, given the stage before it. -/
def vstageFormat (prev : Option VStage) (t : VStage) : Bool :=
  match fmtOfCode t.fmt with
  | none => true
  | some f =>
    match t.kind with
    | 0x0A | 0x0B | 0x0C => floatCode t.fmt
    | 0x08 => true
    | 0x0D => fmtPlain f || (match prev with
        | some p => p.kind == 0x08 && p.fmt == t.fmt
        | none => false)
    | _ => fmtPlain f

/-- A cache use: its ranges, and offset, format and length where it is a vector of elements. -/
structure VUse where
  ranges : List (Nat × Nat)
  key : Option (Nat × Nat × Nat) := none
deriving DecidableEq, Repr

/-- What a selector reads of the cache. -/
def selUse (sel off n w : Nat) : List VUse :=
  if selVoc sel && codeKnown (selFmt sel) then
    [{ ranges := selReads sel off n w, key := if bitsOf 4 3 sel = 0 then some (off, selFmt sel, n) else none }]
  else []

/-- What a chain's input and stages read. -/
def vxReadUses (d : Desc) : List VUse :=
  selUse (vcInput d.chain) (vcInputOff d.chain) (vxCount d) (vxRow d)
    ++ ((vxPlan d).map fun p =>
      (if usesA p.stage.kind then selUse p.stage.selA p.stage.offA p.n p.w else [])
        ++ (if usesB p.stage.kind then selUse p.stage.selB p.stage.offB p.n p.w else [])).flatten

/-- What a chain's stages write: a REDUCE's buffer and statistic apart. -/
def vxWriteUses (d : Desc) : List VUse :=
  ((vxPlan d).map fun p =>
    let t := p.stage
    -- a buffer in an unknown format has no extent; statistics, column sums and TAP words are FP32 whatever it is
    match t.kind with
    | 0x0A => (if codeKnown t.fmt then [{ ranges := vocElems (fmtAt t.fmt) t.offOut p.n }] else [])
        ++ (if bitOf 31 t.offStat then [{ ranges := [(bitsOf 17 0 t.offStat, 4 * (p.n / max p.w 1))] }] else [])
    | 0x0D => if codeKnown t.fmt then [{ ranges := stepWrites p, key := some (t.offOut, t.fmt, p.n) }] else []
    | _ => if (stepWrites p).isEmpty then [] else [{ ranges := stepWrites p }]).flatten

/-- R116 item 8: written ranges meet neither each other nor a range read, an update in place apart. -/
def vxDisjoint (reads : List VUse) : List VUse → Bool
  | [] => true
  | u :: us =>
    us.all (fun v => !rangesMeet u.ranges v.ranges)
      && reads.all (fun v => !rangesMeet u.ranges v.ranges || (u.key.isSome && u.key == v.key))
      && vxDisjoint reads us

/-- The transfer entries keep R103 and R116 item 10. -/
def vxferOk (s : State) (bs : List Byte) (i : Nat) : Bool :=
  let f := fieldAt (bs.drop (320 + 32 * i))
  let x := vxferAt bs i
  bitsOf 31 18 (f 12 4) == 0 && bitsOf 31 19 (f 16 4) == 0 && bitsOf 7 1 (f 22 1) == 0 && f 23 9 == 0
    && 1 ≤ x.bytes && x.bytes ≤ 262144 && 1 ≤ x.rows
    && isOwn s x.addr && inSpm s (offsetOf x.addr) (xferSpan x).2

/-- The first row of R117. -/
def vchainOk (s : State) (d : Desc) : Bool :=
  let bs := d.chain
  let ts := vcStages bs
  let reads := vxReadUses d
  let writes := vxWriteUses d
  let cache := (vcXfers bs).map xferVoc ++ (reads.map (·.ranges)).flatten ++ (writes.map (·.ranges)).flatten
  chainPlaced d
    && 1 ≤ fieldAt bs 0 1 && fieldAt bs 0 1 ≤ 8 && fieldAt bs 1 1 ≤ 4 && fieldAt bs 2 2 == 0 && fieldAt bs 10 2 == 0
    && bitsOf 31 18 (fieldAt bs 12 4) == 0 && fieldAt bs 20 44 == 0
    && selOk (vcInput bs) && selVoc (vcInput bs) && bitsOf 4 3 (vcInput bs) == 0
    && ts.all (vstageFields bs) && vchainOrder 0 0 0 false ts
    && ((List.range ts.length).all fun i => match ts[i]? with
      | some t => vstageFormat (if i = 0 then none else ts[i - 1]?) t
      | none => true)
    && (List.range (vcXfers bs).length).all (vxferOk s bs)
    && cache.all (fun r => r.1 + r.2 ≤ 0x40000) && vxDisjoint reads writes

/-- The format row of R117. -/
def vchainFormats (d : Desc) : Bool :=
  let bs := d.chain
  let sel (x : Nat) : Bool := selVoc x && (!codeKnown (selFmt x) || (selFmt x == 0x18 && !tscaleOk (vcTscale bs)))
  sel (vcInput bs) || (vcStages bs).any fun t => !codeKnown t.fmt || (usesA t.kind && sel t.selA) || (usesB t.kind && sel t.selB)
    || (t.kind == 0x08 && t.fmt == 0x18 && !tscaleOk (BitVec.ofNat 32 t.imm1))

/-- R117, then R198. -/
def vxRows (s : State) (d : Desc) : Nat :=
  let n := vxCount d
  let w := vxRow d
  firstRow [
    (!vchainOk s d, stChainInvalid),
    ((vcStages d.chain).any (fun t => t.kind == 0x0C) && !bitOf 0 (vxMask d) && !bitOf 2 (vxMask d), stChainInvalid),
    (vchainFormats d, stFormatInvalid),
    (n > 16384 || (w != 0 && n % w != 0) || vxMask d == 0, stShapeInvalid),
    (countMulticast d, stCountInvalid)]

/-! Step 4: moves, launches and collectives (R126, R198, R232, R247, R248). -/

/-- Whether a range stays in one cluster's window or in chip memory. -/
def oneHome (r : Nat × Nat) : Bool :=
  let last := r.1 + r.2 - 1
  if isChip r.1 then isChip last else r.1 / 2 ^ 40 == last / 2 ^ 40

/-- R198 for a counted MOVE. -/
def moveUncountable (s : State) (d : Desc) : Bool :=
  mvCounted d && (isChip (mvDst d) || (match mvDstSpan d with
    | some r => 0 < r.2 && (isChip r.1 || bitsOf 62 59 r.1 != 0 || !inSpm s (offsetOf r.1) r.2)
    | none => false))

/-- R198, then R232; the length of an `mcopy` may exceed DESC.row_bytes' range (R158). -/
def mvRowsCheck (s : State) (d : Desc) : Nat :=
  let copy := match d.issue with
    | some i => i.copy
    | none => false
  let big := 2 ^ 24
  firstRow [
    (moveUncountable s d || countMulticast d, stCountInvalid),
    (mvRowBytes d == 0 || (mvRowBytes d > big && !copy) || mvRows d == 0 || mvRows d > big, stShapeInvalid),
    ((match mvDstSpan d with
      | some r => 0 < r.2 && !oneHome r
      | none => true), stShapeInvalid),
    ((mvSrcSpan d).isNone, stShapeInvalid),
    ((match mvSrcSpan d, mvDstSpan d with
      | some a, some b => overlap a.1 a.2 b.1 b.2
      | _, _ => false), stShapeInvalid)]

/-- R126, then R198. -/
def lcRows (d : Desc) : Nat :=
  firstRow [
    (lcProgLen d < 4 || lcProgLen d > 32768 || lcProgLen d % 4 != 0 || lcProg d % 128 != 0
      || lcHandler d > 32764 || lcHandler d % 4 != 0, stShapeInvalid),
    (countMulticast d, stCountInvalid)]

/-- Types that R248 lists for an operation. -/
def clTypes : Nat → List Nat
  | 0 | 1 => [0x00, 0x01, 0x02, 0x04]
  | 2 | 3 => [0x00, 0x01, 0x02, 0x03, 0x04, 0x08, 0x09]
  | _ => [0]

/-- R198, then R247 and R248. -/
def clRows (s : State) (d : Desc) : Nat :=
  let op := clOp d
  firstRow [
    (countMulticast d, stCountInvalid),
    ((grpGet s (clGroup d)).isNone || !groupOk s (clEntry d) d.src, stDescInvalid),
    (op ≤ 5 && !(clTypes op).contains (clType d), stFormatInvalid),
    (op > 5 || (op ≤ 1 && clRedop d > 2) || (op ≤ 3 && clCount d > 2 ^ 32) || (op == 3 && clRoot d ≥ clMembers d)
      || !(clReads d ++ clDests d).all (ownScratch s), stShapeInvalid)]

/-- Step 4 of R240. -/
def stepFour (s : State) (d : Desc) : Nat :=
  match dop d with
  | 0x10 | 0x11 => mxRows s d
  | 0x20 => vxRows s d
  | 0x30 => mvRowsCheck s d
  | 0x40 => clRows s d
  | 0x50 => lcRows d
  | _ => firstRow [(countMulticast d, stCountInvalid)]

end Sys2Proof.Machine
end

