-- ==== Sys2Proof/Machine/Validate.lean ====
section
/-! DEFINITION. Validation (R240): the structures that DRE reads with a descriptor, the steps in order, and the
start of its life after them; a fetch whose read was outstanding completes here (R188, R234). -/
namespace Sys2Proof.Machine

/-- A fetch or a validation read that failed ends the descriptor without running it (R171, R188, R240). -/
def readEnds (s : State) (d status : Nat) (det : Detail) (noOp : Bool) : State :=
  let s := gatherDrop s d
  endDesc (descUpd s d fun x => { x with noOp := noOp, disturbed := false, body := [] }) d status det

/-- A read of validation that brought no bytes: it waits, or ends the descriptor. -/
def readStops (s : State) (d addr : Nat) (noOp : Bool) : Rd → State
  | .bad w => readEnds s d stDataParity (badDetail s w) noOp
  | .failed c =>
    readEnds s d (if c = 8 then stDataParity else stAccessRefused)
      { addr := BitVec.ofNat 64 addr, info0 := if c < 8 then BitVec.ofNat 64 c else 0 } noOp
  | _ => s

/-- The slot of a ring's descriptor (R214). -/
def slotAddr (s : State) (d : Desc) : Nat :=
  match ringGet s d.ring with
  | some r => r.base + 128 * (d.index % 2 ^ r.log2)
  | none => 0

/-- A fetch whose bytes were outstanding. -/
def fetchGoOn (s : State) (d : Desc) : State :=
  let r := readRange s d.id (slotAddr s d) 128
  match r.2 with
  | .bytes bs => descUpd (gatherDrop r.1 d.id) d.id fun x => { x with bytes := bs, phase := .fetched }
  | f => readStops r.1 d.id (slotAddr s d) true f

/-- What the structures of a descriptor bring. -/
inductive Loaded where
  /-- the descriptor with its chain block, peer table or group entry, as far as they could be read -/
  | done (d : Desc)
  /-- a read is outstanding, or has ended the descriptor -/
  | stopped
deriving DecidableEq, Repr

/-- The chain block of a matrix or vector descriptor, and the peer table it names (R68, R90, R99). -/
def loadChain (s : State) (d : Desc) : State × Loaded :=
  match chainBlock d with
  | (a, n) :: _ =>
    if !chainPlaced d || !readable s d (a, n) then (s, .done d)
    else
      let r := readRange s d.id a n
      match r.2 with
      | .bytes bs =>
        let d := { d with chain := bs }
        match peerTable d with
        | (pa, pn) :: _ =>
          if !isMatrix d || !readable r.1 d (pa, pn) then (r.1, .done d)
          else
            let p := readRange r.1 d.id pa pn
            match p.2 with
            | .bytes ps => (p.1, .done { d with chain := bs ++ ps })
            | f => (readStops p.1 d.id pa false f, .stopped)
        | [] => (r.1, .done d)
      | f => (readStops r.1 d.id a false f, .stopped)
  | [] => (s, .done d)

/-- The group entry of a collective, and the member-table entries it needs (R243). -/
def loadGroup (s : State) (d : Desc) : State × Loaded :=
  let a := grpAddr s (clGroup d)
  if !readable s d (a, 64) then (s, .done d)
  else
    let r := readRange s d.id a 64
    match r.2 with
    | .bytes e =>
      let d := { d with aux := e }
      if !groupOk r.1 e d.src || !(clTableReads d).all (fun m => readable r.1 d (grpTable e + 4 * m, 4)) then (r.1, .done d)
      else
        let t := readMembers r.1 d.id (grpTable e) (clTableReads d)
        match t.2 with
        | .bytes ms => (t.1, .done { d with aux := e ++ ms })
        | f => (readStops t.1 d.id (grpTable e) false f, .stopped)
    | f => (readStops r.1 d.id a false f, .stopped)

/-- The structures that validation reads. -/
def loadStructures (s : State) (d : Desc) : State × Loaded :=
  if isMatrix d || dop d = 0x20 then loadChain s d
  else if dop d = 0x40 then loadGroup s d
  else (s, .done d)

/-- Whether a descriptor's STORE, SEND, DESC.src or DESC.dst names another cluster (R322). -/
def namesRemote (s : State) (d : Desc) : Bool :=
  let remote (a : Nat) : Bool := !isChip a && !isOwn s a
  ((runWrites s d).any fun r => 0 < r.2 && remote r.1) || (dop d == 0x30 && (remote (mvSrc d) || remote (mvDst d)))

/-- A descriptor that has passed validation waits for its barrier and its resources (R224). -/
def validated (s : State) (d : Desc) : State :=
  ringSync (freeBarriers (descUpd s d.id fun x => { x with
    phase := .ready, chain := d.chain, aux := d.aux, remote := namesRemote s d
    disturbed := x.disturbed || (x.fepMoved && namesRemote s d) }))

/-- Steps 2 to 4 of R240 on a descriptor whose structures have been read. -/
def validateSteps (s : State) (d : Desc) : State :=
  if !stepTwo s d then rejectDesc s d.id stParamRange {}
  else match refusedRanges s d with
    | (a, n) :: rest =>
      let s := ((a, n) :: rest).foldl (fun s r => noteRefusal s true d.src r.1 r.2) s
      rejectDesc s d.id stAccessRefused { addr := BitVec.ofNat 64 a, info0 := BitVec.ofNat 64 n }
    | [] =>
      match heldWrite s d with
      | some w => rejectDesc s d.id stRangeHeld { addr := BitVec.ofNat 64 w.1 }
      | none =>
        let st := stepFour s d
        if st = 0 then validated s d else rejectDesc s d.id st {}

/-- R240. DRE validates a fetched descriptor; called again while a read is outstanding. -/
def execDescriptorValidate (d : Nat) (s : State) : Result :=
  .next <| whenLive s fun s => match descGet s d with
    | none => s
    | some x =>
      if s.dre.stopFetch then s
      else match x.phase with
        | .fetching => fetchGoOn s x
        | .fetched =>
          if clInsn x then s
          else
            let st := stepOne s x
            if st != 0 then ringSync (rejectDesc s d st {})
            else if !unitsOk s x || (headRanges s x).any (fun r => beyond s r.addr r.len) then
              ringSync (rejectDesc s d stParamRange {})
            else
              let r := loadStructures s x
              match r.2 with
              | .done y => ringSync (validateSteps (gatherDrop r.1 d) y)
              | .stopped => ringSync r.1
        | _ => s

end Sys2Proof.Machine
end

