-- ==== Sys2Proof/Machine/Retire.lean ====
section
/-! DEFINITION. Retirement (R14 steps 9 to 13): what a failure leaves (R92, R122, R190, R261, R323), the
completion record (R234 to R237), the counter addition and the chained doorbell (R237, R238), and the head. -/
namespace Sys2Proof.Machine

/-! What a failure leaves. -/

/-- The rows of a SPLIT buffer undefined. -/
def splitHavoc (s : State) (d : Desc) (g : Geo) : State :=
  if (splitRange d g).isEmpty then s
  else (List.range g.m).foldl (fun s r =>
    rangeHavoc s (chSplitAddr d.chain + r * chSplitStride d.chain, statCols d g * statWidth d)) s

/-- Every destination of a matrix descriptor undefined (R323). -/
def mxHavoc (s : State) (d : Desc) : State :=
  let g := geoOf d
  let s := (List.range (geoTiles g)).foldl (fun s t => tileHavoc s d g t) s
  let spans := holdRange d ++ (statRanges d g).filter fun r => !(splitRange d g).contains r
  splitHavoc (spans.foldl rangeHavoc s) d g

/-- Every destination of a vector chain in scratchpad undefined (R323): its write-backs' rows. -/
def vxHavoc (s : State) (d : Desc) : State :=
  (vcBacks d.chain).foldl (fun s x =>
    (List.range x.rows).foldl (fun s j => rangeHavoc s (x.addr + j * x.stride, x.bytes)) s) s

/-- The destination ranges of a disturbed descriptor (R323), and whatever else it, or the threads of its launch,
wrote. -/
def destHavoc (s : State) (d : Desc) : State :=
  let s := match dop d with
    | 0x10 | 0x11 => mxHavoc s d
    | 0x20 => vxHavoc s d
    | 0x30 => moveHavoc s d
    | 0x40 => (clDests d).foldl rangeHavoc s
    | 0xF5 => rangeHavoc s (dfield d 48 8, 320)
    | _ => s
  d.wrote.foldl (fun s w => spmHavoc s w.1 w.2) s

/-- What the failure of a descriptor leaves, once its writes have been answered. -/
def aftermath (s : State) (d : Desc) : State :=
  if d.status = 0 || d.rejected || d.noOp then s
  else
    let s := if d.disturbed then destHavoc s d else s
    match d.engine with
    | .matrix _ => mxAftermath s d
    | .vector _ => vxLose s d
    | .move _ => moveAftermath s d
    | .coll _ => clAftermath s d.id d.status
    | _ => s

/-! The record (R234 to R236). -/

/-- Position fields of R40: tile, row and column. -/
def nfPlace (d : Desc) : Nat × Nat × Nat :=
  match d.report.trap with
  | some t => if d.status = stNanTrap then (t.tile, t.nfRow, t.nfCol) else (0, 0, 0)
  | none =>
    match d.report.nf with
    | none => (0, 0, 0)
    | some (r, c) =>
      if isMatrix d then
        let g := geoOf d
        let w := widthAt g d.chain 8
        (r / g.rows * g.tn + c / w, r % g.rows, c % w)
      else (0, c / 256, c % 256)

/-- Bytes 12 to 31 of a matrix or vector record. -/
def engineBody (d : Desc) : List Byte :=
  let p := nfPlace d
  toLe 2 (count16 d.report.zeroBlocks) ++ toLe 2 (count16 d.report.blockUnderflow) ++ toLe 2 (count16 d.report.saturated)
    ++ toLe 2 p.2.1 ++ toLe 2 p.2.2 ++ toLe 5 p.1 ++ toLe 5 0

/-- Bytes 12 to 31 of a record (R235); zeros for a rejection, a failed fetch and CONFIG_DISTURBED (R323). -/
def recordBody (d : Desc) : List Byte :=
  if d.rejected || d.noOp || d.status = stDisturbed then toLe 20 0
  else match dop d with
    | 0x10 | 0x11 | 0x20 => engineBody d
    | 0x30 => match d.engine with
      | .move m => padTo 20 (toLe 8 m.moved)
      | _ => toLe 20 0
    | _ => padTo 20 d.body

/-- The 32 bytes of a completion record, with its phase bit (R234). -/
def recordBytes (d : Desc) (phase : Bool) : List Byte :=
  let stage := match d.report.trap with
    | some t => if d.status = stNanTrap then t.stage else 0
    | none => 0
  toLe 2 d.status
    ++ toLe 1 (boolBit phase + 2 * boolBit d.report.nf.isSome + 4 * boolBit d.issue.isSome + 8 * boolBit (d.runs > 1) + 16 * stage)
    ++ toLe 1 d.report.flags.toNat ++ toLe 4 (d.ring % 2 ^ 18 + 2 ^ 18 * dop d) ++ toLe 4 (d.seq % 2 ^ 32)
    ++ recordBody d

/-! Steps 10 to 13 (R14). -/

/-- A ring halts and keeps the status that halted it first (R225, R237, R238). -/
def haltRing (s : State) (ring status seq : Nat) : State :=
  ringSync (ringUpd s ring fun r => if r.state = 2 then r else { r with state := 2, haltStatus := status, haltSeq := seq })

/-- Whether a descriptor's ring halts on a failure: an issued descriptor is none of its ring's (R225). -/
def haltsOnFail (s : State) (d : Desc) : Bool :=
  d.issue.isNone && (match ringGet s d.ring with
    | some r => r.haltOnFail
    | none => false)

/-- A write of steps 10 to 12 leaves; its answers are awaited. -/
def retireWrite (s : State) (d : Desc) (part addr : Nat) (bs : List Byte) (send : State → Access → State) : State :=
  let s := descUpd s d.id fun x => { x with unacked := x.unacked + answersOf addr bs.length, retStatus := 0, retDetail := {} }
  send s { kind := .write, addr := addr, len := bs.length, data := bs, steward := true, src := ownId s
           who := .retire d.id part }

/-- The phase of a descriptor in retirement. -/
def setPhase (s : State) (d : Nat) (p : Phase) : State := descUpd s d fun x => { x with phase := p }

/-- A record for a completion ring whose entry software wrote in use is undefined (R216,
assumption 153). -/
def recordSent (s : State) (wild : Bool) (bs : List Byte) : List Byte × State :=
  if wild then drawBytes s bs.length else (bs, s)

/-- Step 10: the record goes to its completion ring's next slot (R236), or to the address given to `eissue`. -/
def recordStep (s : State) (x : Desc) : State :=
  let s := setPhase (aftermath (imgSettle s x) x) x.id .recording
  let x := (descGet s x.id).getD x
  match x.issue with
  | some i =>
    if i.record = 0 then descUpd s x.id fun y => { y with retStatus := 0 }
    else
      let r := draw s 1
      retireWrite r.2 x 0 i.record (recordBytes x ((Config.freeWord r.1).toNat % 2 == 1)) fun s a => unitWrite s none a
  | none =>
    match (ringGet s x.ring).bind fun r => s.dre.cqs.find? fun q => q.cq == r.cq with
    | none => s
    | some q =>
      let slot := q.base + 32 * (q.widx % 2 ^ q.log2)
      let s := cqUpd (cacheCq s q.cq) q.cq fun c => { c with widx := (c.widx + 1) % 65536 }
      let b := recordSent s q.overwritten (recordBytes x (q.widx / 2 ^ q.log2 % 2 == 0))
      let s := descUpd b.2 x.id fun y => { y with slot := slot }
      retireWrite s x 0 slot b.1 fun s a => unitWrite s none a

/-- A record that could not be written (R237): its slot is undefined, whatever later records the ring has taken. -/
def recordLost (s : State) (x : Desc) : State :=
  let s := raiseErr s { code := 0x0202, cls := 2, unit := 2, ring := x.ring, seq := x.seq, status := x.retStatus
                        addr := x.retDetail.addr.toNat, info0 := x.retDetail.info0.toNat }
  if x.issue.isSome then s else haltRing (rangeHavoc s (x.slot, 32)) x.ring x.retStatus x.seq

/-- A count-only advance or chained doorbell that failed (R238). -/
def chainFailed (s : State) (x : Desc) : State :=
  let st := if x.retStatus = stUnreachable then stUnreachable else stAccessRefused
  let s := regCount s 0x300060
  let s := raiseErr s { code := 0x0203, cls := 2, unit := 2, ring := x.ring, seq := x.seq, status := st
                        addr := x.retDetail.addr.toNat, info0 := x.retDetail.info0.toNat }
  if haltsOnFail s x then haltRing s x.ring st x.seq else s

/-- Step 11: the addition to the named counter (R195, R237). -/
def countStep (s : State) (x : Desc) : State :=
  let s := setPhase s x.id .counting
  if !dCntEn x then s
  else if dCntCluster x = ownId s then counterAdvance s (dCntId x) (dCntAdd x)
  else
    let k : Packet := { type := 0x04, vc := 2, dest := dCntCluster x, src := ownId s, counter := dCntId x
                        body := toLe 4 (dCntAdd x) }
    retireWrite s x 1 (cntAddr (dCntCluster x) (dCntId x)) (toLe 8 (dCntAdd x)) fun s a =>
      let r := fepQueue s k (some a)
      if r.2 then r.1 else deliver r.1 a .unreachable

/-- Step 12: the chained doorbell (R220, R237). -/
def bellStep (s : State) (x : Desc) : State :=
  let s := setPhase s x.id .ringing
  if !dDbEn x then s
  else if dDbCluster x = ownId s then applyDoorbell s (ownId s) (dDbValue x)
  else retireWrite s x 2 (bellAddr (dDbCluster x)) (toLe 8 (dDbValue x)) fun s a => fepRequest s a true

/-- The ticket of an issued descriptor takes its status (R158). -/
def ticketDone (s : State) (x : Desc) : State :=
  match x.issue with
  | some i => groupUpd s i.group fun g =>
    let here := match g.launch with
      | some l => l.desc == i.launch
      | none => false
    if here then { g with tickets := setAt g.tickets i.slot fun k =>
      if k.seq = i.seq then { k with status := x.status, pending := false } else k }
    else g
  | none => s

/-- Step 13: the head advances, the latched tail is applied (R221), and the ring halts on a failure (R225). -/
def headStep (s : State) (x : Desc) : State :=
  let halt := x.status != 0 && haltsOnFail s x
  let s := ticketDone { gatherDrop s x.id with descs := (gatherDrop s x.id).descs.filter fun y => y.id != x.id } x
  if x.issue.isSome then s
  else
    let s := ringUpd s x.ring fun r =>
      let r := { r with head := (r.head + 1) % 65536, latch := none }
      match ((ringGet s x.ring).bind (·.latch)) with
      | some t => raiseTail r t
      | none => r
    let s := if halt then haltRing s x.ring x.status x.seq else s
    attnDone (ringSync (freeBarriers (disableCheck s x.ring)))

/-- Whether a finished descriptor may retire: in ring order, or at once when it was issued (R224). -/
def retireTurn (s : State) (x : Desc) : Bool :=
  x.issue.isSome || (match ringDescs s x.ring with
    | y :: _ => y.id == x.id
    | [] => false)

/-- One step of a retirement, if its write has been answered.  Neither a refused count-only advance nor an
unreachable one stops the chained doorbell (R238; DESIGN CHOICE, assumption 175). -/
def retireStep (s : State) (d : Nat) : State :=
  match descGet s d with
  | none => s
  | some x =>
    if x.unacked != 0 then s
    else match x.phase with
      | .finished =>
        if retireTurn s x then
          whenLive (if x.issue.isSome then s else contextParity (cacheRing s x.ring) x.ring) fun s => recordStep s x
        else s
      | .recording =>
        let s := descUpd s d fun y => { y with holds := [] }
        if x.retStatus != 0 then headStep (recordLost s x) x
        else if x.status != 0 then headStep s x
        else countStep s x
      | .counting => bellStep (if x.retStatus != 0 then descUpd (chainFailed s x) d fun y => { y with retStatus := 0 } else s) x
      | .ringing => headStep (if x.retStatus != 0 then chainFailed s x else s) x
      | _ => s

/-- Whether a thread still waits for the collective of its instruction. -/
def collAwaited (s : State) (d : Nat) : Bool :=
  s.groups.any fun g => g.threads.any fun y => match y.hold with
    | .coll e _ => e == d
    | _ => false

/-- R14. A finished descriptor retires: as far as its record, its count and its doorbell are answered; called
again while one is outstanding. -/
def execDescriptorRetire (d : Nat) (s : State) : Result :=
  .next <| whenLive s fun s => match descGet s d with
    | none => s
    | some x =>
      if clInsn x then
        if x.phase = .finished && x.unacked = 0 && !collAwaited s d then
          { s with descs := s.descs.filter fun y => y.id != d }
        else s
      else (List.range 4).foldl (fun s _ => retireStep s d) s

end Sys2Proof.Machine
end

