-- ==== Sys2Proof/Machine/Dispatch.lean ====
section
/-! DEFINITION. The meaning of every command: one arm for each constructor, each one call of its meaning. -/
namespace Sys2Proof.Machine

/-- The effect of a command on everything but the queue. -/
def exec (i : Instr) (s : State) : Host.Outcome State Fault Refusal :=
  match i with
  | .poresetN => Sys2Proof.Machine.execPoresetN s
  | .warmresetN => Sys2Proof.Machine.execWarmresetN s
  | .resetRelease recovery => Sys2Proof.Machine.execResetRelease recovery s
  | .fusesStage agree => Sys2Proof.Machine.execFusesStage agree s
  | .selftestStage failing => Sys2Proof.Machine.execSelftestStage failing s
  | .flashStage device => Sys2Proof.Machine.execFlashStage device s
  | .settingsStage => Sys2Proof.Machine.execSettingsStage s
  | .imageStage => Sys2Proof.Machine.execImageStage s
  | .linkUp port => Sys2Proof.Machine.execLinkUp port s
  | .linkDown port => Sys2Proof.Machine.execLinkDown port s
  | .chipMemoryFatal => Sys2Proof.Machine.execChipMemoryFatal s
  | .thermAlertN asserted => Sys2Proof.Machine.execThermAlertN asserted s
  | .thermalTrip => Sys2Proof.Machine.execThermalTrip s
  | .attnReq level => Sys2Proof.Machine.execAttnReq level s
  | .supplyFault cause => Sys2Proof.Machine.execSupplyFault cause s
  | .vinReady mv => Sys2Proof.Machine.execVinReady mv s
  | .trstN => Sys2Proof.Machine.execTrstN s
  | .idcode => Sys2Proof.Machine.execIdcode s
  | .ijtagSel segs => Sys2Proof.Machine.execIjtagSel segs s
  | .regAccess offset wr data => Sys2Proof.Machine.execRegAccess offset wr data s
  | .bypass scan => Sys2Proof.Machine.execBypass scan s
  | .cmpRead ch tag m => Sys2Proof.Machine.execCmpRead ch tag m s
  | .cmpWrite ch tag m => Sys2Proof.Machine.execCmpWrite ch tag m s
  | .cmpAtomic ch tag m => Sys2Proof.Machine.execCmpAtomic ch tag m s
  | .cmpReadData ch tag st data => Sys2Proof.Machine.execCmpReadData ch tag st data s
  | .cmpAck ch tag st => Sys2Proof.Machine.execCmpAck ch tag st s
  | .cmpAtomicData ch tag st data => Sys2Proof.Machine.execCmpAtomicData ch tag st data s
  | .cmpCredit ch req rsp => Sys2Proof.Machine.execCmpCredit ch req rsp s
  | .flit port f => Sys2Proof.Machine.execFlit port f s
  | .linkAck port lseq => Sys2Proof.Machine.execLinkAck port lseq s
  | .nak port lseq => Sys2Proof.Machine.execNak port lseq s
  | .flitCredit port vc => Sys2Proof.Machine.execFlitCredit port vc s
  | .linkAckTimer port => Sys2Proof.Machine.execLinkAckTimer port s
  | .portFailed port => Sys2Proof.Machine.execPortFailed port s
  | .writePkt port k => Sys2Proof.Machine.execWritePkt port k s
  | .readPkt port k => Sys2Proof.Machine.execReadPkt port k s
  | .atomicPkt port k => Sys2Proof.Machine.execAtomicPkt port k s
  | .count port k => Sys2Proof.Machine.execCount port k s
  | .collWrite port k => Sys2Proof.Machine.execCollWrite port k s
  | .ack port k => Sys2Proof.Machine.execAck port k s
  | .readData port k => Sys2Proof.Machine.execReadData port k s
  | .atomicData port k => Sys2Proof.Machine.execAtomicData port k s
  | .refused port k => Sys2Proof.Machine.execRefused port k s
  | .retry port k => Sys2Proof.Machine.execRetry port k s
  | .retrySend tag => Sys2Proof.Machine.execRetrySend tag s
  | .reservationLapse resource => Sys2Proof.Machine.execReservationLapse resource s
  | .congEcho port k => Sys2Proof.Machine.execCongEcho port k s
  | .collData port k => Sys2Proof.Machine.execCollData port k s
  | .collCtl port k => Sys2Proof.Machine.execCollCtl port k s
  | .mgmt port k => Sys2Proof.Machine.execMgmt port k s
  | .rspTimeout tag => Sys2Proof.Machine.execRspTimeout tag s
  | .rateRaise g => Sys2Proof.Machine.execRateRaise g s
  | .bankAccess bank => Sys2Proof.Machine.execBankAccess bank s
  | .fold n => Sys2Proof.Machine.execFold n s
  | .refetch block => Sys2Proof.Machine.execRefetch block s
  | .doorbell m value => Sys2Proof.Machine.execDoorbell m value s
  | .ageLimit ring => Sys2Proof.Machine.execAgeLimit ring s
  | .descriptorFetch => Sys2Proof.Machine.execDescriptorFetch s
  | .descriptorValidate d => Sys2Proof.Machine.execDescriptorValidate d s
  | .nopDesc d => Sys2Proof.Machine.execNopDesc d s
  | .waitDesc d => Sys2Proof.Machine.execWaitDesc d s
  | .waitTimeout d => Sys2Proof.Machine.execWaitTimeout d s
  | .matmul d => Sys2Proof.Machine.execMatmul d s
  | .diag d => Sys2Proof.Machine.execDiag d s
  | .vchain d => Sys2Proof.Machine.execVchain d s
  | .moveDesc d => Sys2Proof.Machine.execMoveDesc d s
  | .coll d => Sys2Proof.Machine.execColl d s
  | .launch d => Sys2Proof.Machine.execLaunch d s
  | .imgErase d => Sys2Proof.Machine.execImgErase d s
  | .imgWrite d => Sys2Proof.Machine.execImgWrite d s
  | .imgVerify d => Sys2Proof.Machine.execImgVerify d s
  | .imgSchedule d => Sys2Proof.Machine.execImgSchedule d s
  | .settingsWrite d => Sys2Proof.Machine.execSettingsWrite d s
  | .identify d => Sys2Proof.Machine.execIdentify d s
  | .planeLoad d part => Sys2Proof.Machine.execPlaneLoad d part s
  | .tileDrain d tile => Sys2Proof.Machine.execTileDrain d tile s
  | .splitPass d rowGroup => Sys2Proof.Machine.execSplitPass d rowGroup s
  | .splitPassRetire d rowGroup => Sys2Proof.Machine.execSplitPassRetire d rowGroup s
  | .fill d => Sys2Proof.Machine.execFill d s
  | .sweep d => Sys2Proof.Machine.execSweep d s
  | .writeBack d => Sys2Proof.Machine.execWriteBack d s
  | .replay d => Sys2Proof.Machine.execReplay d s
  | .descriptorRetire d => Sys2Proof.Machine.execDescriptorRetire d s
  | .ringEnable m ring => Sys2Proof.Machine.execRingEnable m ring s
  | .ringDisable m ring => Sys2Proof.Machine.execRingDisable m ring s
  | .ringResume m ring => Sys2Proof.Machine.execRingResume m ring s
  | .ringFlush m ring => Sys2Proof.Machine.execRingFlush m ring s
  | .loadGroup m g => Sys2Proof.Machine.execLoadGroup m g s
  | .unloadGroup m g => Sys2Proof.Machine.execUnloadGroup m g s
  | .collTimeout d => Sys2Proof.Machine.execCollTimeout d s
  | .suspendGroup m g => Sys2Proof.Machine.execSuspendGroup m g s
  | .suspendDone g => Sys2Proof.Machine.execSuspendDone g s
  | .resumeGroup m g => Sys2Proof.Machine.execResumeGroup m g s
  | .abortLaunch m g => Sys2Proof.Machine.execAbortLaunch m g s
  | .launchComplete g => Sys2Proof.Machine.execLaunchComplete g s
  | .launchEnd g => Sys2Proof.Machine.execLaunchEnd g s
  | .tileQueue g => Sys2Proof.Machine.execTileQueue g s
  | .nopInstr t => Sys2Proof.Machine.execNopInstr t s
  | .exitThread t => Sys2Proof.Machine.execExitThread t s
  | .fret t => Sys2Proof.Machine.execFret t s
  | .brk t => Sys2Proof.Machine.execBrk t s
  | .addOp t => Sys2Proof.Machine.execAddOp t s
  | .subOp t => Sys2Proof.Machine.execSubOp t s
  | .andOp t => Sys2Proof.Machine.execAndOp t s
  | .orOp t => Sys2Proof.Machine.execOrOp t s
  | .xorOp t => Sys2Proof.Machine.execXorOp t s
  | .shl t => Sys2Proof.Machine.execShl t s
  | .shr t => Sys2Proof.Machine.execShr t s
  | .sra t => Sys2Proof.Machine.execSra t s
  | .mulOp t => Sys2Proof.Machine.execMulOp t s
  | .mulh t => Sys2Proof.Machine.execMulh t s
  | .mulhu t => Sys2Proof.Machine.execMulhu t s
  | .minOp t => Sys2Proof.Machine.execMinOp t s
  | .maxOp t => Sys2Proof.Machine.execMaxOp t s
  | .minu t => Sys2Proof.Machine.execMinu t s
  | .maxu t => Sys2Proof.Machine.execMaxu t s
  | .jalr t => Sys2Proof.Machine.execJalr t s
  | .addi t => Sys2Proof.Machine.execAddi t s
  | .andi t => Sys2Proof.Machine.execAndi t s
  | .ori t => Sys2Proof.Machine.execOri t s
  | .xori t => Sys2Proof.Machine.execXori t s
  | .shli t => Sys2Proof.Machine.execShli t s
  | .shri t => Sys2Proof.Machine.execShri t s
  | .srai t => Sys2Proof.Machine.execSrai t s
  | .li t => Sys2Proof.Machine.execLi t s
  | .uins t => Sys2Proof.Machine.execUins t s
  | .peq t => Sys2Proof.Machine.execPeq t s
  | .pne t => Sys2Proof.Machine.execPne t s
  | .plt t => Sys2Proof.Machine.execPlt t s
  | .pltu t => Sys2Proof.Machine.execPltu t s
  | .pge t => Sys2Proof.Machine.execPge t s
  | .pgeu t => Sys2Proof.Machine.execPgeu t s
  | .pand t => Sys2Proof.Machine.execPand t s
  | .por t => Sys2Proof.Machine.execPor t s
  | .pxor t => Sys2Proof.Machine.execPxor t s
  | .br t => Sys2Proof.Machine.execBr t s
  | .jal t => Sys2Proof.Machine.execJal t s
  | .ldB t => Sys2Proof.Machine.execLdB t s
  | .ldH t => Sys2Proof.Machine.execLdH t s
  | .ldW t => Sys2Proof.Machine.execLdW t s
  | .ldD t => Sys2Proof.Machine.execLdD t s
  | .ldsB t => Sys2Proof.Machine.execLdsB t s
  | .ldsH t => Sys2Proof.Machine.execLdsH t s
  | .ldsW t => Sys2Proof.Machine.execLdsW t s
  | .loadData t => Sys2Proof.Machine.execLoadData t s
  | .stB t => Sys2Proof.Machine.execStB t s
  | .stH t => Sys2Proof.Machine.execStH t s
  | .stW t => Sys2Proof.Machine.execStW t s
  | .stD t => Sys2Proof.Machine.execStD t s
  | .sysr t => Sys2Proof.Machine.execSysr t s
  | .sysw t => Sys2Proof.Machine.execSysw t s
  | .tzero t => Sys2Proof.Machine.execTzero t s
  | .tload t => Sys2Proof.Machine.execTload t s
  | .tstore t => Sys2Proof.Machine.execTstore t s
  | .tget t => Sys2Proof.Machine.execTget t s
  | .tput t => Sys2Proof.Machine.execTput t s
  | .twait t => Sys2Proof.Machine.execTwait t s
  | .tcfg t => Sys2Proof.Machine.execTcfg t s
  | .tcfgm t => Sys2Proof.Machine.execTcfgm t s
  | .tmma t => Sys2Proof.Machine.execTmma t s
  | .tbind t => Sys2Proof.Machine.execTbind t s
  | .tfree t => Sys2Proof.Machine.execTfree t s
  | .eissue t => Sys2Proof.Machine.execEissue t s
  | .ewait t => Sys2Proof.Machine.execEwait t s
  | .etest t => Sys2Proof.Machine.execEtest t s
  | .mcopy t => Sys2Proof.Machine.execMcopy t s
  | .cwait t => Sys2Proof.Machine.execCwait t s
  | .cwaitLimit t => Sys2Proof.Machine.execCwaitLimit t s
  | .fenceR t => Sys2Proof.Machine.execFenceR t s
  | .acq t => Sys2Proof.Machine.execAcq t s
  | .acqAll t => Sys2Proof.Machine.execAcqAll t s
  | .gbar t => Sys2Proof.Machine.execGbar t s
  | .stC t => Sys2Proof.Machine.execStC t s
  | .amoAdd t => Sys2Proof.Machine.execAmoAdd t s
  | .amoMin t => Sys2Proof.Machine.execAmoMin t s
  | .amoMax t => Sys2Proof.Machine.execAmoMax t s
  | .amoMinu t => Sys2Proof.Machine.execAmoMinu t s
  | .amoMaxu t => Sys2Proof.Machine.execAmoMaxu t s
  | .amoSwp t => Sys2Proof.Machine.execAmoSwp t s
  | .amoCas t => Sys2Proof.Machine.execAmoCas t s
  | .famoAddF32 t => Sys2Proof.Machine.execFamoAddF32 t s
  | .famoAddBf16 t => Sys2Proof.Machine.execFamoAddBf16 t s
  | .cbar t => Sys2Proof.Machine.execCbar t s
  | .cred t => Sys2Proof.Machine.execCred t s
  | .registerWrite m offset v => Sys2Proof.Machine.execRegisterWrite m offset v s
  | .readClear m offset => Sys2Proof.Machine.execReadClear m offset s
  | .capture m offset => Sys2Proof.Machine.execCapture m offset s
  | .counterClear m c => Sys2Proof.Machine.execCounterClear m c s
  | .routeFront m => Sys2Proof.Machine.execRouteFront m s
  | .ptmMode m v => Sys2Proof.Machine.execPtmMode m v s
  | .ptmPowerCap m v => Sys2Proof.Machine.execPtmPowerCap m v s
  | .ptmVlimit m v => Sys2Proof.Machine.execPtmVlimit m v s
  | .parityArm m v => Sys2Proof.Machine.execParityArm m v s
  | .backValid m n v => Sys2Proof.Machine.execBackValid m n v s
  | .orderedArm m n v => Sys2Proof.Machine.execOrderedArm m n v s
  | .abandon m n v => Sys2Proof.Machine.execAbandon m n v s
  | .activationFront m v => Sys2Proof.Machine.execActivationFront m v s
  | .activationSwitch => Sys2Proof.Machine.execActivationSwitch s
  | .drainLimit => Sys2Proof.Machine.execDrainLimit s
  | .confirm m => Sys2Proof.Machine.execConfirm m s
  | .revert m => Sys2Proof.Machine.execRevert m s
  | .confirmTimeout => Sys2Proof.Machine.execConfirmTimeout s
  | .programSlot m slot => Sys2Proof.Machine.execProgramSlot m slot s
  | .revokeSlot m slot => Sys2Proof.Machine.execRevokeSlot m slot s
  | .svnAdvance m => Sys2Proof.Machine.execSvnAdvance m s
  | .errDone m index => Sys2Proof.Machine.execErrDone m index s
  | .evtSw m => Sys2Proof.Machine.execEvtSw m s
  | .fatalClear m => Sys2Proof.Machine.execFatalClear m s
  | .indData m pair wr => Sys2Proof.Machine.execIndData m pair wr s
  | .indDataNoinc m pair wr => Sys2Proof.Machine.execIndDataNoinc m pair wr s
  | .controlPeriod tel => Sys2Proof.Machine.execControlPeriod tel s
  | .islandGate island => Sys2Proof.Machine.execIslandGate island s
  | .retention island => Sys2Proof.Machine.execRetention island s
  | .islandWake island => Sys2Proof.Machine.execIslandWake island s
  | .scrub upset => Sys2Proof.Machine.execScrub upset s
  | .handshakeStall h => Sys2Proof.Machine.execHandshakeStall h s
  | .windowBoundary => Sys2Proof.Machine.execWindowBoundary s
  | .flashDone ok => Sys2Proof.Machine.execFlashDone ok s
  | .fuseProgrammingEnd ok => Sys2Proof.Machine.execFuseProgrammingEnd ok s
  | .fixedVin mv => Sys2Proof.Machine.execFixedVin mv s
  | .tokenBucketRefill g => Sys2Proof.Machine.execTokenBucketRefill g s
  | .bundleAck bundle => Sys2Proof.Machine.execBundleAck bundle s
  | .illegal t => Sys2Proof.Machine.execIllegal t s
  | .pcRange t => Sys2Proof.Machine.execPcRange t s

end Sys2Proof.Machine
end

