-- ==== Sys2Proof/WellFormed.lean ====
section
/-! DEFINITION. Well-formed commands: every operand lies in the range its wires, fields or numbering give it
(R10, R124, R170, R209, R242, R269, R361, R366, R373, R393).  A command outside these ranges is nothing that the
block's wires, rings or numbering can name. -/
namespace Sys2Proof

/-- A packet whose fields fit R269. -/
def Packet.wf (k : Packet) : Bool :=
  k.type < 256 && k.vc < 8 && k.dest < 2 ^ 19 && k.src < 2 ^ 19 && k.path < 256 && k.age < 256 && k.tag < 8192
    && k.addr < 2 ^ 40 && k.counter < 4096 && k.status < 65536 && k.body.length ≤ 32 && k.payload.length ≤ 4096
    && k.atop < 16 && k.awid < 4

/-- A flit whose fields fit R268 and R373: 64 to 256 bytes in units of the sideband's 64-byte beats. -/
def FlitIn.wf (f : FlitIn) : Bool :=
  f.vc < 6 && f.bytes.length % 64 == 0 && 64 ≤ f.bytes.length && f.bytes.length ≤ 256

/-- The island that a supply fault names, if it names one (R10). -/
def SupplyCause.wf : SupplyCause → Bool
  | .island n => n < 100
  | .status _ _ => true
  | .silence => true

/-- An agent's request whose fields fit R366. -/
def CmpReq.wf (m : CmpReq) : Bool :=
  m.addr % 128 == 0 && m.addr < 2 ^ 40 && (m.data.length == 0 || m.data.length == 128) && m.atop < 16 && m.awid < 4

/-- Whether a command is well formed. -/
def WellFormed : Instr → Bool
  | .poresetN => true
  | .warmresetN => true
  | .resetRelease _ => true
  | .fusesStage _ => true
  | .selftestStage _ => true
  | .flashStage _ => true
  | .settingsStage => true
  | .imageStage => true
  | .linkUp port => port < 4
  | .linkDown port => port < 4
  | .chipMemoryFatal => true
  | .thermAlertN _ => true
  | .thermalTrip => true
  | .attnReq _ => true
  | .supplyFault cause => SupplyCause.wf cause
  | .vinReady mv => mv < 4096
  | .trstN => true
  | .idcode => true
  | .ijtagSel _ => true
  | .regAccess _ _ _ => true
  | .bypass scan => scan.code != 0x01 && scan.code != 0x10 && scan.code != 0x20
  | .cmpRead ch tag m => ch < 8 && tag < 4096 && CmpReq.wf m
  | .cmpWrite ch tag m => ch < 8 && tag < 4096 && CmpReq.wf m
  | .cmpAtomic ch tag m => ch < 8 && tag < 4096 && CmpReq.wf m
  | .cmpReadData ch tag _ data => ch < 8 && tag < 4096 && (data.length == 0 || data.length == 128)
  | .cmpAck ch tag _ => ch < 8 && tag < 4096
  | .cmpAtomicData ch tag _ data => ch < 8 && tag < 4096 && (data.length == 0 || data.length == 128)
  | .cmpCredit ch _ _ => ch.value < 8
  | .flit port f => port < 4 && FlitIn.wf f
  | .linkAck port lseq => port < 4 && lseq.value < 4096
  | .nak port lseq => port < 4 && lseq.value < 4096
  | .flitCredit port vc => port < 4 && (vc.value < 6 || (vc.value == 8 && vc.alone))
  | .linkAckTimer port => port < 4
  | .portFailed port => port < 4
  | .writePkt port k => port < 4 && Packet.wf k
  | .readPkt port k => port < 4 && Packet.wf k
  | .atomicPkt port k => port < 4 && Packet.wf k
  | .count port k => port < 4 && Packet.wf k
  | .collWrite port k => port < 4 && Packet.wf k
  | .ack port k => port < 4 && Packet.wf k
  | .readData port k => port < 4 && Packet.wf k
  | .atomicData port k => port < 4 && Packet.wf k
  | .refused port k => port < 4 && Packet.wf k
  | .retry port k => port < 4 && Packet.wf k
  | .retrySend tag => tag < 8192
  | .reservationLapse resource => resource < 2
  | .congEcho port k => port < 4 && Packet.wf k
  | .collData port k => port < 4 && Packet.wf k
  | .collCtl port k => port < 4 && Packet.wf k
  | .mgmt port k => port < 4 && Packet.wf k
  | .rspTimeout tag => tag < 8192
  | .rateRaise g => g < 1024
  | .bankAccess bank => bank < 576
  | .fold n => n < 16
  | .refetch block => block % 4096 == 0 && block < 2 ^ 40
  | .doorbell _ _ => true
  | .ageLimit ring => ring < 2 ^ 18
  | .descriptorFetch => true
  | .descriptorValidate _ => true
  | .nopDesc _ => true
  | .waitDesc _ => true
  | .waitTimeout _ => true
  | .matmul _ => true
  | .diag _ => true
  | .vchain _ => true
  | .moveDesc _ => true
  | .coll _ => true
  | .launch _ => true
  | .imgErase _ => true
  | .imgWrite _ => true
  | .imgVerify _ => true
  | .imgSchedule _ => true
  | .settingsWrite _ => true
  | .identify _ => true
  | .planeLoad _ part => part < 16
  | .tileDrain _ _ => true
  | .splitPass _ _ => true
  | .splitPassRetire _ _ => true
  | .fill _ => true
  | .sweep _ => true
  | .writeBack _ => true
  | .replay _ => true
  | .descriptorRetire _ => true
  | .ringEnable _ ring => ring < 2 ^ 18
  | .ringDisable _ ring => ring < 2 ^ 18
  | .ringResume _ ring => ring < 2 ^ 18
  | .ringFlush _ ring => ring < 2 ^ 18
  | .loadGroup _ g => g < 4096
  | .unloadGroup _ g => g < 4096
  | .collTimeout _ => true
  | .suspendGroup _ g => g < 32
  | .suspendDone g => g < 32
  | .resumeGroup _ g => g < 32
  | .abortLaunch _ g => g < 32
  | .launchComplete g => g < 32
  | .launchEnd g => g < 32
  | .tileQueue g => g < 32
  | .nopInstr t => t < 128
  | .exitThread t => t < 128
  | .fret t => t < 128
  | .brk t => t < 128
  | .addOp t => t < 128
  | .subOp t => t < 128
  | .andOp t => t < 128
  | .orOp t => t < 128
  | .xorOp t => t < 128
  | .shl t => t < 128
  | .shr t => t < 128
  | .sra t => t < 128
  | .mulOp t => t < 128
  | .mulh t => t < 128
  | .mulhu t => t < 128
  | .minOp t => t < 128
  | .maxOp t => t < 128
  | .minu t => t < 128
  | .maxu t => t < 128
  | .jalr t => t < 128
  | .addi t => t < 128
  | .andi t => t < 128
  | .ori t => t < 128
  | .xori t => t < 128
  | .shli t => t < 128
  | .shri t => t < 128
  | .srai t => t < 128
  | .li t => t < 128
  | .uins t => t < 128
  | .peq t => t < 128
  | .pne t => t < 128
  | .plt t => t < 128
  | .pltu t => t < 128
  | .pge t => t < 128
  | .pgeu t => t < 128
  | .pand t => t < 128
  | .por t => t < 128
  | .pxor t => t < 128
  | .br t => t < 128
  | .jal t => t < 128
  | .ldB t => t < 128
  | .ldH t => t < 128
  | .ldW t => t < 128
  | .ldD t => t < 128
  | .ldsB t => t < 128
  | .ldsH t => t < 128
  | .ldsW t => t < 128
  | .loadData t => t < 128
  | .stB t => t < 128
  | .stH t => t < 128
  | .stW t => t < 128
  | .stD t => t < 128
  | .sysr t => t < 128
  | .sysw t => t < 128
  | .tzero t => t < 128
  | .tload t => t < 128
  | .tstore t => t < 128
  | .tget t => t < 128
  | .tput t => t < 128
  | .twait t => t < 128
  | .tcfg t => t < 128
  | .tcfgm t => t < 128
  | .tmma t => t < 128
  | .tbind t => t < 128
  | .tfree t => t < 128
  | .eissue t => t < 128
  | .ewait t => t < 128
  | .etest t => t < 128
  | .mcopy t => t < 128
  | .cwait t => t < 128
  | .cwaitLimit t => t < 128
  | .fenceR t => t < 128
  | .acq t => t < 128
  | .acqAll t => t < 128
  | .gbar t => t < 128
  | .stC t => t < 128
  | .amoAdd t => t < 128
  | .amoMin t => t < 128
  | .amoMax t => t < 128
  | .amoMinu t => t < 128
  | .amoMaxu t => t < 128
  | .amoSwp t => t < 128
  | .amoCas t => t < 128
  | .famoAddF32 t => t < 128
  | .famoAddBf16 t => t < 128
  | .cbar t => t < 128
  | .cred t => t < 128
  | .registerWrite _ offset _ => offset % 4 == 0 && offset < 0xE00000
  | .readClear _ offset => offset % 4 == 0 && offset < 0xE00000
  | .capture _ offset => offset % 4 == 0 && offset < 0xE00000
  | .counterClear _ c => c < 4096
  | .routeFront _ => true
  | .ptmMode _ _ => true
  | .ptmPowerCap _ _ => true
  | .ptmVlimit _ _ => true
  | .parityArm _ _ => true
  | .backValid _ n _ => n < 64
  | .orderedArm _ n _ => n < 16
  | .abandon _ n _ => n < 16
  | .activationFront _ _ => true
  | .activationSwitch => true
  | .drainLimit => true
  | .confirm _ => true
  | .revert _ => true
  | .confirmTimeout => true
  | .programSlot _ slot => slot < 4
  | .revokeSlot _ slot => slot < 4
  | .svnAdvance _ => true
  | .errDone _ index => index < 65536
  | .evtSw _ => true
  | .fatalClear _ => true
  | .indData _ pair _ => pair < 4
  | .indDataNoinc _ pair _ => pair < 4
  | .controlPeriod tel => tel.sensors.length ≤ 24
  | .islandGate island => island < 100
  | .retention island => island < 100
  | .islandWake island => island < 100
  | .scrub _ => true
  | .handshakeStall h => h.asker < 100 && h.answerer < 100 && h.asker != h.answerer
  | .windowBoundary => true
  | .flashDone _ => true
  | .fuseProgrammingEnd _ => true
  | .fixedVin mv => mv < 4096
  | .tokenBucketRefill g => g < 1024
  | .bundleAck bundle => bundle < 12
  | .illegal t => t < 128
  | .pcRange t => t < 128

end Sys2Proof
end

