-- ==== Sys2Proof/Safety.lean ====
section
/-! DEFINITION. What claims about the block are stated in: the form every state of a run has, what a command leaves
alone, and when an instruction of a thread issues. -/
namespace Sys2Proof.Machine

/-- Every sparse map of the state is in its one canonical form: keys strictly rising and no entry equal to what
an unlisted key reads as (scratchpad R179, the serial NOR device R332, registers R6, counters R195, operand caches
R97, corrected-error counts R408, trim and function tables R407). -/
structure Canon (s : State) : Prop where
  spm : mapWf (spmDefault s.spmLost) s.spm = true
  nor : mapWf (fun _ => (0xFF : Byte)) s.nor = true
  regs : mapWf regReset s.regs = true
  counters : mapWf (fun _ => (0 : Dword)) s.counters = true
  cntShadow : mapWf (fun _ => (0 : Dword)) s.cntShadow = true
  voc : mapWf (fun _ => (0 : Byte)) s.voc = true
  corr : mapWf (fun _ => (0 : Word)) s.corr = true
  trim : mapWf (fun _ => (0 : Word)) s.trim = true
  ftab : mapWf Config.romTable s.ftab = true

/-- The units the block has are as many as the spec gives it: 32 task-core groups (R124), 8 generations (R321),
4 fabric ports (R268) and 8 chip-memory channels (R361). -/
structure Sized (s : State) : Prop where
  groups : s.groups.length = 32
  gens : s.gens.length = 8
  ports : s.fep.ports.length = 4
  chans : s.cmp.chans.length = 8

/-- The invariant that every command keeps. -/
structure Inv (s : State) : Prop where
  canon : Canon s
  sized : Sized s

/-- Nothing lies between two states but what their thread `t` holds: every other thread, every other field of its
group, and every other part of the state are the same. -/
structure OnlyThread (s u : State) (t : Nat) : Prop where
  rest : { u with groups := s.groups } = s
  groups : ∀ i : Nat, (u.groups[i]?).map (fun g : Group => { g with threads := [] }) =
    (s.groups[i]?).map fun g : Group => { g with threads := [] }
  others : ∀ i j : Nat, ¬(i = t / 4 ∧ j = t % 4) →
    (u.groups[i]?).bind (fun g => g.threads[j]?) = (s.groups[i]?).bind fun g => g.threads[j]?

/-- Thread `t` stands at a good word that is an instruction `m` whose guard holds, in a cluster that acts (R124,
R128, R130). -/
structure Stands (s : State) (t : Nat) (m : Mn) (g : Group) (x : Thread) (w : Word) : Prop where
  acts : live s = true
  here : threadAt s t = some (g, x)
  going : x.ended = false
  word : fetchWord g x = some w
  insn : insnOf w = some m
  good : fetchBad g x.pc.toNat = false
  guard : guardOk x w = true

/-- A thread that stands at an instruction issues it: its group runs, and no earlier instruction of the thread is
unfinished (R132). -/
structure Issues (s : State) (t : Nat) (m : Mn) (g : Group) (x : Thread) (w : Word) : Prop
    extends Stands s t m g x w where
  runs : g.state = 1
  free : x.hold = .free

/-- A thread that could issue the instruction it stands at but whose guard does not hold there (R128, R130). -/
structure Skips (s : State) (t : Nat) (m : Mn) (g : Group) (x : Thread) (w : Word) : Prop where
  acts : live s = true
  here : threadAt s t = some (g, x)
  going : x.ended = false
  word : fetchWord g x = some w
  insn : insnOf w = some m
  good : fetchBad g x.pc.toNat = false
  guard : guardOk x w = false
  runs : g.state = 1
  free : x.hold = .free

/-- The instructions of the task cores, each with the command that issues it for thread `t` (R131, R143, R157). -/
def taskInsns (t : Nat) : List (Mn × Instr) :=
  [(.nop, .nopInstr t), (.exit, .exitThread t), (.fret, .fret t), (.brk, .brk t), (.add, .addOp t), (.sub, .subOp t),
    (.and, .andOp t), (.or, .orOp t), (.xor, .xorOp t), (.shl, .shl t), (.shr, .shr t), (.sra, .sra t), (.mul, .mulOp t),
    (.mulh, .mulh t), (.mulhu, .mulhu t), (.min, .minOp t), (.max, .maxOp t), (.minu, .minu t), (.maxu, .maxu t),
    (.jalr, .jalr t), (.addi, .addi t), (.andi, .andi t), (.ori, .ori t), (.xori, .xori t), (.shli, .shli t),
    (.shri, .shri t), (.srai, .srai t), (.li, .li t), (.uins, .uins t)] ++
  [(.peq, .peq t), (.pne, .pne t), (.plt, .plt t), (.pltu, .pltu t), (.pge, .pge t), (.pgeu, .pgeu t), (.pand, .pand t),
    (.por, .por t), (.pxor, .pxor t), (.br, .br t), (.jal, .jal t), (.ldb, .ldB t), (.ldh, .ldH t), (.ldw, .ldW t),
    (.ldd, .ldD t), (.ldsb, .ldsB t), (.ldsh, .ldsH t), (.ldsw, .ldsW t), (.stb, .stB t), (.sth, .stH t), (.stw, .stW t),
    (.std, .stD t), (.sysr, .sysr t), (.sysw, .sysw t)] ++
  [(.tzero, .tzero t), (.tload, .tload t), (.tstore, .tstore t), (.tget, .tget t), (.tput, .tput t), (.twait, .twait t),
    (.tcfg, .tcfg t), (.tcfgm, .tcfgm t), (.tmma, .tmma t), (.tbind, .tbind t), (.tfree, .tfree t), (.eissue, .eissue t),
    (.ewait, .ewait t), (.etest, .etest t), (.mcopy, .mcopy t), (.cwait, .cwait t), (.fencer, .fenceR t), (.acq, .acq t),
    (.acqall, .acqAll t), (.gbar, .gbar t), (.stc, .stC t), (.amo 0, .amoAdd t), (.amo 1, .amoMin t), (.amo 2, .amoMax t),
    (.amo 3, .amoMinu t), (.amo 4, .amoMaxu t), (.amo 5, .amoSwp t), (.amo 6, .amoCas t), (.famoF32, .famoAddF32 t),
    (.famoBf16, .famoAddBf16 t), (.cbar, .cbar t), (.cred, .cred t)]

/-- The state with thread `t` holding `y`. -/
def threadNow (s : State) (t : Nat) (y : Thread) : State := threadUpd s t fun _ => y

/-- A thread that has written `v` to register `d`, s0 discarding it, and stands after its instruction. -/
def wroteReg (x : Thread) (d : Nat) (v : Dword) : Thread :=
  { x with pc := x.pc + 4, s := if d = 0 then x.s else x.s.set d v, ret := none, noAlloc := false }

/-- A thread that has written `v` to predicate `d`, p0 discarding it, and stands after its instruction. -/
def wrotePred (x : Thread) (d : Nat) (v : Bool) : Thread :=
  { x with pc := x.pc + 4, p := if d = 0 then x.p else x.p.set d v, ret := none, noAlloc := false }

/-- The thread past its instruction, free to issue the next one. -/
def stepped (x : Thread) : Thread := { x with pc := x.pc + 4, hold := .free, ret := none, noAlloc := false }

/-- A thread whose handler runs next after a fault with a cause and two details (R136). -/
def inHandler (g : Group) (x : Thread) (cause : Nat) (i0 i1 : Dword) : Thread :=
  { x with
    fpc := x.pc, fcause := BitVec.ofNat 8 cause, finfo0 := i0, finfo1 := i1, hmode := true
    pc := g.fhandler.setWidth 64, hold := .free, ret := none, noAlloc := false }

/-- The state in which thread `t` of group `g` has just entered its handler, LAST_CAUSE noted (R136, R154). -/
def handlerNext (s : State) (t : Nat) (g : Group) (x : Thread) (cause : Nat) (i0 i1 : Dword) : State :=
  groupUpd (threadNow s t (inHandler g x cause i0 i1)) (t / 4) fun g => { g with lastCause := cause }

/-- A tile instruction that has entered its group's queue, holding its thread where it waits (R142). -/
def queued (s : State) (t : Nat) (x : Thread) (w : Word) (waits : Bool) (cfg : List Word) : State :=
  let o : TileOp := { n := s.nextId, thread := t % 4, word := w, sa := sGet x (iSA w), sb := sGet x (iSB w), cfg }
  let y : Thread := if waits then { x with hold := .tile s.nextId } else stepped x
  { s with
    nextId := s.nextId + 1
    groups := setAt s.groups (t / 4) fun g => { g with tq := g.tq ++ [o], threads := setAt g.threads (t % 4) fun _ => y } }

/-- Descriptor `d` has ended with a status and waits to retire (R14, R239). -/
def EndedWith (s : State) (d status : Nat) : Prop :=
  ∃ y, descGet s d = some y ∧ y.phase = .finished ∧ y.status = status

/-- A descriptor that no reconfiguration has disturbed and that has not ended (R322). -/
def Undisturbed (s : State) (d : Nat) : Prop :=
  ∃ y, descGet s d = some y ∧ y.phase ≠ .finished ∧ y.disturbed = false

/-- No bank group is in retention, no request waits at a bank of a range of the own scratchpad, and none waits for its
bytes behind a refetch (R170, R186, R294). -/
structure Quiet (s : State) (off len : Nat) : Prop where
  awake : s.power.retained = []
  clear : ∀ r ∈ s.xbr, ∀ b ∈ accBanks r.acc, b ∉ banksOf off len
  past : ∀ r ∈ s.refetch, ∀ w ∈ r.waiters, ∀ q ∈ accParts w, overlap off len q.1 q.2 = false

/-- A range of the own scratchpad that can be read at once, given by its address: its words all have good parity, no
request waits for it, and no ordered region holds it (R165, R170, R179, R213). -/
structure OwnGood (s : State) (addr len : Nat) : Prop where
  some : 0 < len
  own : isOwn s addr = true
  fits : inSpm s (offsetOf addr) len = true
  quiet : Quiet s (offsetOf addr) len
  unordered : ordOver s (offsetOf addr) len = none
  good : spmBadIn s (offsetOf addr) len = none

/-- A range of the own scratchpad in which no entry of a ring or completion ring in use, no save area and no word of
the active route bank lies (R156, R216, R217, R285). -/
structure Apart (s : State) (off len : Nat) : Prop where
  rings : ∀ r ∈ s.dre.rings, overlap (ctxAddr s r.ring) 64 (ownAddr s off) len = false
  cqs : ∀ q ∈ s.dre.cqs, overlap (cqAddr s q.cq) 16 (ownAddr s off) len = false
  saves : ∀ g ∈ s.groups, g.state = 3 → overlap g.saved.1 g.saved.2 off len = false
  routes : routesAt s off len = false

/-- A range of the own scratchpad with no backed or ordered range, no refetch and no word of bad parity in the way of a
write (R183, R184, R186, R213). -/
structure OwnPlain (s : State) (addr len : Nat) : Prop where
  some : 0 < len
  own : isOwn s addr = true
  fits : inSpm s (offsetOf addr) len = true
  unbacked : backOver s (offsetOf addr) len = []
  unordered : ordOver s (offsetOf addr) len = none
  settled : refetching s (offsetOf addr) len = none
  good : spmBadIn s (offsetOf addr) len = none

/-- Such a range for which no request waits. -/
structure OwnOpen (s : State) (addr len : Nat) : Prop extends OwnPlain s addr len where
  quiet : Quiet s (offsetOf addr) len

/-- A range that a write takes at once: nothing that hardware has in use lies in it either. -/
structure OwnClear (s : State) (addr len : Nat) : Prop extends OwnOpen s addr len where
  apart : Apart s (offsetOf addr) len

/-- Such a range within one page: one request writes it (R168). -/
structure OwnFree (s : State) (addr len : Nat) : Prop extends OwnClear s addr len where
  short : len ≤ 4096
  page : offsetOf addr / 4096 = (offsetOf addr + len - 1) / 4096

/-- A master's command may act on the own window at a register: the master is admitted (the Steward with its own memory
good), and neither the window map nor the protection table refuses a 4-byte access there (R167, R171, R310, R331,
R358, R395). -/
structure Admits (s : State) (m : Master) (kind : AccKind) (off : Nat) : Prop where
  admitted : (match m with
    | .steward => live s && !s.boot.stewardBad
    | .debug => live s && debugOpen s
    | .agent _ => inService s { kind := kind, addr := ownAddr s (regBase + off), len := 4 }) = true
  mapped : mapRefusal s { kind := kind, addr := ownAddr s (regBase + off), len := 4 } = none
  allowed : ∀ src, m = .agent src → protCheck s src.toNat (ownAddr s (regBase + off)) 4 kind = none

/-- Threads released from `gbar` once every one of them has reached it or ended (R161). -/
def released (ts : List Thread) : List Thread :=
  if ts.all fun x => x.ended || x.hold == .gbar then ts.map fun x => if x.hold = .gbar then stepped x else x else ts

end Sys2Proof.Machine
end

