-- ==== Sys2Proof/Certificates/Slice0/Obligations.lean ====
section
/-! DEFINITION. The statements about the block that are to be proved, in the order of the chapters: the task cores,
tiles, launches, reset and boot, rings, fabric, memory, registers, power, errors, the engines, and the whole machine. -/
open Sys2Proof Sys2Proof.Machine

/-- R128, R130, R131. Each arithmetic instruction that issues writes its result to `d` and the thread stands at the
next word; nothing else of the state changes. Results are given on the operands read as numbers: unsigned, or in two's
complement for the signed ones; sums and products wrap modulo 2^64, and a shift takes six bits of its amount. An
immediate is 12 bits sign-extended beside register `a`, six bits of shift amount, 17 bits sign-extended alone, or 17
bits inserted below register `d` shifted left. Where its guard is false, an instruction does nothing but leave the
thread at the next word. The model's own choices that it rests on: assumptions 8 and 45. -/
def Obligations.ArithmeticResults : Prop :=
  (
    ∀ (s : State) (t : Nat) (g : Group) (x : Thread) (w : Word),
      let a := sGet x (iA w)
      let b := sGet x (iB w)
      let sh := b.toNat % 64
      let gives (m : Mn) (c : Instr) (v : Dword) : Prop :=
        (Issues s t m g x w → exec c s = .next (threadNow s t (wroteReg x (iD w) v))) ∧
        (Skips s t m g x w → exec c s = .next (threadNow s t (stepped x)))
      gives .add (.addOp t) (BitVec.ofNat 64 (a.toNat + b.toNat)) ∧
      gives .sub (.subOp t) (BitVec.ofInt 64 (a.toInt - b.toInt)) ∧
      gives .and (.andOp t) (a &&& b) ∧
      gives .or (.orOp t) (a ||| b) ∧
      gives .xor (.xorOp t) (a ^^^ b) ∧
      gives .shl (.shl t) (BitVec.ofNat 64 (a.toNat * 2 ^ sh)) ∧
      gives .shr (.shr t) (BitVec.ofNat 64 (a.toNat / 2 ^ sh)) ∧
      gives .sra (.sra t) (BitVec.ofInt 64 (a.toInt / 2 ^ sh)) ∧
      gives .mul (.mulOp t) (BitVec.ofNat 64 (a.toNat * b.toNat)) ∧
      gives .mulh (.mulh t) (BitVec.ofInt 64 (a.toInt * b.toInt / 2 ^ 64)) ∧
      gives .mulhu (.mulhu t) (BitVec.ofNat 64 (a.toNat * b.toNat / 2 ^ 64)) ∧
      gives .min (.minOp t) (if a.toInt ≤ b.toInt then a else b) ∧
      gives .max (.maxOp t) (if a.toInt ≤ b.toInt then b else a) ∧
      gives .minu (.minu t) (if a.toNat ≤ b.toNat then a else b) ∧
      gives .maxu (.maxu t) (if a.toNat ≤ b.toNat then b else a)) ∧
  (
    ∀ (s : State) (t : Nat) (g : Group) (x : Thread) (w : Word),
      let a := sGet x (iA w)
      let n12 := bitsOf 11 0 w.toNat
      let n17 := bitsOf 16 0 w.toNat
      let i12 : Dword := BitVec.ofInt 64 (if n12 < 2 ^ 11 then (n12 : Int) else (n12 : Int) - 2 ^ 12)
      let sh := bitsOf 5 0 w.toNat
      let gives (m : Mn) (c : Instr) (v : Dword) : Prop :=
        (Issues s t m g x w → exec c s = .next (threadNow s t (wroteReg x (iD w) v))) ∧
        (Skips s t m g x w → exec c s = .next (threadNow s t (stepped x)))
      gives .addi (.addi t) (a + i12) ∧
      gives .andi (.andi t) (a &&& i12) ∧
      gives .ori (.ori t) (a ||| i12) ∧
      gives .xori (.xori t) (a ^^^ i12) ∧
      gives .shli (.shli t) (BitVec.ofNat 64 (a.toNat * 2 ^ sh)) ∧
      gives .shri (.shri t) (BitVec.ofNat 64 (a.toNat / 2 ^ sh)) ∧
      gives .srai (.srai t) (BitVec.ofInt 64 (a.toInt / 2 ^ sh)) ∧
      gives .li (.li t) (BitVec.ofInt 64 (if n17 < 2 ^ 16 then (n17 : Int) else (n17 : Int) - 2 ^ 17)) ∧
      gives .uins (.uins t) (BitVec.ofNat 64 ((sGet x (iD w)).toNat * 2 ^ 17 + n17)))

/-- R128, R131, R136. The predicate instructions write one predicate: a signed or unsigned relation of two registers,
or a logical operation of two predicates; p0 reads true and discards what is written to it. Branches and jumps count
their offset in instructions of four bytes from their own PC and link PC + 4; `fret` leaves handler mode with PC at
FPC; `nop`, and `brk` where debug is not enabled, do nothing; `brk` stops the thread for the debug logic where it is.
An instruction of the task cores whose guard is false, of whatever kind, does nothing but leave the thread at the next
word. The model's own choices that it rests on: assumptions 8, 38 and 46. -/
def Obligations.PredicatesAndControlFlow : Prop :=
  (
    ∀ (s : State) (t : Nat) (g : Group) (x : Thread) (w : Word),
      let a := sGet x (iA w)
      let b := sGet x (iB w)
      let pa := pGet x (bitsOf 14 12 w.toNat)
      let pb := pGet x (bitsOf 9 7 w.toNat)
      let gives (m : Mn) (c : Instr) (v : Bool) : Prop :=
        (Issues s t m g x w → exec c s = .next (threadNow s t (wrotePred x (bitsOf 21 19 w.toNat) v))) ∧
        (Skips s t m g x w → exec c s = .next (threadNow s t (stepped x)))
      gives .peq (.peq t) (decide (a = b)) ∧
      gives .pne (.pne t) (decide (a ≠ b)) ∧
      gives .plt (.plt t) (decide (a.toInt < b.toInt)) ∧
      gives .pltu (.pltu t) (decide (a.toNat < b.toNat)) ∧
      gives .pge (.pge t) (decide (a.toInt ≥ b.toInt)) ∧
      gives .pgeu (.pgeu t) (decide (a.toNat ≥ b.toNat)) ∧
      gives .pand (.pand t) (pa && pb) ∧
      gives .por (.por t) (pa || pb) ∧
      gives .pxor (.pxor t) (xor pa pb)) ∧
  (
    ∀ (s : State) (t : Nat) (g : Group) (x : Thread) (w : Word),
      let n22 := bitsOf 21 0 w.toNat
      let n17 := bitsOf 16 0 w.toNat
      let off22 : Int := if n22 < 2 ^ 21 then (n22 : Int) else (n22 : Int) - 2 ^ 22
      let off17 : Int := if n17 < 2 ^ 16 then (n17 : Int) else (n17 : Int) - 2 ^ 17
      let linked : Thread := { x with s := if iD w = 0 then x.s else x.s.set (iD w) (x.pc + 4) }
      let next : Thread := { x with pc := x.pc + 4, ret := none, noAlloc := false }
      let gives (m : Mn) (c : Instr) (y : Thread) : Prop := Issues s t m g x w → exec c s = .next (threadNow s t y)
      gives .br (.br t) { x with pc := x.pc + BitVec.ofInt 64 (4 * off22) } ∧
      gives .jal (.jal t) { linked with pc := x.pc + BitVec.ofInt 64 (4 * off17) } ∧
      gives .jalr (.jalr t) { linked with pc := sGet x (iA w) } ∧
      gives .fret (.fret t) { x with hmode := false, pc := x.fpc } ∧
      gives .nop (.nopInstr t) next ∧
      (debugOpen s = false → gives .brk (.brk t) next) ∧
      (debugOpen s = true → gives .brk (.brk t) { next with hold := .debug }) ∧
      ∀ p ∈ taskInsns t, Skips s t p.1 g x w → exec p.2 s = .next (threadNow s t (stepped x)))

/-- R132, R133, R168 to R172. A load that is naturally aligned and that nothing refuses holds its thread: one of the
own scratchpad waits at the bank of its word, one of chip memory takes its core's L1 line where that is present and
otherwise asks for the 128-byte line, and any other goes where its address lies. A line of bad parity is dropped and
reported first, which changes nothing where there is none. One that is not aligned raises ALIGN; one that is refused
is counted and raises PROTECTION, both with its address. The model's own choices that it rests on: assumption 7. -/
def Obligations.LoadsIssue : Prop :=
  ∀ (s : State) (t : Nat) (g : Group) (x : Thread) (w : Word),
    let n12 := bitsOf 11 0 w.toNat
    let a := (sGet x (iA w) + BitVec.ofInt 64 (if n12 < 2 ^ 11 then (n12 : Int) else (n12 : Int) - 2 ^ 12)).toNat
    let seen (u : State) : State := l1Check u (coreOf t) (lineOf a)
    let gives (m : Mn) (c : Instr) (n : Nat) (signed : Bool) : Prop :=
      let acc : Access := { kind := .read, addr := a, len := n, src := launchSrc g, who := .load t }
      let held := threadNow s t { x with hold := .load (iD w) n signed a, ret := none, noAlloc := false }
      Issues s t m g x w → a % n = 0 → issueRefusal s acc = none →
        (isOwn s a = true → inSpm s (offsetOf a) n = true →
          exec c s = .next { held with xbr := s.xbr ++ [{ bank := bankOf (offsetOf a), acc := acc }] }) ∧
        (isChip a = false → exec c s = .next (threadAccess held acc)) ∧
        (isChip a = true → l1Find (seen held) (coreOf t) (lineOf a) = none →
          exec c s = .next (threadAccess (seen held) { acc with addr := lineOf a, len := 128 })) ∧
        (isChip a = true → ∀ l, l1Find (seen held) (coreOf t) (lineOf a) = some l →
          exec c s = .next (threadUpd (seen held) t fun x => { x with ret := some (l.bytes, 0), noAlloc := true })) ∧
        (isChip a = true → (∀ l ∈ s.l1, l.core = coreOf t → l.addr = lineOf a → l.bad = false) → seen held = held)
    let traps (m : Mn) (c : Instr) (n : Nat) : Prop := Issues s t m g x w →
      (a % n ≠ 0 → exec c s = .next (raiseFault s t 0x02 (BitVec.ofNat 64 a) 0)) ∧
      (a % n = 0 → ∀ why, issueRefusal s { kind := .read, addr := a, len := n, src := launchSrc g, who := .load t } = some why →
        exec c s = .next (raiseFault (noteRefusal s true (launchSrc g) a why) t 0x04 (BitVec.ofNat 64 a) 0))
    gives .ldb (.ldB t) 1 false ∧ gives .ldh (.ldH t) 2 false ∧ gives .ldw (.ldW t) 4 false ∧
    gives .ldd (.ldD t) 8 false ∧ gives .ldsb (.ldsB t) 1 true ∧ gives .ldsh (.ldsH t) 2 true ∧
    gives .ldsw (.ldsW t) 4 true ∧
    traps .ldb (.ldB t) 1 ∧ traps .ldh (.ldH t) 2 ∧ traps .ldw (.ldW t) 4 ∧ traps .ldd (.ldD t) 8 ∧
    traps .ldsb (.ldsB t) 1 ∧ traps .ldsh (.ldsH t) 2 ∧ traps .ldsw (.ldsW t) 4

/-- R132, R133, R135, R158, R178, R203, R206. The data of a load retires it: zero- or sign-extended into its register;
a chip-memory load takes its bytes from the line, which is allocated unless that is forbidden. An atomic returns the
old word, zero-extended. A failed answer faults with its cause and the address. What an answer brings to the thread
that asked: the data of a load or the cause of its failure; an acknowledged store is counted off, and the first failed
one is kept for the next fence. The model's own choices that it rests on: assumptions 39 and 53. -/
def Obligations.LoadDataReturns : Prop :=
  (
    ∀ (s : State) (t : Nat) (g : Group) (x : Thread),
      live s = true → threadAt s t = some (g, x) → g.state = 1 ∨ g.state = 2 →
      let done (s : State) (d : Nat) (v : Dword) : State := threadNow s t { wroteReg x d v with hold := .free }
      let value (n : Nat) (signed : Bool) (v : Nat) : Dword :=
        if signed = true ∧ 2 ^ (8 * n - 1) ≤ v then BitVec.ofInt 64 ((v : Int) - 2 ^ (8 * n)) else BitVec.ofNat 64 v
      (∀ (d n a : Nat) (signed : Bool) (bs : List Byte), 0 < n → x.hold = .load d n signed a → x.ret = some (bs, 0) →
        (isChip a = false → bs.length = n → exec (.loadData t) s = .next (done s d (value n signed (leNat bs)))) ∧
        (isChip a = true →
          let v := value n signed (leNat ((bs.drop (a % 128)).take n))
          (x.noAlloc = true → exec (.loadData t) s = .next (done s d v)) ∧
          (x.noAlloc = false → exec (.loadData t) s = .next (done (l1Alloc s (coreOf t) (lineOf a) bs) d v)))) ∧
      (∀ (d op width a n : Nat) (bs : List Byte), x.hold = .atomic d op width a → x.ret = some (bs, 0) →
        atomicWidth op width = some n →
        exec (.loadData t) s = .next (done s d (BitVec.ofNat 64 (leNat (bs.take n))))) ∧
      (∀ (d n a c : Nat) (signed : Bool) (bs : List Byte), x.hold = .load d n signed a → x.ret = some (bs, c + 1) →
        exec (.loadData t) s = .next (raiseFault s t (c + 1) (BitVec.ofNat 64 a) 0)) ∧
      (∀ (d op width a c : Nat) (bs : List Byte), x.hold = .atomic d op width a → x.ret = some (bs, c + 1) →
        exec (.loadData t) s = .next (raiseFault s t (c + 1) (BitVec.ofNat 64 a) 0))) ∧
  (
    ∀ (s : State) (a : Access) (t : Nat) (g : Group) (x : Thread), threadAt s t = some (g, x) →
      let fails (r : Resp) (c : Nat) : Prop :=
        (a.who = .load t → deliver s a r = threadNow s t { x with ret := some ([], c) }) ∧
        (a.who = .store t → deliver s a r = threadNow s t { x with unacked := x.unacked - 1, deferred :=
          (match x.deferred with
            | some d => some d
            | none => some (c, BitVec.ofNat 64 a.addr)) })
      (∀ bs, (a.who = .load t → deliver s a (.ok bs) = threadNow s t { x with ret := some (bs, 0) }) ∧
        (a.who = .store t → deliver s a (.ok bs) = threadNow s t { x with unacked := x.unacked - 1 })) ∧
      (∀ n, fails (.refused n) 0x04) ∧ fails .dataErr 0x05 ∧ fails .unreachable 0x06)

/-- R132, R133, R162, R196, R204. A store that is naturally aligned and that nothing refuses retires at issue with one
more write unacknowledged: its bytes wait at the bank of the own scratchpad; to chip memory they also go into the line
of its core's L1 where that is present. `st.c` names the counter its arrival advances. One that is not aligned raises
ALIGN; one that is refused is counted and raises PROTECTION, both with its address. A write that enters the queue of a
bank clears the retained planes loaded from its range. The model's own choices that it rests on: assumption 7. -/
def Obligations.StoresIssue : Prop :=
  ∀ (s : State) (t : Nat) (g : Group) (x : Thread) (w : Word),
    let n12 := bitsOf 11 0 w.toNat
    let arrives (u : State) (acc : Access) : Prop :=
      (bankQueue u acc).xbr = u.xbr ++ [{ bank := bankOf (offsetOf acc.addr), acc := acc }] ∧
      { bankQueue u acc with xbr := u.xbr, mxe := u.mxe } = u
    let gives (m : Mn) (c : Instr) (n a : Nat) (counter : Option Nat) : Prop :=
      let bs := toLe n (sGet x (iD w)).toNat
      let acc : Access := { kind := .write, addr := a, len := n, data := bs, counter := counter, src := launchSrc g, who := .store t }
      let held := threadNow s t { stepped x with unacked := x.unacked + 1 }
      Issues s t m g x w →
        (a % n = 0 → issueRefusal s acc = none →
          (isOwn s a = true → inSpm s (offsetOf a) n = true → exec c s = .next (bankQueue held acc) ∧ arrives held acc) ∧
          (isChip a = false → exec c s = .next (threadAccess held acc)) ∧
          (isChip a = true → counter = none →
            exec c s = .next (threadAccess (l1Store held (coreOf t) a bs) acc))) ∧
        (isChip a = false ∨ counter = none → a % n ≠ 0 → exec c s = .next (raiseFault s t 0x02 (BitVec.ofNat 64 a) 0)) ∧
        (isChip a = false ∨ counter = none → a % n = 0 → ∀ why, issueRefusal s acc = some why →
          exec c s = .next (raiseFault (noteRefusal s true (launchSrc g) a why) t 0x04 (BitVec.ofNat 64 a) 0))
    let a := (sGet x (iA w) + BitVec.ofInt 64 (if n12 < 2 ^ 11 then (n12 : Int) else (n12 : Int) - 2 ^ 12)).toNat
    let ac := (sGet x (iA w)).toNat
    gives .stb (.stB t) 1 a none ∧ gives .sth (.stH t) 2 a none ∧ gives .stw (.stW t) 4 a none ∧
    gives .std (.stD t) 8 a none ∧
    gives .stc (.stC t) 8 ac (some (bitsOf 11 0 (sGet x (iB w)).toNat)) ∧
    (Issues s t .stc g x w → isChip ac = true → exec (.stC t) s = .next (raiseFault s t 0x01 (w.setWidth 64) 0))

/-- R162, R206, R207, R208. An atomic whose operation and width the spec lists, naturally aligned and refused by
nothing, holds its thread until the old value returns; it takes the bank of the own scratchpad, and bypasses the L1,
whose line of its core it invalidates. A word that names another operation or width is ILLEGAL; one that is not
aligned raises ALIGN, and one that is refused is counted, by an ordered region too where it adds to one, and raises
PROTECTION. The model's own choices that it rests on: assumption 7. -/
def Obligations.AtomicsIssue : Prop :=
  ∀ (s : State) (t : Nat) (g : Group) (x : Thread) (w : Word),
    let a := (sGet x (iA w)).toNat
    let width := bitsOf 5 4 w.toNat
    let arrives (u : State) (acc : Access) : Prop :=
      (bankQueue u acc).xbr = u.xbr ++ [{ bank := bankOf (offsetOf acc.addr), acc := acc }] ∧
      { bankQueue u acc with xbr := u.xbr, mxe := u.mxe } = u
    let gives (m : Mn) (c : Instr) (op : Nat) : Prop :=
      Issues s t m g x w →
        (∀ n, atomicWidth op width = some n →
          let acc : Access := { kind := .atomic, addr := a, len := n, data := toLe n (sGet x (iB w)).toNat, op := op
                                width := width, compare := sGet x (iD w), src := launchSrc g, who := .load t }
          let held := threadNow s t { x with hold := .atomic (iD w) op width a, ret := none }
          (a % n = 0 → issueRefusal s acc = none →
            (isOwn s a = true → inSpm s (offsetOf a) n = true → exec c s = .next (bankQueue held acc) ∧ arrives held acc) ∧
            (isChip a = false → exec c s = .next (threadAccess held acc)) ∧
            (isChip a = true → exec c s = .next (threadAccess (l1Drop held (coreOf t) a n) acc))) ∧
          (a % n ≠ 0 → exec c s = .next (raiseFault s t 0x02 (BitVec.ofNat 64 a) 0)) ∧
          (a % n = 0 → ∀ why, issueRefusal s acc = some why →
            exec c s = .next
              (raiseFault (ordNoteRefused (noteRefusal s true (launchSrc g) a why) acc) t 0x04 (BitVec.ofNat 64 a) 0) ∧
            (op ≠ 7 → ordNoteRefused (noteRefusal s true (launchSrc g) a why) acc = noteRefusal s true (launchSrc g) a why))) ∧
        (atomicWidth op width).isSome = true
    (live s = true → threadAt s t = some (g, x) → g.state = 1 → x.ended = false → x.hold = .free → fetchWord g x = some w →
      fetchBad g x.pc.toNat = false → bitsOf 31 26 w.toNat = 0x29 → atomicWidth (bitsOf 3 0 w.toNat) width = none →
      exec (.illegal t) s = .next (raiseFault s t 0x01 (w.setWidth 64) 0)) ∧
    gives (.amo 0) (.amoAdd t) 0 ∧ gives (.amo 1) (.amoMin t) 1 ∧ gives (.amo 2) (.amoMax t) 2 ∧
    gives (.amo 3) (.amoMinu t) 3 ∧ gives (.amo 4) (.amoMaxu t) 4 ∧ gives (.amo 5) (.amoSwp t) 5 ∧
    gives (.amo 6) (.amoCas t) 6 ∧ gives .famoF32 (.famoAddF32 t) 7 ∧ gives .famoBf16 (.famoAddBf16 t) 7

/-- R131, R132, R161, R202, R203. `fence.r` and `exit` end once every write of their thread is acknowledged, and a
deferred refusal faults there; `gbar` holds its thread until each of the four has reached one or ended; `acq` and
`acq.all` drop the lines of their range from their core's L1 and from its fills. The model's own choices that it rests
on: assumptions 52 and 54. -/
def Obligations.FencesAndWaits : Prop :=
  ∀ (s : State) (t : Nat) (g : Group) (x : Thread) (w : Word),
    let threadsNow (y : Thread) : State := groupUpd s (t / 4) fun g => { g with threads := released (g.threads.set (t % 4) y) }
    (Stands s t .fencer g x w → (g.state = 1 ∧ (x.hold = .free ∨ x.hold = .fence)) →
      (x.unacked = 0 → x.deferred = none → exec (.fenceR t) s = .next (threadNow s t (stepped x))) ∧
      (x.unacked = 0 → ∀ c a, x.deferred = some (c, a) →
        exec (.fenceR t) s = .next (raiseFault (threadNow s t { x with deferred := none }) t c a 0)) ∧
      (x.unacked ≠ 0 → exec (.fenceR t) s = .next (threadNow s t { x with hold := .fence }))) ∧
    (Issues s t .exit g x w →
      (x.unacked = 0 → x.deferred = none →
        exec (.exitThread t) s = .next (threadsNow { x with ended := true, exitVal := (sGet x (iA w)).setWidth 16 })) ∧
      (x.unacked = 0 → ∀ c a, x.deferred = some (c, a) →
        exec (.exitThread t) s = .next (raiseFault (threadNow s t { x with deferred := none }) t c a 0)) ∧
      (x.unacked ≠ 0 → exec (.exitThread t) s = .next s)) ∧
    (Issues s t .gbar g x w → exec (.gbar t) s = .next (threadsNow { x with hold := .gbar })) ∧
    (let gone (u : State) (a n : Nat) : Prop :=
      u.l1 = s.l1.filter (fun l => !(l.core == t / 8 && overlap l.addr 128 a n)) ∧
      (threadAt u t).map (·.2) = some (stepped x) ∧ { u with groups := s.groups, l1 := s.l1 } = s ∧
      ∀ (i : Nat) (g' : Group) (y : Thread), i / 8 = t / 8 → threadAt u i = some (g', y) →
        ∀ d k sg b, y.hold = .load d k sg b → overlap (lineOf b) 128 a n = true → y.noAlloc = true
     (Issues s t .acq g x w → ∃ u, exec (.acq t) s = .next u ∧ gone u (sGet x (iA w)).toNat (sGet x (iB w)).toNat) ∧
     (Issues s t .acqall g x w → ∃ u, exec (.acqAll t) s = .next u ∧ gone u 0 (2 ^ 64)))

/-- R159. `cwait` takes the low twelve bits of `a` as an arrival counter of its own cluster: it ends with the
counter's value in `d` once the signed distance of that value from `b` is zero or more, and holds its thread till
then; where the upper half of `a` is not zero, that many counts since it began end it too, with the counter's value
and no fault. The model's own choices that it rests on: assumptions 3 and 54. -/
def Obligations.CounterWaitsEnd : Prop :=
  ∀ (s : State) (t : Nat) (g : Group) (x : Thread) (w : Word),
    let counter := bitsOf 11 0 (sGet x (iA w)).toNat
    let v := counterGet s counter
    let limit := bitsOf 63 32 (sGet x (iA w)).toNat
    let met : Prop := 0 ≤ (v - sGet x (iB w)).toInt
    Stands s t .cwait g x w → g.state = 1 →
      ((x.hold = .free ∨ ∃ c, x.hold = .cwait c) → met →
        exec (.cwait t) s = .next (threadNow s t { wroteReg x (iD w) v with hold := .free })) ∧
      (x.hold = .free → ¬met → exec (.cwait t) s = .next (threadNow s t { x with hold := .cwait s.osc })) ∧
      (∀ c, x.hold = .cwait c → ¬met → exec (.cwait t) s = .next s) ∧
      (∀ c, x.hold = .cwait c → limit ≠ 0 → ∃ n, s.osc ≤ n ∧ c + limit ≤ n ∧ exec (.cwaitLimit t) s = .next
        { threadNow s t { wroteReg x (iD w) v with hold := .free } with osc := n }) ∧
      (∀ c, x.hold = .cwait c → limit = 0 → exec (.cwaitLimit t) s = .next s)

/-- R129. `sysr` reads the system register its immediate names; `sysw` writes FHANDLER and FPC and clears the bits of
TSTAT it writes as one; every other number is ILLEGAL. The model's own choices that it rests on: assumption 44. -/
def Obligations.SystemRegisters : Prop :=
  ∀ (s : State) (t : Nat) (g : Group) (x : Thread) (w : Word),
    let n := bitsOf 11 0 w.toNat
    let a := sGet x (iA w)
    (Issues s t .sysr g x w →
      let reads (k : Nat) (v : Dword) : Prop := n = k → exec (.sysr t) s = .next (threadNow s t (wroteReg x (iD w) v))
      reads 0x000 (BitVec.ofNat 64 (t % 4 + 4 * (t / 4 % 2) + 8 * (t / 4 % 2) + 16 * (t / 8) + 256 * ownId s)) ∧
      reads 0x001 (BitVec.ofNat 64 s.osc) ∧ reads 0x010 (g.fhandler.setWidth 64) ∧ reads 0x011 x.fpc ∧
      reads 0x012 (x.fcause.setWidth 64) ∧ reads 0x013 x.finfo0 ∧ reads 0x014 x.finfo1 ∧
      reads 0x020 (g.tstart.setWidth 64) ∧ reads 0x021 (BitVec.ofNat 64 (leNat (g.tuse.map (BitVec.ofNat 8)))) ∧
      reads 0x022 (g.tstat.setWidth 64) ∧ reads 0x023 g.tstartAddr ∧ reads 0x024 (g.tstartStride.setWidth 64) ∧
      (∀ k < 8, reads (0x028 + k) (((g.tcfg[k]?).getD 0).setWidth 64)) ∧
      reads 0x030 (x.cstatus.setWidth 64) ∧
      (g.quad = none → reads 0x031 0) ∧ (∀ q, g.quad = some q → reads 0x031 (BitVec.ofNat 64 (16 + q))) ∧
      (n ∉ [0x000, 0x001, 0x010, 0x011, 0x012, 0x013, 0x014, 0x020, 0x021, 0x022, 0x023, 0x024, 0x028, 0x029, 0x02A,
          0x02B, 0x02C, 0x02D, 0x02E, 0x02F, 0x030, 0x031] →
        exec (.sysr t) s = .next (raiseFault s t 0x01 (w.setWidth 64) 0))) ∧
    (Issues s t .sysw g x w →
      (n = 0x010 → exec (.sysw t) s = .next
        (groupUpd (threadNow s t (stepped x)) (t / 4) fun g => { g with fhandler := a.setWidth 32 })) ∧
      (n = 0x011 → exec (.sysw t) s = .next (threadNow s t { stepped x with fpc := a })) ∧
      (n = 0x022 → exec (.sysw t) s = .next
        (groupUpd (threadNow s t (stepped x)) (t / 4) fun g => { g with tstat := g.tstat &&& ~~~ (a.setWidth 8) })) ∧
      (n ≠ 0x010 → n ≠ 0x011 → n ≠ 0x022 → exec (.sysw t) s = .next (raiseFault s t 0x01 (w.setWidth 64) 0)))

/-- R130, R134, R135, R136, R137. A word that is no instruction raises ILLEGAL and a PC outside the loaded image
raises PC_RANGE. A fault saves PC, cause and details; with a handler and outside handler mode the thread enters the
handler, otherwise the launch ends: its group is ENDING, with the status of the cause and the faulting thread. The
model's own choices that it rests on: assumptions 42 and 44. -/
def Obligations.FaultsTakeTheHandler : Prop :=
  ∀ (s : State) (t : Nat) (g : Group) (x : Thread), threadAt s t = some (g, x) →
    let handled : Prop := g.fhandler ≠ 0 ∧ x.hmode = false
    (∀ (c : Nat) (i0 i1 : Dword), handled → raiseFault s t c i0 i1 = handlerNext s t g x c i0 i1) ∧
    (∀ (c : Nat) (i0 i1 : Dword), ¬handled →
      let status := if c = 5 then 0x0012 else if c = 6 then 0x0013 else if c = 9 then 0x0004 else 0x0300 + c
      ∃ g', threadAt (raiseFault s t c i0 i1) t = some (g', { x with
        fpc := x.pc, fcause := BitVec.ofNat 8 c, finfo0 := i0, finfo1 := i1, hold := .free, ret := none, noAlloc := false }) ∧
      g'.state = 5 ∧ g'.lastCause = c ∧
      ∀ l, g.launch = some l → l.fate = none → g'.launch = some { l with fate := some (status, some (t % 4)) }) ∧
    (live s = true → g.state = 1 → x.ended = false → x.hold = .free →
      (fetchWord g x = none → exec (.pcRange t) s = .next (raiseFault s t 0x03 x.pc 0)) ∧
      (∀ w, fetchWord g x = some w → insnOf w = none → fetchBad g x.pc.toNat = false →
        exec (.illegal t) s = .next (raiseFault s t 0x01 (w.setWidth 64) 0)))

/-- R139, R141, R142, R143, R144, R149. A tile instruction is checked at issue against the TCFG that the queued writes
leave, and enters its group's queue; `tload`, `tstore`, `tget`, `tcfg`, `tcfgm`, `tbind` and `twait` hold their
thread, the others retire. `tcfgm` first reads its 32 bytes. The model's own choices that it rests on: assumptions 59
and 62. -/
def Obligations.TileInstructionsQueue : Prop :=
  ∀ (s : State) (t : Nat) (g : Group) (x : Thread) (w : Word),
    let cfg := tcfgAhead g
    let entry := (cfg[iTA w]?).getD 0
    let sa := sGet x (iSA w)
    let sb := sGet x (iSB w)
    let row := bitsOf 14 8 sa.toNat
    let rowGood : Prop := bitsOf 6 0 sa.toNat % 8 = 0 ∧ row < bitsOf 7 0 entry.toNat ∧ row % 4 = t % 4
    let gives (m : Mn) (c : Instr) (waits : Bool) (pre : Prop) : Prop :=
      Issues s t m g x w → pre → exec c s = .next (queued s t x w waits [])
    gives .tzero (.tzero t) false True ∧
    gives .tload (.tload t) true (entry ≠ 0) ∧
    gives .tstore (.tstore t) true (entry ≠ 0 ∧ ¬(bitOf 63 sb.toNat = true ∧ isChip sa.toNat = true)) ∧
    gives .tget (.tget t) true rowGood ∧
    gives .tput (.tput t) false rowGood ∧
    gives .twait (.twait t) true True ∧
    gives .tcfg (.tcfg t) true (tcfgOk (sa.setWidth 32) = true) ∧
    gives .tbind (.tbind t) true True ∧
    gives .tfree (.tfree t) false True ∧
    gives .tmma (.tmma t) false (mmaBad w cfg = none ∧ bindAhead g = none ∧ g.quad.isSome = true) ∧
    (Issues s t .tcfgm g x w → sa.toNat % 32 = 0 →
      let acc : Access := { kind := .read, addr := sa.toNat, len := 32, src := launchSrc g, who := .load t }
      issueRefusal s acc = none → isChip sa.toNat = false →
        exec (.tcfgm t) s = .next
          (threadAccess (threadNow s t { x with hold := .read sa.toNat, ret := none, noAlloc := false }) acc)) ∧
    (∀ (a : Nat) (bs : List Byte), Stands s t .tcfgm g x w → g.state = 1 → x.hold = .read a → isChip sa.toNat = false →
      x.ret = some (bs, 0) →
      let es := (List.range 8).map fun i => BitVec.ofNat 32 (fieldAt bs (4 * i) 4)
      (∀ e ∈ es, tcfgOk e = true) →
        exec (.tcfgm t) s = .next (queued s t { x with ret := none, noAlloc := false } w true es))

/-- R135, R139, R143, R144, R145, R151. A tile instruction whose check fails faults at issue and changes no queue: a
transfer of an unconfigured tile, a row or offset that `tget` and `tput` may not name, an invalid entry of `tcfg` and
`tcfgm` and each of the checks of a product raise TILE_SHAPE with the shapes that R144 reports, and its sixth never
fails alone, since the formats of the second and the fifth exclude it; an entry of an unlisted format raises
FORMAT_INVALID with the entry, a counted `tstore` to chip memory ILLEGAL, and a product that passes its checks without
a quad TILE_NOT_BOUND. The model's own choices that it rests on: assumption 58. -/
def Obligations.TileChecksArePrecise : Prop :=
  ∀ (s : State) (t : Nat) (g : Group) (x : Thread) (w : Word), g.fhandler ≠ 0 → x.hmode = false →
    let cfg := tcfgAhead g
    let entry := (cfg[iTA w]?).getD 0
    let row := bitsOf 14 8 (sGet x (iSA w)).toNat
    let off := bitsOf 6 0 (sGet x (iSA w)).toNat
    let shown (i : Nat) : Nat := i + 2 ^ 3 * bitsOf 20 0 ((cfg[i]?).getD 0).toNat
    let info0 (i : Nat) : Dword := BitVec.ofNat 64 (w.toNat + 2 ^ 32 * shown i)
    let requested (i1 : Dword) (e : Word) : Prop :=
      bitsOf 23 3 i1.toNat = bitsOf 20 0 e.toNat ∧ bitsOf 25 24 i1.toNat = 1
    let shape (c : Instr) : Prop := ∃ k i1,
      exec c s = .next (handlerNext { s with freeCtr := k } t g x 0x07 (info0 (iTA w)) i1) ∧ bitsOf 25 24 i1.toNat = 2
    (Issues s t .tload g x w → entry = 0 → shape (.tload t)) ∧
    (Issues s t .tstore g x w → entry = 0 → shape (.tstore t)) ∧
    (Issues s t .tstore g x w → entry ≠ 0 → bitOf 63 (sGet x (iSB w)).toNat = true → isChip (sGet x (iSA w)).toNat = true →
      exec (.tstore t) s = .next (handlerNext s t g x 0x01 (w.setWidth 64) 0)) ∧
    (∀ m c, (m, c) = (.tget, .tget t) ∨ (m, c) = (.tput, .tput t) → Issues s t m g x w →
      off % 8 ≠ 0 ∨ bitsOf 7 0 entry.toNat ≤ row ∨ row % 4 ≠ t % 4 →
        ∃ k i1, exec c s = .next (handlerNext { s with freeCtr := k } t g x 0x07 (info0 (iTA w)) i1) ∧
          bitsOf 10 3 i1.toNat = row ∧ bitsOf 18 11 i1.toNat = off ∧ bitsOf 25 24 i1.toNat = 1) ∧
    (Issues s t .tcfg g x w →
      let e : Word := (sGet x (iSA w)).setWidth 32
      (codeKnown (bitsOf 20 16 e.toNat) = false →
        exec (.tcfg t) s = .next (handlerNext s t g x 0x09 (w.setWidth 64) (e.setWidth 64))) ∧
      (codeKnown (bitsOf 20 16 e.toNat) = true → tcfgOk e = false → ∃ k i1,
        exec (.tcfg t) s = .next (handlerNext { s with freeCtr := k } t g x 0x07 (info0 (iTA w)) i1) ∧ requested i1 e)) ∧
    (∀ (a : Nat) (bs : List Byte), Stands s t .tcfgm g x w → g.state = 1 → x.hold = .read a →
      isChip (sGet x (iSA w)).toNat = false → x.ret = some (bs, 0) →
      let es := (List.range 8).map fun i => BitVec.ofNat 32 (fieldAt bs (4 * i) 4)
      (∀ e, es.find? (fun e => !codeKnown (bitsOf 20 16 e.toNat)) = some e →
        exec (.tcfgm t) s = .next (handlerNext s t g x 0x09 (w.setWidth 64) (e.setWidth 64))) ∧
      ((∀ e ∈ es, codeKnown (bitsOf 20 16 e.toNat) = true) → ∀ i e, es[i]? = some e → tcfgOk e = false →
        (∀ j < i, ∀ e', es[j]? = some e' → tcfgOk e' = true) → ∃ k i1,
          exec (.tcfgm t) s = .next (handlerNext { s with freeCtr := k } t g x 0x07 (info0 i) i1) ∧ requested i1 e)) ∧
    (Issues s t .tmma g x w →
      let at' (i : Nat) : Word := (cfg[i]?).getD 0
      let ta := iTA w
      let tb := iTB w
      let td := iTD w
      let fmt (i : Nat) : Fmt := fmtAt (bitsOf 20 16 (at' i).toNat)
      let rows (i : Nat) : Nat := bitsOf 7 0 (at' i).toNat
      let elems (i : Nat) : Nat := tElems (at' i)
      let trans := bitOf 9 w.toNat
      let red := if trans then rows tb else elems tb
      let cols := if trans then elems tb else rows tb
      let most := if fmtFp4Class (fmt ta) && fmtFp4Class (fmt tb) && !trans then 256 else 128
      let dests := (cols + 31) / 32
      let fits (i : Nat) : Prop := rows (td + i) = rows ta ∧ elems (td + i) = min 32 (cols - 32 * i) ∧
        fmt (td + i) = if fmt ta = .int8 then .int32 else .fp32
      let c1 : Prop := at' ta ≠ 0 ∧ at' tb ≠ 0 ∧ at' td ≠ 0
      let c2 : Prop := pairOk (fmt ta) (fmt tb) = true
      let c3 : Prop := elems ta = red ∧ red ≤ most
      let c4 : Prop := cols ≤ 128 ∧ td + dests ≤ 8
      let lone (i : Nat) : Prop := ∃ k i1,
        exec (.tmma t) s = .next (handlerNext { s with freeCtr := k } t g x 0x07 (info0 i) i1) ∧ bitsOf 25 24 i1.toNat = 2
      let pair (i j : Nat) : Prop :=
        exec (.tmma t) s = .next (handlerNext s t g x 0x07 (info0 i) (BitVec.ofNat 64 (shown j)))
      (at' ta = 0 → lone ta) ∧
      (at' ta ≠ 0 → at' tb = 0 → lone tb) ∧
      (at' ta ≠ 0 → at' tb ≠ 0 → at' td = 0 → lone td) ∧
      (c1 → ¬c2 → pair ta tb) ∧
      (c1 → c2 → ¬c3 → pair ta tb) ∧
      (c1 → c2 → c3 → ¬c4 → pair tb td) ∧
      (c1 → c2 → c3 → c4 → ∀ i < dests, ¬fits i → (∀ j < i, fits j) → pair ta (td + i)) ∧
      (c1 → c2 → c3 → c4 → (∀ i < dests, fits i) → ¬(td ≤ ta ∧ ta < td + dests) ∧ ¬(td ≤ tb ∧ tb < td + dests)) ∧
      (mmaBad w cfg = none ↔ c1 ∧ c2 ∧ c3 ∧ c4 ∧ ∀ i < dests, fits i)) ∧
    (Issues s t .tmma g x w → mmaBad w cfg = none → g.tq = [] → g.quad = none →
      exec (.tmma t) s = .next (handlerNext s t g x 0x08 (w.setWidth 64) 0))

/-- R140 to R143, R145, R146, R149, R150. The head of a group's tile queue executes and leaves the queue: `tzero`
empties its tile, `tput` stores up to eight bytes within the row and raises the use mark, `tget` answers the bytes of
its row with zeros beyond it, `tcfg` and `tcfgm` replace entries and empty their tiles, `twait` completes, `tfree`
gives up the quad. A bind answers the number of the quad its group holds; where it holds none, of the lowest
candidate, whose array turns to QUAD and whose work PTM admits, or all ones, or it waits. A product writes each
element of its destination and the reports of R150, and no other byte. A `tload` asks for its rows one by one and
stores each that has returned; a `tstore` writes up to eight rows at a time, a counted one a single row; each
completes after its last row. The model's own choices that it rests on: assumptions 7, 12, 61, 62, 138 and 159. -/
def Obligations.TileQueueExecutes : Prop :=
  ∀ (s : State) (gi : Nat) (g : Group) (o : TileOp) (os : List TileOp),
    live s = true → s.groups[gi]? = some g → g.state = 1 ∨ g.state = 2 ∨ g.state = 5 → g.tq = o :: os →
    let tile := iTA o.word
    let row := bitsOf 14 8 o.sa.toNat
    let off := bitsOf 6 0 o.sa.toNat
    let bpr := bitsOf 15 8 ((g.tcfg[tile]?).getD 0).toNat
    let after (p : Group → Prop) : Prop := ∃ u g', exec (.tileQueue gi) s = .next u ∧ u.groups[gi]? = some g' ∧ g'.tq = os ∧ p g'
    let answers (y : Thread) (v : Dword) : Prop := ∃ u, exec (.tileQueue gi) s = .next u ∧
      (u.groups[gi]?).map (·.tq) = some os ∧ (threadAt u (4 * gi + o.thread)).map (·.2) = some
        { stepped y with s := if iSB o.word = 0 then y.s else y.s.set (iSB o.word) v }
    (insnOf o.word = some .tzero → tile < g.tuse.length → after fun g' =>
      (∀ r b, r < 128 → b < 128 → tileByte g' tile r b = 0) ∧ g'.tuse[tile]? = some 0 ∧
      ∀ i r b, i ≠ tile → r < 128 → b < 128 → tileByte g' i r b = tileByte g i r b) ∧
    (insnOf o.word = some .tput → tile < g.tuse.length → off % 8 = 0 → after fun g' =>
      (∀ i r b, r < 128 → b < 128 → tileByte g' i r b =
        if i = tile ∧ r = row ∧ off ≤ b ∧ b < off + 8 ∧ b < bpr then
          BitVec.ofNat 8 (o.sb.toNat / 256 ^ (b - off)) else tileByte g i r b) ∧
      g'.tuse[tile]? = some (max (row + 1) ((g.tuse[tile]?).getD 0))) ∧
    (∀ y, g.threads[o.thread]? = some y → o.thread < 4 → y.hold = .tile o.n →
      (insnOf o.word = some .tget → g.tileBad = [] → answers y (BitVec.ofNat 64 (leNat ((List.range 8).map fun i =>
        if off + i < bpr then tileByte g tile row (off + i) else 0)))) ∧
      (∀ q, insnOf o.word = some .tbind → g.quad = some q → answers y (BitVec.ofNat 64 q)) ∧
      (insnOf o.word = some .twait → ∃ u, exec (.tileQueue gi) s = .next u ∧
        (u.groups[gi]?).map (·.tq) = some os ∧ (threadAt u (4 * gi + o.thread)).map (·.2) = some (stepped y)) ∧
      (insnOf o.word = some .tcfg → tile < g.tcfg.length → ∃ u g', exec (.tileQueue gi) s = .next u ∧
        u.groups[gi]? = some g' ∧ g'.tq = os ∧ g'.tcfg = g.tcfg.set tile (o.sa.setWidth 32) ∧
        g'.threads[o.thread]? = some (stepped y) ∧ ∀ r b, r < 128 → b < 128 → tileByte g' tile r b = 0)) ∧
    (insnOf o.word = some .tfree → after fun g' => g'.quad = none ∧ g'.tags = [] ∧ g'.feeder = none) ∧
    (∀ y, g.threads[o.thread]? = some y → o.thread < 4 → y.hold = .tile o.n → insnOf o.word = some .tcfgm →
      o.cfg.length = 8 → g.tcfg.length = 8 → ∃ u g', exec (.tileQueue gi) s = .next u ∧ u.groups[gi]? = some g' ∧
        g'.tq = os ∧ g'.tcfg = o.cfg ∧ g'.threads[o.thread]? = some (stepped y) ∧
        ∀ i r b, i < 8 → r < 128 → b < 128 → tileByte g' i r b = 0) ∧
    (∀ y, g.threads[o.thread]? = some y → o.thread < 4 → y.hold = .tile o.n → insnOf o.word = some .tbind → g.quad = none →
      let since := g.bindSince.getD s.nextId
      let turn : Prop := bindTurn s gi since = true
      (∀ q, turn → bindPick s (bitsOf 15 0 o.sa.toNat) = some q → wakeFor s (quadIslands q) = none → admitted s = true →
        answers y (BitVec.ofNat 64 q) ∧ ∃ u, exec (.tileQueue gi) s = .next u ∧
          (u.groups[gi]?).map (·.quad) = some (some q) ∧
          (q / 4 < s.mxe.modes.length → u.mxe.modes[q / 4]? = some 1)) ∧
      (¬turn ∨ bindPick s (bitsOf 15 0 o.sa.toNat) = none → bitOf 13 o.word.toNat = true → answers y (BitVec.ofInt 64 (-1))) ∧
      (¬turn ∨ bindPick s (bitsOf 15 0 o.sa.toNat) = none → bitOf 13 o.word.toNat = false → ∃ u,
        exec (.tileQueue gi) s = .next u ∧ u.groups[gi]? = some { g with bindSince := some since })) ∧
    (∀ q, insnOf o.word = some .tmma → mmaBad o.word g.tcfg = none → g.tuse.length = 8 → g.tileBad = [] → g.quad = some q →
      cellsBad s 1 (q / 4, q % 4) = false →
      let ea := (g.tcfg[iTA o.word]?).getD 0
      let eb := (g.tcfg[iTB o.word]?).getD 0
      let td := iTD o.word
      let m := bitsOf 7 0 ea.toNat
      let cols := if bitOf 9 o.word.toNat then tElems eb else bitsOf 7 0 eb.toNat
      let n := (cols + 31) / 32
      let ints := fmtAt (bitsOf 20 16 ea.toNat) = .int8
      let old (i c : Nat) : Nat := if bitOf 8 o.word.toNat then 0
        else leNat ((List.range 4).map fun b => tileByte g (td + c / 32) i (4 * (c % 32) + b))
      let terms (i c : Nat) : List (Val × Val) := (List.range (tElems ea)).map fun k => (tileElem g (iTA o.word) i k,
        if bitOf 9 o.word.toNat then tileElem g (iTB o.word) k c else tileElem g (iTB o.word) c k)
      let whole (i c : Nat) := accumulateInt (sext 32 (old i c)) ((terms i c).map fun p => intOf p.1 * intOf p.2)
      let sum (i c : Nat) := accumulate (bitOf 10 o.word.toNat) (ofFp32 (BitVec.ofNat 32 (old i c))) (terms i c)
      let some' (f : Nat → Nat → Bool) : Bool := (List.range m).any fun i => (List.range cols).any fun c => f i c
      m ≤ 128 → after fun g' =>
        (∀ i c b, i < m → c < cols → b < 4 → tileByte g' (td + c / 32) i (4 * (c % 32) + b) =
          BitVec.ofNat 8 ((if ints then wrapInt 32 (whole i c).1 else (toFp32 (sum i c).1).toNat) / 256 ^ b)) ∧
        (∀ i r b, r < 128 → b < 128 → ¬(td ≤ i ∧ r < m ∧ 32 * (i - td) + b / 4 < cols) →
          tileByte g' i r b = tileByte g i r b) ∧
        (∀ k < n, g'.tuse[td + k]? = some (max m ((g.tuse[td + k]?).getD 0))) ∧
        (∀ b < 5, g'.tstat.getLsbD b = (g.tstat.getLsbD b || some' fun i c => !decide ints && (sum i c).2.getLsbD b)) ∧
        g'.tstat.getLsbD 5 = (g.tstat.getLsbD 5 || some' fun i c => !decide ints && valNonfinite (sum i c).1) ∧
        g'.tstat.getLsbD 6 = (g.tstat.getLsbD 6 || some' fun i c => decide ints && (whole i c).2)) ∧
    (let rows := bitsOf 7 0 ((g.tcfg[tile]?).getD 0).toNat
     let at' (r : Nat) : Nat := rowAddr o.sa.toNat (xferStride o) r
     let acc (store : Bool) (r : Nat) : Access :=
       rowAccess g gi o r (if store then (List.range bpr).map (tileByte g tile r) else []) store
     let plain (store : Bool) (r : Nat) : Prop := isOwn s (at' r) = true ∧ inSpm s (offsetOf (at' r)) bpr = true ∧
       issueRefusal s (acc store r) = none
     let asks (u : State) (as' : List Access) : Prop :=
       u.xbr = s.xbr ++ as'.map fun a => { bank := bankOf (offsetOf a.addr), acc := a }
     let head (u : State) (p : TileOp → Prop) : Prop := ∃ g' o', u.groups[gi]? = some g' ∧ g'.tq = o' :: os ∧ p o'
     (insnOf o.word = some .tload → g.state = 1 → bitOf 15 g.tstart.toNat = false → o.begun = false → o.outstanding = 0 →
       o.failed = none → 0 < rows → plain false 0 → ∃ u, exec (.tileQueue gi) s = .next u ∧ asks u [acc false 0] ∧ head u fun o' =>
         o'.row = 0 ∧ o'.issued = 1 ∧ o'.outstanding = 1) ∧
     (insnOf o.word = some .tload → tile < g.tuse.length → o.begun = true → o.outstanding = 0 → o.failed = none →
       o.resumes = false → o.fills = [] → o.row < o.issued → o.row < 128 → bpr ≤ 128 →
       let stored (g' : Group) : Prop := (∀ i r b, r < 128 → b < 128 → tileByte g' i r b = if i = tile ∧ r = o.row ∧ b < bpr
           then mapGet (fun _ => (0 : Byte)) o.got (at' o.row + b) else tileByte g i r b) ∧
         g'.tuse[tile]? = some (max (o.row + 1) ((g.tuse[tile]?).getD 0))
       (o.row + 1 < rows → g.state = 1 → plain false (o.row + 1) → ∃ u, exec (.tileQueue gi) s = .next u ∧
         asks u [acc false (o.row + 1)] ∧ (∀ g', u.groups[gi]? = some g' → stored g') ∧ head u fun o' =>
           o'.row = o.row + 1 ∧ o'.issued = o.row + 2 ∧ o'.outstanding = 1) ∧
       (rows ≤ o.row + 1 → ∀ y, g.threads[o.thread]? = some y → o.thread < 4 → y.hold = .tile o.n → after fun g' =>
         stored g' ∧ g'.threads[o.thread]? = some (stepped y))) ∧
     (insnOf o.word = some .tstore → g.state = 1 → bitOf 15 g.tstart.toNat = false → o.begun = false → o.failed = none →
       0 < rows → g.tileBad = [] →
       let n := min (if bitOf 63 o.sb.toNat then 1 else 8) rows
       (∀ r < n, plain true r) → ∃ u, exec (.tileQueue gi) s = .next u ∧ asks u ((List.range n).map (acc true)) ∧
         head u fun o' => o'.row = 0 ∧ o'.issued = n ∧ o'.outstanding = o.outstanding + n) ∧
     (insnOf o.word = some .tstore → o.begun = true → o.outstanding = 0 → o.failed = none → o.resumes = false →
       rows ≤ o.row → ∀ y, g.threads[o.thread]? = some y → o.thread < 4 → y.hold = .tile o.n → after fun g' =>
         g'.tiles = g.tiles ∧ g'.threads[o.thread]? = some (stepped y)))

/-- R155, R157, R158, R159. `eissue`, once its 128 bytes are read, and `mcopy` hand DRE a descriptor at the launch's
class and return a ticket of a slot that was not pending; `ewait` and `etest` return the status of a ticket that is
complete, all ones for a slot since reused, and `etest` returns −2 for a pending one, which `ewait` awaits. The
model's own choices that it rests on: assumptions 40 and 56. -/
def Obligations.TicketInstructions : Prop :=
  ∀ (s : State) (t : Nat) (g : Group) (x : Thread) (w : Word),
    let a := (sGet x (iA w)).toNat
    let b := (sGet x (iB w)).toNat
    let retires (s : State) (v : Dword) : State := threadNow s t (wroteReg x (iD w) v)
    let issued (c : Instr) (bytes : List Byte) (record : Nat) (copy : Bool) : Prop := ∃ u slot k,
      exec c s = .next u ∧ slot < 16 ∧ g.tickets[slot]? = some k ∧ k.pending = false ∧
      (∃ g', threadAt u t = some (g', { wroteReg x (iD w) (BitVec.ofNat 64 (slot + 16 * (k.seq + 1))) with hold := .free }) ∧
        g'.tickets = g.tickets.set slot { seq := k.seq + 1, pending := true, valid := true }) ∧
      ∀ l, g.launch = some l → ∃ d, u.descs = s.descs ++ [d] ∧ d.id = s.nextId ∧ d.bytes = bytes ∧ d.phase = .fetched ∧
        d.cls = l.cls ∧ d.src = l.src ∧ d.issue = some
          { group := t / 4, slot := slot, seq := k.seq + 1, record := record, launch := l.desc, copy := copy }
    let free : Prop := ∃ i < 16, ∃ k, g.tickets[i]? = some k ∧ k.pending = false
    (Issues s t .mcopy g x w → g.launch.isSome = true → free →
      issued (.mcopy t) (copyImage (sGet x (iD w)).toNat a b) 0 true) ∧
    (∀ (h : Nat) (bs : List Byte), Stands s t .eissue g x w → g.state = 1 → x.hold = .read h → x.ret = some (bs, 0) →
      isChip a = false → g.launch.isSome = true → free → issued (.eissue t) bs b false) ∧
    (Issues s t .eissue g x w → a % 128 = 0 →
      let acc : Access := { kind := .read, addr := a, len := 128, src := launchSrc g, who := .load t }
      issueRefusal s acc = none → isChip a = false →
        exec (.eissue t) s = .next (threadAccess (threadNow s t { x with hold := .read a, ret := none, noAlloc := false }) acc)) ∧
    (∀ k, g.tickets[a % 16]? = some k → k.valid = true →
      (k.seq = a / 16 → k.pending = false →
        (Issues s t .ewait g x w → exec (.ewait t) s = .next (retires s (BitVec.ofNat 64 k.status))) ∧
        (Issues s t .etest g x w → exec (.etest t) s = .next (retires s (BitVec.ofNat 64 k.status)))) ∧
      (k.seq = a / 16 → k.pending = true →
        (Issues s t .ewait g x w → exec (.ewait t) s = .next s) ∧
        (Issues s t .etest g x w → exec (.etest t) s = .next (retires s (BitVec.ofInt 64 (-2))))) ∧
      (0 < a / 16 → a / 16 < k.seq →
        (Issues s t .ewait g x w → exec (.ewait t) s = .next (retires s (BitVec.ofInt 64 (-1)))) ∧
        (Issues s t .etest g x w → exec (.etest t) s = .next (retires s (BitVec.ofInt 64 (-1))))))

/-- R163, R246, R266. `cbar` and `cred` on a group that is not loaded end with DESC_INVALID in CSTATUS (the model's
choice), `cbar` with the status in its register; an operation that `cred` does not have is ILLEGAL; and a collective
that has ended writes its status, and its result where that is zero. The model's own choices that it rests on:
assumptions 47 and 48. -/
def Obligations.CollectiveInstructions : Prop :=
  ∀ (s : State) (t : Nat) (g : Group) (x : Thread) (w : Word),
    let a := (sGet x (iA w)).toNat
    let group := bitsOf 11 0 a
    let ends (v : Dword) (st : Nat) : Thread := { wroteReg x (iD w) v with hold := .free, cstatus := BitVec.ofNat 32 st }
    (Issues s t .cbar g x w → grpGet s group = none → exec (.cbar t) s = .next (threadNow s t (ends 1 1))) ∧
    (Issues s t .cred g x w → 4 < bitsOf 15 12 a → exec (.cred t) s = .next (raiseFault s t 0x01 (w.setWidth 64) 0)) ∧
    (Issues s t .cred g x w → bitsOf 15 12 a ≤ 4 → grpGet s group = none →
      ∃ v, exec (.cred t) s = .next (threadNow { s with freeCtr := s.freeCtr + 1 } t (ends v 1))) ∧
    (∀ (c : Nat) (started : Bool) (y : Desc), x.hold = .coll c started → g.state = 1 → descGet s c = some y →
      y.phase = .finished →
      let gone : State := { s with descs := s.descs.filter fun z => z.id != c }
      (Stands s t .cbar g x w → exec (.cbar t) s = .next (threadNow gone t (ends (BitVec.ofNat 64 y.status) y.status))) ∧
      (Stands s t .cred g x w → y.status = 0 → bitsOf 15 12 a ≤ 4 →
        let n := if bitsOf 15 12 a ≤ 2 then 8 else 4
        exec (.cred t) s = .next (threadNow gone t (ends (BitVec.ofNat 64 (leNat (y.body.take n))) 0))) ∧
      (Stands s t .cred g x w → y.status ≠ 0 → bitsOf 15 12 a ≤ 4 →
        ∃ v, exec (.cred t) s = .next (threadNow { gone with freeCtr := s.freeCtr + 1 } t (ends v y.status))))

/-- R126. A launch whose turn it is, with an idle group on a core it names and that core awake, takes the lowest such
group and completes its start: it copies the program image, from the own scratchpad at once and from elsewhere when
its reads have returned, and starts the four threads at PC 0 with the four arguments in s1 to s4, every other register
zero and every tile empty and unconfigured; nothing else of the state changes. The model's own choices that it rests
on: assumptions 96 and 140. -/
def Obligations.LaunchStarts : Prop :=
  ∀ (s : State) (d gi : Nat) (x : Desc) (g : Group),
    live s = true → descGet s d = some x → dop x = 0x50 → x.engine = .none → mayStart s x = true →
    pickGroup s x = some gi → s.groups[gi]? = some g → firstOf s x (fun y => dop y == 0x50 && namesGroup s y gi) = true →
    wakeFor s [68 + gi / 2] = none →
    let arg (i : Nat) : Dword := BitVec.ofNat 64 (dfield x (48 + 8 * i) 8)
    let thread (h : Hold) : Thread := { s := [0, arg 0, arg 1, arg 2, arg 3] ++ List.replicate 27 0, hold := h }
    let taken (im : List Byte) (h : Hold) : Group :=
      { state := 1
        launch := some { desc := x.id, ring := x.ring, cls := x.cls, src := x.src, prog := dfield x 40 8
                         progLen := dfield x 36 4, started := s.nextId }
        store := im
        fhandler := BitVec.ofNat 32 (dfield x 80 4)
        threads := List.replicate 4 (thread h)
        lastCause := g.lastCause, refused := g.refused }
    let with' (im : List Byte) (h : Hold) : State :=
      descUpd (groupUpd { s with nextId := s.nextId + 1 } gi fun _ => taken im h) d fun y =>
        { y with phase := .running, engine := .launch gi, runs := 1 }
    (OwnGood s (dfield x 40 8) (dfield x 36 4) → exec (.launch d) s =
      .next (gatherDrop (with' (spmBytes s (offsetOf (dfield x 40 8)) (dfield x 36 4)) .free) d)) ∧
    (isOwn s (dfield x 40 8) = false → 0 < dfield x 36 4 →
      let asked := gatherStart (with' [] .image) d (dfield x 40 8) (dfield x 36 4)
      gatherGet asked d (dfield x 40 8) (dfield x 36 4) = .waiting → exec (.launch d) s = .next asked) ∧
    (∀ (u : State) (h : Group) (im : List Byte), live u = true → u.par = s.par → isOwn u (dfield x 40 8) = false →
      0 < dfield x 36 4 → descGet u d = some { x with phase := .running, engine := .launch gi, runs := 1 } →
      u.groups[gi]? = some { h with threads := List.replicate 4 (thread .image) } → h.state = 1 →
      (u.gathers.any fun k => k.owner == d && k.addr == dfield x 40 8 && k.len == dfield x 36 4) = true →
      gatherGet u d (dfield x 40 8) (dfield x 36 4) = .bytes im →
      exec (.launch d) u = .next (gatherDrop (groupUpd u gi fun _ =>
        { h with store := im, threads := List.replicate 4 (thread .free) }) d))

/-- R127, R137, R155. A launch whose four threads have ended, or that a fault or an abort ends, completes once its
tile queue and its writes have drained: its group is idle, its tiles and quad given up, and its descriptor ends with
success and the exit values, or with the status of what ended it. The model's own choices that it rests on: assumption
140. -/
def Obligations.LaunchEnds : Prop :=
  ∀ (s : State) (gi : Nat) (g : Group) (l : Launch), live s = true → s.groups[gi]? = some g → g.launch = some l →
    groupDrained g = true → Undisturbed s l.desc →
    let idle (u : State) : Prop := u.groups[gi]? = some { lastCause := g.lastCause, refused := g.refused }
    (g.state = 1 → (∀ x ∈ g.threads, x.ended = true) →
      ∃ u, exec (.launchComplete gi) s = .next (stewardAct u) ∧ idle u ∧ EndedWith u l.desc 0 ∧
        (descGet u l.desc).map (·.body) = some ((g.threads.map fun x => toLe 2 x.exitVal.toNat).flatten ++ toLe 12 0)) ∧
    (∀ st th, g.state = 5 → l.fate = some (st, th) →
      ∃ u, exec (.launchEnd gi) s = .next (stewardAct u) ∧ idle u ∧ EndedWith u l.desc st)

/-- R154, R155. The group commands: SUSPEND stops a running group's threads and abandons their waits, ABORT ends a
launch with ABORTED and completes a suspended one at once, and each is refused, with CMD_REFUSED, where the spec says
so. The model's own choices that it rests on: assumptions 50, 67 and 139. -/
def Obligations.GroupCommands : Prop :=
  ∀ (s : State) (m : Master) (gi : Nat) (g : Group), s.groups[gi]? = some g → gi < 2 * s.par.taskCores → gi < 32 →
    Admits s m .write (0x600400 + 0x20 * gi) →
    let save := regPair s (0x600408 + 0x20 * gi)
    let saveGood : Prop := isOwn s save = true ∧ save % 128 = 0 ∧ inNear s (offsetOf save) 1 = true
    let turns (c : Instr) (p : Group → Prop) : Prop := ∃ u g', exec c s = .next u ∧ u.groups[gi]? = some g' ∧ p g'
    let refused (c : Instr) : Prop := turns c fun g' => g' = { g with refused := true }
    (g.state = 1 → saveGood → turns (.suspendGroup m gi) fun g' =>
      g'.state = 2 ∧ g'.refused = false ∧ g'.bindSince = none ∧ g'.launch = g.launch ∧ g'.tiles = g.tiles ∧
      (∀ (k : Nat) (x : Thread), g.threads[k]? = some x → x.hold = .gbar ∨ (∃ c, x.hold = .cwait c) →
        g'.threads[k]? = some { x with hold := .free }) ∧
      (∀ (k : Nat) (x : Thread), g.threads[k]? = some x → x.hold = .free ∨ x.hold = .fence → g'.threads[k]? = some x)) ∧
    (¬(g.state = 1 ∧ saveGood) → refused (.suspendGroup m gi)) ∧
    (g.state = 0 ∨ ¬saveGood → refused (.abortLaunch m gi)) ∧
    (g.state ≠ 0 → g.state ≠ 4 → refused (.resumeGroup m gi)) ∧
    (g.state = 0 → ¬saveGood → refused (.resumeGroup m gi)) ∧
    (saveGood → g.state = 1 ∨ g.state = 2 ∨ g.state = 4 → ∀ l, g.launch = some l → l.fate = none →
      turns (.abortLaunch m gi) fun g' => g'.state = 5 ∧ g'.refused = false ∧
        g'.launch = some { l with fate := some (0x0018, none) } ∧ g'.tq = g.tq.filter (·.begun)) ∧
    (saveGood → g.state = 3 → ∀ l, g.launch = some l → Undisturbed s l.desc →
      ∃ u, exec (.abortLaunch m gi) s = .next (stewardAct u) ∧ EndedWith u l.desc 0x0018 ∧
        u.groups[gi]? = some { lastCause := g.lastCause, refused := false })

/-- R155, R156. A suspending group whose queue, writes, tickets and collectives have settled writes its save area and
is SUSPENDED without a quad; RESUME of an idle group from the save area of a suspended launch that held no quad frees
the group that held it and goes on with the saved threads, tile configuration and image. The model's own choices that
it rests on: assumptions 30, 49, 51, 135 and 139. -/
def Obligations.SuspendAndResume : Prop :=
  ∀ (s : State) (gi : Nat) (g : Group), s.groups[gi]? = some g →
    let save := offsetOf (regPair s (0x600408 + 0x20 * gi))
    (∀ (l : Launch) (c : Word), Canon s → live s = true → g.state = 2 → g.launch = some l → groupDrained g = true →
      groupWaits g = false → (∀ x ∈ g.threads, x.hold = .free ∨ x.hold = .debug) → saveCstatus g = some c →
      g.saving = .no → s.inject = none →
      let area := saveArea g l (toLe 4 c.toNat)
      area.length ≤ saveRoom s save → OwnClear s (regPair s (0x600408 + 0x20 * gi)) area.length →
      ∃ u, exec (.suspendDone gi) s = .next (stewardAct u) ∧
        u.groups[gi]? = some { g with
          state := 3, quad := none, tags := [], feeder := none, bindSince := none, saved := (save, area.length)
          saveWild := false } ∧
        spmBytes u save area.length = area) ∧
    (∀ (m : Master) (old : Nat), gi < 2 * s.par.taskCores → gi < 32 → Admits s m .write (0x600400 + 0x20 * gi) →
      g.state = 0 → saveOk s (regPair s (0x600408 + 0x20 * gi)) = true →
      saveRoom s save = 132608 → Quiet s save 132608 →
      let bs := spmBytes s save 132608
      suspendedGroup s (fieldAt bs 0x5CC 8) = some old → (∀ o, s.groups[old]? = some o → o.saveWild = false) →
      wakeFor s [68 + gi / 2] = none →
      OwnGood s (regPair s (0x600408 + 0x20 * gi)) (areaLen s save) → OwnGood s (fieldAt bs 0x5C0 8) (fieldAt bs 0x5C8 4) →
      bitOf 0 (fieldAt bs 0x4A6 1) = false →
      ∃ u g', exec (.resumeGroup m gi) s = .next u ∧ u.groups[gi]? = some g' ∧ g'.state = 1 ∧ g'.refused = false ∧
        g'.threads = (List.range 4).map (loadThread bs) ∧
        g'.tcfg = (List.range 8).map (fun i => BitVec.ofNat 32 (fieldAt bs (0x480 + 4 * i) 4)) ∧
        g'.store = spmBytes s (offsetOf (fieldAt bs 0x5C0 8)) (fieldAt bs 0x5C8 4) ∧ g'.quad = none ∧
        (g'.launch.map (·.desc)) = some (fieldAt bs 0x5CC 8) ∧ u.groups[old]?.map (·.state) = some 0)

/-- R328, R318, R329, R368. PORESET_N takes everything but the fuses and the device to its reset state; a warm reset
alone keeps the oscillator, scratchpad, the corrected-error counts, the wear ledger, EEU_FATAL and WIDX with RIDX
equal to it; the release of the last asserted input samples RECOVERY, notes in CSU_BOOT which reset it was, and gives
every chip-memory channel its credits. The model's own choices that it rests on: assumption 112. -/
def Obligations.ResetInputs : Prop :=
  ∀ s : State,
    (s.boot.imageBusy = none → exec .poresetN s = .next { State.reset with
      pending := s.pending, freeCtr := s.freeCtr, nextId := s.nextId, readout := s.readout, par := s.par
      fuses := s.fuses, fusesSensed := s.fusesSensed, nor := s.nor
      boot := { warm := s.boot.warm, attnIn := s.boot.attnIn }
      power := { alert := s.power.alert } }) ∧
    (∃ u, exec .poresetN s = .next u ∧ u.boot.por = true ∧ u.osc = 0 ∧ u.regs = [] ∧ u.spm = [] ∧ u.counters = [] ∧
      u.descs = [] ∧ u.groups = List.replicate 32 {} ∧ u.dre = {} ∧ u.fuses = s.fuses) ∧
    (s.boot.por = false → ∃ u, exec .warmresetN s = .next u ∧ u.boot.warm = true ∧ u.osc = s.osc ∧ u.spm = s.spm ∧
      u.spmBad = s.spmBad ∧ u.corr = s.corr ∧ u.power.credit10 = s.power.credit10 ∧ u.counters = [] ∧ u.descs = [] ∧
      u.groups = List.replicate 32 {} ∧ u.dre = {} ∧
      (∀ o ∈ [0xC00030, 0xC00034, 0xC00038, 0xC0003C, 0xB00044, 0xB0004C], regGet u o = regGet s o) ∧
      regGet u 0xC00014 = logW s + 65536 * logW s ∧
      ∀ o, o ∉ [0xC00014, 0xC00030, 0xC00034, 0xC00038, 0xC0003C, 0xB00044, 0xB0004C] →
        regGet u o = (regReset o).toNat) ∧
    (Canon s → s.boot.por = true ∨ s.boot.warm = true → ∀ strap, ∃ u, exec (.resetRelease strap) s = .next u ∧
      u.boot.por = false ∧ u.boot.warm = false ∧ u.boot.strap = strap ∧
      bitOf 9 (regGet u 0x200010) = !s.boot.por ∧
      (s.cmp.chans = List.replicate 8 {} → u.cmp.chans = List.replicate 8
        { giveReq := 31, giveRsp := 31, wire := some (none, true, true), txReq := true }))

/-- R330, R331, R332, R337, R344, R345. The boot stages in their order: fuse sensing, self-test, discovery of the
flash device, settings and image, each to the next stage, to FAILED, or to recovery with its reason. After PORESET_N
the self-test leaves scratchpad zero. The model's own choices that it rests on: assumptions 10, 11, 113 and 118. -/
def Obligations.BootStages : Prop :=
  ∀ s : State, Canon s → live s = true →
    (∀ (v : State) (why : Nat), why < 8 → bitOf 0 (regGet v 0x200070) = false →
      stage (toRecovery v why) = 7 ∧ regBits (toRecovery v why) 0x200010 6 4 = why ∧ (toRecovery v why).ftab = []) ∧
    (stage s = 0 → ∀ agree, ∃ u, exec (.fusesStage agree) s = .next u ∧ stage u = (if agree then 1 else 8) ∧
      (agree = true → u.fusesSensed = s.fuses)) ∧
    (stage s = 1 → ∀ failing, ∃ u, exec (.selftestStage failing) s = .next u ∧
      let paired : Prop := ∀ c ∈ s.fusesSensed.dies, c = some s.fusesSensed.pairing
      (paired → stage u = (if failing = 0 then 2 else 8) ∧ regBits u 0x200010 23 16 = failing.toNat) ∧
      (¬paired → stage u = 8 ∧ regBits u 0x200010 23 16 = (failing ||| 0x80).toNat) ∧
      (bitOf 9 (regGet s 0x200010) = false → u.spm = [] ∧ u.spmBad = [] ∧ u.spmLost = none) ∧
      (bitOf 9 (regGet s 0x200010) = true → u.spm = s.spm ∧ u.spmBad = s.spmBad)) ∧
    (stage s = 2 → ∀ dev : Option Sfdp,
      let good : Prop := ∃ d, dev = some d ∧ 6 ≤ d.bfptMinor ∧ 16 ≤ d.sizeMiB ∧ ∃ e ∈ d.eraseKiB, 0 < e ∧ e ≤ 64
      (good → ∃ u, exec (.flashStage dev) s = .next u ∧ stage u = 3 ∧ ∀ d, dev = some d →
        regBits u 0x200010 29 28 = if d.has144 then 2 else if d.has114 then 1 else 0) ∧
      (¬good → exec (.flashStage dev) s = .next (toRecovery (romRing0 s) 2))) ∧
    (stage s = 3 → ∃ u, exec .settingsStage s = .next (if s.boot.strap then toRecovery u 1 else setStage u 4) ∧
      u.ftab = [] ∧ regPair u 0x200048 = (bankState s).epoch ∧
      (∃ r, ringGet u 0 = some r ∧ r.state = 1 ∧ r.log2 = 9 ∧ r.depth = 1 ∧ r.head = 0 ∧ r.tail = 0) ∧
      (∀ n, ringGet u (n + 1) = none) ∧ u.boot.confirmMs = setField ((currentRecord s).map (·.2)) 80 2 3 1000
        (fun v => 10 ≤ v && v ≤ 60000)) ∧
    (stage s = 4 → (bankState s).trial = false →
      let passes (n : Nat) : Prop := stateOfBank (bankState s) n = 2 ∧
        (imageReason s (bankImage s n).1 (bankImage s n).2).1 = 0
      let a := (bankState s).active
      (a < 2 → passes a → ∃ u, exec .imageStage s = .next u ∧ stage u = 5 ∧ runBank u = a) ∧
      (a < 2 → ¬passes a → passes (1 - a) → ∃ u, exec .imageStage s = .next u ∧ stage u = 5 ∧ runBank u = 1 - a) ∧
      (¬passes a → ¬passes (1 - a) → ∃ u, exec .imageStage s = .next (toRecovery u 3)))

/-- R346, R347, R348. The image descriptors while no other one runs: each starts on the device or ends; an erase or a
program of the running bank, or while a switch is on, fails with reason 11 and ACCESS_REFUSED; a verified image is
staged whole; a schedule names, cancels or starts a switch; and a settings record is checked before it is stored. The
model's own choices that it rests on: assumptions 10 and 117. -/
def Obligations.ImageDescriptors : Prop :=
  ∀ (s : State) (d : Nat) (x : Desc), Canon s → descGet s d = some x → mayStart s x = true → imgFree s = true →
    firstOf s x (fun y => 0xF0 ≤ dop y) = true → x.disturbed = false → x.rejected = false →
    let bank := bitOf 0 (dfield x 32 1)
    let b := boolBit bank
    let busy : Prop := (stage s = 5 ∧ runBank s = b) ∨ 3 ≤ imgState s
    let source := dfield x 48 8
    let runs (u : State) (aux : List Byte) : Prop := u.boot.imageBusy = some d ∧
      (descGet u d).map (fun y => (y.phase, y.engine, y.aux)) = some (.running, .image 1, aux)
    let fails (c : Instr) (reason : Nat) : Prop := ∃ u, exec c s = .next u ∧ EndedWith u d 0x0010 ∧
      regBits u 0x200040 7 4 = reason ∧ u.boot.imageBusy = none
    (dop x = 0xF0 → (¬busy → ∃ u, exec (.imgErase d) s = .next u ∧ runs u x.aux) ∧ (busy → fails (.imgErase d) 11)) ∧
    (dop x = 0xF1 → (¬busy → OwnGood s source (dfield x 40 4) →
        ∃ u, exec (.imgWrite d) s = .next u ∧ runs u (spmBytes s (offsetOf source) (dfield x 40 4))) ∧
      (busy → fails (.imgWrite d) 11)) ∧
    (dop x = 0xF2 → (busy → fails (.imgVerify d) 11) ∧
      (¬busy → ∃ u, exec (.imgVerify d) s = .next u ∧ imgState u = 1 ∧ u.boot.imageBusy = some d ∧
        (descGet u d).map (fun y => (y.phase, y.engine)) = some (.running, .image 0))) ∧
    (dop x = 0xF3 →
      let e := dfield x 56 8
      (e = 0 → ∃ u, exec (.imgSchedule d) s = .next u ∧ EndedWith u d 0 ∧ regPair u 0x200050 = 0 ∧
        (imgState s = 3 → imgState u = 2)) ∧
      (e ≠ 0 → e ≤ regPair s 0x200048 ∨ s.boot.staged = none ∨ 4 ≤ imgState s → fails (.imgSchedule d) 12) ∧
      (regPair s 0x200048 < e → s.boot.staged.isSome = true → imgState s < 4 → ∃ u, exec (.imgSchedule d) s = .next u ∧ EndedWith u d 0 ∧
        (bitOf 1 (dfield x 32 1) = false → imgState u = 3 ∧ regPair u 0x200050 = e) ∧
        (bitOf 1 (dfield x 32 1) = true → imgState u = 4 ∧ u.dre.stopFetch = true))) ∧
    (dop x = 0xF4 → OwnGood s source 16 →
      let n := fieldAt (spmBytes s (offsetOf source) 16) 6 2
      (n < 48 ∨ 4096 < n → fails (.settingsWrite d) 14) ∧
      (48 ≤ n → n ≤ 4096 → rangeRefusal s x.src source n .read = none → OwnGood s source n →
        let bs := spmBytes s (offsetOf source) n
        (settingsOk bs = true → ∃ u, exec (.settingsWrite d) s = .next u ∧ runs u bs) ∧
        (settingsOk bs = false → fails (.settingsWrite d) 14)))

/-- R347, R353. When the device ends, an erased bank reads FFH, a programmed one what was written where it was erased
before, and the descriptor ends with success; a device failure is reason 13 and DATA_PARITY. IDENTIFY to the own
unbacked scratchpad writes the identity block and ends. The model's own choices that it rests on: assumptions 10, 116
and 117. -/
def Obligations.ImageCompletions : Prop :=
  ∀ (s : State) (d : Nat) (x : Desc), Canon s → live s = true → descGet s d = some x → x.disturbed = false → x.rejected = false →
    (x.phase = .running → x.engine = .image 1 → s.boot.imageBusy = some d →
      let b := boolBit (bitOf 0 (dfield x 32 1))
      let at' := bankAt b + dfield x 36 4
      let ends (u : State) (st : Nat) : Prop := EndedWith u d st ∧ u.boot.imageBusy = none
      (dop x = 0xF0 → ∃ u, exec (.flashDone true) s = .next u ∧ ends u 0 ∧
        ∀ a, bankAt b ≤ a → a < bankAt b + bankSize → norByte u a = 0xFF) ∧
      (dop x = 0xF1 → (∀ i < x.aux.length, norByte s (at' + i) = 0xFF) →
        ∃ u, exec (.flashDone true) s = .next u ∧ ends u 0 ∧ norBytes u at' x.aux.length = x.aux) ∧
      (dop x = 0xF4 → ∃ u, exec (.flashDone true) s = .next u ∧ ends u 0 ∧ u.nor = (storeRecord s x.aux).nor) ∧
      (dop x = 0xF0 ∨ dop x = 0xF1 ∨ dop x = 0xF4 → ∃ u, exec (.flashDone false) s = .next u ∧ ends u 0x0012 ∧
        regBits u 0x200040 7 4 = 13)) ∧
    (dop x = 0xF2 → x.phase = .running → x.engine = .image 0 → x.wrote = [] → x.unacked = 0 → s.inject = none →
      let b := boolBit (bitOf 0 (dfield x 32 1))
      let source := dfield x 48 8
      let im := bankImage s b
      let r := imageReason s im.1 im.2
      (r.1 ≠ 0 → r.1 < 16 → ∃ u, exec (.imgVerify d) s = .next u ∧ EndedWith u d 0x0010 ∧
        regBits u 0x200040 7 4 = r.1 ∧ imgState u = (if s.boot.staged = none then 0 else 2) ∧ u.boot.imageBusy = none) ∧
      (r.1 = 0 → stagingFault s source im.1 im.2 = none → OwnClear s source im.2.length →
        ∃ u, exec (.imgVerify d) s = .next u ∧ EndedWith u d 0 ∧ imgState u = 2 ∧
          u.boot.staged = some (b, offsetOf source, im.2.length) ∧
          spmBytes u (offsetOf source) im.2.length = im.2)) ∧
    (mayStart s x = true → imgFree s = true → firstOf s x (fun y => 0xF0 ≤ dop y) = true → dop x = 0xF5 →
      x.unacked = 0 → s.inject = none →
      let off := offsetOf (dfield x 48 8)
      OwnFree s (dfield x 48 8) 320 →
      ∃ u, exec (.identify d) s = .next u ∧ EndedWith u d 0 ∧
        spmBytes u off 320 = identityBlock s ((x.bytes.drop 64).take 48))

/-- R349, R350, R351. A front that matches the schedule starts the switch and any other is counted; a drained switch
whose staged body still has its digest starts the new bank in TRIAL, and one whose body has not, or a part of which is
refused at its target, goes back to STAGED with reason 10; CONFIRM ends a trial, and REVERT or the confirmation limit
begins a revert, which once drained restarts the other bank; a request of the attention input is acted on when either
has ended; the drain limit aborts the launches that still run. The model's own choices that it rests on: assumptions
3, 10, 117, 120, 128 and 171. -/
def Obligations.ActivationAtAFront : Prop :=
  ∀ s : State, Canon s → live s = true →
    (∀ (m : Master) (v : Word), Admits s m .write 0x20005C → masterPriv s m = true →
      let f := v.toNat * 2 ^ 32 + s.boot.frontLo.toNat
      (imgState s = 3 → f = regPair s 0x200050 → s.boot.staged.isSome = true →
        ∃ u, exec (.activationFront m v) s = .next u ∧ imgState u = 4 ∧ u.dre.stopFetch = true ∧ u.boot.front.toNat = f) ∧
      (imgState s ≠ 3 ∨ f ≠ regPair s 0x200050 → ∃ u, exec (.activationFront m v) s = .next u ∧
        regGet u 0x200064 = min (regGet s 0x200064 + 1) 0xFFFFFFFF ∧ imgState u = imgState s)) ∧
    (∀ (b off n : Nat), switchDrained s = true → imgState s = 4 → s.boot.staged = some (b, off, n) → b < 2 →
      Quiet s off n → ordOver s off n = none →
      let digest := (norBytes s (bankAt b) 512).drop 56 |>.take 48
      let body := spmBytes s off n
      let stop := partStop s (norBytes s (bankAt b) 512) body
      (spmBadIn s off n = none → digestBytes (Config.sha384 body) = digest → stop = none →
        ∃ u, exec .activationSwitch s = .next u ∧ imgState u = 5 ∧ stage u = 5 ∧ runBank u = b ∧
          regPair u 0x200048 = s.boot.front.toNat ∧ u.dre.stopFetch = false) ∧
      (digestBytes (Config.sha384 body) ≠ digest ∨ (∃ t, stop = some (.refused t)) →
        ∃ u, exec .activationSwitch s = .next (attnRom u) ∧ imgState u = 2 ∧ regBits u 0x200040 7 4 = 10 ∧
          u.dre.stopFetch = false)) ∧
    (switchDrained s = true → imgState s = 6 → runBank s < 2 →
      let old := 1 - runBank s
      let stop := partStop s (bankImage s old).1 (bankImage s old).2
      let good : Prop := (imageReason s (bankImage s old).1 (bankImage s old).2).1 = 0 ∧ stop = none
      let bad : Prop := (imageReason s (bankImage s old).1 (bankImage s old).2).1 ≠ 0 ∨ ∃ t, stop = some (.refused t)
      (good → ∃ u, exec .activationSwitch s = .next u ∧ imgState u = 0 ∧ u.dre.stopFetch = false ∧ stage u = 5 ∧
        runBank u = old) ∧
      (bad → ∃ u, exec .activationSwitch s = .next (resumeFetch (toRecovery u 3)) ∧ imgState u = 0)) ∧
    (∀ m : Master, Admits s m .write 0x200060 → masterPriv s m = true → imgState s = 5 → regGet s 0x200060 % 4 = 0 →
      (∃ u, exec (.confirm m) s = .next u ∧ imgState u = 0) ∧
      (∃ u, exec (.revert m) s = .next u ∧ imgState u = 6 ∧ u.dre.stopFetch = true)) ∧
    (imgState s = 5 → ∃ u, exec .confirmTimeout s = .next u ∧ imgState u = 6 ∧ u.dre.stopFetch = true ∧
      s.boot.trialFrom + 1000000 * s.boot.confirmMs ≤ u.osc) ∧
    (imgState s = 4 ∨ imgState s = 6 → ∃ u, exec .drainLimit s = .next u ∧
      ∀ (i : Nat) (g : Group), i < 32 → s.groups[i]? = some g → g.state = 1 ∨ g.state = 2 ∨ g.state = 4 →
        ∀ l, g.launch = some l → l.fate = none →
          ∃ g', u.groups[i]? = some g' ∧ g'.state = 5 ∧ g'.launch = some { l with fate := some (0x0018, none) })

/-- R219, R220, R221. A doorbell that reaches DRE: with a reserved bit, a ring out of range, a DISABLED ring or a tail
beyond the ring's size it is refused, counted and recorded and changes nothing of DRE; otherwise it raises the tail
where it lies further ahead, or is absorbed; between steps 10 and 13 of a retirement it is kept for step 13. The
model's own choices that it rests on: assumptions 1 and 153. -/
def Obligations.DoorbellRules : Prop :=
  ∀ (s : State) (m : Master) (value : Dword), Canon s → m ≠ .debug →
    let src := (match m with
      | .agent src => src.toNat
      | _ => ownId s)
    (match m with
      | .agent _ => serving s
      | _ => live s && !s.boot.stewardBad) = true →
    masterRefusal s m { kind := .write, addr := ownAddr s bellBase, len := 8, src := src } = none →
    let ring := value.toNat % 2 ^ 18
    let tail := value.toNat / 2 ^ 32 % 2 ^ 16
    let reserved : Prop := value.toNat / 2 ^ 18 % 2 ^ 14 ≠ 0 ∨ value.toNat / 2 ^ 48 ≠ 0
    let refuses (reason : Nat) : Prop := ∃ u, exec (.doorbell m value) s = .next u ∧ u.dre = s.dre ∧
      regGet u 0x300050 = min (regGet s 0x300050 + 1) 0xFFFFFFFF ∧ regPair u 0x300054 = value.toNat ∧
      regGet u 0x30005C = src % 2 ^ 19 + 2 ^ 20 * reason + 2 ^ 31
    (reserved → refuses 1) ∧
    (¬reserved → ringExists s ring = false → refuses 2) ∧
    (¬reserved → ringExists s ring = true → ringGet s ring = none → refuses 3) ∧
    (¬reserved → ringExists s ring = true → ∀ r, ringGet s ring = some r → s.dre.bad.contains ring = false →
      (ringRetiring s ring = false →
        let ahead (i : Nat) : Nat := dist16 i r.head
        (2 ^ r.log2 < ahead tail → refuses 4) ∧
        (ahead tail ≤ 2 ^ r.log2 → r.cached = true ∨ cacheUsed s < 4096 → ∃ u r', exec (.doorbell m value) s = .next u ∧ ringGet u ring = some r' ∧
          r'.tail = (if ahead r.tail < ahead tail then tail else r.tail) ∧ r'.head = r.head ∧ r'.fetch = r.fetch ∧
          u.regs = s.regs)) ∧
      (ringRetiring s ring = true →
        let next := (r.head + 1) % 65536
        (2 ^ r.log2 < dist16 tail next → refuses 4) ∧
        (dist16 tail next ≤ 2 ^ r.log2 → ∃ u, exec (.doorbell m value) s = .next u ∧
          ringGet u ring = some { r with latch := some (match r.latch with
            | some t => if dist16 t next < dist16 tail next then tail else t
            | none => tail) })))

/-- R171, R214, R215, R223. DRE fetches one descriptor from the ring that its rule picks: its sequence number is the
ring's, whose fetch index and sequence number go on; the bytes of a good slot of the own scratchpad are there at once,
others are read from outside. An age limit that has passed makes its ring one of the aged. The model's own choices
that it rests on: assumptions 3 and 6. -/
def Obligations.DescriptorsAreFetched : Prop :=
  ∀ (s : State), live s = true →
    (∀ r, pickRing s = some r → s.dre.rings.Pairwise (fun a b => a.ring ≠ b.ring) → (∀ x ∈ s.descs, x.id < s.nextId) →
      (∀ g ∈ s.gathers, g.owner ≠ s.nextId) → s.dre.bad.contains r.ring = false → r.cached = true ∨ cacheUsed s < 4096 →
      let slot := r.base + 128 * (r.fetch % 2 ^ r.log2)
      OwnGood s slot 128 ∨ isChip slot = true →
      ∃ u r' x, exec .descriptorFetch s = .next u ∧ ringGet u r.ring = some r' ∧
        r'.fetch = (r.fetch + 1) % 65536 ∧ r'.seq = (r.seq + 1) % 2 ^ 32 ∧ r'.head = r.head ∧ r'.tail = r.tail ∧
        u.descs = s.descs ++ [x] ∧ x.id = s.nextId ∧ x.ring = r.ring ∧ x.index = r.fetch ∧ x.seq = r.seq ∧ x.cls = r.cls ∧
        x.src = r.acting ∧
        (OwnGood s slot 128 → x.phase = .fetched ∧ x.bytes = spmBytes s (offsetOf slot) 128) ∧
        (isChip slot = true → x.phase = .fetching)) ∧
    (pickRing s = none → exec .descriptorFetch s = .next s) ∧
    (∀ (ring : Nat) (r : Ring) (t : Nat), ringGet s ring = some r → r.readySince = some t → regGet s 0x300040 ≠ 0 →
      exec (.ageLimit ring) s = .next { s with osc := max s.osc (t + regGet s 0x300040) })

/-- R227, R228, R239 to R241. Validation of a fetched descriptor takes its steps in order: a failed one rejects it
with that step's status; a read of a structure that is whole goes on to the ranges; and one that passes every step is
ready with its structures as they were read. An operation that is not listed or not served, a reserved bit or an
unused field that is set and a chained doorbell that breaks its form are DESC_INVALID, a LAUNCH without firmware is
NO_FIRMWARE, a unit or ring that is absent PARAM_RANGE, a refused range ACCESS_REFUSED with one count, a held one
RANGE_HELD; then the rows of the type's table give SHAPE_INVALID, FORMAT_INVALID, CHAIN_INVALID, CHAIN_HOLD_OVERFLOW,
COUNT_INVALID or DESC_INVALID in their order. The model's own choices that it rests on: assumptions 68, 77 and 78. -/
def Obligations.ValidationInOrder : Prop :=
  ∀ (s : State) (d : Nat) (x : Desc), live s = true → s.dre.stopFetch = false → descGet s d = some x →
    x.phase = .fetched → clInsn x = false →
    let rejects (st : Nat) : Prop := ∃ u y, exec (.descriptorValidate d) s = .next u ∧ descGet u d = some y ∧
      y.phase = .finished ∧ y.status = st ∧ y.rejected = true
    let placed : Prop := unitsOk s x = true ∧ ∀ r ∈ headRanges s x, beyond s r.addr r.len = false
    let op := dop x
    let set (lo hi : Nat) : Prop := bitsOf hi lo (dfield x 0 128) ≠ 0
    let listed : Prop := op ∈ [0x01, 0x02, 0x10, 0x11, 0x20, 0x30, 0x40, 0x50]
    let served : Prop := listed ∧ (op = 0x50 → stage s = 5)
    let unused : List (Nat × Nat) :=
      if op = 0x01 then [(256, 1023)]
      else if op = 0x02 then [(268, 287), (384, 1023)]
      else if op = 0x20 then [(260, 287), (303, 319), (384, 1023)]
      else if op = 0x30 then [(259, 271), (284, 287), (313, 319), (345, 351), (704, 1023)]
      else if op = 0x40 then [(268, 271), (277, 279), (285, 287), (292, 319), (704, 1023)]
      else if op = 0x50 then [(272, 287), (672, 1023)]
      else [(261, 263), (268, 271), (277, 279), (285, 287), (313, 319), (345, 351), (377, 383), (864, 895), (960, 1023)]
    (¬listed → op < 0xF0 ∨ 0xF5 < op → rejects 0x0001) ∧
    (0xF0 ≤ op → x.ring ≠ 0 ∨ x.issue ≠ none → rejects 0x0001) ∧
    (0xF0 ≤ op → op ≠ 0xF5 → stage s ≠ 7 → bitOf 1 (regGet s 0x200000) = false → rejects 0x0001) ∧
    (op = 0x50 → stage s ≠ 5 → rejects 0x0008) ∧
    (served → set 13 31 ∨ set 63 63 ∨ set 115 127 → rejects 0x0001) ∧
    (served → op ∉ [0x10, 0x11, 0x20] → set 11 12 ∨ set 192 255 → rejects 0x0001) ∧
    (served → ∀ r ∈ unused, set r.1 r.2 → rejects 0x0001) ∧
    (served → set 9 9 → set 146 159 ∨ set 176 191 ∨ mcastBase ≤ bitsOf 114 96 (dfield x 0 128) → rejects 0x0001) ∧
    (op = 0x30 → dfield x 32 1 % 4 = 3 → rejects 0x0001) ∧
    (stepOne s x = 0 →
      (op = 0x10 ∨ op = 0x11 → 2 ^ s.par.arrays ≤ dfield x 33 1 % 16 → rejects 0x0002) ∧
      (op = 0x20 → 2 ^ s.par.vectorUnits ≤ dfield x 32 1 % 16 → rejects 0x0002) ∧
      (op = 0x50 → 2 ^ s.par.taskCores ≤ dfield x 32 2 → rejects 0x0002) ∧
      (set 9 9 → bitsOf 114 96 (dfield x 0 128) = ownId s → 2 ^ s.par.ringLog2 ≤ bitsOf 145 128 (dfield x 0 128) →
        rejects 0x0002)) ∧
    (stepOne s x ≠ 0 → rejects (stepOne s x)) ∧
    (stepOne s x = 0 → ¬placed → rejects 0x0002) ∧
    (stepOne s x = 0 → placed → ∀ y, loadStructures s x = (s, .done y) →
      let t := gatherDrop s d
      (stepTwo t y = false → rejects 0x0002) ∧
      (∀ r ∈ descRanges t y, beyond t r.addr r.len = true → rejects 0x0002) ∧
      (stepTwo t y = true → refusedRanges t y ≠ [] → rejects 0x0010) ∧
      (stepTwo t y = true → refusedRanges t y = [] → (heldWrite t y).isSome = true → rejects 0x0011) ∧
      (stepTwo t y = true → refusedRanges t y = [] → heldWrite t y = none →
        let geo := geoOf y
        let first (rows : List (Bool × Nat)) : Prop := ∀ r, rows.find? (·.1) = some r → rejects r.2
        let multicast : Bool := bitOf 8 (dfield y 0 128) && decide (mcastBase ≤ bitsOf 62 44 (dfield y 0 128))
        (op = 0x10 ∨ op = 0x11 → first [
          (decide (2 ^ 24 < mxM y ∨ 2 ^ 24 < mxN y ∨ 2 ^ 24 < mxK y), 0x0003), (decide (mxArrays y = 0), 0x0003),
          (mxStrides y geo, 0x0003), (decide (op = 0x11 ∧ (mxN y ≠ 1 ∨ mxK y ≠ 1 ∨ mxPart y = 1 ∨ mxPart y = 2)), 0x0003),
          (mxFormats y geo, 0x0004), (!chainOk t y geo, 0x0005), (chainFormats y, 0x0004),
          (chHas y.chain 0x02 && decide (65536 < mxM y), 0x0003), (chainStrides y geo, 0x0003), (!holdPlaced t y, 0x0005),
          (chainOverlaps t y geo, 0x0005), (decide (chPolicy y.chain = 1 ∧ holdSlot y geo ≠ 0 ∧ holdSlots y geo = 0), 0x0006),
          (sendUncountable t y geo || multicast, 0x0007)]) ∧
        (op = 0x20 → first [
          (!vchainOk t y, 0x0005),
          ((vcStages y.chain).any (fun k => k.kind == 0x0C) && !bitOf 0 (vxMask y) && !bitOf 2 (vxMask y), 0x0005),
          (vchainFormats y, 0x0004),
          (decide (16384 < vxCount y ∨ (vxRow y ≠ 0 ∧ vxCount y % vxRow y ≠ 0) ∨ vxMask y = 0), 0x0003),
          (multicast, 0x0007)]) ∧
        (op = 0x30 → y.issue = none → first [
          (moveUncountable t y || multicast, 0x0007),
          (decide (mvRowBytes y = 0 ∨ 2 ^ 24 < mvRowBytes y ∨ mvRows y = 0 ∨ 2 ^ 24 < mvRows y), 0x0003),
          ((mvSrcSpan y).isNone || (mvDstSpan y).isNone, 0x0003)]) ∧
        (op = 0x50 → first [
          (decide (dfield y 36 4 < 4 ∨ 32768 < dfield y 36 4 ∨ dfield y 36 4 % 4 ≠ 0 ∨ dfield y 40 8 % 128 ≠ 0 ∨
            32764 < dfield y 80 4 ∨ dfield y 80 4 % 4 ≠ 0), 0x0003), (multicast, 0x0007)]) ∧
        (op = 0x40 → first [
          (multicast, 0x0007), ((grpGet t (clGroup y)).isNone || !groupOk t (clEntry y) y.src, 0x0001),
          (decide (clOp y ≤ 5 ∧ clType y ∉ (if clOp y ≤ 1 then [0x00, 0x01, 0x02, 0x04]
            else if clOp y ≤ 3 then [0x00, 0x01, 0x02, 0x03, 0x04, 0x08, 0x09] else [0])), 0x0004),
          (decide (5 < clOp y ∨ (clOp y ≤ 1 ∧ 2 < clRedop y) ∨ (clOp y ≤ 3 ∧ 2 ^ 32 < clCount y) ∨
            (clOp y = 3 ∧ clMembers y ≤ clRoot y)) || !(clReads y ++ clDests y).all (ownScratch t), 0x0003)]) ∧
        (op ∉ [0x10, 0x11, 0x20, 0x30, 0x40, 0x50] → first [(multicast, 0x0007)]) ∧
        (stepFour t y ≠ 0 → rejects (stepFour t y)) ∧
        (stepFour t y = 0 → ∃ u z, exec (.descriptorValidate d) s = .next u ∧ descGet u d = some z ∧ z.phase = .ready ∧
          z.chain = y.chain ∧ z.aux = y.aux ∧ z.bytes = x.bytes ∧ z.rejected = x.rejected)))

/-- R228, R231. NOP ends with success; WAIT takes an entry of its table and ends with the counter's value once the
signed distance to its target is zero or more; its limit ends it with WAIT_TIMEOUT. The model's own choices that it
rests on: assumption 3. -/
def Obligations.NopAndWait : Prop :=
  ∀ (s : State) (d : Nat) (x : Desc), live s = true → descGet s d = some x → x.disturbed = false → x.rejected = false →
    let counter := dfield x 32 2 % 2 ^ 12
    let target : Dword := BitVec.ofNat 64 (dfield x 40 8)
    let value := counterGet s counter
    let limit := dfield x 36 4
    let ends (c : Instr) (st : Nat) : Prop := ∃ u, exec c s = .next u ∧ EndedWith u d st ∧
      (descGet u d).map (·.body) = some (toLe 8 value.toNat)
    (mayStart s x = true → dop x = 0x01 → ∃ u, exec (.nopDesc d) s = .next u ∧ EndedWith u d 0 ∧ u.regs = s.regs ∧
      u.spm = s.spm ∧ u.counters = s.counters) ∧
    (mayStart s x = true → dop x = 0x02 → waitsTaken s < 2048 → firstOf s x (fun y => dop y == 0x02) = true →
      (0 ≤ (value - target).toInt → ends (.waitDesc d) 0) ∧
      (¬0 ≤ (value - target).toInt → ∃ u, exec (.waitDesc d) s = .next u ∧
        (descGet u d).map (fun y => (y.phase, y.engine)) = some (.running, .wait s.osc))) ∧
    (∀ since, x.engine = .wait since → x.phase = .running → limit ≠ 0 →
      ends (.waitTimeout d) 0x0017 ∧ ∀ u, exec (.waitTimeout d) s = .next u → since + limit ≤ u.osc)

/-- R14, R15, R234, R236, R237. The oldest finished descriptor of its ring, with a completion ring whose next slot of
the own scratchpad takes the record at once: the record is in the slot with the phase bit of its pass, the write index
and the ring's head go on, and the descriptor is gone. A success adds to the counter it names; a failure adds nothing.
A ring under DISABLE is DISABLED once its last descriptor has retired. The model's own choices that it rests on:
assumption 153. -/
def Obligations.DescriptorsRetire : Prop :=
  ∀ (s : State) (d : Nat) (x : Desc) (r : Ring) (q : Cq), Canon s → live s = true → descGet s d = some x →
    x.phase = .finished → x.unacked = 0 → x.issue = none → clInsn x = false → (ringDescs s x.ring).head? = some x →
    (∀ y ∈ s.descs, y.id = d → y = x) → x.engine = .none → (∀ y ∈ s.descs, y.disturbed = false) →
    ringGet s x.ring = some r → r.latch = none → s.dre.cqs.find? (fun c => c.cq == r.cq) = some q →
    s.boot.attnDrain = false → s.inject = none → dDbEn x = false → s.dre.bad.contains x.ring = false →
    s.dre.doomed = [] → stage s ≠ 7 ∨ bitOf 0 (regGet s 0x200070) = false → q.overwritten = false →
    (r.cached = true ∧ q.cached = true) ∨ cacheUsed s + 2 ≤ 4096 →
    let imgState' := if dop x = 0xF2 ∧ imgState s = 1 then (if s.boot.staged.isSome then 2 else 0) else imgState s
    let y := if 0xF0 ≤ dop x ∧ dop x ≤ 0xF5 ∧ x.body = [] ∧ x.rejected = false then
      { x with body := toLe 2 0 ++ toLe 1 imgState' } else x
    let slot := q.base + 32 * (q.widx % 2 ^ q.log2)
    OwnFree s slot 32 → dCntEn x = false ∨ dCntCluster x = ownId s →
    (r.disabling = true → ringDescs s x.ring = [x] → s.dre.rings.Pairwise (fun a b => a.ring ≠ b.ring) →
      ∃ u, exec (.descriptorRetire d) s = .next u ∧ descGet u d = none ∧ ringGet u x.ring = none) ∧
    (r.disabling = false → ∃ u, exec (.descriptorRetire d) s = .next u ∧ descGet u d = none ∧
      spmBytes u (offsetOf slot) 32 = recordBytes y (q.widx / 2 ^ q.log2 % 2 == 0) ∧
      (u.dre.cqs.find? (fun c => c.cq == r.cq)).map (·.widx) = some ((q.widx + 1) % 65536) ∧
      (∃ r', ringGet u x.ring = some r' ∧ r'.head = (r.head + 1) % 65536 ∧ r'.tail = r.tail ∧
        (x.status = 0 → r'.state = r.state) ∧
        (x.status ≠ 0 → r.haltOnFail = true → r.state = 1 → r'.state = 2 ∧ r'.haltStatus = x.status ∧ r'.haltSeq = x.seq)) ∧
      (x.status ≠ 0 ∨ dCntEn x = false → u.counters = s.counters) ∧
      (x.status = 0 → dCntEn x = true → ∀ c, counterGet u c =
        if c = dCntId x then counterGet s c + BitVec.ofNat 64 (dCntAdd x) else counterGet s c))

/-- R217, R242. The ring commands of a privileged master while no other is in progress: ENABLE makes a DISABLED ring
with a good context ACTIVE at its saved head, tail and sequence number; DISABLE of a ring with nothing in flight
leaves it DISABLED, and of one with descriptors in flight ends those in validation, under a barrier or in a pending
WAIT with ABORTED, the WAIT with its counter's value, and lets the others run; RESUME makes a HALTED one ACTIVE; FLUSH
writes the context back and leaves the ring as it is; each is refused with its reason where the spec says so. The
model's own choices that it rests on: assumptions 65, 67 and 152. -/
def Obligations.RingCommands : Prop :=
  ∀ (s : State) (m : Master) (ring : Nat), Canon s → Admits s m .write 0x300030 → masterPriv s m = true → live s = true →
    s.dre.cmd = none → ring < 2 ^ 18 →
    let refuses (c : Instr) (reason : Nat) : Prop := ∃ u, exec c s = .next u ∧ regGet u 0x300034 = 2 + 4 * reason ∧
      u.dre.rings = s.dre.rings ∧ u.dre.cmd = none
    let ctx := spmBytes s (offsetOf (ctxAddr s ring)) 64
    let cq := bitsOf 11 0 (fieldAt ctx 16 2)
    let cqe := spmBytes s (offsetOf (cqAddr s cq)) 16
    (ringExists s ring = false → refuses (.ringEnable m ring) 1 ∧ refuses (.ringDisable m ring) 1 ∧
      refuses (.ringResume m ring) 1 ∧ refuses (.ringFlush m ring) 1) ∧
    (ringExists s ring = true →
      (∀ r, ringGet s ring = some r → refuses (.ringEnable m ring) 3) ∧
      (ringGet s ring = none → refuses (.ringDisable m ring) 3 ∧ refuses (.ringResume m ring) 3 ∧
        (OwnGood s (ctxAddr s ring) 64 → OwnGood s (cqAddr s cq) 16 →
          (contextOk s ctx cqe = false → refuses (.ringEnable m ring) 2) ∧
          (contextOk s ctx cqe = true → cacheUsed s + 2 ≤ 4096 → ∃ u r, exec (.ringEnable m ring) s = .next u ∧ regGet u 0x300034 = 0 ∧
            u.dre.cmd = none ∧ ringGet u ring = some r ∧ r.state = 1 ∧ r.haltStatus = 0 ∧ r.base = fieldAt ctx 0 8 ∧
            r.head = fieldAt ctx 20 2 ∧ r.fetch = fieldAt ctx 20 2 ∧ r.tail = fieldAt ctx 22 2 ∧ r.seq = fieldAt ctx 24 4 ∧
            r.acting = fieldAt ctx 12 4 % 2 ^ 19 ∧ r.cached = true ∧ u.dre.cqs.any (fun c => c.cq == cq) = true))) ∧
      (∀ r, ringGet s ring = some r → s.dre.rings.Pairwise (fun a b => a.ring ≠ b.ring) →
        (r.state ≠ 2 → refuses (.ringResume m ring) 3) ∧
        (r.state = 2 → ∃ u r', exec (.ringResume m ring) s = .next u ∧ ringGet u ring = some r' ∧ r'.state = 1 ∧
          r'.haltStatus = 0 ∧ r'.haltSeq = 0 ∧ r'.head = r.head ∧ r'.tail = r.tail) ∧
        (ringDescs s ring = [] → ∃ u, exec (.ringDisable m ring) s = .next u ∧ ringGet u ring = none) ∧
        (ringDescs s ring ≠ [] → s.descs.Pairwise (fun a b => a.id ≠ b.id) → (∀ d ∈ s.descs, d.disturbed = false) →
          ∃ u r', exec (.ringDisable m ring) s = .next u ∧ ringGet u ring = some r' ∧ r'.disabling = true ∧
            u.dre.cmd = some (2, ring) ∧ ∀ d ∈ ringDescs s ring,
              let waits : Prop := dop d = 0x02 ∧
                ((d.phase = .ready ∧ d.free = true) ∨ (d.phase = .running ∧ ∃ n, d.engine = .wait n))
              let stops : Prop := d.phase = .fetching ∨ d.phase = .fetched ∨ (d.phase = .ready ∧ d.free = false)
              (stops → EndedWith u d.id 0x0018) ∧
              (waits → EndedWith u d.id 0x0018 ∧
                (descGet u d.id).map (·.body) = some (toLe 8 (counterGet s (dfield d 32 2 % 4096)).toNat)) ∧
              (¬stops → ¬waits → (∀ n, d.engine ≠ .wait n) →
                (descGet u d.id).map (fun y => (y.phase, y.bytes)) = some (d.phase, d.bytes))) ∧
        (let a := ctxAddr s ring
         let b := cqAddr s r.cq
         OwnOpen s (a + 20) 8 → OwnOpen s (a + 40) 1 → OwnOpen s (a + 42) 6 → r.overwritten = false → s.inject = none →
          (∀ q, s.dre.cqs.find? (fun c => c.cq == r.cq) = some q → q.overwritten = false ∧ OwnOpen s (b + 10) 2 ∧
            overlap (offsetOf (b + 10)) 2 (offsetOf a) 64 = false) →
          ∃ u, exec (.ringFlush m ring) s = .next u ∧ u.dre.rings = s.dre.rings ∧ u.dre.cmd = none ∧
            spmBytes u (offsetOf (a + 20)) 8 = toLe 2 r.head ++ toLe 2 r.tail ++ toLe 4 r.seq ∧
            spmBytes u (offsetOf (a + 40)) 1 = toLe 1 r.state ∧
            spmBytes u (offsetOf (a + 42)) 6 = toLe 2 r.haltStatus ++ toLe 4 r.haltSeq ∧
            ∀ q, s.dre.cqs.find? (fun c => c.cq == r.cq) = some q → spmBytes u (offsetOf (b + 10)) 2 = toLe 2 q.widx)))

/-- R246, R267. LOAD of a group whose entry stands good in the own scratchpad and passes the checks loads it with the
counter's value as its base; one that fails them is refused; UNLOAD ends it, and is refused while a collective of it
is active. The model's own choices that it rests on: assumption 67. -/
def Obligations.GroupLoadAndUnload : Prop :=
  ∀ (s : State) (m : Master) (g : Nat), Canon s → Admits s m .write 0xA00020 → masterPriv s m = true → g < 4096 →
    bitOf 0 (regGet s 0xA00024) = false → s.cle.Pairwise (fun a b => a.group ≠ b.group) →
    let e := spmBytes s (offsetOf (grpAddr s g)) 64
    (OwnGood s (grpAddr s g) 64 → grpActive s g = none →
      (groupOk s e (ownId s) = true → ∃ u, exec (.loadGroup m g) s = .next u ∧ regGet u 0xA00024 = 0 ∧
        grpGet u g = some { group := g, entry := e, base := counterGet s (grpCounter e) } ∧
        ∀ k, k ≠ g → grpGet u k = grpGet s k) ∧
      (groupOk s e (ownId s) = false → ∃ u, exec (.loadGroup m g) s = .next u ∧ regGet u 0xA00024 = 2 + 4 * 1 ∧
        u.cle = s.cle)) ∧
    (grpActive s g = none → ∃ u, exec (.unloadGroup m g) s = .next u ∧ regGet u 0xA00024 = 0 ∧ grpGet u g = none ∧
      ∀ k, k ≠ g → grpGet u k = grpGet s k) ∧
    ((grpActive s g).isSome = true → ∃ u, exec (.unloadGroup m g) s = .next u ∧ regGet u 0xA00024 = 2 + 4 * 2 ∧
      u.cle = s.cle)

/-- R268, R269, R289, R373, R374. The link layer of a port that is up, up to what its bundle drives next: a flit in
sequence with a good CRC is taken, its buffer returned as a credit and a packet it completes put in the inbox; any
other flit brings one NAK of the expected number; a cumulative acknowledgement frees what it names; a NAK has the
flits from the named one sent again, and fails the port where that flit has been sent again eight times; a credit and
a deadline; and the bytes of a packet read back as its header fields and its payload. The model's own choices that it
rests on: assumptions 3, 9, 31, 97, 102 and 145. -/
def Obligations.LinkFlits : Prop :=
  ∀ (s : State) (port : Nat) (c : Port), live s = true → s.fep.ports[port]? = some c → c.up = true →
    let drives (cmd : Instr) (p : State → Prop) : Prop := ∃ u, exec cmd s = .next (fepPump u port) ∧ p u
    let now (u : State) (c' : Port) : Prop := u.fep.ports[port]? = some c' ∧ ∀ i, i ≠ port → u.fep.ports[i]? = s.fep.ports[i]?
    let flips (alone : Bool) : Bool := c.rxAck != (c.link && alone)
    (∀ f : FlitIn,
      let ack := flips (f.bytes.length / 64 % 2 == 1)
      let good : Prop := crc32c (f.bytes ++ toLe 2 f.seq.toNat) = f.crc ∧ f.seq.toNat = c.expect
      let taken : Port := { c with rxAck := ack, expect := (c.expect + 1) % 4096, toAck := c.toAck + 1, lastRx := s.osc
                                   nakSent := false, giveCredit := c.giveCredit ++ [f.vc] }
      let owes : Port := if c.toAck + 1 < 32 then taken
        else { taken with control := c.control ++ [(false, ((c.expect + 1) % 4096 + 4095) % 4096)], toAck := 0 }
      let bytes := ((c.rx.find? fun r => r.1 == f.vc).map (·.2)).getD [] ++ f.bytes
      let rest := c.rx.filter fun r => r.1 != f.vc
      let k := packetRead bytes
      (good → packetWhole bytes = false → drives (.flit port f) fun u =>
        now u { owes with rx := rest ++ [(f.vc, bytes)] } ∧ u.fep.inbox = s.fep.inbox) ∧
      (good → packetWhole bytes = true → drives (.flit port f) fun u => now u { owes with rx := rest } ∧
        (typeOnChannel k = true → u.fep.inbox = s.fep.inbox ++ [(port, k)] ∧ u.regs = s.regs) ∧
        (typeOnChannel k = false → u.fep.inbox = s.fep.inbox ∧ u.regs = (regCount s 0x900068).regs)) ∧
      (¬good → c.nakSent = false → drives (.flit port f) fun u =>
        now u { c with rxAck := ack, control := c.control ++ [(true, c.expect)], nakSent := true } ∧ u.fep.inbox = s.fep.inbox) ∧
      (¬good → c.nakSent = true → ∃ u, exec (.flit port f) s = .next u ∧ now u { c with rxAck := ack } ∧
        u.fep.inbox = s.fep.inbox)) ∧
    (∀ (lseq n : Nat) (alone : Bool) (f : SentFlit), c.sent[n]? = some f → f.seq = lseq → (∀ i < n, ∀ g, c.sent[i]? = some g → g.seq ≠ lseq) →
      (s.fep.mcast = [] → (∀ g ∈ c.sent, g.packet.dest < mcastBase) → drives (.linkAck port ⟨lseq, alone⟩) fun u =>
        now u { c with sent := c.sent.drop (n + 1), lastAck := s.osc, rxAck := flips alone
                       resend := c.resend.filter fun q => !(c.sent.take (n + 1)).any fun f => f.seq == q }) ∧
      ((∀ g ∈ c.sent.drop n, g.resent < 8) → drives (.nak port ⟨lseq, alone⟩) fun u =>
        now u { c with resend := (c.sent.drop n).map (·.seq), rxAck := flips alone }) ∧
      ((∃ g ∈ c.sent.drop n, 8 ≤ g.resent) → Canon s → ∃ u, exec (.nak port ⟨lseq, alone⟩) s = .next u ∧
        now u { queue := c.queue.filter fun q => q.sentFlits == 0, link := c.link, wire := c.wire, txReq := c.txReq
                txAck := c.txAck, rxAck := flips alone } ∧
        (port < 4 → bitOf 0 (regGet u (0x900100 + 4 * port)) = false ∧ bitOf 1 (regGet u (0x900100 + 4 * port)) = true))) ∧
    (∀ (lseq : Nat) (alone : Bool), (∀ f ∈ c.sent, f.seq ≠ lseq) →
      let seen := portUpd s port fun c => { c with rxAck := flips alone }
      exec (.linkAck port ⟨lseq, alone⟩) s = .next seen ∧ exec (.nak port ⟨lseq, alone⟩) s = .next seen) ∧
    (∀ vc alone, drives (.flitCredit port ⟨vc, alone⟩) fun u =>
      now u { c with credits := setAt c.credits vc (· + 1), rxAck := flips alone }) ∧
    (0 < c.toAck → drives (.linkAckTimer port) fun u => c.lastRx + 1000 ≤ u.osc ∧
      now u { c with control := c.control ++ [(false, (c.expect + 4095) % 4096)], toAck := 0 }) ∧
    (∀ k : Packet, k.wf = true →
      let r := packetRead (packetHeader k ++ k.payload)
      r.type = k.type ∧ r.vc = k.vc ∧ r.epoch = k.epoch ∧ r.mark = k.mark ∧ r.echo = k.echo ∧ r.ordered = k.ordered ∧
        r.dest = k.dest ∧ r.src = k.src ∧ r.path = k.path ∧ r.age = k.age ∧ r.tag = k.tag ∧ r.addr = k.addr ∧
        r.counter = k.counter ∧ r.counted = k.counted ∧ r.status = k.status ∧
        (lenIsData k.type k.payload.length = true → r.payload = k.payload))

/-- R286, R289, R354, R375. A port whose link falls, or where no acknowledgement has advanced for 100 µs while flits
wait, stops: what it sent is discarded, packets not started stay queued, its status and its count say so; a link that
rises starts afresh with sixteen credits of each channel to return and its identity packet before any other. The
model's own choices that it rests on: assumptions 3 and 98. -/
def Obligations.LinksFallAndRise : Prop :=
  ∀ (s : State) (port : Nat) (c : Port), Canon s → live s = true → s.fep.ports[port]? = some c → port < 4 →
    let st := 0x900100 + 4 * port
    let stops (cmd : Instr) (failed : Bool) : Prop := ∃ u, exec cmd s = .next u ∧
      u.fep.ports[port]? = some (if failed = true then
        { queue := c.queue.filter fun q => q.sentFlits == 0, link := c.link, wire := c.wire, txReq := c.txReq, txAck := c.txAck
          rxAck := c.rxAck } else { queue := c.queue.filter fun q => q.sentFlits == 0 }) ∧
      bitOf 0 (regGet u st) = false ∧ regBits u st 15 8 = min (regBits s st 15 8 + 1) 255 ∧
      (failed = true → bitOf 1 (regGet u st) = true) ∧ (failed = false → bitOf 1 (regGet u st) = bitOf 1 (regGet s st))
    (c.up = true → stops (.linkDown port) false) ∧
    (c.up = true → c.sent ≠ [] → stops (.portFailed port) true ∧
      ∀ u, exec (.portFailed port) s = .next u → c.lastAck + 100000 ≤ u.osc) ∧
    (c.up = false → stage s ≠ 8 → ∃ u k, exec (.linkUp port) s = .next (fepPump u port) ∧
      u.fep.ports[port]? = some { up := true, link := true, queue := { packet := k, rcg := 0 } :: c.queue
                                  giveCredit := ((List.range 6).map fun v => List.replicate 16 v).flatten } ∧
      k.type = 0x30 ∧ k.vc = 5 ∧ k.body = toLe 32 1 ∧ k.payload = (identityHead s []).take 64 ∧
      bitOf 0 (regGet u st) = true ∧ bitOf 1 (regGet u st) = false) ∧
    (c.up = false → exec (.linkDown port) s = .next (portUpd s port fun c => { ({} : Port) with queue := c.queue })) ∧
    (c.up = false →
      let seen (b : Bool) : State := portUpd s port fun c => { c with rxAck := c.rxAck != (c.link && b) }
      (∀ f, exec (.flit port f) s = .next (seen (f.bytes.length / 64 % 2 == 1))) ∧
      ∀ n, exec (.linkAck port n) s = .next (seen n.alone) ∧ exec (.nak port n) s = .next (seen n.alone) ∧
        exec (.flitCredit port n) s = .next (seen n.alone))

/-- R361, R364, R366, R368, R369, R178. Answers and credits on a chip-memory channel: a response that answers the
outstanding request of its kind frees its tag, owes one response credit and delivers the data, an unmapped refusal or
a data error to whoever asked; credits add to the channel's; and the neighbour's ACK makes the bundle idle again. Each
then drives what it can; and the header of a message spells the command that it is at the other end. The model's own
choices that it rests on: assumptions 83, 102 and 145. -/
def Obligations.ChipChannelAnswers : Prop :=
  ∀ (s : State) (ch : Nat) (c : Chan), s.cmp.chans[ch]? = some c → s.boot.por = false → s.boot.warm = false →
    (∀ (tag : Nat) (o : CmpOut) (st : CmpStatus) (data : List Byte), live s = true → data.length = 128 →
      s.cmp.out.find? (fun o => o.ch == ch && o.tag == tag) = some o →
      let u : State := { s with cmp := { s.cmp with
        out := dropFirst (fun o => o.ch == ch && o.tag == tag) s.cmp.out
        chans := setAt s.cmp.chans ch fun c => { c with giveRsp := c.giveRsp + 1, rxAck := !c.rxAck } } }
      let bytes := (data.drop (o.acc.addr % 128)).take o.acc.len
      let answer (bs : List Byte) : Resp := (match st with
        | .ok => .ok bs
        | .decodeErr => .refused 1
        | .dataErr => .dataErr)
      (o.acc.kind = .read → exec (.cmpReadData ch tag st data) s = .next (cmpPump (deliver u o.acc (answer bytes)) ch)) ∧
      (o.acc.kind = .write → exec (.cmpAck ch tag st) s = .next (stewardNext (cmpPump (deliver u o.acc (answer [])) ch))) ∧
      (o.acc.kind = .atomic → exec (.cmpAtomicData ch tag st data) s = .next (cmpPump (deliver u o.acc (answer bytes)) ch))) ∧
    (∀ req rsp alone, exec (.cmpCredit ⟨ch, alone⟩ req rsp) s = .next (cmpPump { s with cmp := { s.cmp with
      chans := setAt s.cmp.chans ch fun c => { c with
        reqCredits := c.reqCredits + (if req then 1 else 0), rspCredits := c.rspCredits + (if rsp then 1 else 0)
        rxAck := c.rxAck != alone } } } ch)) ∧
    (ch < 8 → exec (.bundleAck ch) s = .next (cmpPump { s with cmp := { s.cmp with
      chans := setAt s.cmp.chans ch fun c => { c with txAck := c.txReq } } } ch)) ∧
    (∀ (port : Nat) (p : Port), s.fep.ports[port]? = some p → p.link = true → live s = true →
      exec (.bundleAck (8 + port)) s = .next (fepPump (portUpd s port fun p => { p with txAck := p.txReq }) port)) ∧
    (∀ (m : CmpMsg) (d : List Byte), m.op < 3 → m.tag < 4096 → m.atop < 16 → m.awid < 4 →
      let q : CmpReq := { addr := m.addr % 2 ^ 40 / 128 * 128, src := 0, be := m.be, data := d
                          atop := if m.op = 2 then m.atop else 0, awid := if m.op = 2 then m.awid else 0 }
      chipCommands ch (chipHeader (some m) false false) m.be d = [match m.response, m.op with
        | false, 0 => .cmpRead ch m.tag q
        | false, 1 => .cmpWrite ch m.tag q
        | false, _ => .cmpAtomic ch m.tag q
        | true, 0 => .cmpReadData ch m.tag m.st d
        | true, 1 => .cmpAck ch m.tag m.st
        | true, _ => .cmpAtomicData ch m.tag m.st d])

/-- R370, R171, R172, R173, R196, R206, R278. Requests from outside to the own scratchpad: an agent's READ, WRITE or
ATOMIC of one run of bytes and a packet's, that the map and the protection table allow and that nothing holds up, are
performed and answered: the bytes read; the bytes stored, advancing the counter that a counted write names; the old
word, with the operation's new one stored. A refused one is counted and answered with its reason. The model's own
choices that it rests on: assumptions 7, 25, 36, 104, 153 and 154. -/
def Obligations.RequestsAreServed : Prop :=
  ∀ s : State, live s = true →
    let free (s : State) (a : Access) : Prop := mapRefusal s a = none ∧ accCheck s a = none ∧
      OwnFree s a.addr a.len ∧ serving s = true
    let new (s : State) (a : Access) : List Byte := toLe a.len
      (atomicNew a.op a.width (leNat (spmBytes s (offsetOf a.addr) a.len)) (leNat a.data) a.compare.toNat)
    (∀ (port : Nat) (k : Packet), (port, k) ∈ s.fep.inbox → k.dest = ownId s →
      let u : State := { s with fep := { s.fep with inbox := s.fep.inbox.erase (port, k) } }
      let a (kind : AccKind) : Access := packetAccess s port k kind
      let off := offsetOf (ownAddr s k.addr)
      (k.type = 0x01 → free s (a .write) →
        (k.counted = false → exec (.writePkt port k) s = .next (answerPacket (spmWrite u none off k.payload) k (.ok []))) ∧
        (k.counted = true → exec (.writePkt port k) s = .next
          (answerPacket (counterAdvance (spmWrite u none off k.payload) k.counter k.payload.length) k (.ok [])))) ∧
      (k.type = 0x02 → free s (a .read) → exec (.readPkt port k) s = .next
        (answerPacket u k (.ok (spmBytes s off (leNat k.body % 2 ^ 13))))) ∧
      (k.type = 0x03 → free s (a .atomic) → ordAdd s (a .atomic) = none → exec (.atomicPkt port k) s = .next
        (answerPacket (spmWrite u none off (new s (a .atomic))) k (.ok (spmBytes s off (a .atomic).len)))) ∧
      (k.type = 0x04 → serving s = true → protCheck s k.src (ownAddr s (regBase + 0x908000 + 8 * (k.counter % 4096))) 8 .write = none →
        exec (.count port k) s = .next
          (answerPacket (counterAdvance u (k.counter % 4096) (leNat k.body % 2 ^ 32)) k (.ok []))) ∧
      (∀ n, k.type = 0x02 → serving s = true → mapRefusal s (a .read) = none → accCheck s (a .read) = some n →
        exec (.readPkt port k) s = .next (answerPacket (noteRefusal u false k.src (a .read).addr n) k (.refused n)))) ∧
    (∀ (ch tag lo n : Nat) (m : CmpReq), ch < 8 → maskRuns m.be 64 0 = [(lo, n)] → lo + n ≤ 128 →
      let base := ownAddr s (m.addr / 128 * 128)
      let bytes := ((padTo 128 m.data).drop lo).take n
      let a (kind : AccKind) : Access :=
        { kind := kind, addr := base + lo, len := n, data := bytes, op := m.atop, width := m.awid, src := m.src.toNat
          who := .agent ch tag m.be (m.addr / 128 * 128)
          compare := if kind = .atomic then BitVec.ofNat 64 (leNat (((padTo 128 m.data).drop (lo ^^^ 64)).take n)) else 0 }
      let u := chanUpd s ch fun c => { c with giveReq := c.giveReq + 1, rxAck := !c.rxAck }
      let answered (t : State) (kind : AccKind) (bs : List Byte) : State :=
        cmpPump (answerAgent t (a kind) ch tag m.be (.ok bs)) ch
      (free s (a .read) → exec (.cmpRead ch tag m) s = .next (answered u .read (spmBytes s (offsetOf (base + lo)) n))) ∧
      (free s (a .write) → exec (.cmpWrite ch tag m) s = .next (answered (spmWrite u none (offsetOf (base + lo)) bytes) .write [])) ∧
      (free s (a .atomic) → ordAdd s (a .atomic) = none → exec (.cmpAtomic ch tag m) s = .next
        (answered (spmWrite u none (offsetOf (base + lo)) (new s (a .atomic))) .atomic (spmBytes s (offsetOf (base + lo)) n))) ∧
      (∀ r, serving s = true → mapRefusal s (a .read) = none → accCheck s (a .read) = some r →
        exec (.cmpRead ch tag m) s = .next (cmpPump (answerAgent (noteRefusal u false m.src.toNat (base + lo) r)
          (a .read) ch tag m.be (.refused r)) ch)))

/-- R273, R278, R279, R283, R287. A response packet ends the request of its tag with its answer and is discarded and
counted where there is none; RETRY keeps the request for its gap; a misrouted packet without a response is counted.
The model's own choices that it rests on: assumptions 99, 100 and 155. -/
def Obligations.ResponsesEndRequests : Prop :=
  ∀ (s : State) (port : Nat) (k : Packet), Canon s → live s = true → (port, k) ∈ s.fep.inbox →
    let u : State := { s with fep := { s.fep with inbox := s.fep.inbox.erase (port, k) } }
    let request := s.fep.reqs.find? (answers k)
    let late : State := { u with fep := { u.fep with late := s.fep.late.erase k.tag } }
    let ends (type : Nat) (c : Instr) (echo : Bool) (x : Resp) : Prop := k.type = type → k.dest = ownId s →
      (∀ r, request = some r → exec c s = .next (endReq (if echo then echoOn u r.rcg else u) r x)) ∧
      (request = none → exec c s = .next (regCount late 0x900064))
    let answer : Resp := if k.status = 0x0012 then .dataErr else if k.status = 0x0013 then .unreachable else .refused k.status
    ends 0x10 (.ack port k) k.echo (.ok []) ∧
    ends 0x11 (.readData port k) (k.echo || k.mark) (.ok k.payload) ∧
    ends 0x12 (.atomicData port k) k.echo (.ok k.payload) ∧
    ends 0x13 (.refused port k) k.echo answer ∧
    (k.type = 0x14 → k.dest = ownId s → k.echo = false →
      (∀ r, request = some r → s.fep.reqs.Pairwise (fun a b => a.tag ≠ b.tag) → ∃ v, exec (.retry port k) s = .next v ∧
        v.fep.reqs = s.fep.reqs.map (fun q => if q.tag = k.tag then { q with retryAt := some s.osc } else q) ∧
        v.fep.ports = s.fep.ports)) ∧
    (k.type = 0x10 → k.dest ≠ ownId s → k.dest < mcastBase → exec (.ack port k) s = .next (regCount u 0x900068)) ∧
    (∀ (r : FepReq) (t : Nat) (g : Group) (x : Thread), k.type = 0x10 → k.dest = ownId s → k.echo = false →
      request = some r → r.acc.who = .store t → threadAt s t = some (g, x) → s.fep.unrouted = [] →
      s.fep.echoes = [] →
      ∃ v, exec (.ack port k) s = .next v ∧ (threadAt v t).map (·.2) = some { x with unacked := x.unacked - 1 } ∧
        v.fep.reqs = dropFirst (fun q => q.tag == r.tag) s.fep.reqs)

/-- R270, R279, R280, R283, R287. Requests and rates in time: a retried request leaves one age older after its gap; a
request without an answer for FEP_RSP_TIMEOUT completes as unreachable and is counted; a reservation lapses; a group's
rate rises by AI up to RMAX after a period, and an echo cuts it; a bucket below zero refills; and a MGMT packet waits
for the Steward while there is room. The model's own choices that it rests on: assumptions 3, 19, 33 and 155. -/
def Obligations.RatesAndRetries : Prop :=
  ∀ s : State, Canon s → live s = true →
    (∀ (tag t : Nat) (r : FepReq), s.fep.reqs.find? (fun r => r.tag == tag) = some r → r.retryAt = some t →
      let gap := regBits s 0x900034 15 0 * 2 ^ min r.packet.age (regBits s 0x900034 19 16)
      let u : State := { s with osc := max s.osc (t + gap) }
      let k := { r.packet with age := min (r.packet.age + 1) 255 }
      (∀ ports path rcg, routeLookup s k.dest = .entry ports path rcg →
        exec (.retrySend tag) s = .next (fepPlace u k (some r.acc) ports path rcg)) ∧
      (routeLookup s k.dest = .invalid → exec (.retrySend tag) s = .next
        (endReq (if isRequest k then regCount (raiseRoute u k.dest false) 0x900060 else raiseRoute u k.dest false) r
          .unreachable))) ∧
    (∀ (tag : Nat) (r : FepReq), s.fep.reqs.find? (fun r => r.tag == tag && r.retryAt.isNone) = some r →
      regGet s 0x900030 ≠ 0 → (∀ c ∈ s.fep.ports, c.queue = [] ∧ ∀ f ∈ c.sent, f.packet.type = r.packet.type → f.packet.tag ≠ tag) →
      let u : State := { s with osc := max s.osc (r.since + regGet s 0x900030) }
      let late := if r.packet.dest < mcastBase then s.fep.late ++ [tag] else s.fep.late
      (isRequest r.packet = true → exec (.rspTimeout tag) s = .next
        (endReq (regCount { u with fep := { u.fep with late := late } } 0x900060) r .unreachable)) ∧
      (isRequest r.packet = false → exec (.rspTimeout tag) s = .next
        (if r.delivered then fepRetryUnrouted (dropReq u tag) else endReq u r .unreachable))) ∧
    (∀ res src tag age t, s.fep.resv.find? (fun x => x.1 == res) = some (res, src, tag, age, t) →
      exec (.reservationLapse res) s = .next { s with
        osc := max s.osc (t + 4 * regBits s 0x900034 15 0 * 2 ^ regBits s 0x900034 19 16)
        fep := { s.fep with resv := dropFirst (fun x => x.1 == res) s.fep.resv } }) ∧
    (∀ g, g < 1024 → bitOf 0 (regGet s 0x900040) = true →
      let rate (s : State) : Nat := regBits s (0x901000 + 4 * g) 15 0
      (∃ u, exec (.rateRaise g) s = .next u ∧ rate u = min (regBits s 0x900044 15 0) (rate s + regBits s 0x900048 15 0) ∧
        (bucketOf s g).raiseFrom + regBits s 0x900048 31 16 ≤ u.osc ∧ (bucketOf u g).raiseFrom = u.osc) ∧
      (∀ port k, (port, k) ∈ s.fep.inbox → k.type = 0x15 → k.dest = ownId s → ∀ ports path,
        routeLookup s (leNat k.body % 2 ^ 19) = .entry ports path g → (bucketOf s g).lastCut = none →
        ∃ u, exec (.congEcho port k) s = .next u ∧ (bucketOf u g).raiseFrom = s.osc ∧ (bucketOf u g).lastCut = some s.osc ∧
          rate u = max (regBits s 0x900044 31 16) (rate s * (256 - regBits s 0x900040 15 8) / 256) ∧
          regGet u 0x90006C = min (regGet s 0x90006C + 1) 0xFFFFFFFF)) ∧
    (∀ g, (bucketNow s g).level < 0 → 0 < rateOf s g → s.fep.ports = [{}, {}, {}, {}] →
      ∃ u, exec (.tokenBucketRefill g) s = .next u ∧ s.osc < u.osc ∧ 0 ≤ (bucketNow u g).level) ∧
    (∀ port k, (port, k) ∈ s.fep.inbox → k.type = 0x30 → k.dest = ownId s → s.fep.resv = [] →
      let u : State := { s with fep := { s.fep with inbox := s.fep.inbox.erase (port, k) } }
      (s.mgmt.length < Config.mgmtDepth → exec (.mgmt port k) s = .next { u with mgmt := s.mgmt ++ [k] }) ∧
      (Config.mgmtDepth ≤ s.mgmt.length → exec (.mgmt port k) s = .next
        (answerRetry { u with fep := { u.fep with resv := [(1, k.src, k.tag, k.age, s.osc)] } } k)))

/-- R168, R170, R179, R183, R184, R186, R188, R196, R206, R211, R213. A scratchpad bank performs the oldest request
that waits for it; what is older at the other banks that it reaches is performed first, and a bank group of theirs in
retention first begins to wake (R294): a read answers the bytes; a write stores its bytes and advances the counter
that it names; an atomic stores its new word and answers the old one; a write or atomic over a backed range is sent to
the home copy too, and its answer and its counter wait for that; a write over a held range is refused; a
floating-point add to an open ordered region is added to the entry of its source's slot, a new one first zeroed and
tagged, with SIZE and DENIED where its width or the slots do not fit; a word of bad parity answers a data error, or
starts the refetch of its backed block, for which the access waits. The model's own choices that it rests on:
assumption 7. -/
def Obligations.BanksServeInOrder : Prop :=
  (∀ (s : State) (bank : Nat) (r : BankReq), live s = true → s.xbr.find? (fun r => r.bank == bank) = some r →
    r.acc.parts = [] →
    let a := r.acc
    let p := s.power
    let q := bankAhead s bank r
    let groups := (q.1 ++ [r]).flatMap fun x => (accBanks x.acc).map bankIsland
    let asleep := groups.find? p.retained.contains
    (∀ i, asleep = some i → exec (.bankAccess bank) s = .next
      { s with power := { p with retained := p.retained.erase i, waking := setInsert p.waking i } }) ∧
    (asleep = none → groups.any p.waking.contains = true → exec (.bankAccess bank) s = .next s) ∧
    (asleep = none → groups.any p.waking.contains = false →
      let v := serveQueued { s with xbr := q.2 } q.1
      let off := offsetOf a.addr
      let wrote (bs : List Byte) : State := spmWrite (wakeBanks v off a.len) (ownerOf v a.who) off bs
      let refused (n : Nat) : Result := .next (deliver (ordNoteRefused (noteRefusal v (match a.who with
        | .agent _ _ _ _ | .packet _ _ | .debug _ => false
        | _ => true) a.src a.addr n) a) a (.refused n))
      let meets (w : Nat) : Prop :=
        (backOf v w = none → exec (.bankAccess bank) s = .next (deliver v a .dataErr)) ∧
        (∀ n, backOf v w = some n →
          exec (.bankAccess bank) s = .next (waitRefetch (refetchStart v w n) (blockOf w) a))
      let home (u : State) (runs : List (Nat × List Byte)) (count : Option (Nat × Nat)) (old : List Byte) : State :=
        let n := newId u
        let h := runs.foldl (fun h x => let y := homeWrite h.1 x.1 x.2 (.through n.1); (y.1, h.2 + y.2)) (n.2, 0)
        { h.1 with throughs := h.1.throughs ++
          [{ key := n.1, acc := a, ranges := runs.map fun x => (x.1, x.2.length), count, old, left := h.2 }] }
      let free : Prop := heldOver v off a.len = false ∧ ordOver v off a.len = none ∧ refetching v off a.len = none ∧
        spmBadIn v off a.len = none
      (a.kind = .read → ordOver v off a.len = none → refetchWait v a = none → spmBadIn v off a.len = none →
        exec (.bankAccess bank) s = .next (deliver v a (.ok (spmBytes v off a.len)))) ∧
      (a.kind = .write → OwnPlain v a.addr a.len → Apart v off a.len → a.data.length = a.len →
        (a.counter = none → exec (.bankAccess bank) s = .next (deliver (wrote a.data) a (.ok []))) ∧
        (∀ c, a.counter = some c →
          exec (.bankAccess bank) s = .next (deliver (counterAdvance (wrote a.data) c a.len) a (.ok [])))) ∧
      (a.kind = .atomic → OwnPlain v a.addr a.len → Apart v off a.len → ordAdd v a = none →
        let old := spmBytes v off a.len
        exec (.bankAccess bank) s = .next
          (deliver (wrote (toLe a.len (atomicNew a.op a.width (leNat old) (leNat a.data) a.compare.toNat))) a (.ok old))) ∧
      (a.kind = .write → free → Apart v off a.len → backOver v off a.len ≠ [] → a.data.length = a.len →
        exec (.bankAccess bank) s = .next (home (wrote a.data) [(off, a.data)] (a.counter.map fun c => (c, a.len)) [])) ∧
      (a.kind = .atomic → free → Apart v off a.len → backOver v off a.len ≠ [] → ordAdd v a = none →
        let old := spmBytes v off a.len
        let new := toLe a.len (atomicNew a.op a.width (leNat old) (leNat a.data) a.compare.toNat)
        exec (.bankAccess bank) s = .next (home (wrote new) [(off, new)] none old)) ∧
      (a.kind ≠ .read → heldOver v off a.len = true → exec (.bankAccess bank) s = refused 5) ∧
      (∀ n o, ordAdd v a = some n → ordRound v n = some o → heldOver v off a.len = false →
        let slot := ordSlot v n a o
        let bf := bitOf 1 (regGet v (ordReg n 4))
        let slots := regBits v (ordReg n 4) 10 4
        let fits := a.width = if bf then 2 else 0
        let room := slot.1 = true ∨ o.tags.length < slots
        (¬fits → exec (.bankAccess bank) s = refused reasonSize) ∧
        (fits → ¬room → exec (.bankAccess bank) s = refused reasonDenied) ∧
        (fits → room → heldOver v slot.2.2.1 slot.2.2.2 = true → exec (.bankAccess bank) s = refused 5) ∧
        (fits → room → heldOver v slot.2.2.1 slot.2.2.2 = false → refetchWait v a = none →
          (∀ b, refetching v slot.2.2.1 slot.2.2.2 = some b → exec (.bankAccess bank) s = .next (waitRefetch v b a)) ∧
          (refetching v slot.2.2.1 slot.2.2.2 = none →
            (∀ w, slot.1 = true → spmBadIn v slot.2.1 4 = some w → meets w) ∧
            (Canon v → (slot.1 = true → spmBadIn v slot.2.1 4 = none) →
              let old := if slot.1 then ofFp32 (BitVec.ofNat 32 (leNat (spmBytes v slot.2.1 4))) else ofFp32 0
              let entry := toLe 4 (toFp32 (round32 false
                (addV false old (decodeElem (if bf then .bf16 else .fp32) (leNat a.data))).1).val).toNat
              let runs := (if slot.1 then [] else [(slot.2.2.1, List.replicate slot.2.2.2 (0 : Byte))]) ++ [(slot.2.1, entry)]
              let count := regBits v (ordReg n 5) 11 0
              let zero : List Byte := List.replicate a.len 0
              ∃ u, spmBytes u slot.2.1 4 = entry ∧
                (∀ x, ¬(slot.2.1 ≤ x ∧ x < slot.2.1 + 4) → spmByte u x =
                  if slot.1 = false ∧ slot.2.2.1 ≤ x ∧ x < slot.2.2.1 + slot.2.2.2 then 0 else spmByte v x) ∧
                (ordRound u n).map (·.tags) = some (if slot.1 then o.tags else o.tags ++ [carried v a]) ∧
                (slot.1 = false → regBits u (ordReg n 7) 6 0 = o.tags.length + 1) ∧
                (∀ c, counterGet u c = counterGet v c) ∧
                ((∀ x ∈ runs, backOver v x.1 x.2.length = []) → exec (.bankAccess bank) s =
                  .next (deliver (counterAdvance u count a.len) a (.ok zero))) ∧
                ((∃ x ∈ runs, backOver v x.1 x.2.length ≠ []) → exec (.bankAccess bank) s =
                  .next (home u runs (some (count, a.len)) zero)))))) ∧
      (∀ w, a.kind = .read → ordOver v off a.len = none → refetchWait v a = none → spmBadIn v off a.len = some w → meets w) ∧
      (∀ b, spmRefusal v a = none → refetchWait v a = some b →
        exec (.bankAccess bank) s = .next (waitRefetch v b a)))) ∧
  (∀ (s : State) (off n : Nat) (bs : List Byte) (who : Who), backOver s off bs.length = [n] → backBase s n ≤ off →
    off + bs.length ≤ backBase s n + backSize s n →
    homeWrite s off bs who = cmpSend s { kind := .write, addr := backHome s n + (off - backBase s n), len := bs.length, data := bs, who := who }) ∧
  (∀ (s : State) (a : Access) (r : Resp) (t : Through), a.who = .through t.key → s.throughs.find? (fun x => x.key == t.key) = some t →
    let t' : Through := { t with left := t.left - 1, failed := t.failed || causeOf r != 0 }
    let u : State := s.refetch.foldl (fun u x => if x.key.isNone then refetchBegin u x.block else u)
      { s with throughs := dropFirst (fun x => x.key == t.key) s.throughs }
    (1 < t.left → deliver s a r = { s with throughs := replaceFirst (fun x => x.key == t.key) (fun _ => t') s.throughs }) ∧
    (t.left = 1 → t'.failed = false → deliver s a r = deliverBase (match t.count with
      | some c => counterAdvance u c.1 c.2
      | none => u) t.acc (.ok t.old)) ∧
    (t.left = 1 → t'.failed = true → (∀ x, t.acc.who ≠ .load x) → deliver s a r = deliverBase u t.acc .dataErr) ∧
    (∀ x, t.left = 1 → t'.failed = true → t.acc.who = .load x → deliver s a r = deliverBase (threadUpd u x fun y =>
      { y with deferred := y.deferred.orElse fun _ => some (5, BitVec.ofNat 64 t.acc.addr) }) t.acc (.ok t.old)))

/-- R212. The fold of a closed region: each target element takes the sum, rounded to FP32 at every step, of its value
and the slots' entries in ascending source order, rounded at the end to the region's format, and no other byte of
scratchpad changes. Once its writes are visible, which are those of the home copies too where the target is backed,
DONE_COUNTER advances by the target's bytes and CLOSED and ARM clear; SOURCES_SEEN and REFUSED keep their values. -/
def Obligations.OrderedRegionsFold : Prop :=
  ∀ (s : State) (n : Nat) (r : OrdRound), Canon s → live s = true → n < 16 → ordClosed s n = true → ordRound s n = some r →
    s.spmBad = [] → (∀ d ∈ s.descs, d.disturbed = false) → r.folding = false →
    (∀ x ∈ s.refetch, overlap x.block 4096 (ordTarget s n).1 (ordTarget s n).2 = false) →
    let bf := bitOf 1 (regGet s (ordReg n 4))
    let w := if bf then 2 else 4
    let f : Fmt := if bf then .bf16 else .fp32
    let elems := regBits s (ordReg n 2) 20 0
    let base := (ordTarget s n).1
    let done := regBits s (ordReg n 5) 27 16
    let folded (u : State) : Prop :=
      (∀ order : List (Nat × Nat), order.Perm ((List.range r.tags.length).zip r.tags) → order.Pairwise (fun p q => p.2 < q.2) →
        ∀ i < elems, spmBytes u (base + w * i) w = toLe w (encodeElem f (roundTo f {} (order.foldl (fun v p =>
          (round32 false (addV false v
            (ofFp32 (BitVec.ofNat 32 (leNat (spmBytes s ((ordSlots s n).1 + 4 * (p.1 * elems + i)) 4))))).1).val)
          (decodeElem f (leNat (spmBytes s (base + w * i) w))))).val)) ∧
      (∀ a, ¬(base ≤ a ∧ a < base + elems * w) → spmByte u a = spmByte s a)
    let ended (v u : State) : Prop :=
      counterGet u done = counterGet v done + BitVec.ofNat 64 (elems * w) ∧
      (∀ c, c ≠ done → counterGet u c = counterGet v c) ∧
      ordClosed u n = false ∧ ordArm u n = false ∧ ordRound u n = none ∧ regGet u (ordReg n 7) = regGet v (ordReg n 7)
    (backOver s base (elems * w) = [] → ∃ u, exec (.fold n) s = .next u ∧ folded u ∧ ended s u) ∧
    (backOver s base (elems * w) ≠ [] → ∃ u, exec (.fold n) s = .next u ∧ folded u ∧
      (∀ c, counterGet u c = counterGet s c) ∧ ordClosed u n = true ∧ ordArm u n = ordArm s n ∧
      ordRound u n = some { r with folding := true } ∧ ordTarget u n = ordTarget s n ∧
      ∀ (v : State) (a : Access) (x : Resp), Canon v → (∀ d ∈ v.descs, d.disturbed = false) → a.who = .fold n →
        (∀ k < 8, regGet v (ordReg n k) = regGet u (ordReg n k)) → ended v (deliver v a x))

/-- R180, R186, R310. When the home copy of a block has been read, the block holds it with fresh parity, but for what
was made undefined meanwhile, the region's count of refetches is one higher and whoever waited is served; a failed
read leaves the block as it was and raises REFETCH_FAILED, whose event it sets. The model's own choices that it rests
on: assumption 82. -/
def Obligations.RefetchesRepair : Prop :=
  ∀ (s : State) (block : Nat) (r : Refetch) (g : Gather), Canon s → live s = true →
    s.refetch.find? (fun r => r.block == block && r.key.isSome) = some r → r.region < 64 →
    s.gathers.find? (fun g => g.key == r.key.getD 0) = some g → g.left = 0 →
    let log := regGet s 0xC00010 % 2 ^ 27 / 64 * 64
    log + 16384 ≤ block ∨ block + 4096 ≤ log →
    let count := backReg r.region 5
    let ended (ok : Bool) (p : State → Prop) : Prop := ∃ v, exec (.refetch block) s = .next (stewardNext
        (r.waiters.foldl (fun s a => spmServe s (ownerOf s a.who) a (!ok)) (routeRefetched v block ok))) ∧
      v.refetch.map (·.block) = (dropFirst (fun x => x.block == block) s.refetch).map (·.block) ∧ p v
    (g.failed = none → ended true fun v =>
      (∀ i < 4096, (∀ p ∈ r.fresh, ¬(p.1 ≤ block + i ∧ block + i < p.1 + p.2)) →
        spmByte v (block + i) = mapGet (fun _ => (0 : Byte)) g.got (g.addr + i)) ∧
      (s.inject = none → ∀ w, w % 4 = 0 → block ≤ w → w + 4 ≤ block + 4096 → w ∉ v.spmBad) ∧
      regBits v count 31 16 = min (regBits s count 31 16 + 1) 0xFFFF ∧
      (∀ d x, descGet s d = some x → x.waitBlock = some block → ∃ y, descGet v d = some y ∧ y.waitBlock = none)) ∧
    (∀ c, g.failed = some c → (∀ d ∈ s.descs, d.waitBlock ≠ some block) → ended false fun v =>
      (∀ i < 4096, spmByte v (block + i) = spmByte s (block + i)) ∧
      regGet v count = regGet s count ∧ (eeuShut s = false → bitOf 1 (regGet v 0xC00040) = true))

/-- R6, R308, R394, R396, R397, R398. A register write by a master that is admitted: each field takes what its access
code says, an LK field only from a privileged master while its lock is clear; the generations of R397 advance when the
write is accepted, and no other register and nothing else changes, marks of R322 aside. A masked write changes the
selected bits alone; a value out of range reads back as the nearest in range; and a valid backed region, a region
under a round and the active route bank ignore writes to their set-up. The model's own choices that it rests on:
assumptions 34, 67 and 125. -/
def Obligations.RegistersObeyTheirCodes : Prop :=
  ∀ (s : State) (m : Master) (v : Word), Canon s →
    let n := v.toNat
    let priv := masterPriv s m
    (∀ off r, Admits s m .write off →
      let d := regDecode off
      rowOf d = some r → specialOf d = .none → indData? d = none → openWrite s d n = none → lkWrite s d n = none →
      unitAbsent s d = false → d ∉ [0x400100, 0xB00018, 0xB00034, 0x800000] →
      let open' (f : Field) : Bool := f.acc != .lk || (priv && !lockedReg s r)
      let old (f : Field) : Nat := bitsOf f.hi f.lo (regGet s d)
      let new (f : Field) : Nat := bitsOf f.hi f.lo n
      ∃ u, exec (.registerWrite m off v) s = .next u ∧
        (∀ f ∈ r.fields,
          (f.acc = .rw → bitsOf f.hi f.lo (regGet u d) = new f) ∧
          (f.acc = .ro ∨ f.acc = .rc → bitsOf f.hi f.lo (regGet u d) = old f) ∧
          (f.acc = .w1c → bitsOf f.hi f.lo (regGet u d) = old f - (old f &&& new f)) ∧
          (f.acc = .lk → bitsOf f.hi f.lo (regGet u d) = if open' f then new f else old f) ∧
          (f.acc = .lock → bitsOf f.hi f.lo (regGet u d) = if priv && new f == 1 then 1 else old f)) ∧
        (∀ o, o ≠ d → regGet u o = regGet s o) ∧
        (∀ i : Nat, u.gens[i]? = (s.gens[i]?).map (· + if r.fields.all open' && (regGens d).contains i then 1 else 0)) ∧
        { u with regs := s.regs, cfgBad := s.cfgBad, gens := s.gens, descs := s.descs
                 boot := { u.boot with indUser := s.boot.indUser } } = s) ∧
    (∀ off ∈ [0x900040, 0x900044], Admits s m .write off →
      exec (.registerWrite m off v) s = .next (plainWrite (settleBuckets s) true off n)) ∧
    (Admits s m .write 0x400100 → ∃ u, exec (.registerWrite m 0x400100 v) s = .next u ∧ ∀ i < 16,
      bitOf i (regGet u 0x400100) =
        if bitOf (16 + i) n && i < 4 * s.par.arrays then bitOf i n else bitOf i (regGet s 0x400100)) ∧
    (Admits s m .write 0xB00018 → ∃ u, exec (.registerWrite m 0xB00018 v) s = .next u ∧
      regBits u 0xB00018 5 0 = max 1 (min 32 (n % 64))) ∧
    (Admits s m .write 0x800000 → ∃ u, exec (.registerWrite m 0x800000 v) s = .next u ∧
      regBits u 0x800000 4 0 = max 1 (n % 32)) ∧
    (Admits s m .write 0x300018 → lkAccepted s priv 0x300018 = true → ∃ u, exec (.registerWrite m 0x300018 v) s = .next u ∧
      regGet u 0x300018 = n ∧ u.gens[0]? = (s.gens[0]?).map (· + 1)) ∧
    (Admits s m .write 0xB00034 → lkAccepted s priv 0xB00034 = true → ∃ u, exec (.registerWrite m 0xB00034 v) s = .next u ∧
      regBits u 0xB00034 11 0 = n % 4096 ∧ regBits u 0xB00034 27 16 = max 50 (min 400 (n / 65536 % 4096))) ∧
    (∀ k j, k < 64 → j < 8 → j ≠ 5 → Admits s m .write (backReg k j) → backValid s k = true →
      exec (.registerWrite m (backReg k j) v) s = .next s) ∧
    (∀ k j, k < 16 → j < 8 → j ≠ 4 → Admits s m .write (ordReg k j) → (ordArm s k || ordClosed s k) = true →
      exec (.registerWrite m (ordReg k j) v) s = .next s) ∧
    (∀ j, j < 2 → Admits s m .write (0x900010 + 8 * activeBank s + 4 * j) →
      exec (.registerWrite m (0x900010 + 8 * activeBank s + 4 * j) v) s = .next s)

/-- R6, R194, R199, R295. Reads of registers by a master: an RC register answers its count and clears; the low half of
a counter, or of the oscillator count, answers it and keeps the whole value for the read of its high half, whatever
the counter does between; and an LK register reads zero to a master without privilege. -/
def Obligations.ReadsOfRegisters : Prop :=
  ∀ (s : State) (m : Master), Canon s →
    (∀ off r, Admits s m .read off →
      let d := regDecode off
      rowOf d = some r → d ∉ s.cfgBad → capturePair d = none → (∀ k, 4 ≤ d → d - 4 ≠ 0xB00050 ∧ d ≠ 0x908004 + 8 * k) →
      indData? d = none →
      (r.fields = fld .rc → ∃ u, exec (.readClear m off) s = .next u ∧ u.readout = BitVec.ofNat 64 (regGet s d) ∧
        regGet u d = 0 ∧ (∀ o, o ≠ d → regGet u o = regGet s o) ∧
        { u with regs := s.regs, cfgBad := s.cfgBad, readout := s.readout } = s) ∧
      ((∀ f ∈ r.fields, f.acc = .lk ∨ f.acc = .lock) → masterPriv s m = false →
        exec (.readClear m off) s = .next { s with readout := 0 })) ∧
    (∀ c < 4096,
      (Admits s m .read (0x908000 + 8 * c) → ∃ u, exec (.capture m (0x908000 + 8 * c)) s = .next u ∧
        u.readout = BitVec.ofNat 64 ((counterGet s c).toNat % 2 ^ 32) ∧
        mapGet (fun _ => (0 : Dword)) u.cntShadow c = counterGet s c ∧
        { u with readout := s.readout, cntShadow := s.cntShadow } = s) ∧
      (Admits s m .read (0x908004 + 8 * c) → exec (.readClear m (0x908004 + 8 * c)) s = .next
        { s with readout := BitVec.ofNat 64 ((mapGet (fun _ => (0 : Dword)) s.cntShadow c).toNat / 2 ^ 32) })) ∧
    (Admits s m .read 0xB00050 → exec (.capture m 0xB00050) s = .next
      { s with readout := BitVec.ofNat 64 (s.osc % 2 ^ 64 % 2 ^ 32), oscShadow := BitVec.ofNat 64 s.osc }) ∧
    (Admits s m .read 0xB00054 → exec (.readClear m 0xB00054) s = .next
      { s with readout := BitVec.ofNat 64 (s.oscShadow.toNat / 2 ^ 32) })

/-- R6, R7, R396. A command that is a write of privileged registers does nothing for a master without privilege, nor
for any master once the lock that covers its register is set: the write is dropped. The model's own choices that it
rests on: assumption 67. -/
def Obligations.PrivilegeGuardsCommands : Prop :=
  ∀ (s : State) (m : Master) (c index ring g slot : Nat) (v : Word),
    (∀ p ∈ ([(.counterClear m c, 0x900200), (.routeFront m, 0x900020), (.ptmVlimit m v, 0xB00004), (.parityArm m v, 0x700200),
        (.activationFront m v, 0x20005C), (.confirm m, 0x200060), (.revert m, 0x200060), (.programSlot m slot, 0x200090),
        (.revokeSlot m slot, 0x200090), (.svnAdvance m, 0x200090), (.errDone m index, 0xC00020), (.evtSw m, 0xC00048),
        (.ringDisable m ring, 0x300030), (.ringResume m ring, 0x300030), (.ringFlush m ring, 0x300030),
        (.unloadGroup m g, 0xA00020)] : List (Instr × Nat)),
      Admits s m .write p.2 → lkAccepted s (masterPriv s m) p.2 = false → exec p.1 s = .next s) ∧
    (Admits s m .write 0x300030 → masterPriv s m = false → s.dre.cmd = none → exec (.ringEnable m ring) s = .next s) ∧
    (Admits s m .write 0xA00020 → masterPriv s m = false → bitOf 0 (regGet s 0xA00024) = false →
      exec (.loadGroup m g) s = .next s)

/-- R195, R199, R284, R314, R315, R325, R326, R403, R404. Commands that are register writes with more behind them: GO
of FEP_CNT_CLR zeroes a counter; FRONT changes the active bank when nothing of the old epoch is in flight, and is
refused otherwise; EEU_ERR_DONE closes an open entry; SET raises the software event; clearing VALID frees the fatal
record; and an indirect access reaches the word that its address names, reports whether it took effect and moves the
address on. The model's own choices that it rests on: assumptions 24, 67, 126, 141 and 154. -/
def Obligations.RegisterCommandsAct : Prop :=
  ∀ (s : State) (m : Master), Canon s →
    let priv := masterPriv s m
    (∀ c < 4096, Admits s m .write 0x900200 → priv = true → bitOf 31 (regGet s 0x900200) = false →
      ∃ u, exec (.counterClear m c) s = .next u ∧ counterGet u c = 0 ∧ (∀ k, k ≠ c → counterGet u k = counterGet s k) ∧
        regBits u 0x900200 11 0 = c ∧ bitOf 31 (regGet u 0x900200) = false) ∧
    (Admits s m .write 0x900020 → priv = true → bitOf 0 (regGet s 0x900020) = false →
      (oldInflight s = 0 → routeBaseOk s (1 - activeBank s) = true → ∃ u, exec (.routeFront m) s = .next (fepRetryUnrouted u) ∧
        activeBank u = 1 - activeBank s ∧ bitOf 1 (regGet u 0x900024) = false ∧ u.gens = s.gens ∧ u.fep.wild = [] ∧
        u.fep.reqs = s.fep.reqs.map (fun r => if inFlight r then { r with oldEpoch := true } else r) ∧
        (∀ c ∈ u.fep.ports, (∀ q ∈ c.queue, q.oldEpoch = true) ∧ ∀ f ∈ c.sent, f.oldEpoch = true)) ∧
      (oldInflight s ≠ 0 → ∃ u, exec (.routeFront m) s = .next u ∧ activeBank u = activeBank s ∧ u.fep = s.fep ∧
        bitOf 1 (regGet u 0x900024) = true ∧ regBits u 0x900024 3 2 = 1)) ∧
    (∀ index < 65536, Admits s m .write 0xC00020 → priv = true → s.errors.nest.Nodup →
      (∃ e ∈ s.errors.opens, e.index = index) → ∃ u, exec (.errDone m index) s = .next u ∧ index ∉ u.errors.nest ∧
        u.errors.opens.map (·.index) = (s.errors.opens.map (·.index)).filter (· != index) ∧
        regBits u 0xC00014 31 16 = ((u.errors.opens.map (·.index)).headD (regBits s 0xC00014 15 0)) % 65536) ∧
    (Admits s m .write 0xC00048 → priv = true → bitOf 0 (regGet s 0xC00048) = false →
      ∃ u, exec (.evtSw m) s = .next u ∧ bitOf 7 (regGet u 0xC00040) = true ∧
        ∀ b < 32, b ≠ 7 → bitOf b (regGet u 0xC00040) = bitOf b (regGet s 0xC00040)) ∧
    (Admits s m .write 0xC00030 → ∃ u, exec (.fatalClear m) s = .next u ∧
      (∀ o, regGet u o = if o ∈ [0xC00030, 0xC00034, 0xC00038, 0xC0003C] then 0 else regGet s o) ∧
      { u with regs := s.regs, cfgBad := s.cfgBad } = s) ∧
    (∀ k < 4,
      let addr := 0xD00000 + 0x10 * k
      let status (u : State) : Nat := regGet u (addr + 12)
      let space := regBits s addr 23 20
      let next (u : State) : Prop := regBits u addr 19 2 = (regBits s addr 19 2 + 1) % 2 ^ 18 ∧ regBits u addr 23 20 = space
      let mine : Prop := ∀ x, s.boot.indUser.find? (fun x => x.1 == k) = some x → x.2 = masterUser m
      ∃ w < 2 ^ 18, (mine → w = regBits s addr 19 2) ∧
      (∀ c, (c = .indData m k none ∧ Admits s m .read (addr + 4)) ∨ (c = .indDataNoinc m k none ∧ Admits s m .read (addr + 8)) →
        indKey space w ∈ s.cfgBad → live s = true → ∃ u, exec c s = .next u ∧ live u = false) ∧
      (indKey space w ∉ s.cfgBad → Admits s m .read (addr + 4) → ∃ u, exec (.indData m k none) s = .next u ∧ next u ∧
        status u = (if w < spaceWords space then 0 else 1) ∧
        u.readout = BitVec.ofNat 64 (if w < spaceWords space then indRead s priv space w else 0)) ∧
      (indKey space w ∉ s.cfgBad → Admits s m .read (addr + 8) → ∃ u, exec (.indDataNoinc m k none) s = .next u ∧ regGet u addr = regGet s addr ∧
        u.readout = BitVec.ofNat 64 (if w < spaceWords space then indRead s priv space w else 0)) ∧
      (∀ v, Admits s m .write (addr + 4) → w < spaceWords space → ∃ u, exec (.indData m k (some v)) s = .next u ∧ next u ∧
        (priv = true → bitOf 0 (regGet s 0xD00100) = false →
          (space = 3 → mapGet Config.romTable u.ftab w = v ∧ status u = 0 ∧ ∀ i : Nat, u.gens[i]? =
            (s.gens[i]?).map (· + if i = 1 ∨ i = 2 then 1 else 0)) ∧
          (space = 6 → mapGet (fun _ => (0 : Word)) u.trim w = v ∧ status u = 0) ∧
          (space = 3 ∨ space = 6 → s.cfgBad.Nodup → indKey space w ∉ u.cfgBad)) ∧
        (priv = false ∨ bitOf 0 (regGet s 0xD00100) = true ∨ (space ≠ 3 ∧ space ≠ 6) →
          u.ftab = s.ftab ∧ u.trim = s.trim ∧ status u = 2)))

/-- R297, R300, R302, R306, R308. Requests to the power controller: GALE is granted only while the ledgers, the alert,
the temperature and VMAX allow it, and otherwise REQ reads STEADY with a reason that holds; the cap and its ramp are
held in their ranges while eff goes on from where it was; and a VMAX below 950 mV ends Gale. The model's own choices
that it rests on: assumptions 67, 121 and 156. -/
def Obligations.PowerRequests : Prop :=
  ∀ (s : State) (m : Master) (v : Word), Canon s →
    let n := v.toNat
    (Admits s m .write 0xB00010 →
      let against (k : Nat) : Prop := (k = 1 ∧ credit s < 50000) ∨ (k = 2 ∧ budget s < heat s + 50000) ∨
        (k = 3 ∧ s.power.alert = true) ∨ (k = 4 ∧ regBits s 0xB00034 11 0 ≤ s.power.tempQ) ∨ (k = 5 ∧ vMax s < 950)
      ∃ u, exec (.ptmMode m v) s = .next u ∧ u.power = s.power ∧
        (n % 4 = 2 → (∀ k, ¬against k) → regBits u 0xB00010 1 0 = 2 ∧ bitOf 4 (regGet u 0xB00020) = false) ∧
        (n % 4 = 2 → (∃ k, against k) → regBits u 0xB00010 1 0 = 1 ∧ bitOf 4 (regGet u 0xB00020) = true ∧
          against (regBits u 0xB00020 7 5)) ∧
        (n % 4 = 3 → regBits u 0xB00010 1 0 = 1) ∧ (n % 4 < 2 → regBits u 0xB00010 1 0 = n % 4)) ∧
    (Admits s m .write 0xB00014 → ∃ u, exec (.ptmPowerCap m v) s = .next u ∧ u.power = s.power ∧
      regBits u 0xB00014 15 0 = max 160 (min 1200 (n % 65536)) ∧ regBits u 0xB00014 31 16 = max 1 (min 160 (n / 65536)) ∧
      (bitOf 2 (regGet u 0xB00020) = true ↔ s.power.eff ≠ 1000 * max 160 (min 1200 (n % 65536)))) ∧
    (Admits s m .write 0xB00004 → lkAccepted s (masterPriv s m) 0xB00004 = true →
      let lo := max 650 (min 950 (n % 4096))
      let hi := max 650 (min 950 (n / 65536 % 4096))
      (hi < lo → exec (.ptmVlimit m v) s = .next s) ∧
      (lo ≤ hi → ∃ u, exec (.ptmVlimit m v) s = .next u ∧ vMin u = lo ∧ vMax u = hi ∧
        { u.power with firstNow := s.power.firstNow } = s.power ∧
        (galeTime s = true → hi < 950 → modeReq u = min 1 (modeReq s) ∧ bitOf 6 (regGet u 0xB00030) = true ∧
          (eeuShut s = false → bitOf 5 (regGet u 0xC00040) = true)) ∧
        (galeTime s = false ∨ hi = 950 → regGet u 0xB00010 = regGet s 0xB00010 ∧ regGet u 0xB00030 = regGet s 0xB00030)))

/-- R180, R181, R182, R184, R210, R213. Set-up of the scratchpad: an injection is armed for a word that exists, and
the next write that touches it leaves its parity bad; a backed region becomes valid only when its range, home and
neighbours allow it, and is released with its holds; a region's round opens only within R210, its slots empty and its
count starting from COUNTER, and abandoning it discards the round and leaves the counters. The model's own choices
that it rests on: assumptions 34 and 67. -/
def Obligations.ScratchpadSetUp : Prop :=
  ∀ (s : State) (m : Master) (v : Word), Canon s →
    let n := v.toNat
    (Admits s m .write 0x700200 → masterPriv s m = true →
      let w := n / 4 * 4 + 2 ^ 32 * regBits s 0x700204 7 0
      (bitOf 0 n = true → inSpm s w 4 = true → ∃ u, exec (.parityArm m v) s = .next u ∧ u.inject = some w ∧
        bitOf 0 (regGet u 0x700200) = true ∧ u.spm = s.spm ∧ u.spmBad = s.spmBad ∧
        ∀ off bs, overlap w 4 off bs.length = true → w ∈ (spmStore u off bs).spmBad ∧ (spmStore u off bs).inject = none ∧
          bitOf 0 (regGet (spmStore u off bs) 0x700200) = false) ∧
      (bitOf 0 n = false ∨ inSpm s w 4 = false → ∃ u, exec (.parityArm m v) s = .next u ∧ u.inject = none ∧
        bitOf 0 (regGet u 0x700200) = false)) ∧
    (∀ k < 64, Admits s m .write (backReg k 5) →
      let legal : Prop := backSize s k ≠ 0 ∧ inSpm s (backBase s k) (backSize s k) = true ∧ isChip (backHome s k) = true ∧
        ∀ j < 64, j ≠ k → backValid s j = true → overlap (backBase s j) (backSize s j) (backBase s k) (backSize s k) = false
      let err (u : State) : Bool := bitOf 1 (regGet u (backReg k 5))
      let same (u : State) : Prop := ∀ o, o ≠ backReg k 5 → regGet u o = regGet s o
      (bitOf 0 n = true → backValid s k = false → legal → ∃ u, exec (.backValid m k v) s = .next u ∧
        backValid u k = true ∧ err u = false ∧ same u ∧ u.spm = s.spm) ∧
      (bitOf 0 n = true → backValid s k = false → ¬legal → ∃ u, exec (.backValid m k v) s = .next u ∧
        backValid u k = false ∧ err u = true ∧ same u) ∧
      (bitOf 0 n = false → ∃ u, exec (.backValid m k v) s = .next u ∧ backValid u k = false ∧ err u = false ∧ same u ∧
        u.spm = s.spm ∧ ∀ d ∈ u.descs, k ∉ d.holds)) ∧
    (∀ k < 16, Admits s m .write (ordReg k 4) → ordArm s k = false → ordClosed s k = false → bitOf 0 n = true →
      let width := if bitOf 1 n then 2 else 4
      let slots := bitsOf 10 4 n
      let elems := regBits s (ordReg k 2) 20 0
      let base := (ordTarget s k).1
      let area := regBits s (ordReg k 3) 26 7 * 128
      let count := regBits s (ordReg k 5) 11 0
      let mine : List (Nat × Nat) := [(base, elems * width), (area, slots * elems * 4)]
      let legal : Prop := 1 ≤ elems ∧ elems ≤ 1048576 ∧ 1 ≤ slots ∧ slots ≤ 64 ∧ regGet s (ordReg k 6) ≠ 0 ∧
        inSpm s base (elems * width) = true ∧ base % width = 0 ∧ inNear s area (slots * elems * 4) = true ∧
        overlap base (elems * width) area (slots * elems * 4) = false ∧ count ≠ regBits s (ordReg k 5) 27 16 ∧
        ∀ j < 16, j ≠ k → (ordArm s j || ordClosed s j) = true →
          ∀ p ∈ mine, ∀ q ∈ [ordTarget s j, ordSlots s j], overlap p.1 p.2 q.1 q.2 = false
      (legal → ∃ u, exec (.orderedArm m k v) s = .next u ∧ ordArm u k = true ∧ ordClosed u k = false ∧
        bitOf 2 (regGet u (ordReg k 4)) = false ∧ regGet u (ordReg k 7) = 0 ∧ u.counters = s.counters ∧
        ordRound u k = some { region := k, base := counterGet s count, tags := [] }) ∧
      (¬legal → ∃ u, exec (.orderedArm m k v) s = .next u ∧ ordArm u k = false ∧ bitOf 2 (regGet u (ordReg k 4)) = true ∧
        u.ord = s.ord)) ∧
    (∀ k < 16, Admits s m .write (ordReg k 4) → ordArm s k = true → ordClosed s k = false → bitOf 0 n = false →
      ∃ u, exec (.abandon m k v) s = .next u ∧ ordArm u k = false ∧ ordRound u k = none ∧ u.counters = s.counters ∧ u.spm = s.spm)

/-- R342, R359. Fuse operations: one that R359 allows starts and is busy, changing no fuse until it ends, and any
other is refused with ERROR; one that ends well blows the slot's hash and its bit, the slot's revocation, or one floor
bit, and one that fails its read-back sets ERROR and clears no bit. The sensed values wait for the next reset. The
model's own choices that it rests on: assumption 119. -/
def Obligations.FuseOperations : Prop :=
  ∀ (s : State) (m : Master), Canon s →
    (Admits s m .write 0x200090 → lkAccepted s (masterPriv s m) 0x200090 = true → bitOf 31 (regGet s 0x200090) = false →
      s.boot.fuseOp = none →
      let src := regGet s 0x200094 % 2 ^ 27 / 64 * 64
      let starts (c : Instr) (op slot : Nat) (ok : Prop) : Prop :=
        (ok → ∃ u, exec c s = .next u ∧
          u.boot.fuseOp = some (op, slot, BitVec.ofNat 384 (beNat (spmBytes s src 48))) ∧ u.fuses = s.fuses ∧
          bitOf 15 (regGet u 0x200098) = true ∧ bitOf 16 (regGet u 0x200098) = false) ∧
        (¬ok → ∃ u, exec c s = .next u ∧ u.boot.fuseOp = none ∧ u.fuses = s.fuses ∧ bitOf 16 (regGet u 0x200098) = true)
      (∀ slot < 4, (Quiet s src 48 → starts (.programSlot m slot) 1 slot (slot ≠ 0 ∧ s.fuses.programmed.getLsbD slot = false ∧
          inNear s src 48 = true ∧ spmBadIn s src 48 = none ∧ ordOver s src 48 = none)) ∧
        (∃ u, exec (.programSlot m slot) s = .next u ∧ u.fuses = s.fuses ∧
          (u.boot.fuseOp = none ∨ ∃ hash, u.boot.fuseOp = some (1, slot, hash))) ∧
        starts (.revokeSlot m slot) 2 slot (slot ≠ 0)) ∧
      starts (.svnAdvance m) 3 0 (svnFloor s.fuses < 64)) ∧
    (∀ op slot hash, live s = true → s.boot.fuseOp = some (op, slot, hash) →
      let old := (s.fuses.keys[slot]?).getD 0
      (op ≠ 1 ∨ old ||| hash = hash → ∃ u, exec (.fuseProgrammingEnd true) s = .next u ∧ u.boot.fuseOp = none ∧ u.fusesSensed = s.fusesSensed ∧
        bitOf 15 (regGet u 0x200098) = false ∧ bitOf 16 (regGet u 0x200098) = false ∧
        (op = 1 → u.fuses = { s.fuses with
          keys := s.fuses.keys.set slot hash, programmed := s.fuses.programmed ||| (1#4 <<< slot) }) ∧
        (op = 2 → u.fuses = { s.fuses with revoked := s.fuses.revoked ||| (1#4 <<< slot) }) ∧
        (op = 3 → u.fuses = { s.fuses with svnBits := s.fuses.svnBits ||| (1#64 <<< svnFloor s.fuses) })) ∧
      (∀ ok, ok = false ∨ (op = 1 ∧ old ||| hash ≠ hash) →
        ∃ u, exec (.fuseProgrammingEnd ok) s = .next u ∧ u.boot.fuseOp = none ∧ u.fusesSensed = s.fusesSensed ∧
        bitOf 15 (regGet u 0x200098) = false ∧ bitOf 16 (regGet u 0x200098) = true ∧
        u.fuses.programmed &&& s.fuses.programmed = s.fuses.programmed ∧ u.fuses.revoked &&& s.fuses.revoked = s.fuses.revoked ∧
        u.fuses.svnBits &&& s.fuses.svnBits = s.fuses.svnBits ∧
        ∀ (i : Nat) (k : BitVec 384), s.fuses.keys[i]? = some k → ∃ k', u.fuses.keys[i]? = some k' ∧ k' &&& k = k))

/-- R292, R294, R296, R297, R301 to R306, R379, R380, R382. The power controller in time: in a control period the
ledgers move by Gale time, eff slews toward the cap, the supply moves by one step of at most 5 mV and rises only when
VIN has risen, and a condition of R306 in Gale time ends Gale; the alert lowers the ceiling; and an island that
nothing uses is gated, losing only retained planes or cached lines, while a bank group in retention keeps its
contents. The model's own choices that it rests on: assumptions 3, 12, 121, 122, 123, 145, 156 and 167. -/
def Obligations.PowerInTime : Prop :=
  ∀ s : State, Canon s → live s = true →
    (∀ tel : Telemetry,
      let p := s.power
      let heat' := if galeTime s then p.heat4 + 4 else p.heat4 - 1
      let credit' := if galeTime s then p.credit10 - 10 else min (p.credit10 + 1) 40000000
      let target := 1000 * max 160 (min 1200 (regBits s 0xB00014 15 0))
      let ramp := regBits s 0xB00014 31 16
      let delta := (p.lastPower.map fun q => max (tel.power - q) (q - tel.power)).getD 0
      let temp := hottest s tel.sensors
      let cond (i : Nat) : Prop := (i = 0 ∧ budget s ≤ heat' / 4) ∨ (i = 1 ∧ regBits s 0xB00034 11 0 ≤ temp) ∨
        (i = 2 ∧ p.alert = true) ∨ (i = 3 ∧ 10 * regBits s 0xB00038 15 0 < (tel.islands.map (·.2)).sum) ∨
        (i = 4 ∧ 2 * regBits s 0xB00018 5 0 < 4 * delta) ∨ (i = 5 ∧ credit' / 10 = 0)
      ∃ u, exec (.controlPeriod tel) s = .next u ∧ u.osc = s.osc + 1000 ∧
        u.power.heat4 = heat' ∧ u.power.credit10 = credit' ∧ u.power.tempQ = temp ∧
        ((∃ w ∈ tel.sensors, bitOf 31 w.toNat = true) → (∃ w ∈ tel.sensors, bitOf 31 w.toNat = true ∧ temp = bitsOf 11 0 w.toNat) ∧
          ∀ w ∈ tel.sensors, bitOf 31 w.toNat = true → bitsOf 11 0 w.toNat ≤ temp) ∧
        u.power.sensors = tel.sensors ∧ u.power.islands = tel.islands ∧
        u.power.galeUs = (if galeTime s then p.galeUs + 1 else p.galeUs) ∧
        (p.eff ≤ target → u.power.eff = min target (p.eff + ramp)) ∧
        (target ≤ p.eff → u.power.eff = max target (p.eff - ramp)) ∧
        p.vset - 5 ≤ u.power.vset ∧ u.power.vset ≤ p.vset + 5 ∧
        (p.fixedVin = none → u.power.vset ≤ p.vset) ∧
        (galeTime s = true → ∀ i, cond i → modeReq u = min 1 (modeReq s) ∧ bitOf i (regGet u 0xB00030) = true ∧
          (eeuShut s = false → bitOf 5 (regGet u 0xC00040) = true)) ∧
        (galeTime s = false ∨ (∀ i, ¬cond i) → regGet u 0xB00010 = regGet s 0xB00010 ∧ regGet u 0xB00030 = regGet s 0xB00030) ∧
        regBits u 0xB00024 15 0 = tel.power % 65536 ∧ regBits u 0xB00028 27 16 = temp % 4096 ∧
        u.power.islandRep = (List.range s.par.islands).map (fun i => (islandVset u i, islandWord u i)) ∧
        (avsBusy p u.osc = true → u.power.avsFrame = p.avsFrame) ∧
        (p.fixedVin = none → avsBusy p u.osc = false → p.avsVolt ≠ some u.power.vinReq →
          u.power.avsFrame = some { write := true, code := 0, data := u.power.vinReq, since := u.osc } ∧
          u.power.avsVolt = some u.power.vinReq) ∧
        u.spm = s.spm ∧ u.descs = s.descs) ∧
    (∀ a, ∃ u, exec (.thermAlertN a) s = .next u ∧
      { u.power with firstNow := s.power.firstNow } = { s.power with alert := a } ∧
      (a = true → ceiling u ≤ 650 ∧ (eeuShut s = false → hotCeiling s = false → bitOf 6 (regGet u 0xC00040) = true) ∧
        (galeTime s = true → modeReq u = min 1 (modeReq s) ∧ bitOf 2 (regGet u 0xB00030) = true ∧
          (eeuShut s = false → bitOf 5 (regGet u 0xC00040) = true)))) ∧
    (∀ mv, s.power.fixedVin = none → ∃ u, exec (.vinReady mv) s = .next u ∧ u.power.avsSeen = true ∧
      u.power.avsMiss = 0 ∧ u.power.avsFrame = none ∧
      u.power.vset = if s.power.vset + 60 < s.power.vinReq ∧ s.power.vinReq ≤ mv ∧ s.power.vinReq ≤ ceiling s + 60 ∧
          s.power.debt < regBits s 0xB00018 5 0
        then s.power.vinReq - 60 else s.power.vset) ∧
    (∀ mv, s.power.avsSeen = false → ∃ u, exec (.fixedVin mv) s = .next u ∧ u.power.fixedVin = some mv ∧ ceiling u ≤ mv - 60) ∧
    (∀ i, s.power.gated.contains i = false → s.power.waking.contains i = false → mayGate s i = true →
      ∃ u, exec (.islandGate i) s = .next u ∧ u.power.gated = setInsert s.power.gated i ∧
        { u with power := s.power, mxe := s.mxe, l1 := s.l1 } = s ∧ u.mxe.modes = s.mxe.modes ∧
        (∀ x ∈ u.mxe.planes, x ∈ s.mxe.planes) ∧
        (∀ x ∈ s.mxe.planes, (64 ≤ i ∨ x.array ≠ i / 16 ∨ covers x.mode x.part (i % 16) = false) → x ∈ u.mxe.planes) ∧
        (∀ l ∈ s.l1, (i < 68 ∨ l.core ≠ i - 68) → l ∈ u.l1)) ∧
    (∀ i, 84 ≤ i → i ≤ 89 → bitOf 0 (regGet s 0x700000) = true → (∀ r ∈ s.xbr, ∀ b ∈ accBanks r.acc, bankIsland b ≠ i) →
      s.power.waking.contains i = false → ∃ u, exec (.retention i) s = .next u ∧
      i ∈ u.power.retained ∧ { u with power := s.power } = s) ∧
    (∀ i, s.power.waking.Nodup → s.power.retained.Nodup → ∃ u, exec (.islandWake i) s = .next u ∧
      i ∉ u.power.waking ∧ i ∉ u.power.retained ∧ u.power.gated = s.power.gated ∧ { u with power := s.power } = s)

/-- R309 to R317, R319, R320, R325, R326, R356. An error is logged in the entry of WIDX, which moves on, or counted as
lost in a full log; a contained error goes on, a cluster-fatal one stops the cluster with its record and its links
down, a chip error goes on unless the supply failed, and a stopped cluster logs nothing more. A trip, a supply
failure, a stalled handshake, a configuration word whose parity is bad and CMP_FATAL_N raise theirs; a window of
corrected errors ends at its boundary; and a request for attention sets REQ. The model's own choices that it rests on:
assumptions 3, 26, 29, 124, 128, 134, 142, 143, 145, 168 and 169. -/
def Obligations.ErrorsAndStops : Prop :=
  ∀ s : State, Canon s → live s = true →
    let w := logW s
    let slot := regGet s 0xC00010 % 2 ^ 27 / 64 * 64 + 64 * (w % 256)
    let room : Prop := dist16 w (logR s) < 256
    let kept : Prop := heldOver s slot 64 = true ∨ (ordOver s slot 64).isSome = true
    let takes : Prop := room ∧ ¬kept ∧ refetching s slot 64 = none
    let fault (u : State) (i : Nat) : State := raiseErr u { code := 0x0401, cls := 4, resource := resource 11 i, info0 := i }
    let event (u : State) (b : Nat) : Prop := bitOf b (regGet u 0xC00040) = true
    let logged (u : State) (bs : List Byte) : Prop := spmBytes u slot 64 = bs ∧
      (∀ a, ¬(slot ≤ a ∧ a < slot + 64) → spmByte u a = spmByte s a) ∧ regBits u 0xC00014 15 0 = (w + 1) % 65536
    (eeuShut s = true → ∀ e : ErrRec,
      raiseErr s e = if e.cls = 3 ∨ e.code = 0x0401 then stopCluster s (e.code == 0x0401) else s) ∧
    (eeuShut s = false →
    (∀ e : ErrRec, e.cls = 2 → e.internal = false → live (raiseErr s e) = true ∧ event (raiseErr s e) 1 ∧
      (takes → logged (raiseErr s e) (logBytes s.osc w e 2 false 0)) ∧
      (room → kept → (raiseErr s e).spm = s.spm ∧ regBits (raiseErr s e) 0xC00014 15 0 = (w + 1) % 65536) ∧
      (¬room → (raiseErr s e).spm = s.spm ∧ regGet (raiseErr s e) 0xC00024 = min (regGet s 0xC00024 + 1) 0xFFFFFFFF ∧
        event (raiseErr s e) 4 ∧ regBits (raiseErr s e) 0xC00014 15 0 = w)) ∧
    (∀ e : ErrRec, e.cls = 3 → live (raiseErr s e) = false ∧ event (raiseErr s e) 2 ∧
      (takes → logged (raiseErr s e) (logBytes s.osc w e 3 false 0)) ∧
      (bitOf 31 (regGet s 0xC00030) = false → e.code < 65536 → errUnit e < 32 →
        bitOf 31 (regGet (raiseErr s e) 0xC00030) = true ∧ regBits (raiseErr s e) 0xC00030 15 0 = e.code) ∧
      (bitOf 31 (regGet s 0xC00030) = true → regGet (raiseErr s e) 0xC00030 = regGet s 0xC00030) ∧
      (∀ c ∈ (raiseErr s e).fep.ports, c = {}) ∧ (∀ p < 4, bitOf 0 (regGet (raiseErr s e) (0x900100 + 4 * p)) = false) ∧
      ∀ e' : ErrRec, e'.cls ≠ 4 → raiseErr (raiseErr s e) e' = raiseErr s e) ∧
    (∀ e : ErrRec, e.cls = 4 → event (raiseErr s e) 3 ∧
      (e.code ≠ 0x0401 → live (raiseErr s e) = true ∧ (takes → logged (raiseErr s e) (logBytes s.osc w e 4 false 0))) ∧
      (e.code = 0x0401 → live (raiseErr s e) = false ∧ (raiseErr s e).spmLost.isSome = true)) ∧
    (∀ (e : ErrRec) (last : Option Nat) (n : Nat), e.cls = 1 → suppOf s (e.code, e.resource) = (last, n) →
      live (raiseErr s e) = true ∧
      let soon : Prop := ∃ t, last = some t ∧ s.osc < t + 1000 * regBits s 0xC00050 15 0
      let after := suppOf (raiseErr s e) (e.code, e.resource)
      (soon → (raiseErr s e).spm = s.spm ∧ after = (last, n + 1)) ∧
      (¬soon → takes → logged (raiseErr s e) (logBytes s.osc w e 1 false n)) ∧
      (¬soon → room → after = (some s.osc, 0)) ∧
      (¬soon → ¬room → (raiseErr s e).spm = s.spm ∧ after = (last, n + 1)))) ∧
    exec .thermalTrip s = .next (raiseErr s { code := 0x0305, cls := 3, unit := 19 }) ∧
    (∀ i, exec (.supplyFault (.island i)) s = .next (fault s i)) ∧
    (s.power.fixedVin = none →
      (∀ word bad, let u : State := { s with power := { s.power with
          avsSeen := true, avsStatus := word, avsMiss := 0, avsFrame := none } }
        exec (.supplyFault (.status word bad)) s = .next (if bad then fault u 97 else u)) ∧
      (s.power.avsSeen = true → let u : State := { s with power := { s.power with
          avsMiss := s.power.avsMiss + 1, avsFrame := none } }
        exec (.supplyFault .silence) s = .next (if s.power.avsMiss + 1 = 3 then fault u 97 else u))) ∧
    (s.power.fixedVin.isSome = true ∨ s.power.avsSeen = false → exec (.supplyFault .silence) s = .next s) ∧
    (s.cmp.fatal = false →
      let v := raiseErr { s with cmp := { s.cmp with fatal := true } } { code := 0x0402, cls := 4, unit := 15 }
      exec .chipMemoryFatal s = .next (stewardNext { v with dre := { v.dre with
        doomed := (v.dre.rings.filter fun r => !r.disabling && onChipMemory v r).map (·.ring) } })) ∧
    (s.cmp.fatal = true → exec .chipMemoryFatal s = .next s) ∧
    (∀ h : Handshake,
      let up (i : Nat) : Prop := i ∉ s.power.gated ∧ i ∉ s.power.waking ∧ i ∉ s.power.retained ∧ (s.power.pacing = false ∨ 84 ≤ i)
      (regBits s 0xC00058 15 0 ≠ 0 → up h.asker → up h.answerer → exec (.handshakeStall h) s = .next
        (raiseErr s { code := 0x0304, cls := 3, internal := true, resource := resource 11 h.answerer, info0 := h.answerer })) ∧
      (regBits s 0xC00058 15 0 = 0 ∨ ¬up h.asker ∨ ¬up h.answerer → exec (.handshakeStall h) s = .next s)) ∧
    (s.cfgBad = [] → exec (.scrub none) s = .next s) ∧
    (∀ o r, s.cfgBad = [] → rowOf o = some r → o < 2 ^ 24 →
      (∃ f ∈ r.fields, f.acc = .rw ∨ f.acc = .wm ∨ f.acc = .lk ∨ f.acc = .lock) →
      exec (.scrub (some o)) s = .next (raiseCfgParity { s with cfgBad := [o] } o)) ∧
    (∀ space word, s.cfgBad = [] → (space = 3 ∧ word < 2560) ∨ (space = 6 ∧ word < 256) →
      let o := 2 ^ 24 * space + 4 * word
      exec (.scrub (some o)) s = .next (raiseCfgParity { s with cfgBad := [o] } o)) ∧
    (∃ u, exec .windowBoundary s = .next u ∧ u.errors.window = 0 ∧ s.osc < u.osc ∧ u.osc % 2 ^ 30 = 0 ∧ u.osc ≤ s.osc + 2 ^ 30 ∧
      { u with osc := s.osc, errors := s.errors } = s) ∧
    (stage s ≠ 7 → ∃ u, exec (.attnReq .lasted) s = .next u ∧ u.boot = { s.boot with attnIn := true } ∧
      bitOf 0 (regGet u 0x200070) = true ∧ ∀ o, o ≠ 0x200070 → regGet u o = regGet s o) ∧
    (∀ level : AttnIn, level ≠ .lasted →
      exec (.attnReq level) s = .next { s with boot := { s.boot with attnIn := level == .high } })

/-- R176, R358, R385, R386, R387. The test access port: TRST_N selects IDCODE, which reads 0x14B09A6F, and closes
every segment; a code not listed bypasses; a scan of the segment bits reads them closed, and opens none, unless the
debug path is admitted; and one of REG_ACCESS shifts out the result of the access before it and starts the next, which
reaches a register with privilege or a word of near scratchpad only while the debug path is admitted, is busy until
its bank and its home copy have answered, and when refused changes nothing and says why; a stopped cluster's port does
nothing. The model's own choices that it rests on: assumptions 144 and 166. -/
def Obligations.TestAccessPort : Prop :=
  ∀ s : State,
    (s.boot.stopped = true → ∀ segs code off wr data tdi, ∀ c ∈ ([.trstN, .idcode, .ijtagSel segs, .regAccess off wr data,
      .bypass ⟨code, tdi⟩] : List Instr), exec c s = .next s) ∧
    (debugOpen s = true ↔ bitOf 0 (regGet s 0x200080) = true ∨ (stage s = 7 ∧ s.fuses.recoveryDebug = true)) ∧
    (∀ x, segOpen s x = (live s && debugOpen s && bitOf (segPlace x) s.tap.segs.toNat)) ∧
    (∀ (key : Nat) (b : Access), b.who = .debug key → s.tap.key = some key →
      (∀ bs, deliver s b (.ok bs) = { s with tap := { s.tap with
        status := 0, data := if b.kind = .read then BitVec.ofNat 32 (leNat bs) else s.tap.data } }) ∧
      (∀ n, deliver s b (.refused n) = { s with tap := { s.tap with status := 3 } })) ∧
    (s.boot.stopped = false →
      exec .trstN s = .next { s with tap := { s.tap with ir := 0x01, segs := 0 } } ∧
      exec .idcode s = .next { s with tap := { s.tap with ir := 0x01, tdo := tdoBits 32 0x14B09A6F }, readout := 0x14B09A6F } ∧
      (∀ segs, (live s && debugOpen s) = true →
        exec (.ijtagSel segs) s = .next { s with tap := { s.tap with
          ir := 0x10, segs := segs, tdo := [7, 6, 5, 4, 3, 2, 1, 0].map fun i => bitOf i s.tap.segs.toNat } }) ∧
      (∀ segs, (live s && debugOpen s) = false →
        exec (.ijtagSel segs) s = .next { s with tap := { s.tap with ir := 0x10, segs := 0, tdo := List.replicate 8 false } }) ∧
      (∀ code, code ≠ 0x01 → code ≠ 0x10 → code ≠ 0x20 →
        (exec (.bypass ⟨code, []⟩) s = .next { s with tap := { s.tap with ir := code, byp := false, tdo := [] } }) ∧
        ∀ tdi b, exec (.bypass ⟨code, tdi ++ [b]⟩) s =
          .next { s with tap := { s.tap with ir := code, byp := b, tdo := false :: tdi } }) ∧
      (∀ (off : BitVec 40) (wr : Bool) (data : Word),
        let last := s.tap
        let u : State := { s with
          tap := { last with
            ir := 0x20, offset := off, wr := wr, data := if wr then data else 0, status := 1, key := none
            tdo := tdoBits 80 (last.offset.toNat + 2 ^ 40 * boolBit last.wr + 2 ^ 41 * last.data.toNat + 2 ^ 73 * last.status.toNat) }
          readout := last.data.setWidth 64 }
        let told (v : State) (st : BitVec 2) : State := { v with tap := { v.tap with status := st } }
        let gives (v : State) (x : Nat) : State := { v with tap := { v.tap with status := 0, data := BitVec.ofNat 32 x } }
        let a : Access := { kind := if wr then .write else .read, addr := ownAddr s off.toNat, len := 4
                            data := if wr then toLe 4 data.toNat else [], src := ownId s, steward := true }
        ((live s && debugOpen s) = false → exec (.regAccess off wr data) s = .next (told u 2)) ∧
        ((live s && debugOpen s) = true →
          let refuses (n : Nat) : Prop :=
            exec (.regAccess off wr data) s = .next (told (noteRefusal u false (ownId s) a.addr n) 3)
          (off.toNat % 4 ≠ 0 → refuses reasonSize) ∧
          (∀ n, off.toNat % 4 = 0 → mapRefusal s a = some n → refuses n) ∧
          (off.toNat % 4 = 0 → mapRefusal s a = none → inNear s off.toNat 4 = false →
            off.toNat < regBase ∨ regBase + 0xE00000 ≤ off.toNat → refuses reasonUnmapped) ∧
          (∀ r, off.toNat = regBase + r → r % 4 = 0 → r < 0xE00000 → mapRefusal s a = none →
            (wr = true → exec (.regAccess off wr data) s = .next (told (regWrite u true (2 ^ 20) r data.toNat) 0)) ∧
            (wr = false → exec (.regAccess off wr data) s = .next
              (gives (regRead u true (2 ^ 20) r 4).2 (regRead u true (2 ^ 20) r 4).1))) ∧
          (off.toNat % 4 = 0 → mapRefusal s a = none → inNear s off.toNat 4 = true → off.toNat < regBase → Quiet s off.toNat 4 →
            let v : State := { u with nextId := s.nextId + 1, tap := { u.tap with key := some s.nextId } }
            (wr = true → OwnFree s a.addr 4 → exec (.regAccess off wr data) s = .next
              (told (spmWrite v none off.toNat (toLe 4 data.toNat)) 0)) ∧
            (wr = false → spmRefusal s a = none → refetchWait s a = none →
              (spmBadIn s off.toNat 4 = none → exec (.regAccess off wr data) s = .next (gives v (leNat (spmBytes s off.toNat 4)))) ∧
              (∀ w, spmBadIn s off.toNat 4 = some w → backOf s w = none →
                exec (.regAccess off wr data) s = .next (deliver v { a with who := .debug s.nextId } .dataErr)) ∧
              (∀ w n, spmBadIn s off.toNat 4 = some w → backOf s w = some n →
                exec (.regAccess off wr data) s = .next (waitRefetch (refetchStart v w n) (blockOf w) { a with who := .debug s.nextId }))) ∧
            (∀ n, spmRefusal s a = some n → exec (.regAccess off wr data) s = .next (told (noteRefusal v false (ownId s) a.addr n) 3)) ∧
            (∀ b, spmRefusal s a = none → refetchWait s a = some b → exec (.regAccess off wr data) s = .next
              (waitRefetch v b { a with who := .debug s.nextId })) ∧
            (wr = true → Canon s → (∀ w ∈ s.spmBad, w % 4 = 0) → spmRefusal s a = none → refetchWait s a = none →
              backOver s off.toNat 4 ≠ [] →
              ∃ w, exec (.regAccess off wr data) s = .next w ∧ w.tap = v.tap ∧ spmBytes w off.toNat 4 = toLe 4 data.toNat ∧
                (∀ x, ¬(off.toNat ≤ x ∧ x < off.toNat + 4) → spmByte w x = spmByte s x) ∧
                ∃ n, w.throughs.map (·.acc) = s.throughs.map (·.acc) ++ [{ a with who := .debug n }] ∧ w.tap.key = some n)))))

/-- R45, R46, R53, R57 to R61, R65, R77 to R80, R84, R89, R93. Matrix descriptors: MATMUL and DIAG start on the
partition list of R53 and set its arrays' mode; a plane finishes loading on a partition, or is found kept there, and
the tile's rows stream through it into the accumulator; a finished tile drains, each of its accumulated rows passed
through the chain into the bytes of its STORE and nothing else changed; a SPLIT pass takes a free vector unit and
retires; and the descriptor succeeds once nothing of it is left. The model's own choices that it rests on: assumptions
12, 14, 84, 86, 87, 147, 149, 150, 151, 156, 158, 161, 163 and 164. -/
def Obligations.MatrixDescriptorsRun : Prop :=
  ∀ (s : State) (d : Nat) (x : Desc), Canon s → live s = true → descGet s d = some x →
    let g := geoOf x
    let good (rs : List (Nat × Nat)) : Prop := ∀ p ∈ rs, p.2 = 0 ∨ OwnGood s p.1 p.2
    let command : Instr := if dop x = 0x10 then .matmul d else .diag d
    (dop x = 0x10 ∨ dop x = 0x11 →
      (x.phase = .ready → x.free = true → geoTiles g ≠ 0 → formList s (mxArrays x) g.mode ≠ [] → holdClash s x = false →
        (∀ y ∈ s.descs, y.id ≠ d → mayStart s y = false) → s.power.gated = [] → s.power.waking = [] → admitted s = true →
        s.par.arrays ≤ s.mxe.modes.length →
        ∃ u y r, exec command s = .next u ∧ descGet u d = some y ∧ y.phase = .running ∧ y.engine = .matrix r ∧
          r.parts = formList s (mxArrays x) g.mode ∧ r.mode = g.mode ∧ r.drained = [] ∧ r.stops = [] ∧ u.spm = s.spm ∧
          ∀ p ∈ r.parts, u.mxe.modes[p.1]? = some g.mode) ∧
      (x.phase = .ready → x.free = true → geoTiles g = 0 → holdClash s x = false →
        (∀ y ∈ s.descs, y.id ≠ d → mayStart s y = false) →
        (formList s (mxArrays x) g.mode = [] → exec command s = .next s) ∧
        (formList s (mxArrays x) g.mode ≠ [] → x.unacked = 0 → x.clobbered = [] → x.disturbed = false →
          ∃ u, exec command s = .next u ∧ EndedWith u d 0 ∧ u.mxe.modes = s.mxe.modes ∧ u.spm = s.spm)) ∧
      (∀ r, x.phase = .running → x.engine = .matrix r → x.unacked = 0 → r.drained.length = geoTiles g →
        chPolicy x.chain = 0 → r.stops = [] → r.missed = [] → (∀ p ∈ r.passes, p.done = true) → x.clobbered = [] → x.disturbed = false →
        ∃ u, exec command s = .next u ∧ EndedWith u d 0 ∧ u.spm = s.spm ∧
          ∀ q ∈ u.mxe.planes, q.owner = d → q.retained = true)) ∧
    (∀ (r : MxRun) (part : Nat) (p : Nat × Nat) (t : Nat), x.phase = .running → x.engine = .matrix r →
      r.parts[part]? = some p → curTile g r part = some t → streamedOf r part < g.tr → partTurn s r p = true →
      r.stops = [] → r.missed = [] → x.clobbered = [] → cellsBad s g.mode p = false →
      let byte := heldByte s d
      let k := streamedOf r part
      let kk := if g.fwd then k else t % g.tn
      let nn := if g.fwd then t % g.tn else k
      let named := planeOf x g p kk nn
      let fresh : Plane := { named with cells := cellsOf byte (planeReads x g kk nn) }
      let plane := (planeKept s x g named).getD fresh
      let span := planeSpan g kk nn
      good (gatherReads x g t) → gatherBad byte x g t = none →
      (planeKept s x g named = none → good (planeReads x g kk nn)) →
      good (passReads x g (streamRow byte x) t span (k == 0)) →
      ∃ u y r', exec (.planeLoad d part) s = .next u ∧ descGet u d = some y ∧
        y.engine = .matrix r' ∧ streamedOf r' part = k + 1 ∧ r'.parts = r.parts ∧ r'.drained = r.drained ∧ u.spm = s.spm ∧
        { plane with active := true } ∈ u.mxe.planes ∧
        accAt u byte x g p t = accStream byte (planeByte plane) x g t span
          (if k = 0 then accOpen byte x g t else accAt s byte x g p t)) ∧
    (∀ (r : MxRun) (tile : Nat) (p : Nat × Nat) (t : Stage), x.phase = .running → x.engine = .matrix r →
      r.stops = [] → r.missed = [] →
      let i := tile % max r.parts.length 1
      curTile g r i = some tile → streamedOf r i = g.tr → r.parts[i]? = some p → partTurn s r p = true →
      cellsBad s g.mode p = false → chPolicy x.chain = 0 → chHas x.chain 0x16 = false →
      (chStages x.chain).filter (fun t => isTerminal t.kind) = [t] → t.kind = 0x19 → fmtPlain (fmtAt t.fmt) = true →
      descTrap x = false → x.clobbered = [] → x.disturbed = false → s.inject = none → good (tileReads x g tile true) →
      let c := tileColAt x g 8 tile
      let sums := (accAt s (heldByte s d) x g p tile).1
      let row (j : Nat) : Nat := (tileRow g tile).1 + j
      let lanes (j : Nat) : List Lane :=
        (preRow (heldByte s d) (coefOf s) x g (row j) (tileCol g tile).1 ((sums[j]?).getD [])).1
      let bytes (j : Nat) : List Byte := (termRow x g t (row j) c.1 (lanes j)).elems
      let place (j : Nat) : Nat := t.addr + row j * t.stride + c.1 * fmtBits (fmtAt t.fmt) / 8
      (∀ j < sums.length, bytes j ≠ [] → OwnClear s (place j) (bytes j).length) →
      (∀ j < sums.length, ∀ k < sums.length, j ≠ k →
        overlap (place j) (bytes j).length (place k) (bytes k).length = false) →
      ∃ u y r', exec (.tileDrain d tile) s = .next u ∧ descGet u d = some y ∧ y.engine = .matrix r' ∧ tile ∈ r'.drained ∧
        (∀ j < sums.length, spmBytes u (offsetOf (place j)) (bytes j).length = bytes j) ∧
        ∀ a, (∀ j < sums.length, ¬(offsetOf (place j) ≤ a ∧ a < offsetOf (place j) + (bytes j).length)) →
          spmByte u a = spmByte s a) ∧
    (∀ (r : MxRun) (group v : Nat) (p : Pass), x.phase = .running → x.engine = .matrix r →
      r.passes.find? (fun p => p.group == group) = some p → r.stops = [] → r.missed = [] →
      (p.unit = none → (∀ y ∈ s.descs, y.id ≠ d → wantsUnit s y v = false) → s.power.gated = [] → s.power.waking = [] →
        admitted s = true →
        (List.range s.par.vectorUnits).filter (fun v => bitOf v (chSplitVu x.chain) && !unitBusy s v) = [v] →
        ∃ u y r', exec (.splitPass d group) s = .next u ∧ descGet u d = some y ∧ y.engine = .matrix r' ∧
          r'.passes.find? (fun p => p.group == group) = some { p with unit := some v } ∧
          u.spm = s.spm) ∧
      (p.unit ≠ none → p.done = false → descTrap x = false → x.clobbered = [] → x.disturbed = false →
        good (splitRows x g group ++ postReads x g group) →
        (∀ w ∈ groupDests x g group ++ (groupTiles g group).flatMap (tileDests x g), w.2 = 0 ∨ OwnClear s w.1 w.2) →
        ∃ u y r', exec (.splitPassRetire d group) s = .next u ∧ descGet u d = some y ∧ y.engine = .matrix r' ∧
          r'.passes.find? (fun p => p.group == group) = some { p with done := true }))

/-- R96, R104, R107, R112, R113, R121, R187. Vector chains: one starts on the lowest unit that it names and that is
available; its fills bring scratchpad bytes to the unit's cache; a sweep passes every element through its stages and
is counted; the write-backs store the cache's bytes and the chain succeeds; and a descriptor that met a word of bad
parity runs again from its first read, but fails after its fourth run. The model's own choices that it rests on:
assumptions 12, 87, 88, 92, 94, 137, 149, 156 and 165. -/
def Obligations.VectorChainsRun : Prop :=
  ∀ (s : State) (d : Nat) (x : Desc), Canon s → live s = true → descGet s d = some x →
    (∀ v rest, dop x = 0x20 → x.phase = .ready → x.free = true → vxCount x ≠ 0 → vxSweeps x ≠ [] →
      (vxUnits s x).filter (vxAvailable s x) = v :: rest →
      (∀ y ∈ s.descs, y.id ≠ d → mayStart s y = false ∧ ∀ w ∈ v :: rest, wantsUnit s y w = false) →
      s.power.gated = [] → s.power.waking = [] → admitted s = true →
      ∃ u y r, exec (.vchain d) s = .next u ∧ descGet u d = some y ∧ y.phase = .running ∧ y.engine = .vector r ∧
        r.unit = v ∧ r.filled = false ∧ r.sweeps = 0 ∧ u.spm = s.spm ∧ u.voc = s.voc) ∧
    (∀ (r : VxRun) (f : VXfer), x.phase = .running → x.engine = .vector r → r.filled = false → vxCount x ≠ 0 →
      fillTurn s x r.unit r.order = true →
      vcFills x.chain = [f] → x.clobbered = [] → 0 < f.bytes → (∀ j < f.rows, OwnGood s (f.addr + j * f.stride) f.bytes) →
      ∃ u y, exec (.fill d) s = .next u ∧ descGet u d = some y ∧ y.phase = .running ∧
        y.engine = .vector { r with filled := true } ∧ u.spm = s.spm ∧
        ∀ j < f.rows, vocBytes u r.unit (f.voc + j * f.bytes) f.bytes = spmBytes s (offsetOf (f.addr + j * f.stride)) f.bytes) ∧
    (∀ (r : VxRun) (steps : List VStep), x.phase = .running → x.engine = .vector r → r.filled = true →
      (vxSweeps x)[r.sweeps]? = some steps → sweepTurn s x r.unit r.order = true → descTrap x = false →
      x.clobbered = [] → x.disturbed = false → vocBadIn s r.unit ((if r.sweeps = 0 then inputReads x
        else sweepBuffer (((vxSweeps x)[r.sweeps - 1]?).getD [])) ++ (steps.map stepReads).flatten) = none →
      let byte (a : Nat) : Byte := mapGet (fun _ => (0 : Byte)) s.voc (vocKey r.unit a)
      let input (i : Nat) : Lane := laneOf (vsource byte (ofFp32 (vcTscale x.chain)) (vxCount x) (vxRow x) [] []
        (vcInput x.chain) (vcInputOff x.chain) 0 (fun _ => posZero) i)
      let start := if r.sweeps = 0 then (List.range (vxCount x)).map input else r.lanes
      let flow := steps.foldl (fun fl p => vstep byte (coefOf s) x p fl)
        { xs := start, ps := start.map fun _ => false, stat1 := r.stat1, stat2 := r.stat2 }
      ∃ u y r', exec (.sweep d) s = .next u ∧ descGet u d = some y ∧ y.engine = .vector r' ∧ r'.sweeps = r.sweeps + 1 ∧
        r'.unit = r.unit ∧ r'.wroteBack = r.wroteBack ∧ r'.lanes = flow.xs ∧ r'.stat1 = flow.stat1 ∧ r'.stat2 = flow.stat2 ∧
        u.voc = (flow.writes.foldl (fun s w => vocStore s r.unit w.1 w.2) s).voc) ∧
    (∀ (r : VxRun) (e : VXfer), x.phase = .running → x.engine = .vector r → r.sweeps = (vxSweeps x).length →
      vcBacks x.chain = [e] → r.wroteBack = 0 → x.unacked = 0 → x.clobbered = [] → x.disturbed = false →
      s.inject = none → vocBadIn s r.unit [xferVoc e] = none → 0 < e.bytes →
      let place (j : Nat) : Nat := e.addr + j * e.stride
      (∀ j < e.rows, OwnClear s (place j) e.bytes) →
      (∀ j < e.rows, ∀ k < e.rows, j ≠ k → overlap (place j) e.bytes (place k) e.bytes = false) →
      ∃ u, exec (.writeBack d) s = .next u ∧ EndedWith u d 0 ∧
        (∀ j < e.rows, spmBytes u (offsetOf (place j)) e.bytes = vocBytes s r.unit (e.voc + j * e.bytes) e.bytes) ∧
        ∀ a, (∀ j < e.rows, ¬(offsetOf (place j) ≤ a ∧ a < offsetOf (place j) + e.bytes)) → spmByte u a = spmByte s a) ∧
    (x.phase = .replaying → x.unacked = 0 → x.waitBlock = none →
      (∀ r, x.engine = .matrix r → x.runs < 4 → ∃ u y, exec (.replay d) s = .next u ∧ descGet u d = some y ∧
        y.phase = .running ∧ y.runs = x.runs + 1 ∧ y.report = {} ∧
        y.engine = .matrix { r with
          drained := [], streamed := [], groups := [], passes := [], kept := [], tallies := [], stops := [] }) ∧
      (∀ r, x.engine = .vector r → x.runs < 4 → ∃ u y, exec (.replay d) s = .next u ∧ descGet u d = some y ∧
        y.phase = .running ∧ y.runs = x.runs + 1 ∧ y.report = {} ∧ y.engine = .vector { unit := r.unit, order := r.order, ran := r.ran }) ∧
      (4 ≤ x.runs → x.disturbed = false → ∃ u, exec (.replay d) s = .next u ∧ EndedWith u d 0x0012))

/-- R168, R184, R188, R190, R196, R232. A MOVE takes its bytes from its source and issues them to the banks of its
destination; it succeeds once every piece is acknowledged, fails where its source's parity is bad or an index of a
gather or a scatter is out of range, and holds the backed regions that it reads. The model's own choices that it rests
on: assumptions 7, 79, 81 and 157. -/
def Obligations.MovesRun : Prop :=
  ∀ (s : State) (d : Nat) (x : Desc), Canon s → live s = true → descGet s d = some x → dop x = 0x30 →
    let n := mvRowBytes x
    let begins : Prop := x.phase = .ready ∧ x.free = true ∧ mvRows x = 1 ∧ 0 < n ∧ movOut s < regBits s 0x800000 4 0 ∧
      mvSrc x < 2 ^ 64 ∧ mvDst x < 2 ^ 64
    (begins → mvKind x = 0 → x.unacked = 0 → OwnGood s (mvSrc x) n → pieceLen s x (mvSrc x) (mvDst x) 0 = n →
      isOwn s (mvDst x) = true → inSpm s (offsetOf (mvDst x)) n = true →
      ∃ u y, exec (.moveDesc d) s = .next u ∧ descGet u d = some y ∧ y.phase = .running ∧ y.unacked = 1 ∧ u.spm = s.spm ∧
        u.xbr = s.xbr ++ [{
          bank := bankOf (offsetOf (mvDst x))
          acc := { kind := .write, addr := mvDst x, len := n, data := spmBytes s (offsetOf (mvSrc x)) n, src := x.src
                   who := .desc d, counter := if mvCounted x then some (mvCounter x) else none } }] ∧
        ∀ k ∈ backOver s (offsetOf (mvSrc x)) n, k ∈ y.holds) ∧
    (begins → mvKind x = 0 → x.disturbed = false → isOwn s (mvSrc x) = true → inSpm s (offsetOf (mvSrc x)) n = true →
      let p := pieceLen s x (mvSrc x) (mvDst x) 0
      Quiet s (offsetOf (mvSrc x)) p → ordOver s (offsetOf (mvSrc x)) p = none →
      (∃ w, spmBadIn s (offsetOf (mvSrc x)) p = some w ∧ backOf s w = none) →
      ∃ u, exec (.moveDesc d) s = .next u ∧ EndedWith u d 0x0012 ∧ u.xbr = s.xbr) ∧
    (begins → mvKind x ≠ 0 → x.disturbed = false → OwnGood s (mvIndex x) 4 →
      mvLimit x ≤ leNat (spmBytes s (offsetOf (mvIndex x)) 4) →
      ∃ u, exec (.moveDesc d) s = .next u ∧ EndedWith u d 0x0015 ∧ u.xbr = s.xbr) ∧
    (∀ m, x.phase = .running → x.engine = .move m → mvRows x ≤ m.row → x.unacked = 0 → x.disturbed = false →
      ∃ u, exec (.moveDesc d) s = .next u ∧ EndedWith u d 0 ∧ u.spm = s.spm ∧ u.regs = s.regs) ∧
    (∀ m, x.phase = .running → x.engine = .move m → mvRows x ≤ m.row → x.unacked ≠ 0 → exec (.moveDesc d) s = .next s)

/-- R176, R178, R248, R256, R258, R260, R261, R271, R277, R283. Collectives at one member: a descriptor starts on its
loaded group with its sequence and signature; what arrives for it counts as heard: a participant's signature, its
credit, a chunk, the bytes of a direct write, which are stored at its address or in its sender's slot; an uncombined
chunk of a switch ends it; what arrives for the next one is held, of a past one is counted and discarded, and of a
later one refused; and a collective with no arrival for CLE_TIMEOUT fails. The model's own choices that it rests on:
assumptions 3, 15, 33, 107, 108, 109 and 146. -/
def Obligations.CollectivesRun : Prop :=
  ∀ s : State, Canon s → live s = true →
    (∀ (d : Nat) (x : Desc) (g : ClGroup), descGet s d = some x → dop x = 0x40 → x.phase = .ready → x.free = true →
      grpHolder s (clGroup x) = none → grpGet s (clGroup x) = some g → clActive s < 256 →
      (∀ y ∈ s.descs, y.id ≠ d → mayStart s y = false) → ∃ u y r, exec (.coll d) s = .next u ∧ descGet u d = some y ∧
        y.phase ≠ .ready ∧ y.engine = .coll r ∧ r.group = g.group ∧ r.seq = BitVec.ofNat 64 (clSeq x) ∧ r.sig = clSignature x) ∧
    (∀ (d : Nat) (x : Desc) (r : ClRun), descGet s d = some x → x.phase = .running → x.engine = .coll r → x.disturbed = false →
      regGet s 0xA0001C ≠ 0 → ∃ u, exec (.collTimeout d) s = .next u ∧ EndedWith u d 0x0502 ∧
        r.lastArrival + regGet s 0xA0001C ≤ u.osc) ∧
    (∀ (port : Nat) (k : Packet) (g : ClGroup), (port, k) ∈ s.fep.inbox → k.dest = ownId s →
      let u : State := { s with fep := { s.fep with inbox := s.fep.inbox.erase (port, k) } }
      let took (c : Instr) (p : State → Prop) : Prop := ∃ v, exec c s = .next v ∧ v.fep.inbox = u.fep.inbox ∧ p v
      (∀ (type : Nat) (c : Instr), (type = 0x20 ∧ c = .collData port k) ∨ (type = 0x21 ∧ c = .collCtl port k) → k.type = type →
        grpGet s k.collGroup = some g →
        (∀ d x r, clSort s g k = .active d → descGet s d = some x → x.phase = .running → x.engine = .coll r → r.phase = 1 →
          let after (f : ClRun → ClRun) : Prop := took c fun v => ∃ y, descGet v d = some y ∧
            y.engine = .coll (f { r with lastArrival := s.osc })
          let waits (heard : List Nat) : Prop := ∃ p ∈ treeParts (clEntry x) (clIndex x), p.1 ∉ heard
          let m := (clMember x k.src).getD 0
          (∀ sig, k.coll = .signature sig → sig = r.sig → waits (m :: r.heard.map (·.1)) →
            after fun r => { r with heard := (m, none) :: r.heard.filter fun h => h.1 != m }) ∧
          (∀ n, k.coll = .credit n → waits (r.heard.map (·.1)) → after fun r => { r with credits := r.credits + n }) ∧
          let from' (l : Nat) : Bool := grpSwitch (clEntry x) l && k.src == switchId (clEntry x) (clIndex x) l
          (∀ first l, k.coll = .chunk first r.sig → (rootLevels (clEntry x) (clIndex x)).find? from' = some l →
            k.ordered = false → x.disturbed = false → took c fun v => EndedWith v d 0x0504) ∧
          (∀ first, k.coll = .chunk first r.sig → (rootLevels (clEntry x) (clIndex x)).any from' = false → k.vc = 3 → waits (r.heard.map (·.1)) → after fun r => { r with
            staged := (m, first, k.payload) :: r.staged.filter fun p => !(p.1 == m && p.2.1 == first) })) ∧
        (clSort s g k = .stale → exec c s = .next (regCount (claimResv u 0 k) 0xA00034)) ∧
        (clSort s g k = .next → s.fep.resv = [] → exec c s = .next (clHold u g k)) ∧
        (clSort s g k = .refuse → s.fep.resv = [] → exec c s = .next (answerRetry
          (regCount { u with fep := { u.fep with resv := [(0, k.src, k.tag, k.age, s.osc)] } } 0xA00030) k))) ∧
      (k.type = 0x05 → grpGet s (bitsOf 11 0 (fieldAt k.body 0 2)) = some g →
        let log := regGet s 0xC00010 % 2 ^ 27 / 64 * 64
        let m := bitsOf 17 0 (fieldAt k.body 24 4)
        (∀ d x r, clSort s g k = .active d → descGet s d = some x → x.phase = .running → x.engine = .coll r → r.phase = 1 →
          fieldAt k.body 16 8 = r.sig.toNat → (∃ p ∈ treeParts (clEntry x) (clIndex x), p.1 ∉ r.heard.map (·.1)) →
          (clOp x = 5 → bitOf 4 (fieldAt k.body 2 1) = false ∧ r.slots.find? (fun p => p.1 == m) = none) →
          let a := { packetAccess s port k .write with
            addr := ownAddr s (if clOp x = 5 then clSlotPlace x r k else k.addr) }
          let off := offsetOf a.addr
          serving s = true → mapRefusal s a = none → protCheck s a.src a.addr a.len .write = none →
          OwnFree s a.addr a.len → (∀ e ∈ s.descs, e.disturbed = false) →
          (log + 16384 ≤ off ∨ off + a.len ≤ log) →
          took (.collWrite port k) fun v => spmBytes v off k.payload.length = k.payload ∧
            (k.counted = true → counterGet v k.counter = counterGet s k.counter + BitVec.ofNat 64 k.payload.length) ∧
            (k.counted = false → v.counters = s.counters) ∧
            ∃ y, descGet v d = some y ∧ y.engine = .coll { r with
              lastArrival := s.osc
              nonfinite := if clOp x = 5 then r.nonfinite else r.nonfinite || bytesNonfinite (clType x) k.payload
              received := if clOp x = 5 then (m, k.payload.length + ((r.received.find? fun p => p.1 == m).map (·.2)).getD 0) ::
                r.received.filter (fun p => p.1 != m) else r.received }) ∧
        (serving s = true → k.dest < mcastBase → clSort s g k = .stale →
          exec (.collWrite port k) s = .next (regCount (claimResv u 0 k) 0xA00034))) ∧
      (k.type = 0x05 → serving s = true → grpGet s (bitsOf 11 0 (fieldAt k.body 0 2)) = none →
        exec (.collWrite port k) s = .next
          (answerPacket (noteRefusal (claimResv u 0 k) false k.src (ownAddr s k.addr) 4) k (.refused 4))) ∧
      (k.type = 0x05 → serving s = false → exec (.collWrite port k) s = .next (answerPacket u k (.refused 1))))

/-- The block performs the command at the front of its queue, and the rest of the queue waits; with an empty queue it
idles for one oscillator count. The model's own choices that it rests on: assumption 2. -/
def Obligations.StepRunsTheFront : Prop :=
  (∀ (s : State) (c : Instr) (rest : List Instr), s.pending = c :: rest → step s = exec c { s with pending := rest }) ∧
  (∀ (s : State) (c : Instr), step { s with pending := c :: s.pending } = exec c s) ∧
  (∀ s : State, s.pending = [] → step s = .next { s with osc := s.osc + 1 })

/-- R1, R2, R6, R97, R195, R328, R332. The state right after the assertion of PORESET_N is in the form that every
command keeps, with nothing in flight, every counter zero and every register at the Reset column of its table. The
model's own choices that it rests on: assumptions 5 and 18. -/
def Obligations.InvariantAtReset : Prop :=
  Inv State.reset ∧ State.reset.pending = [] ∧ State.reset.boot.por = true ∧ live State.reset = false ∧
    State.reset.descs = [] ∧ State.reset.dre.rings = [] ∧ State.reset.fep.reqs = [] ∧ State.reset.xbr = [] ∧
    State.reset.osc = 0 ∧ (∀ c, counterGet State.reset c = 0) ∧ (∀ off, spmByte State.reset off = 0) ∧
    (∀ off, regGet State.reset off = (regReset off).toNat) ∧
    ([0x0, 0x4, 0x8, 0xC, 0x100040, 0x200034, 0x300010, 0x300040, 0x400000, 0x800000, 0x900030, 0x900034, 0x900040,
      0x900044, 0xA00018, 0xA0001C, 0xB00004, 0xB00010, 0xB00014, 0xB00034, 0xC00010, 0xC00050].map (regGet State.reset)) =
      [0x01210049, 0x000B0060, 0x00000272, 0x00640898, 7, 0x28, 0x05FD0000, 1000000, 3, 16, 1000000, 0x60100, 0x8001,
        0x00102260, 0x1000, 10000000, 0x03B6028A, 1, 0x00A00294, 0x0190017C, 0x05FBC000, 0x004003E8]

/-- Every step of the machine keeps the invariant: every sparse map stays in its one canonical form, and the block
keeps its 32 groups, 8 generations, 4 ports and 8 channels. -/
def Obligations.InvariantKept : Prop :=
  ∀ s u : State, Inv s → step s = .next u → Inv u

/-- R195, R208, R211, R237. An advance adds its amount to its counter modulo 2^64 and to no other; of any advances, in
any order, each counter takes the sum of its own; and both resets set every counter to zero. -/
def Obligations.CountersTakeEveryAdvance : Prop :=
  (∀ (s : State) (l : List (Nat × Nat)) (c : Nat), Canon s →
    counterGet (l.foldl (fun s p => counterAdvance s p.1 p.2) s) c =
      counterGet s c + BitVec.ofNat 64 ((l.filter fun p => p.1 == c).map (·.2)).sum) ∧
  (∀ (s u : State), exec .poresetN s = .next u → ∀ c, counterGet u c = 0) ∧
  (∀ (s u : State), s.boot.por = false → exec .warmresetN s = .next u → ∀ c, counterGet u c = 0)

/-- R295, R328, R342, R359. What no command takes away: the queue behind it and the member's parameters stay as they
are, a fuse once blown stays blown and only the end of a fuse operation blows one, and the oscillator count never
falls but by PORESET_N. The model's own choices that it rests on: assumption 1. -/
def Obligations.CommandsKeepTheRest : Prop :=
  ∀ (c : Instr) (s u : State), exec c s = .next u →
    u.pending = s.pending ∧ u.par = s.par ∧
    ((∀ ok, c ≠ .fuseProgrammingEnd ok) → u.fuses = s.fuses) ∧
    u.fuses.programmed &&& s.fuses.programmed = s.fuses.programmed ∧ u.fuses.revoked &&& s.fuses.revoked = s.fuses.revoked ∧
    u.fuses.svnBits &&& s.fuses.svnBits = s.fuses.svnBits ∧
    (∀ (i : Nat) (k : BitVec 384), s.fuses.keys[i]? = some k → ∃ k', u.fuses.keys[i]? = some k' ∧ k' &&& k = k) ∧
    u.fuses.uid = s.fuses.uid ∧ u.fuses.hwType = s.fuses.hwType ∧
    (c ≠ .poresetN → s.osc ≤ u.osc)

/-- R317, R318, R372, R385. A stopped cluster does nothing until a reset: no command but the assertion of a reset
input changes its scratchpad, counters, descriptors, threads, fuses or any other state, apart from EEU_EVT_STATUS, the
answers on its chip-memory channels, the level of the alert input and the regulator's frames; and island 97 runs on: a
control period moves the oscillator, the ledgers and the governor with their registers, and nothing else. The model's
own choices that it rests on: assumption 124. -/
def Obligations.StoppedClusterKeeps : Prop :=
  ∀ (c : Instr) (s u : State), s.boot.stopped = true → s.boot.por = false → s.boot.warm = false →
    c ≠ .poresetN → c ≠ .warmresetN → exec c s = .next u →
    let p := s.power
    { u with regs := s.regs, cfgBad := s.cfgBad, cmp := s.cmp, power := p, osc := s.osc, freeCtr := s.freeCtr
             boot := { u.boot with attnIn := s.boot.attnIn } } = s ∧
    ((∀ level, c ≠ .attnReq level) → u.boot = s.boot) ∧
    ((∀ tel, c ≠ .controlPeriod tel) → u.osc = s.osc ∧ u.freeCtr = s.freeCtr ∧ (∀ o, o ≠ 0xC00040 → regGet u o = regGet s o) ∧
      { u.power with alert := p.alert, avsSeen := p.avsSeen, avsFrame := p.avsFrame, avsStatus := p.avsStatus
                     avsMiss := p.avsMiss } = p) ∧
    (∀ tel, c = .controlPeriod tel → u.cmp = s.cmp ∧ ∀ o, o < 0xB00010 ∨ 0xB00050 ≤ o → regGet u o = regGet s o)
end

