-- ==== Sys2Proof/Laws/Map.lean ====
section
/-! SUPPORT. Sparse maps: a read after a write, and the canonical form, which every operation keeps. -/
namespace Sys2Proof.Machine

variable {α : Type} [DecidableEq α] {d : Nat → α}

/-- The keys of a map in canonical form all exceed a bound that its first key exceeds. -/
def mapAbove (b : Nat) : List (Nat × α) → Prop
  | [] => True
  | c :: _ => b < c.1

theorem mapWf_cons {k : Nat} {v : α} {r : List (Nat × α)} :
    mapWf d ((k, v) :: r) = true ↔ v ≠ d k ∧ mapAbove k r ∧ mapWf d r = true := by
  cases r with
  | nil => simp [mapWf, mapAbove]
  | cons c r => simp [mapWf, mapAbove, and_assoc]

omit [DecidableEq α] in
theorem mapAbove_mono {a b : Nat} {m : List (Nat × α)} (h : a ≤ b) (hb : mapAbove b m) : mapAbove a m := by
  cases m with
  | nil => trivial
  | cons c r => simp only [mapAbove] at *; omega

theorem mapAbove_tail {b k : Nat} {v : α} {r : List (Nat × α)} (h : mapWf d ((k, v) :: r) = true)
    (hb : mapAbove b ((k, v) :: r)) : mapAbove b r :=
  mapAbove_mono (Nat.le_of_lt hb) (mapWf_cons.1 h).2.1

theorem mapSet_above {b k : Nat} {v : α} {m : List (Nat × α)} (hw : mapWf d m = true) (hk : b < k)
    (hm : mapAbove b m) : mapAbove b (mapSet d m k v) := by
  cases m with
  | nil => unfold mapSet; split <;> simp_all [mapAbove]
  | cons c r =>
    obtain ⟨k', v'⟩ := c
    unfold mapSet
    split
    · split <;> simp_all [mapAbove]
    · split
      · split
        · exact mapAbove_tail hw hm
        · simp_all [mapAbove]
      · simpa [mapAbove] using hm

/-- Writing one key keeps the canonical form. -/
theorem mapSet_wf {k : Nat} {v : α} {m : List (Nat × α)} (hw : mapWf d m = true) :
    mapWf d (mapSet d m k v) = true := by
  induction m with
  | nil => unfold mapSet; split <;> simp_all [mapWf]
  | cons c r ih =>
    obtain ⟨k', v'⟩ := c
    obtain ⟨h1, h2, h3⟩ := mapWf_cons.1 hw
    unfold mapSet
    split
    · split
      · exact hw
      · exact mapWf_cons.2 ⟨by assumption, by simpa [mapAbove], hw⟩
    · split
      · split
        · exact h3
        · subst k; exact mapWf_cons.2 ⟨by assumption, h2, h3⟩
      · exact mapWf_cons.2 ⟨h1, mapSet_above h3 (by omega) h2, ih h3⟩

/-- Writing consecutive keys keeps the canonical form. -/
theorem mapSetAll_wf {k : Nat} {vs : List α} {m : List (Nat × α)} (hw : mapWf d m = true) :
    mapWf d (mapSetAll d m k vs) = true := by
  induction vs generalizing m k with
  | nil => exact hw
  | cons v vs ih => exact ih (mapSet_wf hw)

theorem filter_above {b : Nat} {p : Nat × α → Bool} {m : List (Nat × α)} (hw : mapWf d m = true)
    (hm : mapAbove b m) : mapAbove b (m.filter p) := by
  induction m with
  | nil => trivial
  | cons c r ih =>
    obtain ⟨k, v⟩ := c
    have h := mapWf_cons.1 hw
    by_cases hp : p (k, v)
    · simpa [List.filter, hp, mapAbove] using hm
    · simpa [List.filter, hp] using ih h.2.2 (mapAbove_tail hw hm)

/-- Forgetting keys keeps the canonical form. -/
theorem filter_wf {p : Nat × α → Bool} {m : List (Nat × α)} (hw : mapWf d m = true) :
    mapWf d (m.filter p) = true := by
  induction m with
  | nil => rfl
  | cons c r ih =>
    obtain ⟨k, v⟩ := c
    have h := mapWf_cons.1 hw
    by_cases hp : p (k, v)
    · simpa [List.filter, hp] using mapWf_cons.2 ⟨h.1, filter_above h.2.2 h.2.1, ih h.2.2⟩
    · simpa [List.filter, hp] using ih h.2.2

theorem mapGet_above {k b : Nat} {m : List (Nat × α)} (hw : mapWf d m = true) (hm : mapAbove b m) (hk : k ≤ b) :
    mapGet d m k = d k := by
  induction m generalizing b with
  | nil => rfl
  | cons c r ih =>
    obtain ⟨k', v⟩ := c
    have h := mapWf_cons.1 hw
    simp only [mapAbove] at hm
    rw [mapGet, if_neg (by omega)]
    exact ih h.2.2 h.2.1 (by omega)

/-- A read of the written key gives the value written. -/
theorem mapGet_set_same {k : Nat} {v : α} {m : List (Nat × α)} (hw : mapWf d m = true) :
    mapGet d (mapSet d m k v) k = v := by
  induction m with
  | nil =>
    unfold mapSet
    split
    · simp_all [mapGet]
    · simp [mapGet]
  | cons c r ih =>
    obtain ⟨k', v'⟩ := c
    have h := mapWf_cons.1 hw
    unfold mapSet
    split
    · split
      · next e => rw [mapGet, if_neg (by omega), mapGet_above h.2.2 h.2.1 (by omega), e]
      · simp [mapGet]
    · split
      · split
        · next e1 e2 => subst e1; rw [mapGet_above h.2.2 h.2.1 (Nat.le_refl _), e2]
        · simp [mapGet]
      · rw [mapGet, if_neg (by omega)]; exact ih h.2.2

/-- A write leaves every other key alone. -/
theorem mapGet_set_other {k j : Nat} {v : α} {m : List (Nat × α)} (hj : j ≠ k) :
    mapGet d (mapSet d m k v) j = mapGet d m j := by
  induction m with
  | nil =>
    unfold mapSet
    split
    · rfl
    · simp [mapGet, Ne.symm hj]
  | cons c r ih =>
    obtain ⟨k', v'⟩ := c
    unfold mapSet
    split
    · split
      · rfl
      · rw [mapGet, if_neg (Ne.symm hj)]
    · split
      · next h1 h2 =>
        subst h2
        split
        · rw [mapGet, if_neg (Ne.symm hj)]
        · rw [mapGet, if_neg (Ne.symm hj), mapGet, if_neg (Ne.symm hj)]
      · by_cases e : k' = j
        · simp [mapGet, e]
        · rw [mapGet, if_neg e, mapGet, if_neg e, ih]

/-- Consecutive writes leave every key outside them alone. -/
theorem mapGet_setAll_other {k j : Nat} {vs : List α} {m : List (Nat × α)} (hj : j < k ∨ k + vs.length ≤ j) :
    mapGet d (mapSetAll d m k vs) j = mapGet d m j := by
  induction vs generalizing m k with
  | nil => rfl
  | cons v vs ih =>
    simp only [List.length_cons] at hj
    rw [mapSetAll, ih (by omega), mapGet_set_other (by omega)]

/-- Consecutive writes put each value at its key. -/
theorem mapGet_setAll_same {k i : Nat} {vs : List α} {m : List (Nat × α)} (hw : mapWf d m = true)
    (hi : i < vs.length) : mapGet d (mapSetAll d m k vs) (k + i) = vs[i] := by
  induction vs generalizing m k i with
  | nil => simp at hi
  | cons v vs ih =>
    cases i with
    | zero => rw [mapSetAll, mapGet_setAll_other (by omega)]; exact mapGet_set_same hw
    | succ i =>
      simp only [List.length_cons] at hi
      rw [mapSetAll, show k + (i + 1) = k + 1 + i by omega, ih (mapSet_wf hw) (by omega)]
      rfl

end Sys2Proof.Machine
end

