-- ==== Sys2Proof/Laws/Keeps.lean ====
section
/-! SUPPORT. What every command but a few leaves of the state: the queue, the parameters, the fuses, the running
counts, and the forms of Safety.lean.  `Keeps s t` is proved once for every operation (the files Keeps*), so a
claim about all commands cites one lemma for each. -/
namespace Sys2Proof.Machine

/-- What lies between two states of one run, resets and the end of a fuse operation apart. -/
structure Keeps (s t : State) : Prop where
  queue : t.pending = s.pending
  params : t.par = s.par
  fuses : t.fuses = s.fuses
  clock : s.osc ≤ t.osc
  free : s.freeCtr ≤ t.freeCtr
  ids : s.nextId ≤ t.nextId
  canon : Canon s → Canon t
  sized : Sized s → Sized t

theorem Keeps.refl (s : State) : Keeps s s :=
  ⟨rfl, rfl, rfl, Nat.le_refl _, Nat.le_refl _, Nat.le_refl _, id, id⟩

theorem Keeps.trans {s t u : State} (h : Keeps s t) (k : Keeps t u) : Keeps s u :=
  ⟨k.queue.trans h.queue, k.params.trans h.params, k.fuses.trans h.fuses, Nat.le_trans h.clock k.clock,
    Nat.le_trans h.free k.free, Nat.le_trans h.ids k.ids, fun c => k.canon (h.canon c), fun c => k.sized (h.sized c)⟩

/-- A state that differs in other fields only. -/
theorem Keeps.same {s0 s : State} {readout' oscShadow' boot' fusesSensed' cfgBad' spmBad' inject' ord' xbr' refetch' throughs' gathers' power' errors' dre' descs' mxe' vocBad' groups' l1' cle' fep' cmp' mgmt' tap'} (h : Keeps s0 s)
    (hg : groups'.length = s.groups.length)
    (hp : fep'.ports.length = s.fep.ports.length) (hc : cmp'.chans.length = s.cmp.chans.length) :
    Keeps s0 (State.mk s.pending s.freeCtr s.nextId readout' s.par s.osc oscShadow' boot' s.fuses fusesSensed' s.nor s.regs cfgBad' s.gens s.ftab s.trim s.corr s.spm spmBad' s.spmLost inject' s.counters s.cntShadow ord' xbr' refetch' throughs' gathers' power' errors' dre' descs' mxe' s.voc vocBad' groups' l1' cle' fep' cmp' mgmt' tap') :=
  h.trans ⟨rfl, rfl, rfl, Nat.le_refl _, Nat.le_refl _, Nat.le_refl _, fun c => ⟨c.1, c.2, c.3, c.4, c.5, c.6, c.7, c.8, c.9⟩,
    fun z => ⟨hg.trans z.1, z.2, hp.trans z.3, hc.trans z.4⟩⟩

/-- A state whose clock has moved on and that differs in other fields only. -/
theorem Keeps.tick {s0 s : State} {readout' oscShadow' boot' fusesSensed' cfgBad' spmBad' inject' ord' xbr' refetch' throughs' gathers' power' errors' dre' descs' mxe' vocBad' groups' l1' cle' fep' cmp' mgmt' tap'} {n : Nat} (h : Keeps s0 s) (hn : s.osc ≤ n)
    (hg : groups'.length = s.groups.length)
    (hp : fep'.ports.length = s.fep.ports.length) (hc : cmp'.chans.length = s.cmp.chans.length) :
    Keeps s0 (State.mk s.pending s.freeCtr s.nextId readout' s.par n oscShadow' boot' s.fuses fusesSensed' s.nor s.regs cfgBad' s.gens s.ftab s.trim s.corr s.spm spmBad' s.spmLost inject' s.counters s.cntShadow ord' xbr' refetch' throughs' gathers' power' errors' dre' descs' mxe' s.voc vocBad' groups' l1' cle' fep' cmp' mgmt' tap') :=
  h.trans ⟨rfl, rfl, rfl, hn, Nat.le_refl _, Nat.le_refl _, fun c => ⟨c.1, c.2, c.3, c.4, c.5, c.6, c.7, c.8, c.9⟩,
    fun z => ⟨hg.trans z.1, z.2, hp.trans z.3, hc.trans z.4⟩⟩

/-- Folds of operations that keep. -/
theorem foldl_keeps {α : Type} {s0 : State} {f : State → α → State} {l : List α} {s : State} (h : Keeps s0 s)
    (hf : ∀ s a, Keeps s0 s → Keeps s0 (f s a)) : Keeps s0 (l.foldl f s) := by
  induction l generalizing s with
  | nil => exact h
  | cons a l ih => exact ih (hf s a h)

@[inherit_doc foldl_keeps]
theorem foldl_keeps_fst {α β : Type} {s0 : State} {f : State × β → α → State × β} {l : List α} {r : State × β}
    (h : Keeps s0 r.1) (hf : ∀ r a, Keeps s0 r.1 → Keeps s0 (f r a).1) : Keeps s0 (l.foldl f r).1 := by
  induction l generalizing r with
  | nil => exact h
  | cons a l ih => exact ih (hf r a h)

@[inherit_doc foldl_keeps]
theorem foldl_keeps_snd {α β : Type} {s0 : State} {f : β × State → α → β × State} {l : List α} {r : β × State}
    (h : Keeps s0 r.2) (hf : ∀ r a, Keeps s0 r.2 → Keeps s0 (f r a).2) : Keeps s0 (l.foldl f r).2 := by
  induction l generalizing r with
  | nil => exact h
  | cons a l ih => exact ih (hf r a h)

/-- A command whose next state keeps. -/
structure KeepsR (s : State) (r : Result) : Prop where
  out : ∀ t, r = .next t → Keeps s t

theorem KeepsR.next {s t : State} (h : Keeps s t) : KeepsR s (.next t) := by
  constructor; intro u hu; cases hu; exact h

/-- An operation that may not apply. -/
structure KeepsO (s : State) (o : Option State) : Prop where
  out : ∀ t, o = some t → Keeps s t

theorem KeepsO.some {s t : State} (h : Keeps s t) : KeepsO s (some t) := by
  constructor; intro u hu; cases hu; exact h

theorem KeepsO.none {s : State} : KeepsO s none := by
  constructor; intro u hu; cases hu

/-- An operation that may not apply and answers something beside the state. -/
structure KeepsP {α : Type} (s : State) (o : Option (α × State)) : Prop where
  out : ∀ a t, o = some (a, t) → Keeps s t

theorem KeepsP.some {α : Type} {s t : State} {a : α} (h : Keeps s t) : KeepsP s (some (a, t)) := by
  constructor; intro b u hu; cases hu; exact h

theorem KeepsP.none {α : Type} {s : State} : KeepsP s (none : Option (α × State)) := by
  constructor; intro b u hu; cases hu

theorem KeepsP.map {α β : Type} {s t : State} {f : α → β} {o : Option α} (h : Keeps s t) :
    KeepsP s (o.map fun x => (f x, t)) := by
  cases o with
  | none => exact KeepsP.none
  | some x => exact KeepsP.some h

theorem KeepsO.getD {s t : State} {o : Option State} (h : KeepsO s o) (ht : Keeps s t) : Keeps s (o.getD t) := by
  cases o with
  | none => exact ht
  | some u => exact h.out u rfl

end Sys2Proof.Machine
end

