-- ==== Sys2Proof/Laws/Task.lean ====
section
/-! SUPPORT. What the shared operations of the task-core instructions do: an instruction that issues runs its
effect, and a thread's update changes that thread alone. -/
namespace Sys2Proof.Machine

variable {s : State} {t : Nat} {m : Mn} {g : Group} {x : Thread} {w : Word}

theorem Issues.mayIssue (h : Issues s t m g x w) : mayIssue s g x = true := by
  simp [Machine.mayIssue, h.acts, h.runs, h.going, h.free]

theorem onHeld_issues {held : Group → Hold → Bool} {f : State → Group → Thread → Word → State}
    (h : Issues s t m g x w) : onHeld s t m held f = f s g x w := by
  simp [onHeld, whenLive, h.acts, h.here, h.mayIssue, h.word, h.insn, h.good, h.guard]

theorem onInsn_issues {f : State → Group → Thread → Word → State} (h : Issues s t m g x w) :
    onInsn s t m f = f s g x w := onHeld_issues h

theorem setAt_get {α : Type} {xs : List α} {i j : Nat} {f : α → α} :
    (setAt xs i f)[j]? = if i = j then (xs[j]?).map f else xs[j]? := by
  simp only [setAt, List.getElem?_modify]
  split <;> simp

theorem setAt_congr {α : Type} {xs : List α} {i : Nat} {f g : α → α} (h : ∀ y, xs[i]? = some y → f y = g y) :
    setAt xs i f = setAt xs i g := by
  apply List.ext_getElem?
  intro j
  rw [setAt_get, setAt_get]
  split
  · next e =>
    subst e
    cases hx : xs[i]? with
    | none => rfl
    | some y => simp [h y hx]
  · rfl

theorem threadAt_some : threadAt s t = some (g, x) ↔ s.groups[t / 4]? = some g ∧ g.threads[t % 4]? = some x := by
  unfold threadAt
  split
  · next g' h =>
    split
    · next x' h' => constructor
                    · intro e; cases e; exact ⟨h, h'⟩
                    · rintro ⟨a, b⟩; rw [h] at a; cases a; rw [h'] at b; cases b; rfl
    · next h' => constructor
                 · intro e; cases e
                 · rintro ⟨a, b⟩; rw [h] at a; cases a; rw [h'] at b; cases b
  · next h => constructor
              · intro e; cases e
              · rintro ⟨a, _⟩; rw [h] at a; cases a

/-- An update of the thread at hand depends on that thread only. -/
theorem threadUpd_at {f : Thread → Thread} (h : threadAt s t = some (g, x)) : threadUpd s t f = threadNow s t (f x) := by
  obtain ⟨h1, h2⟩ := threadAt_some.1 h
  unfold threadNow threadUpd
  congr 1
  apply setAt_congr
  intro y hy
  rw [h1] at hy; cases hy
  congr 1
  apply setAt_congr
  intro z hz
  rw [h2] at hz; cases hz
  rfl

theorem threadAt_threadNow {y : Thread} (h : threadAt s t = some (g, x)) :
    threadAt (threadNow s t y) t = some ({ g with threads := g.threads.set (t % 4) y }, y) := by
  obtain ⟨h1, h2⟩ := threadAt_some.1 h
  have e : setAt g.threads (t % 4) (fun _ => y) = g.threads.set (t % 4) y := by
    apply List.ext_getElem?
    intro j
    rw [setAt_get, List.getElem?_set]
    split
    · next e => subst e; rw [h2]; obtain ⟨hl, _⟩ := List.getElem?_eq_some_iff.1 h2; simp [hl]
    · rfl
  apply threadAt_some.2
  constructor
  · simp only [threadNow, threadUpd, setAt_get, h1, if_true, Option.map_some, e]
  · obtain ⟨hl, _⟩ := List.getElem?_eq_some_iff.1 h2
    simp [hl]

/-- Only the thread named differs. -/
theorem threadNow_only {y : Thread} : OnlyThread s (threadNow s t y) t where
  rest := rfl
  groups i := by
    simp only [threadNow, threadUpd, setAt_get]
    split
    · cases s.groups[i]? <;> rfl
    · rfl
  others i j hij := by
    simp only [threadNow, threadUpd, setAt_get]
    split
    · next e =>
      cases s.groups[i]? with
      | none => rfl
      | some g =>
        simp only [Option.map_some, Option.bind_some, setAt_get]
        rw [if_neg (by omega)]
    · rfl

theorem retire_at {d : Nat} {v : Dword} (h : threadAt s t = some (g, x)) (hf : x.hold = .free) :
    retire s t d v = threadNow s t (wroteReg x d v) := by
  rw [retire, threadUpd_at h]
  congr 1
  unfold nextPc sSet wroteReg
  split <;> simp [hf]

/-! Fields of an instruction word as numbers. -/

theorem bitsOf_lt (hi lo n : Nat) : bitsOf hi lo n < 2 ^ (hi + 1 - lo) := Nat.mod_lt _ (Nat.two_pow_pos _)

theorem sext_eq {w n : Nat} (h : n < 2 ^ w) :
    sext w n = if n < 2 ^ (w - 1) then (n : Int) else (n : Int) - 2 ^ w := by
  unfold sext signedOf
  rw [Nat.mod_eq_of_lt h]
  simp only [Int.natCast_pow]; rfl

theorem iImm12_eq (w : Word) : iImm12 w = BitVec.ofInt 64
    (if bitsOf 11 0 w.toNat < 2 ^ 11 then (bitsOf 11 0 w.toNat : Int) else (bitsOf 11 0 w.toNat : Int) - 2 ^ 12) := by
  unfold iImm12; rw [sext_eq (bitsOf_lt 11 0 _)]

theorem iImm17_eq (w : Word) : iImm17 w = BitVec.ofInt 64
    (if bitsOf 16 0 w.toNat < 2 ^ 16 then (bitsOf 16 0 w.toNat : Int) else (bitsOf 16 0 w.toNat : Int) - 2 ^ 17) := by
  unfold iImm17; rw [sext_eq (bitsOf_lt 16 0 _)]

/-- An instruction that may hold its thread runs its effect where the thread issues or the hold is its own. -/
theorem Stands.onHeld {held : Group → Hold → Bool} {f : State → Group → Thread → Word → State}
    (h : Stands s t m g x w) (e : Machine.mayIssue s g x = true ∨ held g x.hold = true) :
    onHeld s t m held f = f s g x w := by
  unfold Machine.onHeld whenLive
  rcases e with e | e <;> simp [h.acts, h.here, h.word, h.insn, h.good, h.guard, h.going, e]

/-- Two updates of one thread are the last one. -/
theorem threadNow_threadNow {y z : Thread} : threadNow (threadNow s t y) t z = threadNow s t z := by
  simp only [threadNow, threadUpd]
  congr 1
  apply List.ext_getElem?; intro j
  simp only [setAt_get]; split
  · cases s.groups[j]? with
    | none => rfl
    | some g' =>
      simp only [Option.map_some, Option.some.injEq, Group.mk.injEq, and_true, true_and]
      apply List.ext_getElem?; intro k
      simp only [setAt_get]; split
      · cases (g'.threads)[k]? <;> rfl
      · rfl
  · rfl

/-- An update of a thread that has just been replaced. -/
theorem threadUpd_threadNow {y : Thread} {f : Thread → Thread} (h : threadAt s t = some (g, x)) :
    threadUpd (threadNow s t y) t f = threadNow s t (f y) := by
  rw [threadUpd_at (threadAt_threadNow h), threadNow_threadNow]

end Sys2Proof.Machine
end

