-- ==== Sys2Proof/Laws/Insn.lean ====
section
/-! SUPPORT. What one shared operation of the task cores does once an instruction issues, and the arithmetic of words that
R131 writes on numbers. -/
namespace Sys2Proof.Machine

/-- The arithmetic of R131 on words read as numbers. -/
theorem bv_min {a b : Dword} : (if a.slt b then a else b) = if a.toInt ≤ b.toInt then a else b := by
  rw [BitVec.slt]
  by_cases h : a.toInt < b.toInt
  · simp [h, Int.le_of_lt h]
  · by_cases e : a.toInt = b.toInt
    · have := BitVec.eq_of_toInt_eq e; simp [this]
    · have : ¬ a.toInt ≤ b.toInt := by omega
      simp [h, this]

theorem bv_max {a b : Dword} : (if a.slt b then b else a) = if a.toInt ≤ b.toInt then b else a := by
  rw [BitVec.slt]
  by_cases h : a.toInt < b.toInt
  · simp [h, Int.le_of_lt h]
  · by_cases e : a.toInt = b.toInt
    · have := BitVec.eq_of_toInt_eq e; simp [this]
    · have : ¬ a.toInt ≤ b.toInt := by omega
      simp [h, this]

theorem bv_minu {a b : Dword} : (if a < b then a else b) = if a.toNat ≤ b.toNat then a else b := by
  by_cases e : a.toNat = b.toNat
  · have := BitVec.eq_of_toNat_eq e; simp [this]
  · by_cases h : a.toNat < b.toNat
    · simp [BitVec.lt_def, h, Nat.le_of_lt h]
    · have : ¬ a.toNat ≤ b.toNat := by omega
      simp [BitVec.lt_def, h, this]

theorem bv_maxu {a b : Dword} : (if a < b then b else a) = if a.toNat ≤ b.toNat then b else a := by
  by_cases e : a.toNat = b.toNat
  · have := BitVec.eq_of_toNat_eq e; simp [this]
  · by_cases h : a.toNat < b.toNat
    · simp [BitVec.lt_def, h, Nat.le_of_lt h]
    · have : ¬ a.toNat ≤ b.toNat := by omega
      simp [BitVec.lt_def, h, this]

/-- A three-register instruction that issues writes its result and nothing else. -/
theorem alu_gives {s t m f g x w v} (h : Issues s t m g x w) (e : f (sGet x (iA w)) (sGet x (iB w)) = v) :
    alu s t m f = .next (threadNow s t (wroteReg x (iD w) v)) := by
  rw [alu, onInsn_issues h, retire_at h.here h.free, e]

theorem bv_shl (a : BitVec 64) (n : Nat) : a <<< n = BitVec.ofNat 64 (a.toNat * 2 ^ n) := by
  apply BitVec.eq_of_toNat_eq
  rw [BitVec.toNat_shiftLeft, Nat.shiftLeft_eq, BitVec.toNat_ofNat]

theorem bv_shr (a : BitVec 64) (n : Nat) : a >>> n = BitVec.ofNat 64 (a.toNat / 2 ^ n) := by
  apply BitVec.eq_of_toNat_eq
  rw [BitVec.toNat_ushiftRight, Nat.shiftRight_eq_div_pow, BitVec.toNat_ofNat]
  symm; apply Nat.mod_eq_of_lt
  exact Nat.lt_of_le_of_lt (Nat.div_le_self _ _) a.isLt

theorem bv_sra (a : BitVec 64) (n : Nat) : a.sshiftRight n = BitVec.ofInt 64 (a.toInt / 2 ^ n) := by
  rw [BitVec.sshiftRight, Int.shiftRight_eq_div_pow]; simp

theorem bv_add (a b : BitVec 64) : a + b = BitVec.ofNat 64 (a.toNat + b.toNat) := by
  apply BitVec.eq_of_toNat_eq; simp

theorem bv_sub (a b : BitVec 64) : a - b = BitVec.ofInt 64 (a.toInt - b.toInt) := by
  apply BitVec.eq_of_toInt_eq; simp

theorem bv_mul (a b : BitVec 64) : a * b = BitVec.ofNat 64 (a.toNat * b.toNat) := by
  apply BitVec.eq_of_toNat_eq; simp

/-- The same with an immediate. -/
theorem aluImm_gives {s t m f g x w v} (h : Issues s t m g x w) (e : f (sGet x (iA w)) (iImm12 w) = v) :
    aluImm s t m f = .next (threadNow s t (wroteReg x (iD w) v)) := by
  rw [aluImm, onInsn_issues h, retire_at h.here h.free, e]

theorem shamt_imm (w : Word) : shamt (iImm12 w) = bitsOf 5 0 w.toNat := by
  rw [iImm12_eq]
  unfold shamt
  rw [BitVec.toNat_ofInt]
  simp only [bitsOf]
  simp only [Nat.pow_zero, Nat.div_one]
  split <;> omega

/-- A comparison that issues writes one predicate and nothing else. -/
theorem pred_gives {s t m f g x w v} (h : Issues s t m g x w) (e : f (sGet x (iA w)) (sGet x (iB w)) = v) :
    predCmp s t m f = .next (threadNow s t (wrotePred x (bitsOf 21 19 w.toNat) v)) := by
  rw [predCmp, onInsn_issues h, threadUpd_at h.here, e]
  unfold nextPc pSet wrotePred
  split <;> simp [h.free]

theorem bits_low (hi hi' lo n : Nat) (h : hi' ≤ hi) : bitsOf hi lo n % 2 ^ (hi' + 1 - lo) = bitsOf hi' lo n := by
  unfold bitsOf
  rw [Nat.mod_mod_of_dvd]
  exact Nat.pow_dvd_pow 2 (by omega)

/-- The same for an operation of two predicates. -/
theorem predOp_gives {s t m f g x w v} (h : Issues s t m g x w) (e : f (pGet x (bitsOf 14 12 w.toNat)) (pGet x (bitsOf 9 7 w.toNat)) = v) :
    predOp s t m f = .next (threadNow s t (wrotePred x (bitsOf 21 19 w.toNat) v)) := by
  have e1 : iA w % 8 = bitsOf 14 12 w.toNat := bits_low 16 14 12 _ (by omega)
  have e2 : iB w % 8 = bitsOf 9 7 w.toNat := bits_low 11 9 7 _ (by omega)
  rw [predOp, onInsn_issues h, threadUpd_at h.here, e1, e2, e]
  unfold nextPc pSet wrotePred
  split <;> simp [h.free]

theorem off22_eq (w : Word) : iOff22 w = BitVec.ofInt 64 (if bitsOf 21 0 w.toNat < 2 ^ 21 then (bitsOf 21 0 w.toNat : Int) else (bitsOf 21 0 w.toNat : Int) - 2 ^ 22) := by
  unfold iOff22; rw [sext_eq (bitsOf_lt 21 0 _)]

theorem four_mul (i : Int) : (4 : Dword) * BitVec.ofInt 64 i = BitVec.ofInt 64 (4 * i) := by
  rw [BitVec.ofInt_mul]; rfl

/-- What a load that issues does, in each place its address may lie. -/
theorem load_gives {s t m g x w n signed} (h : Issues s t m g x w) :
    let a := (sGet x (iA w) + iImm12 w).toNat
    let acc : Access := { kind := .read, addr := a, len := n, src := launchSrc g, who := .load t }
    let held := threadNow s t { x with hold := .load (iD w) n signed a, ret := none, noAlloc := false }
    a % n = 0 → issueRefusal s acc = none →
        (isOwn s a = true → inSpm s (offsetOf a) n = true →
          loadInsn s t m n signed = .next { held with xbr := s.xbr ++ [{ bank := bankOf (offsetOf a), acc := acc }] }) ∧
        (isChip a = false → loadInsn s t m n signed = .next (threadAccess held acc)) ∧
        (isChip a = true → l1Find (l1Check held (coreOf t) (lineOf a)) (coreOf t) (lineOf a) = none →
          loadInsn s t m n signed = .next (threadAccess (l1Check held (coreOf t) (lineOf a))
            { acc with addr := lineOf a, len := 128 })) ∧
        (isChip a = true → ∀ l, l1Find (l1Check held (coreOf t) (lineOf a)) (coreOf t) (lineOf a) = some l →
          loadInsn s t m n signed = .next (threadUpd (l1Check held (coreOf t) (lineOf a)) t
            fun x => { x with ret := some (l.bytes, 0), noAlloc := true })) ∧
        ((s.l1.any fun l => l.core == coreOf t && l.addr == lineOf a && l.bad) = false →
          l1Check held (coreOf t) (lineOf a) = held) := by
  intro a acc held ha hr
  have e : loadInsn s t m n signed = .next (threadRead s t g a n (.load (iD w) n signed a)) := by
    rw [loadInsn, onInsn_issues h]
  have e2 : threadUpd s t (fun x => { x with hold := .load (iD w) n signed a, ret := none, noAlloc := false }) = held :=
    threadUpd_at h.here
  have e3 : threadRead s t g a n (.load (iD w) n signed a) = 
     if isChip a then
      match l1Find (l1Check held (coreOf t) (lineOf a)) (coreOf t) (lineOf a) with
      | some l => threadUpd (l1Check held (coreOf t) (lineOf a)) t fun x => { x with ret := some (l.bytes, 0), noAlloc := true }
      | none => threadAccess (l1Check held (coreOf t) (lineOf a)) { acc with addr := lineOf a, len := 128 }
    else threadAccess held acc := by
    rw [threadRead]
    simp only [checked]
    rw [if_neg (by simp [ha])]
    show (match issueRefusal s acc with | some n => _ | none => _) = _
    rw [hr]
    simp only [e2]
    rfl
  rw [e, e3]
  refine ⟨fun ho hi => ?_, fun hc => ?_, fun hc hl => ?_, fun hc l hl => ?_, fun hb => ?_⟩
  · have hc : isChip a = false := by simp [isOwn] at ho; exact ho.1.1
    rw [hc]
    simp only [Bool.false_eq_true, if_false, threadAccess]
    have : isOwn held a = true := ho
    have h2 : inSpm held (offsetOf a) n = true := hi
    simp only [acc] at *
    rw [hc, this, h2]; simp; rfl
  · simp [hc]
  · simp only [hc, if_true, hl]
  · simp only [hc, if_true, hl]
  · have hb' : (held.l1.any fun l => l.core == coreOf t && l.addr == lineOf a && l.bad) = false := hb
    simp [l1Check, hb']

/-- A held thread that receives its value. -/
theorem retire_gen {s t g x d v} (h : threadAt s t = some (g, x)) :
    retire s t d v = threadNow s t { wroteReg x d v with hold := .free } := by
  rw [retire, threadUpd_at h]
  congr 1
  unfold nextPc sSet wroteReg
  split <;> simp

theorem l1Alloc_threadAt {s t c l b} : threadAt (l1Alloc s c l b) t = threadAt s t := by
  unfold l1Alloc; simp only []
  split
  · rfl
  · split <;> rfl

theorem leNat_lt : ∀ (bs : List Byte) (n : Nat), bs.length ≤ n → leNat bs < 2 ^ (8 * n)
  | [], n, _ => Nat.two_pow_pos _
  | b :: bs, n + 1, h => by
    have := leNat_lt bs n (by simpa using h)
    have e : 2 ^ (8 * (n + 1)) = 256 * 2 ^ (8 * n) := by rw [Nat.mul_add, Nat.pow_add]; omega
    have hb := b.isLt
    simp only [leNat]; omega

theorem own_notChip {s a} (h : isOwn s a = true) : isChip a = false := by simp [isOwn] at h; exact h.1.1

/-- What a store that issues does. -/
theorem threadWrite_eq {s t g x a n v counter} (hx : threadAt s t = some (g, x)) (_hf : x.hold = .free) :
    let bs := toLe n v
    let acc : Access := { kind := .write, addr := a, len := n, data := bs, counter := counter, src := launchSrc g, who := .store t }
    let held := threadNow s t { stepped x with unacked := x.unacked + 1 }
    a % n = 0 → issueRefusal s acc = none →
    threadWrite s t g a bs counter = threadAccess (if isChip a then l1Store held (coreOf t) a bs else held) acc := by
  intro bs acc held ha hr
  have hn : bs.length = n := by
    have : ∀ n v, (toLe n v).length = n := by
      intro n; induction n with
      | zero => intro v; rfl
      | succ n ih => intro v; simp [toLe, ih]
    exact this n v
  have e2 : threadUpd s t (fun x => { nextPc x with unacked := x.unacked + 1 }) = held := by
    rw [threadUpd_at hx]; rfl
  rw [threadWrite]
  simp only [checked, hn]
  rw [if_neg (by simp [ha])]
  show (match issueRefusal s acc with | some n => _ | none => _) = _
  rw [hr]
  simp only [e2]
  rfl

/-- An access of a thread to the own scratchpad waits at its bank. -/
theorem access_own {s a} (ho : isOwn s a.addr = true) (hi : inSpm s (offsetOf a.addr) a.len = true) :
    threadAccess s a = bankQueue s a := by
  rw [threadAccess, own_notChip ho, ho, hi]; simp

/-- A read waits at its bank and changes nothing else. -/
theorem bankQueue_read {s a} (h : a.kind = .read) :
    bankQueue s a = { s with xbr := s.xbr ++ [{ bank := bankOf (offsetOf a.addr), acc := a }] } := by
  rw [bankQueue, if_pos h]

/-- The numbers that are no system register. -/
theorem sysGet_none {s t g x n} (hn : n ∉ [0x000, 0x001, 0x010, 0x011, 0x012, 0x013, 0x014, 0x020, 0x021, 0x022, 0x023, 0x024, 0x028, 0x029, 0x02A,
          0x02B, 0x02C, 0x02D, 0x02E, 0x02F, 0x030, 0x031]) : sysGet s t g x n = none := by
  simp only [List.mem_cons, List.not_mem_nil, or_false, not_or] at hn
  rw [sysGet.eq_15] <;> first | omega | skip
  rw [if_neg]
  simp only [Bool.and_eq_true, decide_eq_true_eq]; omega

/-- The threads of a group after one of them has reached gbar or ended. -/
theorem gbarCheck_now {s t g x y} (h : threadAt s t = some (g, x)) :
    gbarCheck (threadNow s t y) (t / 4) = groupUpd s (t / 4) fun g => { g with threads := released (g.threads.set (t % 4) y) } := by
  have h2 := threadAt_threadNow (y := y) h
  obtain ⟨h3, h4⟩ := threadAt_some.1 h2
  obtain ⟨h5, h6⟩ := threadAt_some.1 h
  unfold gbarCheck
  rw [h3]
  simp only [released]
  have e : ∀ f : Group → Group, groupUpd (threadNow s t y) (t / 4) f = groupUpd s (t / 4) fun g => f { g with threads := g.threads.set (t % 4) y } := by
    intro f
    simp only [groupUpd, threadNow, threadUpd]
    congr 1
    apply List.ext_getElem?; intro j
    simp only [setAt_get]; split
    · next hj =>
      subst hj; rw [h5]
      simp only [Option.map_some]
      congr 3
      apply List.ext_getElem?; intro k
      simp only [setAt_get, List.getElem?_set]; split
      · next hk => subst hk; rw [h6]; simp; exact (List.getElem?_eq_some_iff.1 h6).1
      · rfl
    · rfl
  split
  · next hh =>
    rw [e]
    simp only [groupUpd]; congr 1
    apply setAt_congr
    intro g' hg'
    rw [h5] at hg'; cases hg'
    simp only [hh, if_true]; rfl
  · next hh =>
    have e1 : threadNow s t y = groupUpd (threadNow s t y) (t / 4) id := by
      simp only [groupUpd, threadNow, threadUpd]; congr 1
      apply List.ext_getElem?; intro j
      simp only [setAt_get]; split <;> simp
    rw [e1, e]
    simp only [groupUpd]; congr 1
    apply setAt_congr
    intro g' hg'
    rw [h5] at hg'; cases hg'
    simp only [hh]; rfl

/-- The test of R159 on numbers. -/
theorem reached_iff {v t} : reached v t = true ↔ 0 ≤ (v - t).toInt := by
  simp only [reached, Bool.not_eq_true', BitVec.msb_eq_toInt, decide_eq_false_iff_not, Int.not_lt]

end Sys2Proof.Machine
end

