-- ==== Sys2Proof/Laws/KeepsAll.lean ====
section
/-! SUPPORT. What every operation of the machine leaves of the state: each keeps it in the sense of Keeps.lean,
and with it every command. -/
set_option linter.unusedTactic false
set_option linter.unreachableTactic false
set_option linter.style.longLine false
namespace Sys2Proof.Machine

/-! The operations of Machine/Chip.lean. -/

theorem draw_keeps {s0 s : State} {n : Nat} (h : Keeps s0 s) : Keeps s0 (draw s n).2 :=
  h.trans ⟨rfl, rfl, rfl, Nat.le_refl _, Nat.le_add_right _ _, Nat.le_refl _, fun c => ⟨c.1, c.2, c.3, c.4, c.5, c.6, c.7, c.8, c.9⟩,
    fun z => ⟨z.1, z.2, z.3, z.4⟩⟩

theorem drawBytes_keeps {s0 : State} {s : State} {n : Nat} (hk : Keeps s0 s) :
     Keeps s0 (drawBytes s n).2 := by
  unfold drawBytes
  repeat' first
    | with_reducible assumption | with_reducible apply draw_keeps | exact Eq.refl _ | exact List.length_modify ..
    | exact List.length_map .. | extract_lets
    | ((fail_if_success (fail_if_success conv => arg 2; arg 42)); with_reducible apply Keeps.same) | intro _ | split
    | dsimp +zetaDelta only

theorem newId_keeps {s0 s : State} (h : Keeps s0 s) : Keeps s0 (newId s).2 :=
  h.trans ⟨rfl, rfl, rfl, Nat.le_refl _, Nat.le_refl _, Nat.le_add_right _ _, fun c => ⟨c.1, c.2, c.3, c.4, c.5, c.6, c.7, c.8, c.9⟩,
    fun z => ⟨z.1, z.2, z.3, z.4⟩⟩

theorem regPut_keeps {s0 s : State} {off v : Nat} (h : Keeps s0 s) : Keeps s0 (regPut s off v) :=
  h.trans ⟨rfl, rfl, rfl, Nat.le_refl _, Nat.le_refl _, Nat.le_refl _,
    fun c => ⟨c.1, c.2, mapSet_wf c.3, c.4, c.5, c.6, c.7, c.8, c.9⟩, fun z => ⟨z.1, z.2, z.3, z.4⟩⟩

theorem regPutBits_keeps {s0 : State} {s : State} {off : Nat} {hi : Nat} {lo : Nat} {v : Nat} (hk : Keeps s0 s) :
     Keeps s0 (regPutBits s off hi lo v) := by
  unfold regPutBits
  repeat' first
    | with_reducible assumption | with_reducible apply regPut_keeps | exact Eq.refl _ | exact List.length_modify ..
    | exact List.length_map .. | extract_lets
    | ((fail_if_success (fail_if_success conv => arg 2; arg 42)); with_reducible apply Keeps.same) | intro _ | split
    | dsimp +zetaDelta only

theorem regCount_keeps {s0 : State} {s : State} {off : Nat} (hk : Keeps s0 s) :
     Keeps s0 (regCount s off) := by
  unfold regCount
  repeat' first
    | with_reducible assumption | with_reducible apply regPut_keeps | exact Eq.refl _ | exact List.length_modify ..
    | exact List.length_map .. | extract_lets
    | ((fail_if_success (fail_if_success conv => arg 2; arg 42)); with_reducible apply Keeps.same) | intro _ | split
    | dsimp +zetaDelta only

theorem regPutPair_keeps {s0 : State} {s : State} {lo : Nat} {v : Nat} (hk : Keeps s0 s) :
     Keeps s0 (regPutPair s lo v) := by
  unfold regPutPair
  repeat' first
    | with_reducible assumption | with_reducible apply regPut_keeps | exact Eq.refl _ | exact List.length_modify ..
    | exact List.length_map .. | extract_lets
    | ((fail_if_success (fail_if_success conv => arg 2; arg 42)); with_reducible apply Keeps.same) | intro _ | split
    | dsimp +zetaDelta only

theorem noteRefusal_keeps {s0 : State} {s : State} {outgoing : Bool} {src : Nat} {addr : Nat} {reason : Nat} (hk : Keeps s0 s) :
     Keeps s0 (noteRefusal s outgoing src addr reason) := by
  unfold noteRefusal
  repeat' first
    | with_reducible assumption | with_reducible apply regCount_keeps | with_reducible apply regPut_keeps
    | with_reducible apply regPutPair_keeps | exact Eq.refl _ | exact List.length_modify ..
    | exact List.length_map .. | extract_lets
    | ((fail_if_success (fail_if_success conv => arg 2; arg 42)); with_reducible apply Keeps.same) | intro _ | split
    | dsimp +zetaDelta only

theorem entriesWritten_keeps {s0 : State} {s : State} {addr : Nat} {len : Nat} (hk : Keeps s0 s) :
     Keeps s0 (entriesWritten s addr len) := by
  unfold entriesWritten
  repeat' first
    | with_reducible assumption | with_reducible apply draw_keeps | exact Eq.refl _ | exact List.length_modify ..
    | exact List.length_map .. | extract_lets
    | ((fail_if_success (fail_if_success conv => arg 2; arg 42)); with_reducible apply Keeps.same) | intro _ | split
    | dsimp +zetaDelta only

theorem chanUpd_keeps {s0 s : State} {ch : Nat} {f : Chan → Chan} (h : Keeps s0 s) : Keeps s0 (chanUpd s ch f) := by
  unfold chanUpd
  exact Keeps.same h rfl rfl (by simp [setAt])

theorem cmpPump_keeps {s0 : State} {s : State} {ch : Nat} (hk : Keeps s0 s) :
     Keeps s0 (cmpPump s ch) := by
  unfold cmpPump
  repeat' first
    | with_reducible assumption | with_reducible apply chanUpd_keeps | with_reducible apply KeepsO.getD
    | exact Eq.refl _ | exact List.length_modify .. | exact List.length_map .. | extract_lets
    | ((fail_if_success (fail_if_success conv => arg 2; arg 42)); with_reducible apply Keeps.same) | intro _ | split
    | dsimp +zetaDelta only

theorem cmpQueue_keeps {s0 : State} {s : State} {ch : Nat} {m : CmpMsg} {a : Option Access} (hk : Keeps s0 s) :
     Keeps s0 (cmpQueue s ch m a) := by
  unfold cmpQueue
  repeat' first
    | with_reducible assumption | with_reducible apply cmpPump_keeps | with_reducible apply chanUpd_keeps
    | exact Eq.refl _ | exact List.length_modify .. | exact List.length_map .. | extract_lets
    | ((fail_if_success (fail_if_success conv => arg 2; arg 42)); with_reducible apply Keeps.same) | intro _ | split
    | dsimp +zetaDelta only

theorem cmpOne_keeps {s0 : State} {s : State} {a : Access} (hk : Keeps s0 s) :
     Keeps s0 (cmpOne s a) := by
  unfold cmpOne
  repeat' first
    | with_reducible assumption | with_reducible apply cmpQueue_keeps | exact Eq.refl _ | exact List.length_modify ..
    | exact List.length_map .. | extract_lets
    | ((fail_if_success (fail_if_success conv => arg 2; arg 42)); with_reducible apply Keeps.same) | intro _ | split
    | dsimp +zetaDelta only

theorem cmpSend_keeps {s0 : State} {s : State} {a : Access} (hk : Keeps s0 s) :
     Keeps s0 (cmpSend s a).1 := by
  unfold cmpSend
  repeat' first
    | with_reducible assumption | with_reducible apply entriesWritten_keeps | with_reducible apply cmpOne_keeps
    | with_reducible apply foldl_keeps | with_reducible apply foldl_keeps_fst | with_reducible apply foldl_keeps_snd
    | exact Eq.refl _ | exact List.length_modify .. | exact List.length_map .. | extract_lets
    | ((fail_if_success (fail_if_success conv => arg 2; arg 42)); with_reducible apply Keeps.same) | intro _ | split
    | dsimp +zetaDelta only

theorem homeWrite_keeps {s0 : State} {s : State} {off : Nat} {bs : List Byte} {who : Who} (hk : Keeps s0 s) :
     Keeps s0 (homeWrite s off bs who).1 := by
  unfold homeWrite
  repeat' first
    | with_reducible assumption | with_reducible apply cmpSend_keeps | with_reducible apply foldl_keeps
    | with_reducible apply foldl_keeps_fst | with_reducible apply foldl_keeps_snd | exact Eq.refl _
    | exact List.length_modify .. | exact List.length_map .. | extract_lets
    | ((fail_if_success (fail_if_success conv => arg 2; arg 42)); with_reducible apply Keeps.same) | intro _ | split
    | dsimp +zetaDelta only

/-! The operations of Machine/Ops.lean. -/

theorem whenLive_keeps {s0 : State} {s : State} {f : State → State} (hk : Keeps s0 s) (hf : ∀ x0, Keeps s0 x0 → Keeps s0 (f x0)) :
     Keeps s0 (whenLive s f) := by
  unfold whenLive
  repeat' first
    | with_reducible assumption | with_reducible apply hf | exact Eq.refl _ | exact List.length_modify ..
    | exact List.length_map .. | extract_lets
    | ((fail_if_success (fail_if_success conv => arg 2; arg 42)); with_reducible apply Keeps.same) | intro _ | split
    | dsimp +zetaDelta only

theorem wakeBanks_keeps {s0 : State} {s : State} {off : Nat} {len : Nat} (hk : Keeps s0 s) :
     Keeps s0 (wakeBanks s off len) := by
  unfold wakeBanks
  repeat' first
    | with_reducible assumption | exact Eq.refl _ | exact List.length_modify .. | exact List.length_map ..
    | extract_lets | ((fail_if_success (fail_if_success conv => arg 2; arg 42)); with_reducible apply Keeps.same)
    | intro _ | split | dsimp +zetaDelta only

theorem clearPlanes_keeps {s0 : State} {s : State} {off : Nat} {len : Nat} (hk : Keeps s0 s) :
     Keeps s0 (clearPlanes s off len) := by
  unfold clearPlanes
  repeat' first
    | with_reducible assumption | exact Eq.refl _ | exact List.length_modify .. | exact List.length_map ..
    | extract_lets | ((fail_if_success (fail_if_success conv => arg 2; arg 42)); with_reducible apply Keeps.same)
    | intro _ | split | dsimp +zetaDelta only

theorem spmPut_keeps {s0 s : State} {off : Nat} {bs : List Byte} (h : Keeps s0 s) : Keeps s0 (spmPut s off bs) := by
  have h1 : Keeps s0 { s with
      spm := mapSetAll (spmDefault s.spmLost) s.spm off bs
      spmBad := s.spmBad.filter fun w => !(fullWords off bs.length).contains w } :=
    h.trans ⟨rfl, rfl, rfl, Nat.le_refl _, Nat.le_refl _, Nat.le_refl _,
      fun c => ⟨mapSetAll_wf c.1, c.2, c.3, c.4, c.5, c.6, c.7, c.8, c.9⟩, fun z => ⟨z.1, z.2, z.3, z.4⟩⟩
  exact clearPlanes_keeps h1

theorem spmStore_keeps {s0 : State} {s : State} {off : Nat} {bs : List Byte} (hk : Keeps s0 s) :
     Keeps s0 (spmStore s off bs) := by
  unfold spmStore
  repeat' first
    | with_reducible assumption | with_reducible apply spmPut_keeps | with_reducible apply regPutBits_keeps
    | exact Eq.refl _ | exact List.length_modify .. | exact List.length_map .. | extract_lets
    | ((fail_if_success (fail_if_success conv => arg 2; arg 42)); with_reducible apply Keeps.same) | intro _ | split
    | dsimp +zetaDelta only

theorem descUpd_keeps {s0 : State} {s : State} {d : Nat} {f : Desc → Desc} (hk : Keeps s0 s) :
     Keeps s0 (descUpd s d f) := by
  unfold descUpd
  repeat' first
    | with_reducible assumption | exact Eq.refl _ | exact List.length_modify .. | exact List.length_map ..
    | extract_lets | ((fail_if_success (fail_if_success conv => arg 2; arg 42)); with_reducible apply Keeps.same)
    | intro _ | split | dsimp +zetaDelta only

theorem noteWrite_keeps {s0 : State} {s : State} {owner : Option Nat} {off : Nat} {len : Nat} (hk : Keeps s0 s) :
     Keeps s0 (noteWrite s owner off len) := by
  unfold noteWrite
  repeat' first
    | with_reducible assumption | exact Eq.refl _ | exact List.length_modify .. | exact List.length_map ..
    | extract_lets | ((fail_if_success (fail_if_success conv => arg 2; arg 42)); with_reducible apply Keeps.same)
    | intro _ | split | dsimp +zetaDelta only

theorem spmWrite_keeps {s0 : State} {s : State} {owner : Option Nat} {off : Nat} {bs : List Byte} (hk : Keeps s0 s) :
     Keeps s0 (spmWrite s owner off bs) := by
  unfold spmWrite
  repeat' first
    | with_reducible assumption | with_reducible apply noteWrite_keeps | with_reducible apply spmStore_keeps
    | exact Eq.refl _ | exact List.length_modify .. | exact List.length_map .. | extract_lets
    | ((fail_if_success (fail_if_success conv => arg 2; arg 42)); with_reducible apply Keeps.same) | intro _ | split
    | dsimp +zetaDelta only

theorem bankQueue_keeps {s0 : State} {s : State} {a : Access} (hk : Keeps s0 s) :
     Keeps s0 (bankQueue s a) := by
  unfold bankQueue
  repeat' first
    | with_reducible assumption | with_reducible apply clearPlanes_keeps | exact Eq.refl _
    | exact List.length_modify .. | exact List.length_map .. | extract_lets
    | ((fail_if_success (fail_if_success conv => arg 2; arg 42)); with_reducible apply Keeps.same) | intro _ | split
    | dsimp +zetaDelta only

theorem waitRefetch_keeps {s0 : State} {s : State} {block : Nat} {a : Access} (hk : Keeps s0 s) :
     Keeps s0 (waitRefetch s block a) := by
  unfold waitRefetch
  repeat' first
    | with_reducible assumption | exact Eq.refl _ | exact List.length_modify .. | exact List.length_map ..
    | extract_lets | ((fail_if_success (fail_if_success conv => arg 2; arg 42)); with_reducible apply Keeps.same)
    | intro _ | split | dsimp +zetaDelta only

theorem writeThrough_keeps {s0 : State} {s : State} {a : Access} {runs : List (Nat × List Byte)} {count : Option (Nat × Nat)} {old : List Byte} (hk : Keeps s0 s) :
     Keeps s0 (writeThrough s a runs count old).1 := by
  unfold writeThrough
  repeat' first
    | with_reducible assumption | with_reducible apply newId_keeps | with_reducible apply homeWrite_keeps
    | with_reducible apply foldl_keeps | with_reducible apply foldl_keeps_fst | with_reducible apply foldl_keeps_snd
    | exact Eq.refl _ | exact List.length_modify .. | exact List.length_map .. | extract_lets
    | ((fail_if_success (fail_if_success conv => arg 2; arg 42)); with_reducible apply Keeps.same) | intro _ | split
    | dsimp +zetaDelta only

theorem wildStore_keeps {s0 : State} {s : State} {off : Nat} {bs : List Byte} (hk : Keeps s0 s) :
     Keeps s0 (wildStore s off bs) := by
  unfold wildStore
  repeat' first
    | with_reducible assumption | with_reducible apply spmPut_keeps | with_reducible apply writeThrough_keeps
    | exact Eq.refl _ | exact List.length_modify .. | exact List.length_map .. | extract_lets
    | ((fail_if_success (fail_if_success conv => arg 2; arg 42)); with_reducible apply Keeps.same) | intro _ | split
    | dsimp +zetaDelta only

theorem spmHavoc_keeps {s0 : State} {s : State} {off : Nat} {len : Nat} (hk : Keeps s0 s) :
     Keeps s0 (spmHavoc s off len) := by
  unfold spmHavoc
  repeat' first
    | with_reducible assumption | with_reducible apply drawBytes_keeps | with_reducible apply wildStore_keeps
    | exact Eq.refl _ | exact List.length_modify .. | exact List.length_map .. | extract_lets
    | ((fail_if_success (fail_if_success conv => arg 2; arg 42)); with_reducible apply Keeps.same) | intro _ | split
    | dsimp +zetaDelta only

theorem rangeHavoc_keeps {s0 : State} {s : State} {r : Nat × Nat} (hk : Keeps s0 s) :
     Keeps s0 (rangeHavoc s r) := by
  unfold rangeHavoc
  repeat' first
    | with_reducible assumption | with_reducible apply spmHavoc_keeps | with_reducible apply foldl_keeps
    | with_reducible apply foldl_keeps_fst | with_reducible apply foldl_keeps_snd | exact Eq.refl _
    | exact List.length_modify .. | exact List.length_map .. | extract_lets
    | ((fail_if_success (fail_if_success conv => arg 2; arg 42)); with_reducible apply Keeps.same) | intro _ | split
    | dsimp +zetaDelta only

theorem routeWritten_keeps {s0 : State} {s : State} {off : Nat} {len : Nat} (hk : Keeps s0 s) :
     Keeps s0 (routeWritten s off len) := by
  unfold routeWritten
  repeat' first
    | with_reducible assumption | with_reducible apply draw_keeps | exact Eq.refl _ | exact List.length_modify ..
    | exact List.length_map .. | extract_lets
    | ((fail_if_success (fail_if_success conv => arg 2; arg 42)); with_reducible apply Keeps.same) | intro _ | split
    | dsimp +zetaDelta only

theorem storeRuns_keeps {s0 : State} {s : State} {owner : Option Nat} {a : Access} {runs : List (Nat × List Byte)} {count : Option (Nat × Nat)} {old : List Byte} (hk : Keeps s0 s) :
     Keeps s0 (storeRuns s owner a runs count old).1 := by
  unfold storeRuns
  repeat' first
    | with_reducible assumption | with_reducible apply spmWrite_keeps | with_reducible apply wakeBanks_keeps
    | with_reducible apply routeWritten_keeps | with_reducible apply entriesWritten_keeps
    | with_reducible apply writeThrough_keeps | with_reducible apply foldl_keeps
    | with_reducible apply foldl_keeps_fst | with_reducible apply foldl_keeps_snd | exact Eq.refl _
    | exact List.length_modify .. | exact List.length_map .. | extract_lets
    | ((fail_if_success (fail_if_success conv => arg 2; arg 42)); with_reducible apply Keeps.same) | intro _ | split
    | dsimp +zetaDelta only

theorem unitStore_keeps {s0 : State} {s : State} {off : Nat} {bs : List Byte} (hk : Keeps s0 s) :
     Keeps s0 (unitStore s off bs) := by
  unfold unitStore
  repeat' first
    | with_reducible assumption | with_reducible apply noteRefusal_keeps | with_reducible apply waitRefetch_keeps
    | with_reducible apply storeRuns_keeps | exact Eq.refl _ | exact List.length_modify .. | exact List.length_map ..
    | extract_lets | ((fail_if_success (fail_if_success conv => arg 2; arg 42)); with_reducible apply Keeps.same)
    | intro _ | split | dsimp +zetaDelta only

theorem setEvent_keeps {s0 : State} {s : State} {b : Nat} (hk : Keeps s0 s) :
     Keeps s0 (setEvent s b) := by
  unfold setEvent
  repeat' first
    | with_reducible assumption | with_reducible apply regPutBits_keeps | exact Eq.refl _
    | exact List.length_modify .. | exact List.length_map .. | extract_lets
    | ((fail_if_success (fail_if_success conv => arg 2; arg 42)); with_reducible apply Keeps.same) | intro _ | split
    | dsimp +zetaDelta only

theorem eeuStatus_keeps {s0 : State} {s : State} (hk : Keeps s0 s) :
     Keeps s0 (eeuStatus s) := by
  unfold eeuStatus
  repeat' first
    | with_reducible assumption | with_reducible apply regPutBits_keeps | with_reducible apply regPut_keeps
    | exact Eq.refl _ | exact List.length_modify .. | exact List.length_map .. | extract_lets
    | ((fail_if_success (fail_if_success conv => arg 2; arg 42)); with_reducible apply Keeps.same) | intro _ | split
    | dsimp +zetaDelta only

theorem deliverEntry_keeps {s0 : State} {s : State} (hk : Keeps s0 s) :
     Keeps s0 (deliverEntry s) := by
  unfold deliverEntry
  repeat' first
    | with_reducible assumption | with_reducible apply eeuStatus_keeps | with_reducible apply regPutBits_keeps
    | exact Eq.refl _ | exact List.length_modify .. | exact List.length_map .. | extract_lets
    | ((fail_if_success (fail_if_success conv => arg 2; arg 42)); with_reducible apply Keeps.same) | intro _ | split
    | dsimp +zetaDelta only

theorem writeEntry_keeps {s0 : State} {s : State} {e : ErrRec} {cls : Nat} {esc : Bool} {supp : Nat} (hk : Keeps s0 s) :
     Keeps s0 (writeEntry s e cls esc supp).1 := by
  unfold writeEntry
  repeat' first
    | with_reducible assumption | with_reducible apply regCount_keeps | with_reducible apply regPut_keeps
    | with_reducible apply setEvent_keeps | with_reducible apply unitStore_keeps
    | with_reducible apply regPutBits_keeps | with_reducible apply deliverEntry_keeps | exact Eq.refl _
    | exact List.length_modify .. | exact List.length_map .. | extract_lets
    | ((fail_if_success (fail_if_success conv => arg 2; arg 42)); with_reducible apply Keeps.same) | intro _ | split
    | dsimp +zetaDelta only

theorem writeFatal_keeps {s0 : State} {s : State} {e : ErrRec} {cls : Nat} {esc : Bool} (hk : Keeps s0 s) :
     Keeps s0 (writeFatal s e cls esc) := by
  unfold writeFatal
  repeat' first
    | with_reducible assumption | with_reducible apply regPut_keeps | with_reducible apply regPutPair_keeps
    | exact Eq.refl _ | exact List.length_modify .. | exact List.length_map .. | extract_lets
    | ((fail_if_success (fail_if_success conv => arg 2; arg 42)); with_reducible apply Keeps.same) | intro _ | split
    | dsimp +zetaDelta only

theorem linksDown_keeps {s0 : State} {s : State} (hk : Keeps s0 s) :
     Keeps s0 (linksDown s) := by
  unfold linksDown
  repeat' first
    | with_reducible assumption | with_reducible apply regPutBits_keeps | with_reducible apply foldl_keeps
    | with_reducible apply foldl_keeps_fst | with_reducible apply foldl_keeps_snd | exact Eq.refl _
    | exact List.length_modify .. | exact List.length_map .. | extract_lets
    | ((fail_if_success (fail_if_success conv => arg 2; arg 42)); with_reducible apply Keeps.same) | intro _ | split
    | dsimp +zetaDelta only

theorem spmLose_keeps {s0 s : State} {k : Nat} (h : Keeps s0 s) :
    Keeps s0 { s with spm := [], spmBad := [], spmLost := some k } :=
  h.trans ⟨rfl, rfl, rfl, Nat.le_refl _, Nat.le_refl _, Nat.le_refl _,
    fun c => ⟨rfl, c.2, c.3, c.4, c.5, c.6, c.7, c.8, c.9⟩, fun z => ⟨z.1, z.2, z.3, z.4⟩⟩

theorem stopCluster_keeps {s0 s : State} {supply : Bool} (h : Keeps s0 s) : Keeps s0 (stopCluster s supply) := by
  have h1 : Keeps s0 (if eeuShut s then s else setEvent s 2) := by
    split
    · exact h
    · exact setEvent_keeps h
  have h2 : Keeps s0 (if supply then
      let r := draw (if eeuShut s then s else setEvent s 2) (2 ^ 40)
      { r.2 with spm := [], spmBad := [], spmLost := some r.1 }
    else if eeuShut s then s else setEvent s 2) := by
    split
    · exact spmLose_keeps (draw_keeps h1)
    · exact h1
  exact Keeps.same (linksDown_keeps h2) rfl rfl (by simp)

theorem corrPut_keeps {s0 s : State} {k : Nat} {v : Word} (h : Keeps s0 s) :
    Keeps s0 { s with corr := mapSet (fun _ => 0) s.corr k v } :=
  h.trans ⟨rfl, rfl, rfl, Nat.le_refl _, Nat.le_refl _, Nat.le_refl _,
    fun c => ⟨c.1, c.2, c.3, c.4, c.5, c.6, mapSet_wf c.7, c.8, c.9⟩, fun z => ⟨z.1, z.2, z.3, z.4⟩⟩

theorem countCorrected_keeps {s0 s : State} {res : Nat} (h : Keeps s0 s) : Keeps s0 (countCorrected s res) := by
  unfold countCorrected
  extract_lets no n er s1 th s2 idx key
  have h1 : Keeps s0 s1 := Keeps.same h rfl rfl rfl
  have h2 : Keeps s0 s2 := by
    show Keeps s0 (if _ then _ else _)
    split
    · exact setEvent_keeps h1
    · exact h1
  clear_value s2 key
  split
  · exact corrPut_keeps h2
  · exact h2

theorem suppPut_keeps {s0 : State} {s : State} {k : Nat × Nat} {v : Option Nat × Nat} (hk : Keeps s0 s) :
     Keeps s0 (suppPut s k v) := by
  unfold suppPut
  repeat' first
    | with_reducible assumption | exact Eq.refl _ | exact List.length_modify .. | exact List.length_map ..
    | extract_lets | ((fail_if_success (fail_if_success conv => arg 2; arg 42)); with_reducible apply Keeps.same)
    | intro _ | split | dsimp +zetaDelta only

theorem raiseErr_keeps {s0 : State} {s : State} {e : ErrRec} (hk : Keeps s0 s) :
     Keeps s0 (raiseErr s e) := by
  unfold raiseErr
  repeat' first
    | with_reducible assumption | with_reducible apply stopCluster_keeps | with_reducible apply setEvent_keeps
    | with_reducible apply countCorrected_keeps | with_reducible apply suppPut_keeps
    | with_reducible apply writeEntry_keeps | with_reducible apply writeFatal_keeps | exact Eq.refl _
    | exact List.length_modify .. | exact List.length_map .. | extract_lets
    | ((fail_if_success (fail_if_success conv => arg 2; arg 42)); with_reducible apply Keeps.same) | intro _ | split
    | dsimp +zetaDelta only

theorem raiseCfgParity_keeps {s0 : State} {s : State} {off : Nat} (hk : Keeps s0 s) :
     Keeps s0 (raiseCfgParity s off) := by
  unfold raiseCfgParity
  repeat' first
    | with_reducible assumption | with_reducible apply raiseErr_keeps | exact Eq.refl _ | exact List.length_modify ..
    | exact List.length_map .. | extract_lets
    | ((fail_if_success (fail_if_success conv => arg 2; arg 42)); with_reducible apply Keeps.same) | intro _ | split
    | dsimp +zetaDelta only

theorem foldl_setAt_length {gs l : List Nat} : (gs.foldl (fun l g => setAt l g (· + 1)) l).length = l.length := by
  induction gs generalizing l with
  | nil => rfl
  | cons g gs ih => rw [List.foldl_cons, ih]; simp [setAt]

theorem bumpGens_keeps {s0 s : State} {gs : List Nat} (h : Keeps s0 s) : Keeps s0 (bumpGens s gs) :=
  h.trans ⟨rfl, rfl, rfl, Nat.le_refl _, Nat.le_refl _, Nat.le_refl _,
    fun c => ⟨c.1, c.2, c.3, c.4, c.5, c.6, c.7, c.8, c.9⟩,
    fun z => ⟨z.1, (foldl_setAt_length).trans z.2, z.3, z.4⟩⟩

theorem risePower_keeps {s0 : State} {s : State} (hk : Keeps s0 s) :
     Keeps s0 (risePower s) := by
  unfold risePower
  repeat' first
    | with_reducible assumption | with_reducible apply draw_keeps | exact Eq.refl _ | exact List.length_modify ..
    | exact List.length_map .. | extract_lets
    | ((fail_if_success (fail_if_success conv => arg 2; arg 42)); with_reducible apply Keeps.same) | intro _ | split
    | dsimp +zetaDelta only

theorem wakeFor_keeps {s0 : State} {s : State} {is' : List Nat} (hk : Keeps s0 s) :
     KeepsO s0 (wakeFor s is') := by
  unfold wakeFor
  repeat' first
    | with_reducible assumption | with_reducible apply risePower_keeps | with_reducible apply foldl_keeps
    | with_reducible apply foldl_keeps_fst | with_reducible apply foldl_keeps_snd | with_reducible exact KeepsO.none
    | with_reducible apply KeepsO.some | exact Eq.refl _ | exact List.length_modify .. | exact List.length_map ..
    | extract_lets | ((fail_if_success (fail_if_success conv => arg 2; arg 42)); with_reducible apply Keeps.same)
    | intro _ | split | dsimp +zetaDelta only

theorem endDesc_keeps {s0 : State} {s : State} {d : Nat} {status : Nat} {det : Detail} (hk : Keeps s0 s) :
     Keeps s0 (endDesc s d status det) := by
  unfold endDesc
  repeat' first
    | with_reducible assumption | with_reducible apply descUpd_keeps | with_reducible apply raiseErr_keeps
    | exact Eq.refl _ | exact List.length_modify .. | exact List.length_map .. | extract_lets
    | ((fail_if_success (fail_if_success conv => arg 2; arg 42)); with_reducible apply Keeps.same) | intro _ | split
    | dsimp +zetaDelta only

theorem rejectDesc_keeps {s0 : State} {s : State} {d : Nat} {status : Nat} {det : Detail} (hk : Keeps s0 s) :
     Keeps s0 (rejectDesc s d status det) := by
  unfold rejectDesc
  repeat' first
    | with_reducible assumption | with_reducible apply endDesc_keeps | with_reducible apply descUpd_keeps
    | exact Eq.refl _ | exact List.length_modify .. | exact List.length_map .. | extract_lets
    | ((fail_if_success (fail_if_success conv => arg 2; arg 42)); with_reducible apply Keeps.same) | intro _ | split
    | dsimp +zetaDelta only

theorem testWaits_keeps {s0 : State} {s : State} {c : Nat} (hk : Keeps s0 s) :
     Keeps s0 (testWaits s c) := by
  unfold testWaits
  repeat' first
    | with_reducible assumption | with_reducible apply endDesc_keeps | with_reducible apply descUpd_keeps
    | with_reducible apply foldl_keeps | with_reducible apply foldl_keeps_fst | with_reducible apply foldl_keeps_snd
    | exact Eq.refl _ | exact List.length_modify .. | exact List.length_map .. | extract_lets
    | ((fail_if_success (fail_if_success conv => arg 2; arg 42)); with_reducible apply Keeps.same) | intro _ | split
    | dsimp +zetaDelta only

theorem closeRounds_keeps {s0 : State} {s : State} {c : Nat} (hk : Keeps s0 s) :
     Keeps s0 (closeRounds s c) := by
  unfold closeRounds
  repeat' first
    | with_reducible assumption | with_reducible apply regPutBits_keeps | with_reducible apply foldl_keeps
    | with_reducible apply foldl_keeps_fst | with_reducible apply foldl_keeps_snd | exact Eq.refl _
    | exact List.length_modify .. | exact List.length_map .. | extract_lets
    | ((fail_if_success (fail_if_success conv => arg 2; arg 42)); with_reducible apply Keeps.same) | intro _ | split
    | dsimp +zetaDelta only

theorem counterPut_keeps {s0 s : State} {c : Nat} {v : Dword} (h : Keeps s0 s) :
    Keeps s0 { s with counters := mapSet (fun _ => 0) s.counters c v } :=
  h.trans ⟨rfl, rfl, rfl, Nat.le_refl _, Nat.le_refl _, Nat.le_refl _,
    fun c => ⟨c.1, c.2, c.3, mapSet_wf c.4, c.5, c.6, c.7, c.8, c.9⟩, fun z => ⟨z.1, z.2, z.3, z.4⟩⟩

theorem counterSet_keeps {s0 s : State} {c : Nat} {v : Dword} (h : Keeps s0 s) : Keeps s0 (counterSet s c v) :=
  closeRounds_keeps (testWaits_keeps (counterPut_keeps h))

theorem counterAdvance_keeps {s0 : State} {s : State} {c : Nat} {amount : Nat} (hk : Keeps s0 s) :
     Keeps s0 (counterAdvance s c amount) := by
  unfold counterAdvance
  repeat' first
    | with_reducible assumption | with_reducible apply counterSet_keeps | exact Eq.refl _
    | exact List.length_modify .. | exact List.length_map .. | extract_lets
    | ((fail_if_success (fail_if_success conv => arg 2; arg 42)); with_reducible apply Keeps.same) | intro _ | split
    | dsimp +zetaDelta only

/-! The operations of Machine/Fep.lean. -/

theorem bucketPut_keeps {s0 : State} {s : State} {b : Bucket} (hk : Keeps s0 s) :
     Keeps s0 (bucketPut s b) := by
  unfold bucketPut
  repeat' first
    | with_reducible assumption | exact Eq.refl _ | exact List.length_modify .. | exact List.length_map ..
    | extract_lets | ((fail_if_success (fail_if_success conv => arg 2; arg 42)); with_reducible apply Keeps.same)
    | intro _ | split | dsimp +zetaDelta only

theorem portUpd_keeps {s0 s : State} {p : Nat} {f : Port → Port} (h : Keeps s0 s) : Keeps s0 (portUpd s p f) := by
  unfold portUpd
  exact Keeps.same h rfl (by simp [setAt]) rfl

theorem startTimer_keeps {s0 : State} {s : State} {tag : Nat} (hk : Keeps s0 s) :
     Keeps s0 (startTimer s tag) := by
  unfold startTimer
  repeat' first
    | with_reducible assumption | exact Eq.refl _ | exact List.length_modify .. | exact List.length_map ..
    | extract_lets | ((fail_if_success (fail_if_success conv => arg 2; arg 42)); with_reducible apply Keeps.same)
    | intro _ | split | dsimp +zetaDelta only

theorem startFlit_keeps {s0 : State} {s : State} {p : Nat} {c : Port} (hk : Keeps s0 s) :
     KeepsP s0 (startFlit s p c) := by
  unfold startFlit
  repeat' first
    | with_reducible assumption | with_reducible apply portUpd_keeps | with_reducible apply regPut_keeps
    | with_reducible apply startTimer_keeps | with_reducible apply bucketPut_keeps | with_reducible apply foldl_keeps
    | with_reducible apply foldl_keeps_fst | with_reducible apply foldl_keeps_snd | with_reducible exact KeepsP.none
    | with_reducible apply KeepsP.some | with_reducible apply KeepsP.map | exact Eq.refl _
    | exact List.length_modify .. | exact List.length_map .. | extract_lets
    | ((fail_if_success (fail_if_success conv => arg 2; arg 42)); with_reducible apply Keeps.same) | intro _ | split
    | dsimp +zetaDelta only

theorem fepPump_keeps {s0 : State} {s : State} {p : Nat} (hk : Keeps s0 s) :
     Keeps s0 (fepPump s p) := by
  unfold fepPump
  repeat' first
    | with_reducible assumption | refine (startFlit_keeps ?_).out _ _ (by assumption)
    | with_reducible apply startFlit_keeps | with_reducible apply portUpd_keeps | exact Eq.refl _
    | exact List.length_modify .. | exact List.length_map .. | extract_lets
    | ((fail_if_success (fail_if_success conv => arg 2; arg 42)); with_reducible apply Keeps.same) | intro _ | split
    | dsimp +zetaDelta only

theorem fepPumpAll_keeps {s0 : State} {s : State} (hk : Keeps s0 s) :
     Keeps s0 (fepPumpAll s) := by
  unfold fepPumpAll
  repeat' first
    | with_reducible assumption | with_reducible apply fepPump_keeps | with_reducible apply foldl_keeps
    | with_reducible apply foldl_keeps_fst | with_reducible apply foldl_keeps_snd | exact Eq.refl _
    | exact List.length_modify .. | exact List.length_map .. | extract_lets
    | ((fail_if_success (fail_if_success conv => arg 2; arg 42)); with_reducible apply Keeps.same) | intro _ | split
    | dsimp +zetaDelta only

theorem refetchBegin_keeps {s0 : State} {s : State} {block : Nat} (hk : Keeps s0 s) :
     Keeps s0 (refetchBegin s block) := by
  unfold refetchBegin
  repeat' first
    | with_reducible assumption | with_reducible apply newId_keeps | with_reducible apply cmpSend_keeps
    | exact Eq.refl _ | exact List.length_modify .. | exact List.length_map .. | extract_lets
    | ((fail_if_success (fail_if_success conv => arg 2; arg 42)); with_reducible apply Keeps.same) | intro _ | split
    | dsimp +zetaDelta only

theorem refetchStart_keeps {s0 : State} {s : State} {word : Nat} {region : Nat} (hk : Keeps s0 s) :
     Keeps s0 (refetchStart s word region) := by
  unfold refetchStart
  repeat' first
    | with_reducible assumption | with_reducible apply refetchBegin_keeps | exact Eq.refl _
    | exact List.length_modify .. | exact List.length_map .. | extract_lets
    | ((fail_if_success (fail_if_success conv => arg 2; arg 42)); with_reducible apply Keeps.same) | intro _ | split
    | dsimp +zetaDelta only

theorem raiseRoute_keeps {s0 : State} {s : State} {dest : Nat} {failed : Bool} (hk : Keeps s0 s) :
     Keeps s0 (raiseRoute s dest failed) := by
  unfold raiseRoute
  repeat' first
    | with_reducible assumption | with_reducible apply noteRefusal_keeps | with_reducible apply raiseErr_keeps
    | exact Eq.refl _ | exact List.length_modify .. | exact List.length_map .. | extract_lets
    | ((fail_if_success (fail_if_success conv => arg 2; arg 42)); with_reducible apply Keeps.same) | intro _ | split
    | dsimp +zetaDelta only

theorem routeFetch_keeps {s0 : State} {s : State} {dest : Nat} (hk : Keeps s0 s) :
     Keeps s0 (routeFetch s dest) := by
  unfold routeFetch
  repeat' first
    | with_reducible assumption | with_reducible apply cmpSend_keeps | with_reducible apply refetchStart_keeps
    | exact Eq.refl _ | exact List.length_modify .. | exact List.length_map .. | extract_lets
    | ((fail_if_success (fail_if_success conv => arg 2; arg 42)); with_reducible apply Keeps.same) | intro _ | split
    | dsimp +zetaDelta only

theorem fepPlace_keeps {s0 : State} {s : State} {k : Packet} {acc : Option Access} {ports : List Nat} {path : Nat} {rcg : Nat} (hk : Keeps s0 s) :
     Keeps s0 (fepPlace s k acc ports path rcg) := by
  unfold fepPlace
  repeat' first
    | with_reducible assumption | with_reducible apply fepPumpAll_keeps | with_reducible apply portUpd_keeps
    | with_reducible apply foldl_keeps | with_reducible apply foldl_keeps_fst | with_reducible apply foldl_keeps_snd
    | exact Eq.refl _ | exact List.length_modify .. | exact List.length_map .. | extract_lets
    | ((fail_if_success (fail_if_success conv => arg 2; arg 42)); with_reducible apply Keeps.same) | intro _ | split
    | dsimp +zetaDelta only

theorem fepQueue_keeps {s0 : State} {s : State} {k : Packet} {acc : Option Access} (hk : Keeps s0 s) :
     Keeps s0 (fepQueue s k acc).1 := by
  unfold fepQueue
  repeat' first
    | with_reducible assumption | with_reducible apply fepPlace_keeps | with_reducible apply raiseRoute_keeps
    | with_reducible apply regCount_keeps | with_reducible apply routeFetch_keeps | exact Eq.refl _
    | exact List.length_modify .. | exact List.length_map .. | extract_lets
    | ((fail_if_success (fail_if_success conv => arg 2; arg 42)); with_reducible apply Keeps.same) | intro _ | split
    | dsimp +zetaDelta only

theorem echoOn_keeps {s0 : State} {s : State} {g : Nat} (hk : Keeps s0 s) :
     Keeps s0 (echoOn s g) := by
  unfold echoOn
  repeat' first
    | with_reducible assumption | with_reducible apply regCount_keeps | with_reducible apply bucketPut_keeps
    | with_reducible apply regPutBits_keeps | exact Eq.refl _ | exact List.length_modify ..
    | exact List.length_map .. | extract_lets
    | ((fail_if_success (fail_if_success conv => arg 2; arg 42)); with_reducible apply Keeps.same) | intro _ | split
    | dsimp +zetaDelta only

theorem echoFor_keeps {s0 : State} {s : State} {dest : Nat} (hk : Keeps s0 s) :
     Keeps s0 (echoFor s dest) := by
  unfold echoFor
  repeat' first
    | with_reducible assumption | with_reducible apply echoOn_keeps | with_reducible apply regCount_keeps
    | with_reducible apply raiseRoute_keeps | with_reducible apply routeFetch_keeps | exact Eq.refl _
    | exact List.length_modify .. | exact List.length_map .. | extract_lets
    | ((fail_if_success (fail_if_success conv => arg 2; arg 42)); with_reducible apply Keeps.same) | intro _ | split
    | dsimp +zetaDelta only

theorem answerAgent_keeps {s0 : State} {s : State} {a : Access} {ch : Nat} {tag : Nat} {be : BitVec 128} {r : Resp} (hk : Keeps s0 s) :
     Keeps s0 (answerAgent s a ch tag be r) := by
  unfold answerAgent
  repeat' first
    | with_reducible assumption | with_reducible apply cmpQueue_keeps | exact Eq.refl _ | exact List.length_modify ..
    | exact List.length_map .. | extract_lets
    | ((fail_if_success (fail_if_success conv => arg 2; arg 42)); with_reducible apply Keeps.same) | intro _ | split
    | dsimp +zetaDelta only

theorem answerMulticast_keeps {s0 : State} {s : State} {k : Packet} (hk : Keeps s0 s) :
     Keeps s0 (answerMulticast s k) := by
  unfold answerMulticast
  repeat' first
    | with_reducible assumption | with_reducible apply fepQueue_keeps | exact Eq.refl _ | exact List.length_modify ..
    | exact List.length_map .. | extract_lets
    | ((fail_if_success (fail_if_success conv => arg 2; arg 42)); with_reducible apply Keeps.same) | intro _ | split
    | dsimp +zetaDelta only

theorem answerPacket_keeps {s0 : State} {s : State} {k : Packet} {r : Resp} (hk : Keeps s0 s) :
     Keeps s0 (answerPacket s k r) := by
  unfold answerPacket
  repeat' first
    | with_reducible assumption | with_reducible apply answerMulticast_keeps | with_reducible apply fepQueue_keeps
    | exact Eq.refl _ | exact List.length_modify .. | exact List.length_map .. | extract_lets
    | ((fail_if_success (fail_if_success conv => arg 2; arg 42)); with_reducible apply Keeps.same) | intro _ | split
    | dsimp +zetaDelta only

theorem answerRetry_keeps {s0 : State} {s : State} {k : Packet} (hk : Keeps s0 s) :
     Keeps s0 (answerRetry s k) := by
  unfold answerRetry
  repeat' first
    | with_reducible assumption | with_reducible apply answerMulticast_keeps | with_reducible apply fepQueue_keeps
    | exact Eq.refl _ | exact List.length_modify .. | exact List.length_map .. | extract_lets
    | ((fail_if_success (fail_if_success conv => arg 2; arg 42)); with_reducible apply Keeps.same) | intro _ | split
    | dsimp +zetaDelta only

/-! The operations of Machine/CollEnd.lean. -/

theorem clUpd_keeps {s0 : State} {s : State} {d : Nat} {f : ClRun → ClRun} (hk : Keeps s0 s) :
     Keeps s0 (clUpd s d f) := by
  unfold clUpd
  repeat' first
    | with_reducible assumption | with_reducible apply descUpd_keeps | exact Eq.refl _ | exact List.length_modify ..
    | exact List.length_map .. | extract_lets
    | ((fail_if_success (fail_if_success conv => arg 2; arg 42)); with_reducible apply Keeps.same) | intro _ | split
    | dsimp +zetaDelta only

theorem clPost_keeps {s0 : State} {s : State} {k : Packet} {who : Who} (hk : Keeps s0 s) :
     Keeps s0 (clPost s k who).1 := by
  unfold clPost
  repeat' first
    | with_reducible assumption | with_reducible apply fepQueue_keeps | exact Eq.refl _ | exact List.length_modify ..
    | exact List.length_map .. | extract_lets
    | ((fail_if_success (fail_if_success conv => arg 2; arg 42)); with_reducible apply Keeps.same) | intro _ | split
    | dsimp +zetaDelta only

theorem clTell_keeps {s0 : State} {s : State} {d : Desc} {skip : Option Nat} {level : Nat} {b : CollBody} (hk : Keeps s0 s) :
     Keeps s0 (clTell s d skip level b) := by
  unfold clTell
  repeat' first
    | with_reducible assumption | with_reducible apply clPost_keeps | with_reducible apply foldl_keeps
    | with_reducible apply foldl_keeps_fst | with_reducible apply foldl_keeps_snd | exact Eq.refl _
    | exact List.length_modify .. | exact List.length_map .. | extract_lets
    | ((fail_if_success (fail_if_success conv => arg 2; arg 42)); with_reducible apply Keeps.same) | intro _ | split
    | dsimp +zetaDelta only

theorem clForget_keeps {s0 : State} {s : State} {d : Desc} (hk : Keeps s0 s) :
     Keeps s0 (clForget s d) := by
  unfold clForget
  repeat' first
    | with_reducible assumption | exact Eq.refl _ | exact List.length_modify .. | exact List.length_map ..
    | extract_lets | ((fail_if_success (fail_if_success conv => arg 2; arg 42)); with_reducible apply Keeps.same)
    | intro _ | split | dsimp +zetaDelta only

theorem clAftermath_keeps {s0 : State} {s : State} {d : Nat} {status : Nat} (hk : Keeps s0 s) :
     Keeps s0 (clAftermath s d status) := by
  unfold clAftermath
  repeat' first
    | with_reducible assumption | with_reducible apply clUpd_keeps | with_reducible apply clTell_keeps
    | with_reducible apply spmHavoc_keeps | with_reducible apply foldl_keeps | with_reducible apply foldl_keeps_fst
    | with_reducible apply foldl_keeps_snd | with_reducible apply KeepsO.getD | exact Eq.refl _
    | exact List.length_modify .. | exact List.length_map .. | extract_lets
    | ((fail_if_success (fail_if_success conv => arg 2; arg 42)); with_reducible apply Keeps.same) | intro _ | split
    | dsimp +zetaDelta only

theorem clLast_keeps {s0 : State} {s : State} {x : Desc} (hk : Keeps s0 s) :
     Keeps s0 (clLast s x) := by
  unfold clLast
  repeat' first
    | with_reducible assumption | exact Eq.refl _ | exact List.length_modify .. | exact List.length_map ..
    | extract_lets | ((fail_if_success (fail_if_success conv => arg 2; arg 42)); with_reducible apply Keeps.same)
    | intro _ | split | dsimp +zetaDelta only

theorem clFail_keeps {s0 : State} {s : State} {d : Nat} {status : Nat} {cause : Option (Nat × Nat)} {det : Detail} (hk : Keeps s0 s) :
     Keeps s0 (clFail s d status cause det) := by
  unfold clFail
  repeat' first
    | with_reducible assumption | with_reducible apply clLast_keeps | with_reducible apply clUpd_keeps
    | with_reducible apply clAftermath_keeps | with_reducible apply clForget_keeps
    | with_reducible apply descUpd_keeps | with_reducible apply endDesc_keeps | with_reducible apply KeepsO.getD
    | exact Eq.refl _ | exact List.length_modify .. | exact List.length_map .. | extract_lets
    | ((fail_if_success (fail_if_success conv => arg 2; arg 42)); with_reducible apply Keeps.same) | intro _ | split
    | dsimp +zetaDelta only

theorem clSend_keeps {s0 : State} {s : State} {d : Desc} {m : Nat} {level : Nat} {k : Packet} (hk : Keeps s0 s) :
     Keeps s0 (clSend s d m level k) := by
  unfold clSend
  repeat' first
    | with_reducible assumption | with_reducible apply clPost_keeps | with_reducible apply clFail_keeps
    | exact Eq.refl _ | exact List.length_modify .. | exact List.length_map .. | extract_lets
    | ((fail_if_success (fail_if_success conv => arg 2; arg 42)); with_reducible apply Keeps.same) | intro _ | split
    | dsimp +zetaDelta only

theorem clCtl_keeps {s0 : State} {s : State} {d : Desc} {up : Bool} {m : Nat} {level : Nat} {b : CollBody} (hk : Keeps s0 s) :
     Keeps s0 (clCtl s d up m level b) := by
  unfold clCtl
  repeat' first
    | with_reducible assumption | with_reducible apply clSend_keeps | exact Eq.refl _ | exact List.length_modify ..
    | exact List.length_map .. | extract_lets
    | ((fail_if_success (fail_if_success conv => arg 2; arg 42)); with_reducible apply Keeps.same) | intro _ | split
    | dsimp +zetaDelta only

theorem clData_keeps {s0 : State} {s : State} {d : Desc} {up : Bool} {m : Nat} {dest : Nat} {level : Nat} {first : Nat} {bs : List Byte} (hk : Keeps s0 s) :
     Keeps s0 (clData s d up m dest level first bs) := by
  unfold clData
  repeat' first
    | with_reducible assumption | with_reducible apply clSend_keeps | exact Eq.refl _ | exact List.length_modify ..
    | exact List.length_map .. | extract_lets
    | ((fail_if_success (fail_if_success conv => arg 2; arg 42)); with_reducible apply Keeps.same) | intro _ | split
    | dsimp +zetaDelta only

/-! The operations of Machine/Link.lean. -/

theorem threadUpd_keeps {s0 s : State} {t : Nat} {f : Thread → Thread} (h : Keeps s0 s) : Keeps s0 (threadUpd s t f) := by
  unfold threadUpd
  exact Keeps.same h (List.length_modify ..) rfl rfl

theorem contextDone_keeps {s0 : State} {s : State} {ring : Nat} (hk : Keeps s0 s) :
     Keeps s0 (contextDone s ring) := by
  unfold contextDone
  repeat' first
    | with_reducible assumption | with_reducible apply rangeHavoc_keeps | with_reducible apply raiseErr_keeps
    | with_reducible apply foldl_keeps | with_reducible apply foldl_keeps_fst | with_reducible apply foldl_keeps_snd
    | exact Eq.refl _ | exact List.length_modify .. | exact List.length_map .. | extract_lets
    | ((fail_if_success (fail_if_success conv => arg 2; arg 42)); with_reducible apply Keeps.same) | intro _ | split
    | dsimp +zetaDelta only

theorem foldEnd_keeps {s0 : State} {s : State} {n : Nat} (hk : Keeps s0 s) :
     Keeps s0 (foldEnd s n) := by
  unfold foldEnd
  repeat' first
    | with_reducible assumption | with_reducible apply regPutBits_keeps | with_reducible apply counterAdvance_keeps
    | exact Eq.refl _ | exact List.length_modify .. | exact List.length_map .. | extract_lets
    | ((fail_if_success (fail_if_success conv => arg 2; arg 42)); with_reducible apply Keeps.same) | intro _ | split
    | dsimp +zetaDelta only

theorem failWrite_keeps {s0 : State} {s : State} {d : Nat} {status : Nat} {det : Detail} (hk : Keeps s0 s) :
     Keeps s0 (failWrite s d status det) := by
  unfold failWrite
  repeat' first
    | with_reducible assumption | with_reducible apply descUpd_keeps | with_reducible apply clFail_keeps
    | with_reducible apply endDesc_keeps | exact Eq.refl _ | exact List.length_modify .. | exact List.length_map ..
    | extract_lets | ((fail_if_success (fail_if_success conv => arg 2; arg 42)); with_reducible apply Keeps.same)
    | intro _ | split | dsimp +zetaDelta only

theorem answerDebug_keeps {s0 : State} {s : State} {a : Access} {key : Nat} {r : Resp} (hk : Keeps s0 s) :
     Keeps s0 (answerDebug s a key r) := by
  unfold answerDebug
  repeat' first
    | with_reducible assumption | with_reducible apply draw_keeps | exact Eq.refl _ | exact List.length_modify ..
    | exact List.length_map .. | extract_lets
    | ((fail_if_success (fail_if_success conv => arg 2; arg 42)); with_reducible apply Keeps.same) | intro _ | split
    | dsimp +zetaDelta only

theorem saveAnswered_keeps {s0 : State} {s : State} {g : Nat} {a : Access} {r : Resp} (hk : Keeps s0 s) :
     Keeps s0 (saveAnswered s g a r) := by
  unfold saveAnswered
  repeat' first
    | with_reducible assumption | with_reducible apply descUpd_keeps | exact Eq.refl _ | exact List.length_modify ..
    | exact List.length_map .. | extract_lets
    | ((fail_if_success (fail_if_success conv => arg 2; arg 42)); with_reducible apply Keeps.same) | intro _ | split
    | dsimp +zetaDelta only

theorem deliverBase_keeps {s0 : State} {s : State} {a : Access} {r : Resp} (hk : Keeps s0 s) :
     Keeps s0 (deliverBase s a r) := by
  unfold deliverBase
  repeat' first
    | with_reducible assumption | with_reducible apply threadUpd_keeps | with_reducible apply descUpd_keeps
    | with_reducible apply failWrite_keeps | with_reducible apply clFail_keeps
    | with_reducible apply contextDone_keeps | with_reducible apply foldEnd_keeps
    | with_reducible apply saveAnswered_keeps | with_reducible apply answerAgent_keeps
    | with_reducible apply answerDebug_keeps | with_reducible apply answerPacket_keeps
    | with_reducible apply KeepsO.getD | exact Eq.refl _ | exact List.length_modify .. | exact List.length_map ..
    | extract_lets | ((fail_if_success (fail_if_success conv => arg 2; arg 42)); with_reducible apply Keeps.same)
    | intro _ | split | dsimp +zetaDelta only

theorem fepQueueOr_keeps {s0 : State} {s : State} {k : Packet} {acc : Option Access} (hk : Keeps s0 s) :
     Keeps s0 (fepQueueOr s k acc) := by
  unfold fepQueueOr
  repeat' first
    | with_reducible assumption | with_reducible apply fepQueue_keeps | with_reducible apply deliverBase_keeps
    | exact Eq.refl _ | exact List.length_modify .. | exact List.length_map .. | extract_lets
    | ((fail_if_success (fail_if_success conv => arg 2; arg 42)); with_reducible apply Keeps.same) | intro _ | split
    | dsimp +zetaDelta only

theorem fepRetryUnrouted_keeps {s0 : State} {s : State} (hk : Keeps s0 s) :
     Keeps s0 (fepRetryUnrouted s) := by
  unfold fepRetryUnrouted
  repeat' first
    | with_reducible assumption | with_reducible apply fepQueueOr_keeps | with_reducible apply echoFor_keeps
    | with_reducible apply foldl_keeps | with_reducible apply foldl_keeps_fst | with_reducible apply foldl_keeps_snd
    | exact Eq.refl _ | exact List.length_modify .. | exact List.length_map .. | extract_lets
    | ((fail_if_success (fail_if_success conv => arg 2; arg 42)); with_reducible apply Keeps.same) | intro _ | split
    | dsimp +zetaDelta only

theorem routeArrived_keeps {s0 : State} {s : State} {dest : Nat} {r : Resp} (hk : Keeps s0 s) :
     Keeps s0 (routeArrived s dest r) := by
  unfold routeArrived
  repeat' first
    | with_reducible assumption | with_reducible apply echoOn_keeps | with_reducible apply regCount_keeps
    | with_reducible apply raiseRoute_keeps | with_reducible apply fepPlace_keeps
    | with_reducible apply deliverBase_keeps | with_reducible apply foldl_keeps
    | with_reducible apply foldl_keeps_fst | with_reducible apply foldl_keeps_snd | exact Eq.refl _
    | exact List.length_modify .. | exact List.length_map .. | extract_lets
    | ((fail_if_success (fail_if_success conv => arg 2; arg 42)); with_reducible apply Keeps.same) | intro _ | split
    | dsimp +zetaDelta only

theorem routeRefetched_keeps {s0 : State} {s : State} {block : Nat} {ok : Bool} (hk : Keeps s0 s) :
     Keeps s0 (routeRefetched s block ok) := by
  unfold routeRefetched
  repeat' first
    | with_reducible assumption | with_reducible apply fepRetryUnrouted_keeps
    | with_reducible apply routeArrived_keeps | with_reducible apply foldl_keeps
    | with_reducible apply foldl_keeps_fst | with_reducible apply foldl_keeps_snd | exact Eq.refl _
    | exact List.length_modify .. | exact List.length_map .. | extract_lets
    | ((fail_if_success (fail_if_success conv => arg 2; arg 42)); with_reducible apply Keeps.same) | intro _ | split
    | dsimp +zetaDelta only

theorem deliver_keeps {s0 : State} {s : State} {a : Access} {r : Resp} (hk : Keeps s0 s) :
     Keeps s0 (deliver s a r) := by
  unfold deliver
  repeat' first
    | with_reducible assumption | with_reducible apply routeArrived_keeps | with_reducible apply refetchBegin_keeps
    | with_reducible apply threadUpd_keeps | with_reducible apply deliverBase_keeps
    | with_reducible apply counterAdvance_keeps | with_reducible apply foldl_keeps
    | with_reducible apply foldl_keeps_fst | with_reducible apply foldl_keeps_snd | exact Eq.refl _
    | exact List.length_modify .. | exact List.length_map .. | extract_lets
    | ((fail_if_success (fail_if_success conv => arg 2; arg 42)); with_reducible apply Keeps.same) | intro _ | split
    | dsimp +zetaDelta only

theorem fepRequest_keeps {s0 : State} {s : State} {a : Access} {fwd : Bool} (hk : Keeps s0 s) :
     Keeps s0 (fepRequest s a fwd) := by
  unfold fepRequest
  repeat' first
    | with_reducible assumption | with_reducible apply deliver_keeps | with_reducible apply noteRefusal_keeps
    | with_reducible apply fepQueue_keeps | exact Eq.refl _ | exact List.length_modify .. | exact List.length_map ..
    | extract_lets | ((fail_if_success (fail_if_success conv => arg 2; arg 42)); with_reducible apply Keeps.same)
    | intro _ | split | dsimp +zetaDelta only

theorem sendOutside_keeps {s0 : State} {s : State} {a : Access} {fwd : Bool} (hk : Keeps s0 s) :
     Keeps s0 (sendOutside s a fwd).1 := by
  unfold sendOutside
  repeat' first
    | with_reducible assumption | with_reducible apply cmpSend_keeps | with_reducible apply fepRequest_keeps
    | with_reducible apply foldl_keeps | with_reducible apply foldl_keeps_fst | with_reducible apply foldl_keeps_snd
    | exact Eq.refl _ | exact List.length_modify .. | exact List.length_map .. | extract_lets
    | ((fail_if_success (fail_if_success conv => arg 2; arg 42)); with_reducible apply Keeps.same) | intro _ | split
    | dsimp +zetaDelta only

theorem gatherStart_keeps {s0 : State} {s : State} {owner : Nat} {addr : Nat} {len : Nat} (hk : Keeps s0 s) :
     Keeps s0 (gatherStart s owner addr len) := by
  unfold gatherStart
  repeat' first
    | with_reducible assumption | with_reducible apply newId_keeps | with_reducible apply sendOutside_keeps
    | exact Eq.refl _ | exact List.length_modify .. | exact List.length_map .. | extract_lets
    | ((fail_if_success (fail_if_success conv => arg 2; arg 42)); with_reducible apply Keeps.same) | intro _ | split
    | dsimp +zetaDelta only

theorem gatherDrop_keeps {s0 : State} {s : State} {owner : Nat} (hk : Keeps s0 s) :
     Keeps s0 (gatherDrop s owner) := by
  unfold gatherDrop
  repeat' first
    | with_reducible assumption | exact Eq.refl _ | exact List.length_modify .. | exact List.length_map ..
    | extract_lets | ((fail_if_success (fail_if_success conv => arg 2; arg 42)); with_reducible apply Keeps.same)
    | intro _ | split | dsimp +zetaDelta only

theorem ordNoteRefused_keeps {s0 : State} {s : State} {a : Access} (hk : Keeps s0 s) :
     Keeps s0 (ordNoteRefused s a) := by
  unfold ordNoteRefused
  repeat' first
    | with_reducible assumption | with_reducible apply regPutBits_keeps | exact Eq.refl _
    | exact List.length_modify .. | exact List.length_map .. | extract_lets
    | ((fail_if_success (fail_if_success conv => arg 2; arg 42)); with_reducible apply Keeps.same) | intro _ | split
    | dsimp +zetaDelta only

theorem refuseAccess_keeps {s0 : State} {s : State} {outgoing : Bool} {a : Access} {n : Nat} (hk : Keeps s0 s) :
     Keeps s0 (refuseAccess s outgoing a n) := by
  unfold refuseAccess
  repeat' first
    | with_reducible assumption | with_reducible apply deliver_keeps | with_reducible apply ordNoteRefused_keeps
    | with_reducible apply noteRefusal_keeps | exact Eq.refl _ | exact List.length_modify ..
    | exact List.length_map .. | extract_lets
    | ((fail_if_success (fail_if_success conv => arg 2; arg 42)); with_reducible apply Keeps.same) | intro _ | split
    | dsimp +zetaDelta only

theorem spmCommit_keeps {s0 : State} {s : State} {owner : Option Nat} {a : Access} {runs : List (Nat × List Byte)} {count : Option (Nat × Nat)} {old : List Byte} (hk : Keeps s0 s) :
     Keeps s0 (spmCommit s owner a runs count old).1 := by
  unfold spmCommit
  repeat' first
    | with_reducible assumption | with_reducible apply storeRuns_keeps | with_reducible apply counterAdvance_keeps
    | exact Eq.refl _ | exact List.length_modify .. | exact List.length_map .. | extract_lets
    | ((fail_if_success (fail_if_success conv => arg 2; arg 42)); with_reducible apply Keeps.same) | intro _ | split
    | dsimp +zetaDelta only

theorem meetBad_keeps {s0 : State} {s : State} {w : Nat} {giveUp : Bool} (hk : Keeps s0 s) :
     Keeps s0 (meetBad s w giveUp).1 := by
  unfold meetBad
  repeat' first
    | with_reducible assumption | with_reducible apply refetchStart_keeps | exact Eq.refl _
    | exact List.length_modify .. | exact List.length_map .. | extract_lets
    | ((fail_if_success (fail_if_success conv => arg 2; arg 42)); with_reducible apply Keeps.same) | intro _ | split
    | dsimp +zetaDelta only

theorem orderedAdd_keeps {s0 : State} {s : State} {n : Nat} {a : Access} {giveUp : Bool} (hk : Keeps s0 s) :
     Keeps s0 (orderedAdd s n a giveUp).1 := by
  unfold orderedAdd
  repeat' first
    | with_reducible assumption | with_reducible apply meetBad_keeps | with_reducible apply regPutBits_keeps
    | with_reducible apply spmCommit_keeps | exact Eq.refl _ | exact List.length_modify .. | exact List.length_map ..
    | extract_lets | ((fail_if_success (fail_if_success conv => arg 2; arg 42)); with_reducible apply Keeps.same)
    | intro _ | split | dsimp +zetaDelta only

theorem spmAccessWrite_keeps {s0 s : State} {owner : Option Nat} {a : Access} {parts : List (Nat × Nat)} (h : Keeps s0 s) :
    Keeps s0 (spmAccess.write owner a s parts).1 := spmCommit_keeps h

theorem spmAccess_keeps {s0 s : State} {owner : Option Nat} {a : Access} {giveUp : Bool} (hk : Keeps s0 s) :
    Keeps s0 (spmAccess s owner a giveUp).1 := by
  unfold spmAccess
  repeat' first
    | with_reducible assumption | with_reducible apply spmAccessWrite_keeps | with_reducible apply orderedAdd_keeps | with_reducible apply meetBad_keeps
    | with_reducible apply spmCommit_keeps | with_reducible apply foldl_keeps | with_reducible apply foldl_keeps_fst
    | with_reducible apply foldl_keeps_snd | exact Eq.refl _ | exact List.length_modify .. | exact List.length_map ..
    | extract_lets | ((fail_if_success (fail_if_success conv => arg 2; arg 42)); with_reducible apply Keeps.same)
    | ((fail_if_success (fail_if_success conv => arg 2; arg 42)); with_reducible apply Keeps.tick)
    | exact Nat.le_max_left .. | exact Nat.le_add_right .. | omega | intro _ | split | dsimp +zetaDelta only

theorem spmServe_keeps {s0 : State} {s : State} {owner : Option Nat} {a : Access} {giveUp : Bool} (hk : Keeps s0 s) :
     Keeps s0 (spmServe s owner a giveUp) := by
  unfold spmServe
  repeat' first
    | with_reducible assumption | with_reducible apply refuseAccess_keeps | with_reducible apply spmAccess_keeps
    | with_reducible apply deliver_keeps | with_reducible apply waitRefetch_keeps | exact Eq.refl _
    | exact List.length_modify .. | exact List.length_map .. | extract_lets
    | ((fail_if_success (fail_if_success conv => arg 2; arg 42)); with_reducible apply Keeps.same) | intro _ | split
    | dsimp +zetaDelta only

theorem serveQueued_keeps {s0 : State} {s : State} {rs : List BankReq} (hk : Keeps s0 s) :
     Keeps s0 (serveQueued s rs) := by
  unfold serveQueued
  repeat' first
    | with_reducible assumption | with_reducible apply spmServe_keeps | with_reducible apply foldl_keeps
    | with_reducible apply foldl_keeps_fst | with_reducible apply foldl_keeps_snd | exact Eq.refl _
    | exact List.length_modify .. | exact List.length_map .. | extract_lets
    | ((fail_if_success (fail_if_success conv => arg 2; arg 42)); with_reducible apply Keeps.same) | intro _ | split
    | dsimp +zetaDelta only

theorem settleRange_keeps {s0 : State} {s : State} {off : Nat} {len : Nat} (hk : Keeps s0 s) :
     Keeps s0 (settleRange s off len) := by
  unfold settleRange
  repeat' first
    | with_reducible assumption | with_reducible apply serveQueued_keeps | exact Eq.refl _
    | exact List.length_modify .. | exact List.length_map .. | extract_lets
    | ((fail_if_success (fail_if_success conv => arg 2; arg 42)); with_reducible apply Keeps.same) | intro _ | split
    | dsimp +zetaDelta only

theorem serveNow_keeps {s0 : State} {s : State} {owner : Option Nat} {a : Access} (hk : Keeps s0 s) :
     Keeps s0 (serveNow s owner a) := by
  unfold serveNow
  repeat' first
    | with_reducible assumption | with_reducible apply spmServe_keeps | with_reducible apply settleRange_keeps
    | with_reducible apply wakeBanks_keeps | with_reducible apply foldl_keeps | with_reducible apply foldl_keeps_fst
    | with_reducible apply foldl_keeps_snd | exact Eq.refl _ | exact List.length_modify .. | exact List.length_map ..
    | extract_lets | ((fail_if_success (fail_if_success conv => arg 2; arg 42)); with_reducible apply Keeps.same)
    | intro _ | split | dsimp +zetaDelta only

theorem pollRefetch_keeps {s0 : State} {s : State} {owner : Nat} {word : Nat} {region : Nat} (hk : Keeps s0 s) :
     Keeps s0 (pollRefetch s owner word region) := by
  unfold pollRefetch
  repeat' first
    | with_reducible assumption | with_reducible apply refetchStart_keeps | exact Eq.refl _
    | exact List.length_modify .. | exact List.length_map .. | extract_lets
    | ((fail_if_success (fail_if_success conv => arg 2; arg 42)); with_reducible apply Keeps.same) | intro _ | split
    | dsimp +zetaDelta only

theorem readRange_keeps {s0 : State} {s : State} {owner : Nat} {addr : Nat} {len : Nat} (hk : Keeps s0 s) :
     Keeps s0 (readRange s owner addr len).1 := by
  unfold readRange
  repeat' first
    | with_reducible assumption | with_reducible apply noteRefusal_keeps | with_reducible apply settleRange_keeps
    | with_reducible apply wakeBanks_keeps | with_reducible apply pollRefetch_keeps
    | with_reducible apply gatherStart_keeps | exact Eq.refl _ | exact List.length_modify ..
    | exact List.length_map .. | extract_lets
    | ((fail_if_success (fail_if_success conv => arg 2; arg 42)); with_reducible apply Keeps.same) | intro _ | split
    | dsimp +zetaDelta only

theorem unitWrite_keeps {s0 : State} {s : State} {owner : Option Nat} {a : Access} (hk : Keeps s0 s) :
     Keeps s0 (unitWrite s owner a) := by
  unfold unitWrite
  repeat' first
    | with_reducible assumption | with_reducible apply refuseAccess_keeps | with_reducible apply serveNow_keeps
    | with_reducible apply sendOutside_keeps | exact Eq.refl _ | exact List.length_modify ..
    | exact List.length_map .. | extract_lets
    | ((fail_if_success (fail_if_success conv => arg 2; arg 42)); with_reducible apply Keeps.same) | intro _ | split
    | dsimp +zetaDelta only

/-! The operations of Machine/Insn.lean. -/

theorem groupUpd_keeps {s0 : State} {s : State} {g : Nat} {f : Group → Group} (hk : Keeps s0 s) :
     Keeps s0 (groupUpd s g f) := by
  unfold groupUpd
  repeat' first
    | with_reducible assumption | exact Eq.refl _ | exact List.length_modify .. | exact List.length_map ..
    | extract_lets | ((fail_if_success (fail_if_success conv => arg 2; arg 42)); with_reducible apply Keeps.same)
    | intro _ | split | dsimp +zetaDelta only

/-! The operations of Machine/Parts.lean. -/

/-! The operations of Machine/Launch.lean. -/

theorem quadHeld_keeps {s0 : State} {s : State} {n : Nat} (hk : Keeps s0 s) :
     KeepsO s0 (quadHeld s n) := by
  unfold quadHeld
  repeat' first
    | with_reducible assumption | refine (wakeFor_keeps ?_).out _ (by assumption)
    | with_reducible apply wakeFor_keeps | with_reducible exact KeepsO.none | with_reducible apply KeepsO.some
    | exact Eq.refl _ | exact List.length_modify .. | exact List.length_map .. | extract_lets
    | ((fail_if_success (fail_if_success conv => arg 2; arg 42)); with_reducible apply Keeps.same) | intro _ | split
    | dsimp +zetaDelta only

theorem setMode_keeps {s0 : State} {s : State} {a : Nat} {mode : Nat} (hk : Keeps s0 s) :
     Keeps s0 (setMode s a mode) := by
  unfold setMode
  repeat' first
    | with_reducible assumption | with_reducible apply KeepsO.getD | exact Eq.refl _ | exact List.length_modify ..
    | exact List.length_map .. | extract_lets
    | ((fail_if_success (fail_if_success conv => arg 2; arg 42)); with_reducible apply Keeps.same) | intro _ | split
    | dsimp +zetaDelta only

theorem syncOwners_keeps {s0 : State} {s : State} (hk : Keeps s0 s) :
     Keeps s0 (syncOwners s) := by
  unfold syncOwners
  repeat' first
    | with_reducible assumption | with_reducible apply regPut_keeps | with_reducible apply foldl_keeps
    | with_reducible apply foldl_keeps_fst | with_reducible apply foldl_keeps_snd | exact Eq.refl _
    | exact List.length_modify .. | exact List.length_map .. | extract_lets
    | ((fail_if_success (fail_if_success conv => arg 2; arg 42)); with_reducible apply Keeps.same) | intro _ | split
    | dsimp +zetaDelta only

theorem quadTake_keeps {s0 : State} {s : State} {g : Nat} {n : Nat} {mask : Nat} (hk : Keeps s0 s) :
     Keeps s0 (quadTake s g n mask) := by
  unfold quadTake
  repeat' first
    | with_reducible assumption | with_reducible apply setMode_keeps | with_reducible apply syncOwners_keeps
    | with_reducible apply groupUpd_keeps | exact Eq.refl _ | exact List.length_modify .. | exact List.length_map ..
    | extract_lets | ((fail_if_success (fail_if_success conv => arg 2; arg 42)); with_reducible apply Keeps.same)
    | intro _ | split | dsimp +zetaDelta only

theorem quadRelease_keeps {s0 : State} {s : State} {g : Nat} (hk : Keeps s0 s) :
     Keeps s0 (quadRelease s g) := by
  unfold quadRelease
  repeat' first
    | with_reducible assumption | with_reducible apply syncOwners_keeps | with_reducible apply groupUpd_keeps
    | exact Eq.refl _ | exact List.length_modify .. | exact List.length_map .. | extract_lets
    | ((fail_if_success (fail_if_success conv => arg 2; arg 42)); with_reducible apply Keeps.same) | intro _ | split
    | dsimp +zetaDelta only

theorem dropColls_keeps {s0 : State} {s : State} {g : Nat} (hk : Keeps s0 s) :
     Keeps s0 (dropColls s g) := by
  unfold dropColls
  repeat' first
    | with_reducible assumption | exact Eq.refl _ | exact List.length_modify .. | exact List.length_map ..
    | extract_lets | ((fail_if_success (fail_if_success conv => arg 2; arg 42)); with_reducible apply Keeps.same)
    | intro _ | split | dsimp +zetaDelta only

theorem endLaunch_keeps {s0 : State} {s : State} {g : Nat} {status : Nat} {th : Option Nat} (hk : Keeps s0 s) :
     Keeps s0 (endLaunch s g status th) := by
  unfold endLaunch
  repeat' first
    | with_reducible assumption | with_reducible apply groupUpd_keeps | with_reducible apply dropColls_keeps
    | exact Eq.refl _ | exact List.length_modify .. | exact List.length_map .. | extract_lets
    | ((fail_if_success (fail_if_success conv => arg 2; arg 42)); with_reducible apply Keeps.same) | intro _ | split
    | dsimp +zetaDelta only

theorem raiseFault_keeps {s0 : State} {s : State} {t : Nat} {cause : Nat} {i0 : Dword} {i1 : Dword} (hk : Keeps s0 s) :
     Keeps s0 (raiseFault s t cause i0 i1) := by
  unfold raiseFault
  repeat' first
    | with_reducible assumption | with_reducible apply groupUpd_keeps | with_reducible apply threadUpd_keeps
    | with_reducible apply endLaunch_keeps | exact Eq.refl _ | exact List.length_modify .. | exact List.length_map ..
    | extract_lets | ((fail_if_success (fail_if_success conv => arg 2; arg 42)); with_reducible apply Keeps.same)
    | intro _ | split | dsimp +zetaDelta only

theorem raiseAt_keeps {s0 : State} {s : State} {t : Nat} {cause : Nat} {addr : Nat} (hk : Keeps s0 s) :
     Keeps s0 (raiseAt s t cause addr) := by
  unfold raiseAt
  repeat' first
    | with_reducible assumption | with_reducible apply raiseFault_keeps | exact Eq.refl _
    | exact List.length_modify .. | exact List.length_map .. | extract_lets
    | ((fail_if_success (fail_if_success conv => arg 2; arg 42)); with_reducible apply Keeps.same) | intro _ | split
    | dsimp +zetaDelta only

theorem retireLaunch_keeps {s0 : State} {s : State} {gi : Nat} {status : Nat} {th : Option Nat} (hk : Keeps s0 s) :
     Keeps s0 (retireLaunch s gi status th) := by
  unfold retireLaunch
  repeat' first
    | with_reducible assumption | with_reducible apply groupUpd_keeps | with_reducible apply quadRelease_keeps
    | with_reducible apply descUpd_keeps | with_reducible apply endDesc_keeps | exact Eq.refl _
    | exact List.length_modify .. | exact List.length_map .. | extract_lets
    | ((fail_if_success (fail_if_success conv => arg 2; arg 42)); with_reducible apply Keeps.same) | intro _ | split
    | dsimp +zetaDelta only

theorem refuseGroup_keeps {s0 : State} {s : State} {g : Nat} (hk : Keeps s0 s) :
     Keeps s0 (refuseGroup s g) := by
  unfold refuseGroup
  repeat' first
    | with_reducible assumption | with_reducible apply groupUpd_keeps | exact Eq.refl _ | exact List.length_modify ..
    | exact List.length_map .. | extract_lets
    | ((fail_if_success (fail_if_success conv => arg 2; arg 42)); with_reducible apply Keeps.same) | intro _ | split
    | dsimp +zetaDelta only

theorem suspendCmd_keeps {s0 : State} {s : State} {g : Nat} (hk : Keeps s0 s) :
     Keeps s0 (suspendCmd s g) := by
  unfold suspendCmd
  repeat' first
    | with_reducible assumption | with_reducible apply refuseGroup_keeps | with_reducible apply groupUpd_keeps
    | with_reducible apply dropColls_keeps | exact Eq.refl _ | exact List.length_modify .. | exact List.length_map ..
    | extract_lets | ((fail_if_success (fail_if_success conv => arg 2; arg 42)); with_reducible apply Keeps.same)
    | intro _ | split | dsimp +zetaDelta only

theorem abortCmd_keeps {s0 : State} {s : State} {g : Nat} (hk : Keeps s0 s) :
     Keeps s0 (abortCmd s g) := by
  unfold abortCmd
  repeat' first
    | with_reducible assumption | with_reducible apply refuseGroup_keeps | with_reducible apply groupUpd_keeps
    | with_reducible apply retireLaunch_keeps | with_reducible apply endLaunch_keeps | exact Eq.refl _
    | exact List.length_modify .. | exact List.length_map .. | extract_lets
    | ((fail_if_success (fail_if_success conv => arg 2; arg 42)); with_reducible apply Keeps.same) | intro _ | split
    | dsimp +zetaDelta only

theorem finishFence_keeps {s0 : State} {s : State} {t : Nat} (hk : Keeps s0 s) :
     Keeps s0 (finishFence s t) := by
  unfold finishFence
  repeat' first
    | with_reducible assumption | with_reducible apply raiseFault_keeps | with_reducible apply threadUpd_keeps
    | exact Eq.refl _ | exact List.length_modify .. | exact List.length_map .. | extract_lets
    | ((fail_if_success (fail_if_success conv => arg 2; arg 42)); with_reducible apply Keeps.same) | intro _ | split
    | dsimp +zetaDelta only

theorem saveGroup_keeps {s0 : State} {s : State} {g : Nat} {x : Group} {l : Launch} (hk : Keeps s0 s) :
     Keeps s0 (saveGroup s g x l) := by
  unfold saveGroup
  repeat' first
    | with_reducible assumption | with_reducible apply drawBytes_keeps | with_reducible apply groupUpd_keeps
    | with_reducible apply serveNow_keeps | exact Eq.refl _ | exact List.length_modify .. | exact List.length_map ..
    | extract_lets | ((fail_if_success (fail_if_success conv => arg 2; arg 42)); with_reducible apply Keeps.same)
    | intro _ | split | dsimp +zetaDelta only

theorem saveEnd_keeps {s0 : State} {s : State} {g : Nat} (hk : Keeps s0 s) :
     Keeps s0 (saveEnd s g) := by
  unfold saveEnd
  repeat' first
    | with_reducible assumption | with_reducible apply groupUpd_keeps | with_reducible apply quadRelease_keeps
    | with_reducible apply endLaunch_keeps | exact Eq.refl _ | exact List.length_modify .. | exact List.length_map ..
    | extract_lets | ((fail_if_success (fail_if_success conv => arg 2; arg 42)); with_reducible apply Keeps.same)
    | intro _ | split | dsimp +zetaDelta only

theorem areaBytes_keeps {s0 : State} {s : State} {off : Nat} {wild : Bool} (hk : Keeps s0 s) :
     Keeps s0 (areaBytes s off wild).1 := by
  unfold areaBytes
  repeat' first
    | with_reducible assumption | with_reducible apply drawBytes_keeps | exact Eq.refl _
    | exact List.length_modify .. | exact List.length_map .. | extract_lets
    | ((fail_if_success (fail_if_success conv => arg 2; arg 42)); with_reducible apply Keeps.same) | intro _ | split
    | dsimp +zetaDelta only

theorem resumeBind_keeps {s0 : State} {s : State} {g : Nat} {held : Bool} {mask : Nat} (hk : Keeps s0 s) :
     Keeps s0 (resumeBind s g held mask) := by
  unfold resumeBind
  repeat' first
    | with_reducible assumption | with_reducible apply newId_keeps | refine (quadHeld_keeps ?_).out _ (by assumption)
    | with_reducible apply quadHeld_keeps | with_reducible apply groupUpd_keeps | with_reducible apply quadTake_keeps
    | with_reducible apply risePower_keeps | with_reducible apply KeepsO.getD | exact Eq.refl _
    | exact List.length_modify .. | exact List.length_map .. | extract_lets
    | ((fail_if_success (fail_if_success conv => arg 2; arg 42)); with_reducible apply Keeps.same) | intro _ | split
    | dsimp +zetaDelta only

theorem resumeFails_keeps {s0 s : State} {g d addr : Nat} {rd : Rd} (h : Keeps s0 s) :
    Keeps s0 (resumeFails s g d addr rd) := by
  unfold resumeFails
  split
  · exact endLaunch_keeps (descUpd_keeps (gatherDrop_keeps h))
  · exact h

theorem resumeFrom_keeps {s0 : State} {s : State} {g : Nat} {l : Launch} {bs : List Byte} (hk : Keeps s0 s) :
     Keeps s0 (resumeFrom s g l bs) := by
  unfold resumeFrom
  repeat' first
    | with_reducible assumption | with_reducible apply groupUpd_keeps | with_reducible apply readRange_keeps
    | with_reducible apply gatherDrop_keeps | with_reducible apply resumeBind_keeps
    | with_reducible apply resumeFails_keeps | exact Eq.refl _ | exact List.length_modify ..
    | exact List.length_map .. | extract_lets
    | ((fail_if_success (fail_if_success conv => arg 2; arg 42)); with_reducible apply Keeps.same) | intro _ | split
    | dsimp +zetaDelta only

theorem resumeArea_keeps {s0 : State} {s : State} {g : Nat} {l : Launch} {wild : Bool} {n : Nat} (hk : Keeps s0 s) :
     Keeps s0 (resumeArea s g l wild n) := by
  unfold resumeArea
  repeat' first
    | with_reducible assumption | with_reducible apply readRange_keeps | with_reducible apply areaBytes_keeps
    | with_reducible apply resumeFrom_keeps | with_reducible apply resumeFails_keeps | exact Eq.refl _
    | exact List.length_modify .. | exact List.length_map .. | extract_lets
    | ((fail_if_success (fail_if_success conv => arg 2; arg 42)); with_reducible apply Keeps.same) | intro _ | split
    | dsimp +zetaDelta only

theorem resumeStep_keeps {s0 : State} {s : State} {g : Nat} (hk : Keeps s0 s) :
     Keeps s0 (resumeStep s g) := by
  unfold resumeStep
  repeat' first
    | with_reducible assumption | refine (wakeFor_keeps ?_).out _ (by assumption)
    | with_reducible apply wakeFor_keeps | with_reducible apply resumeArea_keeps | exact Eq.refl _
    | exact List.length_modify .. | exact List.length_map .. | extract_lets
    | ((fail_if_success (fail_if_success conv => arg 2; arg 42)); with_reducible apply Keeps.same) | intro _ | split
    | dsimp +zetaDelta only

theorem resumeInto_keeps {s0 : State} {s : State} {g : Nat} {off : Nat} {bs : List Byte} (hk : Keeps s0 s) :
     Keeps s0 (resumeInto s g off bs) := by
  unfold resumeInto
  repeat' first
    | with_reducible assumption | with_reducible apply newId_keeps | with_reducible apply descUpd_keeps
    | with_reducible apply groupUpd_keeps | with_reducible apply resumeStep_keeps | exact Eq.refl _
    | exact List.length_modify .. | exact List.length_map .. | extract_lets
    | ((fail_if_success (fail_if_success conv => arg 2; arg 42)); with_reducible apply Keeps.same) | intro _ | split
    | dsimp +zetaDelta only

theorem resumeCmd_keeps {s0 s : State} {g : Nat} (hk : Keeps s0 s) : Keeps s0 (resumeCmd s g) := by
  unfold resumeCmd
  split
  · exact hk
  · extract_lets a
    split
    · exact refuseGroup_keeps hk
    · exact resumeInto_keeps (areaBytes_keeps (settleRange_keeps (wakeBanks_keeps hk)))

/-! The operations of Machine/Rings.lean. -/

theorem ringUpd_keeps {s0 : State} {s : State} {r : Nat} {f : Ring → Ring} (hk : Keeps s0 s) :
     Keeps s0 (ringUpd s r f) := by
  unfold ringUpd
  repeat' first
    | with_reducible assumption | exact Eq.refl _ | exact List.length_modify .. | exact List.length_map ..
    | extract_lets | ((fail_if_success (fail_if_success conv => arg 2; arg 42)); with_reducible apply Keeps.same)
    | intro _ | split | dsimp +zetaDelta only

theorem freeBarriers_keeps {s0 : State} {s : State} (hk : Keeps s0 s) :
     Keeps s0 (freeBarriers s) := by
  unfold freeBarriers
  repeat' first
    | with_reducible assumption | exact Eq.refl _ | exact List.length_modify .. | exact List.length_map ..
    | extract_lets | ((fail_if_success (fail_if_success conv => arg 2; arg 42)); with_reducible apply Keeps.same)
    | intro _ | split | dsimp +zetaDelta only

theorem takeHolds_keeps {s0 : State} {s : State} {d : Nat} {reads : List (Nat × Nat)} (hk : Keeps s0 s) :
     Keeps s0 (takeHolds s d reads) := by
  unfold takeHolds
  repeat' first
    | with_reducible assumption | with_reducible apply descUpd_keeps | with_reducible apply foldl_keeps
    | with_reducible apply foldl_keeps_fst | with_reducible apply foldl_keeps_snd | exact Eq.refl _
    | exact List.length_modify .. | exact List.length_map .. | extract_lets
    | ((fail_if_success (fail_if_success conv => arg 2; arg 42)); with_reducible apply Keeps.same) | intro _ | split
    | dsimp +zetaDelta only

theorem backBytes_keeps {s0 : State} {s : State} {wild : Bool} {bs : List Byte} (hk : Keeps s0 s) :
     Keeps s0 (backBytes s wild bs).1 := by
  unfold backBytes
  repeat' first
    | with_reducible assumption | with_reducible apply drawBytes_keeps | exact Eq.refl _
    | exact List.length_modify .. | exact List.length_map .. | extract_lets
    | ((fail_if_success (fail_if_success conv => arg 2; arg 42)); with_reducible apply Keeps.same) | intro _ | split
    | dsimp +zetaDelta only

theorem entryBack_keeps {s0 : State} {s : State} {wild : Bool} {who : Who} {addr : Nat} {bs : List Byte} (hk : Keeps s0 s) :
     Keeps s0 (entryBack s wild who addr bs) := by
  unfold entryBack
  repeat' first
    | with_reducible assumption | with_reducible apply backBytes_keeps | with_reducible apply unitWrite_keeps
    | exact Eq.refl _ | exact List.length_modify .. | exact List.length_map .. | extract_lets
    | ((fail_if_success (fail_if_success conv => arg 2; arg 42)); with_reducible apply Keeps.same) | intro _ | split
    | dsimp +zetaDelta only

theorem ringBack_keeps {s0 : State} {s : State} {r : Ring} {state : Nat} {who : Who} (hk : Keeps s0 s) :
     Keeps s0 (ringBack s r state who) := by
  unfold ringBack
  repeat' first
    | with_reducible assumption | with_reducible apply entryBack_keeps | exact Eq.refl _
    | exact List.length_modify .. | exact List.length_map .. | extract_lets
    | ((fail_if_success (fail_if_success conv => arg 2; arg 42)); with_reducible apply Keeps.same) | intro _ | split
    | dsimp +zetaDelta only

theorem cqBack_keeps {s0 : State} {s : State} {q : Cq} {who : Who} (hk : Keeps s0 s) :
     Keeps s0 (cqBack s q who) := by
  unfold cqBack
  repeat' first
    | with_reducible assumption | with_reducible apply entryBack_keeps | exact Eq.refl _
    | exact List.length_modify .. | exact List.length_map .. | extract_lets
    | ((fail_if_success (fail_if_success conv => arg 2; arg 42)); with_reducible apply Keeps.same) | intro _ | split
    | dsimp +zetaDelta only

theorem cqUpd_keeps {s0 : State} {s : State} {q : Nat} {f : Cq → Cq} (hk : Keeps s0 s) :
     Keeps s0 (cqUpd s q f) := by
  unfold cqUpd
  repeat' first
    | with_reducible assumption | exact Eq.refl _ | exact List.length_modify .. | exact List.length_map ..
    | extract_lets | ((fail_if_success (fail_if_success conv => arg 2; arg 42)); with_reducible apply Keeps.same)
    | intro _ | split | dsimp +zetaDelta only

theorem cacheRoom_keeps {s0 : State} {s : State} (hk : Keeps s0 s) :
     Keeps s0 (cacheRoom s) := by
  unfold cacheRoom
  repeat' first
    | with_reducible assumption | with_reducible apply draw_keeps | with_reducible apply ringBack_keeps
    | with_reducible apply ringUpd_keeps | with_reducible apply cqBack_keeps | with_reducible apply cqUpd_keeps
    | exact Eq.refl _ | exact List.length_modify .. | exact List.length_map .. | extract_lets
    | ((fail_if_success (fail_if_success conv => arg 2; arg 42)); with_reducible apply Keeps.same) | intro _ | split
    | dsimp +zetaDelta only

theorem cacheRing_keeps {s0 : State} {s : State} {r : Nat} (hk : Keeps s0 s) :
     Keeps s0 (cacheRing s r) := by
  unfold cacheRing
  repeat' first
    | with_reducible assumption | with_reducible apply ringUpd_keeps | with_reducible apply cacheRoom_keeps
    | exact Eq.refl _ | exact List.length_modify .. | exact List.length_map .. | extract_lets
    | ((fail_if_success (fail_if_success conv => arg 2; arg 42)); with_reducible apply Keeps.same) | intro _ | split
    | dsimp +zetaDelta only

theorem cacheCq_keeps {s0 : State} {s : State} {q : Nat} (hk : Keeps s0 s) :
     Keeps s0 (cacheCq s q) := by
  unfold cacheCq
  repeat' first
    | with_reducible assumption | with_reducible apply cqUpd_keeps | with_reducible apply cacheRoom_keeps
    | exact Eq.refl _ | exact List.length_modify .. | exact List.length_map .. | extract_lets
    | ((fail_if_success (fail_if_success conv => arg 2; arg 42)); with_reducible apply Keeps.same) | intro _ | split
    | dsimp +zetaDelta only

theorem contextParity_keeps {s0 : State} {s : State} {r : Nat} (hk : Keeps s0 s) :
     Keeps s0 (contextParity s r) := by
  unfold contextParity
  repeat' first
    | with_reducible assumption | with_reducible apply raiseErr_keeps | exact Eq.refl _ | exact List.length_modify ..
    | exact List.length_map .. | extract_lets
    | ((fail_if_success (fail_if_success conv => arg 2; arg 42)); with_reducible apply Keeps.same) | intro _ | split
    | dsimp +zetaDelta only

theorem ringSync_keeps {s0 : State} {s : State} (hk : Keeps s0 s) :
     Keeps s0 (ringSync s) := by
  unfold ringSync
  repeat' first
    | with_reducible assumption | with_reducible apply KeepsO.getD | exact Eq.refl _ | exact List.length_modify ..
    | exact List.length_map .. | extract_lets
    | ((fail_if_success (fail_if_success conv => arg 2; arg 42)); with_reducible apply Keeps.same) | intro _ | split
    | dsimp +zetaDelta only

theorem bellRefuse_keeps {s0 : State} {s : State} {src : Nat} {value : Nat} {reason : Nat} (hk : Keeps s0 s) :
     Keeps s0 (bellRefuse s src value reason) := by
  unfold bellRefuse
  repeat' first
    | with_reducible assumption | with_reducible apply regCount_keeps | with_reducible apply regPutPair_keeps
    | with_reducible apply regPut_keeps | exact Eq.refl _ | exact List.length_modify .. | exact List.length_map ..
    | extract_lets | ((fail_if_success (fail_if_success conv => arg 2; arg 42)); with_reducible apply Keeps.same)
    | intro _ | split | dsimp +zetaDelta only

theorem applyDoorbell_keeps {s0 : State} {s : State} {src : Nat} {value : Nat} (hk : Keeps s0 s) :
     Keeps s0 (applyDoorbell s src value) := by
  unfold applyDoorbell
  repeat' first
    | with_reducible assumption | with_reducible apply bellRefuse_keeps | with_reducible apply contextParity_keeps
    | with_reducible apply ringUpd_keeps | with_reducible apply ringSync_keeps | with_reducible apply cacheRing_keeps
    | exact Eq.refl _ | exact List.length_modify .. | exact List.length_map .. | extract_lets
    | ((fail_if_success (fail_if_success conv => arg 2; arg 42)); with_reducible apply Keeps.same) | intro _ | split
    | dsimp +zetaDelta only

theorem execAgeLimit_keeps {ring : Nat} {s : State} : KeepsR s (execAgeLimit ring s) := by
  have hk := Keeps.refl s
  unfold execAgeLimit
  repeat' first
    | with_reducible assumption | with_reducible apply whenLive_keeps | with_reducible apply KeepsR.next
    | exact Eq.refl _ | exact List.length_modify .. | exact List.length_map .. | extract_lets
    | ((fail_if_success (fail_if_success conv => arg 2; arg 42)); with_reducible apply Keeps.same)
    | ((fail_if_success (fail_if_success conv => arg 2; arg 42)); with_reducible apply Keeps.tick)
    | exact Nat.le_max_left .. | exact Nat.le_add_right .. | omega | intro _ | split | dsimp +zetaDelta only

theorem execDescriptorFetch_keeps {s : State} : KeepsR s (execDescriptorFetch s) := by
  have hk := Keeps.refl s
  unfold execDescriptorFetch
  repeat' first
    | with_reducible assumption | with_reducible apply whenLive_keeps | with_reducible apply contextParity_keeps
    | with_reducible apply newId_keeps | with_reducible apply cacheRing_keeps | with_reducible apply ringUpd_keeps
    | with_reducible apply readRange_keeps | with_reducible apply ringSync_keeps | with_reducible apply descUpd_keeps
    | with_reducible apply KeepsR.next | exact Eq.refl _ | exact List.length_modify .. | exact List.length_map ..
    | extract_lets | ((fail_if_success (fail_if_success conv => arg 2; arg 42)); with_reducible apply Keeps.same)
    | intro _ | split | dsimp +zetaDelta only

theorem descWriteBy_keeps {s0 : State} {serve : State → Option Nat → Access → State} {s : State} {d : Nat} {a : Access} (hk : Keeps s0 s) (hserve : ∀ x0 x1 x2, Keeps s0 x0 → Keeps s0 (serve x0 x1 x2)) :
     Keeps s0 (descWriteBy serve s d a) := by
  unfold descWriteBy
  repeat' first
    | with_reducible assumption | with_reducible apply descUpd_keeps | with_reducible apply sendOutside_keeps
    | with_reducible apply foldl_keeps | with_reducible apply foldl_keeps_fst | with_reducible apply foldl_keeps_snd
    | with_reducible apply hserve | exact Eq.refl _ | exact List.length_modify .. | exact List.length_map ..
    | extract_lets | ((fail_if_success (fail_if_success conv => arg 2; arg 42)); with_reducible apply Keeps.same)
    | intro _ | split | dsimp +zetaDelta only

theorem ringRefuse_keeps {s0 : State} {s : State} {reason : Nat} (hk : Keeps s0 s) :
     Keeps s0 (ringRefuse s reason) := by
  unfold ringRefuse
  repeat' first
    | with_reducible assumption | with_reducible apply regPut_keeps | exact Eq.refl _ | exact List.length_modify ..
    | exact List.length_map .. | extract_lets
    | ((fail_if_success (fail_if_success conv => arg 2; arg 42)); with_reducible apply Keeps.same) | intro _ | split
    | dsimp +zetaDelta only

theorem enableStep_keeps {s0 : State} {s : State} {ring : Nat} (hk : Keeps s0 s) :
     Keeps s0 (enableStep s ring) := by
  unfold enableStep
  repeat' first
    | with_reducible assumption | with_reducible apply readRange_keeps | with_reducible apply gatherDrop_keeps
    | with_reducible apply ringRefuse_keeps | with_reducible apply cacheCq_keeps
    | with_reducible apply cacheRoom_keeps | with_reducible apply ringSync_keeps | with_reducible apply regPut_keeps
    | exact Eq.refl _ | exact List.length_modify .. | exact List.length_map .. | extract_lets
    | ((fail_if_success (fail_if_success conv => arg 2; arg 42)); with_reducible apply Keeps.same) | intro _ | split
    | dsimp +zetaDelta only

theorem contextBack_keeps {s0 : State} {s : State} {r : Ring} {state : Nat} (hk : Keeps s0 s) :
     Keeps s0 (contextBack s r state) := by
  unfold contextBack
  repeat' first
    | with_reducible assumption | with_reducible apply ringBack_keeps | with_reducible apply cqBack_keeps
    | exact Eq.refl _ | exact List.length_modify .. | exact List.length_map .. | extract_lets
    | ((fail_if_success (fail_if_success conv => arg 2; arg 42)); with_reducible apply Keeps.same) | intro _ | split
    | dsimp +zetaDelta only

theorem disableCheck_keeps {s0 : State} {s : State} {ring : Nat} (hk : Keeps s0 s) :
     Keeps s0 (disableCheck s ring) := by
  unfold disableCheck
  repeat' first
    | with_reducible assumption | with_reducible apply contextBack_keeps | exact Eq.refl _
    | exact List.length_modify .. | exact List.length_map .. | extract_lets
    | ((fail_if_success (fail_if_success conv => arg 2; arg 42)); with_reducible apply Keeps.same) | intro _ | split
    | dsimp +zetaDelta only

theorem disableRing_keeps {s0 : State} {s : State} {ring : Nat} (hk : Keeps s0 s) :
     Keeps s0 (disableRing s ring) := by
  unfold disableRing
  repeat' first
    | with_reducible assumption | with_reducible apply ringUpd_keeps | with_reducible apply endDesc_keeps
    | with_reducible apply descUpd_keeps | with_reducible apply ringSync_keeps
    | with_reducible apply disableCheck_keeps | with_reducible apply foldl_keeps
    | with_reducible apply foldl_keeps_fst | with_reducible apply foldl_keeps_snd | exact Eq.refl _
    | exact List.length_modify .. | exact List.length_map .. | extract_lets
    | ((fail_if_success (fail_if_success conv => arg 2; arg 42)); with_reducible apply Keeps.same) | intro _ | split
    | dsimp +zetaDelta only

theorem ringCmd_keeps {s0 : State} {s : State} {cmd : Nat} {ring : Nat} (hk : Keeps s0 s) :
     Keeps s0 (ringCmd s cmd ring) := by
  unfold ringCmd
  repeat' first
    | with_reducible assumption | with_reducible apply ringRefuse_keeps | with_reducible apply regPut_keeps
    | with_reducible apply enableStep_keeps | with_reducible apply disableRing_keeps
    | with_reducible apply ringUpd_keeps | with_reducible apply ringSync_keeps
    | with_reducible apply contextBack_keeps | exact Eq.refl _ | exact List.length_modify ..
    | exact List.length_map .. | extract_lets
    | ((fail_if_success (fail_if_success conv => arg 2; arg 42)); with_reducible apply Keeps.same) | intro _ | split
    | dsimp +zetaDelta only

theorem spmSet_keeps {s0 s : State} {m : List Host.Cell} {bad : List Nat} (h : Keeps s0 s)
    (hm : Canon s → mapWf (spmDefault s.spmLost) m = true) : Keeps s0 { s with spm := m, spmBad := bad } :=
  h.trans ⟨rfl, rfl, rfl, Nat.le_refl _, Nat.le_refl _, Nat.le_refl _,
    fun c => ⟨hm c, c.2, c.3, c.4, c.5, c.6, c.7, c.8, c.9⟩, fun z => ⟨z.1, z.2, z.3, z.4⟩⟩

theorem regPutBits_lost {s : State} {off hi lo v : Nat} : (regPutBits s off hi lo v).spmLost = s.spmLost := rfl

theorem spmStore_spmLost {s : State} {off : Nat} {bs : List Byte} : (spmStore s off bs).spmLost = s.spmLost := by
  unfold spmStore
  extract_lets s1
  split
  · split
    · rfl
    · rfl
  · rfl

theorem romRing0_keeps {s0 s : State} (h : Keeps s0 s) : Keeps s0 (romRing0 s) := by
  unfold romRing0
  extract_lets base cqb ctx cqe s1 s2 inCq s3 r
  have h2 : Keeps s0 s2 := spmStore_keeps (spmStore_keeps h)
  clear_value s2
  have h3 : Keeps s0 s3 := by
    refine spmSet_keeps h2 fun c => ?_
    split
    · exact filter_wf c.spm
    · have k := (spmStore_keeps (off := 0x05FE0000) (bs := List.replicate 65536 0) (Keeps.refl s2)).canon c
      have e := k.spm
      rw [spmStore_spmLost] at e
      exact e
  exact Keeps.same h3 rfl rfl rfl

/-! The operations of Machine/Fabric.lean. -/

theorem flitTaken_keeps {s0 : State} {s : State} {port : Nat} {c : Port} {f : FlitIn} (hk : Keeps s0 s) :
     Keeps s0 (flitTaken s port c f) := by
  unfold flitTaken
  repeat' first
    | with_reducible assumption | with_reducible apply portUpd_keeps | with_reducible apply regCount_keeps
    | with_reducible apply KeepsO.getD | exact Eq.refl _ | exact List.length_modify .. | exact List.length_map ..
    | extract_lets | ((fail_if_success (fail_if_success conv => arg 2; arg 42)); with_reducible apply Keeps.same)
    | intro _ | split | dsimp +zetaDelta only

theorem rxTaken_keeps {s0 : State} {s : State} {port : Nat} {alone : Bool} (hk : Keeps s0 s) :
     Keeps s0 (rxTaken s port alone) := by
  unfold rxTaken
  repeat' first
    | with_reducible assumption | with_reducible apply portUpd_keeps | exact Eq.refl _ | exact List.length_modify ..
    | exact List.length_map .. | extract_lets
    | ((fail_if_success (fail_if_success conv => arg 2; arg 42)); with_reducible apply Keeps.same) | intro _ | split
    | dsimp +zetaDelta only

theorem execFlit_keeps {port : Nat} {f : FlitIn} {s : State} : KeepsR s (execFlit port f s) := by
  have hk := Keeps.refl s
  unfold execFlit
  repeat' first
    | with_reducible assumption | with_reducible apply whenLive_keeps | with_reducible apply rxTaken_keeps
    | with_reducible apply portUpd_keeps | with_reducible apply fepPump_keeps | with_reducible apply flitTaken_keeps
    | with_reducible apply KeepsR.next | exact Eq.refl _ | exact List.length_modify .. | exact List.length_map ..
    | extract_lets | ((fail_if_success (fail_if_success conv => arg 2; arg 42)); with_reducible apply Keeps.same)
    | intro _ | split | dsimp +zetaDelta only

theorem execLinkAckTimer_keeps {port : Nat} {s : State} : KeepsR s (execLinkAckTimer port s) := by
  have hk := Keeps.refl s
  unfold execLinkAckTimer
  repeat' first
    | with_reducible assumption | with_reducible apply whenLive_keeps | with_reducible apply fepPump_keeps
    | with_reducible apply portUpd_keeps | with_reducible apply KeepsR.next | exact Eq.refl _
    | exact List.length_modify .. | exact List.length_map .. | extract_lets
    | ((fail_if_success (fail_if_success conv => arg 2; arg 42)); with_reducible apply Keeps.same)
    | ((fail_if_success (fail_if_success conv => arg 2; arg 42)); with_reducible apply Keeps.tick)
    | exact Nat.le_max_left .. | exact Nat.le_add_right .. | omega | intro _ | split | dsimp +zetaDelta only

theorem dropReq_keeps {s0 : State} {s : State} {tag : Nat} (hk : Keeps s0 s) :
     Keeps s0 (dropReq s tag) := by
  unfold dropReq
  repeat' first
    | with_reducible assumption | exact Eq.refl _ | exact List.length_modify .. | exact List.length_map ..
    | extract_lets | ((fail_if_success (fail_if_success conv => arg 2; arg 42)); with_reducible apply Keeps.same)
    | intro _ | split | dsimp +zetaDelta only

theorem endReq_keeps {s0 : State} {s : State} {r : FepReq} {x : Resp} (hk : Keeps s0 s) :
     Keeps s0 (endReq s r x) := by
  unfold endReq
  repeat' first
    | with_reducible assumption | with_reducible apply fepRetryUnrouted_keeps | with_reducible apply deliver_keeps
    | with_reducible apply dropReq_keeps | exact Eq.refl _ | exact List.length_modify .. | exact List.length_map ..
    | extract_lets | ((fail_if_success (fail_if_success conv => arg 2; arg 42)); with_reducible apply Keeps.same)
    | intro _ | split | dsimp +zetaDelta only

theorem mcastAcked_keeps {s0 : State} {s : State} {port : Nat} {fs : List SentFlit} (hk : Keeps s0 s) :
     Keeps s0 (mcastAcked s port fs) := by
  unfold mcastAcked
  repeat' first
    | with_reducible assumption | with_reducible apply endReq_keeps | with_reducible apply dropReq_keeps
    | with_reducible apply foldl_keeps | with_reducible apply foldl_keeps_fst | with_reducible apply foldl_keeps_snd
    | exact Eq.refl _ | exact List.length_modify .. | exact List.length_map .. | extract_lets
    | ((fail_if_success (fail_if_success conv => arg 2; arg 42)); with_reducible apply Keeps.same) | intro _ | split
    | dsimp +zetaDelta only

theorem execLinkAck_keeps {port : Nat} {lseq : OnWire} {s : State} : KeepsR s (execLinkAck port lseq s) := by
  have hk := Keeps.refl s
  unfold execLinkAck
  repeat' first
    | with_reducible assumption | with_reducible apply whenLive_keeps | with_reducible apply rxTaken_keeps
    | with_reducible apply portUpd_keeps | with_reducible apply fepPump_keeps | with_reducible apply mcastAcked_keeps
    | with_reducible apply KeepsR.next | exact Eq.refl _ | exact List.length_modify .. | exact List.length_map ..
    | extract_lets | ((fail_if_success (fail_if_success conv => arg 2; arg 42)); with_reducible apply Keeps.same)
    | intro _ | split | dsimp +zetaDelta only

theorem portDown_keeps {s0 : State} {s : State} {port : Nat} (hk : Keeps s0 s) :
     Keeps s0 (portDown s port) := by
  unfold portDown
  repeat' first
    | with_reducible assumption | with_reducible apply portUpd_keeps | with_reducible apply regPutBits_keeps
    | with_reducible apply raiseErr_keeps | exact Eq.refl _ | exact List.length_modify .. | exact List.length_map ..
    | extract_lets | ((fail_if_success (fail_if_success conv => arg 2; arg 42)); with_reducible apply Keeps.same)
    | intro _ | split | dsimp +zetaDelta only

theorem portFail_keeps {s0 : State} {s : State} {port : Nat} (hk : Keeps s0 s) :
     Keeps s0 (portFail s port) := by
  unfold portFail
  repeat' first
    | with_reducible assumption | with_reducible apply portDown_keeps | with_reducible apply regPutBits_keeps
    | exact Eq.refl _ | exact List.length_modify .. | exact List.length_map .. | extract_lets
    | ((fail_if_success (fail_if_success conv => arg 2; arg 42)); with_reducible apply Keeps.same) | intro _ | split
    | dsimp +zetaDelta only

theorem execNak_keeps {port : Nat} {lseq : OnWire} {s : State} : KeepsR s (execNak port lseq s) := by
  have hk := Keeps.refl s
  unfold execNak
  repeat' first
    | with_reducible assumption | with_reducible apply whenLive_keeps | with_reducible apply rxTaken_keeps
    | with_reducible apply portFail_keeps | with_reducible apply portUpd_keeps | with_reducible apply fepPump_keeps
    | with_reducible apply raiseErr_keeps | with_reducible apply KeepsR.next | exact Eq.refl _
    | exact List.length_modify .. | exact List.length_map .. | extract_lets
    | ((fail_if_success (fail_if_success conv => arg 2; arg 42)); with_reducible apply Keeps.same) | intro _ | split
    | dsimp +zetaDelta only

theorem execFlitCredit_keeps {port : Nat} {vc : OnWire} {s : State} : KeepsR s (execFlitCredit port vc s) := by
  have hk := Keeps.refl s
  unfold execFlitCredit
  repeat' first
    | with_reducible assumption | with_reducible apply whenLive_keeps | with_reducible apply rxTaken_keeps
    | with_reducible apply fepPump_keeps | with_reducible apply portUpd_keeps | with_reducible apply KeepsR.next
    | exact Eq.refl _ | exact List.length_modify .. | exact List.length_map .. | extract_lets
    | ((fail_if_success (fail_if_success conv => arg 2; arg 42)); with_reducible apply Keeps.same) | intro _ | split
    | dsimp +zetaDelta only

theorem execLinkDown_keeps {port : Nat} {s : State} : KeepsR s (execLinkDown port s) := by
  have hk := Keeps.refl s
  unfold execLinkDown
  repeat' first
    | with_reducible assumption | with_reducible apply whenLive_keeps | with_reducible apply portUpd_keeps
    | with_reducible apply portDown_keeps | with_reducible apply KeepsR.next | exact Eq.refl _
    | exact List.length_modify .. | exact List.length_map .. | extract_lets
    | ((fail_if_success (fail_if_success conv => arg 2; arg 42)); with_reducible apply Keeps.same) | intro _ | split
    | dsimp +zetaDelta only

theorem execPortFailed_keeps {port : Nat} {s : State} : KeepsR s (execPortFailed port s) := by
  have hk := Keeps.refl s
  unfold execPortFailed
  repeat' first
    | with_reducible assumption | with_reducible apply whenLive_keeps | with_reducible apply portFail_keeps
    | with_reducible apply KeepsR.next | exact Eq.refl _ | exact List.length_modify .. | exact List.length_map ..
    | extract_lets | ((fail_if_success (fail_if_success conv => arg 2; arg 42)); with_reducible apply Keeps.same)
    | ((fail_if_success (fail_if_success conv => arg 2; arg 42)); with_reducible apply Keeps.tick)
    | exact Nat.le_max_left .. | exact Nat.le_add_right .. | omega | intro _ | split | dsimp +zetaDelta only

theorem execBundleAck_keeps {bundle : Nat} {s : State} : KeepsR s (execBundleAck bundle s) := by
  have hk := Keeps.refl s
  unfold execBundleAck
  repeat' first
    | with_reducible assumption | with_reducible apply cmpPump_keeps | with_reducible apply chanUpd_keeps
    | with_reducible apply whenLive_keeps | with_reducible apply fepPump_keeps | with_reducible apply portUpd_keeps
    | with_reducible apply KeepsR.next | exact Eq.refl _ | exact List.length_modify .. | exact List.length_map ..
    | extract_lets | ((fail_if_success (fail_if_success conv => arg 2; arg 42)); with_reducible apply Keeps.same)
    | intro _ | split | dsimp +zetaDelta only

theorem execRateRaise_keeps {g : Nat} {s : State} : KeepsR s (execRateRaise g s) := by
  have hk := Keeps.refl s
  unfold execRateRaise
  repeat' first
    | with_reducible assumption | with_reducible apply whenLive_keeps | with_reducible apply bucketPut_keeps
    | with_reducible apply regPutBits_keeps | with_reducible apply KeepsR.next | exact Eq.refl _
    | exact List.length_modify .. | exact List.length_map .. | extract_lets
    | ((fail_if_success (fail_if_success conv => arg 2; arg 42)); with_reducible apply Keeps.same)
    | ((fail_if_success (fail_if_success conv => arg 2; arg 42)); with_reducible apply Keeps.tick)
    | exact Nat.le_max_left .. | exact Nat.le_add_right .. | omega | intro _ | split | dsimp +zetaDelta only

theorem execTokenBucketRefill_keeps {g : Nat} {s : State} : KeepsR s (execTokenBucketRefill g s) := by
  have hk := Keeps.refl s
  unfold execTokenBucketRefill
  repeat' first
    | with_reducible assumption | with_reducible apply whenLive_keeps | with_reducible apply fepPumpAll_keeps
    | with_reducible apply bucketPut_keeps | with_reducible apply KeepsR.next | exact Eq.refl _
    | exact List.length_modify .. | exact List.length_map .. | extract_lets
    | ((fail_if_success (fail_if_success conv => arg 2; arg 42)); with_reducible apply Keeps.same)
    | ((fail_if_success (fail_if_success conv => arg 2; arg 42)); with_reducible apply Keeps.tick)
    | exact Nat.le_max_left .. | exact Nat.le_add_right .. | omega | intro _ | split | dsimp +zetaDelta only

theorem takePacket_keeps {s0 : State} {s : State} {port : Nat} {k : Packet} (hk : Keeps s0 s) :
     KeepsO s0 (takePacket s port k) := by
  unfold takePacket
  repeat' first
    | with_reducible assumption | with_reducible exact KeepsO.none | with_reducible apply KeepsO.some
    | exact Eq.refl _ | exact List.length_modify .. | exact List.length_map .. | extract_lets
    | ((fail_if_success (fail_if_success conv => arg 2; arg 42)); with_reducible apply Keeps.same) | intro _ | split
    | dsimp +zetaDelta only

theorem onPacket_keeps {s0 : State} {s : State} {port : Nat} {type : Nat} {k : Packet} {f : State → State} (hk : Keeps s0 s) (hf : ∀ x0, Keeps s0 x0 → Keeps s0 (f x0)) :
     Keeps s0 (onPacket s port type k f) := by
  unfold onPacket
  repeat' first
    | with_reducible assumption | refine (takePacket_keeps ?_).out _ (by assumption)
    | with_reducible apply takePacket_keeps | with_reducible apply regCount_keeps
    | with_reducible apply answerPacket_keeps | with_reducible apply noteRefusal_keeps | with_reducible apply hf
    | exact Eq.refl _ | exact List.length_modify .. | exact List.length_map .. | extract_lets
    | ((fail_if_success (fail_if_success conv => arg 2; arg 42)); with_reducible apply Keeps.same) | intro _ | split
    | dsimp +zetaDelta only

theorem lateResponse_keeps {s0 : State} {s : State} {k : Packet} (hk : Keeps s0 s) :
     Keeps s0 (lateResponse s k) := by
  unfold lateResponse
  repeat' first
    | with_reducible assumption | with_reducible apply regCount_keeps | exact Eq.refl _ | exact List.length_modify ..
    | exact List.length_map .. | extract_lets
    | ((fail_if_success (fail_if_success conv => arg 2; arg 42)); with_reducible apply Keeps.same) | intro _ | split
    | dsimp +zetaDelta only

theorem onResponse_keeps {s0 : State} {s : State} {port : Nat} {type : Nat} {k : Packet} {echo : Bool} {x : Resp} (hk : Keeps s0 s) :
     Keeps s0 (onResponse s port type k echo x) := by
  unfold onResponse
  repeat' first
    | with_reducible assumption | with_reducible apply onPacket_keeps | with_reducible apply lateResponse_keeps
    | with_reducible apply endReq_keeps | with_reducible apply echoOn_keeps | exact Eq.refl _
    | exact List.length_modify .. | exact List.length_map .. | extract_lets
    | ((fail_if_success (fail_if_success conv => arg 2; arg 42)); with_reducible apply Keeps.same) | intro _ | split
    | dsimp +zetaDelta only

theorem execAck_keeps {port : Nat} {k : Packet} {s : State} : KeepsR s (execAck port k s) := by
  have hk := Keeps.refl s
  unfold execAck
  repeat' first
    | with_reducible assumption | with_reducible apply onResponse_keeps | with_reducible apply KeepsR.next
    | exact Eq.refl _ | exact List.length_modify .. | exact List.length_map .. | extract_lets
    | ((fail_if_success (fail_if_success conv => arg 2; arg 42)); with_reducible apply Keeps.same) | intro _ | split
    | dsimp +zetaDelta only

theorem execReadData_keeps {port : Nat} {k : Packet} {s : State} : KeepsR s (execReadData port k s) := by
  have hk := Keeps.refl s
  unfold execReadData
  repeat' first
    | with_reducible assumption | with_reducible apply onResponse_keeps | with_reducible apply KeepsR.next
    | exact Eq.refl _ | exact List.length_modify .. | exact List.length_map .. | extract_lets
    | ((fail_if_success (fail_if_success conv => arg 2; arg 42)); with_reducible apply Keeps.same) | intro _ | split
    | dsimp +zetaDelta only

theorem execAtomicData_keeps {port : Nat} {k : Packet} {s : State} : KeepsR s (execAtomicData port k s) := by
  have hk := Keeps.refl s
  unfold execAtomicData
  repeat' first
    | with_reducible assumption | with_reducible apply onResponse_keeps | with_reducible apply KeepsR.next
    | exact Eq.refl _ | exact List.length_modify .. | exact List.length_map .. | extract_lets
    | ((fail_if_success (fail_if_success conv => arg 2; arg 42)); with_reducible apply Keeps.same) | intro _ | split
    | dsimp +zetaDelta only

theorem execRefused_keeps {port : Nat} {k : Packet} {s : State} : KeepsR s (execRefused port k s) := by
  have hk := Keeps.refl s
  unfold execRefused
  repeat' first
    | with_reducible assumption | with_reducible apply onResponse_keeps | with_reducible apply KeepsR.next
    | exact Eq.refl _ | exact List.length_modify .. | exact List.length_map .. | extract_lets
    | ((fail_if_success (fail_if_success conv => arg 2; arg 42)); with_reducible apply Keeps.same) | intro _ | split
    | dsimp +zetaDelta only

theorem execRetry_keeps {port : Nat} {k : Packet} {s : State} : KeepsR s (execRetry port k s) := by
  have hk := Keeps.refl s
  unfold execRetry
  repeat' first
    | with_reducible assumption | with_reducible apply onPacket_keeps | with_reducible apply lateResponse_keeps
    | with_reducible apply echoOn_keeps | with_reducible apply KeepsR.next | exact Eq.refl _
    | exact List.length_modify .. | exact List.length_map .. | extract_lets
    | ((fail_if_success (fail_if_success conv => arg 2; arg 42)); with_reducible apply Keeps.same) | intro _ | split
    | dsimp +zetaDelta only

theorem execRetrySend_keeps {tag : Nat} {s : State} : KeepsR s (execRetrySend tag s) := by
  have hk := Keeps.refl s
  unfold execRetrySend
  repeat' first
    | with_reducible assumption | with_reducible apply whenLive_keeps | with_reducible apply fepQueue_keeps
    | with_reducible apply endReq_keeps | with_reducible apply KeepsR.next | exact Eq.refl _
    | exact List.length_modify .. | exact List.length_map .. | extract_lets
    | ((fail_if_success (fail_if_success conv => arg 2; arg 42)); with_reducible apply Keeps.same)
    | ((fail_if_success (fail_if_success conv => arg 2; arg 42)); with_reducible apply Keeps.tick)
    | exact Nat.le_max_left .. | exact Nat.le_add_right .. | omega | intro _ | split | dsimp +zetaDelta only

theorem execReservationLapse_keeps {res : Nat} {s : State} : KeepsR s (execReservationLapse res s) := by
  have hk := Keeps.refl s
  unfold execReservationLapse
  repeat' first
    | with_reducible assumption | with_reducible apply whenLive_keeps | with_reducible apply KeepsR.next
    | exact Eq.refl _ | exact List.length_modify .. | exact List.length_map .. | extract_lets
    | ((fail_if_success (fail_if_success conv => arg 2; arg 42)); with_reducible apply Keeps.same)
    | ((fail_if_success (fail_if_success conv => arg 2; arg 42)); with_reducible apply Keeps.tick)
    | exact Nat.le_max_left .. | exact Nat.le_add_right .. | omega | intro _ | split | dsimp +zetaDelta only

theorem claimResv_keeps {s0 : State} {s : State} {res : Nat} {k : Packet} (hk : Keeps s0 s) :
     Keeps s0 (claimResv s res k) := by
  unfold claimResv
  repeat' first
    | with_reducible assumption | exact Eq.refl _ | exact List.length_modify .. | exact List.length_map ..
    | extract_lets | ((fail_if_success (fail_if_success conv => arg 2; arg 42)); with_reducible apply Keeps.same)
    | intro _ | split | dsimp +zetaDelta only

theorem claimEntry_keeps {s0 : State} {s : State} {res : Nat} {free : Nat} {k : Packet} (hk : Keeps s0 s) :
     Keeps s0 (claimEntry s res free k).2 := by
  unfold claimEntry
  repeat' first
    | with_reducible assumption | with_reducible apply claimResv_keeps | exact Eq.refl _
    | exact List.length_modify .. | exact List.length_map .. | extract_lets
    | ((fail_if_success (fail_if_success conv => arg 2; arg 42)); with_reducible apply Keeps.same) | intro _ | split
    | dsimp +zetaDelta only

theorem execMgmt_keeps {port : Nat} {k : Packet} {s : State} : KeepsR s (execMgmt port k s) := by
  have hk := Keeps.refl s
  unfold execMgmt
  repeat' first
    | with_reducible assumption | with_reducible apply onPacket_keeps | with_reducible apply claimEntry_keeps
    | with_reducible apply answerRetry_keeps | with_reducible apply KeepsR.next | exact Eq.refl _
    | exact List.length_modify .. | exact List.length_map .. | extract_lets
    | ((fail_if_success (fail_if_success conv => arg 2; arg 42)); with_reducible apply Keeps.same) | intro _ | split
    | dsimp +zetaDelta only

theorem execCongEcho_keeps {port : Nat} {k : Packet} {s : State} : KeepsR s (execCongEcho port k s) := by
  have hk := Keeps.refl s
  unfold execCongEcho
  repeat' first
    | with_reducible assumption | with_reducible apply onPacket_keeps | with_reducible apply echoFor_keeps
    | with_reducible apply KeepsR.next | exact Eq.refl _ | exact List.length_modify .. | exact List.length_map ..
    | extract_lets | ((fail_if_success (fail_if_success conv => arg 2; arg 42)); with_reducible apply Keeps.same)
    | intro _ | split | dsimp +zetaDelta only

theorem routeFrontCmd_keeps {s0 : State} {s : State} (hk : Keeps s0 s) :
     Keeps s0 (routeFrontCmd s) := by
  unfold routeFrontCmd
  repeat' first
    | with_reducible assumption | with_reducible apply regPutBits_keeps | with_reducible apply fepRetryUnrouted_keeps
    | exact Eq.refl _ | exact List.length_modify .. | exact List.length_map .. | extract_lets
    | ((fail_if_success (fail_if_success conv => arg 2; arg 42)); with_reducible apply Keeps.same) | intro _ | split
    | dsimp +zetaDelta only

theorem takeOut_keeps {s0 : State} {s : State} {ch : Nat} {tag : Nat} {kind : Nat} (hk : Keeps s0 s) :
     KeepsP s0 (takeOut s ch tag kind) := by
  unfold takeOut
  repeat' first
    | with_reducible assumption | with_reducible exact KeepsP.none | with_reducible apply KeepsP.some
    | with_reducible apply KeepsP.map | exact Eq.refl _ | exact List.length_modify .. | exact List.length_map ..
    | extract_lets | ((fail_if_success (fail_if_success conv => arg 2; arg 42)); with_reducible apply Keeps.same)
    | intro _ | split | dsimp +zetaDelta only

theorem onChip_keeps {s0 : State} {s : State} {ch : Nat} {tag : Nat} {kind : Nat} {st : CmpStatus} {data : List Byte} (hk : Keeps s0 s) :
     Keeps s0 (onChip s ch tag kind st data) := by
  unfold onChip
  repeat' first
    | with_reducible assumption | with_reducible apply chanUpd_keeps
    | refine (takeOut_keeps ?_).out _ _ (by assumption) | with_reducible apply takeOut_keeps
    | with_reducible apply cmpPump_keeps | with_reducible apply whenLive_keeps | with_reducible apply deliver_keeps
    | exact Eq.refl _ | exact List.length_modify .. | exact List.length_map .. | extract_lets
    | ((fail_if_success (fail_if_success conv => arg 2; arg 42)); with_reducible apply Keeps.same) | intro _ | split
    | dsimp +zetaDelta only

theorem execCmpReadData_keeps {ch : Nat} {tag : Nat} {st : CmpStatus} {data : List Byte} {s : State} : KeepsR s (execCmpReadData ch tag st data s) := by
  have hk := Keeps.refl s
  unfold execCmpReadData
  repeat' first
    | with_reducible assumption | with_reducible apply onChip_keeps | with_reducible apply KeepsR.next
    | exact Eq.refl _ | exact List.length_modify .. | exact List.length_map .. | extract_lets
    | ((fail_if_success (fail_if_success conv => arg 2; arg 42)); with_reducible apply Keeps.same) | intro _ | split
    | dsimp +zetaDelta only

theorem execCmpAtomicData_keeps {ch : Nat} {tag : Nat} {st : CmpStatus} {data : List Byte} {s : State} : KeepsR s (execCmpAtomicData ch tag st data s) := by
  have hk := Keeps.refl s
  unfold execCmpAtomicData
  repeat' first
    | with_reducible assumption | with_reducible apply onChip_keeps | with_reducible apply KeepsR.next
    | exact Eq.refl _ | exact List.length_modify .. | exact List.length_map .. | extract_lets
    | ((fail_if_success (fail_if_success conv => arg 2; arg 42)); with_reducible apply Keeps.same) | intro _ | split
    | dsimp +zetaDelta only

theorem execCmpCredit_keeps {ch : OnWire} {req : Bool} {rsp : Bool} {s : State} : KeepsR s (execCmpCredit ch req rsp s) := by
  have hk := Keeps.refl s
  unfold execCmpCredit
  repeat' first
    | with_reducible assumption | with_reducible apply cmpPump_keeps | with_reducible apply chanUpd_keeps
    | with_reducible apply KeepsR.next | exact Eq.refl _ | exact List.length_modify .. | exact List.length_map ..
    | extract_lets | ((fail_if_success (fail_if_success conv => arg 2; arg 42)); with_reducible apply Keeps.same)
    | intro _ | split | dsimp +zetaDelta only

/-! The operations of Machine/Power.lean. -/

theorem ptmSync_keeps {s0 : State} {s : State} (hk : Keeps s0 s) :
     Keeps s0 (ptmSync s) := by
  unfold ptmSync
  repeat' first
    | with_reducible assumption | with_reducible apply regPutBits_keeps | with_reducible apply regPut_keeps
    | exact Eq.refl _ | exact List.length_modify .. | exact List.length_map .. | extract_lets
    | ((fail_if_success (fail_if_success conv => arg 2; arg 42)); with_reducible apply Keeps.same) | intro _ | split
    | dsimp +zetaDelta only

theorem ptmEvent_keeps {s0 : State} {s : State} {b : Nat} (hk : Keeps s0 s) :
     Keeps s0 (ptmEvent s b) := by
  unfold ptmEvent
  repeat' first
    | with_reducible assumption | with_reducible apply setEvent_keeps | exact Eq.refl _ | exact List.length_modify ..
    | exact List.length_map .. | extract_lets
    | ((fail_if_success (fail_if_success conv => arg 2; arg 42)); with_reducible apply Keeps.same) | intro _ | split
    | dsimp +zetaDelta only

theorem fallback_keeps {s0 : State} {s : State} {bits : List Nat} (hk : Keeps s0 s) :
     Keeps s0 (fallback s bits) := by
  unfold fallback
  repeat' first
    | with_reducible assumption | with_reducible apply regPutBits_keeps | with_reducible apply ptmEvent_keeps
    | with_reducible apply foldl_keeps | with_reducible apply foldl_keeps_fst | with_reducible apply foldl_keeps_snd
    | exact Eq.refl _ | exact List.length_modify .. | exact List.length_map .. | extract_lets
    | ((fail_if_success (fail_if_success conv => arg 2; arg 42)); with_reducible apply Keeps.same) | intro _ | split
    | dsimp +zetaDelta only

theorem modeWrite_keeps {s0 : State} {s : State} {v : Nat} (hk : Keeps s0 s) :
     Keeps s0 (modeWrite s v) := by
  unfold modeWrite
  repeat' first
    | with_reducible assumption | with_reducible apply regPutBits_keeps | with_reducible apply regPut_keeps
    | exact Eq.refl _ | exact List.length_modify .. | exact List.length_map .. | extract_lets
    | ((fail_if_success (fail_if_success conv => arg 2; arg 42)); with_reducible apply Keeps.same) | intro _ | split
    | dsimp +zetaDelta only

theorem capWrite_keeps {s0 : State} {s : State} {v : Nat} (hk : Keeps s0 s) :
     Keeps s0 (capWrite s v) := by
  unfold capWrite
  repeat' first
    | with_reducible assumption | with_reducible apply ptmSync_keeps | with_reducible apply regPut_keeps
    | exact Eq.refl _ | exact List.length_modify .. | exact List.length_map .. | extract_lets
    | ((fail_if_success (fail_if_success conv => arg 2; arg 42)); with_reducible apply Keeps.same) | intro _ | split
    | dsimp +zetaDelta only

theorem vlimitWrite_keeps {s0 : State} {s : State} {v : Nat} (hk : Keeps s0 s) :
     Keeps s0 (vlimitWrite s v) := by
  unfold vlimitWrite
  repeat' first
    | with_reducible assumption | with_reducible apply regPut_keeps | with_reducible apply fallback_keeps
    | exact Eq.refl _ | exact List.length_modify .. | exact List.length_map .. | extract_lets
    | ((fail_if_success (fail_if_success conv => arg 2; arg 42)); with_reducible apply Keeps.same) | intro _ | split
    | dsimp +zetaDelta only

theorem galeTjWrite_keeps {s0 : State} {s : State} {v : Nat} (hk : Keeps s0 s) :
     Keeps s0 (galeTjWrite s v) := by
  unfold galeTjWrite
  repeat' first
    | with_reducible assumption | with_reducible apply ptmSync_keeps | with_reducible apply regPut_keeps
    | exact Eq.refl _ | exact List.length_modify .. | exact List.length_map .. | extract_lets
    | ((fail_if_success (fail_if_success conv => arg 2; arg 42)); with_reducible apply Keeps.same) | intro _ | split
    | dsimp +zetaDelta only

theorem execThermAlertN_keeps {asserted : Bool} {s : State} : KeepsR s (execThermAlertN asserted s) := by
  have hk := Keeps.refl s
  unfold execThermAlertN
  repeat' first
    | with_reducible assumption | with_reducible apply ptmEvent_keeps | with_reducible apply fallback_keeps
    | with_reducible apply KeepsR.next | exact Eq.refl _ | exact List.length_modify .. | exact List.length_map ..
    | extract_lets | ((fail_if_success (fail_if_success conv => arg 2; arg 42)); with_reducible apply Keeps.same)
    | intro _ | split | dsimp +zetaDelta only

theorem execThermalTrip_keeps {s : State} : KeepsR s (execThermalTrip s) := by
  have hk := Keeps.refl s
  unfold execThermalTrip
  repeat' first
    | with_reducible assumption | with_reducible apply whenLive_keeps | with_reducible apply raiseErr_keeps
    | with_reducible apply KeepsR.next | exact Eq.refl _ | exact List.length_modify .. | exact List.length_map ..
    | extract_lets | ((fail_if_success (fail_if_success conv => arg 2; arg 42)); with_reducible apply Keeps.same)
    | intro _ | split | dsimp +zetaDelta only

theorem raiseSupply_keeps {s0 : State} {s : State} {island : Nat} (hk : Keeps s0 s) :
     Keeps s0 (raiseSupply s island) := by
  unfold raiseSupply
  repeat' first
    | with_reducible assumption | with_reducible apply raiseErr_keeps | exact Eq.refl _ | exact List.length_modify ..
    | exact List.length_map .. | extract_lets
    | ((fail_if_success (fail_if_success conv => arg 2; arg 42)); with_reducible apply Keeps.same) | intro _ | split
    | dsimp +zetaDelta only

theorem execSupplyFault_keeps {cause : SupplyCause} {s : State} : KeepsR s (execSupplyFault cause s) := by
  have hk := Keeps.refl s
  unfold execSupplyFault
  repeat' first
    | with_reducible assumption | with_reducible apply raiseSupply_keeps | with_reducible apply KeepsR.next
    | exact Eq.refl _ | exact List.length_modify .. | exact List.length_map .. | extract_lets
    | ((fail_if_success (fail_if_success conv => arg 2; arg 42)); with_reducible apply Keeps.same) | intro _ | split
    | dsimp +zetaDelta only

theorem execVinReady_keeps {mv : Nat} {s : State} : KeepsR s (execVinReady mv s) := by
  have hk := Keeps.refl s
  unfold execVinReady
  repeat' first
    | with_reducible assumption | with_reducible apply whenLive_keeps | with_reducible apply ptmSync_keeps
    | with_reducible apply risePower_keeps | with_reducible apply KeepsR.next | exact Eq.refl _
    | exact List.length_modify .. | exact List.length_map .. | extract_lets
    | ((fail_if_success (fail_if_success conv => arg 2; arg 42)); with_reducible apply Keeps.same) | intro _ | split
    | dsimp +zetaDelta only

theorem execFixedVin_keeps {mv : Nat} {s : State} : KeepsR s (execFixedVin mv s) := by
  have hk := Keeps.refl s
  unfold execFixedVin
  repeat' first
    | with_reducible assumption | with_reducible apply whenLive_keeps | with_reducible apply KeepsR.next
    | exact Eq.refl _ | exact List.length_modify .. | exact List.length_map .. | extract_lets
    | ((fail_if_success (fail_if_success conv => arg 2; arg 42)); with_reducible apply Keeps.same) | intro _ | split
    | dsimp +zetaDelta only

theorem stepSupply_keeps {s0 : State} {s : State} {pred : Nat → Nat} {v : Nat} (hk : Keeps s0 s) :
     Keeps s0 (stepSupply s pred v) := by
  unfold stepSupply
  repeat' first
    | with_reducible assumption | exact Eq.refl _ | exact List.length_modify .. | exact List.length_map ..
    | extract_lets | ((fail_if_success (fail_if_success conv => arg 2; arg 42)); with_reducible apply Keeps.same)
    | intro _ | split | dsimp +zetaDelta only

theorem wakeOpen_keeps {s0 s : State} (hk : Keeps s0 s) : Keeps s0 (wakeOpen s) :=
  foldl_keeps hk fun _ _ k => KeepsO.getD (wakeFor_keeps k) k

theorem reportIslands_keeps {s0 : State} {s : State} (hk : Keeps s0 s) :
     Keeps s0 (reportIslands s) := by
  unfold reportIslands
  repeat' first
    | with_reducible assumption | exact Eq.refl _ | exact List.length_modify .. | exact List.length_map ..
    | extract_lets | ((fail_if_success (fail_if_success conv => arg 2; arg 42)); with_reducible apply Keeps.same)
    | intro _ | split | dsimp +zetaDelta only

theorem governor_keeps {s0 : State} {tel : Telemetry} {s : State} (hk : Keeps s0 s) :
     Keeps s0 (governor tel s) := by
  unfold governor
  repeat' first
    | with_reducible assumption | with_reducible apply regPut_keeps | with_reducible apply ptmEvent_keeps
    | with_reducible apply fallback_keeps | with_reducible apply wakeOpen_keeps | with_reducible apply draw_keeps
    | with_reducible apply stepSupply_keeps | with_reducible apply reportIslands_keeps
    | with_reducible apply ptmSync_keeps | with_reducible apply foldl_keeps | with_reducible apply foldl_keeps_fst
    | with_reducible apply foldl_keeps_snd | exact Eq.refl _ | exact List.length_modify .. | exact List.length_map ..
    | extract_lets | ((fail_if_success (fail_if_success conv => arg 2; arg 42)); with_reducible apply Keeps.same)
    | ((fail_if_success (fail_if_success conv => arg 2; arg 42)); with_reducible apply Keeps.tick)
    | exact Nat.le_max_left .. | exact Nat.le_add_right .. | omega | intro _ | split | dsimp +zetaDelta only

theorem execControlPeriod_keeps {tel : Telemetry} {s : State} : KeepsR s (execControlPeriod tel s) := by
  have hk := Keeps.refl s
  unfold execControlPeriod
  repeat' first
    | with_reducible assumption | with_reducible apply governor_keeps | with_reducible apply KeepsR.next
    | exact Eq.refl _ | exact List.length_modify .. | exact List.length_map .. | extract_lets
    | ((fail_if_success (fail_if_success conv => arg 2; arg 42)); with_reducible apply Keeps.same)
    | ((fail_if_success (fail_if_success conv => arg 2; arg 42)); with_reducible apply Keeps.tick)
    | exact Nat.le_max_left .. | exact Nat.le_add_right .. | omega | intro _ | split | dsimp +zetaDelta only

theorem execIslandGate_keeps {island : Nat} {s : State} : KeepsR s (execIslandGate island s) := by
  have hk := Keeps.refl s
  unfold execIslandGate
  repeat' first
    | with_reducible assumption | with_reducible apply whenLive_keeps | with_reducible apply KeepsR.next
    | exact Eq.refl _ | exact List.length_modify .. | exact List.length_map .. | extract_lets
    | ((fail_if_success (fail_if_success conv => arg 2; arg 42)); with_reducible apply Keeps.same) | intro _ | split
    | dsimp +zetaDelta only

theorem execRetention_keeps {island : Nat} {s : State} : KeepsR s (execRetention island s) := by
  have hk := Keeps.refl s
  unfold execRetention
  repeat' first
    | with_reducible assumption | with_reducible apply whenLive_keeps | with_reducible apply KeepsR.next
    | exact Eq.refl _ | exact List.length_modify .. | exact List.length_map .. | extract_lets
    | ((fail_if_success (fail_if_success conv => arg 2; arg 42)); with_reducible apply Keeps.same) | intro _ | split
    | dsimp +zetaDelta only

theorem execIslandWake_keeps {island : Nat} {s : State} : KeepsR s (execIslandWake island s) := by
  have hk := Keeps.refl s
  unfold execIslandWake
  repeat' first
    | with_reducible assumption | with_reducible apply whenLive_keeps | with_reducible apply KeepsR.next
    | exact Eq.refl _ | exact List.length_modify .. | exact List.length_map .. | extract_lets
    | ((fail_if_success (fail_if_success conv => arg 2; arg 42)); with_reducible apply Keeps.same) | intro _ | split
    | dsimp +zetaDelta only

theorem gateWrite_keeps {s0 : State} {s : State} {v : Nat} (hk : Keeps s0 s) :
     Keeps s0 (gateWrite s v) := by
  unfold gateWrite
  repeat' first
    | with_reducible assumption | with_reducible apply wakeOpen_keeps | with_reducible apply regPut_keeps
    | exact Eq.refl _ | exact List.length_modify .. | exact List.length_map .. | extract_lets
    | ((fail_if_success (fail_if_success conv => arg 2; arg 42)); with_reducible apply Keeps.same) | intro _ | split
    | dsimp +zetaDelta only

theorem completeEntry_keeps {s0 : State} {s : State} {index : Nat} (hk : Keeps s0 s) :
     Keeps s0 (completeEntry s index) := by
  unfold completeEntry
  repeat' first
    | with_reducible assumption | with_reducible apply deliverEntry_keeps | exact Eq.refl _
    | exact List.length_modify .. | exact List.length_map .. | extract_lets
    | ((fail_if_success (fail_if_success conv => arg 2; arg 42)); with_reducible apply Keeps.same) | intro _ | split
    | dsimp +zetaDelta only

theorem clearFatal_keeps {s0 : State} {s : State} (hk : Keeps s0 s) :
     Keeps s0 (clearFatal s) := by
  unfold clearFatal
  repeat' first
    | with_reducible assumption | with_reducible apply regPut_keeps | with_reducible apply foldl_keeps
    | with_reducible apply foldl_keeps_fst | with_reducible apply foldl_keeps_snd | exact Eq.refl _
    | exact List.length_modify .. | exact List.length_map .. | extract_lets
    | ((fail_if_success (fail_if_success conv => arg 2; arg 42)); with_reducible apply Keeps.same) | intro _ | split
    | dsimp +zetaDelta only

theorem execScrub_keeps {upset : Option Nat} {s : State} : KeepsR s (execScrub upset s) := by
  have hk := Keeps.refl s
  unfold execScrub
  repeat' first
    | with_reducible assumption | with_reducible apply whenLive_keeps | with_reducible apply raiseCfgParity_keeps
    | with_reducible apply KeepsR.next | exact Eq.refl _ | exact List.length_modify .. | exact List.length_map ..
    | extract_lets | ((fail_if_success (fail_if_success conv => arg 2; arg 42)); with_reducible apply Keeps.same)
    | intro _ | split | dsimp +zetaDelta only

theorem execHandshakeStall_keeps {h : Handshake} {s : State} : KeepsR s (execHandshakeStall h s) := by
  have hk := Keeps.refl s
  unfold execHandshakeStall
  repeat' first
    | with_reducible assumption | with_reducible apply whenLive_keeps | with_reducible apply raiseErr_keeps
    | with_reducible apply KeepsR.next | exact Eq.refl _ | exact List.length_modify .. | exact List.length_map ..
    | extract_lets | ((fail_if_success (fail_if_success conv => arg 2; arg 42)); with_reducible apply Keeps.same)
    | intro _ | split | dsimp +zetaDelta only

theorem execWindowBoundary_keeps {s : State} : KeepsR s (execWindowBoundary s) := by
  have hk := Keeps.refl s
  unfold execWindowBoundary
  repeat' first
    | with_reducible assumption | with_reducible apply whenLive_keeps | with_reducible apply KeepsR.next
    | exact Eq.refl _ | exact List.length_modify .. | exact List.length_map .. | extract_lets
    | ((fail_if_success (fail_if_success conv => arg 2; arg 42)); with_reducible apply Keeps.same)
    | ((fail_if_success (fail_if_success conv => arg 2; arg 42)); with_reducible apply Keeps.tick)
    | exact Nat.le_max_left .. | exact Nat.le_add_right .. | omega | intro _ | split | dsimp +zetaDelta only

/-! The operations of Machine/Boot.lean. -/

theorem setStage_keeps {s0 : State} {s : State} {n : Nat} (hk : Keeps s0 s) :
     Keeps s0 (setStage s n) := by
  unfold setStage
  repeat' first
    | with_reducible assumption | with_reducible apply regPutBits_keeps | exact Eq.refl _
    | exact List.length_modify .. | exact List.length_map .. | extract_lets
    | ((fail_if_success (fail_if_success conv => arg 2; arg 42)); with_reducible apply Keeps.same) | intro _ | split
    | dsimp +zetaDelta only

theorem setImgState_keeps {s0 : State} {s : State} {n : Nat} (hk : Keeps s0 s) :
     Keeps s0 (setImgState s n) := by
  unfold setImgState
  repeat' first
    | with_reducible assumption | with_reducible apply regPutBits_keeps | exact Eq.refl _
    | exact List.length_modify .. | exact List.length_map .. | extract_lets
    | ((fail_if_success (fail_if_success conv => arg 2; arg 42)); with_reducible apply Keeps.same) | intro _ | split
    | dsimp +zetaDelta only

theorem attnRom_keeps {s0 : State} {s : State} (hk : Keeps s0 s) :
     Keeps s0 (attnRom s) := by
  unfold attnRom
  repeat' first
    | with_reducible assumption | with_reducible apply regPutBits_keeps | with_reducible apply ringCmd_keeps
    | exact Eq.refl _ | exact List.length_modify .. | exact List.length_map .. | extract_lets
    | ((fail_if_success (fail_if_success conv => arg 2; arg 42)); with_reducible apply Keeps.same) | intro _ | split
    | dsimp +zetaDelta only

theorem disableNext_keeps {s0 : State} {s : State} (hk : Keeps s0 s) :
     Keeps s0 (disableNext s) := by
  unfold disableNext
  repeat' first
    | with_reducible assumption | with_reducible apply ringCmd_keeps | exact Eq.refl _ | exact List.length_modify ..
    | exact List.length_map .. | extract_lets
    | ((fail_if_success (fail_if_success conv => arg 2; arg 42)); with_reducible apply Keeps.same) | intro _ | split
    | dsimp +zetaDelta only

theorem stewardNext_keeps {s0 : State} {s : State} (hk : Keeps s0 s) :
     Keeps s0 (stewardNext s) := by
  unfold stewardNext
  repeat' first
    | with_reducible assumption | with_reducible apply whenLive_keeps | with_reducible apply attnRom_keeps
    | with_reducible apply disableNext_keeps | with_reducible apply foldl_keeps
    | with_reducible apply foldl_keeps_fst | with_reducible apply foldl_keeps_snd | exact Eq.refl _
    | exact List.length_modify .. | exact List.length_map .. | extract_lets
    | ((fail_if_success (fail_if_success conv => arg 2; arg 42)); with_reducible apply Keeps.same) | intro _ | split
    | dsimp +zetaDelta only

theorem execChipMemoryFatal_keeps {s : State} : KeepsR s (execChipMemoryFatal s) := by
  have hk := Keeps.refl s
  unfold execChipMemoryFatal
  repeat' first
    | with_reducible assumption | with_reducible apply whenLive_keeps | with_reducible apply raiseErr_keeps
    | with_reducible apply stewardNext_keeps | with_reducible apply KeepsR.next | exact Eq.refl _
    | exact List.length_modify .. | exact List.length_map .. | extract_lets
    | ((fail_if_success (fail_if_success conv => arg 2; arg 42)); with_reducible apply Keeps.same) | intro _ | split
    | dsimp +zetaDelta only

theorem attnDone_keeps {s0 : State} {s : State} (hk : Keeps s0 s) :
     Keeps s0 (attnDone s) := by
  unfold attnDone
  repeat' first
    | with_reducible assumption | with_reducible apply stewardNext_keeps | with_reducible apply regPutBits_keeps
    | exact Eq.refl _ | exact List.length_modify .. | exact List.length_map .. | extract_lets
    | ((fail_if_success (fail_if_success conv => arg 2; arg 42)); with_reducible apply Keeps.same) | intro _ | split
    | dsimp +zetaDelta only

theorem ftabPut_keeps {s0 s : State} {m : List (Nat × Word)} (h : Keeps s0 s)
    (hm : Canon s → mapWf Config.romTable m = true) : Keeps s0 { s with ftab := m } :=
  h.trans ⟨rfl, rfl, rfl, Nat.le_refl _, Nat.le_refl _, Nat.le_refl _,
    fun c => ⟨c.1, c.2, c.3, c.4, c.5, c.6, c.7, c.8, hm c⟩, fun z => ⟨z.1, z.2, z.3, z.4⟩⟩

theorem toRecovery_keeps {s0 s : State} {why : Nat} (hk : Keeps s0 s) : Keeps s0 (toRecovery s why) := by
  unfold toRecovery
  exact attnRom_keeps (setStage_keeps (regPutBits_keeps (ftabPut_keeps hk fun _ => rfl)))

theorem outOfService_keeps {s0 : State} {s : State} (hk : Keeps s0 s) :
     Keeps s0 (outOfService s) := by
  unfold outOfService
  repeat' first
    | with_reducible assumption | with_reducible apply setStage_keeps | with_reducible apply linksDown_keeps
    | exact Eq.refl _ | exact List.length_modify .. | exact List.length_map .. | extract_lets
    | ((fail_if_success (fail_if_success conv => arg 2; arg 42)); with_reducible apply Keeps.same) | intro _ | split
    | dsimp +zetaDelta only

theorem norPut_keeps {s0 s : State} {m : List Host.Cell} (h : Keeps s0 s)
    (hm : Canon s → mapWf (fun _ => (0xFF : Byte)) m = true) : Keeps s0 { s with nor := m } :=
  h.trans ⟨rfl, rfl, rfl, Nat.le_refl _, Nat.le_refl _, Nat.le_refl _,
    fun c => ⟨c.1, hm c, c.3, c.4, c.5, c.6, c.7, c.8, c.9⟩, fun z => ⟨z.1, z.2, z.3, z.4⟩⟩

theorem norErase_keeps {s0 s : State} {a n : Nat} (h : Keeps s0 s) : Keeps s0 (norErase s a n) :=
  norPut_keeps h fun c => filter_wf c.nor

theorem norStore_keeps {s0 s : State} {a : Nat} {bs : List Byte} (h : Keeps s0 s) : Keeps s0 (norStore s a bs) :=
  norPut_keeps h fun c => mapSetAll_wf c.nor

theorem norHavoc_keeps {s0 : State} {s : State} {a : Nat} {n : Nat} (hk : Keeps s0 s) :
     Keeps s0 (norHavoc s a n) := by
  unfold norHavoc
  repeat' first
    | with_reducible assumption | with_reducible apply drawBytes_keeps | with_reducible apply norStore_keeps
    | exact Eq.refl _ | exact List.length_modify .. | exact List.length_map .. | extract_lets
    | ((fail_if_success (fail_if_success conv => arg 2; arg 42)); with_reducible apply Keeps.same) | intro _ | split
    | dsimp +zetaDelta only

theorem storeRecord_keeps {s0 : State} {s : State} {bs : List Byte} (hk : Keeps s0 s) :
     Keeps s0 (storeRecord s bs) := by
  unfold storeRecord
  repeat' first
    | with_reducible assumption | with_reducible apply norStore_keeps | with_reducible apply norErase_keeps
    | exact Eq.refl _ | exact List.length_modify .. | exact List.length_map .. | extract_lets
    | ((fail_if_success (fail_if_success conv => arg 2; arg 42)); with_reducible apply Keeps.same) | intro _ | split
    | dsimp +zetaDelta only

theorem migrate_keeps {s0 : State} {s : State} {want : Nat} (hk : Keeps s0 s) :
     Keeps s0 (migrate s want) := by
  unfold migrate
  repeat' first
    | with_reducible assumption | with_reducible apply storeRecord_keeps | exact Eq.refl _
    | exact List.length_modify .. | exact List.length_map .. | extract_lets
    | ((fail_if_success (fail_if_success conv => arg 2; arg 42)); with_reducible apply Keeps.same) | intro _ | split
    | dsimp +zetaDelta only

theorem applySettings_keeps {s0 : State} {s : State} (hk : Keeps s0 s) :
     Keeps s0 (applySettings s) := by
  unfold applySettings
  repeat' first
    | with_reducible assumption | with_reducible apply regPut_keeps | with_reducible apply regPutBits_keeps
    | with_reducible apply capWrite_keeps | with_reducible apply gateWrite_keeps | with_reducible apply foldl_keeps
    | with_reducible apply foldl_keeps_fst | with_reducible apply foldl_keeps_snd | exact Eq.refl _
    | exact List.length_modify .. | exact List.length_map .. | extract_lets
    | ((fail_if_success (fail_if_success conv => arg 2; arg 42)); with_reducible apply Keeps.same) | intro _ | split
    | dsimp +zetaDelta only

theorem storeBank_keeps {s0 : State} {s : State} {b : BankState} (hk : Keeps s0 s) :
     Keeps s0 (storeBank s b) := by
  unfold storeBank
  repeat' first
    | with_reducible assumption | with_reducible apply norStore_keeps | with_reducible apply norErase_keeps
    | exact Eq.refl _ | exact List.length_modify .. | exact List.length_map .. | extract_lets
    | ((fail_if_success (fail_if_success conv => arg 2; arg 42)); with_reducible apply Keeps.same) | intro _ | split
    | dsimp +zetaDelta only

theorem settleBuckets_keeps {s0 : State} {s : State} (hk : Keeps s0 s) :
     Keeps s0 (settleBuckets s) := by
  unfold settleBuckets
  repeat' first
    | with_reducible assumption | exact Eq.refl _ | exact List.length_modify .. | exact List.length_map ..
    | extract_lets | ((fail_if_success (fail_if_success conv => arg 2; arg 42)); with_reducible apply Keeps.same)
    | intro _ | split | dsimp +zetaDelta only

theorem endpointWrite_keeps {s0 : State} {s : State} {o : Nat} {v : Nat} (hk : Keeps s0 s) :
     Keeps s0 (endpointWrite s o v) := by
  unfold endpointWrite
  repeat' first
    | with_reducible assumption | with_reducible apply bumpGens_keeps | with_reducible apply regPut_keeps
    | with_reducible apply settleBuckets_keeps | exact Eq.refl _ | exact List.length_modify ..
    | exact List.length_map .. | extract_lets
    | ((fail_if_success (fail_if_success conv => arg 2; arg 42)); with_reducible apply Keeps.same) | intro _ | split
    | dsimp +zetaDelta only

theorem loadParts_keeps {s0 s : State} {h body : List Byte} (hk : Keeps s0 s) : Keeps s0 (loadParts s h body) := by
  unfold loadParts
  refine migrate_keeps (foldl_keeps hk fun s p k => ?_)
  extract_lets bs
  split
  · exact Keeps.same k rfl rfl rfl
  · exact ftabPut_keeps k fun _ => mapSetAll_wf rfl
  · exact foldl_keeps k fun _ _ j => endpointWrite_keeps j
  · exact unitStore_keeps k

theorem startBank_keeps {s0 : State} {s : State} {b : Nat} (hk : Keeps s0 s) :
     Keeps s0 (startBank s b) := by
  unfold startBank
  repeat' first
    | with_reducible assumption | with_reducible apply setStage_keeps | with_reducible apply regPutBits_keeps
    | exact Eq.refl _ | exact List.length_modify .. | exact List.length_map .. | extract_lets
    | ((fail_if_success (fail_if_success conv => arg 2; arg 42)); with_reducible apply Keeps.same) | intro _ | split
    | dsimp +zetaDelta only

theorem abandonDevice_keeps {s0 : State} {s : State} (hk : Keeps s0 s) :
     Keeps s0 (abandonDevice s) := by
  unfold abandonDevice
  repeat' first
    | with_reducible assumption | with_reducible apply storeBank_keeps | with_reducible apply norHavoc_keeps
    | with_reducible apply draw_keeps | with_reducible apply storeRecord_keeps | with_reducible apply norErase_keeps
    | exact Eq.refl _ | exact List.length_modify .. | exact List.length_map .. | extract_lets
    | ((fail_if_success (fail_if_success conv => arg 2; arg 42)); with_reducible apply Keeps.same) | intro _ | split
    | dsimp +zetaDelta only

/-- What the assertion of PORESET_N leaves: the count starts again, and the rest is as `Keeps` says. -/
theorem execPoresetN_keeps {s t : State} (e : execPoresetN s = .next t) :
    t.pending = s.pending ∧ t.par = s.par ∧ t.fuses = s.fuses ∧ s.freeCtr ≤ t.freeCtr ∧ s.nextId ≤ t.nextId ∧
      (Canon s → Canon t) ∧ (Sized s → Sized t) := by
  have k := abandonDevice_keeps (Keeps.refl s)
  cases e
  exact ⟨rfl, rfl, rfl, k.free, Nat.le_refl _,
    fun c => ⟨rfl, (k.canon c).nor, rfl, rfl, rfl, rfl, rfl, rfl, rfl⟩, fun _ => ⟨rfl, rfl, rfl, rfl⟩⟩

theorem warmRegs_wf {s : State} : mapWf regReset (warmRegs s) = true := by
  have k : ∀ (l : List Nat) (t : State), mapWf regReset t.regs = true →
      mapWf regReset (l.foldl (fun (t : State) o => regPut t o (regGet s o)) t).regs = true := by
    intro l
    induction l with
    | nil => exact fun _ h => h
    | cons o l ih => exact fun t h => ih _ (mapSet_wf h)
  exact mapSet_wf (k _ _ rfl)

theorem execWarmresetN_keeps {s : State} : KeepsR s (execWarmresetN s) := by
  have k := abandonDevice_keeps (Keeps.refl s)
  unfold execWarmresetN
  split
  · exact .next (Keeps.same (Keeps.refl s) rfl rfl rfl)
  · exact .next ⟨rfl, rfl, rfl, Nat.le_refl _, k.free, Nat.le_refl _,
      fun c => ⟨c.spm, (k.canon c).nor, warmRegs_wf (s := s), rfl, rfl, rfl, c.corr, rfl, rfl⟩, fun _ => ⟨rfl, rfl, rfl, rfl⟩⟩

theorem execResetRelease_keeps {recovery : Bool} {s : State} : KeepsR s (execResetRelease recovery s) := by
  have hk := Keeps.refl s
  unfold execResetRelease
  repeat' first
    | with_reducible assumption | with_reducible apply regPutBits_keeps | with_reducible apply cmpPump_keeps
    | with_reducible apply chanUpd_keeps | with_reducible apply foldl_keeps | with_reducible apply foldl_keeps_fst
    | with_reducible apply foldl_keeps_snd | with_reducible apply KeepsR.next | exact Eq.refl _
    | exact List.length_modify .. | exact List.length_map .. | extract_lets
    | ((fail_if_success (fail_if_success conv => arg 2; arg 42)); with_reducible apply Keeps.same) | intro _ | split
    | dsimp +zetaDelta only

theorem execFusesStage_keeps {agree : Bool} {s : State} : KeepsR s (execFusesStage agree s) := by
  have hk := Keeps.refl s
  unfold execFusesStage
  repeat' first
    | with_reducible assumption | with_reducible apply whenLive_keeps | with_reducible apply setStage_keeps
    | with_reducible apply outOfService_keeps | with_reducible apply KeepsR.next | exact Eq.refl _
    | exact List.length_modify .. | exact List.length_map .. | extract_lets
    | ((fail_if_success (fail_if_success conv => arg 2; arg 42)); with_reducible apply Keeps.same) | intro _ | split
    | dsimp +zetaDelta only

theorem execSelftestStage_keeps {failing : BitVec 8} {s : State} : KeepsR s (execSelftestStage failing s) := by
  refine .next (whenLive_keeps (Keeps.refl s) fun t k => ?_)
  split
  · exact k
  · extract_lets f s1 s2
    have h1 : Keeps s s1 := regPutBits_keeps k
    have h2 : Keeps s s2 := by
      show Keeps s (if _ then _ else _)
      split
      · exact h1
      · exact h1.trans ⟨rfl, rfl, rfl, Nat.le_refl _, Nat.le_refl _, Nat.le_refl _,
          fun c => ⟨rfl, c.2, c.3, c.4, c.5, c.6, c.7, c.8, c.9⟩, fun z => ⟨z.1, z.2, z.3, z.4⟩⟩
    clear_value s2
    split
    · exact setStage_keeps h2
    · exact outOfService_keeps h2

theorem execFlashStage_keeps {device : Option Sfdp} {s : State} : KeepsR s (execFlashStage device s) := by
  have hk := Keeps.refl s
  unfold execFlashStage
  repeat' first
    | with_reducible assumption | with_reducible apply whenLive_keeps | with_reducible apply setStage_keeps
    | with_reducible apply regPutBits_keeps | with_reducible apply toRecovery_keeps
    | with_reducible apply romRing0_keeps | with_reducible apply KeepsR.next | exact Eq.refl _
    | exact List.length_modify .. | exact List.length_map .. | extract_lets
    | ((fail_if_success (fail_if_success conv => arg 2; arg 42)); with_reducible apply Keeps.same) | intro _ | split
    | dsimp +zetaDelta only

theorem execSettingsStage_keeps {s : State} : KeepsR s (execSettingsStage s) := by
  refine .next (whenLive_keeps (Keeps.refl s) fun t k => ?_)
  split
  · exact k
  · extract_lets src s1 s2
    have h1 : Keeps s s1 := romRing0_keeps (ftabPut_keeps (s := applySettings t) (m := []) (applySettings_keeps k) fun _ => rfl)
    have h2 : Keeps s s2 := regPutPair_keeps h1
    split
    · exact toRecovery_keeps h2
    · exact setStage_keeps h2

theorem execImageStage_keeps {s : State} : KeepsR s (execImageStage s) := by
  have hk := Keeps.refl s
  unfold execImageStage
  repeat' first
    | with_reducible assumption | with_reducible apply whenLive_keeps | with_reducible apply regPutPair_keeps
    | with_reducible apply storeBank_keeps | with_reducible apply startBank_keeps
    | with_reducible apply loadParts_keeps | with_reducible apply toRecovery_keeps | with_reducible apply KeepsR.next
    | exact Eq.refl _ | exact List.length_modify .. | exact List.length_map .. | extract_lets
    | ((fail_if_success (fail_if_success conv => arg 2; arg 42)); with_reducible apply Keeps.same) | intro _ | split
    | dsimp +zetaDelta only

theorem execLinkUp_keeps {port : Nat} {s : State} : KeepsR s (execLinkUp port s) := by
  have hk := Keeps.refl s
  unfold execLinkUp
  repeat' first
    | with_reducible assumption | with_reducible apply whenLive_keeps | with_reducible apply regPutBits_keeps
    | with_reducible apply fepPump_keeps | with_reducible apply portUpd_keeps | with_reducible apply KeepsR.next
    | exact Eq.refl _ | exact List.length_modify .. | exact List.length_map .. | extract_lets
    | ((fail_if_success (fail_if_success conv => arg 2; arg 42)); with_reducible apply Keeps.same) | intro _ | split
    | dsimp +zetaDelta only

theorem imgEnd_keeps {s0 : State} {s : State} {d : Nat} {reason : Nat} {detail : Nat} (hk : Keeps s0 s) :
     Keeps s0 (imgEnd s d reason detail) := by
  unfold imgEnd
  repeat' first
    | with_reducible assumption | with_reducible apply regPutBits_keeps | with_reducible apply descUpd_keeps
    | with_reducible apply endDesc_keeps | exact Eq.refl _ | exact List.length_modify .. | exact List.length_map ..
    | extract_lets | ((fail_if_success (fail_if_success conv => arg 2; arg 42)); with_reducible apply Keeps.same)
    | intro _ | split | dsimp +zetaDelta only

theorem imgRun_keeps {s0 : State} {s : State} {d : Nat} {step : Nat} (hk : Keeps s0 s) :
     Keeps s0 (imgRun s d step) := by
  unfold imgRun
  repeat' first
    | with_reducible assumption | with_reducible apply descUpd_keeps | exact Eq.refl _ | exact List.length_modify ..
    | exact List.length_map .. | extract_lets
    | ((fail_if_success (fail_if_success conv => arg 2; arg 42)); with_reducible apply Keeps.same) | intro _ | split
    | dsimp +zetaDelta only

theorem imgSettle_keeps {s0 : State} {s : State} {x : Desc} (hk : Keeps s0 s) :
     Keeps s0 (imgSettle s x) := by
  unfold imgSettle
  repeat' first
    | with_reducible assumption | with_reducible apply setImgState_keeps | with_reducible apply descUpd_keeps
    | exact Eq.refl _ | exact List.length_modify .. | exact List.length_map .. | extract_lets
    | ((fail_if_success (fail_if_success conv => arg 2; arg 42)); with_reducible apply Keeps.same) | intro _ | split
    | dsimp +zetaDelta only

theorem execImgErase_keeps {d : Nat} {s : State} : KeepsR s (execImgErase d s) := by
  have hk := Keeps.refl s
  unfold execImgErase
  repeat' first
    | with_reducible assumption | with_reducible apply imgEnd_keeps | with_reducible apply imgRun_keeps
    | with_reducible apply KeepsR.next | exact Eq.refl _ | exact List.length_modify .. | exact List.length_map ..
    | extract_lets | ((fail_if_success (fail_if_success conv => arg 2; arg 42)); with_reducible apply Keeps.same)
    | intro _ | split | dsimp +zetaDelta only

theorem imgSource_keeps {s0 : State} {s : State} {d : Nat} {addr : Nat} {len : Nat} {done : State → List Byte → State} (hk : Keeps s0 s) (hdone : ∀ x0 x1, Keeps s0 x0 → Keeps s0 (done x0 x1)) :
     Keeps s0 (imgSource s d addr len done) := by
  unfold imgSource
  repeat' first
    | with_reducible assumption | with_reducible apply readRange_keeps | with_reducible apply endDesc_keeps
    | with_reducible apply hdone | exact Eq.refl _ | exact List.length_modify .. | exact List.length_map ..
    | extract_lets | ((fail_if_success (fail_if_success conv => arg 2; arg 42)); with_reducible apply Keeps.same)
    | intro _ | split | dsimp +zetaDelta only

theorem execImgWrite_keeps {d : Nat} {s : State} : KeepsR s (execImgWrite d s) := by
  have hk := Keeps.refl s
  unfold execImgWrite
  repeat' first
    | with_reducible assumption | with_reducible apply imgRun_keeps | with_reducible apply imgEnd_keeps
    | with_reducible apply imgSource_keeps | with_reducible apply takeHolds_keeps
    | with_reducible apply descUpd_keeps | with_reducible apply gatherDrop_keeps | with_reducible apply KeepsR.next
    | exact Eq.refl _ | exact List.length_modify .. | exact List.length_map .. | extract_lets
    | ((fail_if_success (fail_if_success conv => arg 2; arg 42)); with_reducible apply Keeps.same) | intro _ | split
    | dsimp +zetaDelta only

theorem verifyEnd_keeps {s0 : State} {s : State} {d : Nat} {reason : Nat} {detail : Nat} (hk : Keeps s0 s) :
     Keeps s0 (verifyEnd s d reason detail) := by
  unfold verifyEnd
  repeat' first
    | with_reducible assumption | with_reducible apply imgEnd_keeps | with_reducible apply setImgState_keeps
    | exact Eq.refl _ | exact List.length_modify .. | exact List.length_map .. | extract_lets
    | ((fail_if_success (fail_if_success conv => arg 2; arg 42)); with_reducible apply Keeps.same) | intro _ | split
    | dsimp +zetaDelta only

theorem verifyStaged_keeps {s0 : State} {s : State} {d : Nat} {b : Nat} {off : Nat} {n : Nat} (hk : Keeps s0 s) :
     Keeps s0 (verifyStaged s d b off n) := by
  unfold verifyStaged
  repeat' first
    | with_reducible assumption | with_reducible apply verifyEnd_keeps | with_reducible apply regPutBits_keeps
    | exact Eq.refl _ | exact List.length_modify .. | exact List.length_map .. | extract_lets
    | ((fail_if_success (fail_if_success conv => arg 2; arg 42)); with_reducible apply Keeps.same) | intro _ | split
    | dsimp +zetaDelta only

theorem execImgVerify_keeps {d : Nat} {s : State} : KeepsR s (execImgVerify d s) := by
  have hk := Keeps.refl s
  unfold execImgVerify
  repeat' first
    | with_reducible assumption | with_reducible apply imgEnd_keeps | with_reducible apply imgRun_keeps
    | with_reducible apply setImgState_keeps | with_reducible apply verifyEnd_keeps
    | with_reducible apply descUpd_keeps | with_reducible apply verifyStaged_keeps
    | with_reducible apply serveNow_keeps | with_reducible apply KeepsR.next | exact Eq.refl _
    | exact List.length_modify .. | exact List.length_map .. | extract_lets
    | ((fail_if_success (fail_if_success conv => arg 2; arg 42)); with_reducible apply Keeps.same) | intro _ | split
    | dsimp +zetaDelta only

theorem startSwitch_keeps {s0 : State} {s : State} {front : Nat} (hk : Keeps s0 s) :
     Keeps s0 (startSwitch s front) := by
  unfold startSwitch
  repeat' first
    | with_reducible assumption | with_reducible apply regPutPair_keeps | with_reducible apply setImgState_keeps
    | with_reducible apply ringSync_keeps | exact Eq.refl _ | exact List.length_modify .. | exact List.length_map ..
    | extract_lets | ((fail_if_success (fail_if_success conv => arg 2; arg 42)); with_reducible apply Keeps.same)
    | intro _ | split | dsimp +zetaDelta only

theorem execImgSchedule_keeps {d : Nat} {s : State} : KeepsR s (execImgSchedule d s) := by
  have hk := Keeps.refl s
  unfold execImgSchedule
  repeat' first
    | with_reducible assumption | with_reducible apply imgRun_keeps | with_reducible apply regPutPair_keeps
    | with_reducible apply imgEnd_keeps | with_reducible apply setImgState_keeps
    | with_reducible apply startSwitch_keeps | with_reducible apply KeepsR.next | exact Eq.refl _
    | exact List.length_modify .. | exact List.length_map .. | extract_lets
    | ((fail_if_success (fail_if_success conv => arg 2; arg 42)); with_reducible apply Keeps.same) | intro _ | split
    | dsimp +zetaDelta only

theorem execSettingsWrite_keeps {d : Nat} {s : State} : KeepsR s (execSettingsWrite d s) := by
  have hk := Keeps.refl s
  unfold execSettingsWrite
  repeat' first
    | with_reducible assumption | with_reducible apply imgSource_keeps | with_reducible apply takeHolds_keeps
    | with_reducible apply imgRun_keeps | with_reducible apply imgEnd_keeps | with_reducible apply gatherDrop_keeps
    | with_reducible apply endDesc_keeps | with_reducible apply noteRefusal_keeps
    | with_reducible apply descUpd_keeps | with_reducible apply KeepsR.next | exact Eq.refl _
    | exact List.length_modify .. | exact List.length_map .. | extract_lets
    | ((fail_if_success (fail_if_success conv => arg 2; arg 42)); with_reducible apply Keeps.same) | intro _ | split
    | dsimp +zetaDelta only

theorem execIdentify_keeps {d : Nat} {s : State} : KeepsR s (execIdentify d s) := by
  have hk := Keeps.refl s
  unfold execIdentify
  repeat' first
    | with_reducible assumption | with_reducible apply imgRun_keeps | with_reducible apply descWriteBy_keeps
    | with_reducible apply unitWrite_keeps | with_reducible apply imgEnd_keeps | with_reducible apply KeepsR.next
    | exact Eq.refl _ | exact List.length_modify .. | exact List.length_map .. | extract_lets
    | ((fail_if_success (fail_if_success conv => arg 2; arg 42)); with_reducible apply Keeps.same) | intro _ | split
    | dsimp +zetaDelta only

theorem execFlashDone_keeps {ok : Bool} {s : State} : KeepsR s (execFlashDone ok s) := by
  have hk := Keeps.refl s
  unfold execFlashDone
  repeat' first
    | with_reducible assumption | with_reducible apply whenLive_keeps | with_reducible apply draw_keeps
    | with_reducible apply norHavoc_keeps | with_reducible apply imgEnd_keeps | with_reducible apply storeBank_keeps
    | with_reducible apply norErase_keeps | with_reducible apply norStore_keeps
    | with_reducible apply storeRecord_keeps | with_reducible apply KeepsR.next | exact Eq.refl _
    | exact List.length_modify .. | exact List.length_map .. | extract_lets
    | ((fail_if_success (fail_if_success conv => arg 2; arg 42)); with_reducible apply Keeps.same) | intro _ | split
    | dsimp +zetaDelta only

theorem deliverFront_keeps {s0 : State} {s : State} {v : Nat} (hk : Keeps s0 s) :
     Keeps s0 (deliverFront s v) := by
  unfold deliverFront
  repeat' first
    | with_reducible assumption | with_reducible apply startSwitch_keeps | with_reducible apply regCount_keeps
    | exact Eq.refl _ | exact List.length_modify .. | exact List.length_map .. | extract_lets
    | ((fail_if_success (fail_if_success conv => arg 2; arg 42)); with_reducible apply Keeps.same) | intro _ | split
    | dsimp +zetaDelta only

theorem resumeFetch_keeps {s0 : State} {s : State} (hk : Keeps s0 s) :
     Keeps s0 (resumeFetch s) := by
  unfold resumeFetch
  repeat' first
    | with_reducible assumption | with_reducible apply attnRom_keeps | with_reducible apply ringSync_keeps
    | with_reducible apply freeBarriers_keeps | exact Eq.refl _ | exact List.length_modify ..
    | exact List.length_map .. | extract_lets
    | ((fail_if_success (fail_if_success conv => arg 2; arg 42)); with_reducible apply Keeps.same) | intro _ | split
    | dsimp +zetaDelta only

theorem switchFails_keeps {s0 : State} {s : State} (hk : Keeps s0 s) :
     Keeps s0 (switchFails s) := by
  unfold switchFails
  repeat' first
    | with_reducible assumption | with_reducible apply resumeFetch_keeps | with_reducible apply regPutBits_keeps
    | with_reducible apply setImgState_keeps | exact Eq.refl _ | exact List.length_modify ..
    | exact List.length_map .. | extract_lets
    | ((fail_if_success (fail_if_success conv => arg 2; arg 42)); with_reducible apply Keeps.same) | intro _ | split
    | dsimp +zetaDelta only

theorem switchSteps_keeps {s0 : State} {s : State} (hk : Keeps s0 s) :
     Keeps s0 (switchSteps s) := by
  unfold switchSteps
  repeat' first
    | with_reducible assumption | with_reducible apply resumeFetch_keeps | with_reducible apply setImgState_keeps
    | with_reducible apply settleRange_keeps | with_reducible apply wakeBanks_keeps
    | with_reducible apply switchFails_keeps | with_reducible apply noteRefusal_keeps
    | with_reducible apply storeBank_keeps | with_reducible apply loadParts_keeps
    | with_reducible apply regPutPair_keeps | with_reducible apply startBank_keeps | exact Eq.refl _
    | exact List.length_modify .. | exact List.length_map .. | extract_lets
    | ((fail_if_success (fail_if_success conv => arg 2; arg 42)); with_reducible apply Keeps.same) | intro _ | split
    | dsimp +zetaDelta only

theorem revertSteps_keeps {s0 : State} {s : State} (hk : Keeps s0 s) :
     Keeps s0 (revertSteps s) := by
  unfold revertSteps
  repeat' first
    | with_reducible assumption | with_reducible apply noteRefusal_keeps | with_reducible apply storeBank_keeps
    | with_reducible apply setImgState_keeps | with_reducible apply resumeFetch_keeps
    | with_reducible apply startBank_keeps | with_reducible apply loadParts_keeps
    | with_reducible apply toRecovery_keeps | exact Eq.refl _ | exact List.length_modify ..
    | exact List.length_map .. | extract_lets
    | ((fail_if_success (fail_if_success conv => arg 2; arg 42)); with_reducible apply Keeps.same) | intro _ | split
    | dsimp +zetaDelta only

theorem execActivationSwitch_keeps {s : State} : KeepsR s (execActivationSwitch s) := by
  have hk := Keeps.refl s
  unfold execActivationSwitch
  repeat' first
    | with_reducible assumption | with_reducible apply whenLive_keeps | with_reducible apply switchSteps_keeps
    | with_reducible apply revertSteps_keeps | with_reducible apply KeepsR.next | exact Eq.refl _
    | exact List.length_modify .. | exact List.length_map .. | extract_lets
    | ((fail_if_success (fail_if_success conv => arg 2; arg 42)); with_reducible apply Keeps.same) | intro _ | split
    | dsimp +zetaDelta only

theorem execDrainLimit_keeps {s : State} : KeepsR s (execDrainLimit s) := by
  have hk := Keeps.refl s
  unfold execDrainLimit
  repeat' first
    | with_reducible assumption | with_reducible apply whenLive_keeps | with_reducible apply endLaunch_keeps
    | with_reducible apply foldl_keeps | with_reducible apply foldl_keeps_fst | with_reducible apply foldl_keeps_snd
    | with_reducible apply KeepsR.next | exact Eq.refl _ | exact List.length_modify .. | exact List.length_map ..
    | extract_lets | ((fail_if_success (fail_if_success conv => arg 2; arg 42)); with_reducible apply Keeps.same)
    | ((fail_if_success (fail_if_success conv => arg 2; arg 42)); with_reducible apply Keeps.tick)
    | exact Nat.le_max_left .. | exact Nat.le_add_right .. | omega | intro _ | split | dsimp +zetaDelta only

theorem confirmTrial_keeps {s0 : State} {s : State} (hk : Keeps s0 s) :
     Keeps s0 (confirmTrial s) := by
  unfold confirmTrial
  repeat' first
    | with_reducible assumption | with_reducible apply setImgState_keeps | with_reducible apply storeBank_keeps
    | exact Eq.refl _ | exact List.length_modify .. | exact List.length_map .. | extract_lets
    | ((fail_if_success (fail_if_success conv => arg 2; arg 42)); with_reducible apply Keeps.same) | intro _ | split
    | dsimp +zetaDelta only

theorem startRevert_keeps {s0 : State} {s : State} (hk : Keeps s0 s) :
     Keeps s0 (startRevert s) := by
  unfold startRevert
  repeat' first
    | with_reducible assumption | with_reducible apply ringSync_keeps | with_reducible apply setImgState_keeps
    | exact Eq.refl _ | exact List.length_modify .. | exact List.length_map .. | extract_lets
    | ((fail_if_success (fail_if_success conv => arg 2; arg 42)); with_reducible apply Keeps.same) | intro _ | split
    | dsimp +zetaDelta only

theorem execConfirmTimeout_keeps {s : State} : KeepsR s (execConfirmTimeout s) := by
  have hk := Keeps.refl s
  unfold execConfirmTimeout
  repeat' first
    | with_reducible assumption | with_reducible apply whenLive_keeps | with_reducible apply startRevert_keeps
    | with_reducible apply KeepsR.next | exact Eq.refl _ | exact List.length_modify .. | exact List.length_map ..
    | extract_lets | ((fail_if_success (fail_if_success conv => arg 2; arg 42)); with_reducible apply Keeps.same)
    | ((fail_if_success (fail_if_success conv => arg 2; arg 42)); with_reducible apply Keeps.tick)
    | exact Nat.le_max_left .. | exact Nat.le_add_right .. | omega | intro _ | split | dsimp +zetaDelta only

theorem fuseStart_keeps {s0 : State} {s : State} {op : Nat} {slot : Nat} (hk : Keeps s0 s) :
     Keeps s0 (fuseStart s op slot) := by
  unfold fuseStart
  repeat' first
    | with_reducible assumption | with_reducible apply settleRange_keeps | with_reducible apply wakeBanks_keeps
    | with_reducible apply noteRefusal_keeps | with_reducible apply regPutBits_keeps | exact Eq.refl _
    | exact List.length_modify .. | exact List.length_map .. | extract_lets
    | ((fail_if_success (fail_if_success conv => arg 2; arg 42)); with_reducible apply Keeps.same) | intro _ | split
    | dsimp +zetaDelta only

/-- The fuse bits of one state lie within those of another. -/
structure FusesLe (f g : Fuses) : Prop where
  programmed : g.programmed ||| f.programmed = g.programmed
  revoked : g.revoked ||| f.revoked = g.revoked
  svn : g.svnBits ||| f.svnBits = g.svnBits

theorem or_keep_self {n : Nat} (x : BitVec n) : x ||| x = x := by simp

theorem or_keep_more {n : Nat} (x y : BitVec n) : x ||| y ||| x = x ||| y := by
  rw [BitVec.or_comm (x ||| y) x, ← BitVec.or_assoc, or_keep_self]

theorem FusesLe.refl (f : Fuses) : FusesLe f f := ⟨or_keep_self _, or_keep_self _, or_keep_self _⟩

theorem fuseEnd_keeps {s u : State} {f : Fuses} {b : Boot} {x y : Nat} (h : Keeps s u) :
    Keeps { s with fuses := f } (regPutBits (regPutBits { u with fuses := f, boot := b } 0x200098 15 15 x) 0x200098 16 16 y) :=
  regPutBits_keeps (regPutBits_keeps ⟨h.1, h.2, rfl, h.4, h.5, h.6,
    fun c => let k := h.canon ⟨c.1, c.2, c.3, c.4, c.5, c.6, c.7, c.8, c.9⟩
      ⟨k.1, k.2, k.3, k.4, k.5, k.6, k.7, k.8, k.9⟩,
    fun c => let k := h.sized ⟨c.1, c.2, c.3, c.4⟩
      ⟨k.1, k.2, k.3, k.4⟩⟩)

/-- What the end of a fuse operation leaves: bits once blown stay blown, and the rest is as `Keeps` says. -/
theorem execFuseProgrammingEnd_keeps {ok : Bool} {s t : State} (e : execFuseProgrammingEnd ok s = .next t) :
    ∃ f, Keeps { s with fuses := f } t ∧ FusesLe s.fuses f := by
  have same : ∃ f, Keeps { s with fuses := f } s ∧ FusesLe s.fuses f := ⟨s.fuses, Keeps.refl s, FusesLe.refl _⟩
  unfold execFuseProgrammingEnd whenLive at e
  by_cases hl : live s = true
  · rw [if_pos hl] at e
    dsimp only at e
    cases ho : s.boot.fuseOp with
    | none => rw [ho] at e; cases e; exact same
    | some p =>
      obtain ⟨op, slot, hash⟩ := p
      rw [ho] at e
      cases e
      have hu : ∀ b : Bool, Keeps s (if b = true then s else (draw s 7).2) := by
        intro b
        split
        · exact Keeps.refl s
        · exact draw_keeps (Keeps.refl s)
      refine ⟨_, fuseEnd_keeps (hu _), ?_⟩
      have hf : ∀ b : Bool, (if b = true then s else (draw s 7).2).fuses = s.fuses := by intro b; split <;> rfl
      rw [hf]
      split
      · exact ⟨or_keep_more _ _, or_keep_self _, or_keep_self _⟩
      · exact ⟨or_keep_self _, or_keep_more _ _, or_keep_self _⟩
      · refine ⟨or_keep_self _, or_keep_self _, ?_⟩
        dsimp only
        split
        · exact or_keep_more _ _
        · exact or_keep_self _
  · rw [if_neg hl] at e; cases e; exact same

theorem execAttnReq_keeps {level : AttnIn} {s : State} : KeepsR s (execAttnReq level s) := by
  have hk := Keeps.refl s
  unfold execAttnReq
  repeat' first
    | with_reducible assumption | with_reducible apply whenLive_keeps | with_reducible apply attnRom_keeps
    | with_reducible apply regPutBits_keeps | with_reducible apply KeepsR.next | exact Eq.refl _
    | exact List.length_modify .. | exact List.length_map .. | extract_lets
    | ((fail_if_success (fail_if_success conv => arg 2; arg 42)); with_reducible apply Keeps.same) | intro _ | split
    | dsimp +zetaDelta only

/-! The operations of Machine/Cle.lean. -/

theorem grpUpd_keeps {s0 : State} {s : State} {g : Nat} {f : ClGroup → ClGroup} (hk : Keeps s0 s) :
     Keeps s0 (grpUpd s g f) := by
  unfold grpUpd
  repeat' first
    | with_reducible assumption | exact Eq.refl _ | exact List.length_modify .. | exact List.length_map ..
    | extract_lets | ((fail_if_success (fail_if_success conv => arg 2; arg 42)); with_reducible apply Keeps.same)
    | intro _ | split | dsimp +zetaDelta only

theorem grpCmdEnd_keeps {s0 : State} {s : State} {reason : Nat} (hk : Keeps s0 s) :
     Keeps s0 (grpCmdEnd s reason) := by
  unfold grpCmdEnd
  repeat' first
    | with_reducible assumption | with_reducible apply regPut_keeps | exact Eq.refl _ | exact List.length_modify ..
    | exact List.length_map .. | extract_lets
    | ((fail_if_success (fail_if_success conv => arg 2; arg 42)); with_reducible apply Keeps.same) | intro _ | split
    | dsimp +zetaDelta only

theorem loadStep_keeps {s0 : State} {s : State} {g : Nat} (hk : Keeps s0 s) :
     Keeps s0 (loadStep s g) := by
  unfold loadStep
  repeat' first
    | with_reducible assumption | with_reducible apply readRange_keeps | with_reducible apply gatherDrop_keeps
    | with_reducible apply grpCmdEnd_keeps | with_reducible apply regPut_keeps | exact Eq.refl _
    | exact List.length_modify .. | exact List.length_map .. | extract_lets
    | ((fail_if_success (fail_if_success conv => arg 2; arg 42)); with_reducible apply Keeps.same) | intro _ | split
    | dsimp +zetaDelta only

theorem grpCmd_keeps {s0 : State} {s : State} {cmd : Nat} {g : Nat} (hk : Keeps s0 s) :
     Keeps s0 (grpCmd s cmd g) := by
  unfold grpCmd
  repeat' first
    | with_reducible assumption | with_reducible apply loadStep_keeps | with_reducible apply grpCmdEnd_keeps
    | exact Eq.refl _ | exact List.length_modify .. | exact List.length_map .. | extract_lets
    | ((fail_if_success (fail_if_success conv => arg 2; arg 42)); with_reducible apply Keeps.same) | intro _ | split
    | dsimp +zetaDelta only

/-! The operations of Machine/Policy.lean. -/

theorem plainWrite_keeps {s0 : State} {s : State} {priv : Bool} {off : Nat} {v : Nat} (hk : Keeps s0 s) :
     Keeps s0 (plainWrite s priv off v) := by
  unfold plainWrite
  repeat' first
    | with_reducible assumption | with_reducible apply regPut_keeps | with_reducible apply bumpGens_keeps
    | exact Eq.refl _ | exact List.length_modify .. | exact List.length_map .. | extract_lets
    | ((fail_if_success (fail_if_success conv => arg 2; arg 42)); with_reducible apply Keeps.same) | intro _ | split
    | dsimp +zetaDelta only

theorem groupCmd_keeps {s0 : State} {s : State} {g : Nat} {v : Nat} (hk : Keeps s0 s) :
     Keeps s0 (groupCmd s g v) := by
  unfold groupCmd
  repeat' first
    | with_reducible assumption | with_reducible apply plainWrite_keeps | with_reducible apply suspendCmd_keeps
    | with_reducible apply resumeCmd_keeps | exact Eq.refl _ | exact List.length_modify .. | exact List.length_map ..
    | extract_lets | ((fail_if_success (fail_if_success conv => arg 2; arg 42)); with_reducible apply Keeps.same)
    | intro _ | split | dsimp +zetaDelta only

theorem stewardParity_keeps {s0 : State} {s : State} (hk : Keeps s0 s) :
     Keeps s0 (stewardParity s) := by
  unfold stewardParity
  repeat' first
    | with_reducible assumption | with_reducible apply raiseErr_keeps | exact Eq.refl _ | exact List.length_modify ..
    | exact List.length_map .. | extract_lets
    | ((fail_if_success (fail_if_success conv => arg 2; arg 42)); with_reducible apply Keeps.same) | intro _ | split
    | dsimp +zetaDelta only

theorem stewardCtl_keeps {s0 : State} {s : State} {g : Nat} {save : Nat} {cmd : Nat} (hk : Keeps s0 s) :
     Keeps s0 (stewardCtl s g save cmd) := by
  unfold stewardCtl
  repeat' first
    | with_reducible assumption | with_reducible apply groupCmd_keeps | with_reducible apply regPutPair_keeps
    | exact Eq.refl _ | exact List.length_modify .. | exact List.length_map .. | extract_lets
    | ((fail_if_success (fail_if_success conv => arg 2; arg 42)); with_reducible apply Keeps.same) | intro _ | split
    | dsimp +zetaDelta only

theorem stewardPreempt_keeps {s0 : State} {s : State} (hk : Keeps s0 s) :
     Keeps s0 (stewardPreempt s) := by
  unfold stewardPreempt
  repeat' first
    | with_reducible assumption | with_reducible apply groupUpd_keeps | with_reducible apply stewardCtl_keeps
    | exact Eq.refl _ | exact List.length_modify .. | exact List.length_map .. | extract_lets
    | ((fail_if_success (fail_if_success conv => arg 2; arg 42)); with_reducible apply Keeps.same) | intro _ | split
    | dsimp +zetaDelta only

theorem stewardResume_keeps {s0 : State} {s : State} {old : Nat} (hk : Keeps s0 s) :
     Keeps s0 (stewardResume s old) := by
  unfold stewardResume
  repeat' first
    | with_reducible assumption | with_reducible apply stewardCtl_keeps | exact Eq.refl _
    | exact List.length_modify .. | exact List.length_map .. | extract_lets
    | ((fail_if_success (fail_if_success conv => arg 2; arg 42)); with_reducible apply Keeps.same) | intro _ | split
    | dsimp +zetaDelta only

theorem stewardAct_keeps {s0 : State} {s : State} (hk : Keeps s0 s) :
     Keeps s0 (stewardAct s) := by
  unfold stewardAct
  repeat' first
    | with_reducible assumption | with_reducible apply whenLive_keeps | with_reducible apply stewardParity_keeps
    | with_reducible apply stewardPreempt_keeps | with_reducible apply stewardResume_keeps
    | with_reducible apply foldl_keeps | with_reducible apply foldl_keeps_fst | with_reducible apply foldl_keeps_snd
    | exact Eq.refl _ | exact List.length_modify .. | exact List.length_map .. | extract_lets
    | ((fail_if_success (fail_if_success conv => arg 2; arg 42)); with_reducible apply Keeps.same) | intro _ | split
    | dsimp +zetaDelta only

theorem groupCtl_keeps {s0 : State} {s : State} {g : Nat} {v : Nat} (hk : Keeps s0 s) :
     Keeps s0 (groupCtl s g v) := by
  unfold groupCtl
  repeat' first
    | with_reducible assumption | with_reducible apply abortCmd_keeps | with_reducible apply plainWrite_keeps
    | with_reducible apply stewardAct_keeps | with_reducible apply groupCmd_keeps | exact Eq.refl _
    | exact List.length_modify .. | exact List.length_map .. | extract_lets
    | ((fail_if_success (fail_if_success conv => arg 2; arg 42)); with_reducible apply Keeps.same) | intro _ | split
    | dsimp +zetaDelta only

theorem suspendEnd_keeps {s0 : State} {s : State} {g : Nat} (hk : Keeps s0 s) :
     Keeps s0 (suspendEnd s g) := by
  unfold suspendEnd
  repeat' first
    | with_reducible assumption | with_reducible apply saveEnd_keeps | with_reducible apply stewardAct_keeps
    | exact Eq.refl _ | exact List.length_modify .. | exact List.length_map .. | extract_lets
    | ((fail_if_success (fail_if_success conv => arg 2; arg 42)); with_reducible apply Keeps.same) | intro _ | split
    | dsimp +zetaDelta only

theorem execSuspendDone_keeps {g : Nat} {s : State} : KeepsR s (execSuspendDone g s) := by
  have hk := Keeps.refl s
  unfold execSuspendDone
  repeat' first
    | with_reducible assumption | with_reducible apply whenLive_keeps | with_reducible apply suspendEnd_keeps
    | with_reducible apply finishFence_keeps | with_reducible apply saveGroup_keeps
    | with_reducible apply foldl_keeps | with_reducible apply foldl_keeps_fst | with_reducible apply foldl_keeps_snd
    | with_reducible apply KeepsR.next | exact Eq.refl _ | exact List.length_modify .. | exact List.length_map ..
    | extract_lets | ((fail_if_success (fail_if_success conv => arg 2; arg 42)); with_reducible apply Keeps.same)
    | intro _ | split | dsimp +zetaDelta only

/-! The operations of Machine/Regs.lean. -/

theorem injectWrite_keeps {s0 : State} {s : State} {v : Nat} (hk : Keeps s0 s) :
     Keeps s0 (injectWrite s v) := by
  unfold injectWrite
  repeat' first
    | with_reducible assumption | with_reducible apply regPut_keeps | exact Eq.refl _ | exact List.length_modify ..
    | exact List.length_map .. | extract_lets
    | ((fail_if_success (fail_if_success conv => arg 2; arg 42)); with_reducible apply Keeps.same) | intro _ | split
    | dsimp +zetaDelta only

theorem backCtl_keeps {s0 : State} {s : State} {n : Nat} {v : Nat} (hk : Keeps s0 s) :
     Keeps s0 (backCtl s n v) := by
  unfold backCtl
  repeat' first
    | with_reducible assumption | with_reducible apply regPutBits_keeps | with_reducible apply regPut_keeps
    | exact Eq.refl _ | exact List.length_modify .. | exact List.length_map .. | extract_lets
    | ((fail_if_success (fail_if_success conv => arg 2; arg 42)); with_reducible apply Keeps.same) | intro _ | split
    | dsimp +zetaDelta only

theorem ordCtl_keeps {s0 : State} {s : State} {n : Nat} {v : Nat} (hk : Keeps s0 s) :
     Keeps s0 (ordCtl s n v) := by
  unfold ordCtl
  repeat' first
    | with_reducible assumption | with_reducible apply regPutBits_keeps | with_reducible apply regPut_keeps
    | exact Eq.refl _ | exact List.length_modify .. | exact List.length_map .. | extract_lets
    | ((fail_if_success (fail_if_success conv => arg 2; arg 42)); with_reducible apply Keeps.same) | intro _ | split
    | dsimp +zetaDelta only

theorem evtWrite_keeps {s0 : State} {s : State} {v : Nat} (hk : Keeps s0 s) :
     Keeps s0 (evtWrite s v) := by
  unfold evtWrite
  repeat' first
    | with_reducible assumption | with_reducible apply regPut_keeps | exact Eq.refl _ | exact List.length_modify ..
    | exact List.length_map .. | extract_lets
    | ((fail_if_success (fail_if_success conv => arg 2; arg 42)); with_reducible apply Keeps.same) | intro _ | split
    | dsimp +zetaDelta only

theorem fallbackWrite_keeps {s0 : State} {s : State} {v : Nat} (hk : Keeps s0 s) :
     Keeps s0 (fallbackWrite s v) := by
  unfold fallbackWrite
  repeat' first
    | with_reducible assumption | with_reducible apply plainWrite_keeps | with_reducible apply regPutBits_keeps
    | exact Eq.refl _ | exact List.length_modify .. | exact List.length_map .. | extract_lets
    | ((fail_if_success (fail_if_success conv => arg 2; arg 42)); with_reducible apply Keeps.same) | intro _ | split
    | dsimp +zetaDelta only

theorem lkWrite_keeps {s0 : State} {s : State} {off : Nat} {v : Nat} (hk : Keeps s0 s) :
     KeepsO s0 (lkWrite s off v) := by
  unfold lkWrite
  repeat' first
    | with_reducible assumption | with_reducible apply deliverFront_keeps | with_reducible apply regPut_keeps
    | with_reducible apply confirmTrial_keeps | with_reducible apply startRevert_keeps
    | with_reducible apply fuseStart_keeps | with_reducible apply ringCmd_keeps | with_reducible apply ringSync_keeps
    | with_reducible apply plainWrite_keeps | with_reducible apply injectWrite_keeps
    | with_reducible apply routeFrontCmd_keeps | with_reducible apply bumpGens_keeps
    | with_reducible apply counterSet_keeps | with_reducible apply grpCmd_keeps
    | with_reducible apply vlimitWrite_keeps | with_reducible apply galeTjWrite_keeps
    | with_reducible apply completeEntry_keeps | with_reducible apply setEvent_keeps
    | with_reducible exact KeepsO.none | with_reducible apply KeepsO.some | exact Eq.refl _
    | exact List.length_modify .. | exact List.length_map .. | extract_lets
    | ((fail_if_success (fail_if_success conv => arg 2; arg 42)); with_reducible apply Keeps.same) | intro _ | split
    | dsimp +zetaDelta only

theorem openWrite_keeps {s0 : State} {s : State} {off : Nat} {v : Nat} (hk : Keeps s0 s) :
     KeepsO s0 (openWrite s off v) := by
  unfold openWrite
  repeat' first
    | with_reducible assumption | with_reducible apply plainWrite_keeps | with_reducible apply settleBuckets_keeps
    | with_reducible apply modeWrite_keeps | with_reducible apply capWrite_keeps
    | with_reducible apply fallbackWrite_keeps | with_reducible apply gateWrite_keeps
    | with_reducible apply clearFatal_keeps | with_reducible apply evtWrite_keeps | with_reducible exact KeepsO.none
    | with_reducible apply KeepsO.some | exact Eq.refl _ | exact List.length_modify .. | exact List.length_map ..
    | extract_lets | ((fail_if_success (fail_if_success conv => arg 2; arg 42)); with_reducible apply Keeps.same)
    | intro _ | split | dsimp +zetaDelta only

theorem directWrite_keeps {s0 s : State} {priv : Bool} {off v : Nat} (hk : Keeps s0 s) :
    Keeps s0 (directWrite s priv off v) := by
  have h1 : KeepsO s0 (if lkAccepted s priv off then lkWrite s off v else none) := by
    split
    · exact lkWrite_keeps hk
    · exact KeepsO.none
  unfold directWrite
  split
  · split
    · exact hk
    · exact groupCtl_keeps hk
  · exact backCtl_keeps hk
  · split
    · exact hk
    · exact plainWrite_keeps hk
  · exact ordCtl_keeps hk
  · split
    · exact hk
    · exact plainWrite_keeps hk
  · split
    · exact hk
    · exact plainWrite_keeps hk
  · split
    · exact (openWrite_keeps hk).out _ (by assumption)
    · split
      · exact h1.out _ (by assumption)
      · split
        · exact hk
        · exact plainWrite_keeps hk

theorem capturePut_keeps {s0 s : State} {p : Option Nat} (h : Keeps s0 s) : Keeps s0 (capturePut s p) := by
  cases p with
  | none => exact Keeps.same h rfl rfl rfl
  | some c =>
    exact h.trans ⟨rfl, rfl, rfl, Nat.le_refl _, Nat.le_refl _, Nat.le_refl _,
      fun c => ⟨c.1, c.2, c.3, c.4, mapSet_wf c.5, c.6, c.7, c.8, c.9⟩, fun z => ⟨z.1, z.2, z.3, z.4⟩⟩

theorem directRead_keeps {s0 : State} {s : State} {priv : Bool} {off : Nat} (hk : Keeps s0 s) :
     Keeps s0 (directRead s priv off).2 := by
  unfold directRead
  repeat' first
    | with_reducible assumption | with_reducible apply capturePut_keeps | with_reducible apply raiseCfgParity_keeps
    | with_reducible apply regPut_keeps | exact Eq.refl _ | exact List.length_modify .. | exact List.length_map ..
    | extract_lets | ((fail_if_success (fail_if_success conv => arg 2; arg 42)); with_reducible apply Keeps.same)
    | intro _ | split | dsimp +zetaDelta only

theorem trimPut_keeps {s0 s : State} {w : Nat} {v : Word} (h : Keeps s0 s) :
    Keeps s0 { s with trim := mapSet (fun _ => 0) s.trim w v } :=
  h.trans ⟨rfl, rfl, rfl, Nat.le_refl _, Nat.le_refl _, Nat.le_refl _,
    fun c => ⟨c.1, c.2, c.3, c.4, c.5, c.6, c.7, mapSet_wf c.8, c.9⟩, fun z => ⟨z.1, z.2, z.3, z.4⟩⟩

theorem indWrite_keeps {s0 s : State} {priv : Bool} {space w v : Nat} (h : Keeps s0 s) :
    KeepsO s0 (indWrite s priv space w v) := by
  unfold indWrite
  split
  · exact KeepsO.none
  · have h : Keeps s0 { s with cfgBad := s.cfgBad.erase (indKey space w) } := Keeps.same h rfl rfl rfl
    dsimp only
    split
    · exact KeepsO.some (bumpGens_keeps (ftabPut_keeps h fun c => mapSet_wf c.ftab))
    · exact KeepsO.some (trimPut_keeps h)
    · exact KeepsO.none

theorem indUse_keeps {s0 : State} {s : State} {k : Nat} {user : Nat} (hk : Keeps s0 s) :
     Keeps s0 (indUse s k user) := by
  unfold indUse
  repeat' first
    | with_reducible assumption | exact Eq.refl _ | exact List.length_modify .. | exact List.length_map ..
    | extract_lets | ((fail_if_success (fail_if_success conv => arg 2; arg 42)); with_reducible apply Keeps.same)
    | intro _ | split | dsimp +zetaDelta only

theorem indWord_keeps {s0 : State} {s : State} {k : Nat} {user : Nat} (hk : Keeps s0 s) :
     Keeps s0 (indWord s k user).2 := by
  unfold indWord
  repeat' first
    | with_reducible assumption | with_reducible apply draw_keeps | with_reducible apply indUse_keeps
    | exact Eq.refl _ | exact List.length_modify .. | exact List.length_map .. | extract_lets
    | ((fail_if_success (fail_if_success conv => arg 2; arg 42)); with_reducible apply Keeps.same) | intro _ | split
    | dsimp +zetaDelta only

theorem indAccess_keeps {s0 : State} {s : State} {priv : Bool} {k : Nat} {user : Nat} {inc : Bool} {wr : Option Nat} (hk : Keeps s0 s) :
     Keeps s0 (indAccess s priv k user inc wr).2 := by
  unfold indAccess
  repeat' first
    | with_reducible assumption | with_reducible apply indWord_keeps | with_reducible apply raiseCfgParity_keeps
    | refine (indWrite_keeps ?_).out _ (by assumption) | with_reducible apply indWrite_keeps
    | with_reducible apply regPut_keeps | with_reducible apply regPutBits_keeps | exact Eq.refl _
    | exact List.length_modify .. | exact List.length_map .. | extract_lets
    | ((fail_if_success (fail_if_success conv => arg 2; arg 42)); with_reducible apply Keeps.same) | intro _ | split
    | dsimp +zetaDelta only

theorem regWrite_keeps {s0 : State} {s : State} {priv : Bool} {user : Nat} {off : Nat} {v : Nat} (hk : Keeps s0 s) :
     Keeps s0 (regWrite s priv user off v) := by
  unfold regWrite
  repeat' first
    | with_reducible assumption | with_reducible apply indAccess_keeps | with_reducible apply directWrite_keeps
    | with_reducible apply indUse_keeps | exact Eq.refl _ | exact List.length_modify .. | exact List.length_map ..
    | extract_lets | ((fail_if_success (fail_if_success conv => arg 2; arg 42)); with_reducible apply Keeps.same)
    | intro _ | split | dsimp +zetaDelta only

theorem regRead_keeps {s0 : State} {s : State} {priv : Bool} {user : Nat} {off : Nat} {len : Nat} (hk : Keeps s0 s) :
     Keeps s0 (regRead s priv user off len).2 := by
  unfold regRead
  repeat' first
    | with_reducible assumption | with_reducible apply indAccess_keeps | with_reducible apply directRead_keeps
    | exact Eq.refl _ | exact List.length_modify .. | exact List.length_map .. | extract_lets
    | ((fail_if_success (fail_if_success conv => arg 2; arg 42)); with_reducible apply Keeps.same) | intro _ | split
    | dsimp +zetaDelta only

theorem masterDo_keeps {s0 : State} {s : State} {m : Master} {a : Access} {f : State → Bool → State} (hk : Keeps s0 s) (hf : ∀ x0 x1, Keeps s0 x0 → Keeps s0 (f x0 x1)) :
     Keeps s0 (masterDo s m a f) := by
  unfold masterDo
  repeat' first
    | with_reducible assumption | with_reducible apply stewardParity_keeps | with_reducible apply noteRefusal_keeps
    | with_reducible apply hf | exact Eq.refl _ | exact List.length_modify .. | exact List.length_map ..
    | extract_lets | ((fail_if_success (fail_if_success conv => arg 2; arg 42)); with_reducible apply Keeps.same)
    | intro _ | split | dsimp +zetaDelta only

theorem masterWrite_keeps {s0 : State} {s : State} {m : Master} {off : Nat} {v : Nat} (hk : Keeps s0 s) :
     Keeps s0 (masterWrite s m off v) := by
  unfold masterWrite
  repeat' first
    | with_reducible assumption | with_reducible apply masterDo_keeps | with_reducible apply regWrite_keeps
    | exact Eq.refl _ | exact List.length_modify .. | exact List.length_map .. | extract_lets
    | ((fail_if_success (fail_if_success conv => arg 2; arg 42)); with_reducible apply Keeps.same) | intro _ | split
    | dsimp +zetaDelta only

theorem masterRead_keeps {s0 : State} {s : State} {m : Master} {off : Nat} (hk : Keeps s0 s) :
     Keeps s0 (masterRead s m off) := by
  unfold masterRead
  repeat' first
    | with_reducible assumption | with_reducible apply masterDo_keeps | with_reducible apply regRead_keeps
    | exact Eq.refl _ | exact List.length_modify .. | exact List.length_map .. | extract_lets
    | ((fail_if_success (fail_if_success conv => arg 2; arg 42)); with_reducible apply Keeps.same) | intro _ | split
    | dsimp +zetaDelta only

theorem execRegisterWrite_keeps {m : Master} {offset : Nat} {v : Word} {s : State} : KeepsR s (execRegisterWrite m offset v s) := by
  have hk := Keeps.refl s
  unfold execRegisterWrite
  repeat' first
    | with_reducible assumption | with_reducible apply masterWrite_keeps | with_reducible apply KeepsR.next
    | exact Eq.refl _ | exact List.length_modify .. | exact List.length_map .. | extract_lets
    | ((fail_if_success (fail_if_success conv => arg 2; arg 42)); with_reducible apply Keeps.same) | intro _ | split
    | dsimp +zetaDelta only

theorem execReadClear_keeps {m : Master} {offset : Nat} {s : State} : KeepsR s (execReadClear m offset s) := by
  have hk := Keeps.refl s
  unfold execReadClear
  repeat' first
    | with_reducible assumption | with_reducible apply masterRead_keeps | with_reducible apply KeepsR.next
    | exact Eq.refl _ | exact List.length_modify .. | exact List.length_map .. | extract_lets
    | ((fail_if_success (fail_if_success conv => arg 2; arg 42)); with_reducible apply Keeps.same) | intro _ | split
    | dsimp +zetaDelta only

theorem execCapture_keeps {m : Master} {offset : Nat} {s : State} : KeepsR s (execCapture m offset s) := by
  have hk := Keeps.refl s
  unfold execCapture
  repeat' first
    | with_reducible assumption | with_reducible apply masterRead_keeps | with_reducible apply KeepsR.next
    | exact Eq.refl _ | exact List.length_modify .. | exact List.length_map .. | extract_lets
    | ((fail_if_success (fail_if_success conv => arg 2; arg 42)); with_reducible apply Keeps.same) | intro _ | split
    | dsimp +zetaDelta only

theorem execCounterClear_keeps {m : Master} {c : Nat} {s : State} : KeepsR s (execCounterClear m c s) := by
  have hk := Keeps.refl s
  unfold execCounterClear
  repeat' first
    | with_reducible assumption | with_reducible apply masterWrite_keeps | with_reducible apply KeepsR.next
    | exact Eq.refl _ | exact List.length_modify .. | exact List.length_map .. | extract_lets
    | ((fail_if_success (fail_if_success conv => arg 2; arg 42)); with_reducible apply Keeps.same) | intro _ | split
    | dsimp +zetaDelta only

theorem execRouteFront_keeps {m : Master} {s : State} : KeepsR s (execRouteFront m s) := by
  have hk := Keeps.refl s
  unfold execRouteFront
  repeat' first
    | with_reducible assumption | with_reducible apply masterWrite_keeps | with_reducible apply KeepsR.next
    | exact Eq.refl _ | exact List.length_modify .. | exact List.length_map .. | extract_lets
    | ((fail_if_success (fail_if_success conv => arg 2; arg 42)); with_reducible apply Keeps.same) | intro _ | split
    | dsimp +zetaDelta only

theorem execPtmMode_keeps {m : Master} {v : Word} {s : State} : KeepsR s (execPtmMode m v s) := by
  have hk := Keeps.refl s
  unfold execPtmMode
  repeat' first
    | with_reducible assumption | with_reducible apply masterWrite_keeps | with_reducible apply KeepsR.next
    | exact Eq.refl _ | exact List.length_modify .. | exact List.length_map .. | extract_lets
    | ((fail_if_success (fail_if_success conv => arg 2; arg 42)); with_reducible apply Keeps.same) | intro _ | split
    | dsimp +zetaDelta only

theorem execPtmPowerCap_keeps {m : Master} {v : Word} {s : State} : KeepsR s (execPtmPowerCap m v s) := by
  have hk := Keeps.refl s
  unfold execPtmPowerCap
  repeat' first
    | with_reducible assumption | with_reducible apply masterWrite_keeps | with_reducible apply KeepsR.next
    | exact Eq.refl _ | exact List.length_modify .. | exact List.length_map .. | extract_lets
    | ((fail_if_success (fail_if_success conv => arg 2; arg 42)); with_reducible apply Keeps.same) | intro _ | split
    | dsimp +zetaDelta only

theorem execPtmVlimit_keeps {m : Master} {v : Word} {s : State} : KeepsR s (execPtmVlimit m v s) := by
  have hk := Keeps.refl s
  unfold execPtmVlimit
  repeat' first
    | with_reducible assumption | with_reducible apply masterWrite_keeps | with_reducible apply KeepsR.next
    | exact Eq.refl _ | exact List.length_modify .. | exact List.length_map .. | extract_lets
    | ((fail_if_success (fail_if_success conv => arg 2; arg 42)); with_reducible apply Keeps.same) | intro _ | split
    | dsimp +zetaDelta only

theorem execParityArm_keeps {m : Master} {v : Word} {s : State} : KeepsR s (execParityArm m v s) := by
  have hk := Keeps.refl s
  unfold execParityArm
  repeat' first
    | with_reducible assumption | with_reducible apply masterWrite_keeps | with_reducible apply KeepsR.next
    | exact Eq.refl _ | exact List.length_modify .. | exact List.length_map .. | extract_lets
    | ((fail_if_success (fail_if_success conv => arg 2; arg 42)); with_reducible apply Keeps.same) | intro _ | split
    | dsimp +zetaDelta only

theorem execBackValid_keeps {m : Master} {n : Nat} {v : Word} {s : State} : KeepsR s (execBackValid m n v s) := by
  have hk := Keeps.refl s
  unfold execBackValid
  repeat' first
    | with_reducible assumption | with_reducible apply masterWrite_keeps | with_reducible apply KeepsR.next
    | exact Eq.refl _ | exact List.length_modify .. | exact List.length_map .. | extract_lets
    | ((fail_if_success (fail_if_success conv => arg 2; arg 42)); with_reducible apply Keeps.same) | intro _ | split
    | dsimp +zetaDelta only

theorem execOrderedArm_keeps {m : Master} {n : Nat} {v : Word} {s : State} : KeepsR s (execOrderedArm m n v s) := by
  have hk := Keeps.refl s
  unfold execOrderedArm
  repeat' first
    | with_reducible assumption | with_reducible apply masterWrite_keeps | with_reducible apply KeepsR.next
    | exact Eq.refl _ | exact List.length_modify .. | exact List.length_map .. | extract_lets
    | ((fail_if_success (fail_if_success conv => arg 2; arg 42)); with_reducible apply Keeps.same) | intro _ | split
    | dsimp +zetaDelta only

theorem execAbandon_keeps {m : Master} {n : Nat} {v : Word} {s : State} : KeepsR s (execAbandon m n v s) := by
  have hk := Keeps.refl s
  unfold execAbandon
  repeat' first
    | with_reducible assumption | with_reducible apply masterWrite_keeps | with_reducible apply KeepsR.next
    | exact Eq.refl _ | exact List.length_modify .. | exact List.length_map .. | extract_lets
    | ((fail_if_success (fail_if_success conv => arg 2; arg 42)); with_reducible apply Keeps.same) | intro _ | split
    | dsimp +zetaDelta only

theorem execActivationFront_keeps {m : Master} {v : Word} {s : State} : KeepsR s (execActivationFront m v s) := by
  have hk := Keeps.refl s
  unfold execActivationFront
  repeat' first
    | with_reducible assumption | with_reducible apply masterWrite_keeps | with_reducible apply KeepsR.next
    | exact Eq.refl _ | exact List.length_modify .. | exact List.length_map .. | extract_lets
    | ((fail_if_success (fail_if_success conv => arg 2; arg 42)); with_reducible apply Keeps.same) | intro _ | split
    | dsimp +zetaDelta only

theorem execConfirm_keeps {m : Master} {s : State} : KeepsR s (execConfirm m s) := by
  have hk := Keeps.refl s
  unfold execConfirm
  repeat' first
    | with_reducible assumption | with_reducible apply masterWrite_keeps | with_reducible apply KeepsR.next
    | exact Eq.refl _ | exact List.length_modify .. | exact List.length_map .. | extract_lets
    | ((fail_if_success (fail_if_success conv => arg 2; arg 42)); with_reducible apply Keeps.same) | intro _ | split
    | dsimp +zetaDelta only

theorem execRevert_keeps {m : Master} {s : State} : KeepsR s (execRevert m s) := by
  have hk := Keeps.refl s
  unfold execRevert
  repeat' first
    | with_reducible assumption | with_reducible apply masterWrite_keeps | with_reducible apply KeepsR.next
    | exact Eq.refl _ | exact List.length_modify .. | exact List.length_map .. | extract_lets
    | ((fail_if_success (fail_if_success conv => arg 2; arg 42)); with_reducible apply Keeps.same) | intro _ | split
    | dsimp +zetaDelta only

theorem fuseCmd_keeps {s0 : State} {s : State} {m : Master} {op : Nat} {slot : Nat} (hk : Keeps s0 s) :
     Keeps s0 (fuseCmd s m op slot) := by
  unfold fuseCmd
  repeat' first
    | with_reducible assumption | with_reducible apply masterWrite_keeps | exact Eq.refl _
    | exact List.length_modify .. | exact List.length_map .. | extract_lets
    | ((fail_if_success (fail_if_success conv => arg 2; arg 42)); with_reducible apply Keeps.same) | intro _ | split
    | dsimp +zetaDelta only

theorem execProgramSlot_keeps {m : Master} {slot : Nat} {s : State} : KeepsR s (execProgramSlot m slot s) := by
  have hk := Keeps.refl s
  unfold execProgramSlot
  repeat' first
    | with_reducible assumption | with_reducible apply fuseCmd_keeps | with_reducible apply KeepsR.next
    | exact Eq.refl _ | exact List.length_modify .. | exact List.length_map .. | extract_lets
    | ((fail_if_success (fail_if_success conv => arg 2; arg 42)); with_reducible apply Keeps.same) | intro _ | split
    | dsimp +zetaDelta only

theorem execRevokeSlot_keeps {m : Master} {slot : Nat} {s : State} : KeepsR s (execRevokeSlot m slot s) := by
  have hk := Keeps.refl s
  unfold execRevokeSlot
  repeat' first
    | with_reducible assumption | with_reducible apply fuseCmd_keeps | with_reducible apply KeepsR.next
    | exact Eq.refl _ | exact List.length_modify .. | exact List.length_map .. | extract_lets
    | ((fail_if_success (fail_if_success conv => arg 2; arg 42)); with_reducible apply Keeps.same) | intro _ | split
    | dsimp +zetaDelta only

theorem execSvnAdvance_keeps {m : Master} {s : State} : KeepsR s (execSvnAdvance m s) := by
  have hk := Keeps.refl s
  unfold execSvnAdvance
  repeat' first
    | with_reducible assumption | with_reducible apply fuseCmd_keeps | with_reducible apply KeepsR.next
    | exact Eq.refl _ | exact List.length_modify .. | exact List.length_map .. | extract_lets
    | ((fail_if_success (fail_if_success conv => arg 2; arg 42)); with_reducible apply Keeps.same) | intro _ | split
    | dsimp +zetaDelta only

theorem execErrDone_keeps {m : Master} {index : Nat} {s : State} : KeepsR s (execErrDone m index s) := by
  have hk := Keeps.refl s
  unfold execErrDone
  repeat' first
    | with_reducible assumption | with_reducible apply masterWrite_keeps | with_reducible apply KeepsR.next
    | exact Eq.refl _ | exact List.length_modify .. | exact List.length_map .. | extract_lets
    | ((fail_if_success (fail_if_success conv => arg 2; arg 42)); with_reducible apply Keeps.same) | intro _ | split
    | dsimp +zetaDelta only

theorem execEvtSw_keeps {m : Master} {s : State} : KeepsR s (execEvtSw m s) := by
  have hk := Keeps.refl s
  unfold execEvtSw
  repeat' first
    | with_reducible assumption | with_reducible apply masterWrite_keeps | with_reducible apply KeepsR.next
    | exact Eq.refl _ | exact List.length_modify .. | exact List.length_map .. | extract_lets
    | ((fail_if_success (fail_if_success conv => arg 2; arg 42)); with_reducible apply Keeps.same) | intro _ | split
    | dsimp +zetaDelta only

theorem execFatalClear_keeps {m : Master} {s : State} : KeepsR s (execFatalClear m s) := by
  have hk := Keeps.refl s
  unfold execFatalClear
  repeat' first
    | with_reducible assumption | with_reducible apply masterWrite_keeps | with_reducible apply KeepsR.next
    | exact Eq.refl _ | exact List.length_modify .. | exact List.length_map .. | extract_lets
    | ((fail_if_success (fail_if_success conv => arg 2; arg 42)); with_reducible apply Keeps.same) | intro _ | split
    | dsimp +zetaDelta only

theorem indCmd_keeps {s0 : State} {s : State} {m : Master} {off : Nat} {wr : Option Word} (hk : Keeps s0 s) :
     Keeps s0 (indCmd s m off wr) := by
  unfold indCmd
  repeat' first
    | with_reducible assumption | with_reducible apply masterWrite_keeps | with_reducible apply masterRead_keeps
    | exact Eq.refl _ | exact List.length_modify .. | exact List.length_map .. | extract_lets
    | ((fail_if_success (fail_if_success conv => arg 2; arg 42)); with_reducible apply Keeps.same) | intro _ | split
    | dsimp +zetaDelta only

theorem execIndData_keeps {m : Master} {pair : Nat} {wr : Option Word} {s : State} : KeepsR s (execIndData m pair wr s) := by
  have hk := Keeps.refl s
  unfold execIndData
  repeat' first
    | with_reducible assumption | with_reducible apply indCmd_keeps | with_reducible apply KeepsR.next
    | exact Eq.refl _ | exact List.length_modify .. | exact List.length_map .. | extract_lets
    | ((fail_if_success (fail_if_success conv => arg 2; arg 42)); with_reducible apply Keeps.same) | intro _ | split
    | dsimp +zetaDelta only

theorem execIndDataNoinc_keeps {m : Master} {pair : Nat} {wr : Option Word} {s : State} : KeepsR s (execIndDataNoinc m pair wr s) := by
  have hk := Keeps.refl s
  unfold execIndDataNoinc
  repeat' first
    | with_reducible assumption | with_reducible apply indCmd_keeps | with_reducible apply KeepsR.next
    | exact Eq.refl _ | exact List.length_modify .. | exact List.length_map .. | extract_lets
    | ((fail_if_success (fail_if_success conv => arg 2; arg 42)); with_reducible apply Keeps.same) | intro _ | split
    | dsimp +zetaDelta only

theorem ringWrite_keeps {s0 : State} {s : State} {m : Master} {cmd : Nat} {ring : Nat} (hk : Keeps s0 s) :
     Keeps s0 (ringWrite s m cmd ring) := by
  unfold ringWrite
  repeat' first
    | with_reducible assumption | with_reducible apply masterWrite_keeps | exact Eq.refl _
    | exact List.length_modify .. | exact List.length_map .. | extract_lets
    | ((fail_if_success (fail_if_success conv => arg 2; arg 42)); with_reducible apply Keeps.same) | intro _ | split
    | dsimp +zetaDelta only

theorem execRingEnable_keeps {m : Master} {ring : Nat} {s : State} : KeepsR s (execRingEnable m ring s) := by
  have hk := Keeps.refl s
  unfold execRingEnable
  repeat' first
    | with_reducible assumption | with_reducible apply stewardNext_keeps | with_reducible apply enableStep_keeps
    | with_reducible apply ringWrite_keeps | with_reducible apply KeepsR.next | exact Eq.refl _
    | exact List.length_modify .. | exact List.length_map .. | extract_lets
    | ((fail_if_success (fail_if_success conv => arg 2; arg 42)); with_reducible apply Keeps.same) | intro _ | split
    | dsimp +zetaDelta only

theorem execRingDisable_keeps {m : Master} {ring : Nat} {s : State} : KeepsR s (execRingDisable m ring s) := by
  have hk := Keeps.refl s
  unfold execRingDisable
  repeat' first
    | with_reducible assumption | with_reducible apply ringWrite_keeps | with_reducible apply KeepsR.next
    | exact Eq.refl _ | exact List.length_modify .. | exact List.length_map .. | extract_lets
    | ((fail_if_success (fail_if_success conv => arg 2; arg 42)); with_reducible apply Keeps.same) | intro _ | split
    | dsimp +zetaDelta only

theorem execRingResume_keeps {m : Master} {ring : Nat} {s : State} : KeepsR s (execRingResume m ring s) := by
  have hk := Keeps.refl s
  unfold execRingResume
  repeat' first
    | with_reducible assumption | with_reducible apply ringWrite_keeps | with_reducible apply KeepsR.next
    | exact Eq.refl _ | exact List.length_modify .. | exact List.length_map .. | extract_lets
    | ((fail_if_success (fail_if_success conv => arg 2; arg 42)); with_reducible apply Keeps.same) | intro _ | split
    | dsimp +zetaDelta only

theorem execRingFlush_keeps {m : Master} {ring : Nat} {s : State} : KeepsR s (execRingFlush m ring s) := by
  have hk := Keeps.refl s
  unfold execRingFlush
  repeat' first
    | with_reducible assumption | with_reducible apply ringWrite_keeps | with_reducible apply KeepsR.next
    | exact Eq.refl _ | exact List.length_modify .. | exact List.length_map .. | extract_lets
    | ((fail_if_success (fail_if_success conv => arg 2; arg 42)); with_reducible apply Keeps.same) | intro _ | split
    | dsimp +zetaDelta only

theorem execLoadGroup_keeps {m : Master} {g : Nat} {s : State} : KeepsR s (execLoadGroup m g s) := by
  have hk := Keeps.refl s
  unfold execLoadGroup
  repeat' first
    | with_reducible assumption | with_reducible apply loadStep_keeps | with_reducible apply masterWrite_keeps
    | with_reducible apply KeepsR.next | exact Eq.refl _ | exact List.length_modify .. | exact List.length_map ..
    | extract_lets | ((fail_if_success (fail_if_success conv => arg 2; arg 42)); with_reducible apply Keeps.same)
    | intro _ | split | dsimp +zetaDelta only

theorem execUnloadGroup_keeps {m : Master} {g : Nat} {s : State} : KeepsR s (execUnloadGroup m g s) := by
  have hk := Keeps.refl s
  unfold execUnloadGroup
  repeat' first
    | with_reducible assumption | with_reducible apply masterWrite_keeps | with_reducible apply KeepsR.next
    | exact Eq.refl _ | exact List.length_modify .. | exact List.length_map .. | extract_lets
    | ((fail_if_success (fail_if_success conv => arg 2; arg 42)); with_reducible apply Keeps.same) | intro _ | split
    | dsimp +zetaDelta only

theorem groupWrite_keeps {s0 : State} {s : State} {m : Master} {g : Nat} {cmd : Nat} (hk : Keeps s0 s) :
     Keeps s0 (groupWrite s m g cmd) := by
  unfold groupWrite
  repeat' first
    | with_reducible assumption | with_reducible apply masterWrite_keeps | exact Eq.refl _
    | exact List.length_modify .. | exact List.length_map .. | extract_lets
    | ((fail_if_success (fail_if_success conv => arg 2; arg 42)); with_reducible apply Keeps.same) | intro _ | split
    | dsimp +zetaDelta only

theorem execSuspendGroup_keeps {m : Master} {g : Nat} {s : State} : KeepsR s (execSuspendGroup m g s) := by
  have hk := Keeps.refl s
  unfold execSuspendGroup
  repeat' first
    | with_reducible assumption | with_reducible apply groupWrite_keeps | with_reducible apply KeepsR.next
    | exact Eq.refl _ | exact List.length_modify .. | exact List.length_map .. | extract_lets
    | ((fail_if_success (fail_if_success conv => arg 2; arg 42)); with_reducible apply Keeps.same) | intro _ | split
    | dsimp +zetaDelta only

theorem execResumeGroup_keeps {m : Master} {g : Nat} {s : State} : KeepsR s (execResumeGroup m g s) := by
  have hk := Keeps.refl s
  unfold execResumeGroup
  repeat' first
    | with_reducible assumption | with_reducible apply resumeStep_keeps | with_reducible apply groupWrite_keeps
    | with_reducible apply KeepsR.next | exact Eq.refl _ | exact List.length_modify .. | exact List.length_map ..
    | extract_lets | ((fail_if_success (fail_if_success conv => arg 2; arg 42)); with_reducible apply Keeps.same)
    | intro _ | split | dsimp +zetaDelta only

theorem execAbortLaunch_keeps {m : Master} {g : Nat} {s : State} : KeepsR s (execAbortLaunch m g s) := by
  have hk := Keeps.refl s
  unfold execAbortLaunch
  repeat' first
    | with_reducible assumption | with_reducible apply groupWrite_keeps | with_reducible apply KeepsR.next
    | exact Eq.refl _ | exact List.length_modify .. | exact List.length_map .. | extract_lets
    | ((fail_if_success (fail_if_success conv => arg 2; arg 42)); with_reducible apply Keeps.same) | intro _ | split
    | dsimp +zetaDelta only

theorem tapUpd_keeps {s0 : State} {s : State} {f : Tap → Tap} (hk : Keeps s0 s) :
     Keeps s0 (tapUpd s f) := by
  unfold tapUpd
  repeat' first
    | with_reducible assumption | exact Eq.refl _ | exact List.length_modify .. | exact List.length_map ..
    | extract_lets | ((fail_if_success (fail_if_success conv => arg 2; arg 42)); with_reducible apply Keeps.same)
    | intro _ | split | dsimp +zetaDelta only

theorem execTrstN_keeps {s : State} : KeepsR s (execTrstN s) := by
  have hk := Keeps.refl s
  unfold execTrstN
  repeat' first
    | with_reducible assumption | with_reducible apply tapUpd_keeps | with_reducible apply KeepsR.next
    | exact Eq.refl _ | exact List.length_modify .. | exact List.length_map .. | extract_lets
    | ((fail_if_success (fail_if_success conv => arg 2; arg 42)); with_reducible apply Keeps.same) | intro _ | split
    | dsimp +zetaDelta only

theorem execIdcode_keeps {s : State} : KeepsR s (execIdcode s) := by
  have hk := Keeps.refl s
  unfold execIdcode
  repeat' first
    | with_reducible assumption | with_reducible apply tapUpd_keeps | with_reducible apply KeepsR.next
    | exact Eq.refl _ | exact List.length_modify .. | exact List.length_map .. | extract_lets
    | ((fail_if_success (fail_if_success conv => arg 2; arg 42)); with_reducible apply Keeps.same) | intro _ | split
    | dsimp +zetaDelta only

theorem execIjtagSel_keeps {segs : BitVec 8} {s : State} : KeepsR s (execIjtagSel segs s) := by
  have hk := Keeps.refl s
  unfold execIjtagSel
  repeat' first
    | with_reducible assumption | with_reducible apply tapUpd_keeps | with_reducible apply KeepsR.next
    | exact Eq.refl _ | exact List.length_modify .. | exact List.length_map .. | extract_lets
    | ((fail_if_success (fail_if_success conv => arg 2; arg 42)); with_reducible apply Keeps.same) | intro _ | split
    | dsimp +zetaDelta only

theorem debugRefuse_keeps {s0 : State} {s : State} {a : Access} {n : Nat} (hk : Keeps s0 s) :
     Keeps s0 (debugRefuse s a n) := by
  unfold debugRefuse
  repeat' first
    | with_reducible assumption | with_reducible apply noteRefusal_keeps | exact Eq.refl _
    | exact List.length_modify .. | exact List.length_map .. | extract_lets
    | ((fail_if_success (fail_if_success conv => arg 2; arg 42)); with_reducible apply Keeps.same) | intro _ | split
    | dsimp +zetaDelta only

theorem debugInside_keeps {s0 : State} {s : State} {a : Access} {off : Nat} {wr : Bool} {data : Word} (hk : Keeps s0 s) :
     Keeps s0 (debugInside s a off wr data) := by
  unfold debugInside
  repeat' first
    | with_reducible assumption | with_reducible apply debugRefuse_keeps | with_reducible apply regWrite_keeps
    | with_reducible apply regRead_keeps | with_reducible apply newId_keeps | with_reducible apply serveNow_keeps
    | exact Eq.refl _ | exact List.length_modify .. | exact List.length_map .. | extract_lets
    | ((fail_if_success (fail_if_success conv => arg 2; arg 42)); with_reducible apply Keeps.same) | intro _ | split
    | dsimp +zetaDelta only

theorem debugAccess_keeps {s0 : State} {s : State} {off : Nat} {wr : Bool} {data : Word} (hk : Keeps s0 s) :
     Keeps s0 (debugAccess s off wr data) := by
  unfold debugAccess
  repeat' first
    | with_reducible assumption | with_reducible apply debugRefuse_keeps | with_reducible apply debugInside_keeps
    | exact Eq.refl _ | exact List.length_modify .. | exact List.length_map .. | extract_lets
    | ((fail_if_success (fail_if_success conv => arg 2; arg 42)); with_reducible apply Keeps.same) | intro _ | split
    | dsimp +zetaDelta only

theorem execRegAccess_keeps {offset : BitVec 40} {wr : Bool} {data : Word} {s : State} : KeepsR s (execRegAccess offset wr data s) := by
  have hk := Keeps.refl s
  unfold execRegAccess
  repeat' first
    | with_reducible assumption | with_reducible apply debugAccess_keeps | with_reducible apply KeepsR.next
    | exact Eq.refl _ | exact List.length_modify .. | exact List.length_map .. | extract_lets
    | ((fail_if_success (fail_if_success conv => arg 2; arg 42)); with_reducible apply Keeps.same) | intro _ | split
    | dsimp +zetaDelta only

theorem execBypass_keeps {scan : TapScan} {s : State} : KeepsR s (execBypass scan s) := by
  have hk := Keeps.refl s
  unfold execBypass
  repeat' first
    | with_reducible assumption | with_reducible apply tapUpd_keeps | with_reducible apply KeepsR.next
    | exact Eq.refl _ | exact List.length_modify .. | exact List.length_map .. | extract_lets
    | ((fail_if_success (fail_if_success conv => arg 2; arg 42)); with_reducible apply Keeps.same) | intro _ | split
    | dsimp +zetaDelta only

/-! The operations of Machine/Access.lean. -/

theorem windowServe_keeps {s0 : State} {s : State} {owner : Option Nat} {a : Access} (hk : Keeps s0 s) :
     Keeps s0 (windowServe s owner a) := by
  unfold windowServe
  repeat' first
    | with_reducible assumption | with_reducible apply serveNow_keeps | with_reducible apply regRead_keeps
    | with_reducible apply deliver_keeps | with_reducible apply regWrite_keeps
    | with_reducible apply applyDoorbell_keeps | exact Eq.refl _ | exact List.length_modify ..
    | exact List.length_map .. | extract_lets
    | ((fail_if_success (fail_if_success conv => arg 2; arg 42)); with_reducible apply Keeps.same) | intro _ | split
    | dsimp +zetaDelta only

theorem arriveFor_keeps {s0 : State} {s : State} {owner : Option Nat} {a : Access} (hk : Keeps s0 s) :
     Keeps s0 (arriveFor s owner a) := by
  unfold arriveFor
  repeat' first
    | with_reducible assumption | with_reducible apply deliver_keeps | with_reducible apply refuseAccess_keeps
    | with_reducible apply windowServe_keeps | exact Eq.refl _ | exact List.length_modify ..
    | exact List.length_map .. | extract_lets
    | ((fail_if_success (fail_if_success conv => arg 2; arg 42)); with_reducible apply Keeps.same) | intro _ | split
    | dsimp +zetaDelta only

theorem arrive_keeps {s0 : State} {s : State} {a : Access} (hk : Keeps s0 s) :
     Keeps s0 (arrive s a) := by
  unfold arrive
  repeat' first
    | with_reducible assumption | with_reducible apply arriveFor_keeps | exact Eq.refl _
    | exact List.length_modify .. | exact List.length_map .. | extract_lets
    | ((fail_if_success (fail_if_success conv => arg 2; arg 42)); with_reducible apply Keeps.same) | intro _ | split
    | dsimp +zetaDelta only

theorem agentServe_keeps {s0 : State} {s : State} {ch : Nat} {tag : Nat} {m : CmpReq} {kind : AccKind} (hk : Keeps s0 s) :
     Keeps s0 (agentServe s ch tag m kind) := by
  unfold agentServe
  repeat' first
    | with_reducible assumption | with_reducible apply chanUpd_keeps | with_reducible apply cmpPump_keeps
    | with_reducible apply arrive_keeps | with_reducible apply KeepsO.getD | exact Eq.refl _
    | exact List.length_modify .. | exact List.length_map .. | extract_lets
    | ((fail_if_success (fail_if_success conv => arg 2; arg 42)); with_reducible apply Keeps.same) | intro _ | split
    | dsimp +zetaDelta only

theorem execCmpRead_keeps {ch : Nat} {tag : Nat} {m : CmpReq} {s : State} : KeepsR s (execCmpRead ch tag m s) := by
  have hk := Keeps.refl s
  unfold execCmpRead
  repeat' first
    | with_reducible assumption | with_reducible apply agentServe_keeps | with_reducible apply KeepsR.next
    | exact Eq.refl _ | exact List.length_modify .. | exact List.length_map .. | extract_lets
    | ((fail_if_success (fail_if_success conv => arg 2; arg 42)); with_reducible apply Keeps.same) | intro _ | split
    | dsimp +zetaDelta only

theorem execCmpWrite_keeps {ch : Nat} {tag : Nat} {m : CmpReq} {s : State} : KeepsR s (execCmpWrite ch tag m s) := by
  have hk := Keeps.refl s
  unfold execCmpWrite
  repeat' first
    | with_reducible assumption | with_reducible apply agentServe_keeps | with_reducible apply KeepsR.next
    | exact Eq.refl _ | exact List.length_modify .. | exact List.length_map .. | extract_lets
    | ((fail_if_success (fail_if_success conv => arg 2; arg 42)); with_reducible apply Keeps.same) | intro _ | split
    | dsimp +zetaDelta only

theorem execCmpAtomic_keeps {ch : Nat} {tag : Nat} {m : CmpReq} {s : State} : KeepsR s (execCmpAtomic ch tag m s) := by
  have hk := Keeps.refl s
  unfold execCmpAtomic
  repeat' first
    | with_reducible assumption | with_reducible apply agentServe_keeps | with_reducible apply KeepsR.next
    | exact Eq.refl _ | exact List.length_modify .. | exact List.length_map .. | extract_lets
    | ((fail_if_success (fail_if_success conv => arg 2; arg 42)); with_reducible apply Keeps.same) | intro _ | split
    | dsimp +zetaDelta only

theorem execCmpAck_keeps {ch : Nat} {tag : Nat} {st : CmpStatus} {s : State} : KeepsR s (execCmpAck ch tag st s) := by
  have hk := Keeps.refl s
  unfold execCmpAck
  repeat' first
    | with_reducible assumption | with_reducible apply stewardNext_keeps | with_reducible apply onChip_keeps
    | with_reducible apply KeepsR.next | exact Eq.refl _ | exact List.length_modify .. | exact List.length_map ..
    | extract_lets | ((fail_if_success (fail_if_success conv => arg 2; arg 42)); with_reducible apply Keeps.same)
    | intro _ | split | dsimp +zetaDelta only

theorem execWritePkt_keeps {port : Nat} {k : Packet} {s : State} : KeepsR s (execWritePkt port k s) := by
  have hk := Keeps.refl s
  unfold execWritePkt
  repeat' first
    | with_reducible assumption | with_reducible apply onPacket_keeps | with_reducible apply arrive_keeps
    | with_reducible apply KeepsR.next | exact Eq.refl _ | exact List.length_modify .. | exact List.length_map ..
    | extract_lets | ((fail_if_success (fail_if_success conv => arg 2; arg 42)); with_reducible apply Keeps.same)
    | intro _ | split | dsimp +zetaDelta only

theorem execReadPkt_keeps {port : Nat} {k : Packet} {s : State} : KeepsR s (execReadPkt port k s) := by
  have hk := Keeps.refl s
  unfold execReadPkt
  repeat' first
    | with_reducible assumption | with_reducible apply onPacket_keeps | with_reducible apply arrive_keeps
    | with_reducible apply KeepsR.next | exact Eq.refl _ | exact List.length_modify .. | exact List.length_map ..
    | extract_lets | ((fail_if_success (fail_if_success conv => arg 2; arg 42)); with_reducible apply Keeps.same)
    | intro _ | split | dsimp +zetaDelta only

theorem execAtomicPkt_keeps {port : Nat} {k : Packet} {s : State} : KeepsR s (execAtomicPkt port k s) := by
  have hk := Keeps.refl s
  unfold execAtomicPkt
  repeat' first
    | with_reducible assumption | with_reducible apply onPacket_keeps | with_reducible apply arrive_keeps
    | with_reducible apply KeepsR.next | exact Eq.refl _ | exact List.length_modify .. | exact List.length_map ..
    | extract_lets | ((fail_if_success (fail_if_success conv => arg 2; arg 42)); with_reducible apply Keeps.same)
    | intro _ | split | dsimp +zetaDelta only

theorem execCount_keeps {port : Nat} {k : Packet} {s : State} : KeepsR s (execCount port k s) := by
  have hk := Keeps.refl s
  unfold execCount
  repeat' first
    | with_reducible assumption | with_reducible apply onPacket_keeps | with_reducible apply answerPacket_keeps
    | with_reducible apply noteRefusal_keeps | with_reducible apply counterAdvance_keeps
    | with_reducible apply KeepsR.next | exact Eq.refl _ | exact List.length_modify .. | exact List.length_map ..
    | extract_lets | ((fail_if_success (fail_if_success conv => arg 2; arg 42)); with_reducible apply Keeps.same)
    | intro _ | split | dsimp +zetaDelta only

theorem execDoorbell_keeps {m : Master} {value : Dword} {s : State} : KeepsR s (execDoorbell m value s) := by
  have hk := Keeps.refl s
  unfold execDoorbell
  repeat' first
    | with_reducible assumption | with_reducible apply masterDo_keeps | with_reducible apply applyDoorbell_keeps
    | with_reducible apply KeepsR.next | exact Eq.refl _ | exact List.length_modify .. | exact List.length_map ..
    | extract_lets | ((fail_if_success (fail_if_success conv => arg 2; arg 42)); with_reducible apply Keeps.same)
    | intro _ | split | dsimp +zetaDelta only

theorem execBankAccess_keeps {bank : Nat} {s : State} : KeepsR s (execBankAccess bank s) := by
  have hk := Keeps.refl s
  unfold execBankAccess
  repeat' first
    | with_reducible assumption | with_reducible apply whenLive_keeps | with_reducible apply serveQueued_keeps
    | with_reducible apply spmServe_keeps | with_reducible apply KeepsR.next | exact Eq.refl _
    | exact List.length_modify .. | exact List.length_map .. | extract_lets
    | ((fail_if_success (fail_if_success conv => arg 2; arg 42)); with_reducible apply Keeps.same) | intro _ | split
    | dsimp +zetaDelta only

theorem pollFail_keeps {s0 : State} {s : State} {block : Nat} {owner : Nat} (hk : Keeps s0 s) :
     Keeps s0 (pollFail s block owner) := by
  unfold pollFail
  repeat' first
    | with_reducible assumption | with_reducible apply newId_keeps | exact Eq.refl _ | exact List.length_modify ..
    | exact List.length_map .. | extract_lets
    | ((fail_if_success (fail_if_success conv => arg 2; arg 42)); with_reducible apply Keeps.same) | intro _ | split
    | dsimp +zetaDelta only

theorem refetchEnds_keeps {s0 : State} {s : State} {d : Desc} {ok : Bool} (hk : Keeps s0 s) :
     Keeps s0 (refetchEnds s d ok) := by
  unfold refetchEnds
  repeat' first
    | with_reducible assumption | with_reducible apply descUpd_keeps | with_reducible apply endDesc_keeps
    | exact Eq.refl _ | exact List.length_modify .. | exact List.length_map .. | extract_lets
    | ((fail_if_success (fail_if_success conv => arg 2; arg 42)); with_reducible apply Keeps.same) | intro _ | split
    | dsimp +zetaDelta only

theorem execRefetch_keeps {block : Nat} {s : State} : KeepsR s (execRefetch block s) := by
  have hk := Keeps.refl s
  unfold execRefetch
  repeat' first
    | with_reducible assumption | with_reducible apply whenLive_keeps | with_reducible apply spmHavoc_keeps
    | with_reducible apply spmStore_keeps | with_reducible apply wakeBanks_keeps
    | with_reducible apply regPutBits_keeps | with_reducible apply raiseErr_keeps
    | with_reducible apply refetchEnds_keeps | with_reducible apply pollFail_keeps
    | with_reducible apply routeRefetched_keeps | with_reducible apply stewardNext_keeps
    | with_reducible apply spmServe_keeps | with_reducible apply foldl_keeps | with_reducible apply foldl_keeps_fst
    | with_reducible apply foldl_keeps_snd | with_reducible apply KeepsO.getD | with_reducible apply KeepsR.next
    | exact Eq.refl _ | exact List.length_modify .. | exact List.length_map .. | extract_lets
    | ((fail_if_success (fail_if_success conv => arg 2; arg 42)); with_reducible apply Keeps.same) | intro _ | split
    | dsimp +zetaDelta only

theorem foldBytes_keeps {s0 : State} {s : State} {n : Nat} {r : OrdRound} (hk : Keeps s0 s) :
     Keeps s0 (foldBytes s n r).2 := by
  unfold foldBytes
  repeat' first
    | with_reducible assumption | with_reducible apply drawBytes_keeps | exact Eq.refl _
    | exact List.length_modify .. | exact List.length_map .. | extract_lets
    | ((fail_if_success (fail_if_success conv => arg 2; arg 42)); with_reducible apply Keeps.same) | intro _ | split
    | dsimp +zetaDelta only

theorem execFold_keeps {n : Nat} {s : State} : KeepsR s (execFold n s) := by
  have hk := Keeps.refl s
  unfold execFold
  repeat' first
    | with_reducible assumption | with_reducible apply whenLive_keeps | with_reducible apply pollRefetch_keeps
    | with_reducible apply wakeBanks_keeps | with_reducible apply gatherDrop_keeps
    | with_reducible apply foldBytes_keeps | with_reducible apply storeRuns_keeps
    | with_reducible apply foldEnd_keeps | with_reducible apply KeepsR.next | exact Eq.refl _
    | exact List.length_modify .. | exact List.length_map .. | extract_lets
    | ((fail_if_success (fail_if_success conv => arg 2; arg 42)); with_reducible apply Keeps.same) | intro _ | split
    | dsimp +zetaDelta only

theorem windowWrite_keeps {s0 : State} {s : State} {owner : Option Nat} {a : Access} (hk : Keeps s0 s) :
     Keeps s0 (windowWrite s owner a) := by
  unfold windowWrite
  repeat' first
    | with_reducible assumption | with_reducible apply refuseAccess_keeps | with_reducible apply windowServe_keeps
    | exact Eq.refl _ | exact List.length_modify .. | exact List.length_map .. | extract_lets
    | ((fail_if_success (fail_if_success conv => arg 2; arg 42)); with_reducible apply Keeps.same) | intro _ | split
    | dsimp +zetaDelta only

theorem descWrite_keeps {s0 : State} {s : State} {d : Nat} {a : Access} (hk : Keeps s0 s) :
     Keeps s0 (descWrite s d a) := by
  unfold descWrite
  repeat' first
    | with_reducible assumption | with_reducible apply descWriteBy_keeps | with_reducible apply windowWrite_keeps
    | exact Eq.refl _ | exact List.length_modify .. | exact List.length_map .. | extract_lets
    | ((fail_if_success (fail_if_success conv => arg 2; arg 42)); with_reducible apply Keeps.same) | intro _ | split
    | dsimp +zetaDelta only

/-! The operations of Machine/Wires.lean. -/

/-! The operations of Machine/Coll.lean. -/

theorem readMembers_keeps {s0 s : State} {owner table : Nat} {l : List Nat} (h : Keeps s0 s) :
    Keeps s0 (readMembers s owner table l).1 := by
  induction l generalizing s with
  | nil => exact h
  | cons m ms ih =>
    have h1 := readRange_keeps (owner := owner) (addr := table + 4 * m) (len := 4) h
    unfold readMembers
    extract_lets r x
    have hx : Keeps s0 x.1 := ih h1
    have h1 : Keeps s0 r.1 := h1
    clear_value x r
    split
    · split
      · exact hx
      · exact hx
    · exact h1

theorem freshen_keeps {s0 : State} {s : State} {written : List (Nat × Nat)} {off : Nat} {bs : List Byte} (hk : Keeps s0 s) :
     Keeps s0 (freshen s written off bs).2 := by
  unfold freshen
  repeat' first
    | with_reducible assumption | with_reducible apply drawBytes_keeps | with_reducible apply KeepsO.getD
    | exact Eq.refl _ | exact List.length_modify .. | exact List.length_map .. | extract_lets
    | ((fail_if_success (fail_if_success conv => arg 2; arg 42)); with_reducible apply Keeps.same) | intro _ | split
    | dsimp +zetaDelta only

theorem clDone_keeps {s0 : State} {s : State} {d : Nat} (hk : Keeps s0 s) :
     Keeps s0 (clDone s d) := by
  unfold clDone
  repeat' first
    | with_reducible assumption | with_reducible apply spmHavoc_keeps | with_reducible apply clForget_keeps
    | with_reducible apply descUpd_keeps | with_reducible apply clUpd_keeps | with_reducible apply clLast_keeps
    | with_reducible apply grpUpd_keeps | with_reducible apply clAftermath_keeps | with_reducible apply endDesc_keeps
    | with_reducible apply foldl_keeps | with_reducible apply foldl_keeps_fst | with_reducible apply foldl_keeps_snd
    | exact Eq.refl _ | exact List.length_modify .. | exact List.length_map .. | extract_lets
    | ((fail_if_success (fail_if_success conv => arg 2; arg 42)); with_reducible apply Keeps.same) | intro _ | split
    | dsimp +zetaDelta only

theorem clClear_keeps {s0 : State} {s : State} {x : Desc} (hk : Keeps s0 s) :
     Keeps s0 (clClear s x) := by
  unfold clClear
  repeat' first
    | with_reducible assumption | with_reducible apply clCtl_keeps | with_reducible apply clUpd_keeps
    | with_reducible apply foldl_keeps | with_reducible apply foldl_keeps_fst | with_reducible apply foldl_keeps_snd
    | exact Eq.refl _ | exact List.length_modify .. | exact List.length_map .. | extract_lets
    | ((fail_if_success (fail_if_success conv => arg 2; arg 42)); with_reducible apply Keeps.same) | intro _ | split
    | dsimp +zetaDelta only

theorem clSign_keeps {s0 : State} {s : State} {x : Desc} {r : ClRun} (hk : Keeps s0 s) :
     Keeps s0 (clSign s x r) := by
  unfold clSign
  repeat' first
    | with_reducible assumption | with_reducible apply clClear_keeps | with_reducible apply clFail_keeps
    | with_reducible apply clTell_keeps | with_reducible apply clUpd_keeps | with_reducible apply clSend_keeps
    | with_reducible apply KeepsO.getD | exact Eq.refl _ | exact List.length_modify .. | exact List.length_map ..
    | extract_lets | ((fail_if_success (fail_if_success conv => arg 2; arg 42)); with_reducible apply Keeps.same)
    | intro _ | split | dsimp +zetaDelta only

theorem clSource_keeps {s0 : State} {s : State} {x : Desc} {first : Nat} {n : Nat} (hk : Keeps s0 s) :
     Keeps s0 (clSource s x first n).1 := by
  unfold clSource
  repeat' first
    | with_reducible assumption | with_reducible apply readRange_keeps | with_reducible apply freshen_keeps
    | exact Eq.refl _ | exact List.length_modify .. | exact List.length_map .. | extract_lets
    | ((fail_if_success (fail_if_success conv => arg 2; arg 42)); with_reducible apply Keeps.same) | intro _ | split
    | dsimp +zetaDelta only

theorem clReadFails_keeps {s0 : State} {s : State} {d : Nat} {addr : Nat} {r : Rd} (hk : Keeps s0 s) :
     Keeps s0 (clReadFails s d addr r) := by
  unfold clReadFails
  repeat' first
    | with_reducible assumption | with_reducible apply clFail_keeps | exact Eq.refl _ | exact List.length_modify ..
    | exact List.length_map .. | extract_lets
    | ((fail_if_success (fail_if_success conv => arg 2; arg 42)); with_reducible apply Keeps.same) | intro _ | split
    | dsimp +zetaDelta only

theorem clResult_keeps {s0 : State} {s : State} {d : Nat} {first : Nat} {bs : List Byte} (hk : Keeps s0 s) :
     Keeps s0 (clResult s d first bs) := by
  unfold clResult
  repeat' first
    | with_reducible assumption | with_reducible apply clData_keeps | with_reducible apply clUpd_keeps
    | with_reducible apply descUpd_keeps | with_reducible apply descWrite_keeps | with_reducible apply foldl_keeps
    | with_reducible apply foldl_keeps_fst | with_reducible apply foldl_keeps_snd | exact Eq.refl _
    | exact List.length_modify .. | exact List.length_map .. | extract_lets
    | ((fail_if_success (fail_if_success conv => arg 2; arg 42)); with_reducible apply Keeps.same) | intro _ | split
    | dsimp +zetaDelta only

theorem clChunkStep_keeps {s0 : State} {s : State} {d : Nat} {first : Nat} (hk : Keeps s0 s) :
     Keeps s0 (clChunkStep s d first) := by
  unfold clChunkStep
  repeat' first
    | with_reducible assumption | with_reducible apply clSource_keeps | with_reducible apply clUpd_keeps
    | with_reducible apply clData_keeps | with_reducible apply clCtl_keeps | with_reducible apply clFail_keeps
    | with_reducible apply clResult_keeps | with_reducible apply clReadFails_keeps | with_reducible apply foldl_keeps
    | with_reducible apply foldl_keeps_fst | with_reducible apply foldl_keeps_snd | exact Eq.refl _
    | exact List.length_modify .. | exact List.length_map .. | extract_lets
    | ((fail_if_success (fail_if_success conv => arg 2; arg 42)); with_reducible apply Keeps.same) | intro _ | split
    | dsimp +zetaDelta only

theorem clTreeStep_keeps {s0 : State} {s : State} {d : Nat} (hk : Keeps s0 s) :
     Keeps s0 (clTreeStep s d) := by
  unfold clTreeStep
  repeat' first
    | with_reducible assumption | with_reducible apply clChunkStep_keeps | with_reducible apply clDone_keeps
    | with_reducible apply foldl_keeps | with_reducible apply foldl_keeps_fst | with_reducible apply foldl_keeps_snd
    | exact Eq.refl _ | exact List.length_modify .. | exact List.length_map .. | extract_lets
    | ((fail_if_success (fail_if_success conv => arg 2; arg 42)); with_reducible apply Keeps.same) | intro _ | split
    | dsimp +zetaDelta only

theorem clWriteTo_keeps {s0 : State} {s : State} {x : Desc} {m : Nat} {dest : Nat} {off : Nat} {counter : Option Nat} {bs : List Byte} (hk : Keeps s0 s) :
     Keeps s0 (clWriteTo s x m dest off counter bs) := by
  unfold clWriteTo
  repeat' first
    | with_reducible assumption | with_reducible apply descUpd_keeps | with_reducible apply fepQueue_keeps
    | with_reducible apply deliver_keeps | with_reducible apply foldl_keeps | with_reducible apply foldl_keeps_fst
    | with_reducible apply foldl_keeps_snd | with_reducible apply KeepsO.getD | exact Eq.refl _
    | exact List.length_modify .. | exact List.length_map .. | extract_lets
    | ((fail_if_success (fail_if_success conv => arg 2; arg 42)); with_reducible apply Keeps.same) | intro _ | split
    | dsimp +zetaDelta only

theorem clHeaderTo_keeps {s0 : State} {s : State} {x : Desc} {m : Nat} {dest : Nat} {length : Nat} (hk : Keeps s0 s) :
     Keeps s0 (clHeaderTo s x m dest length) := by
  unfold clHeaderTo
  repeat' first
    | with_reducible assumption | with_reducible apply descUpd_keeps | with_reducible apply fepQueue_keeps
    | with_reducible apply deliver_keeps | exact Eq.refl _ | exact List.length_modify .. | exact List.length_map ..
    | extract_lets | ((fail_if_success (fail_if_success conv => arg 2; arg 42)); with_reducible apply Keeps.same)
    | intro _ | split | dsimp +zetaDelta only

theorem slotCheck_keeps {s0 : State} {s : State} {d : Nat} {m : Nat} (hk : Keeps s0 s) :
     Keeps s0 (slotCheck s d m) := by
  unfold slotCheck
  repeat' first
    | with_reducible assumption | with_reducible apply clUpd_keeps | with_reducible apply descWrite_keeps
    | with_reducible apply KeepsO.getD | exact Eq.refl _ | exact List.length_modify .. | exact List.length_map ..
    | extract_lets | ((fail_if_success (fail_if_success conv => arg 2; arg 42)); with_reducible apply Keeps.same)
    | intro _ | split | dsimp +zetaDelta only

theorem slotHeader_keeps {s0 : State} {s : State} {d : Nat} {m : Nat} {len : Nat} (hk : Keeps s0 s) :
     Keeps s0 (slotHeader s d m len) := by
  unfold slotHeader
  repeat' first
    | with_reducible assumption | with_reducible apply slotCheck_keeps | with_reducible apply clUpd_keeps
    | exact Eq.refl _ | exact List.length_modify .. | exact List.length_map .. | extract_lets
    | ((fail_if_success (fail_if_success conv => arg 2; arg 42)); with_reducible apply Keeps.same) | intro _ | split
    | dsimp +zetaDelta only

theorem slotBytes_keeps {s0 : State} {s : State} {d : Nat} {m : Nat} {n : Nat} (hk : Keeps s0 s) :
     Keeps s0 (slotBytes s d m n) := by
  unfold slotBytes
  repeat' first
    | with_reducible assumption | with_reducible apply slotCheck_keeps | with_reducible apply clUpd_keeps
    | with_reducible apply KeepsO.getD | exact Eq.refl _ | exact List.length_modify .. | exact List.length_map ..
    | extract_lets | ((fail_if_success (fail_if_success conv => arg 2; arg 42)); with_reducible apply Keeps.same)
    | intro _ | split | dsimp +zetaDelta only

theorem clSpread_keeps {s0 : State} {s : State} {x : Desc} (hk : Keeps s0 s) :
     Keeps s0 (clSpread s x) := by
  unfold clSpread
  repeat' first
    | with_reducible assumption | with_reducible apply clUpd_keeps | with_reducible apply clSource_keeps
    | with_reducible apply clWriteTo_keeps | with_reducible apply descUpd_keeps
    | with_reducible apply unitWrite_keeps | with_reducible apply clReadFails_keeps
    | with_reducible apply foldl_keeps | with_reducible apply foldl_keeps_fst | with_reducible apply foldl_keeps_snd
    | exact Eq.refl _ | exact List.length_modify .. | exact List.length_map .. | extract_lets
    | ((fail_if_success (fail_if_success conv => arg 2; arg 42)); with_reducible apply Keeps.same) | intro _ | split
    | dsimp +zetaDelta only

theorem clScatter_keeps {s0 : State} {s : State} {x : Desc} (hk : Keeps s0 s) :
     Keeps s0 (clScatter s x) := by
  unfold clScatter
  repeat' first
    | with_reducible assumption | with_reducible apply readRange_keeps | with_reducible apply freshen_keeps
    | with_reducible apply clFail_keeps | with_reducible apply clUpd_keeps | with_reducible apply slotHeader_keeps
    | with_reducible apply slotBytes_keeps | with_reducible apply descWrite_keeps
    | with_reducible apply clWriteTo_keeps | with_reducible apply clHeaderTo_keeps
    | with_reducible apply clReadFails_keeps | with_reducible apply foldl_keeps
    | with_reducible apply foldl_keeps_fst | with_reducible apply foldl_keeps_snd | with_reducible apply KeepsO.getD
    | exact Eq.refl _ | exact List.length_modify .. | exact List.length_map .. | extract_lets
    | ((fail_if_success (fail_if_success conv => arg 2; arg 42)); with_reducible apply Keeps.same) | intro _ | split
    | dsimp +zetaDelta only

theorem clDirectStep_keeps {s0 : State} {s : State} {d : Nat} (hk : Keeps s0 s) :
     Keeps s0 (clDirectStep s d) := by
  unfold clDirectStep
  repeat' first
    | with_reducible assumption | with_reducible apply clScatter_keeps | with_reducible apply clSpread_keeps
    | with_reducible apply clDone_keeps | exact Eq.refl _ | exact List.length_modify .. | exact List.length_map ..
    | extract_lets | ((fail_if_success (fail_if_success conv => arg 2; arg 42)); with_reducible apply Keeps.same)
    | intro _ | split | dsimp +zetaDelta only

theorem clStep_keeps {s0 : State} {s : State} {d : Nat} (hk : Keeps s0 s) :
     Keeps s0 (clStep s d) := by
  unfold clStep
  repeat' first
    | with_reducible assumption | with_reducible apply clSign_keeps | with_reducible apply clDone_keeps
    | with_reducible apply clTreeStep_keeps | with_reducible apply clDirectStep_keeps | exact Eq.refl _
    | exact List.length_modify .. | exact List.length_map .. | extract_lets
    | ((fail_if_success (fail_if_success conv => arg 2; arg 42)); with_reducible apply Keeps.same) | intro _ | split
    | dsimp +zetaDelta only

theorem clMismatch_keeps {s0 : State} {s : State} {x : Desc} {m : Nat} {level : Nat} (hk : Keeps s0 s) :
     Keeps s0 (clMismatch s x m level) := by
  unfold clMismatch
  repeat' first
    | with_reducible assumption | with_reducible apply clFail_keeps | with_reducible apply clTell_keeps
    | exact Eq.refl _ | exact List.length_modify .. | exact List.length_map .. | extract_lets
    | ((fail_if_success (fail_if_success conv => arg 2; arg 42)); with_reducible apply Keeps.same) | intro _ | split
    | dsimp +zetaDelta only

theorem clHear_keeps {s0 : State} {s : State} {x : Desc} {c : Nat} {level : Nat} {bad : Option Nat} (hk : Keeps s0 s) :
     Keeps s0 (clHear s x c level bad) := by
  unfold clHear
  repeat' first
    | with_reducible assumption | with_reducible apply clUpd_keeps | exact Eq.refl _ | exact List.length_modify ..
    | exact List.length_map .. | extract_lets
    | ((fail_if_success (fail_if_success conv => arg 2; arg 42)); with_reducible apply Keeps.same) | intro _ | split
    | dsimp +zetaDelta only

theorem clTake_keeps {s0 : State} {s : State} {x : Desc} {r : ClRun} {k : Packet} (hk : Keeps s0 s) :
     Keeps s0 (clTake s x r k) := by
  unfold clTake
  repeat' first
    | with_reducible assumption | with_reducible apply clUpd_keeps | with_reducible apply clHear_keeps
    | with_reducible apply clClear_keeps | with_reducible apply clFail_keeps | with_reducible apply clTell_keeps
    | with_reducible apply clMismatch_keeps | with_reducible apply clResult_keeps | with_reducible apply KeepsO.getD
    | exact Eq.refl _ | exact List.length_modify .. | exact List.length_map .. | extract_lets
    | ((fail_if_success (fail_if_success conv => arg 2; arg 42)); with_reducible apply Keeps.same) | intro _ | split
    | dsimp +zetaDelta only

theorem clTakeWrite_keeps {s0 : State} {s : State} {x : Desc} {r : ClRun} {k : Packet} {performed : Bool} (hk : Keeps s0 s) :
     Keeps s0 (clTakeWrite s x r k performed) := by
  unfold clTakeWrite
  repeat' first
    | with_reducible assumption | with_reducible apply clMismatch_keeps | with_reducible apply clUpd_keeps
    | with_reducible apply slotHeader_keeps | with_reducible apply slotBytes_keeps | exact Eq.refl _
    | exact List.length_modify .. | exact List.length_map .. | extract_lets
    | ((fail_if_success (fail_if_success conv => arg 2; arg 42)); with_reducible apply Keeps.same) | intro _ | split
    | dsimp +zetaDelta only

theorem clArrive_keeps {s0 : State} {s : State} {d : Nat} {k : Packet} {performed : Bool} (hk : Keeps s0 s) :
     Keeps s0 (clArrive s d k performed) := by
  unfold clArrive
  repeat' first
    | with_reducible assumption | with_reducible apply clUpd_keeps | with_reducible apply clStep_keeps
    | with_reducible apply clTakeWrite_keeps | with_reducible apply clTake_keeps | exact Eq.refl _
    | exact List.length_modify .. | exact List.length_map .. | extract_lets
    | ((fail_if_success (fail_if_success conv => arg 2; arg 42)); with_reducible apply Keeps.same) | intro _ | split
    | dsimp +zetaDelta only

theorem clHold_keeps {s0 : State} {s : State} {g : ClGroup} {k : Packet} (hk : Keeps s0 s) :
     Keeps s0 (clHold s g k) := by
  unfold clHold
  repeat' first
    | with_reducible assumption | with_reducible apply grpUpd_keeps | exact Eq.refl _ | exact List.length_modify ..
    | exact List.length_map .. | extract_lets
    | ((fail_if_success (fail_if_success conv => arg 2; arg 42)); with_reducible apply Keeps.same) | intro _ | split
    | dsimp +zetaDelta only

theorem clRefuse_keeps {s0 : State} {s : State} {k : Packet} (hk : Keeps s0 s) :
     Keeps s0 (clRefuse s k) := by
  unfold clRefuse
  repeat' first
    | with_reducible assumption | with_reducible apply answerRetry_keeps | with_reducible apply regCount_keeps
    | with_reducible apply claimEntry_keeps | exact Eq.refl _ | exact List.length_modify ..
    | exact List.length_map .. | extract_lets
    | ((fail_if_success (fail_if_success conv => arg 2; arg 42)); with_reducible apply Keeps.same) | intro _ | split
    | dsimp +zetaDelta only

theorem clPacket_keeps {s0 : State} {s : State} {k : Packet} (hk : Keeps s0 s) :
     Keeps s0 (clPacket s k) := by
  unfold clPacket
  repeat' first
    | with_reducible assumption | with_reducible apply claimResv_keeps | with_reducible apply clArrive_keeps
    | with_reducible apply claimEntry_keeps | with_reducible apply clHold_keeps
    | with_reducible apply answerRetry_keeps | with_reducible apply regCount_keeps
    | with_reducible apply clRefuse_keeps | exact Eq.refl _ | exact List.length_modify .. | exact List.length_map ..
    | extract_lets | ((fail_if_success (fail_if_success conv => arg 2; arg 42)); with_reducible apply Keeps.same)
    | intro _ | split | dsimp +zetaDelta only

theorem execCollData_keeps {port : Nat} {k : Packet} {s : State} : KeepsR s (execCollData port k s) := by
  have hk := Keeps.refl s
  unfold execCollData
  repeat' first
    | with_reducible assumption | with_reducible apply onPacket_keeps | with_reducible apply clPacket_keeps
    | with_reducible apply KeepsR.next | exact Eq.refl _ | exact List.length_modify .. | exact List.length_map ..
    | extract_lets | ((fail_if_success (fail_if_success conv => arg 2; arg 42)); with_reducible apply Keeps.same)
    | intro _ | split | dsimp +zetaDelta only

theorem execCollCtl_keeps {port : Nat} {k : Packet} {s : State} : KeepsR s (execCollCtl port k s) := by
  have hk := Keeps.refl s
  unfold execCollCtl
  repeat' first
    | with_reducible assumption | with_reducible apply onPacket_keeps | with_reducible apply clPacket_keeps
    | with_reducible apply KeepsR.next | exact Eq.refl _ | exact List.length_modify .. | exact List.length_map ..
    | extract_lets | ((fail_if_success (fail_if_success conv => arg 2; arg 42)); with_reducible apply Keeps.same)
    | intro _ | split | dsimp +zetaDelta only

theorem collWriteAccess_keeps {s0 : State} {s : State} {port : Nat} {k : Packet} {owner : Option Nat} (hk : Keeps s0 s) :
     Keeps s0 (collWriteAccess s port k owner).1 := by
  unfold collWriteAccess
  repeat' first
    | with_reducible assumption | with_reducible apply answerPacket_keeps | with_reducible apply arriveFor_keeps
    | exact Eq.refl _ | exact List.length_modify .. | exact List.length_map .. | extract_lets
    | ((fail_if_success (fail_if_success conv => arg 2; arg 42)); with_reducible apply Keeps.same) | intro _ | split
    | dsimp +zetaDelta only

theorem execCollWrite_keeps {port : Nat} {k : Packet} {s : State} : KeepsR s (execCollWrite port k s) := by
  have hk := Keeps.refl s
  unfold execCollWrite
  repeat' first
    | with_reducible assumption | with_reducible apply onPacket_keeps | with_reducible apply answerPacket_keeps
    | with_reducible apply noteRefusal_keeps | with_reducible apply claimResv_keeps
    | with_reducible apply collWriteAccess_keeps | with_reducible apply clArrive_keeps
    | with_reducible apply clHold_keeps | with_reducible apply clRefuse_keeps | with_reducible apply regCount_keeps
    | with_reducible apply answerMulticast_keeps | with_reducible apply KeepsR.next | exact Eq.refl _
    | exact List.length_modify .. | exact List.length_map .. | extract_lets
    | ((fail_if_success (fail_if_success conv => arg 2; arg 42)); with_reducible apply Keeps.same) | intro _ | split
    | dsimp +zetaDelta only

theorem clBegin_keeps {s0 : State} {s : State} {d : Nat} (hk : Keeps s0 s) :
     Keeps s0 (clBegin s d) := by
  unfold clBegin
  repeat' first
    | with_reducible assumption | with_reducible apply grpUpd_keeps | with_reducible apply regCount_keeps
    | with_reducible apply descUpd_keeps | with_reducible apply clFail_keeps | with_reducible apply noteRefusal_keeps
    | with_reducible apply spmHavoc_keeps | with_reducible apply clCtl_keeps | with_reducible apply clStep_keeps
    | with_reducible apply clArrive_keeps | with_reducible apply foldl_keeps | with_reducible apply foldl_keeps_fst
    | with_reducible apply foldl_keeps_snd | exact Eq.refl _ | exact List.length_modify .. | exact List.length_map ..
    | extract_lets | ((fail_if_success (fail_if_success conv => arg 2; arg 42)); with_reducible apply Keeps.same)
    | intro _ | split | dsimp +zetaDelta only

theorem execColl_keeps {d : Nat} {s : State} : KeepsR s (execColl d s) := by
  have hk := Keeps.refl s
  unfold execColl
  repeat' first
    | with_reducible assumption | with_reducible apply whenLive_keeps | with_reducible apply clStep_keeps
    | with_reducible apply clBegin_keeps | with_reducible apply takeHolds_keeps | with_reducible apply KeepsR.next
    | exact Eq.refl _ | exact List.length_modify .. | exact List.length_map .. | extract_lets
    | ((fail_if_success (fail_if_success conv => arg 2; arg 42)); with_reducible apply Keeps.same) | intro _ | split
    | dsimp +zetaDelta only

theorem execCollTimeout_keeps {d : Nat} {s : State} : KeepsR s (execCollTimeout d s) := by
  have hk := Keeps.refl s
  unfold execCollTimeout
  repeat' first
    | with_reducible assumption | with_reducible apply whenLive_keeps | with_reducible apply clFail_keeps
    | with_reducible apply KeepsR.next | exact Eq.refl _ | exact List.length_modify .. | exact List.length_map ..
    | extract_lets | ((fail_if_success (fail_if_success conv => arg 2; arg 42)); with_reducible apply Keeps.same)
    | ((fail_if_success (fail_if_success conv => arg 2; arg 42)); with_reducible apply Keeps.tick)
    | exact Nat.le_max_left .. | exact Nat.le_add_right .. | omega | intro _ | split | dsimp +zetaDelta only

theorem execRspTimeout_keeps {tag : Nat} {s : State} : KeepsR s (execRspTimeout tag s) := by
  have hk := Keeps.refl s
  unfold execRspTimeout
  repeat' first
    | with_reducible assumption | with_reducible apply whenLive_keeps | with_reducible apply fepRetryUnrouted_keeps
    | with_reducible apply dropReq_keeps | with_reducible apply endReq_keeps | with_reducible apply regCount_keeps
    | with_reducible apply KeepsR.next | exact Eq.refl _ | exact List.length_modify .. | exact List.length_map ..
    | extract_lets | ((fail_if_success (fail_if_success conv => arg 2; arg 42)); with_reducible apply Keeps.same)
    | ((fail_if_success (fail_if_success conv => arg 2; arg 42)); with_reducible apply Keeps.tick)
    | exact Nat.le_max_left .. | exact Nat.le_add_right .. | omega | intro _ | split | dsimp +zetaDelta only

/-! The operations of Machine/Wait.lean. -/

theorem execNopDesc_keeps {d : Nat} {s : State} : KeepsR s (execNopDesc d s) := by
  have hk := Keeps.refl s
  unfold execNopDesc
  repeat' first
    | with_reducible assumption | with_reducible apply whenLive_keeps | with_reducible apply endDesc_keeps
    | with_reducible apply KeepsR.next | exact Eq.refl _ | exact List.length_modify .. | exact List.length_map ..
    | extract_lets | ((fail_if_success (fail_if_success conv => arg 2; arg 42)); with_reducible apply Keeps.same)
    | intro _ | split | dsimp +zetaDelta only

theorem endWait_keeps {s0 : State} {s : State} {d : Nat} {c : Nat} {status : Nat} (hk : Keeps s0 s) :
     Keeps s0 (endWait s d c status) := by
  unfold endWait
  repeat' first
    | with_reducible assumption | with_reducible apply endDesc_keeps | with_reducible apply descUpd_keeps
    | exact Eq.refl _ | exact List.length_modify .. | exact List.length_map .. | extract_lets
    | ((fail_if_success (fail_if_success conv => arg 2; arg 42)); with_reducible apply Keeps.same) | intro _ | split
    | dsimp +zetaDelta only

theorem execWaitDesc_keeps {d : Nat} {s : State} : KeepsR s (execWaitDesc d s) := by
  have hk := Keeps.refl s
  unfold execWaitDesc
  repeat' first
    | with_reducible assumption | with_reducible apply whenLive_keeps | with_reducible apply ringSync_keeps
    | with_reducible apply descUpd_keeps | with_reducible apply endWait_keeps | with_reducible apply KeepsR.next
    | exact Eq.refl _ | exact List.length_modify .. | exact List.length_map .. | extract_lets
    | ((fail_if_success (fail_if_success conv => arg 2; arg 42)); with_reducible apply Keeps.same) | intro _ | split
    | dsimp +zetaDelta only

theorem execWaitTimeout_keeps {d : Nat} {s : State} : KeepsR s (execWaitTimeout d s) := by
  have hk := Keeps.refl s
  unfold execWaitTimeout
  repeat' first
    | with_reducible assumption | with_reducible apply whenLive_keeps | with_reducible apply endWait_keeps
    | with_reducible apply KeepsR.next | exact Eq.refl _ | exact List.length_modify .. | exact List.length_map ..
    | extract_lets | ((fail_if_success (fail_if_success conv => arg 2; arg 42)); with_reducible apply Keeps.same)
    | ((fail_if_success (fail_if_success conv => arg 2; arg 42)); with_reducible apply Keeps.tick)
    | exact Nat.le_max_left .. | exact Nat.le_add_right .. | omega | intro _ | split | dsimp +zetaDelta only

/-! The operations of Machine/Move.lean. -/

theorem moveRead_keeps {s0 : State} {s : State} {d : Desc} {addr : Nat} {len : Nat} (hk : Keeps s0 s) :
     Keeps s0 (moveRead s d addr len).1 := by
  unfold moveRead
  repeat' first
    | with_reducible assumption | with_reducible apply noteRefusal_keeps | with_reducible apply regRead_keeps
    | with_reducible apply readRange_keeps | exact Eq.refl _ | exact List.length_modify .. | exact List.length_map ..
    | extract_lets | ((fail_if_success (fail_if_success conv => arg 2; arg 42)); with_reducible apply Keeps.same)
    | intro _ | split | dsimp +zetaDelta only

theorem gatherForget_keeps {s0 : State} {s : State} {owner : Nat} {addr : Nat} {len : Nat} (hk : Keeps s0 s) :
     Keeps s0 (gatherForget s owner addr len) := by
  unfold gatherForget
  repeat' first
    | with_reducible assumption | exact Eq.refl _ | exact List.length_modify .. | exact List.length_map ..
    | extract_lets | ((fail_if_success (fail_if_success conv => arg 2; arg 42)); with_reducible apply Keeps.same)
    | intro _ | split | dsimp +zetaDelta only

theorem mvUpd_keeps {s0 : State} {s : State} {d : Nat} {f : MvRun → MvRun} (hk : Keeps s0 s) :
     Keeps s0 (mvUpd s d f) := by
  unfold mvUpd
  repeat' first
    | with_reducible assumption | with_reducible apply descUpd_keeps | exact Eq.refl _ | exact List.length_modify ..
    | exact List.length_map .. | extract_lets
    | ((fail_if_success (fail_if_success conv => arg 2; arg 42)); with_reducible apply Keeps.same) | intro _ | split
    | dsimp +zetaDelta only

theorem movePiece_keeps {s0 : State} {s : State} {d : Desc} {dst : Nat} {bs : List Byte} (hk : Keeps s0 s) :
     Keeps s0 (movePiece s d dst bs) := by
  unfold movePiece
  repeat' first
    | with_reducible assumption | with_reducible apply mvUpd_keeps | with_reducible apply descUpd_keeps
    | with_reducible apply sendOutside_keeps | with_reducible apply bankQueue_keeps
    | with_reducible apply deliver_keeps | with_reducible apply noteRefusal_keeps
    | with_reducible apply windowServe_keeps | exact Eq.refl _ | exact List.length_modify ..
    | exact List.length_map .. | extract_lets
    | ((fail_if_success (fail_if_success conv => arg 2; arg 42)); with_reducible apply Keeps.same) | intro _ | split
    | dsimp +zetaDelta only

theorem readFails_keeps {s0 s : State} {d addr : Nat} {r : Rd} (h : Keeps s0 s) : Keeps s0 (readFails s d addr r) := by
  cases r <;> first | exact endDesc_keeps h | exact h

theorem moveRow_keeps {s0 : State} {s : State} {x : Desc} {row : Nat} (hk : Keeps s0 s) :
     Keeps s0 (moveRow s x row) := by
  unfold moveRow
  repeat' first
    | with_reducible assumption | with_reducible apply mvUpd_keeps | with_reducible apply moveRead_keeps
    | with_reducible apply gatherForget_keeps | with_reducible apply endDesc_keeps
    | with_reducible apply readFails_keeps | exact Eq.refl _ | exact List.length_modify .. | exact List.length_map ..
    | extract_lets | ((fail_if_success (fail_if_success conv => arg 2; arg 42)); with_reducible apply Keeps.same)
    | intro _ | split | dsimp +zetaDelta only

theorem moveStep_keeps {s0 s : State} {fuel d : Nat} (h : Keeps s0 s) : Keeps s0 (moveStep fuel s d) := by
  induction fuel generalizing s with
  | zero => exact h
  | succ fuel ih =>
    unfold moveStep
    repeat' first
      | with_reducible assumption | with_reducible apply ih | with_reducible apply endDesc_keeps | with_reducible apply moveRow_keeps
      | with_reducible apply mvUpd_keeps | with_reducible apply movePiece_keeps
      | with_reducible apply gatherForget_keeps | with_reducible apply moveRead_keeps
      | with_reducible apply readFails_keeps | with_reducible apply foldl_keeps
      | with_reducible apply foldl_keeps_fst | with_reducible apply foldl_keeps_snd | exact Eq.refl _
      | exact List.length_modify .. | exact List.length_map .. | extract_lets
      | ((fail_if_success (fail_if_success conv => arg 2; arg 42)); with_reducible apply Keeps.same)
      | ((fail_if_success (fail_if_success conv => arg 2; arg 42)); with_reducible apply Keeps.tick)
      | exact Nat.le_max_left .. | exact Nat.le_add_right .. | omega | intro _ | split | dsimp +zetaDelta only

theorem execMoveDesc_keeps {d : Nat} {s : State} : KeepsR s (execMoveDesc d s) := by
  have hk := Keeps.refl s
  unfold execMoveDesc
  repeat' first
    | with_reducible assumption | with_reducible apply whenLive_keeps | with_reducible apply moveStep_keeps
    | with_reducible apply takeHolds_keeps | with_reducible apply descUpd_keeps | with_reducible apply KeepsR.next
    | exact Eq.refl _ | exact List.length_modify .. | exact List.length_map .. | extract_lets
    | ((fail_if_success (fail_if_success conv => arg 2; arg 42)); with_reducible apply Keeps.same) | intro _ | split
    | dsimp +zetaDelta only

theorem moveAftermath_keeps {s0 : State} {s : State} {d : Desc} (hk : Keeps s0 s) :
     Keeps s0 (moveAftermath s d) := by
  unfold moveAftermath
  repeat' first
    | with_reducible assumption | with_reducible apply spmHavoc_keeps | with_reducible apply foldl_keeps
    | with_reducible apply foldl_keeps_fst | with_reducible apply foldl_keeps_snd | exact Eq.refl _
    | exact List.length_modify .. | exact List.length_map .. | extract_lets
    | ((fail_if_success (fail_if_success conv => arg 2; arg 42)); with_reducible apply Keeps.same) | intro _ | split
    | dsimp +zetaDelta only

theorem moveHavoc_keeps {s0 : State} {s : State} {d : Desc} (hk : Keeps s0 s) :
     Keeps s0 (moveHavoc s d) := by
  unfold moveHavoc
  repeat' first
    | with_reducible assumption | with_reducible apply spmHavoc_keeps | with_reducible apply foldl_keeps
    | with_reducible apply foldl_keeps_fst | with_reducible apply foldl_keeps_snd | exact Eq.refl _
    | exact List.length_modify .. | exact List.length_map .. | extract_lets
    | ((fail_if_success (fail_if_success conv => arg 2; arg 42)); with_reducible apply Keeps.same) | intro _ | split
    | dsimp +zetaDelta only

/-! The operations of Machine/TaskCore.lean. -/

theorem onHeld_keeps {s0 : State} {s : State} {t : Nat} {m : Mn} {held : Group → Hold → Bool} {f : State → Group → Thread → Word → State} (hk : Keeps s0 s) (hf : ∀ x0 x1 x2 x3, Keeps s0 x0 → Keeps s0 (f x0 x1 x2 x3)) :
     Keeps s0 (onHeld s t m held f) := by
  unfold onHeld
  repeat' first
    | with_reducible assumption | with_reducible apply whenLive_keeps | with_reducible apply raiseAt_keeps
    | with_reducible apply threadUpd_keeps | with_reducible apply hf | exact Eq.refl _ | exact List.length_modify ..
    | exact List.length_map .. | extract_lets
    | ((fail_if_success (fail_if_success conv => arg 2; arg 42)); with_reducible apply Keeps.same) | intro _ | split
    | dsimp +zetaDelta only

theorem onInsn_keeps {s0 : State} {s : State} {t : Nat} {m : Mn} {f : State → Group → Thread → Word → State} (hk : Keeps s0 s) (hf : ∀ x0 x1 x2 x3, Keeps s0 x0 → Keeps s0 (f x0 x1 x2 x3)) :
     Keeps s0 (onInsn s t m f) := by
  unfold onInsn
  repeat' first
    | with_reducible assumption | with_reducible apply onHeld_keeps | with_reducible apply hf | exact Eq.refl _
    | exact List.length_modify .. | exact List.length_map .. | extract_lets
    | ((fail_if_success (fail_if_success conv => arg 2; arg 42)); with_reducible apply Keeps.same) | intro _ | split
    | dsimp +zetaDelta only

theorem raiseIllegal_keeps {s0 : State} {s : State} {t : Nat} {w : Word} (hk : Keeps s0 s) :
     Keeps s0 (raiseIllegal s t w) := by
  unfold raiseIllegal
  repeat' first
    | with_reducible assumption | with_reducible apply raiseFault_keeps | exact Eq.refl _
    | exact List.length_modify .. | exact List.length_map .. | extract_lets
    | ((fail_if_success (fail_if_success conv => arg 2; arg 42)); with_reducible apply Keeps.same) | intro _ | split
    | dsimp +zetaDelta only

theorem retire_keeps {s0 : State} {s : State} {t : Nat} {d : Nat} {v : Dword} (hk : Keeps s0 s) :
     Keeps s0 (retire s t d v) := by
  unfold retire
  repeat' first
    | with_reducible assumption | with_reducible apply threadUpd_keeps | exact Eq.refl _
    | exact List.length_modify .. | exact List.length_map .. | extract_lets
    | ((fail_if_success (fail_if_success conv => arg 2; arg 42)); with_reducible apply Keeps.same) | intro _ | split
    | dsimp +zetaDelta only

theorem alu_keeps {s : State} {t : Nat} {m : Mn} {f : Dword → Dword → Dword} : KeepsR s (alu s t m f) := by
  have hk := Keeps.refl s
  unfold alu
  repeat' first
    | with_reducible assumption | with_reducible apply onInsn_keeps | with_reducible apply retire_keeps
    | with_reducible apply KeepsR.next | exact Eq.refl _ | exact List.length_modify .. | exact List.length_map ..
    | extract_lets | ((fail_if_success (fail_if_success conv => arg 2; arg 42)); with_reducible apply Keeps.same)
    | intro _ | split | dsimp +zetaDelta only

theorem aluImm_keeps {s : State} {t : Nat} {m : Mn} {f : Dword → Dword → Dword} : KeepsR s (aluImm s t m f) := by
  have hk := Keeps.refl s
  unfold aluImm
  repeat' first
    | with_reducible assumption | with_reducible apply onInsn_keeps | with_reducible apply retire_keeps
    | with_reducible apply KeepsR.next | exact Eq.refl _ | exact List.length_modify .. | exact List.length_map ..
    | extract_lets | ((fail_if_success (fail_if_success conv => arg 2; arg 42)); with_reducible apply Keeps.same)
    | intro _ | split | dsimp +zetaDelta only

theorem predCmp_keeps {s : State} {t : Nat} {m : Mn} {f : Dword → Dword → Bool} : KeepsR s (predCmp s t m f) := by
  have hk := Keeps.refl s
  unfold predCmp
  repeat' first
    | with_reducible assumption | with_reducible apply onInsn_keeps | with_reducible apply threadUpd_keeps
    | with_reducible apply KeepsR.next | exact Eq.refl _ | exact List.length_modify .. | exact List.length_map ..
    | extract_lets | ((fail_if_success (fail_if_success conv => arg 2; arg 42)); with_reducible apply Keeps.same)
    | intro _ | split | dsimp +zetaDelta only

theorem predOp_keeps {s : State} {t : Nat} {m : Mn} {f : Bool → Bool → Bool} : KeepsR s (predOp s t m f) := by
  have hk := Keeps.refl s
  unfold predOp
  repeat' first
    | with_reducible assumption | with_reducible apply onInsn_keeps | with_reducible apply threadUpd_keeps
    | with_reducible apply KeepsR.next | exact Eq.refl _ | exact List.length_modify .. | exact List.length_map ..
    | extract_lets | ((fail_if_success (fail_if_success conv => arg 2; arg 42)); with_reducible apply Keeps.same)
    | intro _ | split | dsimp +zetaDelta only

theorem execNopInstr_keeps {t : Nat} {s : State} : KeepsR s (execNopInstr t s) := by
  have hk := Keeps.refl s
  unfold execNopInstr
  repeat' first
    | with_reducible assumption | with_reducible apply onInsn_keeps | with_reducible apply threadUpd_keeps
    | with_reducible apply KeepsR.next | exact Eq.refl _ | exact List.length_modify .. | exact List.length_map ..
    | extract_lets | ((fail_if_success (fail_if_success conv => arg 2; arg 42)); with_reducible apply Keeps.same)
    | intro _ | split | dsimp +zetaDelta only

theorem gbarCheck_keeps {s0 : State} {s : State} {gi : Nat} (hk : Keeps s0 s) :
     Keeps s0 (gbarCheck s gi) := by
  unfold gbarCheck
  repeat' first
    | with_reducible assumption | with_reducible apply groupUpd_keeps | exact Eq.refl _ | exact List.length_modify ..
    | exact List.length_map .. | extract_lets
    | ((fail_if_success (fail_if_success conv => arg 2; arg 42)); with_reducible apply Keeps.same) | intro _ | split
    | dsimp +zetaDelta only

theorem execExitThread_keeps {t : Nat} {s : State} : KeepsR s (execExitThread t s) := by
  have hk := Keeps.refl s
  unfold execExitThread
  repeat' first
    | with_reducible assumption | with_reducible apply onInsn_keeps | with_reducible apply raiseFault_keeps
    | with_reducible apply threadUpd_keeps | with_reducible apply gbarCheck_keeps | with_reducible apply KeepsR.next
    | exact Eq.refl _ | exact List.length_modify .. | exact List.length_map .. | extract_lets
    | ((fail_if_success (fail_if_success conv => arg 2; arg 42)); with_reducible apply Keeps.same) | intro _ | split
    | dsimp +zetaDelta only

theorem execFret_keeps {t : Nat} {s : State} : KeepsR s (execFret t s) := by
  have hk := Keeps.refl s
  unfold execFret
  repeat' first
    | with_reducible assumption | with_reducible apply onInsn_keeps | with_reducible apply threadUpd_keeps
    | with_reducible apply KeepsR.next | exact Eq.refl _ | exact List.length_modify .. | exact List.length_map ..
    | extract_lets | ((fail_if_success (fail_if_success conv => arg 2; arg 42)); with_reducible apply Keeps.same)
    | intro _ | split | dsimp +zetaDelta only

theorem execBrk_keeps {t : Nat} {s : State} : KeepsR s (execBrk t s) := by
  have hk := Keeps.refl s
  unfold execBrk
  repeat' first
    | with_reducible assumption | with_reducible apply onInsn_keeps | with_reducible apply threadUpd_keeps
    | with_reducible apply KeepsR.next | exact Eq.refl _ | exact List.length_modify .. | exact List.length_map ..
    | extract_lets | ((fail_if_success (fail_if_success conv => arg 2; arg 42)); with_reducible apply Keeps.same)
    | intro _ | split | dsimp +zetaDelta only

theorem execAddOp_keeps {t : Nat} {s : State} : KeepsR s (execAddOp t s) := by
  have hk := Keeps.refl s
  unfold execAddOp
  repeat' first
    | with_reducible assumption | with_reducible apply alu_keeps | with_reducible apply KeepsR.next | exact Eq.refl _
    | exact List.length_modify .. | exact List.length_map .. | extract_lets
    | ((fail_if_success (fail_if_success conv => arg 2; arg 42)); with_reducible apply Keeps.same) | intro _ | split
    | dsimp +zetaDelta only

theorem execSubOp_keeps {t : Nat} {s : State} : KeepsR s (execSubOp t s) := by
  have hk := Keeps.refl s
  unfold execSubOp
  repeat' first
    | with_reducible assumption | with_reducible apply alu_keeps | with_reducible apply KeepsR.next | exact Eq.refl _
    | exact List.length_modify .. | exact List.length_map .. | extract_lets
    | ((fail_if_success (fail_if_success conv => arg 2; arg 42)); with_reducible apply Keeps.same) | intro _ | split
    | dsimp +zetaDelta only

theorem execAndOp_keeps {t : Nat} {s : State} : KeepsR s (execAndOp t s) := by
  have hk := Keeps.refl s
  unfold execAndOp
  repeat' first
    | with_reducible assumption | with_reducible apply alu_keeps | with_reducible apply KeepsR.next | exact Eq.refl _
    | exact List.length_modify .. | exact List.length_map .. | extract_lets
    | ((fail_if_success (fail_if_success conv => arg 2; arg 42)); with_reducible apply Keeps.same) | intro _ | split
    | dsimp +zetaDelta only

theorem execOrOp_keeps {t : Nat} {s : State} : KeepsR s (execOrOp t s) := by
  have hk := Keeps.refl s
  unfold execOrOp
  repeat' first
    | with_reducible assumption | with_reducible apply alu_keeps | with_reducible apply KeepsR.next | exact Eq.refl _
    | exact List.length_modify .. | exact List.length_map .. | extract_lets
    | ((fail_if_success (fail_if_success conv => arg 2; arg 42)); with_reducible apply Keeps.same) | intro _ | split
    | dsimp +zetaDelta only

theorem execXorOp_keeps {t : Nat} {s : State} : KeepsR s (execXorOp t s) := by
  have hk := Keeps.refl s
  unfold execXorOp
  repeat' first
    | with_reducible assumption | with_reducible apply alu_keeps | with_reducible apply KeepsR.next | exact Eq.refl _
    | exact List.length_modify .. | exact List.length_map .. | extract_lets
    | ((fail_if_success (fail_if_success conv => arg 2; arg 42)); with_reducible apply Keeps.same) | intro _ | split
    | dsimp +zetaDelta only

theorem execShl_keeps {t : Nat} {s : State} : KeepsR s (execShl t s) := by
  have hk := Keeps.refl s
  unfold execShl
  repeat' first
    | with_reducible assumption | with_reducible apply alu_keeps | with_reducible apply KeepsR.next | exact Eq.refl _
    | exact List.length_modify .. | exact List.length_map .. | extract_lets
    | ((fail_if_success (fail_if_success conv => arg 2; arg 42)); with_reducible apply Keeps.same) | intro _ | split
    | dsimp +zetaDelta only

theorem execShr_keeps {t : Nat} {s : State} : KeepsR s (execShr t s) := by
  have hk := Keeps.refl s
  unfold execShr
  repeat' first
    | with_reducible assumption | with_reducible apply alu_keeps | with_reducible apply KeepsR.next | exact Eq.refl _
    | exact List.length_modify .. | exact List.length_map .. | extract_lets
    | ((fail_if_success (fail_if_success conv => arg 2; arg 42)); with_reducible apply Keeps.same) | intro _ | split
    | dsimp +zetaDelta only

theorem execSra_keeps {t : Nat} {s : State} : KeepsR s (execSra t s) := by
  have hk := Keeps.refl s
  unfold execSra
  repeat' first
    | with_reducible assumption | with_reducible apply alu_keeps | with_reducible apply KeepsR.next | exact Eq.refl _
    | exact List.length_modify .. | exact List.length_map .. | extract_lets
    | ((fail_if_success (fail_if_success conv => arg 2; arg 42)); with_reducible apply Keeps.same) | intro _ | split
    | dsimp +zetaDelta only

theorem execMulOp_keeps {t : Nat} {s : State} : KeepsR s (execMulOp t s) := by
  have hk := Keeps.refl s
  unfold execMulOp
  repeat' first
    | with_reducible assumption | with_reducible apply alu_keeps | with_reducible apply KeepsR.next | exact Eq.refl _
    | exact List.length_modify .. | exact List.length_map .. | extract_lets
    | ((fail_if_success (fail_if_success conv => arg 2; arg 42)); with_reducible apply Keeps.same) | intro _ | split
    | dsimp +zetaDelta only

theorem execMulh_keeps {t : Nat} {s : State} : KeepsR s (execMulh t s) := by
  have hk := Keeps.refl s
  unfold execMulh
  repeat' first
    | with_reducible assumption | with_reducible apply alu_keeps | with_reducible apply KeepsR.next | exact Eq.refl _
    | exact List.length_modify .. | exact List.length_map .. | extract_lets
    | ((fail_if_success (fail_if_success conv => arg 2; arg 42)); with_reducible apply Keeps.same) | intro _ | split
    | dsimp +zetaDelta only

theorem execMulhu_keeps {t : Nat} {s : State} : KeepsR s (execMulhu t s) := by
  have hk := Keeps.refl s
  unfold execMulhu
  repeat' first
    | with_reducible assumption | with_reducible apply alu_keeps | with_reducible apply KeepsR.next | exact Eq.refl _
    | exact List.length_modify .. | exact List.length_map .. | extract_lets
    | ((fail_if_success (fail_if_success conv => arg 2; arg 42)); with_reducible apply Keeps.same) | intro _ | split
    | dsimp +zetaDelta only

theorem execMinOp_keeps {t : Nat} {s : State} : KeepsR s (execMinOp t s) := by
  have hk := Keeps.refl s
  unfold execMinOp
  repeat' first
    | with_reducible assumption | with_reducible apply alu_keeps | with_reducible apply KeepsR.next | exact Eq.refl _
    | exact List.length_modify .. | exact List.length_map .. | extract_lets
    | ((fail_if_success (fail_if_success conv => arg 2; arg 42)); with_reducible apply Keeps.same) | intro _ | split
    | dsimp +zetaDelta only

theorem execMaxOp_keeps {t : Nat} {s : State} : KeepsR s (execMaxOp t s) := by
  have hk := Keeps.refl s
  unfold execMaxOp
  repeat' first
    | with_reducible assumption | with_reducible apply alu_keeps | with_reducible apply KeepsR.next | exact Eq.refl _
    | exact List.length_modify .. | exact List.length_map .. | extract_lets
    | ((fail_if_success (fail_if_success conv => arg 2; arg 42)); with_reducible apply Keeps.same) | intro _ | split
    | dsimp +zetaDelta only

theorem execMinu_keeps {t : Nat} {s : State} : KeepsR s (execMinu t s) := by
  have hk := Keeps.refl s
  unfold execMinu
  repeat' first
    | with_reducible assumption | with_reducible apply alu_keeps | with_reducible apply KeepsR.next | exact Eq.refl _
    | exact List.length_modify .. | exact List.length_map .. | extract_lets
    | ((fail_if_success (fail_if_success conv => arg 2; arg 42)); with_reducible apply Keeps.same) | intro _ | split
    | dsimp +zetaDelta only

theorem execMaxu_keeps {t : Nat} {s : State} : KeepsR s (execMaxu t s) := by
  have hk := Keeps.refl s
  unfold execMaxu
  repeat' first
    | with_reducible assumption | with_reducible apply alu_keeps | with_reducible apply KeepsR.next | exact Eq.refl _
    | exact List.length_modify .. | exact List.length_map .. | extract_lets
    | ((fail_if_success (fail_if_success conv => arg 2; arg 42)); with_reducible apply Keeps.same) | intro _ | split
    | dsimp +zetaDelta only

theorem execAddi_keeps {t : Nat} {s : State} : KeepsR s (execAddi t s) := by
  have hk := Keeps.refl s
  unfold execAddi
  repeat' first
    | with_reducible assumption | with_reducible apply aluImm_keeps | with_reducible apply KeepsR.next
    | exact Eq.refl _ | exact List.length_modify .. | exact List.length_map .. | extract_lets
    | ((fail_if_success (fail_if_success conv => arg 2; arg 42)); with_reducible apply Keeps.same) | intro _ | split
    | dsimp +zetaDelta only

theorem execAndi_keeps {t : Nat} {s : State} : KeepsR s (execAndi t s) := by
  have hk := Keeps.refl s
  unfold execAndi
  repeat' first
    | with_reducible assumption | with_reducible apply aluImm_keeps | with_reducible apply KeepsR.next
    | exact Eq.refl _ | exact List.length_modify .. | exact List.length_map .. | extract_lets
    | ((fail_if_success (fail_if_success conv => arg 2; arg 42)); with_reducible apply Keeps.same) | intro _ | split
    | dsimp +zetaDelta only

theorem execOri_keeps {t : Nat} {s : State} : KeepsR s (execOri t s) := by
  have hk := Keeps.refl s
  unfold execOri
  repeat' first
    | with_reducible assumption | with_reducible apply aluImm_keeps | with_reducible apply KeepsR.next
    | exact Eq.refl _ | exact List.length_modify .. | exact List.length_map .. | extract_lets
    | ((fail_if_success (fail_if_success conv => arg 2; arg 42)); with_reducible apply Keeps.same) | intro _ | split
    | dsimp +zetaDelta only

theorem execXori_keeps {t : Nat} {s : State} : KeepsR s (execXori t s) := by
  have hk := Keeps.refl s
  unfold execXori
  repeat' first
    | with_reducible assumption | with_reducible apply aluImm_keeps | with_reducible apply KeepsR.next
    | exact Eq.refl _ | exact List.length_modify .. | exact List.length_map .. | extract_lets
    | ((fail_if_success (fail_if_success conv => arg 2; arg 42)); with_reducible apply Keeps.same) | intro _ | split
    | dsimp +zetaDelta only

theorem execShli_keeps {t : Nat} {s : State} : KeepsR s (execShli t s) := by
  have hk := Keeps.refl s
  unfold execShli
  repeat' first
    | with_reducible assumption | with_reducible apply aluImm_keeps | with_reducible apply KeepsR.next
    | exact Eq.refl _ | exact List.length_modify .. | exact List.length_map .. | extract_lets
    | ((fail_if_success (fail_if_success conv => arg 2; arg 42)); with_reducible apply Keeps.same) | intro _ | split
    | dsimp +zetaDelta only

theorem execShri_keeps {t : Nat} {s : State} : KeepsR s (execShri t s) := by
  have hk := Keeps.refl s
  unfold execShri
  repeat' first
    | with_reducible assumption | with_reducible apply aluImm_keeps | with_reducible apply KeepsR.next
    | exact Eq.refl _ | exact List.length_modify .. | exact List.length_map .. | extract_lets
    | ((fail_if_success (fail_if_success conv => arg 2; arg 42)); with_reducible apply Keeps.same) | intro _ | split
    | dsimp +zetaDelta only

theorem execSrai_keeps {t : Nat} {s : State} : KeepsR s (execSrai t s) := by
  have hk := Keeps.refl s
  unfold execSrai
  repeat' first
    | with_reducible assumption | with_reducible apply aluImm_keeps | with_reducible apply KeepsR.next
    | exact Eq.refl _ | exact List.length_modify .. | exact List.length_map .. | extract_lets
    | ((fail_if_success (fail_if_success conv => arg 2; arg 42)); with_reducible apply Keeps.same) | intro _ | split
    | dsimp +zetaDelta only

theorem execLi_keeps {t : Nat} {s : State} : KeepsR s (execLi t s) := by
  have hk := Keeps.refl s
  unfold execLi
  repeat' first
    | with_reducible assumption | with_reducible apply onInsn_keeps | with_reducible apply retire_keeps
    | with_reducible apply KeepsR.next | exact Eq.refl _ | exact List.length_modify .. | exact List.length_map ..
    | extract_lets | ((fail_if_success (fail_if_success conv => arg 2; arg 42)); with_reducible apply Keeps.same)
    | intro _ | split | dsimp +zetaDelta only

theorem execUins_keeps {t : Nat} {s : State} : KeepsR s (execUins t s) := by
  have hk := Keeps.refl s
  unfold execUins
  repeat' first
    | with_reducible assumption | with_reducible apply onInsn_keeps | with_reducible apply retire_keeps
    | with_reducible apply KeepsR.next | exact Eq.refl _ | exact List.length_modify .. | exact List.length_map ..
    | extract_lets | ((fail_if_success (fail_if_success conv => arg 2; arg 42)); with_reducible apply Keeps.same)
    | intro _ | split | dsimp +zetaDelta only

theorem execPeq_keeps {t : Nat} {s : State} : KeepsR s (execPeq t s) := by
  have hk := Keeps.refl s
  unfold execPeq
  repeat' first
    | with_reducible assumption | with_reducible apply predCmp_keeps | with_reducible apply KeepsR.next
    | exact Eq.refl _ | exact List.length_modify .. | exact List.length_map .. | extract_lets
    | ((fail_if_success (fail_if_success conv => arg 2; arg 42)); with_reducible apply Keeps.same) | intro _ | split
    | dsimp +zetaDelta only

theorem execPne_keeps {t : Nat} {s : State} : KeepsR s (execPne t s) := by
  have hk := Keeps.refl s
  unfold execPne
  repeat' first
    | with_reducible assumption | with_reducible apply predCmp_keeps | with_reducible apply KeepsR.next
    | exact Eq.refl _ | exact List.length_modify .. | exact List.length_map .. | extract_lets
    | ((fail_if_success (fail_if_success conv => arg 2; arg 42)); with_reducible apply Keeps.same) | intro _ | split
    | dsimp +zetaDelta only

theorem execPlt_keeps {t : Nat} {s : State} : KeepsR s (execPlt t s) := by
  have hk := Keeps.refl s
  unfold execPlt
  repeat' first
    | with_reducible assumption | with_reducible apply predCmp_keeps | with_reducible apply KeepsR.next
    | exact Eq.refl _ | exact List.length_modify .. | exact List.length_map .. | extract_lets
    | ((fail_if_success (fail_if_success conv => arg 2; arg 42)); with_reducible apply Keeps.same) | intro _ | split
    | dsimp +zetaDelta only

theorem execPltu_keeps {t : Nat} {s : State} : KeepsR s (execPltu t s) := by
  have hk := Keeps.refl s
  unfold execPltu
  repeat' first
    | with_reducible assumption | with_reducible apply predCmp_keeps | with_reducible apply KeepsR.next
    | exact Eq.refl _ | exact List.length_modify .. | exact List.length_map .. | extract_lets
    | ((fail_if_success (fail_if_success conv => arg 2; arg 42)); with_reducible apply Keeps.same) | intro _ | split
    | dsimp +zetaDelta only

theorem execPge_keeps {t : Nat} {s : State} : KeepsR s (execPge t s) := by
  have hk := Keeps.refl s
  unfold execPge
  repeat' first
    | with_reducible assumption | with_reducible apply predCmp_keeps | with_reducible apply KeepsR.next
    | exact Eq.refl _ | exact List.length_modify .. | exact List.length_map .. | extract_lets
    | ((fail_if_success (fail_if_success conv => arg 2; arg 42)); with_reducible apply Keeps.same) | intro _ | split
    | dsimp +zetaDelta only

theorem execPgeu_keeps {t : Nat} {s : State} : KeepsR s (execPgeu t s) := by
  have hk := Keeps.refl s
  unfold execPgeu
  repeat' first
    | with_reducible assumption | with_reducible apply predCmp_keeps | with_reducible apply KeepsR.next
    | exact Eq.refl _ | exact List.length_modify .. | exact List.length_map .. | extract_lets
    | ((fail_if_success (fail_if_success conv => arg 2; arg 42)); with_reducible apply Keeps.same) | intro _ | split
    | dsimp +zetaDelta only

theorem execPand_keeps {t : Nat} {s : State} : KeepsR s (execPand t s) := by
  have hk := Keeps.refl s
  unfold execPand
  repeat' first
    | with_reducible assumption | with_reducible apply predOp_keeps | with_reducible apply KeepsR.next
    | exact Eq.refl _ | exact List.length_modify .. | exact List.length_map .. | extract_lets
    | ((fail_if_success (fail_if_success conv => arg 2; arg 42)); with_reducible apply Keeps.same) | intro _ | split
    | dsimp +zetaDelta only

theorem execPor_keeps {t : Nat} {s : State} : KeepsR s (execPor t s) := by
  have hk := Keeps.refl s
  unfold execPor
  repeat' first
    | with_reducible assumption | with_reducible apply predOp_keeps | with_reducible apply KeepsR.next
    | exact Eq.refl _ | exact List.length_modify .. | exact List.length_map .. | extract_lets
    | ((fail_if_success (fail_if_success conv => arg 2; arg 42)); with_reducible apply Keeps.same) | intro _ | split
    | dsimp +zetaDelta only

theorem execPxor_keeps {t : Nat} {s : State} : KeepsR s (execPxor t s) := by
  have hk := Keeps.refl s
  unfold execPxor
  repeat' first
    | with_reducible assumption | with_reducible apply predOp_keeps | with_reducible apply KeepsR.next
    | exact Eq.refl _ | exact List.length_modify .. | exact List.length_map .. | extract_lets
    | ((fail_if_success (fail_if_success conv => arg 2; arg 42)); with_reducible apply Keeps.same) | intro _ | split
    | dsimp +zetaDelta only

theorem jumpLink_keeps {s0 : State} {s : State} {t : Nat} {d : Nat} {target : Dword} (hk : Keeps s0 s) :
     Keeps s0 (jumpLink s t d target) := by
  unfold jumpLink
  repeat' first
    | with_reducible assumption | with_reducible apply threadUpd_keeps | exact Eq.refl _
    | exact List.length_modify .. | exact List.length_map .. | extract_lets
    | ((fail_if_success (fail_if_success conv => arg 2; arg 42)); with_reducible apply Keeps.same) | intro _ | split
    | dsimp +zetaDelta only

theorem execJalr_keeps {t : Nat} {s : State} : KeepsR s (execJalr t s) := by
  have hk := Keeps.refl s
  unfold execJalr
  repeat' first
    | with_reducible assumption | with_reducible apply onInsn_keeps | with_reducible apply jumpLink_keeps
    | with_reducible apply KeepsR.next | exact Eq.refl _ | exact List.length_modify .. | exact List.length_map ..
    | extract_lets | ((fail_if_success (fail_if_success conv => arg 2; arg 42)); with_reducible apply Keeps.same)
    | intro _ | split | dsimp +zetaDelta only

theorem execBr_keeps {t : Nat} {s : State} : KeepsR s (execBr t s) := by
  have hk := Keeps.refl s
  unfold execBr
  repeat' first
    | with_reducible assumption | with_reducible apply onInsn_keeps | with_reducible apply threadUpd_keeps
    | with_reducible apply KeepsR.next | exact Eq.refl _ | exact List.length_modify .. | exact List.length_map ..
    | extract_lets | ((fail_if_success (fail_if_success conv => arg 2; arg 42)); with_reducible apply Keeps.same)
    | intro _ | split | dsimp +zetaDelta only

theorem execJal_keeps {t : Nat} {s : State} : KeepsR s (execJal t s) := by
  have hk := Keeps.refl s
  unfold execJal
  repeat' first
    | with_reducible assumption | with_reducible apply onInsn_keeps | with_reducible apply jumpLink_keeps
    | with_reducible apply KeepsR.next | exact Eq.refl _ | exact List.length_modify .. | exact List.length_map ..
    | extract_lets | ((fail_if_success (fail_if_success conv => arg 2; arg 42)); with_reducible apply Keeps.same)
    | intro _ | split | dsimp +zetaDelta only

theorem execSysr_keeps {t : Nat} {s : State} : KeepsR s (execSysr t s) := by
  have hk := Keeps.refl s
  unfold execSysr
  repeat' first
    | with_reducible assumption | with_reducible apply onInsn_keeps | with_reducible apply retire_keeps
    | with_reducible apply raiseIllegal_keeps | with_reducible apply KeepsR.next | exact Eq.refl _
    | exact List.length_modify .. | exact List.length_map .. | extract_lets
    | ((fail_if_success (fail_if_success conv => arg 2; arg 42)); with_reducible apply Keeps.same) | intro _ | split
    | dsimp +zetaDelta only

theorem execSysw_keeps {t : Nat} {s : State} : KeepsR s (execSysw t s) := by
  have hk := Keeps.refl s
  unfold execSysw
  repeat' first
    | with_reducible assumption | with_reducible apply onInsn_keeps | with_reducible apply threadUpd_keeps
    | with_reducible apply groupUpd_keeps | with_reducible apply raiseIllegal_keeps
    | with_reducible apply KeepsR.next | exact Eq.refl _ | exact List.length_modify .. | exact List.length_map ..
    | extract_lets | ((fail_if_success (fail_if_success conv => arg 2; arg 42)); with_reducible apply Keeps.same)
    | intro _ | split | dsimp +zetaDelta only

theorem execIllegal_keeps {t : Nat} {s : State} : KeepsR s (execIllegal t s) := by
  have hk := Keeps.refl s
  unfold execIllegal
  repeat' first
    | with_reducible assumption | with_reducible apply whenLive_keeps | with_reducible apply raiseAt_keeps
    | with_reducible apply raiseIllegal_keeps | with_reducible apply KeepsR.next | exact Eq.refl _
    | exact List.length_modify .. | exact List.length_map .. | extract_lets
    | ((fail_if_success (fail_if_success conv => arg 2; arg 42)); with_reducible apply Keeps.same) | intro _ | split
    | dsimp +zetaDelta only

theorem execPcRange_keeps {t : Nat} {s : State} : KeepsR s (execPcRange t s) := by
  have hk := Keeps.refl s
  unfold execPcRange
  repeat' first
    | with_reducible assumption | with_reducible apply whenLive_keeps | with_reducible apply raiseAt_keeps
    | with_reducible apply KeepsR.next | exact Eq.refl _ | exact List.length_modify .. | exact List.length_map ..
    | extract_lets | ((fail_if_success (fail_if_success conv => arg 2; arg 42)); with_reducible apply Keeps.same)
    | intro _ | split | dsimp +zetaDelta only

/-! The operations of Machine/Memory.lean. -/

theorem l1Check_keeps {s0 : State} {s : State} {core : Nat} {line : Nat} (hk : Keeps s0 s) :
     Keeps s0 (l1Check s core line) := by
  unfold l1Check
  repeat' first
    | with_reducible assumption | with_reducible apply raiseErr_keeps | exact Eq.refl _ | exact List.length_modify ..
    | exact List.length_map .. | extract_lets
    | ((fail_if_success (fail_if_success conv => arg 2; arg 42)); with_reducible apply Keeps.same) | intro _ | split
    | dsimp +zetaDelta only

theorem l1Drop_keeps {s0 : State} {s : State} {core : Nat} {a : Nat} {len : Nat} (hk : Keeps s0 s) :
     Keeps s0 (l1Drop s core a len) := by
  unfold l1Drop
  repeat' first
    | with_reducible assumption | exact Eq.refl _ | exact List.length_modify .. | exact List.length_map ..
    | extract_lets | ((fail_if_success (fail_if_success conv => arg 2; arg 42)); with_reducible apply Keeps.same)
    | intro _ | split | dsimp +zetaDelta only

theorem l1Alloc_keeps {s0 : State} {s : State} {core : Nat} {line : Nat} {bs : List Byte} (hk : Keeps s0 s) :
     Keeps s0 (l1Alloc s core line bs) := by
  unfold l1Alloc
  repeat' first
    | with_reducible assumption | with_reducible apply l1Drop_keeps | with_reducible apply draw_keeps
    | exact Eq.refl _ | exact List.length_modify .. | exact List.length_map .. | extract_lets
    | ((fail_if_success (fail_if_success conv => arg 2; arg 42)); with_reducible apply Keeps.same) | intro _ | split
    | dsimp +zetaDelta only

theorem l1Store_keeps {s0 : State} {s : State} {core : Nat} {a : Nat} {bs : List Byte} (hk : Keeps s0 s) :
     Keeps s0 (l1Store s core a bs) := by
  unfold l1Store
  repeat' first
    | with_reducible assumption | with_reducible apply KeepsO.getD | exact Eq.refl _ | exact List.length_modify ..
    | exact List.length_map .. | extract_lets
    | ((fail_if_success (fail_if_success conv => arg 2; arg 42)); with_reducible apply Keeps.same) | intro _ | split
    | dsimp +zetaDelta only

theorem threadAccess_keeps {s0 : State} {s : State} {a : Access} (hk : Keeps s0 s) :
     Keeps s0 (threadAccess s a) := by
  unfold threadAccess
  repeat' first
    | with_reducible assumption | with_reducible apply cmpSend_keeps | with_reducible apply bankQueue_keeps
    | with_reducible apply windowServe_keeps | with_reducible apply fepRequest_keeps | exact Eq.refl _
    | exact List.length_modify .. | exact List.length_map .. | extract_lets
    | ((fail_if_success (fail_if_success conv => arg 2; arg 42)); with_reducible apply Keeps.same) | intro _ | split
    | dsimp +zetaDelta only

theorem checked_keeps {s0 : State} {s : State} {t : Nat} {a : Access} {f : State → State} (hk : Keeps s0 s) (hf : ∀ x0, Keeps s0 x0 → Keeps s0 (f x0)) :
     Keeps s0 (checked s t a f) := by
  unfold checked
  repeat' first
    | with_reducible assumption | with_reducible apply raiseAt_keeps | with_reducible apply ordNoteRefused_keeps
    | with_reducible apply noteRefusal_keeps | with_reducible apply hf | exact Eq.refl _
    | exact List.length_modify .. | exact List.length_map .. | extract_lets
    | ((fail_if_success (fail_if_success conv => arg 2; arg 42)); with_reducible apply Keeps.same) | intro _ | split
    | dsimp +zetaDelta only

theorem threadRead_keeps {s0 : State} {s : State} {t : Nat} {g : Group} {addr : Nat} {len : Nat} {h : Hold} (hk : Keeps s0 s) :
     Keeps s0 (threadRead s t g addr len h) := by
  unfold threadRead
  repeat' first
    | with_reducible assumption | with_reducible apply checked_keeps | with_reducible apply threadUpd_keeps
    | with_reducible apply l1Check_keeps | with_reducible apply threadAccess_keeps | exact Eq.refl _
    | exact List.length_modify .. | exact List.length_map .. | extract_lets
    | ((fail_if_success (fail_if_success conv => arg 2; arg 42)); with_reducible apply Keeps.same) | intro _ | split
    | dsimp +zetaDelta only

theorem takeRead_keeps {s0 : State} {s : State} {t : Nat} {x : Thread} {addr : Nat} {len : Nat} {bs : List Byte} (hk : Keeps s0 s) :
     Keeps s0 (takeRead s t x addr len bs).1 := by
  unfold takeRead
  repeat' first
    | with_reducible assumption | with_reducible apply l1Alloc_keeps | exact Eq.refl _ | exact List.length_modify ..
    | exact List.length_map .. | extract_lets
    | ((fail_if_success (fail_if_success conv => arg 2; arg 42)); with_reducible apply Keeps.same) | intro _ | split
    | dsimp +zetaDelta only

theorem loadInsn_keeps {s : State} {t : Nat} {m : Mn} {bytes : Nat} {signed : Bool} : KeepsR s (loadInsn s t m bytes signed) := by
  have hk := Keeps.refl s
  unfold loadInsn
  repeat' first
    | with_reducible assumption | with_reducible apply onInsn_keeps | with_reducible apply threadRead_keeps
    | with_reducible apply KeepsR.next | exact Eq.refl _ | exact List.length_modify .. | exact List.length_map ..
    | extract_lets | ((fail_if_success (fail_if_success conv => arg 2; arg 42)); with_reducible apply Keeps.same)
    | intro _ | split | dsimp +zetaDelta only

theorem execLdB_keeps {t : Nat} {s : State} : KeepsR s (execLdB t s) := by
  have hk := Keeps.refl s
  unfold execLdB
  repeat' first
    | with_reducible assumption | with_reducible apply loadInsn_keeps | with_reducible apply KeepsR.next
    | exact Eq.refl _ | exact List.length_modify .. | exact List.length_map .. | extract_lets
    | ((fail_if_success (fail_if_success conv => arg 2; arg 42)); with_reducible apply Keeps.same) | intro _ | split
    | dsimp +zetaDelta only

theorem execLdH_keeps {t : Nat} {s : State} : KeepsR s (execLdH t s) := by
  have hk := Keeps.refl s
  unfold execLdH
  repeat' first
    | with_reducible assumption | with_reducible apply loadInsn_keeps | with_reducible apply KeepsR.next
    | exact Eq.refl _ | exact List.length_modify .. | exact List.length_map .. | extract_lets
    | ((fail_if_success (fail_if_success conv => arg 2; arg 42)); with_reducible apply Keeps.same) | intro _ | split
    | dsimp +zetaDelta only

theorem execLdW_keeps {t : Nat} {s : State} : KeepsR s (execLdW t s) := by
  have hk := Keeps.refl s
  unfold execLdW
  repeat' first
    | with_reducible assumption | with_reducible apply loadInsn_keeps | with_reducible apply KeepsR.next
    | exact Eq.refl _ | exact List.length_modify .. | exact List.length_map .. | extract_lets
    | ((fail_if_success (fail_if_success conv => arg 2; arg 42)); with_reducible apply Keeps.same) | intro _ | split
    | dsimp +zetaDelta only

theorem execLdD_keeps {t : Nat} {s : State} : KeepsR s (execLdD t s) := by
  have hk := Keeps.refl s
  unfold execLdD
  repeat' first
    | with_reducible assumption | with_reducible apply loadInsn_keeps | with_reducible apply KeepsR.next
    | exact Eq.refl _ | exact List.length_modify .. | exact List.length_map .. | extract_lets
    | ((fail_if_success (fail_if_success conv => arg 2; arg 42)); with_reducible apply Keeps.same) | intro _ | split
    | dsimp +zetaDelta only

theorem execLdsB_keeps {t : Nat} {s : State} : KeepsR s (execLdsB t s) := by
  have hk := Keeps.refl s
  unfold execLdsB
  repeat' first
    | with_reducible assumption | with_reducible apply loadInsn_keeps | with_reducible apply KeepsR.next
    | exact Eq.refl _ | exact List.length_modify .. | exact List.length_map .. | extract_lets
    | ((fail_if_success (fail_if_success conv => arg 2; arg 42)); with_reducible apply Keeps.same) | intro _ | split
    | dsimp +zetaDelta only

theorem execLdsH_keeps {t : Nat} {s : State} : KeepsR s (execLdsH t s) := by
  have hk := Keeps.refl s
  unfold execLdsH
  repeat' first
    | with_reducible assumption | with_reducible apply loadInsn_keeps | with_reducible apply KeepsR.next
    | exact Eq.refl _ | exact List.length_modify .. | exact List.length_map .. | extract_lets
    | ((fail_if_success (fail_if_success conv => arg 2; arg 42)); with_reducible apply Keeps.same) | intro _ | split
    | dsimp +zetaDelta only

theorem execLdsW_keeps {t : Nat} {s : State} : KeepsR s (execLdsW t s) := by
  have hk := Keeps.refl s
  unfold execLdsW
  repeat' first
    | with_reducible assumption | with_reducible apply loadInsn_keeps | with_reducible apply KeepsR.next
    | exact Eq.refl _ | exact List.length_modify .. | exact List.length_map .. | extract_lets
    | ((fail_if_success (fail_if_success conv => arg 2; arg 42)); with_reducible apply Keeps.same) | intro _ | split
    | dsimp +zetaDelta only

theorem execLoadData_keeps {t : Nat} {s : State} : KeepsR s (execLoadData t s) := by
  have hk := Keeps.refl s
  unfold execLoadData
  repeat' first
    | with_reducible assumption | with_reducible apply whenLive_keeps | with_reducible apply takeRead_keeps
    | with_reducible apply retire_keeps | with_reducible apply raiseAt_keeps | with_reducible apply KeepsO.getD
    | with_reducible apply KeepsR.next | exact Eq.refl _ | exact List.length_modify .. | exact List.length_map ..
    | extract_lets | ((fail_if_success (fail_if_success conv => arg 2; arg 42)); with_reducible apply Keeps.same)
    | intro _ | split | dsimp +zetaDelta only

theorem threadWrite_keeps {s0 : State} {s : State} {t : Nat} {g : Group} {addr : Nat} {bs : List Byte} {counter : Option Nat} (hk : Keeps s0 s) :
     Keeps s0 (threadWrite s t g addr bs counter) := by
  unfold threadWrite
  repeat' first
    | with_reducible assumption | with_reducible apply checked_keeps | with_reducible apply threadUpd_keeps
    | with_reducible apply threadAccess_keeps | with_reducible apply l1Store_keeps | exact Eq.refl _
    | exact List.length_modify .. | exact List.length_map .. | extract_lets
    | ((fail_if_success (fail_if_success conv => arg 2; arg 42)); with_reducible apply Keeps.same) | intro _ | split
    | dsimp +zetaDelta only

theorem storeInsn_keeps {s : State} {t : Nat} {m : Mn} {bytes : Nat} : KeepsR s (storeInsn s t m bytes) := by
  have hk := Keeps.refl s
  unfold storeInsn
  repeat' first
    | with_reducible assumption | with_reducible apply onInsn_keeps | with_reducible apply threadWrite_keeps
    | with_reducible apply KeepsR.next | exact Eq.refl _ | exact List.length_modify .. | exact List.length_map ..
    | extract_lets | ((fail_if_success (fail_if_success conv => arg 2; arg 42)); with_reducible apply Keeps.same)
    | intro _ | split | dsimp +zetaDelta only

theorem execStB_keeps {t : Nat} {s : State} : KeepsR s (execStB t s) := by
  have hk := Keeps.refl s
  unfold execStB
  repeat' first
    | with_reducible assumption | with_reducible apply storeInsn_keeps | with_reducible apply KeepsR.next
    | exact Eq.refl _ | exact List.length_modify .. | exact List.length_map .. | extract_lets
    | ((fail_if_success (fail_if_success conv => arg 2; arg 42)); with_reducible apply Keeps.same) | intro _ | split
    | dsimp +zetaDelta only

theorem execStH_keeps {t : Nat} {s : State} : KeepsR s (execStH t s) := by
  have hk := Keeps.refl s
  unfold execStH
  repeat' first
    | with_reducible assumption | with_reducible apply storeInsn_keeps | with_reducible apply KeepsR.next
    | exact Eq.refl _ | exact List.length_modify .. | exact List.length_map .. | extract_lets
    | ((fail_if_success (fail_if_success conv => arg 2; arg 42)); with_reducible apply Keeps.same) | intro _ | split
    | dsimp +zetaDelta only

theorem execStW_keeps {t : Nat} {s : State} : KeepsR s (execStW t s) := by
  have hk := Keeps.refl s
  unfold execStW
  repeat' first
    | with_reducible assumption | with_reducible apply storeInsn_keeps | with_reducible apply KeepsR.next
    | exact Eq.refl _ | exact List.length_modify .. | exact List.length_map .. | extract_lets
    | ((fail_if_success (fail_if_success conv => arg 2; arg 42)); with_reducible apply Keeps.same) | intro _ | split
    | dsimp +zetaDelta only

theorem execStD_keeps {t : Nat} {s : State} : KeepsR s (execStD t s) := by
  have hk := Keeps.refl s
  unfold execStD
  repeat' first
    | with_reducible assumption | with_reducible apply storeInsn_keeps | with_reducible apply KeepsR.next
    | exact Eq.refl _ | exact List.length_modify .. | exact List.length_map .. | extract_lets
    | ((fail_if_success (fail_if_success conv => arg 2; arg 42)); with_reducible apply Keeps.same) | intro _ | split
    | dsimp +zetaDelta only

theorem execStC_keeps {t : Nat} {s : State} : KeepsR s (execStC t s) := by
  have hk := Keeps.refl s
  unfold execStC
  repeat' first
    | with_reducible assumption | with_reducible apply onInsn_keeps | with_reducible apply raiseIllegal_keeps
    | with_reducible apply threadWrite_keeps | with_reducible apply KeepsR.next | exact Eq.refl _
    | exact List.length_modify .. | exact List.length_map .. | extract_lets
    | ((fail_if_success (fail_if_success conv => arg 2; arg 42)); with_reducible apply Keeps.same) | intro _ | split
    | dsimp +zetaDelta only

theorem execFenceR_keeps {t : Nat} {s : State} : KeepsR s (execFenceR t s) := by
  have hk := Keeps.refl s
  unfold execFenceR
  repeat' first
    | with_reducible assumption | with_reducible apply onHeld_keeps | with_reducible apply threadUpd_keeps
    | with_reducible apply raiseFault_keeps | with_reducible apply KeepsR.next | exact Eq.refl _
    | exact List.length_modify .. | exact List.length_map .. | extract_lets
    | ((fail_if_success (fail_if_success conv => arg 2; arg 42)); with_reducible apply Keeps.same) | intro _ | split
    | dsimp +zetaDelta only

theorem killFills_keeps {s0 : State} {s : State} {core : Nat} {a : Nat} {len : Nat} (hk : Keeps s0 s) :
     Keeps s0 (killFills s core a len) := by
  unfold killFills
  repeat' first
    | with_reducible assumption | with_reducible apply groupUpd_keeps | exact Eq.refl _ | exact List.length_modify ..
    | exact List.length_map .. | extract_lets
    | ((fail_if_success (fail_if_success conv => arg 2; arg 42)); with_reducible apply Keeps.same) | intro _ | split
    | dsimp +zetaDelta only

theorem execAcq_keeps {t : Nat} {s : State} : KeepsR s (execAcq t s) := by
  have hk := Keeps.refl s
  unfold execAcq
  repeat' first
    | with_reducible assumption | with_reducible apply onInsn_keeps | with_reducible apply threadUpd_keeps
    | with_reducible apply killFills_keeps | with_reducible apply l1Drop_keeps | with_reducible apply KeepsR.next
    | exact Eq.refl _ | exact List.length_modify .. | exact List.length_map .. | extract_lets
    | ((fail_if_success (fail_if_success conv => arg 2; arg 42)); with_reducible apply Keeps.same) | intro _ | split
    | dsimp +zetaDelta only

theorem execAcqAll_keeps {t : Nat} {s : State} : KeepsR s (execAcqAll t s) := by
  have hk := Keeps.refl s
  unfold execAcqAll
  repeat' first
    | with_reducible assumption | with_reducible apply onInsn_keeps | with_reducible apply threadUpd_keeps
    | with_reducible apply killFills_keeps | with_reducible apply l1Drop_keeps | with_reducible apply KeepsR.next
    | exact Eq.refl _ | exact List.length_modify .. | exact List.length_map .. | extract_lets
    | ((fail_if_success (fail_if_success conv => arg 2; arg 42)); with_reducible apply Keeps.same) | intro _ | split
    | dsimp +zetaDelta only

theorem execCwait_keeps {t : Nat} {s : State} : KeepsR s (execCwait t s) := by
  have hk := Keeps.refl s
  unfold execCwait
  repeat' first
    | with_reducible assumption | with_reducible apply onHeld_keeps | with_reducible apply retire_keeps
    | with_reducible apply threadUpd_keeps | with_reducible apply KeepsR.next | exact Eq.refl _
    | exact List.length_modify .. | exact List.length_map .. | extract_lets
    | ((fail_if_success (fail_if_success conv => arg 2; arg 42)); with_reducible apply Keeps.same) | intro _ | split
    | dsimp +zetaDelta only

theorem execCwaitLimit_keeps {t : Nat} {s : State} : KeepsR s (execCwaitLimit t s) := by
  have hk := Keeps.refl s
  unfold execCwaitLimit
  repeat' first
    | with_reducible assumption | with_reducible apply onHeld_keeps | with_reducible apply retire_keeps
    | with_reducible apply KeepsR.next | exact Eq.refl _ | exact List.length_modify .. | exact List.length_map ..
    | extract_lets | ((fail_if_success (fail_if_success conv => arg 2; arg 42)); with_reducible apply Keeps.same)
    | ((fail_if_success (fail_if_success conv => arg 2; arg 42)); with_reducible apply Keeps.tick)
    | exact Nat.le_max_left .. | exact Nat.le_add_right .. | omega | intro _ | split | dsimp +zetaDelta only

theorem execGbar_keeps {t : Nat} {s : State} : KeepsR s (execGbar t s) := by
  have hk := Keeps.refl s
  unfold execGbar
  repeat' first
    | with_reducible assumption | with_reducible apply onInsn_keeps | with_reducible apply gbarCheck_keeps
    | with_reducible apply threadUpd_keeps | with_reducible apply KeepsR.next | exact Eq.refl _
    | exact List.length_modify .. | exact List.length_map .. | extract_lets
    | ((fail_if_success (fail_if_success conv => arg 2; arg 42)); with_reducible apply Keeps.same) | intro _ | split
    | dsimp +zetaDelta only

theorem atomicInsn_keeps {s : State} {t : Nat} {m : Mn} {op : Nat} : KeepsR s (atomicInsn s t m op) := by
  have hk := Keeps.refl s
  unfold atomicInsn
  repeat' first
    | with_reducible assumption | with_reducible apply onInsn_keeps | with_reducible apply raiseIllegal_keeps
    | with_reducible apply checked_keeps | with_reducible apply threadUpd_keeps
    | with_reducible apply threadAccess_keeps | with_reducible apply l1Drop_keeps | with_reducible apply KeepsR.next
    | exact Eq.refl _ | exact List.length_modify .. | exact List.length_map .. | extract_lets
    | ((fail_if_success (fail_if_success conv => arg 2; arg 42)); with_reducible apply Keeps.same) | intro _ | split
    | dsimp +zetaDelta only

theorem execAmoAdd_keeps {t : Nat} {s : State} : KeepsR s (execAmoAdd t s) := by
  have hk := Keeps.refl s
  unfold execAmoAdd
  repeat' first
    | with_reducible assumption | with_reducible apply atomicInsn_keeps | with_reducible apply KeepsR.next
    | exact Eq.refl _ | exact List.length_modify .. | exact List.length_map .. | extract_lets
    | ((fail_if_success (fail_if_success conv => arg 2; arg 42)); with_reducible apply Keeps.same) | intro _ | split
    | dsimp +zetaDelta only

theorem execAmoMin_keeps {t : Nat} {s : State} : KeepsR s (execAmoMin t s) := by
  have hk := Keeps.refl s
  unfold execAmoMin
  repeat' first
    | with_reducible assumption | with_reducible apply atomicInsn_keeps | with_reducible apply KeepsR.next
    | exact Eq.refl _ | exact List.length_modify .. | exact List.length_map .. | extract_lets
    | ((fail_if_success (fail_if_success conv => arg 2; arg 42)); with_reducible apply Keeps.same) | intro _ | split
    | dsimp +zetaDelta only

theorem execAmoMax_keeps {t : Nat} {s : State} : KeepsR s (execAmoMax t s) := by
  have hk := Keeps.refl s
  unfold execAmoMax
  repeat' first
    | with_reducible assumption | with_reducible apply atomicInsn_keeps | with_reducible apply KeepsR.next
    | exact Eq.refl _ | exact List.length_modify .. | exact List.length_map .. | extract_lets
    | ((fail_if_success (fail_if_success conv => arg 2; arg 42)); with_reducible apply Keeps.same) | intro _ | split
    | dsimp +zetaDelta only

theorem execAmoMinu_keeps {t : Nat} {s : State} : KeepsR s (execAmoMinu t s) := by
  have hk := Keeps.refl s
  unfold execAmoMinu
  repeat' first
    | with_reducible assumption | with_reducible apply atomicInsn_keeps | with_reducible apply KeepsR.next
    | exact Eq.refl _ | exact List.length_modify .. | exact List.length_map .. | extract_lets
    | ((fail_if_success (fail_if_success conv => arg 2; arg 42)); with_reducible apply Keeps.same) | intro _ | split
    | dsimp +zetaDelta only

theorem execAmoMaxu_keeps {t : Nat} {s : State} : KeepsR s (execAmoMaxu t s) := by
  have hk := Keeps.refl s
  unfold execAmoMaxu
  repeat' first
    | with_reducible assumption | with_reducible apply atomicInsn_keeps | with_reducible apply KeepsR.next
    | exact Eq.refl _ | exact List.length_modify .. | exact List.length_map .. | extract_lets
    | ((fail_if_success (fail_if_success conv => arg 2; arg 42)); with_reducible apply Keeps.same) | intro _ | split
    | dsimp +zetaDelta only

theorem execAmoSwp_keeps {t : Nat} {s : State} : KeepsR s (execAmoSwp t s) := by
  have hk := Keeps.refl s
  unfold execAmoSwp
  repeat' first
    | with_reducible assumption | with_reducible apply atomicInsn_keeps | with_reducible apply KeepsR.next
    | exact Eq.refl _ | exact List.length_modify .. | exact List.length_map .. | extract_lets
    | ((fail_if_success (fail_if_success conv => arg 2; arg 42)); with_reducible apply Keeps.same) | intro _ | split
    | dsimp +zetaDelta only

theorem execAmoCas_keeps {t : Nat} {s : State} : KeepsR s (execAmoCas t s) := by
  have hk := Keeps.refl s
  unfold execAmoCas
  repeat' first
    | with_reducible assumption | with_reducible apply atomicInsn_keeps | with_reducible apply KeepsR.next
    | exact Eq.refl _ | exact List.length_modify .. | exact List.length_map .. | extract_lets
    | ((fail_if_success (fail_if_success conv => arg 2; arg 42)); with_reducible apply Keeps.same) | intro _ | split
    | dsimp +zetaDelta only

theorem execFamoAddF32_keeps {t : Nat} {s : State} : KeepsR s (execFamoAddF32 t s) := by
  have hk := Keeps.refl s
  unfold execFamoAddF32
  repeat' first
    | with_reducible assumption | with_reducible apply atomicInsn_keeps | with_reducible apply KeepsR.next
    | exact Eq.refl _ | exact List.length_modify .. | exact List.length_map .. | extract_lets
    | ((fail_if_success (fail_if_success conv => arg 2; arg 42)); with_reducible apply Keeps.same) | intro _ | split
    | dsimp +zetaDelta only

theorem execFamoAddBf16_keeps {t : Nat} {s : State} : KeepsR s (execFamoAddBf16 t s) := by
  have hk := Keeps.refl s
  unfold execFamoAddBf16
  repeat' first
    | with_reducible assumption | with_reducible apply atomicInsn_keeps | with_reducible apply KeepsR.next
    | exact Eq.refl _ | exact List.length_modify .. | exact List.length_map .. | extract_lets
    | ((fail_if_success (fail_if_success conv => arg 2; arg 42)); with_reducible apply Keeps.same) | intro _ | split
    | dsimp +zetaDelta only

/-! The operations of Machine/Issue.lean. -/

theorem pickSlot_keeps {s0 : State} {s : State} {g : Group} (hk : Keeps s0 s) :
     KeepsP s0 (pickSlot s g) := by
  unfold pickSlot
  repeat' first
    | with_reducible assumption | with_reducible apply draw_keeps | with_reducible exact KeepsP.none
    | with_reducible apply KeepsP.some | with_reducible apply KeepsP.map | exact Eq.refl _
    | exact List.length_modify .. | exact List.length_map .. | extract_lets
    | ((fail_if_success (fail_if_success conv => arg 2; arg 42)); with_reducible apply Keeps.same) | intro _ | split
    | dsimp +zetaDelta only

theorem issueImage_keeps {s0 : State} {s : State} {t : Nat} {g : Group} {w : Word} {bytes : List Byte} {record : Nat} {copy : Bool} (hk : Keeps s0 s) :
     Keeps s0 (issueImage s t g w bytes record copy) := by
  unfold issueImage
  repeat' first
    | with_reducible assumption | refine (pickSlot_keeps ?_).out _ _ (by assumption)
    | with_reducible apply pickSlot_keeps | with_reducible apply newId_keeps | with_reducible apply groupUpd_keeps
    | with_reducible apply retire_keeps | with_reducible apply KeepsO.getD | exact Eq.refl _
    | exact List.length_modify .. | exact List.length_map .. | extract_lets
    | ((fail_if_success (fail_if_success conv => arg 2; arg 42)); with_reducible apply Keeps.same) | intro _ | split
    | dsimp +zetaDelta only

theorem execEissue_keeps {t : Nat} {s : State} : KeepsR s (execEissue t s) := by
  have hk := Keeps.refl s
  unfold execEissue
  repeat' first
    | with_reducible assumption | with_reducible apply onHeld_keeps | with_reducible apply takeRead_keeps
    | refine (pickSlot_keeps ?_).out _ _ (by assumption) | with_reducible apply pickSlot_keeps
    | with_reducible apply issueImage_keeps | with_reducible apply raiseAt_keeps
    | with_reducible apply threadRead_keeps | with_reducible apply KeepsR.next | exact Eq.refl _
    | exact List.length_modify .. | exact List.length_map .. | extract_lets
    | ((fail_if_success (fail_if_success conv => arg 2; arg 42)); with_reducible apply Keeps.same) | intro _ | split
    | dsimp +zetaDelta only

theorem execMcopy_keeps {t : Nat} {s : State} : KeepsR s (execMcopy t s) := by
  have hk := Keeps.refl s
  unfold execMcopy
  repeat' first
    | with_reducible assumption | with_reducible apply onInsn_keeps | with_reducible apply issueImage_keeps
    | with_reducible apply KeepsR.next | exact Eq.refl _ | exact List.length_modify .. | exact List.length_map ..
    | extract_lets | ((fail_if_success (fail_if_success conv => arg 2; arg 42)); with_reducible apply Keeps.same)
    | intro _ | split | dsimp +zetaDelta only

theorem unknownTicket_keeps {s0 : State} {s : State} {t : Nat} {d : Nat} (hk : Keeps s0 s) :
     Keeps s0 (unknownTicket s t d) := by
  unfold unknownTicket
  repeat' first
    | with_reducible assumption | with_reducible apply draw_keeps | with_reducible apply retire_keeps
    | exact Eq.refl _ | exact List.length_modify .. | exact List.length_map .. | extract_lets
    | ((fail_if_success (fail_if_success conv => arg 2; arg 42)); with_reducible apply Keeps.same) | intro _ | split
    | dsimp +zetaDelta only

theorem execEwait_keeps {t : Nat} {s : State} : KeepsR s (execEwait t s) := by
  have hk := Keeps.refl s
  unfold execEwait
  repeat' first
    | with_reducible assumption | with_reducible apply onInsn_keeps | with_reducible apply retire_keeps
    | with_reducible apply unknownTicket_keeps | with_reducible apply KeepsR.next | exact Eq.refl _
    | exact List.length_modify .. | exact List.length_map .. | extract_lets
    | ((fail_if_success (fail_if_success conv => arg 2; arg 42)); with_reducible apply Keeps.same) | intro _ | split
    | dsimp +zetaDelta only

theorem execEtest_keeps {t : Nat} {s : State} : KeepsR s (execEtest t s) := by
  have hk := Keeps.refl s
  unfold execEtest
  repeat' first
    | with_reducible assumption | with_reducible apply onInsn_keeps | with_reducible apply retire_keeps
    | with_reducible apply unknownTicket_keeps | with_reducible apply KeepsR.next | exact Eq.refl _
    | exact List.length_modify .. | exact List.length_map .. | extract_lets
    | ((fail_if_success (fail_if_success conv => arg 2; arg 42)); with_reducible apply Keeps.same) | intro _ | split
    | dsimp +zetaDelta only

theorem collDone_keeps {s0 : State} {s : State} {t : Nat} {d : Nat} {status : Nat} {v : Dword} (hk : Keeps s0 s) :
     Keeps s0 (collDone s t d status v) := by
  unfold collDone
  repeat' first
    | with_reducible assumption | with_reducible apply threadUpd_keeps | exact Eq.refl _
    | exact List.length_modify .. | exact List.length_map .. | extract_lets
    | ((fail_if_success (fail_if_success conv => arg 2; arg 42)); with_reducible apply Keeps.same) | intro _ | split
    | dsimp +zetaDelta only

theorem collRound_keeps {s0 : State} {s : State} {t : Nat} {group : Nat} {op : Nat} {type : Nat} {redop : Nat} {count : Nat} {chain : List Byte} {d : Nat} {result : State → Nat → List Byte → Dword × State} (hk : Keeps s0 s) (hresult : ∀ x0 x1 x2, Keeps s0 x0 → Keeps s0 (result x0 x1 x2).2) :
     Keeps s0 (collRound s t group op type redop count chain d result) := by
  unfold collRound
  repeat' first
    | with_reducible assumption | with_reducible apply collDone_keeps | with_reducible apply newId_keeps
    | with_reducible apply threadUpd_keeps | with_reducible apply readMembers_keeps
    | with_reducible apply descUpd_keeps | with_reducible apply gatherDrop_keeps | with_reducible apply grpUpd_keeps
    | with_reducible apply clBegin_keeps | with_reducible apply clStep_keeps | with_reducible apply hresult
    | exact Eq.refl _ | exact List.length_modify .. | exact List.length_map .. | extract_lets
    | ((fail_if_success (fail_if_success conv => arg 2; arg 42)); with_reducible apply Keeps.same) | intro _ | split
    | dsimp +zetaDelta only

theorem collInsn_keeps {s0 : State} {s : State} {t : Nat} {pc : Nat} {round : State → State} (hk : Keeps s0 s) (hround : ∀ x0, Keeps s0 x0 → Keeps s0 (round x0)) :
     Keeps s0 (collInsn s t pc round) := by
  unfold collInsn
  repeat' first
    | with_reducible assumption | with_reducible apply hround | exact Eq.refl _ | exact List.length_modify ..
    | exact List.length_map .. | extract_lets
    | ((fail_if_success (fail_if_success conv => arg 2; arg 42)); with_reducible apply Keeps.same) | intro _ | split
    | dsimp +zetaDelta only

theorem execCbar_keeps {t : Nat} {s : State} : KeepsR s (execCbar t s) := by
  have hk := Keeps.refl s
  unfold execCbar
  repeat' first
    | with_reducible assumption | with_reducible apply onHeld_keeps | with_reducible apply collInsn_keeps
    | with_reducible apply collRound_keeps | with_reducible apply KeepsR.next | exact Eq.refl _
    | exact List.length_modify .. | exact List.length_map .. | extract_lets
    | ((fail_if_success (fail_if_success conv => arg 2; arg 42)); with_reducible apply Keeps.same) | intro _ | split
    | dsimp +zetaDelta only

theorem execCred_keeps {t : Nat} {s : State} : KeepsR s (execCred t s) := by
  have hk := Keeps.refl s
  unfold execCred
  repeat' first
    | with_reducible assumption | with_reducible apply onHeld_keeps | with_reducible apply raiseIllegal_keeps
    | with_reducible apply collInsn_keeps | with_reducible apply collRound_keeps | with_reducible apply draw_keeps
    | with_reducible apply KeepsR.next | exact Eq.refl _ | exact List.length_modify .. | exact List.length_map ..
    | extract_lets | ((fail_if_success (fail_if_success conv => arg 2; arg 42)); with_reducible apply Keeps.same)
    | intro _ | split | dsimp +zetaDelta only

/-! The operations of Machine/Operands.lean. -/

theorem readAll_keeps {s0 s : State} {owner : Nat} {l : List (Nat × Nat)} (h : Keeps s0 s) :
    Keeps s0 (readAll s owner l).1 := by
  induction l generalizing s with
  | nil => exact h
  | cons m ms ih =>
    obtain ⟨a, n⟩ := m
    have h1 := readRange_keeps (owner := owner) (addr := a) (len := n) h
    unfold readAll
    extract_lets r
    have h2 := ih h1
    split
    · exact h2
    · exact h2
    · exact h1

theorem viewOf_keeps {s0 : State} {s : State} {d : Desc} (hk : Keeps s0 s) :
     Keeps s0 (viewOf s d).2 := by
  unfold viewOf
  repeat' first
    | with_reducible assumption | with_reducible apply draw_keeps | exact Eq.refl _ | exact List.length_modify ..
    | exact List.length_map .. | extract_lets
    | ((fail_if_success (fail_if_success conv => arg 2; arg 42)); with_reducible apply Keeps.same) | intro _ | split
    | dsimp +zetaDelta only

theorem refetchStop_keeps {s0 : State} {s : State} {d : Nat} {block : Nat} (hk : Keeps s0 s) :
     Keeps s0 (refetchStop s d block) := by
  unfold refetchStop
  repeat' first
    | with_reducible assumption | with_reducible apply descUpd_keeps | with_reducible apply KeepsO.getD
    | exact Eq.refl _ | exact List.length_modify .. | exact List.length_map .. | extract_lets
    | ((fail_if_success (fail_if_success conv => arg 2; arg 42)); with_reducible apply Keeps.same) | intro _ | split
    | dsimp +zetaDelta only

theorem engineStops_keeps {s0 : State} {s : State} {d : Nat} {addr : Nat} {r : Rd} (hk : Keeps s0 s) :
     Keeps s0 (engineStops s d addr r) := by
  unfold engineStops
  repeat' first
    | with_reducible assumption | with_reducible apply refetchStop_keeps | with_reducible apply readFails_keeps
    | exact Eq.refl _ | exact List.length_modify .. | exact List.length_map .. | extract_lets
    | ((fail_if_success (fail_if_success conv => arg 2; arg 42)); with_reducible apply Keeps.same) | intro _ | split
    | dsimp +zetaDelta only

/-! The operations of Machine/Chain.lean. -/

/-! The operations of Machine/Matrix.lean. -/

theorem mxUpd_keeps {s0 : State} {s : State} {d : Nat} {f : MxRun → MxRun} (hk : Keeps s0 s) :
     Keeps s0 (mxUpd s d f) := by
  unfold mxUpd
  repeat' first
    | with_reducible assumption | with_reducible apply descUpd_keeps | exact Eq.refl _ | exact List.length_modify ..
    | exact List.length_map .. | extract_lets
    | ((fail_if_success (fail_if_success conv => arg 2; arg 42)); with_reducible apply Keeps.same) | intro _ | split
    | dsimp +zetaDelta only

theorem elemHavoc_keeps {s0 : State} {s : State} {f : Fmt} {row : Nat} {lo : Nat} {n : Nat} (hk : Keeps s0 s) :
     Keeps s0 (elemHavoc s f row lo n) := by
  unfold elemHavoc
  repeat' first
    | with_reducible assumption | with_reducible apply drawBytes_keeps | with_reducible apply wildStore_keeps
    | exact Eq.refl _ | exact List.length_modify .. | exact List.length_map .. | extract_lets
    | ((fail_if_success (fail_if_success conv => arg 2; arg 42)); with_reducible apply Keeps.same) | intro _ | split
    | dsimp +zetaDelta only

theorem markHavoc_keeps {s0 : State} {s : State} {f : Fmt} {row : Nat} {srow : Nat} {marks : List Bool} (hk : Keeps s0 s) :
     Keeps s0 (markHavoc s f row srow marks) := by
  unfold markHavoc
  repeat' first
    | with_reducible assumption | with_reducible apply elemHavoc_keeps | with_reducible apply rangeHavoc_keeps
    | with_reducible apply foldl_keeps | with_reducible apply foldl_keeps_fst | with_reducible apply foldl_keeps_snd
    | with_reducible apply KeepsO.getD | exact Eq.refl _ | exact List.length_modify .. | exact List.length_map ..
    | extract_lets | ((fail_if_success (fail_if_success conv => arg 2; arg 42)); with_reducible apply Keeps.same)
    | intro _ | split | dsimp +zetaDelta only

theorem splitTaint_keeps {s0 : State} {s : State} {d : Desc} {g : Geo} {r : MxRun} {row : Nat} (hk : Keeps s0 s) :
     Keeps s0 (splitTaint s d g r row) := by
  unfold splitTaint
  repeat' first
    | with_reducible assumption | with_reducible apply rangeHavoc_keeps | with_reducible apply foldl_keeps
    | with_reducible apply foldl_keeps_fst | with_reducible apply foldl_keeps_snd | exact Eq.refl _
    | exact List.length_modify .. | exact List.length_map .. | extract_lets
    | ((fail_if_success (fail_if_success conv => arg 2; arg 42)); with_reducible apply Keeps.same) | intro _ | split
    | dsimp +zetaDelta only

theorem mxTaint_keeps {s0 : State} {s : State} {d : Desc} (hk : Keeps s0 s) :
     Keeps s0 (mxTaint s d) := by
  unfold mxTaint
  repeat' first
    | with_reducible assumption | with_reducible apply markHavoc_keeps | with_reducible apply splitTaint_keeps
    | with_reducible apply rangeHavoc_keeps | with_reducible apply foldl_keeps | with_reducible apply foldl_keeps_fst
    | with_reducible apply foldl_keeps_snd | with_reducible apply KeepsO.getD | exact Eq.refl _
    | exact List.length_modify .. | exact List.length_map .. | extract_lets
    | ((fail_if_success (fail_if_success conv => arg 2; arg 42)); with_reducible apply Keeps.same) | intro _ | split
    | dsimp +zetaDelta only

theorem mxPlanes_keeps {s0 : State} {s : State} {d : Desc} {keep : Bool} (hk : Keeps s0 s) :
     Keeps s0 (mxPlanes s d keep) := by
  unfold mxPlanes
  repeat' first
    | with_reducible assumption | exact Eq.refl _ | exact List.length_modify .. | exact List.length_map ..
    | extract_lets | ((fail_if_success (fail_if_success conv => arg 2; arg 42)); with_reducible apply Keeps.same)
    | intro _ | split | dsimp +zetaDelta only

theorem mxDone_keeps {s0 : State} {s : State} {d : Nat} (hk : Keeps s0 s) :
     Keeps s0 (mxDone s d) := by
  unfold mxDone
  repeat' first
    | with_reducible assumption | with_reducible apply endDesc_keeps | with_reducible apply descUpd_keeps
    | with_reducible apply mxPlanes_keeps | with_reducible apply mxTaint_keeps | exact Eq.refl _
    | exact List.length_modify .. | exact List.length_map .. | extract_lets
    | ((fail_if_success (fail_if_success conv => arg 2; arg 42)); with_reducible apply Keeps.same) | intro _ | split
    | dsimp +zetaDelta only

theorem mxStart_keeps {s0 : State} {s : State} {x : Desc} (hk : Keeps s0 s) :
     Keeps s0 (mxStart s x) := by
  unfold mxStart
  repeat' first
    | with_reducible assumption | with_reducible apply mxDone_keeps | refine (wakeFor_keeps ?_).out _ (by assumption)
    | with_reducible apply wakeFor_keeps | with_reducible apply risePower_keeps | with_reducible apply newId_keeps
    | with_reducible apply setMode_keeps | with_reducible apply takeHolds_keeps | with_reducible apply descUpd_keeps
    | with_reducible apply foldl_keeps | with_reducible apply foldl_keeps_fst | with_reducible apply foldl_keeps_snd
    | exact Eq.refl _ | exact List.length_modify .. | exact List.length_map .. | extract_lets
    | ((fail_if_success (fail_if_success conv => arg 2; arg 42)); with_reducible apply Keeps.same) | intro _ | split
    | dsimp +zetaDelta only

theorem execMatmul_keeps {d : Nat} {s : State} : KeepsR s (execMatmul d s) := by
  have hk := Keeps.refl s
  unfold execMatmul
  repeat' first
    | with_reducible assumption | with_reducible apply whenLive_keeps | with_reducible apply mxStart_keeps
    | with_reducible apply KeepsR.next | exact Eq.refl _ | exact List.length_modify .. | exact List.length_map ..
    | extract_lets | ((fail_if_success (fail_if_success conv => arg 2; arg 42)); with_reducible apply Keeps.same)
    | intro _ | split | dsimp +zetaDelta only

theorem execDiag_keeps {d : Nat} {s : State} : KeepsR s (execDiag d s) := by
  have hk := Keeps.refl s
  unfold execDiag
  repeat' first
    | with_reducible assumption | with_reducible apply whenLive_keeps | with_reducible apply mxStart_keeps
    | with_reducible apply KeepsR.next | exact Eq.refl _ | exact List.length_modify .. | exact List.length_map ..
    | extract_lets | ((fail_if_success (fail_if_success conv => arg 2; arg 42)); with_reducible apply Keeps.same)
    | intro _ | split | dsimp +zetaDelta only

theorem accDrop_keeps {s0 : State} {s : State} {p : Nat × Nat} (hk : Keeps s0 s) :
     Keeps s0 (accDrop s p) := by
  unfold accDrop
  repeat' first
    | with_reducible assumption | exact Eq.refl _ | exact List.length_modify .. | exact List.length_map ..
    | extract_lets | ((fail_if_success (fail_if_success conv => arg 2; arg 42)); with_reducible apply Keeps.same)
    | intro _ | split | dsimp +zetaDelta only

theorem noteStop_keeps {s0 : State} {s : State} {d : Nat} {x : MxStop} (hk : Keeps s0 s) :
     Keeps s0 (noteStop s d x) := by
  unfold noteStop
  repeat' first
    | with_reducible assumption | with_reducible apply mxUpd_keeps | exact Eq.refl _ | exact List.length_modify ..
    | exact List.length_map .. | extract_lets
    | ((fail_if_success (fail_if_success conv => arg 2; arg 42)); with_reducible apply Keeps.same) | intro _ | split
    | dsimp +zetaDelta only

theorem tileDrained_keeps {s0 : State} {s : State} {d : Nat} {i : Nat} {t : Nat} (hk : Keeps s0 s) :
     Keeps s0 (tileDrained s d i t) := by
  unfold tileDrained
  repeat' first
    | with_reducible assumption | with_reducible apply mxUpd_keeps | exact Eq.refl _ | exact List.length_modify ..
    | exact List.length_map .. | extract_lets
    | ((fail_if_success (fail_if_success conv => arg 2; arg 42)); with_reducible apply Keeps.same) | intro _ | split
    | dsimp +zetaDelta only

theorem tileFails_keeps {s0 : State} {s : State} {d : Nat} {i : Nat} {p : Nat × Nat} {x : MxStop} (hk : Keeps s0 s) :
     Keeps s0 (tileFails s d i p x) := by
  unfold tileFails
  repeat' first
    | with_reducible assumption | with_reducible apply mxDone_keeps | with_reducible apply tileDrained_keeps
    | with_reducible apply accDrop_keeps | with_reducible apply noteStop_keeps | exact Eq.refl _
    | exact List.length_modify .. | exact List.length_map .. | extract_lets
    | ((fail_if_success (fail_if_success conv => arg 2; arg 42)); with_reducible apply Keeps.same) | intro _ | split
    | dsimp +zetaDelta only

theorem tileStops_keeps {s0 : State} {s : State} {d : Nat} {g : Geo} {i : Nat} {t : Nat} {p : Nat × Nat} {x : Nat × Rd} (hk : Keeps s0 s) :
     Keeps s0 (tileStops s d g i t p x) := by
  unfold tileStops
  repeat' first
    | with_reducible assumption | with_reducible apply refetchStop_keeps | with_reducible apply mxUpd_keeps
    | with_reducible apply tileFails_keeps | exact Eq.refl _ | exact List.length_modify .. | exact List.length_map ..
    | extract_lets | ((fail_if_success (fail_if_success conv => arg 2; arg 42)); with_reducible apply Keeps.same)
    | intro _ | split | dsimp +zetaDelta only

theorem groupStops_keeps {s0 : State} {s : State} {d : Nat} {g : Geo} {i : Nat} {x : Nat × Rd} (hk : Keeps s0 s) :
     Keeps s0 (groupStops s d g i x) := by
  unfold groupStops
  repeat' first
    | with_reducible assumption | with_reducible apply refetchStop_keeps | with_reducible apply noteStop_keeps
    | exact Eq.refl _ | exact List.length_modify .. | exact List.length_map .. | extract_lets
    | ((fail_if_success (fail_if_success conv => arg 2; arg 42)); with_reducible apply Keeps.same) | intro _ | split
    | dsimp +zetaDelta only

theorem cellsMet_keeps {s0 : State} {s : State} {d : Nat} {i : Nat} {mode : Nat} {p : Nat × Nat} (hk : Keeps s0 s) :
     Keeps s0 (cellsMet s d i mode p) := by
  unfold cellsMet
  repeat' first
    | with_reducible assumption | with_reducible apply descUpd_keeps | with_reducible apply mxUpd_keeps
    | exact Eq.refl _ | exact List.length_modify .. | exact List.length_map .. | extract_lets
    | ((fail_if_success (fail_if_success conv => arg 2; arg 42)); with_reducible apply Keeps.same) | intro _ | split
    | dsimp +zetaDelta only

theorem planeSwitch_keeps {s0 : State} {s : State} {p : Plane} (hk : Keeps s0 s) :
     Keeps s0 (planeSwitch s p) := by
  unfold planeSwitch
  repeat' first
    | with_reducible assumption | exact Eq.refl _ | exact List.length_modify .. | exact List.length_map ..
    | extract_lets | ((fail_if_success (fail_if_success conv => arg 2; arg 42)); with_reducible apply Keeps.same)
    | intro _ | split | dsimp +zetaDelta only

theorem planePut_keeps {s0 : State} {s : State} {p : Plane} (hk : Keeps s0 s) :
     Keeps s0 (planePut s p) := by
  unfold planePut
  repeat' first
    | with_reducible assumption | exact Eq.refl _ | exact List.length_modify .. | exact List.length_map ..
    | extract_lets | ((fail_if_success (fail_if_success conv => arg 2; arg 42)); with_reducible apply Keeps.same)
    | intro _ | split | dsimp +zetaDelta only

theorem accPut_keeps {s0 : State} {s : State} {d : Desc} {p : Nat × Nat} {t : Nat} {x : List (List AccSum) × Flags} (hk : Keeps s0 s) :
     Keeps s0 (accPut s d p t x) := by
  unfold accPut
  repeat' first
    | with_reducible assumption | exact Eq.refl _ | exact List.length_modify .. | exact List.length_map ..
    | extract_lets | ((fail_if_success (fail_if_success conv => arg 2; arg 42)); with_reducible apply Keeps.same)
    | intro _ | split | dsimp +zetaDelta only

theorem execPlaneLoad_keeps {d : Nat} {part : Nat} {s : State} : KeepsR s (execPlaneLoad d part s) := by
  have hk := Keeps.refl s
  unfold execPlaneLoad
  repeat' first
    | with_reducible assumption | with_reducible apply whenLive_keeps | with_reducible apply readAll_keeps
    | with_reducible apply tileStops_keeps | with_reducible apply tileFails_keeps
    | with_reducible apply cellsMet_keeps | with_reducible apply viewOf_keeps
    | with_reducible apply planeSwitch_keeps | with_reducible apply planePut_keeps | with_reducible apply mxUpd_keeps
    | with_reducible apply accPut_keeps | with_reducible apply KeepsO.getD | with_reducible apply KeepsR.next
    | exact Eq.refl _ | exact List.length_modify .. | exact List.length_map .. | extract_lets
    | ((fail_if_success (fail_if_success conv => arg 2; arg 42)); with_reducible apply Keeps.same) | intro _ | split
    | dsimp +zetaDelta only

theorem rowWrite_keeps {s0 : State} {s : State} {d : Desc} {addr : Nat} {bs : List Byte} {counter : Option Nat} (hk : Keeps s0 s) :
     Keeps s0 (rowWrite s d addr bs counter) := by
  unfold rowWrite
  repeat' first
    | with_reducible assumption | with_reducible apply descWrite_keeps | exact Eq.refl _
    | exact List.length_modify .. | exact List.length_map .. | extract_lets
    | ((fail_if_success (fail_if_success conv => arg 2; arg 42)); with_reducible apply Keeps.same) | intro _ | split
    | dsimp +zetaDelta only

theorem tileWild_keeps {s0 : State} {s : State} {d : Desc} {g : Geo} {kind : Nat} {t : Nat} (hk : Keeps s0 s) :
     Keeps s0 (tileWild s d g kind t) := by
  unfold tileWild
  repeat' first
    | with_reducible assumption | with_reducible apply rangeHavoc_keeps | with_reducible apply foldl_keeps
    | with_reducible apply foldl_keeps_fst | with_reducible apply foldl_keeps_snd | exact Eq.refl _
    | exact List.length_modify .. | exact List.length_map .. | extract_lets
    | ((fail_if_success (fail_if_success conv => arg 2; arg 42)); with_reducible apply Keeps.same) | intro _ | split
    | dsimp +zetaDelta only

theorem tileHavoc_keeps {s0 : State} {s : State} {d : Desc} {g : Geo} {t : Nat} (hk : Keeps s0 s) :
     Keeps s0 (tileHavoc s d g t) := by
  unfold tileHavoc
  repeat' first
    | with_reducible assumption | with_reducible apply tileWild_keeps | exact Eq.refl _ | exact List.length_modify ..
    | exact List.length_map .. | extract_lets
    | ((fail_if_success (fail_if_success conv => arg 2; arg 42)); with_reducible apply Keeps.same) | intro _ | split
    | dsimp +zetaDelta only

theorem addReport_keeps {s0 : State} {s : State} {d : Nat} {i : Nat} {rep : Report} (hk : Keeps s0 s) :
     Keeps s0 (addReport s d i rep) := by
  unfold addReport
  repeat' first
    | with_reducible assumption | with_reducible apply mxUpd_keeps | with_reducible apply descUpd_keeps
    | with_reducible apply KeepsO.getD | exact Eq.refl _ | exact List.length_modify .. | exact List.length_map ..
    | extract_lets | ((fail_if_success (fail_if_success conv => arg 2; arg 42)); with_reducible apply Keeps.same)
    | intro _ | split | dsimp +zetaDelta only

theorem reportStop_keeps {s0 : State} {s : State} {d : Nat} {g : Geo} {t : Nat} {rep : Report} (hk : Keeps s0 s) :
     Keeps s0 (reportStop s d g t rep) := by
  unfold reportStop
  repeat' first
    | with_reducible assumption | with_reducible apply noteStop_keeps | with_reducible apply addReport_keeps
    | exact Eq.refl _ | exact List.length_modify .. | exact List.length_map .. | extract_lets
    | ((fail_if_success (fail_if_success conv => arg 2; arg 42)); with_reducible apply Keeps.same) | intro _ | split
    | dsimp +zetaDelta only

theorem tileSend_keeps {s0 : State} {s : State} {d : Desc} {t : Nat} {k : Nat} {w : TileWrite} (hk : Keeps s0 s) :
     Keeps s0 (tileSend s d t k w) := by
  unfold tileSend
  repeat' first
    | with_reducible assumption | with_reducible apply rowWrite_keeps | with_reducible apply mxUpd_keeps
    | with_reducible apply KeepsO.getD | exact Eq.refl _ | exact List.length_modify .. | exact List.length_map ..
    | extract_lets | ((fail_if_success (fail_if_success conv => arg 2; arg 42)); with_reducible apply Keeps.same)
    | intro _ | split | dsimp +zetaDelta only

theorem tileEmit_keeps {s0 : State} {s : State} {d : Desc} {g : Geo} {t : Nat} {outs : List OutRow} {limit : Option Nat} (hk : Keeps s0 s) :
     Keeps s0 (tileEmit s d g t outs limit) := by
  unfold tileEmit
  repeat' first
    | with_reducible assumption | with_reducible apply rowWrite_keeps | with_reducible apply tileSend_keeps
    | with_reducible apply mxUpd_keeps | with_reducible apply foldl_keeps | with_reducible apply foldl_keeps_fst
    | with_reducible apply foldl_keeps_snd | with_reducible apply KeepsO.getD | exact Eq.refl _
    | exact List.length_modify .. | exact List.length_map .. | extract_lets
    | ((fail_if_success (fail_if_success conv => arg 2; arg 42)); with_reducible apply Keeps.same) | intro _ | split
    | dsimp +zetaDelta only

theorem tileFinish_keeps {s0 : State} {s : State} {byte : Nat → Byte} {d : Desc} {g : Geo} {t : Nat} {rows : List (Nat × List Lane)} (hk : Keeps s0 s) :
     Keeps s0 (tileFinish s byte d g t rows) := by
  unfold tileFinish
  repeat' first
    | with_reducible assumption | with_reducible apply reportStop_keeps | with_reducible apply tileHavoc_keeps
    | with_reducible apply tileEmit_keeps | exact Eq.refl _ | exact List.length_modify .. | exact List.length_map ..
    | extract_lets | ((fail_if_success (fail_if_success conv => arg 2; arg 42)); with_reducible apply Keeps.same)
    | intro _ | split | dsimp +zetaDelta only

theorem statWrite_keeps {s0 : State} {s : State} {d : Desc} {r : Nat} {off : Nat} {vs : List Val} (hk : Keeps s0 s) :
     Keeps s0 (statWrite s d r off vs) := by
  unfold statWrite
  repeat' first
    | with_reducible assumption | with_reducible apply rowWrite_keeps | exact Eq.refl _ | exact List.length_modify ..
    | exact List.length_map .. | extract_lets
    | ((fail_if_success (fail_if_success conv => arg 2; arg 42)); with_reducible apply Keeps.same) | intro _ | split
    | dsimp +zetaDelta only

theorem keepRows_keeps {s0 : State} {s : State} {d : Nat} {t : Nat} {rows : List (Nat × List Lane)} (hk : Keeps s0 s) :
     Keeps s0 (keepRows s d t rows) := by
  unfold keepRows
  repeat' first
    | with_reducible assumption | with_reducible apply mxUpd_keeps | exact Eq.refl _ | exact List.length_modify ..
    | exact List.length_map .. | extract_lets
    | ((fail_if_success (fail_if_success conv => arg 2; arg 42)); with_reducible apply Keeps.same) | intro _ | split
    | dsimp +zetaDelta only

theorem groupFinal_keeps {s0 : State} {s : State} {d : Nat} {g : Geo} {i : Nat} (hk : Keeps s0 s) :
     Keeps s0 (groupFinal s d g i) := by
  unfold groupFinal
  repeat' first
    | with_reducible assumption | with_reducible apply mxUpd_keeps | exact Eq.refl _ | exact List.length_modify ..
    | exact List.length_map .. | extract_lets
    | ((fail_if_success (fail_if_success conv => arg 2; arg 42)); with_reducible apply Keeps.same) | intro _ | split
    | dsimp +zetaDelta only

theorem holdEnd_keeps {s0 : State} {s : State} {byte : Nat → Byte} {d : Desc} {g : Geo} {i : Nat} (hk : Keeps s0 s) :
     Keeps s0 (holdEnd s byte d g i) := by
  unfold holdEnd
  repeat' first
    | with_reducible assumption | with_reducible apply readAll_keeps | with_reducible apply groupStops_keeps
    | with_reducible apply reportStop_keeps | with_reducible apply tileFinish_keeps
    | with_reducible apply statWrite_keeps | with_reducible apply groupFinal_keeps | with_reducible apply foldl_keeps
    | with_reducible apply foldl_keeps_fst | with_reducible apply foldl_keeps_snd | exact Eq.refl _
    | exact List.length_modify .. | exact List.length_map .. | extract_lets
    | ((fail_if_success (fail_if_success conv => arg 2; arg 42)); with_reducible apply Keeps.same) | intro _ | split
    | dsimp +zetaDelta only

theorem splitEnd_keeps {s0 : State} {s : State} {d : Desc} {g : Geo} {i : Nat} (hk : Keeps s0 s) :
     Keeps s0 (splitEnd s d g i) := by
  unfold splitEnd
  repeat' first
    | with_reducible assumption | with_reducible apply reportStop_keeps | with_reducible apply statWrite_keeps
    | with_reducible apply mxUpd_keeps | with_reducible apply foldl_keeps | with_reducible apply foldl_keeps_fst
    | with_reducible apply foldl_keeps_snd | exact Eq.refl _ | exact List.length_modify .. | exact List.length_map ..
    | extract_lets | ((fail_if_success (fail_if_success conv => arg 2; arg 42)); with_reducible apply Keeps.same)
    | intro _ | split | dsimp +zetaDelta only

theorem rescaleEmit_keeps {s0 : State} {s : State} {byte : Nat → Byte} {d : Desc} {g : Geo} {ts : List Nat} (hk : Keeps s0 s) :
     Keeps s0 (rescaleEmit s byte d g ts) := by
  unfold rescaleEmit
  repeat' first
    | with_reducible assumption | with_reducible apply reportStop_keeps | with_reducible apply tileHavoc_keeps
    | with_reducible apply tileFinish_keeps | with_reducible apply foldl_keeps | with_reducible apply foldl_keeps_fst
    | with_reducible apply foldl_keeps_snd | exact Eq.refl _ | exact List.length_modify .. | exact List.length_map ..
    | extract_lets | ((fail_if_success (fail_if_success conv => arg 2; arg 42)); with_reducible apply Keeps.same)
    | intro _ | split | dsimp +zetaDelta only

theorem rescaleFinal_keeps {s0 : State} {s : State} {d : Desc} {g : Geo} {i : Nat} (hk : Keeps s0 s) :
     Keeps s0 (rescaleFinal s d g i) := by
  unfold rescaleFinal
  repeat' first
    | with_reducible assumption | with_reducible apply reportStop_keeps | with_reducible apply rowWrite_keeps
    | with_reducible apply statWrite_keeps | with_reducible apply groupFinal_keeps | with_reducible apply foldl_keeps
    | with_reducible apply foldl_keeps_fst | with_reducible apply foldl_keeps_snd | exact Eq.refl _
    | exact List.length_modify .. | exact List.length_map .. | extract_lets
    | ((fail_if_success (fail_if_success conv => arg 2; arg 42)); with_reducible apply Keeps.same) | intro _ | split
    | dsimp +zetaDelta only

theorem splitStore_keeps {s0 : State} {s : State} {d : Desc} {c0 : Nat} {rows : List (Nat × List Lane)} (hk : Keeps s0 s) :
     Keeps s0 (splitStore s d c0 rows) := by
  unfold splitStore
  repeat' first
    | with_reducible assumption | with_reducible apply rowWrite_keeps | with_reducible apply foldl_keeps
    | with_reducible apply foldl_keeps_fst | with_reducible apply foldl_keeps_snd | exact Eq.refl _
    | exact List.length_modify .. | exact List.length_map .. | extract_lets
    | ((fail_if_success (fail_if_success conv => arg 2; arg 42)); with_reducible apply Keeps.same) | intro _ | split
    | dsimp +zetaDelta only

theorem slotTakes_keeps {s0 : State} {s : State} {d : Desc} {g : Geo} {i : Nat} (hk : Keeps s0 s) :
     Keeps s0 (slotTakes s d g i) := by
  unfold slotTakes
  repeat' first
    | with_reducible assumption | with_reducible apply drawBytes_keeps | with_reducible apply rowWrite_keeps
    | exact Eq.refl _ | exact List.length_modify .. | exact List.length_map .. | extract_lets
    | ((fail_if_success (fail_if_success conv => arg 2; arg 42)); with_reducible apply Keeps.same) | intro _ | split
    | dsimp +zetaDelta only

theorem trapHavoc_keeps {s0 : State} {s : State} {d : Desc} {g : Geo} {t : Nat} (hk : Keeps s0 s) :
     Keeps s0 (trapHavoc s d g t) := by
  unfold trapHavoc
  repeat' first
    | with_reducible assumption | with_reducible apply tileHavoc_keeps | with_reducible apply slotTakes_keeps
    | with_reducible apply rangeHavoc_keeps | with_reducible apply foldl_keeps | with_reducible apply foldl_keeps_fst
    | with_reducible apply foldl_keeps_snd | exact Eq.refl _ | exact List.length_modify .. | exact List.length_map ..
    | extract_lets | ((fail_if_success (fail_if_success conv => arg 2; arg 42)); with_reducible apply Keeps.same)
    | intro _ | split | dsimp +zetaDelta only

theorem tilePolicy_keeps {s0 : State} {s : State} {byte : Nat → Byte} {d : Desc} {g : Geo} {r : MxRun} {t : Nat} {rows : List (Nat × List Lane)} (hk : Keeps s0 s) :
     Keeps s0 (tilePolicy s byte d g r t rows) := by
  unfold tilePolicy
  repeat' first
    | with_reducible assumption | with_reducible apply tileFinish_keeps | with_reducible apply keepRows_keeps
    | with_reducible apply slotTakes_keeps | with_reducible apply holdEnd_keeps
    | with_reducible apply splitStore_keeps | with_reducible apply splitEnd_keeps
    | with_reducible apply rescaleEmit_keeps | with_reducible apply rescaleFinal_keeps | exact Eq.refl _
    | exact List.length_modify .. | exact List.length_map .. | extract_lets
    | ((fail_if_success (fail_if_success conv => arg 2; arg 42)); with_reducible apply Keeps.same) | intro _ | split
    | dsimp +zetaDelta only

theorem drainBreaks_keeps {s0 : State} {s : State} {byte : Nat → Byte} {d : Desc} {g : Geo} {i : Nat} {t : Nat} {p : Nat × Nat} {rows : List (Nat × List Lane)} {rep : Report} (hk : Keeps s0 s) :
     Keeps s0 (drainBreaks s byte d g i t p rows rep) := by
  unfold drainBreaks
  repeat' first
    | with_reducible assumption | with_reducible apply draw_keeps | with_reducible apply tileEmit_keeps
    | with_reducible apply cellsMet_keeps | exact Eq.refl _ | exact List.length_modify .. | exact List.length_map ..
    | extract_lets | ((fail_if_success (fail_if_success conv => arg 2; arg 42)); with_reducible apply Keeps.same)
    | intro _ | split | dsimp +zetaDelta only

theorem execTileDrain_keeps {d : Nat} {tile : Nat} {s : State} : KeepsR s (execTileDrain d tile s) := by
  have hk := Keeps.refl s
  unfold execTileDrain
  repeat' first
    | with_reducible assumption | with_reducible apply whenLive_keeps | with_reducible apply readAll_keeps
    | with_reducible apply tileStops_keeps | with_reducible apply viewOf_keeps
    | with_reducible apply drainBreaks_keeps | with_reducible apply reportStop_keeps
    | with_reducible apply trapHavoc_keeps | with_reducible apply tilePolicy_keeps
    | with_reducible apply mxDone_keeps | with_reducible apply tileDrained_keeps | with_reducible apply accDrop_keeps
    | with_reducible apply foldl_keeps | with_reducible apply foldl_keeps_fst | with_reducible apply foldl_keeps_snd
    | with_reducible apply KeepsR.next | exact Eq.refl _ | exact List.length_modify .. | exact List.length_map ..
    | extract_lets | ((fail_if_success (fail_if_success conv => arg 2; arg 42)); with_reducible apply Keeps.same)
    | intro _ | split | dsimp +zetaDelta only

theorem mxAftermath_keeps {s0 : State} {s : State} {d : Desc} (hk : Keeps s0 s) :
     Keeps s0 (mxAftermath s d) := by
  unfold mxAftermath
  repeat' first
    | with_reducible assumption | with_reducible apply tileWild_keeps | with_reducible apply mxPlanes_keeps
    | with_reducible apply mxTaint_keeps | with_reducible apply tileHavoc_keeps | with_reducible apply foldl_keeps
    | with_reducible apply foldl_keeps_fst | with_reducible apply foldl_keeps_snd | exact Eq.refl _
    | exact List.length_modify .. | exact List.length_map .. | extract_lets
    | ((fail_if_success (fail_if_success conv => arg 2; arg 42)); with_reducible apply Keeps.same) | intro _ | split
    | dsimp +zetaDelta only

theorem execSplitPass_keeps {d : Nat} {rowGroup : Nat} {s : State} : KeepsR s (execSplitPass d rowGroup s) := by
  have hk := Keeps.refl s
  unfold execSplitPass
  repeat' first
    | with_reducible assumption | with_reducible apply whenLive_keeps
    | refine (wakeFor_keeps ?_).out _ (by assumption) | with_reducible apply wakeFor_keeps
    | with_reducible apply mxUpd_keeps | with_reducible apply risePower_keeps | with_reducible apply KeepsR.next
    | exact Eq.refl _ | exact List.length_modify .. | exact List.length_map .. | extract_lets
    | ((fail_if_success (fail_if_success conv => arg 2; arg 42)); with_reducible apply Keeps.same) | intro _ | split
    | dsimp +zetaDelta only

theorem passEnds_keeps {s0 : State} {s : State} {d : Nat} {i : Nat} (hk : Keeps s0 s) :
     Keeps s0 (passEnds s d i) := by
  unfold passEnds
  repeat' first
    | with_reducible assumption | with_reducible apply mxDone_keeps | with_reducible apply mxUpd_keeps
    | exact Eq.refl _ | exact List.length_modify .. | exact List.length_map .. | extract_lets
    | ((fail_if_success (fail_if_success conv => arg 2; arg 42)); with_reducible apply Keeps.same) | intro _ | split
    | dsimp +zetaDelta only

theorem execSplitPassRetire_keeps {d : Nat} {rowGroup : Nat} {s : State} : KeepsR s (execSplitPassRetire d rowGroup s) := by
  have hk := Keeps.refl s
  unfold execSplitPassRetire
  repeat' first
    | with_reducible assumption | with_reducible apply whenLive_keeps | with_reducible apply readAll_keeps
    | with_reducible apply refetchStop_keeps | with_reducible apply passEnds_keeps
    | with_reducible apply groupStops_keeps | with_reducible apply viewOf_keeps
    | with_reducible apply reportStop_keeps | with_reducible apply tileFinish_keeps
    | with_reducible apply statWrite_keeps | with_reducible apply groupFinal_keeps | with_reducible apply foldl_keeps
    | with_reducible apply foldl_keeps_fst | with_reducible apply foldl_keeps_snd | with_reducible apply KeepsR.next
    | exact Eq.refl _ | exact List.length_modify .. | exact List.length_map .. | extract_lets
    | ((fail_if_success (fail_if_success conv => arg 2; arg 42)); with_reducible apply Keeps.same) | intro _ | split
    | dsimp +zetaDelta only

/-! The operations of Machine/Vector.lean. -/

theorem vocStore_keeps {s0 s : State} {u off : Nat} {bs : List Byte} (h : Keeps s0 s) : Keeps s0 (vocStore s u off bs) :=
  h.trans ⟨rfl, rfl, rfl, Nat.le_refl _, Nat.le_refl _, Nat.le_refl _,
    fun c => ⟨c.1, c.2, c.3, c.4, c.5, mapSetAll_wf c.6, c.7, c.8, c.9⟩, fun z => ⟨z.1, z.2, z.3, z.4⟩⟩

theorem vocHavoc_keeps {s0 : State} {s : State} {u : Nat} {r : Nat × Nat} (hk : Keeps s0 s) :
     Keeps s0 (vocHavoc s u r) := by
  unfold vocHavoc
  repeat' first
    | with_reducible assumption | with_reducible apply drawBytes_keeps | with_reducible apply vocStore_keeps
    | exact Eq.refl _ | exact List.length_modify .. | exact List.length_map .. | extract_lets
    | ((fail_if_success (fail_if_success conv => arg 2; arg 42)); with_reducible apply Keeps.same) | intro _ | split
    | dsimp +zetaDelta only

theorem vxUpd_keeps {s0 : State} {s : State} {d : Nat} {f : VxRun → VxRun} (hk : Keeps s0 s) :
     Keeps s0 (vxUpd s d f) := by
  unfold vxUpd
  repeat' first
    | with_reducible assumption | with_reducible apply descUpd_keeps | exact Eq.refl _ | exact List.length_modify ..
    | exact List.length_map .. | extract_lets
    | ((fail_if_success (fail_if_success conv => arg 2; arg 42)); with_reducible apply Keeps.same) | intro _ | split
    | dsimp +zetaDelta only

theorem vxLose_keeps {s0 : State} {s : State} {d : Desc} (hk : Keeps s0 s) :
     Keeps s0 (vxLose s d) := by
  unfold vxLose
  repeat' first
    | with_reducible assumption | with_reducible apply vocHavoc_keeps | with_reducible apply vxUpd_keeps
    | with_reducible apply foldl_keeps | with_reducible apply foldl_keeps_fst | with_reducible apply foldl_keeps_snd
    | exact Eq.refl _ | exact List.length_modify .. | exact List.length_map .. | extract_lets
    | ((fail_if_success (fail_if_success conv => arg 2; arg 42)); with_reducible apply Keeps.same) | intro _ | split
    | dsimp +zetaDelta only

theorem vxFail_keeps {s0 : State} {s : State} {d : Nat} {status : Nat} {det : Detail} (hk : Keeps s0 s) :
     Keeps s0 (vxFail s d status det) := by
  unfold vxFail
  repeat' first
    | with_reducible assumption | with_reducible apply endDesc_keeps | with_reducible apply vxLose_keeps
    | exact Eq.refl _ | exact List.length_modify .. | exact List.length_map .. | extract_lets
    | ((fail_if_success (fail_if_success conv => arg 2; arg 42)); with_reducible apply Keeps.same) | intro _ | split
    | dsimp +zetaDelta only

theorem vxStops_keeps {s0 : State} {s : State} {d : Nat} {addr : Nat} {r : Rd} (hk : Keeps s0 s) :
     Keeps s0 (vxStops s d addr r) := by
  unfold vxStops
  repeat' first
    | with_reducible assumption | with_reducible apply engineStops_keeps | with_reducible apply vxLose_keeps
    | exact Eq.refl _ | exact List.length_modify .. | exact List.length_map .. | extract_lets
    | ((fail_if_success (fail_if_success conv => arg 2; arg 42)); with_reducible apply Keeps.same) | intro _ | split
    | dsimp +zetaDelta only

theorem vxParity_keeps {s0 : State} {s : State} {d : Desc} {r : VxRun} {w : Nat} {back : Bool} (hk : Keeps s0 s) :
     Keeps s0 (vxParity s d r w back) := by
  unfold vxParity
  repeat' first
    | with_reducible assumption | with_reducible apply descUpd_keeps | with_reducible apply vxFail_keeps
    | exact Eq.refl _ | exact List.length_modify .. | exact List.length_map .. | extract_lets
    | ((fail_if_success (fail_if_success conv => arg 2; arg 42)); with_reducible apply Keeps.same) | intro _ | split
    | dsimp +zetaDelta only

theorem vocHavocBits_keeps {s0 : State} {s : State} {u : Nat} {r : BitSpan} (hk : Keeps s0 s) :
     Keeps s0 (vocHavocBits s u r) := by
  unfold vocHavocBits
  repeat' first
    | with_reducible assumption | with_reducible apply drawBytes_keeps | with_reducible apply vocStore_keeps
    | exact Eq.refl _ | exact List.length_modify .. | exact List.length_map .. | extract_lets
    | ((fail_if_success (fail_if_success conv => arg 2; arg 42)); with_reducible apply Keeps.same) | intro _ | split
    | dsimp +zetaDelta only

theorem backHavoc_keeps {s0 : State} {s : State} {d : Desc} {marks : List BitSpan} (hk : Keeps s0 s) :
     Keeps s0 (backHavoc s d marks) := by
  unfold backHavoc
  repeat' first
    | with_reducible assumption | with_reducible apply drawBytes_keeps | with_reducible apply wildStore_keeps
    | with_reducible apply foldl_keeps | with_reducible apply foldl_keeps_fst | with_reducible apply foldl_keeps_snd
    | exact Eq.refl _ | exact List.length_modify .. | exact List.length_map .. | extract_lets
    | ((fail_if_success (fail_if_success conv => arg 2; arg 42)); with_reducible apply Keeps.same) | intro _ | split
    | dsimp +zetaDelta only

theorem vxTaint_keeps {s0 : State} {s : State} {d : Desc} {u : Nat} (hk : Keeps s0 s) :
     Keeps s0 (vxTaint s d u) := by
  unfold vxTaint
  repeat' first
    | with_reducible assumption | with_reducible apply backHavoc_keeps | with_reducible apply vocHavocBits_keeps
    | with_reducible apply foldl_keeps | with_reducible apply foldl_keeps_fst | with_reducible apply foldl_keeps_snd
    | exact Eq.refl _ | exact List.length_modify .. | exact List.length_map .. | extract_lets
    | ((fail_if_success (fail_if_success conv => arg 2; arg 42)); with_reducible apply Keeps.same) | intro _ | split
    | dsimp +zetaDelta only

theorem vxDone_keeps {s0 : State} {s : State} {d : Nat} (hk : Keeps s0 s) :
     Keeps s0 (vxDone s d) := by
  unfold vxDone
  repeat' first
    | with_reducible assumption | with_reducible apply endDesc_keeps | with_reducible apply vxLose_keeps
    | with_reducible apply vxTaint_keeps | exact Eq.refl _ | exact List.length_modify .. | exact List.length_map ..
    | extract_lets | ((fail_if_success (fail_if_success conv => arg 2; arg 42)); with_reducible apply Keeps.same)
    | intro _ | split | dsimp +zetaDelta only

theorem execVchain_keeps {d : Nat} {s : State} : KeepsR s (execVchain d s) := by
  have hk := Keeps.refl s
  unfold execVchain
  repeat' first
    | with_reducible assumption | with_reducible apply whenLive_keeps
    | refine (wakeFor_keeps ?_).out _ (by assumption) | with_reducible apply wakeFor_keeps
    | with_reducible apply risePower_keeps | with_reducible apply takeHolds_keeps | with_reducible apply newId_keeps
    | with_reducible apply vxDone_keeps | with_reducible apply descUpd_keeps | with_reducible apply KeepsR.next
    | exact Eq.refl _ | exact List.length_modify .. | exact List.length_map .. | extract_lets
    | ((fail_if_success (fail_if_success conv => arg 2; arg 42)); with_reducible apply Keeps.same) | intro _ | split
    | dsimp +zetaDelta only

theorem fillRow_keeps {s0 : State} {s : State} {d : Desc} {u : Nat} {x : VXfer} {j : Nat} (hk : Keeps s0 s) :
     Keeps s0 (fillRow s d u x j) := by
  unfold fillRow
  repeat' first
    | with_reducible assumption | with_reducible apply readRange_keeps | with_reducible apply freshen_keeps
    | with_reducible apply vocStore_keeps | with_reducible apply vxStops_keeps | exact Eq.refl _
    | exact List.length_modify .. | exact List.length_map .. | extract_lets
    | ((fail_if_success (fail_if_success conv => arg 2; arg 42)); with_reducible apply Keeps.same) | intro _ | split
    | dsimp +zetaDelta only

theorem execFill_keeps {d : Nat} {s : State} : KeepsR s (execFill d s) := by
  have hk := Keeps.refl s
  unfold execFill
  repeat' first
    | with_reducible assumption | with_reducible apply whenLive_keeps | with_reducible apply fillRow_keeps
    | with_reducible apply vxUpd_keeps | with_reducible apply foldl_keeps | with_reducible apply foldl_keeps_fst
    | with_reducible apply foldl_keeps_snd | with_reducible apply KeepsR.next | exact Eq.refl _
    | exact List.length_modify .. | exact List.length_map .. | extract_lets
    | ((fail_if_success (fail_if_success conv => arg 2; arg 42)); with_reducible apply Keeps.same) | intro _ | split
    | dsimp +zetaDelta only

theorem execSweep_keeps {d : Nat} {s : State} : KeepsR s (execSweep d s) := by
  have hk := Keeps.refl s
  unfold execSweep
  repeat' first
    | with_reducible assumption | with_reducible apply whenLive_keeps | with_reducible apply vxUpd_keeps
    | with_reducible apply vxParity_keeps | with_reducible apply vxFail_keeps | with_reducible apply descUpd_keeps
    | with_reducible apply vocStore_keeps | with_reducible apply vxDone_keeps | with_reducible apply foldl_keeps
    | with_reducible apply foldl_keeps_fst | with_reducible apply foldl_keeps_snd | with_reducible apply KeepsO.getD
    | with_reducible apply KeepsR.next | exact Eq.refl _ | exact List.length_modify .. | exact List.length_map ..
    | extract_lets | ((fail_if_success (fail_if_success conv => arg 2; arg 42)); with_reducible apply Keeps.same)
    | intro _ | split | dsimp +zetaDelta only

theorem backEntry_keeps {s0 : State} {s : State} {x : Desc} {u : Nat} {e : VXfer} (hk : Keeps s0 s) :
     Keeps s0 (backEntry s x u e) := by
  unfold backEntry
  repeat' first
    | with_reducible assumption | with_reducible apply rowWrite_keeps | with_reducible apply foldl_keeps
    | with_reducible apply foldl_keeps_fst | with_reducible apply foldl_keeps_snd | exact Eq.refl _
    | exact List.length_modify .. | exact List.length_map .. | extract_lets
    | ((fail_if_success (fail_if_success conv => arg 2; arg 42)); with_reducible apply Keeps.same) | intro _ | split
    | dsimp +zetaDelta only

theorem execWriteBack_keeps {d : Nat} {s : State} : KeepsR s (execWriteBack d s) := by
  have hk := Keeps.refl s
  unfold execWriteBack
  repeat' first
    | with_reducible assumption | with_reducible apply whenLive_keeps | with_reducible apply vxParity_keeps
    | with_reducible apply rangeHavoc_keeps | with_reducible apply vxUpd_keeps | with_reducible apply backEntry_keeps
    | with_reducible apply vxDone_keeps | with_reducible apply foldl_keeps | with_reducible apply foldl_keeps_fst
    | with_reducible apply foldl_keeps_snd | with_reducible apply KeepsR.next | exact Eq.refl _
    | exact List.length_modify .. | exact List.length_map .. | extract_lets
    | ((fail_if_success (fail_if_success conv => arg 2; arg 42)); with_reducible apply Keeps.same) | intro _ | split
    | dsimp +zetaDelta only

theorem execReplay_keeps {d : Nat} {s : State} : KeepsR s (execReplay d s) := by
  have hk := Keeps.refl s
  unfold execReplay
  repeat' first
    | with_reducible assumption | with_reducible apply whenLive_keeps | with_reducible apply vxFail_keeps
    | with_reducible apply raiseErr_keeps | with_reducible apply descUpd_keeps | with_reducible apply mxPlanes_keeps
    | with_reducible apply KeepsO.getD | with_reducible apply KeepsR.next | exact Eq.refl _
    | exact List.length_modify .. | exact List.length_map .. | extract_lets
    | ((fail_if_success (fail_if_success conv => arg 2; arg 42)); with_reducible apply Keeps.same) | intro _ | split
    | dsimp +zetaDelta only

/-! The operations of Machine/Tiles.lean. -/

theorem shapePair_keeps {s0 : State} {s : State} {t : Nat} {w : Word} {cfg : List Word} {i : Nat} {j : Nat} (hk : Keeps s0 s) :
     Keeps s0 (shapePair s t w cfg i j) := by
  unfold shapePair
  repeat' first
    | with_reducible assumption | with_reducible apply raiseFault_keeps | exact Eq.refl _
    | exact List.length_modify .. | exact List.length_map .. | extract_lets
    | ((fail_if_success (fail_if_success conv => arg 2; arg 42)); with_reducible apply Keeps.same) | intro _ | split
    | dsimp +zetaDelta only

theorem shapeNone_keeps {s0 : State} {s : State} {t : Nat} {w : Word} {cfg : List Word} {i : Nat} (hk : Keeps s0 s) :
     Keeps s0 (shapeNone s t w cfg i) := by
  unfold shapeNone
  repeat' first
    | with_reducible assumption | with_reducible apply draw_keeps | with_reducible apply raiseFault_keeps
    | exact Eq.refl _ | exact List.length_modify .. | exact List.length_map .. | extract_lets
    | ((fail_if_success (fail_if_success conv => arg 2; arg 42)); with_reducible apply Keeps.same) | intro _ | split
    | dsimp +zetaDelta only

theorem shapeAsked_keeps {s0 : State} {s : State} {t : Nat} {w : Word} {cfg : List Word} {i : Nat} {rows : Nat} {bpr : Nat} {fmt : Option Nat} (hk : Keeps s0 s) :
     Keeps s0 (shapeAsked s t w cfg i rows bpr fmt) := by
  unfold shapeAsked
  repeat' first
    | with_reducible assumption | with_reducible apply draw_keeps | with_reducible apply raiseFault_keeps
    | with_reducible apply KeepsO.getD | exact Eq.refl _ | exact List.length_modify .. | exact List.length_map ..
    | extract_lets | ((fail_if_success (fail_if_success conv => arg 2; arg 42)); with_reducible apply Keeps.same)
    | intro _ | split | dsimp +zetaDelta only

theorem mapO_keeps {α : Type} {s0 : State} {o : Option α} {f : α → State} (h : ∀ x, Keeps s0 (f x)) :
    KeepsO s0 (o.map f) := by
  cases o with
  | none => exact KeepsO.none
  | some x => exact KeepsO.some (h x)

theorem tcfgFault_keeps {s0 s : State} {t : Nat} {w : Word} {cfg : List Word} {i : Nat} {es : List Word}
    (h : Keeps s0 s) : KeepsO s0 (tcfgFault s t w cfg i es) := by
  unfold tcfgFault
  split
  · exact KeepsO.some (raiseFault_keeps h)
  · exact mapO_keeps fun _ => shapeAsked_keeps h

theorem tileParity_keeps {s0 : State} {s : State} {gi : Nat} {word : Nat} (hk : Keeps s0 s) :
     Keeps s0 (tileParity s gi word) := by
  unfold tileParity
  repeat' first
    | with_reducible assumption | with_reducible apply descUpd_keeps | with_reducible apply endLaunch_keeps
    | exact Eq.refl _ | exact List.length_modify .. | exact List.length_map .. | extract_lets
    | ((fail_if_success (fail_if_success conv => arg 2; arg 42)); with_reducible apply Keeps.same) | intro _ | split
    | dsimp +zetaDelta only

theorem quadParity_keeps {s0 : State} {s : State} {gi : Nat} {q : Nat} (hk : Keeps s0 s) :
     Keeps s0 (quadParity s gi q) := by
  unfold quadParity
  repeat' first
    | with_reducible assumption | with_reducible apply endLaunch_keeps | exact Eq.refl _
    | exact List.length_modify .. | exact List.length_map .. | extract_lets
    | ((fail_if_success (fail_if_success conv => arg 2; arg 42)); with_reducible apply Keeps.same) | intro _ | split
    | dsimp +zetaDelta only

theorem tileEnter_keeps {s0 : State} {s : State} {t : Nat} {x : Thread} {w : Word} {waits : Bool} {cfg : List Word} (hk : Keeps s0 s) :
     Keeps s0 (tileEnter s t x w waits cfg) := by
  unfold tileEnter
  repeat' first
    | with_reducible assumption | with_reducible apply newId_keeps | with_reducible apply groupUpd_keeps
    | with_reducible apply threadUpd_keeps | exact Eq.refl _ | exact List.length_modify .. | exact List.length_map ..
    | extract_lets | ((fail_if_success (fail_if_success conv => arg 2; arg 42)); with_reducible apply Keeps.same)
    | intro _ | split | dsimp +zetaDelta only

theorem execTzero_keeps {t : Nat} {s : State} : KeepsR s (execTzero t s) := by
  have hk := Keeps.refl s
  unfold execTzero
  repeat' first
    | with_reducible assumption | with_reducible apply onInsn_keeps | with_reducible apply tileEnter_keeps
    | with_reducible apply KeepsR.next | exact Eq.refl _ | exact List.length_modify .. | exact List.length_map ..
    | extract_lets | ((fail_if_success (fail_if_success conv => arg 2; arg 42)); with_reducible apply Keeps.same)
    | intro _ | split | dsimp +zetaDelta only

theorem execTload_keeps {t : Nat} {s : State} : KeepsR s (execTload t s) := by
  have hk := Keeps.refl s
  unfold execTload
  repeat' first
    | with_reducible assumption | with_reducible apply onInsn_keeps | with_reducible apply shapeNone_keeps
    | with_reducible apply tileEnter_keeps | with_reducible apply KeepsO.getD | with_reducible apply KeepsR.next
    | exact Eq.refl _ | exact List.length_modify .. | exact List.length_map .. | extract_lets
    | ((fail_if_success (fail_if_success conv => arg 2; arg 42)); with_reducible apply Keeps.same) | intro _ | split
    | dsimp +zetaDelta only

theorem execTstore_keeps {t : Nat} {s : State} : KeepsR s (execTstore t s) := by
  have hk := Keeps.refl s
  unfold execTstore
  repeat' first
    | with_reducible assumption | with_reducible apply onInsn_keeps | with_reducible apply shapeNone_keeps
    | with_reducible apply raiseIllegal_keeps | with_reducible apply tileEnter_keeps
    | with_reducible apply KeepsO.getD | with_reducible apply KeepsR.next | exact Eq.refl _
    | exact List.length_modify .. | exact List.length_map .. | extract_lets
    | ((fail_if_success (fail_if_success conv => arg 2; arg 42)); with_reducible apply Keeps.same) | intro _ | split
    | dsimp +zetaDelta only

theorem rowInsn_keeps {s : State} {t : Nat} {m : Mn} {waits : Bool} : KeepsR s (rowInsn s t m waits) := by
  have hk := Keeps.refl s
  unfold rowInsn
  repeat' first
    | with_reducible assumption | with_reducible apply onInsn_keeps | with_reducible apply tileEnter_keeps
    | with_reducible apply shapeAsked_keeps | with_reducible apply KeepsO.getD | with_reducible apply KeepsR.next
    | exact Eq.refl _ | exact List.length_modify .. | exact List.length_map .. | extract_lets
    | ((fail_if_success (fail_if_success conv => arg 2; arg 42)); with_reducible apply Keeps.same) | intro _ | split
    | dsimp +zetaDelta only

theorem execTget_keeps {t : Nat} {s : State} : KeepsR s (execTget t s) := by
  have hk := Keeps.refl s
  unfold execTget
  repeat' first
    | with_reducible assumption | with_reducible apply rowInsn_keeps | with_reducible apply KeepsR.next
    | exact Eq.refl _ | exact List.length_modify .. | exact List.length_map .. | extract_lets
    | ((fail_if_success (fail_if_success conv => arg 2; arg 42)); with_reducible apply Keeps.same) | intro _ | split
    | dsimp +zetaDelta only

theorem execTput_keeps {t : Nat} {s : State} : KeepsR s (execTput t s) := by
  have hk := Keeps.refl s
  unfold execTput
  repeat' first
    | with_reducible assumption | with_reducible apply rowInsn_keeps | with_reducible apply KeepsR.next
    | exact Eq.refl _ | exact List.length_modify .. | exact List.length_map .. | extract_lets
    | ((fail_if_success (fail_if_success conv => arg 2; arg 42)); with_reducible apply Keeps.same) | intro _ | split
    | dsimp +zetaDelta only

theorem execTwait_keeps {t : Nat} {s : State} : KeepsR s (execTwait t s) := by
  have hk := Keeps.refl s
  unfold execTwait
  repeat' first
    | with_reducible assumption | with_reducible apply onInsn_keeps | with_reducible apply tileEnter_keeps
    | with_reducible apply KeepsR.next | exact Eq.refl _ | exact List.length_modify .. | exact List.length_map ..
    | extract_lets | ((fail_if_success (fail_if_success conv => arg 2; arg 42)); with_reducible apply Keeps.same)
    | intro _ | split | dsimp +zetaDelta only

theorem execTcfg_keeps {t : Nat} {s : State} : KeepsR s (execTcfg t s) := by
  have hk := Keeps.refl s
  unfold execTcfg
  repeat' first
    | with_reducible assumption | with_reducible apply onInsn_keeps
    | refine (tcfgFault_keeps ?_).out _ (by assumption) | with_reducible apply tcfgFault_keeps
    | with_reducible apply tileEnter_keeps | with_reducible apply KeepsR.next | exact Eq.refl _
    | exact List.length_modify .. | exact List.length_map .. | extract_lets
    | ((fail_if_success (fail_if_success conv => arg 2; arg 42)); with_reducible apply Keeps.same) | intro _ | split
    | dsimp +zetaDelta only

theorem execTcfgm_keeps {t : Nat} {s : State} : KeepsR s (execTcfgm t s) := by
  have hk := Keeps.refl s
  unfold execTcfgm
  repeat' first
    | with_reducible assumption | with_reducible apply onHeld_keeps | with_reducible apply takeRead_keeps
    | with_reducible apply threadUpd_keeps | refine (tcfgFault_keeps ?_).out _ (by assumption)
    | with_reducible apply tcfgFault_keeps | with_reducible apply tileEnter_keeps
    | with_reducible apply raiseAt_keeps | with_reducible apply threadRead_keeps | with_reducible apply KeepsR.next
    | exact Eq.refl _ | exact List.length_modify .. | exact List.length_map .. | extract_lets
    | ((fail_if_success (fail_if_success conv => arg 2; arg 42)); with_reducible apply Keeps.same) | intro _ | split
    | dsimp +zetaDelta only

theorem execTmma_keeps {t : Nat} {s : State} : KeepsR s (execTmma t s) := by
  have hk := Keeps.refl s
  unfold execTmma
  repeat' first
    | with_reducible assumption | with_reducible apply onInsn_keeps | with_reducible apply shapePair_keeps
    | with_reducible apply shapeNone_keeps | with_reducible apply raiseFault_keeps
    | with_reducible apply tileEnter_keeps | with_reducible apply KeepsR.next | exact Eq.refl _
    | exact List.length_modify .. | exact List.length_map .. | extract_lets
    | ((fail_if_success (fail_if_success conv => arg 2; arg 42)); with_reducible apply Keeps.same) | intro _ | split
    | dsimp +zetaDelta only

theorem execTbind_keeps {t : Nat} {s : State} : KeepsR s (execTbind t s) := by
  have hk := Keeps.refl s
  unfold execTbind
  repeat' first
    | with_reducible assumption | with_reducible apply onInsn_keeps | with_reducible apply tileEnter_keeps
    | with_reducible apply KeepsR.next | exact Eq.refl _ | exact List.length_modify .. | exact List.length_map ..
    | extract_lets | ((fail_if_success (fail_if_success conv => arg 2; arg 42)); with_reducible apply Keeps.same)
    | intro _ | split | dsimp +zetaDelta only

theorem execTfree_keeps {t : Nat} {s : State} : KeepsR s (execTfree t s) := by
  have hk := Keeps.refl s
  unfold execTfree
  repeat' first
    | with_reducible assumption | with_reducible apply onInsn_keeps | with_reducible apply tileEnter_keeps
    | with_reducible apply KeepsR.next | exact Eq.refl _ | exact List.length_modify .. | exact List.length_map ..
    | extract_lets | ((fail_if_success (fail_if_success conv => arg 2; arg 42)); with_reducible apply Keeps.same)
    | intro _ | split | dsimp +zetaDelta only

theorem headUpd_keeps {s0 : State} {s : State} {gi : Nat} {f : TileOp → TileOp} (hk : Keeps s0 s) :
     Keeps s0 (headUpd s gi f) := by
  unfold headUpd
  repeat' first
    | with_reducible assumption | with_reducible apply groupUpd_keeps | exact Eq.refl _ | exact List.length_modify ..
    | exact List.length_map .. | extract_lets
    | ((fail_if_success (fail_if_success conv => arg 2; arg 42)); with_reducible apply Keeps.same) | intro _ | split
    | dsimp +zetaDelta only

theorem headDrop_keeps {s0 : State} {s : State} {gi : Nat} (hk : Keeps s0 s) :
     Keeps s0 (headDrop s gi) := by
  unfold headDrop
  repeat' first
    | with_reducible assumption | with_reducible apply groupUpd_keeps | exact Eq.refl _ | exact List.length_modify ..
    | exact List.length_map .. | extract_lets
    | ((fail_if_success (fail_if_success conv => arg 2; arg 42)); with_reducible apply Keeps.same) | intro _ | split
    | dsimp +zetaDelta only

theorem tileDone_keeps {s0 : State} {s : State} {gi : Nat} {o : TileOp} {d : Option (Nat × Dword)} (hk : Keeps s0 s) :
     Keeps s0 (tileDone s gi o d) := by
  unfold tileDone
  repeat' first
    | with_reducible assumption | with_reducible apply threadUpd_keeps | with_reducible apply headDrop_keeps
    | exact Eq.refl _ | exact List.length_modify .. | exact List.length_map .. | extract_lets
    | ((fail_if_success (fail_if_success conv => arg 2; arg 42)); with_reducible apply Keeps.same) | intro _ | split
    | dsimp +zetaDelta only

theorem xferStop_keeps {s0 : State} {s : State} {gi : Nat} {o : TileOp} (hk : Keeps s0 s) :
     Keeps s0 (xferStop s gi o) := by
  unfold xferStop
  repeat' first
    | with_reducible assumption | with_reducible apply threadUpd_keeps | with_reducible apply headDrop_keeps
    | exact Eq.refl _ | exact List.length_modify .. | exact List.length_map .. | extract_lets
    | ((fail_if_success (fail_if_success conv => arg 2; arg 42)); with_reducible apply Keeps.same) | intro _ | split
    | dsimp +zetaDelta only

theorem storeHavoc_keeps {s0 : State} {s : State} {o : TileOp} {r : Nat} {rows : Nat} {bpr : Nat} (hk : Keeps s0 s) :
     Keeps s0 (storeHavoc s o r rows bpr) := by
  unfold storeHavoc
  repeat' first
    | with_reducible assumption | with_reducible apply rangeHavoc_keeps | with_reducible apply foldl_keeps
    | with_reducible apply foldl_keeps_fst | with_reducible apply foldl_keeps_snd | exact Eq.refl _
    | exact List.length_modify .. | exact List.length_map .. | extract_lets
    | ((fail_if_success (fail_if_success conv => arg 2; arg 42)); with_reducible apply Keeps.same) | intro _ | split
    | dsimp +zetaDelta only

theorem rowFault_keeps {s0 : State} {s : State} {gi : Nat} {o : TileOp} {store : Bool} {r : Nat} {cause : Nat} {rows : Nat} {bpr : Nat} (hk : Keeps s0 s) :
     Keeps s0 (rowFault s gi o store r cause rows bpr) := by
  unfold rowFault
  repeat' first
    | with_reducible assumption | with_reducible apply groupUpd_keeps | with_reducible apply headDrop_keeps
    | with_reducible apply storeHavoc_keeps | with_reducible apply raiseFault_keeps | exact Eq.refl _
    | exact List.length_modify .. | exact List.length_map .. | extract_lets
    | ((fail_if_success (fail_if_success conv => arg 2; arg 42)); with_reducible apply Keeps.same) | intro _ | split
    | dsimp +zetaDelta only

theorem rowRead_keeps {s0 : State} {s : State} {gi : Nat} {a : Access} (hk : Keeps s0 s) :
     Keeps s0 (rowRead s gi a) := by
  unfold rowRead
  repeat' first
    | with_reducible assumption | with_reducible apply l1Check_keeps | with_reducible apply headUpd_keeps
    | with_reducible apply threadAccess_keeps | with_reducible apply foldl_keeps
    | with_reducible apply foldl_keeps_fst | with_reducible apply foldl_keeps_snd | exact Eq.refl _
    | exact List.length_modify .. | exact List.length_map .. | extract_lets
    | ((fail_if_success (fail_if_success conv => arg 2; arg 42)); with_reducible apply Keeps.same) | intro _ | split
    | dsimp +zetaDelta only

theorem tloadIssue_keeps {s0 : State} {s : State} {gi : Nat} (hk : Keeps s0 s) :
     Keeps s0 (tloadIssue s gi) := by
  unfold tloadIssue
  repeat' first
    | with_reducible assumption | with_reducible apply tileDone_keeps | with_reducible apply groupUpd_keeps
    | with_reducible apply rowFault_keeps | with_reducible apply noteRefusal_keeps
    | with_reducible apply rowRead_keeps | with_reducible apply headUpd_keeps | exact Eq.refl _
    | exact List.length_modify .. | exact List.length_map .. | extract_lets
    | ((fail_if_success (fail_if_success conv => arg 2; arg 42)); with_reducible apply Keeps.same) | intro _ | split
    | dsimp +zetaDelta only

theorem tloadStep_keeps {s0 : State} {s : State} {gi : Nat} {g : Group} {o : TileOp} (hk : Keeps s0 s) :
     Keeps s0 (tloadStep s gi g o) := by
  unfold tloadStep
  repeat' first
    | with_reducible assumption | with_reducible apply rowFault_keeps | with_reducible apply l1Alloc_keeps
    | with_reducible apply groupUpd_keeps | with_reducible apply headUpd_keeps
    | with_reducible apply tloadIssue_keeps | with_reducible apply xferStop_keeps
    | with_reducible apply headDrop_keeps | with_reducible apply foldl_keeps | with_reducible apply foldl_keeps_fst
    | with_reducible apply foldl_keeps_snd | exact Eq.refl _ | exact List.length_modify .. | exact List.length_map ..
    | extract_lets | ((fail_if_success (fail_if_success conv => arg 2; arg 42)); with_reducible apply Keeps.same)
    | intro _ | split | dsimp +zetaDelta only

theorem tstoreIssue_keeps {s0 s : State} {gi fuel : Nat} (h : Keeps s0 s) : Keeps s0 (tstoreIssue gi fuel s) := by
  induction fuel generalizing s with
  | zero => exact h
  | succ fuel ih =>
    unfold tstoreIssue
    repeat' first
      | with_reducible assumption | with_reducible apply ih | with_reducible apply tileParity_keeps | with_reducible apply headUpd_keeps
      | with_reducible apply noteRefusal_keeps | with_reducible apply threadAccess_keeps
      | with_reducible apply l1Store_keeps | with_reducible apply foldl_keeps | with_reducible apply foldl_keeps_fst
      | with_reducible apply foldl_keeps_snd | exact Eq.refl _ | exact List.length_modify ..
      | exact List.length_map .. | extract_lets
      | ((fail_if_success (fail_if_success conv => arg 2; arg 42)); with_reducible apply Keeps.same)
      | ((fail_if_success (fail_if_success conv => arg 2; arg 42)); with_reducible apply Keeps.tick)
      | exact Nat.le_max_left .. | exact Nat.le_add_right .. | omega | intro _ | split | dsimp +zetaDelta only

theorem tstoreStep_keeps {s0 : State} {s : State} {gi : Nat} {g : Group} {o : TileOp} (hk : Keeps s0 s) :
     Keeps s0 (tstoreStep s gi g o) := by
  unfold tstoreStep
  repeat' first
    | with_reducible assumption | with_reducible apply headUpd_keeps | with_reducible apply groupUpd_keeps
    | with_reducible apply tileDone_keeps | with_reducible apply tstoreIssue_keeps
    | with_reducible apply rowFault_keeps | with_reducible apply xferStop_keeps
    | with_reducible apply storeHavoc_keeps | with_reducible apply headDrop_keeps | exact Eq.refl _
    | exact List.length_modify .. | exact List.length_map .. | extract_lets
    | ((fail_if_success (fail_if_success conv => arg 2; arg 42)); with_reducible apply Keeps.same) | intro _ | split
    | dsimp +zetaDelta only

theorem xferStart_keeps {s0 : State} {s : State} {gi : Nat} {g : Group} {o : TileOp} {store : Bool} (hk : Keeps s0 s) :
     Keeps s0 (xferStart s gi g o store) := by
  unfold xferStart
  repeat' first
    | with_reducible assumption | with_reducible apply groupUpd_keeps | with_reducible apply headUpd_keeps
    | exact Eq.refl _ | exact List.length_modify .. | exact List.length_map .. | extract_lets
    | ((fail_if_success (fail_if_success conv => arg 2; arg 42)); with_reducible apply Keeps.same) | intro _ | split
    | dsimp +zetaDelta only

theorem bindStep_keeps {s0 : State} {s : State} {gi : Nat} {g : Group} {o : TileOp} (hk : Keeps s0 s) :
     Keeps s0 (bindStep s gi g o) := by
  unfold bindStep
  repeat' first
    | with_reducible assumption | with_reducible apply tileDone_keeps | with_reducible apply newId_keeps
    | refine (quadHeld_keeps ?_).out _ (by assumption) | with_reducible apply quadHeld_keeps
    | with_reducible apply groupUpd_keeps | with_reducible apply quadTake_keeps
    | with_reducible apply risePower_keeps | with_reducible apply KeepsO.getD | exact Eq.refl _
    | exact List.length_modify .. | exact List.length_map .. | extract_lets
    | ((fail_if_success (fail_if_success conv => arg 2; arg 42)); with_reducible apply Keeps.same) | intro _ | split
    | dsimp +zetaDelta only

theorem tileStep_keeps {s0 : State} {s : State} {gi : Nat} {g : Group} {o : TileOp} (hk : Keeps s0 s) :
     Keeps s0 (tileStep s gi g o) := by
  unfold tileStep
  repeat' first
    | with_reducible assumption | with_reducible apply groupUpd_keeps | with_reducible apply headDrop_keeps
    | with_reducible apply tstoreStep_keeps | with_reducible apply tloadStep_keeps
    | with_reducible apply xferStart_keeps | with_reducible apply tileParity_keeps
    | with_reducible apply tileDone_keeps | with_reducible apply quadParity_keeps
    | with_reducible apply bindStep_keeps | with_reducible apply quadRelease_keeps | exact Eq.refl _
    | exact List.length_modify .. | exact List.length_map .. | extract_lets
    | ((fail_if_success (fail_if_success conv => arg 2; arg 42)); with_reducible apply Keeps.same) | intro _ | split
    | dsimp +zetaDelta only

theorem execTileQueue_keeps {g : Nat} {s : State} : KeepsR s (execTileQueue g s) := by
  have hk := Keeps.refl s
  unfold execTileQueue
  repeat' first
    | with_reducible assumption | with_reducible apply whenLive_keeps | with_reducible apply tileStep_keeps
    | with_reducible apply KeepsR.next | exact Eq.refl _ | exact List.length_modify .. | exact List.length_map ..
    | extract_lets | ((fail_if_success (fail_if_success conv => arg 2; arg 42)); with_reducible apply Keeps.same)
    | intro _ | split | dsimp +zetaDelta only

/-! The operations of Machine/Start.lean. -/

theorem copyProgram_keeps {s0 : State} {s : State} {x : Desc} {g : Nat} (hk : Keeps s0 s) :
     Keeps s0 (copyProgram s x g) := by
  unfold copyProgram
  repeat' first
    | with_reducible assumption | with_reducible apply readRange_keeps | with_reducible apply groupUpd_keeps
    | with_reducible apply gatherDrop_keeps | with_reducible apply endLaunch_keeps
    | with_reducible apply descUpd_keeps | exact Eq.refl _ | exact List.length_modify .. | exact List.length_map ..
    | extract_lets | ((fail_if_success (fail_if_success conv => arg 2; arg 42)); with_reducible apply Keeps.same)
    | intro _ | split | dsimp +zetaDelta only

theorem execLaunch_keeps {d : Nat} {s : State} : KeepsR s (execLaunch d s) := by
  have hk := Keeps.refl s
  unfold execLaunch
  repeat' first
    | with_reducible assumption | with_reducible apply whenLive_keeps | with_reducible apply copyProgram_keeps
    | with_reducible apply stewardAct_keeps | refine (wakeFor_keeps ?_).out _ (by assumption)
    | with_reducible apply wakeFor_keeps | with_reducible apply newId_keeps | with_reducible apply groupUpd_keeps
    | with_reducible apply descUpd_keeps | with_reducible apply KeepsR.next | exact Eq.refl _
    | exact List.length_modify .. | exact List.length_map .. | extract_lets
    | ((fail_if_success (fail_if_success conv => arg 2; arg 42)); with_reducible apply Keeps.same) | intro _ | split
    | dsimp +zetaDelta only

theorem execLaunchComplete_keeps {g : Nat} {s : State} : KeepsR s (execLaunchComplete g s) := by
  have hk := Keeps.refl s
  unfold execLaunchComplete
  repeat' first
    | with_reducible assumption | with_reducible apply whenLive_keeps | with_reducible apply stewardAct_keeps
    | with_reducible apply retireLaunch_keeps | with_reducible apply KeepsR.next | exact Eq.refl _
    | exact List.length_modify .. | exact List.length_map .. | extract_lets
    | ((fail_if_success (fail_if_success conv => arg 2; arg 42)); with_reducible apply Keeps.same) | intro _ | split
    | dsimp +zetaDelta only

theorem execLaunchEnd_keeps {g : Nat} {s : State} : KeepsR s (execLaunchEnd g s) := by
  have hk := Keeps.refl s
  unfold execLaunchEnd
  repeat' first
    | with_reducible assumption | with_reducible apply whenLive_keeps | with_reducible apply stewardAct_keeps
    | with_reducible apply retireLaunch_keeps | with_reducible apply KeepsR.next | exact Eq.refl _
    | exact List.length_modify .. | exact List.length_map .. | extract_lets
    | ((fail_if_success (fail_if_success conv => arg 2; arg 42)); with_reducible apply Keeps.same) | intro _ | split
    | dsimp +zetaDelta only

/-! The operations of Machine/Checks.lean. -/

/-! The operations of Machine/Validate.lean. -/

theorem readEnds_keeps {s0 : State} {s : State} {d : Nat} {status : Nat} {det : Detail} {noOp : Bool} (hk : Keeps s0 s) :
     Keeps s0 (readEnds s d status det noOp) := by
  unfold readEnds
  repeat' first
    | with_reducible assumption | with_reducible apply gatherDrop_keeps | with_reducible apply endDesc_keeps
    | with_reducible apply descUpd_keeps | exact Eq.refl _ | exact List.length_modify .. | exact List.length_map ..
    | extract_lets | ((fail_if_success (fail_if_success conv => arg 2; arg 42)); with_reducible apply Keeps.same)
    | intro _ | split | dsimp +zetaDelta only

theorem readStops_keeps {s0 s : State} {d addr : Nat} {noOp : Bool} {r : Rd} (h : Keeps s0 s) :
    Keeps s0 (readStops s d addr noOp r) := by
  cases r <;> first | exact readEnds_keeps h | exact h

theorem fetchGoOn_keeps {s0 : State} {s : State} {d : Desc} (hk : Keeps s0 s) :
     Keeps s0 (fetchGoOn s d) := by
  unfold fetchGoOn
  repeat' first
    | with_reducible assumption | with_reducible apply readRange_keeps | with_reducible apply descUpd_keeps
    | with_reducible apply gatherDrop_keeps | with_reducible apply readStops_keeps | exact Eq.refl _
    | exact List.length_modify .. | exact List.length_map .. | extract_lets
    | ((fail_if_success (fail_if_success conv => arg 2; arg 42)); with_reducible apply Keeps.same) | intro _ | split
    | dsimp +zetaDelta only

theorem loadChain_keeps {s0 : State} {s : State} {d : Desc} (hk : Keeps s0 s) :
     Keeps s0 (loadChain s d).1 := by
  unfold loadChain
  repeat' first
    | with_reducible assumption | with_reducible apply readRange_keeps | with_reducible apply readStops_keeps
    | exact Eq.refl _ | exact List.length_modify .. | exact List.length_map .. | extract_lets
    | ((fail_if_success (fail_if_success conv => arg 2; arg 42)); with_reducible apply Keeps.same) | intro _ | split
    | dsimp +zetaDelta only

theorem loadGroup_keeps {s0 : State} {s : State} {d : Desc} (hk : Keeps s0 s) :
     Keeps s0 (loadGroup s d).1 := by
  unfold loadGroup
  repeat' first
    | with_reducible assumption | with_reducible apply readRange_keeps | with_reducible apply readMembers_keeps
    | with_reducible apply readStops_keeps | exact Eq.refl _ | exact List.length_modify .. | exact List.length_map ..
    | extract_lets | ((fail_if_success (fail_if_success conv => arg 2; arg 42)); with_reducible apply Keeps.same)
    | intro _ | split | dsimp +zetaDelta only

theorem loadStructures_keeps {s0 : State} {s : State} {d : Desc} (hk : Keeps s0 s) :
     Keeps s0 (loadStructures s d).1 := by
  unfold loadStructures
  repeat' first
    | with_reducible assumption | with_reducible apply loadChain_keeps | with_reducible apply loadGroup_keeps
    | exact Eq.refl _ | exact List.length_modify .. | exact List.length_map .. | extract_lets
    | ((fail_if_success (fail_if_success conv => arg 2; arg 42)); with_reducible apply Keeps.same) | intro _ | split
    | dsimp +zetaDelta only

theorem validated_keeps {s0 : State} {s : State} {d : Desc} (hk : Keeps s0 s) :
     Keeps s0 (validated s d) := by
  unfold validated
  repeat' first
    | with_reducible assumption | with_reducible apply ringSync_keeps | with_reducible apply freeBarriers_keeps
    | with_reducible apply descUpd_keeps | exact Eq.refl _ | exact List.length_modify .. | exact List.length_map ..
    | extract_lets | ((fail_if_success (fail_if_success conv => arg 2; arg 42)); with_reducible apply Keeps.same)
    | intro _ | split | dsimp +zetaDelta only

theorem validateSteps_keeps {s0 : State} {s : State} {d : Desc} (hk : Keeps s0 s) :
     Keeps s0 (validateSteps s d) := by
  unfold validateSteps
  repeat' first
    | with_reducible assumption | with_reducible apply rejectDesc_keeps | with_reducible apply noteRefusal_keeps
    | with_reducible apply validated_keeps | with_reducible apply foldl_keeps | with_reducible apply foldl_keeps_fst
    | with_reducible apply foldl_keeps_snd | exact Eq.refl _ | exact List.length_modify .. | exact List.length_map ..
    | extract_lets | ((fail_if_success (fail_if_success conv => arg 2; arg 42)); with_reducible apply Keeps.same)
    | intro _ | split | dsimp +zetaDelta only

theorem execDescriptorValidate_keeps {d : Nat} {s : State} : KeepsR s (execDescriptorValidate d s) := by
  have hk := Keeps.refl s
  unfold execDescriptorValidate
  repeat' first
    | with_reducible assumption | with_reducible apply whenLive_keeps | with_reducible apply fetchGoOn_keeps
    | with_reducible apply ringSync_keeps | with_reducible apply rejectDesc_keeps
    | with_reducible apply loadStructures_keeps | with_reducible apply validateSteps_keeps
    | with_reducible apply gatherDrop_keeps | with_reducible apply KeepsR.next | exact Eq.refl _
    | exact List.length_modify .. | exact List.length_map .. | extract_lets
    | ((fail_if_success (fail_if_success conv => arg 2; arg 42)); with_reducible apply Keeps.same) | intro _ | split
    | dsimp +zetaDelta only

/-! The operations of Machine/Retire.lean. -/

theorem splitHavoc_keeps {s0 : State} {s : State} {d : Desc} {g : Geo} (hk : Keeps s0 s) :
     Keeps s0 (splitHavoc s d g) := by
  unfold splitHavoc
  repeat' first
    | with_reducible assumption | with_reducible apply rangeHavoc_keeps | with_reducible apply foldl_keeps
    | with_reducible apply foldl_keeps_fst | with_reducible apply foldl_keeps_snd | exact Eq.refl _
    | exact List.length_modify .. | exact List.length_map .. | extract_lets
    | ((fail_if_success (fail_if_success conv => arg 2; arg 42)); with_reducible apply Keeps.same) | intro _ | split
    | dsimp +zetaDelta only

theorem mxHavoc_keeps {s0 : State} {s : State} {d : Desc} (hk : Keeps s0 s) :
     Keeps s0 (mxHavoc s d) := by
  unfold mxHavoc
  repeat' first
    | with_reducible assumption | with_reducible apply tileHavoc_keeps | with_reducible apply splitHavoc_keeps
    | with_reducible apply rangeHavoc_keeps | with_reducible apply foldl_keeps | with_reducible apply foldl_keeps_fst
    | with_reducible apply foldl_keeps_snd | exact Eq.refl _ | exact List.length_modify .. | exact List.length_map ..
    | extract_lets | ((fail_if_success (fail_if_success conv => arg 2; arg 42)); with_reducible apply Keeps.same)
    | intro _ | split | dsimp +zetaDelta only

theorem vxHavoc_keeps {s0 : State} {s : State} {d : Desc} (hk : Keeps s0 s) :
     Keeps s0 (vxHavoc s d) := by
  unfold vxHavoc
  repeat' first
    | with_reducible assumption | with_reducible apply rangeHavoc_keeps | with_reducible apply foldl_keeps
    | with_reducible apply foldl_keeps_fst | with_reducible apply foldl_keeps_snd | exact Eq.refl _
    | exact List.length_modify .. | exact List.length_map .. | extract_lets
    | ((fail_if_success (fail_if_success conv => arg 2; arg 42)); with_reducible apply Keeps.same) | intro _ | split
    | dsimp +zetaDelta only

theorem destHavoc_keeps {s0 : State} {s : State} {d : Desc} (hk : Keeps s0 s) :
     Keeps s0 (destHavoc s d) := by
  unfold destHavoc
  repeat' first
    | with_reducible assumption | with_reducible apply mxHavoc_keeps | with_reducible apply vxHavoc_keeps
    | with_reducible apply moveHavoc_keeps | with_reducible apply rangeHavoc_keeps
    | with_reducible apply spmHavoc_keeps | with_reducible apply foldl_keeps | with_reducible apply foldl_keeps_fst
    | with_reducible apply foldl_keeps_snd | exact Eq.refl _ | exact List.length_modify .. | exact List.length_map ..
    | extract_lets | ((fail_if_success (fail_if_success conv => arg 2; arg 42)); with_reducible apply Keeps.same)
    | intro _ | split | dsimp +zetaDelta only

theorem aftermath_keeps {s0 : State} {s : State} {d : Desc} (hk : Keeps s0 s) :
     Keeps s0 (aftermath s d) := by
  unfold aftermath
  repeat' first
    | with_reducible assumption | with_reducible apply destHavoc_keeps | with_reducible apply mxAftermath_keeps
    | with_reducible apply vxLose_keeps | with_reducible apply moveAftermath_keeps
    | with_reducible apply clAftermath_keeps | exact Eq.refl _ | exact List.length_modify ..
    | exact List.length_map .. | extract_lets
    | ((fail_if_success (fail_if_success conv => arg 2; arg 42)); with_reducible apply Keeps.same) | intro _ | split
    | dsimp +zetaDelta only

theorem haltRing_keeps {s0 : State} {s : State} {ring : Nat} {status : Nat} {seq : Nat} (hk : Keeps s0 s) :
     Keeps s0 (haltRing s ring status seq) := by
  unfold haltRing
  repeat' first
    | with_reducible assumption | with_reducible apply ringSync_keeps | with_reducible apply ringUpd_keeps
    | exact Eq.refl _ | exact List.length_modify .. | exact List.length_map .. | extract_lets
    | ((fail_if_success (fail_if_success conv => arg 2; arg 42)); with_reducible apply Keeps.same) | intro _ | split
    | dsimp +zetaDelta only

theorem retireWrite_keeps {s0 : State} {s : State} {d : Desc} {part : Nat} {addr : Nat} {bs : List Byte} {send : State → Access → State} (hk : Keeps s0 s) (hsend : ∀ x0 x1, Keeps s0 x0 → Keeps s0 (send x0 x1)) :
     Keeps s0 (retireWrite s d part addr bs send) := by
  unfold retireWrite
  repeat' first
    | with_reducible assumption | with_reducible apply descUpd_keeps | with_reducible apply retire_keeps
    | with_reducible apply hsend | exact Eq.refl _ | exact List.length_modify .. | exact List.length_map ..
    | extract_lets | ((fail_if_success (fail_if_success conv => arg 2; arg 42)); with_reducible apply Keeps.same)
    | intro _ | split | dsimp +zetaDelta only

theorem setPhase_keeps {s0 : State} {s : State} {d : Nat} {p : Phase} (hk : Keeps s0 s) :
     Keeps s0 (setPhase s d p) := by
  unfold setPhase
  repeat' first
    | with_reducible assumption | with_reducible apply descUpd_keeps | exact Eq.refl _ | exact List.length_modify ..
    | exact List.length_map .. | extract_lets
    | ((fail_if_success (fail_if_success conv => arg 2; arg 42)); with_reducible apply Keeps.same) | intro _ | split
    | dsimp +zetaDelta only

theorem recordSent_keeps {s0 : State} {s : State} {wild : Bool} {bs : List Byte} (hk : Keeps s0 s) :
     Keeps s0 (recordSent s wild bs).2 := by
  unfold recordSent
  repeat' first
    | with_reducible assumption | with_reducible apply drawBytes_keeps | exact Eq.refl _
    | exact List.length_modify .. | exact List.length_map .. | extract_lets
    | ((fail_if_success (fail_if_success conv => arg 2; arg 42)); with_reducible apply Keeps.same) | intro _ | split
    | dsimp +zetaDelta only

theorem recordStep_keeps {s0 : State} {s : State} {x : Desc} (hk : Keeps s0 s) :
     Keeps s0 (recordStep s x) := by
  unfold recordStep
  repeat' first
    | with_reducible assumption | with_reducible apply setPhase_keeps | with_reducible apply aftermath_keeps
    | with_reducible apply imgSettle_keeps | with_reducible apply descUpd_keeps | with_reducible apply draw_keeps
    | with_reducible apply retireWrite_keeps | with_reducible apply unitWrite_keeps
    | with_reducible apply cqUpd_keeps | with_reducible apply cacheCq_keeps | with_reducible apply recordSent_keeps
    | with_reducible apply KeepsO.getD | exact Eq.refl _ | exact List.length_modify .. | exact List.length_map ..
    | extract_lets | ((fail_if_success (fail_if_success conv => arg 2; arg 42)); with_reducible apply Keeps.same)
    | intro _ | split | dsimp +zetaDelta only

theorem recordLost_keeps {s0 : State} {s : State} {x : Desc} (hk : Keeps s0 s) :
     Keeps s0 (recordLost s x) := by
  unfold recordLost
  repeat' first
    | with_reducible assumption | with_reducible apply raiseErr_keeps | with_reducible apply haltRing_keeps
    | with_reducible apply rangeHavoc_keeps | exact Eq.refl _ | exact List.length_modify ..
    | exact List.length_map .. | extract_lets
    | ((fail_if_success (fail_if_success conv => arg 2; arg 42)); with_reducible apply Keeps.same) | intro _ | split
    | dsimp +zetaDelta only

theorem chainFailed_keeps {s0 : State} {s : State} {x : Desc} (hk : Keeps s0 s) :
     Keeps s0 (chainFailed s x) := by
  unfold chainFailed
  repeat' first
    | with_reducible assumption | with_reducible apply regCount_keeps | with_reducible apply raiseErr_keeps
    | with_reducible apply haltRing_keeps | exact Eq.refl _ | exact List.length_modify .. | exact List.length_map ..
    | extract_lets | ((fail_if_success (fail_if_success conv => arg 2; arg 42)); with_reducible apply Keeps.same)
    | intro _ | split | dsimp +zetaDelta only

theorem countStep_keeps {s0 : State} {s : State} {x : Desc} (hk : Keeps s0 s) :
     Keeps s0 (countStep s x) := by
  unfold countStep
  repeat' first
    | with_reducible assumption | with_reducible apply setPhase_keeps | with_reducible apply counterAdvance_keeps
    | with_reducible apply retireWrite_keeps | with_reducible apply fepQueue_keeps
    | with_reducible apply deliver_keeps | exact Eq.refl _ | exact List.length_modify .. | exact List.length_map ..
    | extract_lets | ((fail_if_success (fail_if_success conv => arg 2; arg 42)); with_reducible apply Keeps.same)
    | intro _ | split | dsimp +zetaDelta only

theorem bellStep_keeps {s0 : State} {s : State} {x : Desc} (hk : Keeps s0 s) :
     Keeps s0 (bellStep s x) := by
  unfold bellStep
  repeat' first
    | with_reducible assumption | with_reducible apply setPhase_keeps | with_reducible apply applyDoorbell_keeps
    | with_reducible apply retireWrite_keeps | with_reducible apply fepRequest_keeps | exact Eq.refl _
    | exact List.length_modify .. | exact List.length_map .. | extract_lets
    | ((fail_if_success (fail_if_success conv => arg 2; arg 42)); with_reducible apply Keeps.same) | intro _ | split
    | dsimp +zetaDelta only

theorem ticketDone_keeps {s0 : State} {s : State} {x : Desc} (hk : Keeps s0 s) :
     Keeps s0 (ticketDone s x) := by
  unfold ticketDone
  repeat' first
    | with_reducible assumption | with_reducible apply groupUpd_keeps | exact Eq.refl _ | exact List.length_modify ..
    | exact List.length_map .. | extract_lets
    | ((fail_if_success (fail_if_success conv => arg 2; arg 42)); with_reducible apply Keeps.same) | intro _ | split
    | dsimp +zetaDelta only

theorem headStep_keeps {s0 : State} {s : State} {x : Desc} (hk : Keeps s0 s) :
     Keeps s0 (headStep s x) := by
  unfold headStep
  repeat' first
    | with_reducible assumption | with_reducible apply ticketDone_keeps | with_reducible apply gatherDrop_keeps
    | with_reducible apply ringUpd_keeps | with_reducible apply haltRing_keeps | with_reducible apply attnDone_keeps
    | with_reducible apply ringSync_keeps | with_reducible apply freeBarriers_keeps
    | with_reducible apply disableCheck_keeps | exact Eq.refl _ | exact List.length_modify ..
    | exact List.length_map .. | extract_lets
    | ((fail_if_success (fail_if_success conv => arg 2; arg 42)); with_reducible apply Keeps.same) | intro _ | split
    | dsimp +zetaDelta only

theorem retireStep_keeps {s0 : State} {s : State} {d : Nat} (hk : Keeps s0 s) :
     Keeps s0 (retireStep s d) := by
  unfold retireStep
  repeat' first
    | with_reducible assumption | with_reducible apply whenLive_keeps | with_reducible apply contextParity_keeps
    | with_reducible apply cacheRing_keeps | with_reducible apply recordStep_keeps
    | with_reducible apply descUpd_keeps | with_reducible apply headStep_keeps
    | with_reducible apply recordLost_keeps | with_reducible apply countStep_keeps
    | with_reducible apply bellStep_keeps | with_reducible apply chainFailed_keeps | exact Eq.refl _
    | exact List.length_modify .. | exact List.length_map .. | extract_lets
    | ((fail_if_success (fail_if_success conv => arg 2; arg 42)); with_reducible apply Keeps.same) | intro _ | split
    | dsimp +zetaDelta only

theorem execDescriptorRetire_keeps {d : Nat} {s : State} : KeepsR s (execDescriptorRetire d s) := by
  have hk := Keeps.refl s
  unfold execDescriptorRetire
  repeat' first
    | with_reducible assumption | with_reducible apply whenLive_keeps | with_reducible apply retireStep_keeps
    | with_reducible apply foldl_keeps | with_reducible apply foldl_keeps_fst | with_reducible apply foldl_keeps_snd
    | with_reducible apply KeepsR.next | exact Eq.refl _ | exact List.length_modify .. | exact List.length_map ..
    | extract_lets | ((fail_if_success (fail_if_success conv => arg 2; arg 42)); with_reducible apply Keeps.same)
    | intro _ | split | dsimp +zetaDelta only

end Sys2Proof.Machine
end

