-- ==== Sys2Proof/Laws/PerInstr.lean ====
section
/-! SUPPORT. The families of statements made for each command. -/
namespace Sys2Proof.Laws.Wf
open Sys2Proof

/-- The thread that a command of the task cores names (R124). -/
def threadOf : Instr → Option Nat
  | .nopInstr t => some t
  | .exitThread t => some t
  | .fret t => some t
  | .brk t => some t
  | .addOp t => some t
  | .subOp t => some t
  | .andOp t => some t
  | .orOp t => some t
  | .xorOp t => some t
  | .shl t => some t
  | .shr t => some t
  | .sra t => some t
  | .mulOp t => some t
  | .mulh t => some t
  | .mulhu t => some t
  | .minOp t => some t
  | .maxOp t => some t
  | .minu t => some t
  | .maxu t => some t
  | .jalr t => some t
  | .addi t => some t
  | .andi t => some t
  | .ori t => some t
  | .xori t => some t
  | .shli t => some t
  | .shri t => some t
  | .srai t => some t
  | .li t => some t
  | .uins t => some t
  | .peq t => some t
  | .pne t => some t
  | .plt t => some t
  | .pltu t => some t
  | .pge t => some t
  | .pgeu t => some t
  | .pand t => some t
  | .por t => some t
  | .pxor t => some t
  | .br t => some t
  | .jal t => some t
  | .ldB t => some t
  | .ldH t => some t
  | .ldW t => some t
  | .ldD t => some t
  | .ldsB t => some t
  | .ldsH t => some t
  | .ldsW t => some t
  | .loadData t => some t
  | .stB t => some t
  | .stH t => some t
  | .stW t => some t
  | .stD t => some t
  | .sysr t => some t
  | .sysw t => some t
  | .tzero t => some t
  | .tload t => some t
  | .tstore t => some t
  | .tget t => some t
  | .tput t => some t
  | .twait t => some t
  | .tcfg t => some t
  | .tcfgm t => some t
  | .tmma t => some t
  | .tbind t => some t
  | .tfree t => some t
  | .eissue t => some t
  | .ewait t => some t
  | .etest t => some t
  | .mcopy t => some t
  | .cwait t => some t
  | .cwaitLimit t => some t
  | .fenceR t => some t
  | .acq t => some t
  | .acqAll t => some t
  | .gbar t => some t
  | .stC t => some t
  | .amoAdd t => some t
  | .amoMin t => some t
  | .amoMax t => some t
  | .amoMinu t => some t
  | .amoMaxu t => some t
  | .amoSwp t => some t
  | .amoCas t => some t
  | .famoAddF32 t => some t
  | .famoAddBf16 t => some t
  | .cbar t => some t
  | .cred t => some t
  | .illegal t => some t
  | .pcRange t => some t
  | _ => none

/-- A well-formed command that names a thread names one of the 128 that the block has: its core is one of 16 and its
group one of 32 (R124). -/
def Statement (i : Instr) : Prop :=
  WellFormed i = true → ∀ t ∈ threadOf i, t / 8 < 16 ∧ t / 4 < 32

theorem bound {t u : Nat} (h : decide (t < 128) = true) (hu : u ∈ some t) : u / 8 < 16 ∧ u / 4 < 32 := by
  cases hu; have := of_decide_eq_true h; omega

theorem poresetN : Statement (.poresetN) := fun _ _ hu => nomatch hu
theorem warmresetN : Statement (.warmresetN) := fun _ _ hu => nomatch hu
theorem resetRelease (recovery : Bool) : Statement (.resetRelease recovery) := fun _ _ hu => nomatch hu
theorem fusesStage (agree : Bool) : Statement (.fusesStage agree) := fun _ _ hu => nomatch hu
theorem selftestStage (failing : BitVec 8) : Statement (.selftestStage failing) := fun _ _ hu => nomatch hu
theorem flashStage (device : Option Sfdp) : Statement (.flashStage device) := fun _ _ hu => nomatch hu
theorem settingsStage : Statement (.settingsStage) := fun _ _ hu => nomatch hu
theorem imageStage : Statement (.imageStage) := fun _ _ hu => nomatch hu
theorem linkUp (port : Nat) : Statement (.linkUp port) := fun _ _ hu => nomatch hu
theorem linkDown (port : Nat) : Statement (.linkDown port) := fun _ _ hu => nomatch hu
theorem chipMemoryFatal : Statement (.chipMemoryFatal) := fun _ _ hu => nomatch hu
theorem thermAlertN (asserted : Bool) : Statement (.thermAlertN asserted) := fun _ _ hu => nomatch hu
theorem thermalTrip : Statement (.thermalTrip) := fun _ _ hu => nomatch hu
theorem attnReq (level : AttnIn) : Statement (.attnReq level) := fun _ _ hu => nomatch hu
theorem supplyFault (cause : SupplyCause) : Statement (.supplyFault cause) := fun _ _ hu => nomatch hu
theorem vinReady (mv : Nat) : Statement (.vinReady mv) := fun _ _ hu => nomatch hu
theorem trstN : Statement (.trstN) := fun _ _ hu => nomatch hu
theorem idcode : Statement (.idcode) := fun _ _ hu => nomatch hu
theorem ijtagSel (segs : BitVec 8) : Statement (.ijtagSel segs) := fun _ _ hu => nomatch hu
theorem regAccess (offset : BitVec 40) (wr : Bool) (data : Word) : Statement (.regAccess offset wr data) := fun _ _ hu => nomatch hu
theorem bypass (scan : TapScan) : Statement (.bypass scan) := fun _ _ hu => nomatch hu
theorem cmpRead (ch tag : Nat) (m : CmpReq) : Statement (.cmpRead ch tag m) := fun _ _ hu => nomatch hu
theorem cmpWrite (ch tag : Nat) (m : CmpReq) : Statement (.cmpWrite ch tag m) := fun _ _ hu => nomatch hu
theorem cmpAtomic (ch tag : Nat) (m : CmpReq) : Statement (.cmpAtomic ch tag m) := fun _ _ hu => nomatch hu
theorem cmpReadData (ch tag : Nat) (st : CmpStatus) (data : List Byte) : Statement (.cmpReadData ch tag st data) := fun _ _ hu => nomatch hu
theorem cmpAck (ch tag : Nat) (st : CmpStatus) : Statement (.cmpAck ch tag st) := fun _ _ hu => nomatch hu
theorem cmpAtomicData (ch tag : Nat) (st : CmpStatus) (data : List Byte) : Statement (.cmpAtomicData ch tag st data) := fun _ _ hu => nomatch hu
theorem cmpCredit (ch : OnWire) (req rsp : Bool) : Statement (.cmpCredit ch req rsp) := fun _ _ hu => nomatch hu
theorem flit (port : Nat) (f : FlitIn) : Statement (.flit port f) := fun _ _ hu => nomatch hu
theorem linkAck (port : Nat) (lseq : OnWire) : Statement (.linkAck port lseq) := fun _ _ hu => nomatch hu
theorem nak (port : Nat) (lseq : OnWire) : Statement (.nak port lseq) := fun _ _ hu => nomatch hu
theorem flitCredit (port : Nat) (vc : OnWire) : Statement (.flitCredit port vc) := fun _ _ hu => nomatch hu
theorem linkAckTimer (port : Nat) : Statement (.linkAckTimer port) := fun _ _ hu => nomatch hu
theorem portFailed (port : Nat) : Statement (.portFailed port) := fun _ _ hu => nomatch hu
theorem writePkt (port : Nat) (k : Packet) : Statement (.writePkt port k) := fun _ _ hu => nomatch hu
theorem readPkt (port : Nat) (k : Packet) : Statement (.readPkt port k) := fun _ _ hu => nomatch hu
theorem atomicPkt (port : Nat) (k : Packet) : Statement (.atomicPkt port k) := fun _ _ hu => nomatch hu
theorem count (port : Nat) (k : Packet) : Statement (.count port k) := fun _ _ hu => nomatch hu
theorem collWrite (port : Nat) (k : Packet) : Statement (.collWrite port k) := fun _ _ hu => nomatch hu
theorem ack (port : Nat) (k : Packet) : Statement (.ack port k) := fun _ _ hu => nomatch hu
theorem readData (port : Nat) (k : Packet) : Statement (.readData port k) := fun _ _ hu => nomatch hu
theorem atomicData (port : Nat) (k : Packet) : Statement (.atomicData port k) := fun _ _ hu => nomatch hu
theorem refused (port : Nat) (k : Packet) : Statement (.refused port k) := fun _ _ hu => nomatch hu
theorem retry (port : Nat) (k : Packet) : Statement (.retry port k) := fun _ _ hu => nomatch hu
theorem retrySend (tag : Nat) : Statement (.retrySend tag) := fun _ _ hu => nomatch hu
theorem reservationLapse (resource : Nat) : Statement (.reservationLapse resource) := fun _ _ hu => nomatch hu
theorem congEcho (port : Nat) (k : Packet) : Statement (.congEcho port k) := fun _ _ hu => nomatch hu
theorem collData (port : Nat) (k : Packet) : Statement (.collData port k) := fun _ _ hu => nomatch hu
theorem collCtl (port : Nat) (k : Packet) : Statement (.collCtl port k) := fun _ _ hu => nomatch hu
theorem mgmt (port : Nat) (k : Packet) : Statement (.mgmt port k) := fun _ _ hu => nomatch hu
theorem rspTimeout (tag : Nat) : Statement (.rspTimeout tag) := fun _ _ hu => nomatch hu
theorem rateRaise (g : Nat) : Statement (.rateRaise g) := fun _ _ hu => nomatch hu
theorem bankAccess (bank : Nat) : Statement (.bankAccess bank) := fun _ _ hu => nomatch hu
theorem fold (n : Nat) : Statement (.fold n) := fun _ _ hu => nomatch hu
theorem refetch (block : Nat) : Statement (.refetch block) := fun _ _ hu => nomatch hu
theorem doorbell (m : Master) (value : Dword) : Statement (.doorbell m value) := fun _ _ hu => nomatch hu
theorem ageLimit (ring : Nat) : Statement (.ageLimit ring) := fun _ _ hu => nomatch hu
theorem descriptorFetch : Statement (.descriptorFetch) := fun _ _ hu => nomatch hu
theorem descriptorValidate (d : Nat) : Statement (.descriptorValidate d) := fun _ _ hu => nomatch hu
theorem nopDesc (d : Nat) : Statement (.nopDesc d) := fun _ _ hu => nomatch hu
theorem waitDesc (d : Nat) : Statement (.waitDesc d) := fun _ _ hu => nomatch hu
theorem waitTimeout (d : Nat) : Statement (.waitTimeout d) := fun _ _ hu => nomatch hu
theorem matmul (d : Nat) : Statement (.matmul d) := fun _ _ hu => nomatch hu
theorem diag (d : Nat) : Statement (.diag d) := fun _ _ hu => nomatch hu
theorem vchain (d : Nat) : Statement (.vchain d) := fun _ _ hu => nomatch hu
theorem moveDesc (d : Nat) : Statement (.moveDesc d) := fun _ _ hu => nomatch hu
theorem coll (d : Nat) : Statement (.coll d) := fun _ _ hu => nomatch hu
theorem launch (d : Nat) : Statement (.launch d) := fun _ _ hu => nomatch hu
theorem imgErase (d : Nat) : Statement (.imgErase d) := fun _ _ hu => nomatch hu
theorem imgWrite (d : Nat) : Statement (.imgWrite d) := fun _ _ hu => nomatch hu
theorem imgVerify (d : Nat) : Statement (.imgVerify d) := fun _ _ hu => nomatch hu
theorem imgSchedule (d : Nat) : Statement (.imgSchedule d) := fun _ _ hu => nomatch hu
theorem settingsWrite (d : Nat) : Statement (.settingsWrite d) := fun _ _ hu => nomatch hu
theorem identify (d : Nat) : Statement (.identify d) := fun _ _ hu => nomatch hu
theorem planeLoad (d part : Nat) : Statement (.planeLoad d part) := fun _ _ hu => nomatch hu
theorem tileDrain (d tile : Nat) : Statement (.tileDrain d tile) := fun _ _ hu => nomatch hu
theorem splitPass (d rowGroup : Nat) : Statement (.splitPass d rowGroup) := fun _ _ hu => nomatch hu
theorem splitPassRetire (d rowGroup : Nat) : Statement (.splitPassRetire d rowGroup) := fun _ _ hu => nomatch hu
theorem fill (d : Nat) : Statement (.fill d) := fun _ _ hu => nomatch hu
theorem sweep (d : Nat) : Statement (.sweep d) := fun _ _ hu => nomatch hu
theorem writeBack (d : Nat) : Statement (.writeBack d) := fun _ _ hu => nomatch hu
theorem replay (d : Nat) : Statement (.replay d) := fun _ _ hu => nomatch hu
theorem descriptorRetire (d : Nat) : Statement (.descriptorRetire d) := fun _ _ hu => nomatch hu
theorem ringEnable (m : Master) (ring : Nat) : Statement (.ringEnable m ring) := fun _ _ hu => nomatch hu
theorem ringDisable (m : Master) (ring : Nat) : Statement (.ringDisable m ring) := fun _ _ hu => nomatch hu
theorem ringResume (m : Master) (ring : Nat) : Statement (.ringResume m ring) := fun _ _ hu => nomatch hu
theorem ringFlush (m : Master) (ring : Nat) : Statement (.ringFlush m ring) := fun _ _ hu => nomatch hu
theorem loadGroup (m : Master) (g : Nat) : Statement (.loadGroup m g) := fun _ _ hu => nomatch hu
theorem unloadGroup (m : Master) (g : Nat) : Statement (.unloadGroup m g) := fun _ _ hu => nomatch hu
theorem collTimeout (d : Nat) : Statement (.collTimeout d) := fun _ _ hu => nomatch hu
theorem suspendGroup (m : Master) (g : Nat) : Statement (.suspendGroup m g) := fun _ _ hu => nomatch hu
theorem suspendDone (g : Nat) : Statement (.suspendDone g) := fun _ _ hu => nomatch hu
theorem resumeGroup (m : Master) (g : Nat) : Statement (.resumeGroup m g) := fun _ _ hu => nomatch hu
theorem abortLaunch (m : Master) (g : Nat) : Statement (.abortLaunch m g) := fun _ _ hu => nomatch hu
theorem launchComplete (g : Nat) : Statement (.launchComplete g) := fun _ _ hu => nomatch hu
theorem launchEnd (g : Nat) : Statement (.launchEnd g) := fun _ _ hu => nomatch hu
theorem tileQueue (g : Nat) : Statement (.tileQueue g) := fun _ _ hu => nomatch hu
theorem nopInstr (t : Nat) : Statement (.nopInstr t) := fun h _ hu => bound h hu
theorem exitThread (t : Nat) : Statement (.exitThread t) := fun h _ hu => bound h hu
theorem fret (t : Nat) : Statement (.fret t) := fun h _ hu => bound h hu
theorem brk (t : Nat) : Statement (.brk t) := fun h _ hu => bound h hu
theorem addOp (t : Nat) : Statement (.addOp t) := fun h _ hu => bound h hu
theorem subOp (t : Nat) : Statement (.subOp t) := fun h _ hu => bound h hu
theorem andOp (t : Nat) : Statement (.andOp t) := fun h _ hu => bound h hu
theorem orOp (t : Nat) : Statement (.orOp t) := fun h _ hu => bound h hu
theorem xorOp (t : Nat) : Statement (.xorOp t) := fun h _ hu => bound h hu
theorem shl (t : Nat) : Statement (.shl t) := fun h _ hu => bound h hu
theorem shr (t : Nat) : Statement (.shr t) := fun h _ hu => bound h hu
theorem sra (t : Nat) : Statement (.sra t) := fun h _ hu => bound h hu
theorem mulOp (t : Nat) : Statement (.mulOp t) := fun h _ hu => bound h hu
theorem mulh (t : Nat) : Statement (.mulh t) := fun h _ hu => bound h hu
theorem mulhu (t : Nat) : Statement (.mulhu t) := fun h _ hu => bound h hu
theorem minOp (t : Nat) : Statement (.minOp t) := fun h _ hu => bound h hu
theorem maxOp (t : Nat) : Statement (.maxOp t) := fun h _ hu => bound h hu
theorem minu (t : Nat) : Statement (.minu t) := fun h _ hu => bound h hu
theorem maxu (t : Nat) : Statement (.maxu t) := fun h _ hu => bound h hu
theorem jalr (t : Nat) : Statement (.jalr t) := fun h _ hu => bound h hu
theorem addi (t : Nat) : Statement (.addi t) := fun h _ hu => bound h hu
theorem andi (t : Nat) : Statement (.andi t) := fun h _ hu => bound h hu
theorem ori (t : Nat) : Statement (.ori t) := fun h _ hu => bound h hu
theorem xori (t : Nat) : Statement (.xori t) := fun h _ hu => bound h hu
theorem shli (t : Nat) : Statement (.shli t) := fun h _ hu => bound h hu
theorem shri (t : Nat) : Statement (.shri t) := fun h _ hu => bound h hu
theorem srai (t : Nat) : Statement (.srai t) := fun h _ hu => bound h hu
theorem li (t : Nat) : Statement (.li t) := fun h _ hu => bound h hu
theorem uins (t : Nat) : Statement (.uins t) := fun h _ hu => bound h hu
theorem peq (t : Nat) : Statement (.peq t) := fun h _ hu => bound h hu
theorem pne (t : Nat) : Statement (.pne t) := fun h _ hu => bound h hu
theorem plt (t : Nat) : Statement (.plt t) := fun h _ hu => bound h hu
theorem pltu (t : Nat) : Statement (.pltu t) := fun h _ hu => bound h hu
theorem pge (t : Nat) : Statement (.pge t) := fun h _ hu => bound h hu
theorem pgeu (t : Nat) : Statement (.pgeu t) := fun h _ hu => bound h hu
theorem pand (t : Nat) : Statement (.pand t) := fun h _ hu => bound h hu
theorem por (t : Nat) : Statement (.por t) := fun h _ hu => bound h hu
theorem pxor (t : Nat) : Statement (.pxor t) := fun h _ hu => bound h hu
theorem br (t : Nat) : Statement (.br t) := fun h _ hu => bound h hu
theorem jal (t : Nat) : Statement (.jal t) := fun h _ hu => bound h hu
theorem ldB (t : Nat) : Statement (.ldB t) := fun h _ hu => bound h hu
theorem ldH (t : Nat) : Statement (.ldH t) := fun h _ hu => bound h hu
theorem ldW (t : Nat) : Statement (.ldW t) := fun h _ hu => bound h hu
theorem ldD (t : Nat) : Statement (.ldD t) := fun h _ hu => bound h hu
theorem ldsB (t : Nat) : Statement (.ldsB t) := fun h _ hu => bound h hu
theorem ldsH (t : Nat) : Statement (.ldsH t) := fun h _ hu => bound h hu
theorem ldsW (t : Nat) : Statement (.ldsW t) := fun h _ hu => bound h hu
theorem loadData (t : Nat) : Statement (.loadData t) := fun h _ hu => bound h hu
theorem stB (t : Nat) : Statement (.stB t) := fun h _ hu => bound h hu
theorem stH (t : Nat) : Statement (.stH t) := fun h _ hu => bound h hu
theorem stW (t : Nat) : Statement (.stW t) := fun h _ hu => bound h hu
theorem stD (t : Nat) : Statement (.stD t) := fun h _ hu => bound h hu
theorem sysr (t : Nat) : Statement (.sysr t) := fun h _ hu => bound h hu
theorem sysw (t : Nat) : Statement (.sysw t) := fun h _ hu => bound h hu
theorem tzero (t : Nat) : Statement (.tzero t) := fun h _ hu => bound h hu
theorem tload (t : Nat) : Statement (.tload t) := fun h _ hu => bound h hu
theorem tstore (t : Nat) : Statement (.tstore t) := fun h _ hu => bound h hu
theorem tget (t : Nat) : Statement (.tget t) := fun h _ hu => bound h hu
theorem tput (t : Nat) : Statement (.tput t) := fun h _ hu => bound h hu
theorem twait (t : Nat) : Statement (.twait t) := fun h _ hu => bound h hu
theorem tcfg (t : Nat) : Statement (.tcfg t) := fun h _ hu => bound h hu
theorem tcfgm (t : Nat) : Statement (.tcfgm t) := fun h _ hu => bound h hu
theorem tmma (t : Nat) : Statement (.tmma t) := fun h _ hu => bound h hu
theorem tbind (t : Nat) : Statement (.tbind t) := fun h _ hu => bound h hu
theorem tfree (t : Nat) : Statement (.tfree t) := fun h _ hu => bound h hu
theorem eissue (t : Nat) : Statement (.eissue t) := fun h _ hu => bound h hu
theorem ewait (t : Nat) : Statement (.ewait t) := fun h _ hu => bound h hu
theorem etest (t : Nat) : Statement (.etest t) := fun h _ hu => bound h hu
theorem mcopy (t : Nat) : Statement (.mcopy t) := fun h _ hu => bound h hu
theorem cwait (t : Nat) : Statement (.cwait t) := fun h _ hu => bound h hu
theorem cwaitLimit (t : Nat) : Statement (.cwaitLimit t) := fun h _ hu => bound h hu
theorem fenceR (t : Nat) : Statement (.fenceR t) := fun h _ hu => bound h hu
theorem acq (t : Nat) : Statement (.acq t) := fun h _ hu => bound h hu
theorem acqAll (t : Nat) : Statement (.acqAll t) := fun h _ hu => bound h hu
theorem gbar (t : Nat) : Statement (.gbar t) := fun h _ hu => bound h hu
theorem stC (t : Nat) : Statement (.stC t) := fun h _ hu => bound h hu
theorem amoAdd (t : Nat) : Statement (.amoAdd t) := fun h _ hu => bound h hu
theorem amoMin (t : Nat) : Statement (.amoMin t) := fun h _ hu => bound h hu
theorem amoMax (t : Nat) : Statement (.amoMax t) := fun h _ hu => bound h hu
theorem amoMinu (t : Nat) : Statement (.amoMinu t) := fun h _ hu => bound h hu
theorem amoMaxu (t : Nat) : Statement (.amoMaxu t) := fun h _ hu => bound h hu
theorem amoSwp (t : Nat) : Statement (.amoSwp t) := fun h _ hu => bound h hu
theorem amoCas (t : Nat) : Statement (.amoCas t) := fun h _ hu => bound h hu
theorem famoAddF32 (t : Nat) : Statement (.famoAddF32 t) := fun h _ hu => bound h hu
theorem famoAddBf16 (t : Nat) : Statement (.famoAddBf16 t) := fun h _ hu => bound h hu
theorem cbar (t : Nat) : Statement (.cbar t) := fun h _ hu => bound h hu
theorem cred (t : Nat) : Statement (.cred t) := fun h _ hu => bound h hu
theorem registerWrite (m : Master) (offset : Nat) (v : Word) : Statement (.registerWrite m offset v) := fun _ _ hu => nomatch hu
theorem readClear (m : Master) (offset : Nat) : Statement (.readClear m offset) := fun _ _ hu => nomatch hu
theorem capture (m : Master) (offset : Nat) : Statement (.capture m offset) := fun _ _ hu => nomatch hu
theorem counterClear (m : Master) (c : Nat) : Statement (.counterClear m c) := fun _ _ hu => nomatch hu
theorem routeFront (m : Master) : Statement (.routeFront m) := fun _ _ hu => nomatch hu
theorem ptmMode (m : Master) (v : Word) : Statement (.ptmMode m v) := fun _ _ hu => nomatch hu
theorem ptmPowerCap (m : Master) (v : Word) : Statement (.ptmPowerCap m v) := fun _ _ hu => nomatch hu
theorem ptmVlimit (m : Master) (v : Word) : Statement (.ptmVlimit m v) := fun _ _ hu => nomatch hu
theorem parityArm (m : Master) (v : Word) : Statement (.parityArm m v) := fun _ _ hu => nomatch hu
theorem backValid (m : Master) (n : Nat) (v : Word) : Statement (.backValid m n v) := fun _ _ hu => nomatch hu
theorem orderedArm (m : Master) (n : Nat) (v : Word) : Statement (.orderedArm m n v) := fun _ _ hu => nomatch hu
theorem abandon (m : Master) (n : Nat) (v : Word) : Statement (.abandon m n v) := fun _ _ hu => nomatch hu
theorem activationFront (m : Master) (v : Word) : Statement (.activationFront m v) := fun _ _ hu => nomatch hu
theorem activationSwitch : Statement (.activationSwitch) := fun _ _ hu => nomatch hu
theorem drainLimit : Statement (.drainLimit) := fun _ _ hu => nomatch hu
theorem confirm (m : Master) : Statement (.confirm m) := fun _ _ hu => nomatch hu
theorem revert (m : Master) : Statement (.revert m) := fun _ _ hu => nomatch hu
theorem confirmTimeout : Statement (.confirmTimeout) := fun _ _ hu => nomatch hu
theorem programSlot (m : Master) (slot : Nat) : Statement (.programSlot m slot) := fun _ _ hu => nomatch hu
theorem revokeSlot (m : Master) (slot : Nat) : Statement (.revokeSlot m slot) := fun _ _ hu => nomatch hu
theorem svnAdvance (m : Master) : Statement (.svnAdvance m) := fun _ _ hu => nomatch hu
theorem errDone (m : Master) (index : Nat) : Statement (.errDone m index) := fun _ _ hu => nomatch hu
theorem evtSw (m : Master) : Statement (.evtSw m) := fun _ _ hu => nomatch hu
theorem fatalClear (m : Master) : Statement (.fatalClear m) := fun _ _ hu => nomatch hu
theorem indData (m : Master) (pair : Nat) (wr : Option Word) : Statement (.indData m pair wr) := fun _ _ hu => nomatch hu
theorem indDataNoinc (m : Master) (pair : Nat) (wr : Option Word) : Statement (.indDataNoinc m pair wr) := fun _ _ hu => nomatch hu
theorem controlPeriod (tel : Telemetry) : Statement (.controlPeriod tel) := fun _ _ hu => nomatch hu
theorem islandGate (island : Nat) : Statement (.islandGate island) := fun _ _ hu => nomatch hu
theorem retention (island : Nat) : Statement (.retention island) := fun _ _ hu => nomatch hu
theorem islandWake (island : Nat) : Statement (.islandWake island) := fun _ _ hu => nomatch hu
theorem scrub (upset : Option Nat) : Statement (.scrub upset) := fun _ _ hu => nomatch hu
theorem handshakeStall (h : Handshake) : Statement (.handshakeStall h) := fun _ _ hu => nomatch hu
theorem windowBoundary : Statement (.windowBoundary) := fun _ _ hu => nomatch hu
theorem flashDone (ok : Bool) : Statement (.flashDone ok) := fun _ _ hu => nomatch hu
theorem fuseProgrammingEnd (ok : Bool) : Statement (.fuseProgrammingEnd ok) := fun _ _ hu => nomatch hu
theorem fixedVin (mv : Nat) : Statement (.fixedVin mv) := fun _ _ hu => nomatch hu
theorem tokenBucketRefill (g : Nat) : Statement (.tokenBucketRefill g) := fun _ _ hu => nomatch hu
theorem bundleAck (bundle : Nat) : Statement (.bundleAck bundle) := fun _ _ hu => nomatch hu
theorem illegal (t : Nat) : Statement (.illegal t) := fun h _ hu => bound h hu
theorem pcRange (t : Nat) : Statement (.pcRange t) := fun h _ hu => bound h hu

end Sys2Proof.Laws.Wf
end

