-- ==== Sys2Proof/Laws/State.lean ====
section
/-! SUPPORT. What each named update leaves alone: one equation for each field of State that it does not touch, so that no
proof unfolds an update to read another field. -/
namespace Sys2Proof.Machine

@[simp] theorem regPut_pending (s : State) (o v : Nat) : (regPut s o v).pending = s.pending := rfl
@[simp] theorem regPut_freeCtr (s : State) (o v : Nat) : (regPut s o v).freeCtr = s.freeCtr := rfl
@[simp] theorem regPut_nextId (s : State) (o v : Nat) : (regPut s o v).nextId = s.nextId := rfl
@[simp] theorem regPut_readout (s : State) (o v : Nat) : (regPut s o v).readout = s.readout := rfl
@[simp] theorem regPut_par (s : State) (o v : Nat) : (regPut s o v).par = s.par := rfl
@[simp] theorem regPut_osc (s : State) (o v : Nat) : (regPut s o v).osc = s.osc := rfl
@[simp] theorem regPut_oscShadow (s : State) (o v : Nat) : (regPut s o v).oscShadow = s.oscShadow := rfl
@[simp] theorem regPut_boot (s : State) (o v : Nat) : (regPut s o v).boot = s.boot := rfl
@[simp] theorem regPut_fuses (s : State) (o v : Nat) : (regPut s o v).fuses = s.fuses := rfl
@[simp] theorem regPut_fusesSensed (s : State) (o v : Nat) : (regPut s o v).fusesSensed = s.fusesSensed := rfl
@[simp] theorem regPut_nor (s : State) (o v : Nat) : (regPut s o v).nor = s.nor := rfl
@[simp] theorem regPut_gens (s : State) (o v : Nat) : (regPut s o v).gens = s.gens := rfl
@[simp] theorem regPut_ftab (s : State) (o v : Nat) : (regPut s o v).ftab = s.ftab := rfl
@[simp] theorem regPut_trim (s : State) (o v : Nat) : (regPut s o v).trim = s.trim := rfl
@[simp] theorem regPut_corr (s : State) (o v : Nat) : (regPut s o v).corr = s.corr := rfl
@[simp] theorem regPut_spm (s : State) (o v : Nat) : (regPut s o v).spm = s.spm := rfl
@[simp] theorem regPut_spmBad (s : State) (o v : Nat) : (regPut s o v).spmBad = s.spmBad := rfl
@[simp] theorem regPut_spmLost (s : State) (o v : Nat) : (regPut s o v).spmLost = s.spmLost := rfl
@[simp] theorem regPut_inject (s : State) (o v : Nat) : (regPut s o v).inject = s.inject := rfl
@[simp] theorem regPut_counters (s : State) (o v : Nat) : (regPut s o v).counters = s.counters := rfl
@[simp] theorem regPut_cntShadow (s : State) (o v : Nat) : (regPut s o v).cntShadow = s.cntShadow := rfl
@[simp] theorem regPut_ord (s : State) (o v : Nat) : (regPut s o v).ord = s.ord := rfl
@[simp] theorem regPut_xbr (s : State) (o v : Nat) : (regPut s o v).xbr = s.xbr := rfl
@[simp] theorem regPut_refetch (s : State) (o v : Nat) : (regPut s o v).refetch = s.refetch := rfl
@[simp] theorem regPut_throughs (s : State) (o v : Nat) : (regPut s o v).throughs = s.throughs := rfl
@[simp] theorem regPut_gathers (s : State) (o v : Nat) : (regPut s o v).gathers = s.gathers := rfl
@[simp] theorem regPut_power (s : State) (o v : Nat) : (regPut s o v).power = s.power := rfl
@[simp] theorem regPut_errors (s : State) (o v : Nat) : (regPut s o v).errors = s.errors := rfl
@[simp] theorem regPut_dre (s : State) (o v : Nat) : (regPut s o v).dre = s.dre := rfl
@[simp] theorem regPut_descs (s : State) (o v : Nat) : (regPut s o v).descs = s.descs := rfl
@[simp] theorem regPut_mxe (s : State) (o v : Nat) : (regPut s o v).mxe = s.mxe := rfl
@[simp] theorem regPut_voc (s : State) (o v : Nat) : (regPut s o v).voc = s.voc := rfl
@[simp] theorem regPut_vocBad (s : State) (o v : Nat) : (regPut s o v).vocBad = s.vocBad := rfl
@[simp] theorem regPut_groups (s : State) (o v : Nat) : (regPut s o v).groups = s.groups := rfl
@[simp] theorem regPut_l1 (s : State) (o v : Nat) : (regPut s o v).l1 = s.l1 := rfl
@[simp] theorem regPut_cle (s : State) (o v : Nat) : (regPut s o v).cle = s.cle := rfl
@[simp] theorem regPut_fep (s : State) (o v : Nat) : (regPut s o v).fep = s.fep := rfl
@[simp] theorem regPut_cmp (s : State) (o v : Nat) : (regPut s o v).cmp = s.cmp := rfl
@[simp] theorem regPut_mgmt (s : State) (o v : Nat) : (regPut s o v).mgmt = s.mgmt := rfl
@[simp] theorem regPut_tap (s : State) (o v : Nat) : (regPut s o v).tap = s.tap := rfl

@[simp] theorem regPutBits_pending (s : State) (o hi lo v : Nat) : (regPutBits s o hi lo v).pending = s.pending := rfl
@[simp] theorem regPutBits_freeCtr (s : State) (o hi lo v : Nat) : (regPutBits s o hi lo v).freeCtr = s.freeCtr := rfl
@[simp] theorem regPutBits_nextId (s : State) (o hi lo v : Nat) : (regPutBits s o hi lo v).nextId = s.nextId := rfl
@[simp] theorem regPutBits_readout (s : State) (o hi lo v : Nat) : (regPutBits s o hi lo v).readout = s.readout := rfl
@[simp] theorem regPutBits_par (s : State) (o hi lo v : Nat) : (regPutBits s o hi lo v).par = s.par := rfl
@[simp] theorem regPutBits_osc (s : State) (o hi lo v : Nat) : (regPutBits s o hi lo v).osc = s.osc := rfl
@[simp] theorem regPutBits_oscShadow (s : State) (o hi lo v : Nat) : (regPutBits s o hi lo v).oscShadow = s.oscShadow := rfl
@[simp] theorem regPutBits_boot (s : State) (o hi lo v : Nat) : (regPutBits s o hi lo v).boot = s.boot := rfl
@[simp] theorem regPutBits_fuses (s : State) (o hi lo v : Nat) : (regPutBits s o hi lo v).fuses = s.fuses := rfl
@[simp] theorem regPutBits_fusesSensed (s : State) (o hi lo v : Nat) : (regPutBits s o hi lo v).fusesSensed = s.fusesSensed := rfl
@[simp] theorem regPutBits_nor (s : State) (o hi lo v : Nat) : (regPutBits s o hi lo v).nor = s.nor := rfl
@[simp] theorem regPutBits_gens (s : State) (o hi lo v : Nat) : (regPutBits s o hi lo v).gens = s.gens := rfl
@[simp] theorem regPutBits_ftab (s : State) (o hi lo v : Nat) : (regPutBits s o hi lo v).ftab = s.ftab := rfl
@[simp] theorem regPutBits_trim (s : State) (o hi lo v : Nat) : (regPutBits s o hi lo v).trim = s.trim := rfl
@[simp] theorem regPutBits_corr (s : State) (o hi lo v : Nat) : (regPutBits s o hi lo v).corr = s.corr := rfl
@[simp] theorem regPutBits_spm (s : State) (o hi lo v : Nat) : (regPutBits s o hi lo v).spm = s.spm := rfl
@[simp] theorem regPutBits_spmBad (s : State) (o hi lo v : Nat) : (regPutBits s o hi lo v).spmBad = s.spmBad := rfl
@[simp] theorem regPutBits_spmLost (s : State) (o hi lo v : Nat) : (regPutBits s o hi lo v).spmLost = s.spmLost := rfl
@[simp] theorem regPutBits_inject (s : State) (o hi lo v : Nat) : (regPutBits s o hi lo v).inject = s.inject := rfl
@[simp] theorem regPutBits_counters (s : State) (o hi lo v : Nat) : (regPutBits s o hi lo v).counters = s.counters := rfl
@[simp] theorem regPutBits_cntShadow (s : State) (o hi lo v : Nat) : (regPutBits s o hi lo v).cntShadow = s.cntShadow := rfl
@[simp] theorem regPutBits_ord (s : State) (o hi lo v : Nat) : (regPutBits s o hi lo v).ord = s.ord := rfl
@[simp] theorem regPutBits_xbr (s : State) (o hi lo v : Nat) : (regPutBits s o hi lo v).xbr = s.xbr := rfl
@[simp] theorem regPutBits_refetch (s : State) (o hi lo v : Nat) : (regPutBits s o hi lo v).refetch = s.refetch := rfl
@[simp] theorem regPutBits_throughs (s : State) (o hi lo v : Nat) : (regPutBits s o hi lo v).throughs = s.throughs := rfl
@[simp] theorem regPutBits_gathers (s : State) (o hi lo v : Nat) : (regPutBits s o hi lo v).gathers = s.gathers := rfl
@[simp] theorem regPutBits_power (s : State) (o hi lo v : Nat) : (regPutBits s o hi lo v).power = s.power := rfl
@[simp] theorem regPutBits_errors (s : State) (o hi lo v : Nat) : (regPutBits s o hi lo v).errors = s.errors := rfl
@[simp] theorem regPutBits_dre (s : State) (o hi lo v : Nat) : (regPutBits s o hi lo v).dre = s.dre := rfl
@[simp] theorem regPutBits_descs (s : State) (o hi lo v : Nat) : (regPutBits s o hi lo v).descs = s.descs := rfl
@[simp] theorem regPutBits_mxe (s : State) (o hi lo v : Nat) : (regPutBits s o hi lo v).mxe = s.mxe := rfl
@[simp] theorem regPutBits_voc (s : State) (o hi lo v : Nat) : (regPutBits s o hi lo v).voc = s.voc := rfl
@[simp] theorem regPutBits_vocBad (s : State) (o hi lo v : Nat) : (regPutBits s o hi lo v).vocBad = s.vocBad := rfl
@[simp] theorem regPutBits_groups (s : State) (o hi lo v : Nat) : (regPutBits s o hi lo v).groups = s.groups := rfl
@[simp] theorem regPutBits_l1 (s : State) (o hi lo v : Nat) : (regPutBits s o hi lo v).l1 = s.l1 := rfl
@[simp] theorem regPutBits_cle (s : State) (o hi lo v : Nat) : (regPutBits s o hi lo v).cle = s.cle := rfl
@[simp] theorem regPutBits_fep (s : State) (o hi lo v : Nat) : (regPutBits s o hi lo v).fep = s.fep := rfl
@[simp] theorem regPutBits_cmp (s : State) (o hi lo v : Nat) : (regPutBits s o hi lo v).cmp = s.cmp := rfl
@[simp] theorem regPutBits_mgmt (s : State) (o hi lo v : Nat) : (regPutBits s o hi lo v).mgmt = s.mgmt := rfl
@[simp] theorem regPutBits_tap (s : State) (o hi lo v : Nat) : (regPutBits s o hi lo v).tap = s.tap := rfl

@[simp] theorem regPutPair_pending (s : State) (o v : Nat) : (regPutPair s o v).pending = s.pending := rfl
@[simp] theorem regPutPair_freeCtr (s : State) (o v : Nat) : (regPutPair s o v).freeCtr = s.freeCtr := rfl
@[simp] theorem regPutPair_nextId (s : State) (o v : Nat) : (regPutPair s o v).nextId = s.nextId := rfl
@[simp] theorem regPutPair_readout (s : State) (o v : Nat) : (regPutPair s o v).readout = s.readout := rfl
@[simp] theorem regPutPair_par (s : State) (o v : Nat) : (regPutPair s o v).par = s.par := rfl
@[simp] theorem regPutPair_osc (s : State) (o v : Nat) : (regPutPair s o v).osc = s.osc := rfl
@[simp] theorem regPutPair_oscShadow (s : State) (o v : Nat) : (regPutPair s o v).oscShadow = s.oscShadow := rfl
@[simp] theorem regPutPair_boot (s : State) (o v : Nat) : (regPutPair s o v).boot = s.boot := rfl
@[simp] theorem regPutPair_fuses (s : State) (o v : Nat) : (regPutPair s o v).fuses = s.fuses := rfl
@[simp] theorem regPutPair_fusesSensed (s : State) (o v : Nat) : (regPutPair s o v).fusesSensed = s.fusesSensed := rfl
@[simp] theorem regPutPair_nor (s : State) (o v : Nat) : (regPutPair s o v).nor = s.nor := rfl
@[simp] theorem regPutPair_gens (s : State) (o v : Nat) : (regPutPair s o v).gens = s.gens := rfl
@[simp] theorem regPutPair_ftab (s : State) (o v : Nat) : (regPutPair s o v).ftab = s.ftab := rfl
@[simp] theorem regPutPair_trim (s : State) (o v : Nat) : (regPutPair s o v).trim = s.trim := rfl
@[simp] theorem regPutPair_corr (s : State) (o v : Nat) : (regPutPair s o v).corr = s.corr := rfl
@[simp] theorem regPutPair_spm (s : State) (o v : Nat) : (regPutPair s o v).spm = s.spm := rfl
@[simp] theorem regPutPair_spmBad (s : State) (o v : Nat) : (regPutPair s o v).spmBad = s.spmBad := rfl
@[simp] theorem regPutPair_spmLost (s : State) (o v : Nat) : (regPutPair s o v).spmLost = s.spmLost := rfl
@[simp] theorem regPutPair_inject (s : State) (o v : Nat) : (regPutPair s o v).inject = s.inject := rfl
@[simp] theorem regPutPair_counters (s : State) (o v : Nat) : (regPutPair s o v).counters = s.counters := rfl
@[simp] theorem regPutPair_cntShadow (s : State) (o v : Nat) : (regPutPair s o v).cntShadow = s.cntShadow := rfl
@[simp] theorem regPutPair_ord (s : State) (o v : Nat) : (regPutPair s o v).ord = s.ord := rfl
@[simp] theorem regPutPair_xbr (s : State) (o v : Nat) : (regPutPair s o v).xbr = s.xbr := rfl
@[simp] theorem regPutPair_refetch (s : State) (o v : Nat) : (regPutPair s o v).refetch = s.refetch := rfl
@[simp] theorem regPutPair_throughs (s : State) (o v : Nat) : (regPutPair s o v).throughs = s.throughs := rfl
@[simp] theorem regPutPair_gathers (s : State) (o v : Nat) : (regPutPair s o v).gathers = s.gathers := rfl
@[simp] theorem regPutPair_power (s : State) (o v : Nat) : (regPutPair s o v).power = s.power := rfl
@[simp] theorem regPutPair_errors (s : State) (o v : Nat) : (regPutPair s o v).errors = s.errors := rfl
@[simp] theorem regPutPair_dre (s : State) (o v : Nat) : (regPutPair s o v).dre = s.dre := rfl
@[simp] theorem regPutPair_descs (s : State) (o v : Nat) : (regPutPair s o v).descs = s.descs := rfl
@[simp] theorem regPutPair_mxe (s : State) (o v : Nat) : (regPutPair s o v).mxe = s.mxe := rfl
@[simp] theorem regPutPair_voc (s : State) (o v : Nat) : (regPutPair s o v).voc = s.voc := rfl
@[simp] theorem regPutPair_vocBad (s : State) (o v : Nat) : (regPutPair s o v).vocBad = s.vocBad := rfl
@[simp] theorem regPutPair_groups (s : State) (o v : Nat) : (regPutPair s o v).groups = s.groups := rfl
@[simp] theorem regPutPair_l1 (s : State) (o v : Nat) : (regPutPair s o v).l1 = s.l1 := rfl
@[simp] theorem regPutPair_cle (s : State) (o v : Nat) : (regPutPair s o v).cle = s.cle := rfl
@[simp] theorem regPutPair_fep (s : State) (o v : Nat) : (regPutPair s o v).fep = s.fep := rfl
@[simp] theorem regPutPair_cmp (s : State) (o v : Nat) : (regPutPair s o v).cmp = s.cmp := rfl
@[simp] theorem regPutPair_mgmt (s : State) (o v : Nat) : (regPutPair s o v).mgmt = s.mgmt := rfl
@[simp] theorem regPutPair_tap (s : State) (o v : Nat) : (regPutPair s o v).tap = s.tap := rfl

@[simp] theorem descUpd_pending (s : State) (d : Nat) (f : Desc → Desc) : (descUpd s d f).pending = s.pending := rfl
@[simp] theorem descUpd_freeCtr (s : State) (d : Nat) (f : Desc → Desc) : (descUpd s d f).freeCtr = s.freeCtr := rfl
@[simp] theorem descUpd_nextId (s : State) (d : Nat) (f : Desc → Desc) : (descUpd s d f).nextId = s.nextId := rfl
@[simp] theorem descUpd_readout (s : State) (d : Nat) (f : Desc → Desc) : (descUpd s d f).readout = s.readout := rfl
@[simp] theorem descUpd_par (s : State) (d : Nat) (f : Desc → Desc) : (descUpd s d f).par = s.par := rfl
@[simp] theorem descUpd_osc (s : State) (d : Nat) (f : Desc → Desc) : (descUpd s d f).osc = s.osc := rfl
@[simp] theorem descUpd_oscShadow (s : State) (d : Nat) (f : Desc → Desc) : (descUpd s d f).oscShadow = s.oscShadow := rfl
@[simp] theorem descUpd_boot (s : State) (d : Nat) (f : Desc → Desc) : (descUpd s d f).boot = s.boot := rfl
@[simp] theorem descUpd_fuses (s : State) (d : Nat) (f : Desc → Desc) : (descUpd s d f).fuses = s.fuses := rfl
@[simp] theorem descUpd_fusesSensed (s : State) (d : Nat) (f : Desc → Desc) : (descUpd s d f).fusesSensed = s.fusesSensed := rfl
@[simp] theorem descUpd_nor (s : State) (d : Nat) (f : Desc → Desc) : (descUpd s d f).nor = s.nor := rfl
@[simp] theorem descUpd_regs (s : State) (d : Nat) (f : Desc → Desc) : (descUpd s d f).regs = s.regs := rfl
@[simp] theorem descUpd_cfgBad (s : State) (d : Nat) (f : Desc → Desc) : (descUpd s d f).cfgBad = s.cfgBad := rfl
@[simp] theorem descUpd_gens (s : State) (d : Nat) (f : Desc → Desc) : (descUpd s d f).gens = s.gens := rfl
@[simp] theorem descUpd_ftab (s : State) (d : Nat) (f : Desc → Desc) : (descUpd s d f).ftab = s.ftab := rfl
@[simp] theorem descUpd_trim (s : State) (d : Nat) (f : Desc → Desc) : (descUpd s d f).trim = s.trim := rfl
@[simp] theorem descUpd_corr (s : State) (d : Nat) (f : Desc → Desc) : (descUpd s d f).corr = s.corr := rfl
@[simp] theorem descUpd_spm (s : State) (d : Nat) (f : Desc → Desc) : (descUpd s d f).spm = s.spm := rfl
@[simp] theorem descUpd_spmBad (s : State) (d : Nat) (f : Desc → Desc) : (descUpd s d f).spmBad = s.spmBad := rfl
@[simp] theorem descUpd_spmLost (s : State) (d : Nat) (f : Desc → Desc) : (descUpd s d f).spmLost = s.spmLost := rfl
@[simp] theorem descUpd_inject (s : State) (d : Nat) (f : Desc → Desc) : (descUpd s d f).inject = s.inject := rfl
@[simp] theorem descUpd_counters (s : State) (d : Nat) (f : Desc → Desc) : (descUpd s d f).counters = s.counters := rfl
@[simp] theorem descUpd_cntShadow (s : State) (d : Nat) (f : Desc → Desc) : (descUpd s d f).cntShadow = s.cntShadow := rfl
@[simp] theorem descUpd_ord (s : State) (d : Nat) (f : Desc → Desc) : (descUpd s d f).ord = s.ord := rfl
@[simp] theorem descUpd_xbr (s : State) (d : Nat) (f : Desc → Desc) : (descUpd s d f).xbr = s.xbr := rfl
@[simp] theorem descUpd_refetch (s : State) (d : Nat) (f : Desc → Desc) : (descUpd s d f).refetch = s.refetch := rfl
@[simp] theorem descUpd_throughs (s : State) (d : Nat) (f : Desc → Desc) : (descUpd s d f).throughs = s.throughs := rfl
@[simp] theorem descUpd_gathers (s : State) (d : Nat) (f : Desc → Desc) : (descUpd s d f).gathers = s.gathers := rfl
@[simp] theorem descUpd_power (s : State) (d : Nat) (f : Desc → Desc) : (descUpd s d f).power = s.power := rfl
@[simp] theorem descUpd_errors (s : State) (d : Nat) (f : Desc → Desc) : (descUpd s d f).errors = s.errors := rfl
@[simp] theorem descUpd_dre (s : State) (d : Nat) (f : Desc → Desc) : (descUpd s d f).dre = s.dre := rfl
@[simp] theorem descUpd_mxe (s : State) (d : Nat) (f : Desc → Desc) : (descUpd s d f).mxe = s.mxe := rfl
@[simp] theorem descUpd_voc (s : State) (d : Nat) (f : Desc → Desc) : (descUpd s d f).voc = s.voc := rfl
@[simp] theorem descUpd_vocBad (s : State) (d : Nat) (f : Desc → Desc) : (descUpd s d f).vocBad = s.vocBad := rfl
@[simp] theorem descUpd_groups (s : State) (d : Nat) (f : Desc → Desc) : (descUpd s d f).groups = s.groups := rfl
@[simp] theorem descUpd_l1 (s : State) (d : Nat) (f : Desc → Desc) : (descUpd s d f).l1 = s.l1 := rfl
@[simp] theorem descUpd_cle (s : State) (d : Nat) (f : Desc → Desc) : (descUpd s d f).cle = s.cle := rfl
@[simp] theorem descUpd_fep (s : State) (d : Nat) (f : Desc → Desc) : (descUpd s d f).fep = s.fep := rfl
@[simp] theorem descUpd_cmp (s : State) (d : Nat) (f : Desc → Desc) : (descUpd s d f).cmp = s.cmp := rfl
@[simp] theorem descUpd_mgmt (s : State) (d : Nat) (f : Desc → Desc) : (descUpd s d f).mgmt = s.mgmt := rfl
@[simp] theorem descUpd_tap (s : State) (d : Nat) (f : Desc → Desc) : (descUpd s d f).tap = s.tap := rfl

@[simp] theorem groupUpd_pending (s : State) (i : Nat) (f : Group → Group) : (groupUpd s i f).pending = s.pending := rfl
@[simp] theorem groupUpd_freeCtr (s : State) (i : Nat) (f : Group → Group) : (groupUpd s i f).freeCtr = s.freeCtr := rfl
@[simp] theorem groupUpd_nextId (s : State) (i : Nat) (f : Group → Group) : (groupUpd s i f).nextId = s.nextId := rfl
@[simp] theorem groupUpd_readout (s : State) (i : Nat) (f : Group → Group) : (groupUpd s i f).readout = s.readout := rfl
@[simp] theorem groupUpd_par (s : State) (i : Nat) (f : Group → Group) : (groupUpd s i f).par = s.par := rfl
@[simp] theorem groupUpd_osc (s : State) (i : Nat) (f : Group → Group) : (groupUpd s i f).osc = s.osc := rfl
@[simp] theorem groupUpd_oscShadow (s : State) (i : Nat) (f : Group → Group) : (groupUpd s i f).oscShadow = s.oscShadow := rfl
@[simp] theorem groupUpd_boot (s : State) (i : Nat) (f : Group → Group) : (groupUpd s i f).boot = s.boot := rfl
@[simp] theorem groupUpd_fuses (s : State) (i : Nat) (f : Group → Group) : (groupUpd s i f).fuses = s.fuses := rfl
@[simp] theorem groupUpd_fusesSensed (s : State) (i : Nat) (f : Group → Group) : (groupUpd s i f).fusesSensed = s.fusesSensed := rfl
@[simp] theorem groupUpd_nor (s : State) (i : Nat) (f : Group → Group) : (groupUpd s i f).nor = s.nor := rfl
@[simp] theorem groupUpd_regs (s : State) (i : Nat) (f : Group → Group) : (groupUpd s i f).regs = s.regs := rfl
@[simp] theorem groupUpd_cfgBad (s : State) (i : Nat) (f : Group → Group) : (groupUpd s i f).cfgBad = s.cfgBad := rfl
@[simp] theorem groupUpd_gens (s : State) (i : Nat) (f : Group → Group) : (groupUpd s i f).gens = s.gens := rfl
@[simp] theorem groupUpd_ftab (s : State) (i : Nat) (f : Group → Group) : (groupUpd s i f).ftab = s.ftab := rfl
@[simp] theorem groupUpd_trim (s : State) (i : Nat) (f : Group → Group) : (groupUpd s i f).trim = s.trim := rfl
@[simp] theorem groupUpd_corr (s : State) (i : Nat) (f : Group → Group) : (groupUpd s i f).corr = s.corr := rfl
@[simp] theorem groupUpd_spm (s : State) (i : Nat) (f : Group → Group) : (groupUpd s i f).spm = s.spm := rfl
@[simp] theorem groupUpd_spmBad (s : State) (i : Nat) (f : Group → Group) : (groupUpd s i f).spmBad = s.spmBad := rfl
@[simp] theorem groupUpd_spmLost (s : State) (i : Nat) (f : Group → Group) : (groupUpd s i f).spmLost = s.spmLost := rfl
@[simp] theorem groupUpd_inject (s : State) (i : Nat) (f : Group → Group) : (groupUpd s i f).inject = s.inject := rfl
@[simp] theorem groupUpd_counters (s : State) (i : Nat) (f : Group → Group) : (groupUpd s i f).counters = s.counters := rfl
@[simp] theorem groupUpd_cntShadow (s : State) (i : Nat) (f : Group → Group) : (groupUpd s i f).cntShadow = s.cntShadow := rfl
@[simp] theorem groupUpd_ord (s : State) (i : Nat) (f : Group → Group) : (groupUpd s i f).ord = s.ord := rfl
@[simp] theorem groupUpd_xbr (s : State) (i : Nat) (f : Group → Group) : (groupUpd s i f).xbr = s.xbr := rfl
@[simp] theorem groupUpd_refetch (s : State) (i : Nat) (f : Group → Group) : (groupUpd s i f).refetch = s.refetch := rfl
@[simp] theorem groupUpd_throughs (s : State) (i : Nat) (f : Group → Group) : (groupUpd s i f).throughs = s.throughs := rfl
@[simp] theorem groupUpd_gathers (s : State) (i : Nat) (f : Group → Group) : (groupUpd s i f).gathers = s.gathers := rfl
@[simp] theorem groupUpd_power (s : State) (i : Nat) (f : Group → Group) : (groupUpd s i f).power = s.power := rfl
@[simp] theorem groupUpd_errors (s : State) (i : Nat) (f : Group → Group) : (groupUpd s i f).errors = s.errors := rfl
@[simp] theorem groupUpd_dre (s : State) (i : Nat) (f : Group → Group) : (groupUpd s i f).dre = s.dre := rfl
@[simp] theorem groupUpd_descs (s : State) (i : Nat) (f : Group → Group) : (groupUpd s i f).descs = s.descs := rfl
@[simp] theorem groupUpd_mxe (s : State) (i : Nat) (f : Group → Group) : (groupUpd s i f).mxe = s.mxe := rfl
@[simp] theorem groupUpd_voc (s : State) (i : Nat) (f : Group → Group) : (groupUpd s i f).voc = s.voc := rfl
@[simp] theorem groupUpd_vocBad (s : State) (i : Nat) (f : Group → Group) : (groupUpd s i f).vocBad = s.vocBad := rfl
@[simp] theorem groupUpd_l1 (s : State) (i : Nat) (f : Group → Group) : (groupUpd s i f).l1 = s.l1 := rfl
@[simp] theorem groupUpd_cle (s : State) (i : Nat) (f : Group → Group) : (groupUpd s i f).cle = s.cle := rfl
@[simp] theorem groupUpd_fep (s : State) (i : Nat) (f : Group → Group) : (groupUpd s i f).fep = s.fep := rfl
@[simp] theorem groupUpd_cmp (s : State) (i : Nat) (f : Group → Group) : (groupUpd s i f).cmp = s.cmp := rfl
@[simp] theorem groupUpd_mgmt (s : State) (i : Nat) (f : Group → Group) : (groupUpd s i f).mgmt = s.mgmt := rfl
@[simp] theorem groupUpd_tap (s : State) (i : Nat) (f : Group → Group) : (groupUpd s i f).tap = s.tap := rfl

@[simp] theorem threadUpd_pending (s : State) (t : Nat) (f : Thread → Thread) : (threadUpd s t f).pending = s.pending := rfl
@[simp] theorem threadUpd_freeCtr (s : State) (t : Nat) (f : Thread → Thread) : (threadUpd s t f).freeCtr = s.freeCtr := rfl
@[simp] theorem threadUpd_nextId (s : State) (t : Nat) (f : Thread → Thread) : (threadUpd s t f).nextId = s.nextId := rfl
@[simp] theorem threadUpd_readout (s : State) (t : Nat) (f : Thread → Thread) : (threadUpd s t f).readout = s.readout := rfl
@[simp] theorem threadUpd_par (s : State) (t : Nat) (f : Thread → Thread) : (threadUpd s t f).par = s.par := rfl
@[simp] theorem threadUpd_osc (s : State) (t : Nat) (f : Thread → Thread) : (threadUpd s t f).osc = s.osc := rfl
@[simp] theorem threadUpd_oscShadow (s : State) (t : Nat) (f : Thread → Thread) : (threadUpd s t f).oscShadow = s.oscShadow := rfl
@[simp] theorem threadUpd_boot (s : State) (t : Nat) (f : Thread → Thread) : (threadUpd s t f).boot = s.boot := rfl
@[simp] theorem threadUpd_fuses (s : State) (t : Nat) (f : Thread → Thread) : (threadUpd s t f).fuses = s.fuses := rfl
@[simp] theorem threadUpd_fusesSensed (s : State) (t : Nat) (f : Thread → Thread) : (threadUpd s t f).fusesSensed = s.fusesSensed := rfl
@[simp] theorem threadUpd_nor (s : State) (t : Nat) (f : Thread → Thread) : (threadUpd s t f).nor = s.nor := rfl
@[simp] theorem threadUpd_regs (s : State) (t : Nat) (f : Thread → Thread) : (threadUpd s t f).regs = s.regs := rfl
@[simp] theorem threadUpd_cfgBad (s : State) (t : Nat) (f : Thread → Thread) : (threadUpd s t f).cfgBad = s.cfgBad := rfl
@[simp] theorem threadUpd_gens (s : State) (t : Nat) (f : Thread → Thread) : (threadUpd s t f).gens = s.gens := rfl
@[simp] theorem threadUpd_ftab (s : State) (t : Nat) (f : Thread → Thread) : (threadUpd s t f).ftab = s.ftab := rfl
@[simp] theorem threadUpd_trim (s : State) (t : Nat) (f : Thread → Thread) : (threadUpd s t f).trim = s.trim := rfl
@[simp] theorem threadUpd_corr (s : State) (t : Nat) (f : Thread → Thread) : (threadUpd s t f).corr = s.corr := rfl
@[simp] theorem threadUpd_spm (s : State) (t : Nat) (f : Thread → Thread) : (threadUpd s t f).spm = s.spm := rfl
@[simp] theorem threadUpd_spmBad (s : State) (t : Nat) (f : Thread → Thread) : (threadUpd s t f).spmBad = s.spmBad := rfl
@[simp] theorem threadUpd_spmLost (s : State) (t : Nat) (f : Thread → Thread) : (threadUpd s t f).spmLost = s.spmLost := rfl
@[simp] theorem threadUpd_inject (s : State) (t : Nat) (f : Thread → Thread) : (threadUpd s t f).inject = s.inject := rfl
@[simp] theorem threadUpd_counters (s : State) (t : Nat) (f : Thread → Thread) : (threadUpd s t f).counters = s.counters := rfl
@[simp] theorem threadUpd_cntShadow (s : State) (t : Nat) (f : Thread → Thread) : (threadUpd s t f).cntShadow = s.cntShadow := rfl
@[simp] theorem threadUpd_ord (s : State) (t : Nat) (f : Thread → Thread) : (threadUpd s t f).ord = s.ord := rfl
@[simp] theorem threadUpd_xbr (s : State) (t : Nat) (f : Thread → Thread) : (threadUpd s t f).xbr = s.xbr := rfl
@[simp] theorem threadUpd_refetch (s : State) (t : Nat) (f : Thread → Thread) : (threadUpd s t f).refetch = s.refetch := rfl
@[simp] theorem threadUpd_throughs (s : State) (t : Nat) (f : Thread → Thread) : (threadUpd s t f).throughs = s.throughs := rfl
@[simp] theorem threadUpd_gathers (s : State) (t : Nat) (f : Thread → Thread) : (threadUpd s t f).gathers = s.gathers := rfl
@[simp] theorem threadUpd_power (s : State) (t : Nat) (f : Thread → Thread) : (threadUpd s t f).power = s.power := rfl
@[simp] theorem threadUpd_errors (s : State) (t : Nat) (f : Thread → Thread) : (threadUpd s t f).errors = s.errors := rfl
@[simp] theorem threadUpd_dre (s : State) (t : Nat) (f : Thread → Thread) : (threadUpd s t f).dre = s.dre := rfl
@[simp] theorem threadUpd_descs (s : State) (t : Nat) (f : Thread → Thread) : (threadUpd s t f).descs = s.descs := rfl
@[simp] theorem threadUpd_mxe (s : State) (t : Nat) (f : Thread → Thread) : (threadUpd s t f).mxe = s.mxe := rfl
@[simp] theorem threadUpd_voc (s : State) (t : Nat) (f : Thread → Thread) : (threadUpd s t f).voc = s.voc := rfl
@[simp] theorem threadUpd_vocBad (s : State) (t : Nat) (f : Thread → Thread) : (threadUpd s t f).vocBad = s.vocBad := rfl
@[simp] theorem threadUpd_l1 (s : State) (t : Nat) (f : Thread → Thread) : (threadUpd s t f).l1 = s.l1 := rfl
@[simp] theorem threadUpd_cle (s : State) (t : Nat) (f : Thread → Thread) : (threadUpd s t f).cle = s.cle := rfl
@[simp] theorem threadUpd_fep (s : State) (t : Nat) (f : Thread → Thread) : (threadUpd s t f).fep = s.fep := rfl
@[simp] theorem threadUpd_cmp (s : State) (t : Nat) (f : Thread → Thread) : (threadUpd s t f).cmp = s.cmp := rfl
@[simp] theorem threadUpd_mgmt (s : State) (t : Nat) (f : Thread → Thread) : (threadUpd s t f).mgmt = s.mgmt := rfl
@[simp] theorem threadUpd_tap (s : State) (t : Nat) (f : Thread → Thread) : (threadUpd s t f).tap = s.tap := rfl

@[simp] theorem threadNow_pending (s : State) (t : Nat) (y : Thread) : (threadNow s t y).pending = s.pending := rfl
@[simp] theorem threadNow_freeCtr (s : State) (t : Nat) (y : Thread) : (threadNow s t y).freeCtr = s.freeCtr := rfl
@[simp] theorem threadNow_nextId (s : State) (t : Nat) (y : Thread) : (threadNow s t y).nextId = s.nextId := rfl
@[simp] theorem threadNow_readout (s : State) (t : Nat) (y : Thread) : (threadNow s t y).readout = s.readout := rfl
@[simp] theorem threadNow_par (s : State) (t : Nat) (y : Thread) : (threadNow s t y).par = s.par := rfl
@[simp] theorem threadNow_osc (s : State) (t : Nat) (y : Thread) : (threadNow s t y).osc = s.osc := rfl
@[simp] theorem threadNow_oscShadow (s : State) (t : Nat) (y : Thread) : (threadNow s t y).oscShadow = s.oscShadow := rfl
@[simp] theorem threadNow_boot (s : State) (t : Nat) (y : Thread) : (threadNow s t y).boot = s.boot := rfl
@[simp] theorem threadNow_fuses (s : State) (t : Nat) (y : Thread) : (threadNow s t y).fuses = s.fuses := rfl
@[simp] theorem threadNow_fusesSensed (s : State) (t : Nat) (y : Thread) : (threadNow s t y).fusesSensed = s.fusesSensed := rfl
@[simp] theorem threadNow_nor (s : State) (t : Nat) (y : Thread) : (threadNow s t y).nor = s.nor := rfl
@[simp] theorem threadNow_regs (s : State) (t : Nat) (y : Thread) : (threadNow s t y).regs = s.regs := rfl
@[simp] theorem threadNow_cfgBad (s : State) (t : Nat) (y : Thread) : (threadNow s t y).cfgBad = s.cfgBad := rfl
@[simp] theorem threadNow_gens (s : State) (t : Nat) (y : Thread) : (threadNow s t y).gens = s.gens := rfl
@[simp] theorem threadNow_ftab (s : State) (t : Nat) (y : Thread) : (threadNow s t y).ftab = s.ftab := rfl
@[simp] theorem threadNow_trim (s : State) (t : Nat) (y : Thread) : (threadNow s t y).trim = s.trim := rfl
@[simp] theorem threadNow_corr (s : State) (t : Nat) (y : Thread) : (threadNow s t y).corr = s.corr := rfl
@[simp] theorem threadNow_spm (s : State) (t : Nat) (y : Thread) : (threadNow s t y).spm = s.spm := rfl
@[simp] theorem threadNow_spmBad (s : State) (t : Nat) (y : Thread) : (threadNow s t y).spmBad = s.spmBad := rfl
@[simp] theorem threadNow_spmLost (s : State) (t : Nat) (y : Thread) : (threadNow s t y).spmLost = s.spmLost := rfl
@[simp] theorem threadNow_inject (s : State) (t : Nat) (y : Thread) : (threadNow s t y).inject = s.inject := rfl
@[simp] theorem threadNow_counters (s : State) (t : Nat) (y : Thread) : (threadNow s t y).counters = s.counters := rfl
@[simp] theorem threadNow_cntShadow (s : State) (t : Nat) (y : Thread) : (threadNow s t y).cntShadow = s.cntShadow := rfl
@[simp] theorem threadNow_ord (s : State) (t : Nat) (y : Thread) : (threadNow s t y).ord = s.ord := rfl
@[simp] theorem threadNow_xbr (s : State) (t : Nat) (y : Thread) : (threadNow s t y).xbr = s.xbr := rfl
@[simp] theorem threadNow_refetch (s : State) (t : Nat) (y : Thread) : (threadNow s t y).refetch = s.refetch := rfl
@[simp] theorem threadNow_throughs (s : State) (t : Nat) (y : Thread) : (threadNow s t y).throughs = s.throughs := rfl
@[simp] theorem threadNow_gathers (s : State) (t : Nat) (y : Thread) : (threadNow s t y).gathers = s.gathers := rfl
@[simp] theorem threadNow_power (s : State) (t : Nat) (y : Thread) : (threadNow s t y).power = s.power := rfl
@[simp] theorem threadNow_errors (s : State) (t : Nat) (y : Thread) : (threadNow s t y).errors = s.errors := rfl
@[simp] theorem threadNow_dre (s : State) (t : Nat) (y : Thread) : (threadNow s t y).dre = s.dre := rfl
@[simp] theorem threadNow_descs (s : State) (t : Nat) (y : Thread) : (threadNow s t y).descs = s.descs := rfl
@[simp] theorem threadNow_mxe (s : State) (t : Nat) (y : Thread) : (threadNow s t y).mxe = s.mxe := rfl
@[simp] theorem threadNow_voc (s : State) (t : Nat) (y : Thread) : (threadNow s t y).voc = s.voc := rfl
@[simp] theorem threadNow_vocBad (s : State) (t : Nat) (y : Thread) : (threadNow s t y).vocBad = s.vocBad := rfl
@[simp] theorem threadNow_l1 (s : State) (t : Nat) (y : Thread) : (threadNow s t y).l1 = s.l1 := rfl
@[simp] theorem threadNow_cle (s : State) (t : Nat) (y : Thread) : (threadNow s t y).cle = s.cle := rfl
@[simp] theorem threadNow_fep (s : State) (t : Nat) (y : Thread) : (threadNow s t y).fep = s.fep := rfl
@[simp] theorem threadNow_cmp (s : State) (t : Nat) (y : Thread) : (threadNow s t y).cmp = s.cmp := rfl
@[simp] theorem threadNow_mgmt (s : State) (t : Nat) (y : Thread) : (threadNow s t y).mgmt = s.mgmt := rfl
@[simp] theorem threadNow_tap (s : State) (t : Nat) (y : Thread) : (threadNow s t y).tap = s.tap := rfl

@[simp] theorem portUpd_pending (s : State) (p : Nat) (f : Port → Port) : (portUpd s p f).pending = s.pending := rfl
@[simp] theorem portUpd_freeCtr (s : State) (p : Nat) (f : Port → Port) : (portUpd s p f).freeCtr = s.freeCtr := rfl
@[simp] theorem portUpd_nextId (s : State) (p : Nat) (f : Port → Port) : (portUpd s p f).nextId = s.nextId := rfl
@[simp] theorem portUpd_readout (s : State) (p : Nat) (f : Port → Port) : (portUpd s p f).readout = s.readout := rfl
@[simp] theorem portUpd_par (s : State) (p : Nat) (f : Port → Port) : (portUpd s p f).par = s.par := rfl
@[simp] theorem portUpd_osc (s : State) (p : Nat) (f : Port → Port) : (portUpd s p f).osc = s.osc := rfl
@[simp] theorem portUpd_oscShadow (s : State) (p : Nat) (f : Port → Port) : (portUpd s p f).oscShadow = s.oscShadow := rfl
@[simp] theorem portUpd_boot (s : State) (p : Nat) (f : Port → Port) : (portUpd s p f).boot = s.boot := rfl
@[simp] theorem portUpd_fuses (s : State) (p : Nat) (f : Port → Port) : (portUpd s p f).fuses = s.fuses := rfl
@[simp] theorem portUpd_fusesSensed (s : State) (p : Nat) (f : Port → Port) : (portUpd s p f).fusesSensed = s.fusesSensed := rfl
@[simp] theorem portUpd_nor (s : State) (p : Nat) (f : Port → Port) : (portUpd s p f).nor = s.nor := rfl
@[simp] theorem portUpd_regs (s : State) (p : Nat) (f : Port → Port) : (portUpd s p f).regs = s.regs := rfl
@[simp] theorem portUpd_cfgBad (s : State) (p : Nat) (f : Port → Port) : (portUpd s p f).cfgBad = s.cfgBad := rfl
@[simp] theorem portUpd_gens (s : State) (p : Nat) (f : Port → Port) : (portUpd s p f).gens = s.gens := rfl
@[simp] theorem portUpd_ftab (s : State) (p : Nat) (f : Port → Port) : (portUpd s p f).ftab = s.ftab := rfl
@[simp] theorem portUpd_trim (s : State) (p : Nat) (f : Port → Port) : (portUpd s p f).trim = s.trim := rfl
@[simp] theorem portUpd_corr (s : State) (p : Nat) (f : Port → Port) : (portUpd s p f).corr = s.corr := rfl
@[simp] theorem portUpd_spm (s : State) (p : Nat) (f : Port → Port) : (portUpd s p f).spm = s.spm := rfl
@[simp] theorem portUpd_spmBad (s : State) (p : Nat) (f : Port → Port) : (portUpd s p f).spmBad = s.spmBad := rfl
@[simp] theorem portUpd_spmLost (s : State) (p : Nat) (f : Port → Port) : (portUpd s p f).spmLost = s.spmLost := rfl
@[simp] theorem portUpd_inject (s : State) (p : Nat) (f : Port → Port) : (portUpd s p f).inject = s.inject := rfl
@[simp] theorem portUpd_counters (s : State) (p : Nat) (f : Port → Port) : (portUpd s p f).counters = s.counters := rfl
@[simp] theorem portUpd_cntShadow (s : State) (p : Nat) (f : Port → Port) : (portUpd s p f).cntShadow = s.cntShadow := rfl
@[simp] theorem portUpd_ord (s : State) (p : Nat) (f : Port → Port) : (portUpd s p f).ord = s.ord := rfl
@[simp] theorem portUpd_xbr (s : State) (p : Nat) (f : Port → Port) : (portUpd s p f).xbr = s.xbr := rfl
@[simp] theorem portUpd_refetch (s : State) (p : Nat) (f : Port → Port) : (portUpd s p f).refetch = s.refetch := rfl
@[simp] theorem portUpd_throughs (s : State) (p : Nat) (f : Port → Port) : (portUpd s p f).throughs = s.throughs := rfl
@[simp] theorem portUpd_gathers (s : State) (p : Nat) (f : Port → Port) : (portUpd s p f).gathers = s.gathers := rfl
@[simp] theorem portUpd_power (s : State) (p : Nat) (f : Port → Port) : (portUpd s p f).power = s.power := rfl
@[simp] theorem portUpd_errors (s : State) (p : Nat) (f : Port → Port) : (portUpd s p f).errors = s.errors := rfl
@[simp] theorem portUpd_dre (s : State) (p : Nat) (f : Port → Port) : (portUpd s p f).dre = s.dre := rfl
@[simp] theorem portUpd_descs (s : State) (p : Nat) (f : Port → Port) : (portUpd s p f).descs = s.descs := rfl
@[simp] theorem portUpd_mxe (s : State) (p : Nat) (f : Port → Port) : (portUpd s p f).mxe = s.mxe := rfl
@[simp] theorem portUpd_voc (s : State) (p : Nat) (f : Port → Port) : (portUpd s p f).voc = s.voc := rfl
@[simp] theorem portUpd_vocBad (s : State) (p : Nat) (f : Port → Port) : (portUpd s p f).vocBad = s.vocBad := rfl
@[simp] theorem portUpd_groups (s : State) (p : Nat) (f : Port → Port) : (portUpd s p f).groups = s.groups := rfl
@[simp] theorem portUpd_l1 (s : State) (p : Nat) (f : Port → Port) : (portUpd s p f).l1 = s.l1 := rfl
@[simp] theorem portUpd_cle (s : State) (p : Nat) (f : Port → Port) : (portUpd s p f).cle = s.cle := rfl
@[simp] theorem portUpd_cmp (s : State) (p : Nat) (f : Port → Port) : (portUpd s p f).cmp = s.cmp := rfl
@[simp] theorem portUpd_mgmt (s : State) (p : Nat) (f : Port → Port) : (portUpd s p f).mgmt = s.mgmt := rfl
@[simp] theorem portUpd_tap (s : State) (p : Nat) (f : Port → Port) : (portUpd s p f).tap = s.tap := rfl

@[simp] theorem chanUpd_pending (s : State) (c : Nat) (f : Chan → Chan) : (chanUpd s c f).pending = s.pending := rfl
@[simp] theorem chanUpd_freeCtr (s : State) (c : Nat) (f : Chan → Chan) : (chanUpd s c f).freeCtr = s.freeCtr := rfl
@[simp] theorem chanUpd_nextId (s : State) (c : Nat) (f : Chan → Chan) : (chanUpd s c f).nextId = s.nextId := rfl
@[simp] theorem chanUpd_readout (s : State) (c : Nat) (f : Chan → Chan) : (chanUpd s c f).readout = s.readout := rfl
@[simp] theorem chanUpd_par (s : State) (c : Nat) (f : Chan → Chan) : (chanUpd s c f).par = s.par := rfl
@[simp] theorem chanUpd_osc (s : State) (c : Nat) (f : Chan → Chan) : (chanUpd s c f).osc = s.osc := rfl
@[simp] theorem chanUpd_oscShadow (s : State) (c : Nat) (f : Chan → Chan) : (chanUpd s c f).oscShadow = s.oscShadow := rfl
@[simp] theorem chanUpd_boot (s : State) (c : Nat) (f : Chan → Chan) : (chanUpd s c f).boot = s.boot := rfl
@[simp] theorem chanUpd_fuses (s : State) (c : Nat) (f : Chan → Chan) : (chanUpd s c f).fuses = s.fuses := rfl
@[simp] theorem chanUpd_fusesSensed (s : State) (c : Nat) (f : Chan → Chan) : (chanUpd s c f).fusesSensed = s.fusesSensed := rfl
@[simp] theorem chanUpd_nor (s : State) (c : Nat) (f : Chan → Chan) : (chanUpd s c f).nor = s.nor := rfl
@[simp] theorem chanUpd_regs (s : State) (c : Nat) (f : Chan → Chan) : (chanUpd s c f).regs = s.regs := rfl
@[simp] theorem chanUpd_cfgBad (s : State) (c : Nat) (f : Chan → Chan) : (chanUpd s c f).cfgBad = s.cfgBad := rfl
@[simp] theorem chanUpd_gens (s : State) (c : Nat) (f : Chan → Chan) : (chanUpd s c f).gens = s.gens := rfl
@[simp] theorem chanUpd_ftab (s : State) (c : Nat) (f : Chan → Chan) : (chanUpd s c f).ftab = s.ftab := rfl
@[simp] theorem chanUpd_trim (s : State) (c : Nat) (f : Chan → Chan) : (chanUpd s c f).trim = s.trim := rfl
@[simp] theorem chanUpd_corr (s : State) (c : Nat) (f : Chan → Chan) : (chanUpd s c f).corr = s.corr := rfl
@[simp] theorem chanUpd_spm (s : State) (c : Nat) (f : Chan → Chan) : (chanUpd s c f).spm = s.spm := rfl
@[simp] theorem chanUpd_spmBad (s : State) (c : Nat) (f : Chan → Chan) : (chanUpd s c f).spmBad = s.spmBad := rfl
@[simp] theorem chanUpd_spmLost (s : State) (c : Nat) (f : Chan → Chan) : (chanUpd s c f).spmLost = s.spmLost := rfl
@[simp] theorem chanUpd_inject (s : State) (c : Nat) (f : Chan → Chan) : (chanUpd s c f).inject = s.inject := rfl
@[simp] theorem chanUpd_counters (s : State) (c : Nat) (f : Chan → Chan) : (chanUpd s c f).counters = s.counters := rfl
@[simp] theorem chanUpd_cntShadow (s : State) (c : Nat) (f : Chan → Chan) : (chanUpd s c f).cntShadow = s.cntShadow := rfl
@[simp] theorem chanUpd_ord (s : State) (c : Nat) (f : Chan → Chan) : (chanUpd s c f).ord = s.ord := rfl
@[simp] theorem chanUpd_xbr (s : State) (c : Nat) (f : Chan → Chan) : (chanUpd s c f).xbr = s.xbr := rfl
@[simp] theorem chanUpd_refetch (s : State) (c : Nat) (f : Chan → Chan) : (chanUpd s c f).refetch = s.refetch := rfl
@[simp] theorem chanUpd_throughs (s : State) (c : Nat) (f : Chan → Chan) : (chanUpd s c f).throughs = s.throughs := rfl
@[simp] theorem chanUpd_gathers (s : State) (c : Nat) (f : Chan → Chan) : (chanUpd s c f).gathers = s.gathers := rfl
@[simp] theorem chanUpd_power (s : State) (c : Nat) (f : Chan → Chan) : (chanUpd s c f).power = s.power := rfl
@[simp] theorem chanUpd_errors (s : State) (c : Nat) (f : Chan → Chan) : (chanUpd s c f).errors = s.errors := rfl
@[simp] theorem chanUpd_dre (s : State) (c : Nat) (f : Chan → Chan) : (chanUpd s c f).dre = s.dre := rfl
@[simp] theorem chanUpd_descs (s : State) (c : Nat) (f : Chan → Chan) : (chanUpd s c f).descs = s.descs := rfl
@[simp] theorem chanUpd_mxe (s : State) (c : Nat) (f : Chan → Chan) : (chanUpd s c f).mxe = s.mxe := rfl
@[simp] theorem chanUpd_voc (s : State) (c : Nat) (f : Chan → Chan) : (chanUpd s c f).voc = s.voc := rfl
@[simp] theorem chanUpd_vocBad (s : State) (c : Nat) (f : Chan → Chan) : (chanUpd s c f).vocBad = s.vocBad := rfl
@[simp] theorem chanUpd_groups (s : State) (c : Nat) (f : Chan → Chan) : (chanUpd s c f).groups = s.groups := rfl
@[simp] theorem chanUpd_l1 (s : State) (c : Nat) (f : Chan → Chan) : (chanUpd s c f).l1 = s.l1 := rfl
@[simp] theorem chanUpd_cle (s : State) (c : Nat) (f : Chan → Chan) : (chanUpd s c f).cle = s.cle := rfl
@[simp] theorem chanUpd_fep (s : State) (c : Nat) (f : Chan → Chan) : (chanUpd s c f).fep = s.fep := rfl
@[simp] theorem chanUpd_mgmt (s : State) (c : Nat) (f : Chan → Chan) : (chanUpd s c f).mgmt = s.mgmt := rfl
@[simp] theorem chanUpd_tap (s : State) (c : Nat) (f : Chan → Chan) : (chanUpd s c f).tap = s.tap := rfl

@[simp] theorem ringUpd_pending (s : State) (r : Nat) (f : Ring → Ring) : (ringUpd s r f).pending = s.pending := rfl
@[simp] theorem ringUpd_freeCtr (s : State) (r : Nat) (f : Ring → Ring) : (ringUpd s r f).freeCtr = s.freeCtr := rfl
@[simp] theorem ringUpd_nextId (s : State) (r : Nat) (f : Ring → Ring) : (ringUpd s r f).nextId = s.nextId := rfl
@[simp] theorem ringUpd_readout (s : State) (r : Nat) (f : Ring → Ring) : (ringUpd s r f).readout = s.readout := rfl
@[simp] theorem ringUpd_par (s : State) (r : Nat) (f : Ring → Ring) : (ringUpd s r f).par = s.par := rfl
@[simp] theorem ringUpd_osc (s : State) (r : Nat) (f : Ring → Ring) : (ringUpd s r f).osc = s.osc := rfl
@[simp] theorem ringUpd_oscShadow (s : State) (r : Nat) (f : Ring → Ring) : (ringUpd s r f).oscShadow = s.oscShadow := rfl
@[simp] theorem ringUpd_boot (s : State) (r : Nat) (f : Ring → Ring) : (ringUpd s r f).boot = s.boot := rfl
@[simp] theorem ringUpd_fuses (s : State) (r : Nat) (f : Ring → Ring) : (ringUpd s r f).fuses = s.fuses := rfl
@[simp] theorem ringUpd_fusesSensed (s : State) (r : Nat) (f : Ring → Ring) : (ringUpd s r f).fusesSensed = s.fusesSensed := rfl
@[simp] theorem ringUpd_nor (s : State) (r : Nat) (f : Ring → Ring) : (ringUpd s r f).nor = s.nor := rfl
@[simp] theorem ringUpd_regs (s : State) (r : Nat) (f : Ring → Ring) : (ringUpd s r f).regs = s.regs := rfl
@[simp] theorem ringUpd_cfgBad (s : State) (r : Nat) (f : Ring → Ring) : (ringUpd s r f).cfgBad = s.cfgBad := rfl
@[simp] theorem ringUpd_gens (s : State) (r : Nat) (f : Ring → Ring) : (ringUpd s r f).gens = s.gens := rfl
@[simp] theorem ringUpd_ftab (s : State) (r : Nat) (f : Ring → Ring) : (ringUpd s r f).ftab = s.ftab := rfl
@[simp] theorem ringUpd_trim (s : State) (r : Nat) (f : Ring → Ring) : (ringUpd s r f).trim = s.trim := rfl
@[simp] theorem ringUpd_corr (s : State) (r : Nat) (f : Ring → Ring) : (ringUpd s r f).corr = s.corr := rfl
@[simp] theorem ringUpd_spm (s : State) (r : Nat) (f : Ring → Ring) : (ringUpd s r f).spm = s.spm := rfl
@[simp] theorem ringUpd_spmBad (s : State) (r : Nat) (f : Ring → Ring) : (ringUpd s r f).spmBad = s.spmBad := rfl
@[simp] theorem ringUpd_spmLost (s : State) (r : Nat) (f : Ring → Ring) : (ringUpd s r f).spmLost = s.spmLost := rfl
@[simp] theorem ringUpd_inject (s : State) (r : Nat) (f : Ring → Ring) : (ringUpd s r f).inject = s.inject := rfl
@[simp] theorem ringUpd_counters (s : State) (r : Nat) (f : Ring → Ring) : (ringUpd s r f).counters = s.counters := rfl
@[simp] theorem ringUpd_cntShadow (s : State) (r : Nat) (f : Ring → Ring) : (ringUpd s r f).cntShadow = s.cntShadow := rfl
@[simp] theorem ringUpd_ord (s : State) (r : Nat) (f : Ring → Ring) : (ringUpd s r f).ord = s.ord := rfl
@[simp] theorem ringUpd_xbr (s : State) (r : Nat) (f : Ring → Ring) : (ringUpd s r f).xbr = s.xbr := rfl
@[simp] theorem ringUpd_refetch (s : State) (r : Nat) (f : Ring → Ring) : (ringUpd s r f).refetch = s.refetch := rfl
@[simp] theorem ringUpd_throughs (s : State) (r : Nat) (f : Ring → Ring) : (ringUpd s r f).throughs = s.throughs := rfl
@[simp] theorem ringUpd_gathers (s : State) (r : Nat) (f : Ring → Ring) : (ringUpd s r f).gathers = s.gathers := rfl
@[simp] theorem ringUpd_power (s : State) (r : Nat) (f : Ring → Ring) : (ringUpd s r f).power = s.power := rfl
@[simp] theorem ringUpd_errors (s : State) (r : Nat) (f : Ring → Ring) : (ringUpd s r f).errors = s.errors := rfl
@[simp] theorem ringUpd_descs (s : State) (r : Nat) (f : Ring → Ring) : (ringUpd s r f).descs = s.descs := rfl
@[simp] theorem ringUpd_mxe (s : State) (r : Nat) (f : Ring → Ring) : (ringUpd s r f).mxe = s.mxe := rfl
@[simp] theorem ringUpd_voc (s : State) (r : Nat) (f : Ring → Ring) : (ringUpd s r f).voc = s.voc := rfl
@[simp] theorem ringUpd_vocBad (s : State) (r : Nat) (f : Ring → Ring) : (ringUpd s r f).vocBad = s.vocBad := rfl
@[simp] theorem ringUpd_groups (s : State) (r : Nat) (f : Ring → Ring) : (ringUpd s r f).groups = s.groups := rfl
@[simp] theorem ringUpd_l1 (s : State) (r : Nat) (f : Ring → Ring) : (ringUpd s r f).l1 = s.l1 := rfl
@[simp] theorem ringUpd_cle (s : State) (r : Nat) (f : Ring → Ring) : (ringUpd s r f).cle = s.cle := rfl
@[simp] theorem ringUpd_fep (s : State) (r : Nat) (f : Ring → Ring) : (ringUpd s r f).fep = s.fep := rfl
@[simp] theorem ringUpd_cmp (s : State) (r : Nat) (f : Ring → Ring) : (ringUpd s r f).cmp = s.cmp := rfl
@[simp] theorem ringUpd_mgmt (s : State) (r : Nat) (f : Ring → Ring) : (ringUpd s r f).mgmt = s.mgmt := rfl
@[simp] theorem ringUpd_tap (s : State) (r : Nat) (f : Ring → Ring) : (ringUpd s r f).tap = s.tap := rfl

@[simp] theorem grpUpd_pending (s : State) (g : Nat) (f : ClGroup → ClGroup) : (grpUpd s g f).pending = s.pending := rfl
@[simp] theorem grpUpd_freeCtr (s : State) (g : Nat) (f : ClGroup → ClGroup) : (grpUpd s g f).freeCtr = s.freeCtr := rfl
@[simp] theorem grpUpd_nextId (s : State) (g : Nat) (f : ClGroup → ClGroup) : (grpUpd s g f).nextId = s.nextId := rfl
@[simp] theorem grpUpd_readout (s : State) (g : Nat) (f : ClGroup → ClGroup) : (grpUpd s g f).readout = s.readout := rfl
@[simp] theorem grpUpd_par (s : State) (g : Nat) (f : ClGroup → ClGroup) : (grpUpd s g f).par = s.par := rfl
@[simp] theorem grpUpd_osc (s : State) (g : Nat) (f : ClGroup → ClGroup) : (grpUpd s g f).osc = s.osc := rfl
@[simp] theorem grpUpd_oscShadow (s : State) (g : Nat) (f : ClGroup → ClGroup) : (grpUpd s g f).oscShadow = s.oscShadow := rfl
@[simp] theorem grpUpd_boot (s : State) (g : Nat) (f : ClGroup → ClGroup) : (grpUpd s g f).boot = s.boot := rfl
@[simp] theorem grpUpd_fuses (s : State) (g : Nat) (f : ClGroup → ClGroup) : (grpUpd s g f).fuses = s.fuses := rfl
@[simp] theorem grpUpd_fusesSensed (s : State) (g : Nat) (f : ClGroup → ClGroup) : (grpUpd s g f).fusesSensed = s.fusesSensed := rfl
@[simp] theorem grpUpd_nor (s : State) (g : Nat) (f : ClGroup → ClGroup) : (grpUpd s g f).nor = s.nor := rfl
@[simp] theorem grpUpd_regs (s : State) (g : Nat) (f : ClGroup → ClGroup) : (grpUpd s g f).regs = s.regs := rfl
@[simp] theorem grpUpd_cfgBad (s : State) (g : Nat) (f : ClGroup → ClGroup) : (grpUpd s g f).cfgBad = s.cfgBad := rfl
@[simp] theorem grpUpd_gens (s : State) (g : Nat) (f : ClGroup → ClGroup) : (grpUpd s g f).gens = s.gens := rfl
@[simp] theorem grpUpd_ftab (s : State) (g : Nat) (f : ClGroup → ClGroup) : (grpUpd s g f).ftab = s.ftab := rfl
@[simp] theorem grpUpd_trim (s : State) (g : Nat) (f : ClGroup → ClGroup) : (grpUpd s g f).trim = s.trim := rfl
@[simp] theorem grpUpd_corr (s : State) (g : Nat) (f : ClGroup → ClGroup) : (grpUpd s g f).corr = s.corr := rfl
@[simp] theorem grpUpd_spm (s : State) (g : Nat) (f : ClGroup → ClGroup) : (grpUpd s g f).spm = s.spm := rfl
@[simp] theorem grpUpd_spmBad (s : State) (g : Nat) (f : ClGroup → ClGroup) : (grpUpd s g f).spmBad = s.spmBad := rfl
@[simp] theorem grpUpd_spmLost (s : State) (g : Nat) (f : ClGroup → ClGroup) : (grpUpd s g f).spmLost = s.spmLost := rfl
@[simp] theorem grpUpd_inject (s : State) (g : Nat) (f : ClGroup → ClGroup) : (grpUpd s g f).inject = s.inject := rfl
@[simp] theorem grpUpd_counters (s : State) (g : Nat) (f : ClGroup → ClGroup) : (grpUpd s g f).counters = s.counters := rfl
@[simp] theorem grpUpd_cntShadow (s : State) (g : Nat) (f : ClGroup → ClGroup) : (grpUpd s g f).cntShadow = s.cntShadow := rfl
@[simp] theorem grpUpd_ord (s : State) (g : Nat) (f : ClGroup → ClGroup) : (grpUpd s g f).ord = s.ord := rfl
@[simp] theorem grpUpd_xbr (s : State) (g : Nat) (f : ClGroup → ClGroup) : (grpUpd s g f).xbr = s.xbr := rfl
@[simp] theorem grpUpd_refetch (s : State) (g : Nat) (f : ClGroup → ClGroup) : (grpUpd s g f).refetch = s.refetch := rfl
@[simp] theorem grpUpd_throughs (s : State) (g : Nat) (f : ClGroup → ClGroup) : (grpUpd s g f).throughs = s.throughs := rfl
@[simp] theorem grpUpd_gathers (s : State) (g : Nat) (f : ClGroup → ClGroup) : (grpUpd s g f).gathers = s.gathers := rfl
@[simp] theorem grpUpd_power (s : State) (g : Nat) (f : ClGroup → ClGroup) : (grpUpd s g f).power = s.power := rfl
@[simp] theorem grpUpd_errors (s : State) (g : Nat) (f : ClGroup → ClGroup) : (grpUpd s g f).errors = s.errors := rfl
@[simp] theorem grpUpd_dre (s : State) (g : Nat) (f : ClGroup → ClGroup) : (grpUpd s g f).dre = s.dre := rfl
@[simp] theorem grpUpd_descs (s : State) (g : Nat) (f : ClGroup → ClGroup) : (grpUpd s g f).descs = s.descs := rfl
@[simp] theorem grpUpd_mxe (s : State) (g : Nat) (f : ClGroup → ClGroup) : (grpUpd s g f).mxe = s.mxe := rfl
@[simp] theorem grpUpd_voc (s : State) (g : Nat) (f : ClGroup → ClGroup) : (grpUpd s g f).voc = s.voc := rfl
@[simp] theorem grpUpd_vocBad (s : State) (g : Nat) (f : ClGroup → ClGroup) : (grpUpd s g f).vocBad = s.vocBad := rfl
@[simp] theorem grpUpd_groups (s : State) (g : Nat) (f : ClGroup → ClGroup) : (grpUpd s g f).groups = s.groups := rfl
@[simp] theorem grpUpd_l1 (s : State) (g : Nat) (f : ClGroup → ClGroup) : (grpUpd s g f).l1 = s.l1 := rfl
@[simp] theorem grpUpd_fep (s : State) (g : Nat) (f : ClGroup → ClGroup) : (grpUpd s g f).fep = s.fep := rfl
@[simp] theorem grpUpd_cmp (s : State) (g : Nat) (f : ClGroup → ClGroup) : (grpUpd s g f).cmp = s.cmp := rfl
@[simp] theorem grpUpd_mgmt (s : State) (g : Nat) (f : ClGroup → ClGroup) : (grpUpd s g f).mgmt = s.mgmt := rfl
@[simp] theorem grpUpd_tap (s : State) (g : Nat) (f : ClGroup → ClGroup) : (grpUpd s g f).tap = s.tap := rfl

@[simp] theorem noteWrite_pending (s : State) (who : Option Nat) (off len : Nat) : (noteWrite s who off len).pending = s.pending := rfl
@[simp] theorem noteWrite_freeCtr (s : State) (who : Option Nat) (off len : Nat) : (noteWrite s who off len).freeCtr = s.freeCtr := rfl
@[simp] theorem noteWrite_nextId (s : State) (who : Option Nat) (off len : Nat) : (noteWrite s who off len).nextId = s.nextId := rfl
@[simp] theorem noteWrite_readout (s : State) (who : Option Nat) (off len : Nat) : (noteWrite s who off len).readout = s.readout := rfl
@[simp] theorem noteWrite_par (s : State) (who : Option Nat) (off len : Nat) : (noteWrite s who off len).par = s.par := rfl
@[simp] theorem noteWrite_osc (s : State) (who : Option Nat) (off len : Nat) : (noteWrite s who off len).osc = s.osc := rfl
@[simp] theorem noteWrite_oscShadow (s : State) (who : Option Nat) (off len : Nat) : (noteWrite s who off len).oscShadow = s.oscShadow := rfl
@[simp] theorem noteWrite_boot (s : State) (who : Option Nat) (off len : Nat) : (noteWrite s who off len).boot = s.boot := rfl
@[simp] theorem noteWrite_fuses (s : State) (who : Option Nat) (off len : Nat) : (noteWrite s who off len).fuses = s.fuses := rfl
@[simp] theorem noteWrite_fusesSensed (s : State) (who : Option Nat) (off len : Nat) : (noteWrite s who off len).fusesSensed = s.fusesSensed := rfl
@[simp] theorem noteWrite_nor (s : State) (who : Option Nat) (off len : Nat) : (noteWrite s who off len).nor = s.nor := rfl
@[simp] theorem noteWrite_regs (s : State) (who : Option Nat) (off len : Nat) : (noteWrite s who off len).regs = s.regs := rfl
@[simp] theorem noteWrite_cfgBad (s : State) (who : Option Nat) (off len : Nat) : (noteWrite s who off len).cfgBad = s.cfgBad := rfl
@[simp] theorem noteWrite_gens (s : State) (who : Option Nat) (off len : Nat) : (noteWrite s who off len).gens = s.gens := rfl
@[simp] theorem noteWrite_ftab (s : State) (who : Option Nat) (off len : Nat) : (noteWrite s who off len).ftab = s.ftab := rfl
@[simp] theorem noteWrite_trim (s : State) (who : Option Nat) (off len : Nat) : (noteWrite s who off len).trim = s.trim := rfl
@[simp] theorem noteWrite_corr (s : State) (who : Option Nat) (off len : Nat) : (noteWrite s who off len).corr = s.corr := rfl
@[simp] theorem noteWrite_spm (s : State) (who : Option Nat) (off len : Nat) : (noteWrite s who off len).spm = s.spm := rfl
@[simp] theorem noteWrite_spmBad (s : State) (who : Option Nat) (off len : Nat) : (noteWrite s who off len).spmBad = s.spmBad := rfl
@[simp] theorem noteWrite_spmLost (s : State) (who : Option Nat) (off len : Nat) : (noteWrite s who off len).spmLost = s.spmLost := rfl
@[simp] theorem noteWrite_inject (s : State) (who : Option Nat) (off len : Nat) : (noteWrite s who off len).inject = s.inject := rfl
@[simp] theorem noteWrite_counters (s : State) (who : Option Nat) (off len : Nat) : (noteWrite s who off len).counters = s.counters := rfl
@[simp] theorem noteWrite_cntShadow (s : State) (who : Option Nat) (off len : Nat) : (noteWrite s who off len).cntShadow = s.cntShadow := rfl
@[simp] theorem noteWrite_ord (s : State) (who : Option Nat) (off len : Nat) : (noteWrite s who off len).ord = s.ord := rfl
@[simp] theorem noteWrite_xbr (s : State) (who : Option Nat) (off len : Nat) : (noteWrite s who off len).xbr = s.xbr := rfl
@[simp] theorem noteWrite_refetch (s : State) (who : Option Nat) (off len : Nat) : (noteWrite s who off len).refetch = s.refetch := rfl
@[simp] theorem noteWrite_throughs (s : State) (who : Option Nat) (off len : Nat) : (noteWrite s who off len).throughs = s.throughs := rfl
@[simp] theorem noteWrite_gathers (s : State) (who : Option Nat) (off len : Nat) : (noteWrite s who off len).gathers = s.gathers := rfl
@[simp] theorem noteWrite_power (s : State) (who : Option Nat) (off len : Nat) : (noteWrite s who off len).power = s.power := rfl
@[simp] theorem noteWrite_errors (s : State) (who : Option Nat) (off len : Nat) : (noteWrite s who off len).errors = s.errors := rfl
@[simp] theorem noteWrite_dre (s : State) (who : Option Nat) (off len : Nat) : (noteWrite s who off len).dre = s.dre := rfl
@[simp] theorem noteWrite_voc (s : State) (who : Option Nat) (off len : Nat) : (noteWrite s who off len).voc = s.voc := rfl
@[simp] theorem noteWrite_vocBad (s : State) (who : Option Nat) (off len : Nat) : (noteWrite s who off len).vocBad = s.vocBad := rfl
@[simp] theorem noteWrite_l1 (s : State) (who : Option Nat) (off len : Nat) : (noteWrite s who off len).l1 = s.l1 := rfl
@[simp] theorem noteWrite_cle (s : State) (who : Option Nat) (off len : Nat) : (noteWrite s who off len).cle = s.cle := rfl
@[simp] theorem noteWrite_fep (s : State) (who : Option Nat) (off len : Nat) : (noteWrite s who off len).fep = s.fep := rfl
@[simp] theorem noteWrite_cmp (s : State) (who : Option Nat) (off len : Nat) : (noteWrite s who off len).cmp = s.cmp := rfl
@[simp] theorem noteWrite_mgmt (s : State) (who : Option Nat) (off len : Nat) : (noteWrite s who off len).mgmt = s.mgmt := rfl
@[simp] theorem noteWrite_tap (s : State) (who : Option Nat) (off len : Nat) : (noteWrite s who off len).tap = s.tap := rfl
/-- A write marks the suspended groups whose save areas it meets (R156), and leaves the groups otherwise. -/
@[simp] theorem noteWrite_groups (s : State) (who : Option Nat) (off len : Nat) : (noteWrite s who off len).groups =
    s.groups.map fun g => if g.state == 3 && overlap g.saved.1 g.saved.2 off len then { g with saveWild := true } else g := rfl

@[simp] theorem draw_pending (s : State) (n : Nat) : ((draw s n).2).pending = s.pending := rfl
@[simp] theorem draw_nextId (s : State) (n : Nat) : ((draw s n).2).nextId = s.nextId := rfl
@[simp] theorem draw_readout (s : State) (n : Nat) : ((draw s n).2).readout = s.readout := rfl
@[simp] theorem draw_par (s : State) (n : Nat) : ((draw s n).2).par = s.par := rfl
@[simp] theorem draw_osc (s : State) (n : Nat) : ((draw s n).2).osc = s.osc := rfl
@[simp] theorem draw_oscShadow (s : State) (n : Nat) : ((draw s n).2).oscShadow = s.oscShadow := rfl
@[simp] theorem draw_boot (s : State) (n : Nat) : ((draw s n).2).boot = s.boot := rfl
@[simp] theorem draw_fuses (s : State) (n : Nat) : ((draw s n).2).fuses = s.fuses := rfl
@[simp] theorem draw_fusesSensed (s : State) (n : Nat) : ((draw s n).2).fusesSensed = s.fusesSensed := rfl
@[simp] theorem draw_nor (s : State) (n : Nat) : ((draw s n).2).nor = s.nor := rfl
@[simp] theorem draw_regs (s : State) (n : Nat) : ((draw s n).2).regs = s.regs := rfl
@[simp] theorem draw_cfgBad (s : State) (n : Nat) : ((draw s n).2).cfgBad = s.cfgBad := rfl
@[simp] theorem draw_gens (s : State) (n : Nat) : ((draw s n).2).gens = s.gens := rfl
@[simp] theorem draw_ftab (s : State) (n : Nat) : ((draw s n).2).ftab = s.ftab := rfl
@[simp] theorem draw_trim (s : State) (n : Nat) : ((draw s n).2).trim = s.trim := rfl
@[simp] theorem draw_corr (s : State) (n : Nat) : ((draw s n).2).corr = s.corr := rfl
@[simp] theorem draw_spm (s : State) (n : Nat) : ((draw s n).2).spm = s.spm := rfl
@[simp] theorem draw_spmBad (s : State) (n : Nat) : ((draw s n).2).spmBad = s.spmBad := rfl
@[simp] theorem draw_spmLost (s : State) (n : Nat) : ((draw s n).2).spmLost = s.spmLost := rfl
@[simp] theorem draw_inject (s : State) (n : Nat) : ((draw s n).2).inject = s.inject := rfl
@[simp] theorem draw_counters (s : State) (n : Nat) : ((draw s n).2).counters = s.counters := rfl
@[simp] theorem draw_cntShadow (s : State) (n : Nat) : ((draw s n).2).cntShadow = s.cntShadow := rfl
@[simp] theorem draw_ord (s : State) (n : Nat) : ((draw s n).2).ord = s.ord := rfl
@[simp] theorem draw_xbr (s : State) (n : Nat) : ((draw s n).2).xbr = s.xbr := rfl
@[simp] theorem draw_refetch (s : State) (n : Nat) : ((draw s n).2).refetch = s.refetch := rfl
@[simp] theorem draw_throughs (s : State) (n : Nat) : ((draw s n).2).throughs = s.throughs := rfl
@[simp] theorem draw_gathers (s : State) (n : Nat) : ((draw s n).2).gathers = s.gathers := rfl
@[simp] theorem draw_power (s : State) (n : Nat) : ((draw s n).2).power = s.power := rfl
@[simp] theorem draw_errors (s : State) (n : Nat) : ((draw s n).2).errors = s.errors := rfl
@[simp] theorem draw_dre (s : State) (n : Nat) : ((draw s n).2).dre = s.dre := rfl
@[simp] theorem draw_descs (s : State) (n : Nat) : ((draw s n).2).descs = s.descs := rfl
@[simp] theorem draw_mxe (s : State) (n : Nat) : ((draw s n).2).mxe = s.mxe := rfl
@[simp] theorem draw_voc (s : State) (n : Nat) : ((draw s n).2).voc = s.voc := rfl
@[simp] theorem draw_vocBad (s : State) (n : Nat) : ((draw s n).2).vocBad = s.vocBad := rfl
@[simp] theorem draw_groups (s : State) (n : Nat) : ((draw s n).2).groups = s.groups := rfl
@[simp] theorem draw_l1 (s : State) (n : Nat) : ((draw s n).2).l1 = s.l1 := rfl
@[simp] theorem draw_cle (s : State) (n : Nat) : ((draw s n).2).cle = s.cle := rfl
@[simp] theorem draw_fep (s : State) (n : Nat) : ((draw s n).2).fep = s.fep := rfl
@[simp] theorem draw_cmp (s : State) (n : Nat) : ((draw s n).2).cmp = s.cmp := rfl
@[simp] theorem draw_mgmt (s : State) (n : Nat) : ((draw s n).2).mgmt = s.mgmt := rfl
@[simp] theorem draw_tap (s : State) (n : Nat) : ((draw s n).2).tap = s.tap := rfl

@[simp] theorem newId_pending (s : State) : ((newId s).2).pending = s.pending := rfl
@[simp] theorem newId_freeCtr (s : State) : ((newId s).2).freeCtr = s.freeCtr := rfl
@[simp] theorem newId_readout (s : State) : ((newId s).2).readout = s.readout := rfl
@[simp] theorem newId_par (s : State) : ((newId s).2).par = s.par := rfl
@[simp] theorem newId_osc (s : State) : ((newId s).2).osc = s.osc := rfl
@[simp] theorem newId_oscShadow (s : State) : ((newId s).2).oscShadow = s.oscShadow := rfl
@[simp] theorem newId_boot (s : State) : ((newId s).2).boot = s.boot := rfl
@[simp] theorem newId_fuses (s : State) : ((newId s).2).fuses = s.fuses := rfl
@[simp] theorem newId_fusesSensed (s : State) : ((newId s).2).fusesSensed = s.fusesSensed := rfl
@[simp] theorem newId_nor (s : State) : ((newId s).2).nor = s.nor := rfl
@[simp] theorem newId_regs (s : State) : ((newId s).2).regs = s.regs := rfl
@[simp] theorem newId_cfgBad (s : State) : ((newId s).2).cfgBad = s.cfgBad := rfl
@[simp] theorem newId_gens (s : State) : ((newId s).2).gens = s.gens := rfl
@[simp] theorem newId_ftab (s : State) : ((newId s).2).ftab = s.ftab := rfl
@[simp] theorem newId_trim (s : State) : ((newId s).2).trim = s.trim := rfl
@[simp] theorem newId_corr (s : State) : ((newId s).2).corr = s.corr := rfl
@[simp] theorem newId_spm (s : State) : ((newId s).2).spm = s.spm := rfl
@[simp] theorem newId_spmBad (s : State) : ((newId s).2).spmBad = s.spmBad := rfl
@[simp] theorem newId_spmLost (s : State) : ((newId s).2).spmLost = s.spmLost := rfl
@[simp] theorem newId_inject (s : State) : ((newId s).2).inject = s.inject := rfl
@[simp] theorem newId_counters (s : State) : ((newId s).2).counters = s.counters := rfl
@[simp] theorem newId_cntShadow (s : State) : ((newId s).2).cntShadow = s.cntShadow := rfl
@[simp] theorem newId_ord (s : State) : ((newId s).2).ord = s.ord := rfl
@[simp] theorem newId_xbr (s : State) : ((newId s).2).xbr = s.xbr := rfl
@[simp] theorem newId_refetch (s : State) : ((newId s).2).refetch = s.refetch := rfl
@[simp] theorem newId_throughs (s : State) : ((newId s).2).throughs = s.throughs := rfl
@[simp] theorem newId_gathers (s : State) : ((newId s).2).gathers = s.gathers := rfl
@[simp] theorem newId_power (s : State) : ((newId s).2).power = s.power := rfl
@[simp] theorem newId_errors (s : State) : ((newId s).2).errors = s.errors := rfl
@[simp] theorem newId_dre (s : State) : ((newId s).2).dre = s.dre := rfl
@[simp] theorem newId_descs (s : State) : ((newId s).2).descs = s.descs := rfl
@[simp] theorem newId_mxe (s : State) : ((newId s).2).mxe = s.mxe := rfl
@[simp] theorem newId_voc (s : State) : ((newId s).2).voc = s.voc := rfl
@[simp] theorem newId_vocBad (s : State) : ((newId s).2).vocBad = s.vocBad := rfl
@[simp] theorem newId_groups (s : State) : ((newId s).2).groups = s.groups := rfl
@[simp] theorem newId_l1 (s : State) : ((newId s).2).l1 = s.l1 := rfl
@[simp] theorem newId_cle (s : State) : ((newId s).2).cle = s.cle := rfl
@[simp] theorem newId_fep (s : State) : ((newId s).2).fep = s.fep := rfl
@[simp] theorem newId_cmp (s : State) : ((newId s).2).cmp = s.cmp := rfl
@[simp] theorem newId_mgmt (s : State) : ((newId s).2).mgmt = s.mgmt := rfl
@[simp] theorem newId_tap (s : State) : ((newId s).2).tap = s.tap := rfl

@[simp] theorem norStore_pending (s : State) (a : Nat) (bs : List Byte) : (norStore s a bs).pending = s.pending := rfl
@[simp] theorem norStore_freeCtr (s : State) (a : Nat) (bs : List Byte) : (norStore s a bs).freeCtr = s.freeCtr := rfl
@[simp] theorem norStore_nextId (s : State) (a : Nat) (bs : List Byte) : (norStore s a bs).nextId = s.nextId := rfl
@[simp] theorem norStore_readout (s : State) (a : Nat) (bs : List Byte) : (norStore s a bs).readout = s.readout := rfl
@[simp] theorem norStore_par (s : State) (a : Nat) (bs : List Byte) : (norStore s a bs).par = s.par := rfl
@[simp] theorem norStore_osc (s : State) (a : Nat) (bs : List Byte) : (norStore s a bs).osc = s.osc := rfl
@[simp] theorem norStore_oscShadow (s : State) (a : Nat) (bs : List Byte) : (norStore s a bs).oscShadow = s.oscShadow := rfl
@[simp] theorem norStore_boot (s : State) (a : Nat) (bs : List Byte) : (norStore s a bs).boot = s.boot := rfl
@[simp] theorem norStore_fuses (s : State) (a : Nat) (bs : List Byte) : (norStore s a bs).fuses = s.fuses := rfl
@[simp] theorem norStore_fusesSensed (s : State) (a : Nat) (bs : List Byte) : (norStore s a bs).fusesSensed = s.fusesSensed := rfl
@[simp] theorem norStore_regs (s : State) (a : Nat) (bs : List Byte) : (norStore s a bs).regs = s.regs := rfl
@[simp] theorem norStore_cfgBad (s : State) (a : Nat) (bs : List Byte) : (norStore s a bs).cfgBad = s.cfgBad := rfl
@[simp] theorem norStore_gens (s : State) (a : Nat) (bs : List Byte) : (norStore s a bs).gens = s.gens := rfl
@[simp] theorem norStore_ftab (s : State) (a : Nat) (bs : List Byte) : (norStore s a bs).ftab = s.ftab := rfl
@[simp] theorem norStore_trim (s : State) (a : Nat) (bs : List Byte) : (norStore s a bs).trim = s.trim := rfl
@[simp] theorem norStore_corr (s : State) (a : Nat) (bs : List Byte) : (norStore s a bs).corr = s.corr := rfl
@[simp] theorem norStore_spm (s : State) (a : Nat) (bs : List Byte) : (norStore s a bs).spm = s.spm := rfl
@[simp] theorem norStore_spmBad (s : State) (a : Nat) (bs : List Byte) : (norStore s a bs).spmBad = s.spmBad := rfl
@[simp] theorem norStore_spmLost (s : State) (a : Nat) (bs : List Byte) : (norStore s a bs).spmLost = s.spmLost := rfl
@[simp] theorem norStore_inject (s : State) (a : Nat) (bs : List Byte) : (norStore s a bs).inject = s.inject := rfl
@[simp] theorem norStore_counters (s : State) (a : Nat) (bs : List Byte) : (norStore s a bs).counters = s.counters := rfl
@[simp] theorem norStore_cntShadow (s : State) (a : Nat) (bs : List Byte) : (norStore s a bs).cntShadow = s.cntShadow := rfl
@[simp] theorem norStore_ord (s : State) (a : Nat) (bs : List Byte) : (norStore s a bs).ord = s.ord := rfl
@[simp] theorem norStore_xbr (s : State) (a : Nat) (bs : List Byte) : (norStore s a bs).xbr = s.xbr := rfl
@[simp] theorem norStore_refetch (s : State) (a : Nat) (bs : List Byte) : (norStore s a bs).refetch = s.refetch := rfl
@[simp] theorem norStore_throughs (s : State) (a : Nat) (bs : List Byte) : (norStore s a bs).throughs = s.throughs := rfl
@[simp] theorem norStore_gathers (s : State) (a : Nat) (bs : List Byte) : (norStore s a bs).gathers = s.gathers := rfl
@[simp] theorem norStore_power (s : State) (a : Nat) (bs : List Byte) : (norStore s a bs).power = s.power := rfl
@[simp] theorem norStore_errors (s : State) (a : Nat) (bs : List Byte) : (norStore s a bs).errors = s.errors := rfl
@[simp] theorem norStore_dre (s : State) (a : Nat) (bs : List Byte) : (norStore s a bs).dre = s.dre := rfl
@[simp] theorem norStore_descs (s : State) (a : Nat) (bs : List Byte) : (norStore s a bs).descs = s.descs := rfl
@[simp] theorem norStore_mxe (s : State) (a : Nat) (bs : List Byte) : (norStore s a bs).mxe = s.mxe := rfl
@[simp] theorem norStore_voc (s : State) (a : Nat) (bs : List Byte) : (norStore s a bs).voc = s.voc := rfl
@[simp] theorem norStore_vocBad (s : State) (a : Nat) (bs : List Byte) : (norStore s a bs).vocBad = s.vocBad := rfl
@[simp] theorem norStore_groups (s : State) (a : Nat) (bs : List Byte) : (norStore s a bs).groups = s.groups := rfl
@[simp] theorem norStore_l1 (s : State) (a : Nat) (bs : List Byte) : (norStore s a bs).l1 = s.l1 := rfl
@[simp] theorem norStore_cle (s : State) (a : Nat) (bs : List Byte) : (norStore s a bs).cle = s.cle := rfl
@[simp] theorem norStore_fep (s : State) (a : Nat) (bs : List Byte) : (norStore s a bs).fep = s.fep := rfl
@[simp] theorem norStore_cmp (s : State) (a : Nat) (bs : List Byte) : (norStore s a bs).cmp = s.cmp := rfl
@[simp] theorem norStore_mgmt (s : State) (a : Nat) (bs : List Byte) : (norStore s a bs).mgmt = s.mgmt := rfl
@[simp] theorem norStore_tap (s : State) (a : Nat) (bs : List Byte) : (norStore s a bs).tap = s.tap := rfl

@[simp] theorem gatherDrop_pending (s : State) (o : Nat) : (gatherDrop s o).pending = s.pending := rfl
@[simp] theorem gatherDrop_freeCtr (s : State) (o : Nat) : (gatherDrop s o).freeCtr = s.freeCtr := rfl
@[simp] theorem gatherDrop_nextId (s : State) (o : Nat) : (gatherDrop s o).nextId = s.nextId := rfl
@[simp] theorem gatherDrop_readout (s : State) (o : Nat) : (gatherDrop s o).readout = s.readout := rfl
@[simp] theorem gatherDrop_par (s : State) (o : Nat) : (gatherDrop s o).par = s.par := rfl
@[simp] theorem gatherDrop_osc (s : State) (o : Nat) : (gatherDrop s o).osc = s.osc := rfl
@[simp] theorem gatherDrop_oscShadow (s : State) (o : Nat) : (gatherDrop s o).oscShadow = s.oscShadow := rfl
@[simp] theorem gatherDrop_boot (s : State) (o : Nat) : (gatherDrop s o).boot = s.boot := rfl
@[simp] theorem gatherDrop_fuses (s : State) (o : Nat) : (gatherDrop s o).fuses = s.fuses := rfl
@[simp] theorem gatherDrop_fusesSensed (s : State) (o : Nat) : (gatherDrop s o).fusesSensed = s.fusesSensed := rfl
@[simp] theorem gatherDrop_nor (s : State) (o : Nat) : (gatherDrop s o).nor = s.nor := rfl
@[simp] theorem gatherDrop_regs (s : State) (o : Nat) : (gatherDrop s o).regs = s.regs := rfl
@[simp] theorem gatherDrop_cfgBad (s : State) (o : Nat) : (gatherDrop s o).cfgBad = s.cfgBad := rfl
@[simp] theorem gatherDrop_gens (s : State) (o : Nat) : (gatherDrop s o).gens = s.gens := rfl
@[simp] theorem gatherDrop_ftab (s : State) (o : Nat) : (gatherDrop s o).ftab = s.ftab := rfl
@[simp] theorem gatherDrop_trim (s : State) (o : Nat) : (gatherDrop s o).trim = s.trim := rfl
@[simp] theorem gatherDrop_corr (s : State) (o : Nat) : (gatherDrop s o).corr = s.corr := rfl
@[simp] theorem gatherDrop_spm (s : State) (o : Nat) : (gatherDrop s o).spm = s.spm := rfl
@[simp] theorem gatherDrop_spmBad (s : State) (o : Nat) : (gatherDrop s o).spmBad = s.spmBad := rfl
@[simp] theorem gatherDrop_spmLost (s : State) (o : Nat) : (gatherDrop s o).spmLost = s.spmLost := rfl
@[simp] theorem gatherDrop_inject (s : State) (o : Nat) : (gatherDrop s o).inject = s.inject := rfl
@[simp] theorem gatherDrop_counters (s : State) (o : Nat) : (gatherDrop s o).counters = s.counters := rfl
@[simp] theorem gatherDrop_cntShadow (s : State) (o : Nat) : (gatherDrop s o).cntShadow = s.cntShadow := rfl
@[simp] theorem gatherDrop_ord (s : State) (o : Nat) : (gatherDrop s o).ord = s.ord := rfl
@[simp] theorem gatherDrop_xbr (s : State) (o : Nat) : (gatherDrop s o).xbr = s.xbr := rfl
@[simp] theorem gatherDrop_refetch (s : State) (o : Nat) : (gatherDrop s o).refetch = s.refetch := rfl
@[simp] theorem gatherDrop_throughs (s : State) (o : Nat) : (gatherDrop s o).throughs = s.throughs := rfl
@[simp] theorem gatherDrop_power (s : State) (o : Nat) : (gatherDrop s o).power = s.power := rfl
@[simp] theorem gatherDrop_errors (s : State) (o : Nat) : (gatherDrop s o).errors = s.errors := rfl
@[simp] theorem gatherDrop_dre (s : State) (o : Nat) : (gatherDrop s o).dre = s.dre := rfl
@[simp] theorem gatherDrop_descs (s : State) (o : Nat) : (gatherDrop s o).descs = s.descs := rfl
@[simp] theorem gatherDrop_mxe (s : State) (o : Nat) : (gatherDrop s o).mxe = s.mxe := rfl
@[simp] theorem gatherDrop_voc (s : State) (o : Nat) : (gatherDrop s o).voc = s.voc := rfl
@[simp] theorem gatherDrop_vocBad (s : State) (o : Nat) : (gatherDrop s o).vocBad = s.vocBad := rfl
@[simp] theorem gatherDrop_groups (s : State) (o : Nat) : (gatherDrop s o).groups = s.groups := rfl
@[simp] theorem gatherDrop_l1 (s : State) (o : Nat) : (gatherDrop s o).l1 = s.l1 := rfl
@[simp] theorem gatherDrop_cle (s : State) (o : Nat) : (gatherDrop s o).cle = s.cle := rfl
@[simp] theorem gatherDrop_fep (s : State) (o : Nat) : (gatherDrop s o).fep = s.fep := rfl
@[simp] theorem gatherDrop_cmp (s : State) (o : Nat) : (gatherDrop s o).cmp = s.cmp := rfl
@[simp] theorem gatherDrop_mgmt (s : State) (o : Nat) : (gatherDrop s o).mgmt = s.mgmt := rfl
@[simp] theorem gatherDrop_tap (s : State) (o : Nat) : (gatherDrop s o).tap = s.tap := rfl

@[simp] theorem mxUpd_pending (s : State) (d : Nat) (f : MxRun → MxRun) : (mxUpd s d f).pending = s.pending := rfl
@[simp] theorem mxUpd_freeCtr (s : State) (d : Nat) (f : MxRun → MxRun) : (mxUpd s d f).freeCtr = s.freeCtr := rfl
@[simp] theorem mxUpd_nextId (s : State) (d : Nat) (f : MxRun → MxRun) : (mxUpd s d f).nextId = s.nextId := rfl
@[simp] theorem mxUpd_readout (s : State) (d : Nat) (f : MxRun → MxRun) : (mxUpd s d f).readout = s.readout := rfl
@[simp] theorem mxUpd_par (s : State) (d : Nat) (f : MxRun → MxRun) : (mxUpd s d f).par = s.par := rfl
@[simp] theorem mxUpd_osc (s : State) (d : Nat) (f : MxRun → MxRun) : (mxUpd s d f).osc = s.osc := rfl
@[simp] theorem mxUpd_oscShadow (s : State) (d : Nat) (f : MxRun → MxRun) : (mxUpd s d f).oscShadow = s.oscShadow := rfl
@[simp] theorem mxUpd_boot (s : State) (d : Nat) (f : MxRun → MxRun) : (mxUpd s d f).boot = s.boot := rfl
@[simp] theorem mxUpd_fuses (s : State) (d : Nat) (f : MxRun → MxRun) : (mxUpd s d f).fuses = s.fuses := rfl
@[simp] theorem mxUpd_fusesSensed (s : State) (d : Nat) (f : MxRun → MxRun) : (mxUpd s d f).fusesSensed = s.fusesSensed := rfl
@[simp] theorem mxUpd_nor (s : State) (d : Nat) (f : MxRun → MxRun) : (mxUpd s d f).nor = s.nor := rfl
@[simp] theorem mxUpd_regs (s : State) (d : Nat) (f : MxRun → MxRun) : (mxUpd s d f).regs = s.regs := rfl
@[simp] theorem mxUpd_cfgBad (s : State) (d : Nat) (f : MxRun → MxRun) : (mxUpd s d f).cfgBad = s.cfgBad := rfl
@[simp] theorem mxUpd_gens (s : State) (d : Nat) (f : MxRun → MxRun) : (mxUpd s d f).gens = s.gens := rfl
@[simp] theorem mxUpd_ftab (s : State) (d : Nat) (f : MxRun → MxRun) : (mxUpd s d f).ftab = s.ftab := rfl
@[simp] theorem mxUpd_trim (s : State) (d : Nat) (f : MxRun → MxRun) : (mxUpd s d f).trim = s.trim := rfl
@[simp] theorem mxUpd_corr (s : State) (d : Nat) (f : MxRun → MxRun) : (mxUpd s d f).corr = s.corr := rfl
@[simp] theorem mxUpd_spm (s : State) (d : Nat) (f : MxRun → MxRun) : (mxUpd s d f).spm = s.spm := rfl
@[simp] theorem mxUpd_spmBad (s : State) (d : Nat) (f : MxRun → MxRun) : (mxUpd s d f).spmBad = s.spmBad := rfl
@[simp] theorem mxUpd_spmLost (s : State) (d : Nat) (f : MxRun → MxRun) : (mxUpd s d f).spmLost = s.spmLost := rfl
@[simp] theorem mxUpd_inject (s : State) (d : Nat) (f : MxRun → MxRun) : (mxUpd s d f).inject = s.inject := rfl
@[simp] theorem mxUpd_counters (s : State) (d : Nat) (f : MxRun → MxRun) : (mxUpd s d f).counters = s.counters := rfl
@[simp] theorem mxUpd_cntShadow (s : State) (d : Nat) (f : MxRun → MxRun) : (mxUpd s d f).cntShadow = s.cntShadow := rfl
@[simp] theorem mxUpd_ord (s : State) (d : Nat) (f : MxRun → MxRun) : (mxUpd s d f).ord = s.ord := rfl
@[simp] theorem mxUpd_xbr (s : State) (d : Nat) (f : MxRun → MxRun) : (mxUpd s d f).xbr = s.xbr := rfl
@[simp] theorem mxUpd_refetch (s : State) (d : Nat) (f : MxRun → MxRun) : (mxUpd s d f).refetch = s.refetch := rfl
@[simp] theorem mxUpd_throughs (s : State) (d : Nat) (f : MxRun → MxRun) : (mxUpd s d f).throughs = s.throughs := rfl
@[simp] theorem mxUpd_gathers (s : State) (d : Nat) (f : MxRun → MxRun) : (mxUpd s d f).gathers = s.gathers := rfl
@[simp] theorem mxUpd_power (s : State) (d : Nat) (f : MxRun → MxRun) : (mxUpd s d f).power = s.power := rfl
@[simp] theorem mxUpd_errors (s : State) (d : Nat) (f : MxRun → MxRun) : (mxUpd s d f).errors = s.errors := rfl
@[simp] theorem mxUpd_dre (s : State) (d : Nat) (f : MxRun → MxRun) : (mxUpd s d f).dre = s.dre := rfl
@[simp] theorem mxUpd_mxe (s : State) (d : Nat) (f : MxRun → MxRun) : (mxUpd s d f).mxe = s.mxe := rfl
@[simp] theorem mxUpd_voc (s : State) (d : Nat) (f : MxRun → MxRun) : (mxUpd s d f).voc = s.voc := rfl
@[simp] theorem mxUpd_vocBad (s : State) (d : Nat) (f : MxRun → MxRun) : (mxUpd s d f).vocBad = s.vocBad := rfl
@[simp] theorem mxUpd_groups (s : State) (d : Nat) (f : MxRun → MxRun) : (mxUpd s d f).groups = s.groups := rfl
@[simp] theorem mxUpd_l1 (s : State) (d : Nat) (f : MxRun → MxRun) : (mxUpd s d f).l1 = s.l1 := rfl
@[simp] theorem mxUpd_cle (s : State) (d : Nat) (f : MxRun → MxRun) : (mxUpd s d f).cle = s.cle := rfl
@[simp] theorem mxUpd_fep (s : State) (d : Nat) (f : MxRun → MxRun) : (mxUpd s d f).fep = s.fep := rfl
@[simp] theorem mxUpd_cmp (s : State) (d : Nat) (f : MxRun → MxRun) : (mxUpd s d f).cmp = s.cmp := rfl
@[simp] theorem mxUpd_mgmt (s : State) (d : Nat) (f : MxRun → MxRun) : (mxUpd s d f).mgmt = s.mgmt := rfl
@[simp] theorem mxUpd_tap (s : State) (d : Nat) (f : MxRun → MxRun) : (mxUpd s d f).tap = s.tap := rfl

@[simp] theorem vxUpd_pending (s : State) (d : Nat) (f : VxRun → VxRun) : (vxUpd s d f).pending = s.pending := rfl
@[simp] theorem vxUpd_freeCtr (s : State) (d : Nat) (f : VxRun → VxRun) : (vxUpd s d f).freeCtr = s.freeCtr := rfl
@[simp] theorem vxUpd_nextId (s : State) (d : Nat) (f : VxRun → VxRun) : (vxUpd s d f).nextId = s.nextId := rfl
@[simp] theorem vxUpd_readout (s : State) (d : Nat) (f : VxRun → VxRun) : (vxUpd s d f).readout = s.readout := rfl
@[simp] theorem vxUpd_par (s : State) (d : Nat) (f : VxRun → VxRun) : (vxUpd s d f).par = s.par := rfl
@[simp] theorem vxUpd_osc (s : State) (d : Nat) (f : VxRun → VxRun) : (vxUpd s d f).osc = s.osc := rfl
@[simp] theorem vxUpd_oscShadow (s : State) (d : Nat) (f : VxRun → VxRun) : (vxUpd s d f).oscShadow = s.oscShadow := rfl
@[simp] theorem vxUpd_boot (s : State) (d : Nat) (f : VxRun → VxRun) : (vxUpd s d f).boot = s.boot := rfl
@[simp] theorem vxUpd_fuses (s : State) (d : Nat) (f : VxRun → VxRun) : (vxUpd s d f).fuses = s.fuses := rfl
@[simp] theorem vxUpd_fusesSensed (s : State) (d : Nat) (f : VxRun → VxRun) : (vxUpd s d f).fusesSensed = s.fusesSensed := rfl
@[simp] theorem vxUpd_nor (s : State) (d : Nat) (f : VxRun → VxRun) : (vxUpd s d f).nor = s.nor := rfl
@[simp] theorem vxUpd_regs (s : State) (d : Nat) (f : VxRun → VxRun) : (vxUpd s d f).regs = s.regs := rfl
@[simp] theorem vxUpd_cfgBad (s : State) (d : Nat) (f : VxRun → VxRun) : (vxUpd s d f).cfgBad = s.cfgBad := rfl
@[simp] theorem vxUpd_gens (s : State) (d : Nat) (f : VxRun → VxRun) : (vxUpd s d f).gens = s.gens := rfl
@[simp] theorem vxUpd_ftab (s : State) (d : Nat) (f : VxRun → VxRun) : (vxUpd s d f).ftab = s.ftab := rfl
@[simp] theorem vxUpd_trim (s : State) (d : Nat) (f : VxRun → VxRun) : (vxUpd s d f).trim = s.trim := rfl
@[simp] theorem vxUpd_corr (s : State) (d : Nat) (f : VxRun → VxRun) : (vxUpd s d f).corr = s.corr := rfl
@[simp] theorem vxUpd_spm (s : State) (d : Nat) (f : VxRun → VxRun) : (vxUpd s d f).spm = s.spm := rfl
@[simp] theorem vxUpd_spmBad (s : State) (d : Nat) (f : VxRun → VxRun) : (vxUpd s d f).spmBad = s.spmBad := rfl
@[simp] theorem vxUpd_spmLost (s : State) (d : Nat) (f : VxRun → VxRun) : (vxUpd s d f).spmLost = s.spmLost := rfl
@[simp] theorem vxUpd_inject (s : State) (d : Nat) (f : VxRun → VxRun) : (vxUpd s d f).inject = s.inject := rfl
@[simp] theorem vxUpd_counters (s : State) (d : Nat) (f : VxRun → VxRun) : (vxUpd s d f).counters = s.counters := rfl
@[simp] theorem vxUpd_cntShadow (s : State) (d : Nat) (f : VxRun → VxRun) : (vxUpd s d f).cntShadow = s.cntShadow := rfl
@[simp] theorem vxUpd_ord (s : State) (d : Nat) (f : VxRun → VxRun) : (vxUpd s d f).ord = s.ord := rfl
@[simp] theorem vxUpd_xbr (s : State) (d : Nat) (f : VxRun → VxRun) : (vxUpd s d f).xbr = s.xbr := rfl
@[simp] theorem vxUpd_refetch (s : State) (d : Nat) (f : VxRun → VxRun) : (vxUpd s d f).refetch = s.refetch := rfl
@[simp] theorem vxUpd_throughs (s : State) (d : Nat) (f : VxRun → VxRun) : (vxUpd s d f).throughs = s.throughs := rfl
@[simp] theorem vxUpd_gathers (s : State) (d : Nat) (f : VxRun → VxRun) : (vxUpd s d f).gathers = s.gathers := rfl
@[simp] theorem vxUpd_power (s : State) (d : Nat) (f : VxRun → VxRun) : (vxUpd s d f).power = s.power := rfl
@[simp] theorem vxUpd_errors (s : State) (d : Nat) (f : VxRun → VxRun) : (vxUpd s d f).errors = s.errors := rfl
@[simp] theorem vxUpd_dre (s : State) (d : Nat) (f : VxRun → VxRun) : (vxUpd s d f).dre = s.dre := rfl
@[simp] theorem vxUpd_mxe (s : State) (d : Nat) (f : VxRun → VxRun) : (vxUpd s d f).mxe = s.mxe := rfl
@[simp] theorem vxUpd_voc (s : State) (d : Nat) (f : VxRun → VxRun) : (vxUpd s d f).voc = s.voc := rfl
@[simp] theorem vxUpd_vocBad (s : State) (d : Nat) (f : VxRun → VxRun) : (vxUpd s d f).vocBad = s.vocBad := rfl
@[simp] theorem vxUpd_groups (s : State) (d : Nat) (f : VxRun → VxRun) : (vxUpd s d f).groups = s.groups := rfl
@[simp] theorem vxUpd_l1 (s : State) (d : Nat) (f : VxRun → VxRun) : (vxUpd s d f).l1 = s.l1 := rfl
@[simp] theorem vxUpd_cle (s : State) (d : Nat) (f : VxRun → VxRun) : (vxUpd s d f).cle = s.cle := rfl
@[simp] theorem vxUpd_fep (s : State) (d : Nat) (f : VxRun → VxRun) : (vxUpd s d f).fep = s.fep := rfl
@[simp] theorem vxUpd_cmp (s : State) (d : Nat) (f : VxRun → VxRun) : (vxUpd s d f).cmp = s.cmp := rfl
@[simp] theorem vxUpd_mgmt (s : State) (d : Nat) (f : VxRun → VxRun) : (vxUpd s d f).mgmt = s.mgmt := rfl
@[simp] theorem vxUpd_tap (s : State) (d : Nat) (f : VxRun → VxRun) : (vxUpd s d f).tap = s.tap := rfl

@[simp] theorem mvUpd_pending (s : State) (d : Nat) (f : MvRun → MvRun) : (mvUpd s d f).pending = s.pending := rfl
@[simp] theorem mvUpd_freeCtr (s : State) (d : Nat) (f : MvRun → MvRun) : (mvUpd s d f).freeCtr = s.freeCtr := rfl
@[simp] theorem mvUpd_nextId (s : State) (d : Nat) (f : MvRun → MvRun) : (mvUpd s d f).nextId = s.nextId := rfl
@[simp] theorem mvUpd_readout (s : State) (d : Nat) (f : MvRun → MvRun) : (mvUpd s d f).readout = s.readout := rfl
@[simp] theorem mvUpd_par (s : State) (d : Nat) (f : MvRun → MvRun) : (mvUpd s d f).par = s.par := rfl
@[simp] theorem mvUpd_osc (s : State) (d : Nat) (f : MvRun → MvRun) : (mvUpd s d f).osc = s.osc := rfl
@[simp] theorem mvUpd_oscShadow (s : State) (d : Nat) (f : MvRun → MvRun) : (mvUpd s d f).oscShadow = s.oscShadow := rfl
@[simp] theorem mvUpd_boot (s : State) (d : Nat) (f : MvRun → MvRun) : (mvUpd s d f).boot = s.boot := rfl
@[simp] theorem mvUpd_fuses (s : State) (d : Nat) (f : MvRun → MvRun) : (mvUpd s d f).fuses = s.fuses := rfl
@[simp] theorem mvUpd_fusesSensed (s : State) (d : Nat) (f : MvRun → MvRun) : (mvUpd s d f).fusesSensed = s.fusesSensed := rfl
@[simp] theorem mvUpd_nor (s : State) (d : Nat) (f : MvRun → MvRun) : (mvUpd s d f).nor = s.nor := rfl
@[simp] theorem mvUpd_regs (s : State) (d : Nat) (f : MvRun → MvRun) : (mvUpd s d f).regs = s.regs := rfl
@[simp] theorem mvUpd_cfgBad (s : State) (d : Nat) (f : MvRun → MvRun) : (mvUpd s d f).cfgBad = s.cfgBad := rfl
@[simp] theorem mvUpd_gens (s : State) (d : Nat) (f : MvRun → MvRun) : (mvUpd s d f).gens = s.gens := rfl
@[simp] theorem mvUpd_ftab (s : State) (d : Nat) (f : MvRun → MvRun) : (mvUpd s d f).ftab = s.ftab := rfl
@[simp] theorem mvUpd_trim (s : State) (d : Nat) (f : MvRun → MvRun) : (mvUpd s d f).trim = s.trim := rfl
@[simp] theorem mvUpd_corr (s : State) (d : Nat) (f : MvRun → MvRun) : (mvUpd s d f).corr = s.corr := rfl
@[simp] theorem mvUpd_spm (s : State) (d : Nat) (f : MvRun → MvRun) : (mvUpd s d f).spm = s.spm := rfl
@[simp] theorem mvUpd_spmBad (s : State) (d : Nat) (f : MvRun → MvRun) : (mvUpd s d f).spmBad = s.spmBad := rfl
@[simp] theorem mvUpd_spmLost (s : State) (d : Nat) (f : MvRun → MvRun) : (mvUpd s d f).spmLost = s.spmLost := rfl
@[simp] theorem mvUpd_inject (s : State) (d : Nat) (f : MvRun → MvRun) : (mvUpd s d f).inject = s.inject := rfl
@[simp] theorem mvUpd_counters (s : State) (d : Nat) (f : MvRun → MvRun) : (mvUpd s d f).counters = s.counters := rfl
@[simp] theorem mvUpd_cntShadow (s : State) (d : Nat) (f : MvRun → MvRun) : (mvUpd s d f).cntShadow = s.cntShadow := rfl
@[simp] theorem mvUpd_ord (s : State) (d : Nat) (f : MvRun → MvRun) : (mvUpd s d f).ord = s.ord := rfl
@[simp] theorem mvUpd_xbr (s : State) (d : Nat) (f : MvRun → MvRun) : (mvUpd s d f).xbr = s.xbr := rfl
@[simp] theorem mvUpd_refetch (s : State) (d : Nat) (f : MvRun → MvRun) : (mvUpd s d f).refetch = s.refetch := rfl
@[simp] theorem mvUpd_throughs (s : State) (d : Nat) (f : MvRun → MvRun) : (mvUpd s d f).throughs = s.throughs := rfl
@[simp] theorem mvUpd_gathers (s : State) (d : Nat) (f : MvRun → MvRun) : (mvUpd s d f).gathers = s.gathers := rfl
@[simp] theorem mvUpd_power (s : State) (d : Nat) (f : MvRun → MvRun) : (mvUpd s d f).power = s.power := rfl
@[simp] theorem mvUpd_errors (s : State) (d : Nat) (f : MvRun → MvRun) : (mvUpd s d f).errors = s.errors := rfl
@[simp] theorem mvUpd_dre (s : State) (d : Nat) (f : MvRun → MvRun) : (mvUpd s d f).dre = s.dre := rfl
@[simp] theorem mvUpd_mxe (s : State) (d : Nat) (f : MvRun → MvRun) : (mvUpd s d f).mxe = s.mxe := rfl
@[simp] theorem mvUpd_voc (s : State) (d : Nat) (f : MvRun → MvRun) : (mvUpd s d f).voc = s.voc := rfl
@[simp] theorem mvUpd_vocBad (s : State) (d : Nat) (f : MvRun → MvRun) : (mvUpd s d f).vocBad = s.vocBad := rfl
@[simp] theorem mvUpd_groups (s : State) (d : Nat) (f : MvRun → MvRun) : (mvUpd s d f).groups = s.groups := rfl
@[simp] theorem mvUpd_l1 (s : State) (d : Nat) (f : MvRun → MvRun) : (mvUpd s d f).l1 = s.l1 := rfl
@[simp] theorem mvUpd_cle (s : State) (d : Nat) (f : MvRun → MvRun) : (mvUpd s d f).cle = s.cle := rfl
@[simp] theorem mvUpd_fep (s : State) (d : Nat) (f : MvRun → MvRun) : (mvUpd s d f).fep = s.fep := rfl
@[simp] theorem mvUpd_cmp (s : State) (d : Nat) (f : MvRun → MvRun) : (mvUpd s d f).cmp = s.cmp := rfl
@[simp] theorem mvUpd_mgmt (s : State) (d : Nat) (f : MvRun → MvRun) : (mvUpd s d f).mgmt = s.mgmt := rfl
@[simp] theorem mvUpd_tap (s : State) (d : Nat) (f : MvRun → MvRun) : (mvUpd s d f).tap = s.tap := rfl

@[simp] theorem clUpd_pending (s : State) (d : Nat) (f : ClRun → ClRun) : (clUpd s d f).pending = s.pending := rfl
@[simp] theorem clUpd_freeCtr (s : State) (d : Nat) (f : ClRun → ClRun) : (clUpd s d f).freeCtr = s.freeCtr := rfl
@[simp] theorem clUpd_nextId (s : State) (d : Nat) (f : ClRun → ClRun) : (clUpd s d f).nextId = s.nextId := rfl
@[simp] theorem clUpd_readout (s : State) (d : Nat) (f : ClRun → ClRun) : (clUpd s d f).readout = s.readout := rfl
@[simp] theorem clUpd_par (s : State) (d : Nat) (f : ClRun → ClRun) : (clUpd s d f).par = s.par := rfl
@[simp] theorem clUpd_osc (s : State) (d : Nat) (f : ClRun → ClRun) : (clUpd s d f).osc = s.osc := rfl
@[simp] theorem clUpd_oscShadow (s : State) (d : Nat) (f : ClRun → ClRun) : (clUpd s d f).oscShadow = s.oscShadow := rfl
@[simp] theorem clUpd_boot (s : State) (d : Nat) (f : ClRun → ClRun) : (clUpd s d f).boot = s.boot := rfl
@[simp] theorem clUpd_fuses (s : State) (d : Nat) (f : ClRun → ClRun) : (clUpd s d f).fuses = s.fuses := rfl
@[simp] theorem clUpd_fusesSensed (s : State) (d : Nat) (f : ClRun → ClRun) : (clUpd s d f).fusesSensed = s.fusesSensed := rfl
@[simp] theorem clUpd_nor (s : State) (d : Nat) (f : ClRun → ClRun) : (clUpd s d f).nor = s.nor := rfl
@[simp] theorem clUpd_regs (s : State) (d : Nat) (f : ClRun → ClRun) : (clUpd s d f).regs = s.regs := rfl
@[simp] theorem clUpd_cfgBad (s : State) (d : Nat) (f : ClRun → ClRun) : (clUpd s d f).cfgBad = s.cfgBad := rfl
@[simp] theorem clUpd_gens (s : State) (d : Nat) (f : ClRun → ClRun) : (clUpd s d f).gens = s.gens := rfl
@[simp] theorem clUpd_ftab (s : State) (d : Nat) (f : ClRun → ClRun) : (clUpd s d f).ftab = s.ftab := rfl
@[simp] theorem clUpd_trim (s : State) (d : Nat) (f : ClRun → ClRun) : (clUpd s d f).trim = s.trim := rfl
@[simp] theorem clUpd_corr (s : State) (d : Nat) (f : ClRun → ClRun) : (clUpd s d f).corr = s.corr := rfl
@[simp] theorem clUpd_spm (s : State) (d : Nat) (f : ClRun → ClRun) : (clUpd s d f).spm = s.spm := rfl
@[simp] theorem clUpd_spmBad (s : State) (d : Nat) (f : ClRun → ClRun) : (clUpd s d f).spmBad = s.spmBad := rfl
@[simp] theorem clUpd_spmLost (s : State) (d : Nat) (f : ClRun → ClRun) : (clUpd s d f).spmLost = s.spmLost := rfl
@[simp] theorem clUpd_inject (s : State) (d : Nat) (f : ClRun → ClRun) : (clUpd s d f).inject = s.inject := rfl
@[simp] theorem clUpd_counters (s : State) (d : Nat) (f : ClRun → ClRun) : (clUpd s d f).counters = s.counters := rfl
@[simp] theorem clUpd_cntShadow (s : State) (d : Nat) (f : ClRun → ClRun) : (clUpd s d f).cntShadow = s.cntShadow := rfl
@[simp] theorem clUpd_ord (s : State) (d : Nat) (f : ClRun → ClRun) : (clUpd s d f).ord = s.ord := rfl
@[simp] theorem clUpd_xbr (s : State) (d : Nat) (f : ClRun → ClRun) : (clUpd s d f).xbr = s.xbr := rfl
@[simp] theorem clUpd_refetch (s : State) (d : Nat) (f : ClRun → ClRun) : (clUpd s d f).refetch = s.refetch := rfl
@[simp] theorem clUpd_throughs (s : State) (d : Nat) (f : ClRun → ClRun) : (clUpd s d f).throughs = s.throughs := rfl
@[simp] theorem clUpd_gathers (s : State) (d : Nat) (f : ClRun → ClRun) : (clUpd s d f).gathers = s.gathers := rfl
@[simp] theorem clUpd_power (s : State) (d : Nat) (f : ClRun → ClRun) : (clUpd s d f).power = s.power := rfl
@[simp] theorem clUpd_errors (s : State) (d : Nat) (f : ClRun → ClRun) : (clUpd s d f).errors = s.errors := rfl
@[simp] theorem clUpd_dre (s : State) (d : Nat) (f : ClRun → ClRun) : (clUpd s d f).dre = s.dre := rfl
@[simp] theorem clUpd_mxe (s : State) (d : Nat) (f : ClRun → ClRun) : (clUpd s d f).mxe = s.mxe := rfl
@[simp] theorem clUpd_voc (s : State) (d : Nat) (f : ClRun → ClRun) : (clUpd s d f).voc = s.voc := rfl
@[simp] theorem clUpd_vocBad (s : State) (d : Nat) (f : ClRun → ClRun) : (clUpd s d f).vocBad = s.vocBad := rfl
@[simp] theorem clUpd_groups (s : State) (d : Nat) (f : ClRun → ClRun) : (clUpd s d f).groups = s.groups := rfl
@[simp] theorem clUpd_l1 (s : State) (d : Nat) (f : ClRun → ClRun) : (clUpd s d f).l1 = s.l1 := rfl
@[simp] theorem clUpd_cle (s : State) (d : Nat) (f : ClRun → ClRun) : (clUpd s d f).cle = s.cle := rfl
@[simp] theorem clUpd_fep (s : State) (d : Nat) (f : ClRun → ClRun) : (clUpd s d f).fep = s.fep := rfl
@[simp] theorem clUpd_cmp (s : State) (d : Nat) (f : ClRun → ClRun) : (clUpd s d f).cmp = s.cmp := rfl
@[simp] theorem clUpd_mgmt (s : State) (d : Nat) (f : ClRun → ClRun) : (clUpd s d f).mgmt = s.mgmt := rfl
@[simp] theorem clUpd_tap (s : State) (d : Nat) (f : ClRun → ClRun) : (clUpd s d f).tap = s.tap := rfl

end Sys2Proof.Machine
end

