-- ==== Sys2Proof/Laws/Reach.lean ====
section
/-! SUPPORT. Reads and writes of the own scratchpad that nothing stands in the way of: what `OwnGood`, `OwnClear` and
`OwnFree` of Safety.lean give. -/
namespace Sys2Proof.Machine

/-- No request of a queue goes before what comes for banks that none of them reaches (R170). -/
theorem queueAhead_none {bs : List Nat} {rs : List BankReq} (h : ∀ r ∈ rs, ∀ b ∈ accBanks r.acc, b ∉ bs) :
    queueAhead bs rs = ([], rs) := by
  have k : ∀ l : List BankReq, (∀ r ∈ l, ∀ b ∈ accBanks r.acc, b ∉ bs) →
      l.foldr (fun (q : BankReq) (acc : List Nat × List BankReq × List BankReq) =>
        let cs := accBanks q.acc
        if cs.any acc.1.contains then (cs ++ acc.1, q :: acc.2.1, acc.2.2) else (acc.1, acc.2.1, q :: acc.2.2)) (bs, [], []) =
      (bs, [], l) := by
    intro l
    induction l with
    | nil => exact fun _ => rfl
    | cons q l ih =>
      intro hl
      have n : (accBanks q.acc).any bs.contains = false :=
        List.any_eq_false.2 fun b hb => by simp [hl q (List.mem_cons_self ..) b hb]
      rw [List.foldr_cons, ih fun r hr => hl r (List.mem_cons_of_mem _ hr)]
      simp only [n, Bool.false_eq_true, if_false]
  simp only [queueAhead, k rs h]

theorem wakeBanks_awake {s : State} {off len : Nat} (h : s.power.retained = []) : wakeBanks s off len = s := by
  simp [wakeBanks, h]

/-- A settled range changes nothing (R170, R294). -/
theorem settle_quiet {s : State} {off len : Nat} (h : Quiet s off len) : settleRange (wakeBanks s off len) off len = s := by
  have e : wakeBanks s off len = s := wakeBanks_awake h.awake
  rw [e, settleRange, queueAhead_none h.clear]
  rfl

/-- A read of a good range brings its bytes at once and changes nothing. -/
theorem readRange_good {s : State} {owner addr len : Nat} (h : OwnGood s addr len) :
    readRange s owner addr len = (s, .bytes (spmBytes s (offsetOf addr) len)) := by
  have hl := h.some
  simp [readRange, show len ≠ 0 by omega, h.own, h.fits, settle_quiet h.quiet, h.unordered, h.good]

/-- A read of no bytes. -/
theorem readRange_none {s : State} {owner addr : Nat} : readRange s owner addr 0 = (s, .bytes []) := by simp [readRange]

theorem entriesWritten_apart {s : State} {off len : Nat} (h : Apart s off len) :
    entriesWritten s (ownAddr s off) len = s := by
  have r : s.dre.rings.any (fun r => overlap (ctxAddr s r.ring) 64 (ownAddr s off) len) = false := by
    simp only [List.any_eq_false]; intro r hr; simp [h.rings r hr]
  have q : s.dre.cqs.any (fun q => overlap (cqAddr s q.cq) 16 (ownAddr s off) len) = false := by
    simp only [List.any_eq_false]; intro r hr; simp [h.cqs r hr]
  simp [entriesWritten, r, q]

theorem routeWritten_apart {s : State} {off len : Nat} (h : Apart s off len) : routeWritten s off len = s := by
  simp [routeWritten, h.routes]

/-- What a store leaves of a state with no injection armed (R179, R180). -/
theorem spmWrite_plain {s : State} {owner : Option Nat} {off : Nat} {bs : List Byte} (h : s.inject = none) :
    spmWrite s owner off bs = noteWrite (clearPlanes { s with
      spm := mapSetAll (spmDefault s.spmLost) s.spm off bs
      spmBad := s.spmBad.filter fun w => !(fullWords off bs.length).contains w } off bs.length) owner off bs.length := by
  have e : (spmPut s off bs).inject = none := h
  simp only [spmWrite, spmStore, e]
  rfl

theorem backOver_write {s : State} {owner : Option Nat} {off : Nat} {bs : List Byte} {o n : Nat} (h : s.inject = none) :
    backOver (spmWrite s owner off bs) o n = backOver s o n := by rw [spmWrite_plain h]; rfl

/-- A plain write of a range that nothing stands in the way of is stored and answered at once. -/
theorem serveNow_clear {s : State} {owner : Option Nat} {a : Access} (h : OwnClear s a.addr a.len) (hi : s.inject = none)
    (hk : a.kind = .write) (hp : a.parts = []) (hd : a.data.length = a.len) (hc : a.counter = none) :
    serveNow s owner a = deliver (spmWrite s owner (offsetOf a.addr) a.data) a (.ok []) := by
  have parts : accParts a = [(offsetOf a.addr, a.len)] := by simp [accParts, hp]
  have data : partData a (offsetOf a.addr, a.len) = a.data := by simp [partData, ← hd]
  have noAdd : ordAdd s a = none := by simp [ordAdd, hk]
  have ok : spmRefusal s a = none := by
    simp [spmRefusal, parts, noAdd, heldOver, h.unbacked, h.unordered]
  have free : refetchWait s a = none := by simp [refetchWait, hk, parts, h.settled]
  have good : blockingWord s a = none := by
    have g := h.good
    simp only [spmBadIn, List.find?_eq_none] at g
    simp only [blockingWord, hk, parts, List.any_cons, List.any_nil, List.find?_eq_none]
    intro w hw
    simp [g w hw]
  have store : storeRuns s owner a [(offsetOf a.addr, a.data)] none [] = (spmWrite s owner (offsetOf a.addr) a.data, true) := by
    have e : entriesWritten (spmWrite s owner (offsetOf a.addr) a.data)
        (ownAddr (spmWrite s owner (offsetOf a.addr) a.data) (offsetOf a.addr)) a.data.length =
        spmWrite s owner (offsetOf a.addr) a.data := by
      have r : (spmWrite s owner (offsetOf a.addr) a.data).dre.rings.any (fun r =>
          overlap (ctxAddr (spmWrite s owner (offsetOf a.addr) a.data) r.ring) 64
            (ownAddr (spmWrite s owner (offsetOf a.addr) a.data) (offsetOf a.addr)) a.data.length) = false := by
        rw [spmWrite_plain hi, hd]
        exact List.any_eq_false.2 fun r hr => by
          have := h.apart.rings r hr
          rw [Bool.not_eq_true]; exact this
      have q : (spmWrite s owner (offsetOf a.addr) a.data).dre.cqs.any (fun r =>
          overlap (cqAddr (spmWrite s owner (offsetOf a.addr) a.data) r.cq) 16
            (ownAddr (spmWrite s owner (offsetOf a.addr) a.data) (offsetOf a.addr)) a.data.length) = false := by
        rw [spmWrite_plain hi, hd]
        exact List.any_eq_false.2 fun r hr => by
          have := h.apart.cqs r hr
          rw [Bool.not_eq_true]; exact this
      unfold entriesWritten
      simp only [r, q]
      rfl
    have w : routeWritten (spmWrite s owner (offsetOf a.addr) a.data) (offsetOf a.addr) a.data.length =
        spmWrite s owner (offsetOf a.addr) a.data := by
      have : routesAt (spmWrite s owner (offsetOf a.addr) a.data) (offsetOf a.addr) a.data.length = false := by
        rw [spmWrite_plain hi, hd]; exact h.apart.routes
      simp [routeWritten, this]
    have b : backOver (spmWrite s owner (offsetOf a.addr) a.data) (offsetOf a.addr) a.data.length = [] := by
      rw [backOver_write hi, hd]; exact h.unbacked
    have k : wakeBanks s (offsetOf a.addr) a.data.length = s := wakeBanks_awake h.quiet.awake
    cases hw : byDre a <;> simp [storeRuns, hw, k, e, w, writeThrough, b]
  have done : spmAccess s owner a false = (spmWrite s owner (offsetOf a.addr) a.data, .done []) := by
    unfold spmAccess
    simp only [free, noAdd, good, hk, spmAccess.write, parts, List.map_cons, List.map_nil, data, hc, Option.map_none, spmCommit, store]
    rfl
  simp only [serveNow, parts, List.foldl_cons, List.foldl_nil, settle_quiet h.quiet, spmServe, ok, done]

end Sys2Proof.Machine
end

