-- ==== Sys2Proof/Laws/Stopped.lean ====
section
/-! SUPPORT. What the shared gates of the commands do in a stopped cluster (R317): nothing. -/
namespace Sys2Proof.Machine

theorem live_stopped {s : State} (h : s.boot.stopped = true) : live s = false := by simp [live, h]

theorem serving_stopped {s : State} (h : s.boot.stopped = true) : serving s = false := by simp [serving, live_stopped h]

theorem whenLive_stopped {s : State} (h : s.boot.stopped = true) (f : State → State) : whenLive s f = s := by
  simp [whenLive, live_stopped h]

theorem onPacket_stopped {s : State} (h : s.boot.stopped = true) (p ty k f) : onPacket s p ty k f = s := by
  simp [onPacket, live_stopped h]

theorem onInsn_stopped {s : State} (h : s.boot.stopped = true) (t m f) : onInsn s t m f = s := by
  simp [onInsn, onHeld, whenLive_stopped h]

theorem onHeld_stopped {s : State} (h : s.boot.stopped = true) (t m p f) : onHeld s t m p f = s := by
  simp [onHeld, whenLive_stopped h]

theorem masterDo_stopped {s : State} (h : s.boot.stopped = true) (m a f) : masterDo s m a f = s := by
  cases m <;> simp [masterDo, inService, live_stopped h, serving_stopped h]

end Sys2Proof.Machine
end

