-- ==== Sys2Proof/Tests/Slice0.lean ====
section
/-! SUPPORT. Tests: for every statement, states and operands that meet what it supposes; words of the instruction
formats of R130 and R131 written out bit by bit and the instruction each is; and commands that are not well formed. -/
open Sys2Proof Sys2Proof.Machine
set_option Elab.async false
namespace Sys2Proof.Tests

/-! Deciding what statements assume. -/

/-- `Issues`, decided. -/
def issuesB (s : State) (t : Nat) (m : Mn) (g : Group) (x : Thread) (w : Word) : Bool :=
  live s && threadAt s t == some (g, x) && !x.ended && fetchWord g x == some w && insnOf w == some m &&
    !fetchBad g x.pc.toNat && guardOk x w && g.state == 1 && x.hold == .free

theorem issues_iff {s t m g x w} : Issues s t m g x w ↔ issuesB s t m g x w = true := by
  constructor
  · intro h; simp [issuesB, h.acts, h.here, h.going, h.word, h.insn, h.good, h.guard, h.runs, h.free]
  · intro h
    simp only [issuesB, Bool.and_eq_true, Bool.not_eq_true', beq_iff_eq] at h
    obtain ⟨⟨⟨⟨⟨⟨⟨⟨h1, h2⟩, h3⟩, h4⟩, h5⟩, h6⟩, h7⟩, h8⟩, h9⟩ := h
    exact { acts := h1, here := h2, going := h3, word := h4, insn := h5, good := h6, guard := h7, runs := h8, free := h9 }

@[inherit_doc issuesB] def standsB (s : State) (t : Nat) (m : Mn) (g : Group) (x : Thread) (w : Word) : Bool :=
  live s && threadAt s t == some (g, x) && !x.ended && fetchWord g x == some w && insnOf w == some m &&
    !fetchBad g x.pc.toNat && guardOk x w

theorem stands_iff {s t m g x w} : Stands s t m g x w ↔ standsB s t m g x w = true := by
  constructor
  · intro h; simp [standsB, h.acts, h.here, h.going, h.word, h.insn, h.good, h.guard]
  · intro h
    simp only [standsB, Bool.and_eq_true, Bool.not_eq_true', beq_iff_eq] at h
    obtain ⟨⟨⟨⟨⟨⟨h1, h2⟩, h3⟩, h4⟩, h5⟩, h6⟩, h7⟩ := h
    exact { acts := h1, here := h2, going := h3, word := h4, insn := h5, good := h6, guard := h7 }

/-- `Quiet`, decided. -/
def quietB (s : State) (off len : Nat) : Bool :=
  s.power.retained == [] && (s.xbr.all fun r => (accBanks r.acc).all fun b => !(banksOf off len).contains b) &&
    s.refetch.all fun r => r.waiters.all fun w => (accParts w).all fun q => !overlap off len q.1 q.2

theorem quiet_iff {s off len} : Quiet s off len ↔ quietB s off len = true := by
  constructor
  · intro h
    simp only [quietB, Bool.and_eq_true, beq_iff_eq, List.all_eq_true, Bool.not_eq_true', List.contains_eq_mem, decide_eq_false_iff_not]
    exact ⟨⟨h.awake, h.clear⟩, h.past⟩
  · intro h
    simp only [quietB, Bool.and_eq_true, beq_iff_eq, List.all_eq_true, Bool.not_eq_true', List.contains_eq_mem, decide_eq_false_iff_not] at h
    exact ⟨h.1.1, h.1.2, h.2⟩

/-- `OwnGood`, decided. -/
def ownGoodB (s : State) (addr len : Nat) : Bool :=
  decide (0 < len) && isOwn s addr && inSpm s (offsetOf addr) len && quietB s (offsetOf addr) len &&
    ordOver s (offsetOf addr) len == none && spmBadIn s (offsetOf addr) len == none

theorem ownGood_iff {s addr len} : OwnGood s addr len ↔ ownGoodB s addr len = true := by
  constructor
  · intro h
    simp [ownGoodB, h.some, h.own, h.fits, quiet_iff.1 h.quiet, h.unordered, h.good]
  · intro h
    simp only [ownGoodB, Bool.and_eq_true, beq_iff_eq, decide_eq_true_eq] at h
    obtain ⟨⟨⟨⟨⟨h1, h2⟩, h3⟩, h4⟩, h5⟩, h6⟩ := h
    exact ⟨h1, h2, h3, quiet_iff.2 h4, h5, h6⟩

/-- `Apart`, decided. -/
def apartB (s : State) (off len : Nat) : Bool :=
  (s.dre.rings.all fun r => !overlap (ctxAddr s r.ring) 64 (ownAddr s off) len) &&
    (s.dre.cqs.all fun q => !overlap (cqAddr s q.cq) 16 (ownAddr s off) len) &&
    (s.groups.all fun g => !(g.state == 3) || !overlap g.saved.1 g.saved.2 off len) && !routesAt s off len

theorem apart_iff {s off len} : Apart s off len ↔ apartB s off len = true := by
  constructor
  · intro h
    simp only [apartB, Bool.and_eq_true, List.all_eq_true, Bool.not_eq_true', Bool.or_eq_true, beq_eq_false_iff_ne]
    refine ⟨⟨⟨h.rings, h.cqs⟩, fun g hg => ?_⟩, h.routes⟩
    by_cases e : g.state = 3
    · exact .inr (h.saves g hg e)
    · exact .inl e
  · intro h
    simp only [apartB, Bool.and_eq_true, List.all_eq_true, Bool.not_eq_true', Bool.or_eq_true, beq_eq_false_iff_ne] at h
    exact ⟨h.1.1.1, h.1.1.2, fun g hg e => (h.1.2 g hg).resolve_left fun n => n e, h.2⟩

/-- `OwnPlain`, decided. -/
def ownPlainB (s : State) (addr len : Nat) : Bool :=
  decide (0 < len) && isOwn s addr && inSpm s (offsetOf addr) len && backOver s (offsetOf addr) len == [] &&
    ordOver s (offsetOf addr) len == none && refetching s (offsetOf addr) len == none &&
    spmBadIn s (offsetOf addr) len == none

theorem ownPlain_iff {s addr len} : OwnPlain s addr len ↔ ownPlainB s addr len = true := by
  constructor
  · intro h
    simp [ownPlainB, h.some, h.own, h.fits, h.unbacked, h.unordered, h.settled, h.good]
  · intro h
    simp only [ownPlainB, Bool.and_eq_true, beq_iff_eq, decide_eq_true_eq] at h
    obtain ⟨⟨⟨⟨⟨⟨h1, h2⟩, h3⟩, h4⟩, h5⟩, h6⟩, h7⟩ := h
    exact ⟨h1, h2, h3, h4, h5, h6, h7⟩

/-- `OwnOpen`, decided. -/
def ownOpenB (s : State) (addr len : Nat) : Bool := ownPlainB s addr len && quietB s (offsetOf addr) len

theorem ownOpen_iff {s addr len} : OwnOpen s addr len ↔ ownOpenB s addr len = true := by
  simp only [ownOpenB, Bool.and_eq_true]
  exact ⟨fun h => ⟨ownPlain_iff.1 h.toOwnPlain, quiet_iff.1 h.quiet⟩, fun h => ⟨ownPlain_iff.2 h.1, quiet_iff.2 h.2⟩⟩

/-- `OwnClear`, decided. -/
def ownClearB (s : State) (addr len : Nat) : Bool := ownOpenB s addr len && apartB s (offsetOf addr) len

theorem ownClear_iff {s addr len} : OwnClear s addr len ↔ ownClearB s addr len = true := by
  simp only [ownClearB, Bool.and_eq_true]
  exact ⟨fun h => ⟨ownOpen_iff.1 h.toOwnOpen, apart_iff.1 h.apart⟩, fun h => ⟨ownOpen_iff.2 h.1, apart_iff.2 h.2⟩⟩

/-- `OwnFree`, decided. -/
def ownFreeB (s : State) (addr len : Nat) : Bool :=
  ownClearB s addr len && decide (len ≤ 4096) && offsetOf addr / 4096 == (offsetOf addr + len - 1) / 4096

theorem ownFree_iff {s addr len} : OwnFree s addr len ↔ ownFreeB s addr len = true := by
  simp only [ownFreeB, Bool.and_eq_true, beq_iff_eq, decide_eq_true_eq]
  exact ⟨fun h => ⟨⟨ownClear_iff.1 h.toOwnClear, h.short⟩, h.page⟩, fun h => ⟨ownClear_iff.2 h.1.1, h.1.2, h.2⟩⟩

/-- `Admits`, decided. -/
def admitsB (s : State) (m : Master) (kind : AccKind) (off : Nat) : Bool :=
  (match m with
    | .steward => live s && !s.boot.stewardBad
    | .debug => live s && debugOpen s
    | .agent src => inService s { kind := kind, addr := ownAddr s (regBase + off), len := 4 } &&
      protCheck s src.toNat (ownAddr s (regBase + off)) 4 kind == none) &&
    mapRefusal s { kind := kind, addr := ownAddr s (regBase + off), len := 4 } == none

theorem admits_iff {s m kind off} : Admits s m kind off ↔ admitsB s m kind off = true := by
  constructor
  · intro h
    have h1 := h.admitted
    have h2 := h.mapped
    have h3 := h.allowed
    cases m <;> simp_all [admitsB]
  · intro h
    cases m with
    | steward => simp [admitsB] at h; exact ⟨by simpa using h.1, h.2, by simp⟩
    | debug => simp [admitsB] at h; exact ⟨by simpa using h.1, h.2, by simp⟩
    | agent src =>
      simp [admitsB] at h
      exact ⟨by simpa using h.1.1, h.2, by intro a e; injection e with e; subst e; exact h.1.2⟩

/-- `Canon`, decided. -/
def canonB (s : State) : Bool :=
  mapWf (spmDefault s.spmLost) s.spm && mapWf (fun _ => (0xFF : Byte)) s.nor && mapWf regReset s.regs &&
    mapWf (fun _ => (0 : Dword)) s.counters && mapWf (fun _ => (0 : Dword)) s.cntShadow &&
    mapWf (fun _ => (0 : Byte)) s.voc && mapWf (fun _ => (0 : Word)) s.corr && mapWf (fun _ => (0 : Word)) s.trim &&
    mapWf Config.romTable s.ftab

theorem canon_iff {s} : Canon s ↔ canonB s = true := by
  constructor
  · intro h
    simp only [canonB, Bool.and_eq_true]
    exact ⟨⟨⟨⟨⟨⟨⟨⟨h.spm, h.nor⟩, h.regs⟩, h.counters⟩, h.cntShadow⟩, h.voc⟩, h.corr⟩, h.trim⟩, h.ftab⟩
  · intro h
    simp only [canonB, Bool.and_eq_true] at h
    obtain ⟨⟨⟨⟨⟨⟨⟨⟨h1, h2⟩, h3⟩, h4⟩, h5⟩, h6⟩, h7⟩, h8⟩, h9⟩ := h
    exact ⟨h1, h2, h3, h4, h5, h6, h7, h8, h9⟩

/-- `Undisturbed`, decided. -/
def undisturbedB (s : State) (d : Nat) : Bool :=
  (descGet s d).any fun y => y.phase != .finished && !y.disturbed

theorem undisturbed_iff {s d} : Undisturbed s d ↔ undisturbedB s d = true := by
  simp [Undisturbed, undisturbedB, Option.any_eq_true]

/-! States that meet what the statements assume. -/

/-- A cluster out of reset. -/
def up : State := { boot := { por := false } }
/-- The cluster in which some registers hold these values. -/
def upWith (regs : List (Nat × Word)) : State := { up with regs }
/-- A running group whose thread 0 stands at the word `w`. -/
def grp (w : Word) (x : Thread) : Group :=
  { state := 1, store := toLe 4 w.toNat, threads := [x, {}, {}, {}]
    launch := some { desc := 1, ring := 0, cls := 0, src := 0, prog := 0, progLen := 4 } }
/-- The state with that group as group 0. -/
def at1 (s : State) (w : Word) (x : Thread) : State := { s with groups := grp w x :: List.replicate 31 {} }
/-- An instruction word of R130: OP, bits [21:17], bits [16:12] and the low 12 bits. -/
def iw (op d a low : Nat) : Word := BitVec.ofNat 32 (op * 2 ^ 26 + d * 2 ^ 17 + a * 2 ^ 12 + low)
/-- A thread with three registers. -/
def regs3 (a b c : Nat) : Thread :=
  { s := [0, BitVec.ofNat 64 a, BitVec.ofNat 64 b, BitVec.ofNat 64 c] ++ List.replicate 28 0 }
/-- Thread 0 issues `m` there. -/
def issuesAt (s : State) (m : Mn) (w : Word) (x : Thread) : Prop := Issues (at1 s w x) 0 m (grp w x) x w
theorem issuesAt_iff {s m w x} : issuesAt s m w x ↔ issuesB (at1 s w x) 0 m (grp w x) x w = true := issues_iff

/-- R131, R143, R157: one word of each instruction, written from its encoding: D or d is 3, a 1 and b 2. -/
def words : List (Mn × Word) := [
  (.nop, 0x00000000), (.exit, 0x00001001), (.fret, 0x00000002), (.brk, 0x00000003), (.add, 0x04061100),
  (.sub, 0x04061101), (.and, 0x04061102), (.or, 0x04061103), (.xor, 0x04061104), (.shl, 0x04061105),
  (.shr, 0x04061106), (.sra, 0x04061107), (.mul, 0x04061108), (.mulh, 0x04061109), (.mulhu, 0x0406110A),
  (.min, 0x0406110B), (.max, 0x0406110C), (.minu, 0x0406110D), (.maxu, 0x0406110E), (.jalr, 0x04061010)]
def words2 : List (Mn × Word) := [
  (.addi, 0x08061FFF), (.andi, 0x0C061FFF), (.ori, 0x10061FFF), (.xori, 0x14061FFF), (.shli, 0x1806103F),
  (.shri, 0x1C06103F), (.srai, 0x2006103F), (.li, 0x2407FFFF), (.uins, 0x2807FFFF), (.peq, 0x2C181100),
  (.pne, 0x2C181101), (.plt, 0x2C181102), (.pltu, 0x2C181103), (.pge, 0x2C181104), (.pgeu, 0x2C181105),
  (.pand, 0x2C181108), (.por, 0x2C181109), (.pxor, 0x2C18110A), (.br, 0x303FFFFF), (.jal, 0x3407FFFF)]

theorem test_words : ∀ p ∈ words ++ words2, insnOf p.2 = some p.1 := by decide +kernel

/-- ArithmeticResults, PredicatesAndControlFlow: every instruction issues, with its operands at their extremes. -/
theorem test_meets_ArithmeticResults_and_PredicatesAndControlFlow : ∀ p ∈ words ++ words2, issuesAt up p.1 p.2 (regs3 (2 ^ 64 - 1) (2 ^ 63) 0) := by
  simp only [issuesAt_iff]; decide +kernel
theorem test_meets_PredicatesAndControlFlow_brk : debugOpen (at1 up 3 {}) = false ∧ debugOpen (upWith [(0x200080, 1)]) = true ∧
    issuesAt (upWith [(0x200080, 1)]) .brk 3 {} := by
  simp only [issuesAt_iff]; decide +kernel

/-- The last bytes of near scratchpad, a word of cluster 1, and one of chip memory. -/
def nearEnd (n : Nat) : Nat := 96 * 2 ^ 20 - n
def cluster1 : Nat := 2 ^ 40
def chip : Nat := 2 ^ 63
/-- An L1 that holds the first line of chip memory. -/
def withLine (s : State) : State := { s with l1 := [{ core := 0, addr := chip, bytes := List.replicate 128 7 }] }

def loads : List (Nat × Mn × Nat) :=
  [(0x10, .ldb, 1), (0x11, .ldh, 2), (0x12, .ldw, 4), (0x13, .ldd, 8), (0x14, .ldsb, 1), (0x15, .ldsh, 2), (0x16, .ldsw, 4)]
theorem test_meets_LoadsIssue : ∀ p ∈ loads, ∀ a ∈ [nearEnd p.2.2, cluster1, chip],
    issuesAt up p.2.1 (iw p.1 31 1 0xFFF) (regs3 (a + 1) 0 0) ∧
      issuesAt (withLine up) p.2.1 (iw p.1 31 1 0xFFF) (regs3 (a + 1) 0 0) ∧ a % p.2.2 = 0 ∧
      issueRefusal (at1 up (iw p.1 31 1 0xFFF) (regs3 (a + 1) 0 0)) { kind := .read, addr := a, len := p.2.2, who := .load 0 } = none := by
  simp only [issuesAt_iff]; decide +kernel
theorem test_meets_LoadsIssue_places : (∀ n ∈ [1, 2, 4, 8], isOwn up (nearEnd n) = true ∧ inSpm up (offsetOf (nearEnd n)) n = true) ∧
    isChip cluster1 = false ∧ isChip chip = true ∧ l1Find up (coreOf 0) (lineOf chip) = none ∧
    (l1Find (withLine up) (coreOf 0) (lineOf chip)).isSome = true := by decide +kernel

/-- A group in state `st` whose thread 0 holds for an answer that has come. -/
def answered (st : Nat) (h : Hold) (r : List Byte × Nat) (na : Bool) : State :=
  { up with groups := { state := st, threads := [{ hold := h, ret := some r, noAlloc := na }, {}, {}, {}] } ::
                        List.replicate 31 {} }
theorem test_meets_LoadDataReturns : ∀ st ∈ [1, 2], ∀ h ∈ [Hold.load 31 8 true 0, .load 31 1 false chip, .atomic 31 7 2 0],
    ∀ c ∈ [0, 6], ∀ na ∈ [true, false], let s := answered st h (List.replicate 8 0xFF, c) na
    live s = true ∧ (threadAt s 0).any (fun p => p.1.state == st && p.2.hold == h && p.2.noAlloc == na) = true := by
  decide +kernel
theorem test_meets_LoadDataReturns_widths : atomicWidth 7 2 = some 2 ∧ isChip 0 = false ∧ isChip chip = true := by decide +kernel

def stores : List (Nat × Mn × Nat) := [(0x18, .stb, 1), (0x19, .sth, 2), (0x1A, .stw, 4), (0x1B, .std, 8)]
theorem test_meets_StoresIssue : ∀ p ∈ stores, ∀ a ∈ [nearEnd p.2.2, cluster1, chip],
    issuesAt up p.2.1 (iw p.1 2 1 0xFFF) (regs3 (a + 1) 0 0) ∧ a % p.2.2 = 0 ∧
      issueRefusal (at1 up (iw p.1 2 1 0xFFF) (regs3 (a + 1) 0 0))
        { kind := .write, addr := a, len := p.2.2, data := toLe p.2.2 0, who := .store 0 } = none := by
  simp only [issuesAt_iff]; decide +kernel
def stcWord : Word := iw 0x28 3 1 0x105
theorem test_meets_StoresIssue_stc : (∀ a ∈ [nearEnd 8, cluster1], issuesAt up .stc stcWord (regs3 a 0xFFF 1) ∧ a % 8 = 0 ∧
      issueRefusal (at1 up stcWord (regs3 a 0xFFF 1))
        { kind := .write, addr := a, len := 8, data := toLe 8 1, counter := some 4095, who := .store 0 } = none) ∧
    issuesAt up .stc stcWord (regs3 chip 0xFFF 1) := by
  simp only [issuesAt_iff]; decide +kernel

def atomics : List (Nat × Mn × Nat × Nat) :=
  [(0, .amo 0, 0, 4), (1, .amo 1, 0, 8), (2, .amo 2, 0, 4), (3, .amo 3, 0, 8), (4, .amo 4, 0, 4), (5, .amo 5, 0, 8),
    (6, .amo 6, 0, 8), (7, .famoF32, 0, 4), (7, .famoBf16, 2, 2)]
/-- The word of an atomic: its FN holds the width beside the operation (R162). -/
def amoWord (op n : Nat) : Word := iw 0x29 3 1 (0x100 + op + 16 * (if n = 8 then 1 else if n = 2 then 2 else 0))
theorem test_meets_AtomicsIssue : ∀ p ∈ atomics, ∀ a ∈ [nearEnd p.2.2.2, cluster1, chip],
    let w := amoWord p.1 p.2.2.2
    issuesAt up p.2.1 w (regs3 a 5 6) ∧ atomicWidth p.1 (bitsOf 5 4 w.toNat) = some p.2.2.2 ∧ a % p.2.2.2 = 0 ∧
      issueRefusal (at1 up w (regs3 a 5 6)) { kind := .atomic, addr := a, len := p.2.2.2, data := toLe p.2.2.2 5, op := p.1
                                              width := bitsOf 5 4 w.toNat, compare := 6, who := .load 0 } = none := by
  simp only [issuesAt_iff]; decide +kernel

theorem test_meets_FencesAndWaits : (∀ u ∈ [0, 1], ∀ d ∈ [none, some (4, 0xFF)], ∀ h ∈ [Hold.free, .fence],
      let x : Thread := { unacked := u, deferred := d, hold := h }
      Stands (at1 up 0xA0000001 x) 0 .fencer (grp 0xA0000001 x) x 0xA0000001 ∧
      (h = .free → issuesAt up .exit 0x00001001 x ∧ issuesAt up .gbar 0xA0000004 x)) ∧
    issuesAt (withLine up) .acq 0xA0001102 (regs3 chip 1 0) ∧ issuesAt (withLine up) .acqall 0xA0000003 {} := by
  simp only [issuesAt_iff, stands_iff]; decide +kernel

theorem test_meets_CounterWaitsEnd : (∀ target ∈ [0, 1, 2 ^ 63, 2 ^ 63 + 1], ∀ limit ∈ [0, 1], ∀ h ∈ [Hold.free, .cwait 0],
      let x := { regs3 (limit * 2 ^ 32 + 4095) target 0 with hold := h }
      Stands (at1 up 0xA0061100 x) 0 .cwait (grp 0xA0061100 x) x 0xA0061100) ∧
    0 ≤ ((0 : Dword) - 0).toInt ∧ 0 ≤ ((0 : Dword) - (2 ^ 63 + 1)).toInt ∧ ¬0 ≤ ((0 : Dword) - 1).toInt ∧ ¬0 ≤ ((0 : Dword) - 2 ^ 63).toInt := by
  simp only [stands_iff]; decide +kernel

theorem test_meets_SystemRegisters :
    (∀ n ∈ [0x000, 0x001, 0x010, 0x011, 0x012, 0x013, 0x014, 0x020, 0x021, 0x022, 0x023, 0x024, 0x028, 0x02F, 0x030, 0x031,
      0x032, 0xFFF], issuesAt up .sysr (iw 0x3E 31 0 n) {}) ∧
    (∀ n ∈ [0x010, 0x011, 0x022, 0x023, 0xFFF], issuesAt up .sysw (iw 0x3F 0 1 n) (regs3 (2 ^ 64 - 1) 0 0)) ∧
    (let g := { grp (iw 0x3E 31 0 0x031) {} with quad := some 15 }
     Issues { up with groups := [g] } 0 .sysr g {} (iw 0x3E 31 0 0x031)) := by
  simp only [issuesAt_iff, issues_iff]; decide +kernel

/-- A group whose image holds one word, with or without a handler. -/
def faulting (w : Word) (handler : Word) (x : Thread) : State := { up with groups := [{ grp w x with fhandler := handler }] }
theorem test_meets_FaultsTakeTheHandler :
    (∀ h ∈ [0, 64], ∀ m ∈ [true, false], (threadAt (faulting 0xFFFFFFFF (BitVec.ofNat 32 h) { hmode := m }) 0).isSome = true) ∧
    (threadAt (faulting 0xFFFFFFFF 64 { pc := 4 }) 0).any (fun p => (fetchWord p.1 p.2).isNone && p.1.state == 1) = true ∧
    (threadAt (faulting 0xFFFFFFFF 64 {}) 0).any (fun p => fetchWord p.1 p.2 == some 0xFFFFFFFF && !fetchBad p.1 0) = true ∧
    insnOf 0xFFFFFFFF = none := by decide +kernel

/-- A tile instruction word of R130: OP, TD, TA, TB, SA, SB and FN. -/
def tw (op td ta tb sa sb fn : Nat) : Word :=
  BitVec.ofNat 32 (op * 2 ^ 26 + td * 2 ^ 19 + ta * 2 ^ 16 + tb * 2 ^ 13 + sa * 2 ^ 8 + sb * 2 ^ 3 + fn)
/-- A TCFG entry (R139). -/
def tc (rows bpr fmt : Nat) : Word := BitVec.ofNat 32 (rows + bpr * 2 ^ 8 + fmt * 2 ^ 16)
/-- The state with one group. -/
def atG (g : Group) : State := { up with groups := g :: List.replicate 31 {} }
/-- A running group at the word `w` with tiles 0 and 1 in FP16 of 32 rows and tile 7 their product in FP32. -/
def tgrp (w : Word) (x : Thread) (quad : Option Nat) : Group :=
  { grp w x with tcfg := [tc 32 64 1, tc 32 64 1, 0, 0, 0, 0, 0, tc 32 128 0], quad := quad }
def tileWords : List (Mn × Word) := [
  (.tzero, tw 0x20 0 7 0 0 0 0), (.tload, tw 0x20 0 1 0 1 2 1), (.tstore, tw 0x20 0 1 0 1 2 2), (.tget, tw 0x20 0 1 0 3 3 3),
  (.tput, tw 0x20 0 1 0 3 2 4), (.twait, tw 0x20 0 0 0 0 0 5), (.tcfg, tw 0x20 0 7 0 2 0 6), (.tcfgm, tw 0x20 0 0 0 1 0 7),
  (.tmma, tw 0x21 7 0 1 0 0 0), (.tbind, tw 0x21 0 0 1 1 3 1), (.tfree, tw 0x21 0 0 0 0 0 2)]
/-- Addresses at the end of near scratchpad, a largest entry, and the last row that thread 0 may name. -/
def tileRegs : Thread := regs3 (nearEnd 32) (128 + 128 * 256) (28 * 256 + 56)
theorem test_meets_TileInstructionsQueue : (∀ p ∈ tileWords, let g := tgrp p.2 tileRegs (some 15)
      Issues (atG g) 0 p.1 g tileRegs p.2) ∧
    (let g := tgrp 0 tileRegs (some 15)
     tcfgAhead g = g.tcfg ∧ mmaBad (tw 0x21 7 0 1 0 0 0) g.tcfg = none ∧ bindAhead g = none ∧ (g.tcfg[1]?).getD 0 ≠ 0 ∧
      tcfgOk ((sGet tileRegs 2).setWidth 32) = true ∧ bitsOf 14 8 (sGet tileRegs 3).toNat = 28 ∧
      bitsOf 6 0 (sGet tileRegs 3).toNat = 56 ∧ (sGet tileRegs 1).toNat % 32 = 0 ∧
      issueRefusal (atG g) { kind := .read, addr := nearEnd 32, len := 32, who := .load 0 } = none ∧
      isChip (nearEnd 32) = false) ∧
    (let x := { tileRegs with hold := .read (nearEnd 32), ret := some (toLe 32 (128 + 128 * 256), 0) }
     let w := tw 0x20 0 0 0 1 0 7
     Stands (atG (grp w x)) 0 .tcfgm (grp w x) x w ∧ tcfgOk (tc 128 128 0) = true ∧ tcfgOk 0 = true) := by
  simp only [issues_iff, stands_iff]; decide +kernel

theorem test_meets_TileChecksArePrecise : (∀ p ∈ tileWords, ∀ row ∈ [28, 29, 32, 127],
      let x := regs3 0 0 (row * 256)
      let g := { tgrp p.2 x none with fhandler := 64 }
      Issues (atG g) 0 p.1 g x p.2 ∧ g.tq = [] ∧ g.fhandler ≠ 0 ∧ mmaBad (tw 0x21 7 0 1 0 0 0) g.tcfg = none) ∧
    (∀ fn ∈ [1, 2], let w := tw 0x20 0 2 0 1 2 fn
      let g := { tgrp w {} none with fhandler := 64 }
      Issues (atG g) 0 (if fn = 1 then .tload else .tstore) g {} w ∧ (g.tcfg[2]?).getD 0 = 0) := by
  simp only [issues_iff]; decide +kernel

/-- A group in state `st` with one instruction of thread 0 in its tile queue. -/
def tqgrp (st : Nat) (w : Word) (a b : Nat) : Group :=
  { tgrp 0 { hold := .tile 9 } (some 15) with
    state := st, tq := [{ n := 9, thread := 0, word := w, sa := BitVec.ofNat 64 a, sb := BitVec.ofNat 64 b }]
    tiles := [(16384 * 1 + 128 * 28 + 56, 5)] }
theorem test_meets_TileQueueExecutes : ∀ p ∈ tileWords, ∀ st ∈ [1, 2, 5], let s := atG (tqgrp st p.2 (28 * 256 + 56) 7)
    live s = true ∧ s.groups[0]? = some (tqgrp st p.2 (28 * 256 + 56) 7) ∧ insnOf p.2 = some p.1 ∧
      (tqgrp st p.2 0 7).threads[0]? = some { hold := .tile 9 } ∧ (tqgrp st p.2 0 7).tileBad = [] ∧
      iTA p.2 < (tqgrp st p.2 0 7).tuse.length := by decide +kernel

/-- A group whose tickets stand so: slot 15 as given, the others pending. -/
def tickets15 (k : Ticket) : List Ticket := List.replicate 15 { seq := 1, pending := true, valid := true } ++ [k]
theorem test_meets_TicketInstructions :
    (∀ k ∈ [({} : Ticket), { seq := 5, pending := false, valid := true, status := 0x12 }, { seq := 5, pending := true, valid := true }],
      ∀ h ∈ [5 * 16 + 15, 4 * 16 + 15, 16 + 15], ∀ p ∈ [(Mn.mcopy, (0x94061100 : Word)), (.eissue, 0x90061100), (.ewait, 0x90061001),
        (.etest, 0x90061002)],
      let g := { grp p.2 (regs3 h 0 0) with tickets := tickets15 k }
      Issues (atG g) 0 p.1 g (regs3 h 0 0) p.2 ∧ g.launch.isSome = true ∧ g.tickets[h % 16]? = some k ∧ h % 16 < 16) ∧
    (let x := { regs3 (nearEnd 128) 0 0 with hold := .read (nearEnd 128), ret := some (List.replicate 128 1, 0) }
     Stands (at1 up 0x90061100 x) 0 .eissue (grp 0x90061100 x) x 0x90061100 ∧ nearEnd 128 % 128 = 0 ∧ isChip (nearEnd 128) = false ∧
      issuesAt up .eissue 0x90061100 (regs3 (nearEnd 128) 0 0) ∧
      issueRefusal up { kind := .read, addr := nearEnd 128, len := 128, who := .load 0 } = none) := by
  simp only [issuesAt_iff, issues_iff, stands_iff]; decide +kernel

/-- The cluster with a finished collective of thread 0. -/
def collDone (w : Word) (x : Thread) (status : Nat) : State :=
  { at1 up w x with descs := [{ id := 3, ring := 0, index := 0, seq := 0, cls := 0, src := 0, phase := .finished, status := status }] }
theorem test_meets_CollectiveInstructions : (∀ op ∈ [0, 2, 4, 5, 15], let x := regs3 (op * 4096 + 4095) 0 0
      issuesAt up .cbar 0xB0061000 x ∧ issuesAt up .cred 0xB0061101 x ∧ grpGet (at1 up 0xB0061000 x) 4095 = none ∧
      bitsOf 15 12 (sGet x 1).toNat = op) ∧
    (∀ st ∈ [0, 0x502], ∀ p ∈ [(Mn.cbar, (0xB0061000 : Word)), (.cred, 0xB0061101)],
      let x := { regs3 (4 * 4096) 0 0 with hold := .coll 3 true }
      Stands (collDone p.2 x st) 0 p.1 (grp p.2 x) x p.2 ∧
        (descGet (collDone p.2 x st) 3).any (fun y => y.phase == .finished && y.status == st) = true) := by
  simp only [issuesAt_iff, stands_iff]; decide +kernel

/-- A free, ready descriptor with these bytes. -/
def desc (id : Nat) (bytes : List Byte) : Desc :=
  { id := id, ring := 0, index := 0, seq := 0, cls := 0, src := 0, bytes := bytes, phase := .ready, free := true }
/-- A descriptor image: bytes at rising offsets. -/
def image (parts : List (Nat × List Byte)) : List Byte :=
  padTo 128 (parts.foldl (fun bs p => padTo p.1 bs ++ p.2) [])
/-- A launch on core 15 of the last four bytes of near scratchpad. -/
def launchDesc : Desc := desc 7 (image [(0, [0x50]), (32, toLe 2 0x8000), (36, toLe 4 4), (40, toLe 8 (nearEnd 4)),
  (48, toLe 8 11 ++ toLe 8 12 ++ toLe 8 13 ++ toLe 8 14), (80, toLe 4 64)])
def launching : State := { up with descs := [launchDesc] }
theorem test_meets_LaunchStarts : live launching = true ∧ descGet launching 7 = some launchDesc ∧ dop launchDesc = 0x50 ∧
    launchDesc.engine = .none ∧ mayStart launching launchDesc = true ∧ pickGroup launching launchDesc = some 30 ∧
    launching.groups[30]? = some ({} : Group) ∧
    firstOf launching launchDesc (fun y => dop y == 0x50 && namesGroup launching y 30) = true ∧
    wakeFor launching [68 + 30 / 2] = none ∧ OwnGood launching (dfield launchDesc 40 8) (dfield launchDesc 36 4) := by
  simp only [ownGood_iff]; decide +kernel
/-- The same launch with its image in chip memory, waiting for its reads or with the image come. -/
def farLaunch : Desc := desc 7 (image [(0, [0x50]), (32, toLe 2 0x8000), (36, toLe 4 4), (40, toLe 8 chip),
  (48, toLe 8 11 ++ toLe 8 12 ++ toLe 8 13 ++ toLe 8 14), (80, toLe 4 64)])
def farThread : Thread := { s := [0, 11, 12, 13, 14] ++ List.replicate 27 0, hold := .image }
def farGroup : Group := { state := 1, threads := List.replicate 4 farThread }
def farLaunching : State := { up with descs := [farLaunch] }
def farLoaded : State :=
  { up with
    descs := [{ farLaunch with phase := .running, engine := .launch 30, runs := 1 }]
    groups := setAt up.groups 30 fun _ => farGroup
    gathers := [{ key := 3, owner := 7, addr := chip, len := 4, got := [(chip, 1)] }] }
theorem test_meets_LaunchStarts_far :
    (let s := farLaunching
     live s = true ∧ descGet s 7 = some farLaunch ∧ dop farLaunch = 0x50 ∧ mayStart s farLaunch = true ∧ pickGroup s farLaunch = some 30 ∧
      firstOf s farLaunch (fun y => dop y == 0x50 && namesGroup s y 30) = true ∧ wakeFor s [68 + 30 / 2] = none ∧
      isOwn s (dfield farLaunch 40 8) = false ∧ dfield farLaunch 40 8 = chip ∧ 0 < dfield farLaunch 36 4 ∧
      (match gatherGet (gatherStart s 7 chip 4) 7 chip 4 with
        | .waiting => true
        | _ => false) = true) ∧
    (let u := farLoaded
     live u = true ∧ u.par = up.par ∧ isOwn u (dfield farLaunch 40 8) = false ∧
      descGet u 7 = some { farLaunch with phase := .running, engine := .launch 30, runs := 1 } ∧ u.groups[30]? = some farGroup ∧
      (u.gathers.any fun k => k.owner == 7 && k.addr == chip && k.len == 4) = true ∧
      (match gatherGet u 7 chip 4 with
        | .bytes im => im == [1, 0, 0, 0]
        | _ => false) = true) := by decide +kernel

/-- A launch of descriptor 1 in a state of its group, with how it ends. -/
def launched (st : Nat) (fate : Option (Nat × Option Nat)) (threads : List Thread) : State :=
  { atG { state := st, threads := threads
          launch := some { desc := 1, ring := 0, cls := 0, src := 0, prog := 0, progLen := 4, fate := fate } } with
    descs := [{ desc 1 (image [(0, [0x50])]) with phase := .running, engine := .launch 0 }] }
theorem test_meets_LaunchEnds : ∀ st ∈ [1, 5], ∀ fate ∈ [none, some (0x0018, none), some (0x0301, some 3)],
    let s := launched st fate (List.replicate 4 { ended := true })
    live s = true ∧ (s.groups[0]?).any (fun g => groupDrained g && g.threads.all (·.ended) && g.state == st) = true ∧
      Undisturbed s 1 := by
  simp only [undisturbed_iff]; decide +kernel

/-- The save address of group 0 at the last place that its largest area fits, or one line further. -/
def saveEnd : Nat := nearEnd 132608
def withSave (s : State) (a : Nat) : State := { s with regs := [(0x200010, 5), (0x600408, BitVec.ofNat 32 a)] }
theorem test_meets_GroupCommands : ∀ st ∈ [0, 1, 2, 3, 4], ∀ a ∈ [saveEnd, saveEnd + 128], ∀ m ∈ [Master.agent 0, .steward],
    let s := withSave (launched st none [{ hold := .gbar }, { hold := .cwait 0 }, {}, { hold := .fence }]) a
    (s.groups[0]?).any (fun g => g.state == st && g.launch.any (·.fate.isNone)) = true ∧ 0 < 2 * s.par.taskCores ∧
      Admits s m .write 0x600400 ∧ Undisturbed s 1 ∧ regPair s 0x600408 = a ∧ isOwn s a = true ∧ a % 128 = 0 ∧
      inNear s (offsetOf a) 1 = true ∧ ∀ b ∈ [a + 1, 64], let s := withSave s b
        Admits s m .write 0x600400 ∧ ¬(isOwn s (regPair s 0x600408) = true ∧ regPair s 0x600408 % 128 = 0) := by
  simp only [undisturbed_iff, admits_iff]; decide +kernel

/-- A suspending group, and an idle one whose save area holds the launch that group 1 has suspended. -/
def suspending : State := withSave (launched 2 none [{}, { hold := .debug }, {}, {}]) saveEnd
def resuming : State :=
  { withSave up saveEnd with
    groups := [{}, { state := 3, launch := some { desc := 1, ring := 0, cls := 0, src := 0, prog := 0, progLen := 4 }
                     saved := (saveEnd, 1536) }]
    spm := [(saveEnd + 0x5C8, 4), (saveEnd + 0x5CC, 1)] }
theorem test_meets_SuspendAndResume :
    (let s := suspending
     Canon s ∧ live s = true ∧ (s.groups[0]?).any (fun g => g.state == 2 && groupDrained g && !groupWaits g &&
        saveCstatus g == some 0 && g.threads.all (fun x => x.hold == .free || x.hold == .debug) && g.saving == .no &&
        g.launch.any fun l => decide ((saveArea g l (toLe 4 0)).length ≤ saveRoom s saveEnd) &&
          ownClearB s (regPair s 0x600408) (saveArea g l (toLe 4 0)).length) = true ∧ s.inject = none) ∧
    (let s := resuming
     Admits s .steward .write 0x600400 ∧ saveOk s (regPair s 0x600408) = true ∧
     let bs := spmBytes s (offsetOf (regPair s 0x600408)) 132608
     suspendedGroup s (fieldAt bs 0x5CC 8) = some 1 ∧ (s.groups[1]?).any (fun o => !o.saveWild) = true ∧ wakeFor s [68] = none ∧
     saveRoom s (offsetOf (regPair s 0x600408)) = 132608 ∧
     OwnGood s (regPair s 0x600408) (areaLen s (offsetOf (regPair s 0x600408))) ∧ OwnGood s (fieldAt bs 0x5C0 8) (fieldAt bs 0x5C8 4) ∧
     bitOf 0 (fieldAt bs 0x4A6 1) = false) := by
  simp only [canon_iff, admits_iff, ownGood_iff]; decide +kernel

theorem test_meets_ResetInputs : ∀ p ∈ [(true, false), (false, true), (true, true), (false, false)],
    let s : State := { boot := { por := p.1, warm := p.2 } }
    Canon s ∧ s.boot.imageBusy = none ∧ s.cmp.chans = List.replicate 8 {} ∧
      (p = (false, false) ∨ s.boot.por = true ∨ s.boot.warm = true) := by
  simp only [canon_iff]; decide +kernel

/-- The cluster at a boot stage, with the other bits of CSU_BOOT as given. -/
def atStage (n more : Nat) : State := upWith [(0x200010, BitVec.ofNat 32 (n + more))]
theorem up_dies : ∀ c ∈ up.fusesSensed.dies, c = some up.fusesSensed.pairing := by
  have h : up.fusesSensed.dies.all (· == some up.fusesSensed.pairing) = true := by decide +kernel
  exact fun c hc => eq_of_beq (List.all_eq_true.1 h c hc)
theorem test_meets_BootStages : (∀ n ∈ [1, 2, 3], ∀ more ∈ [0, 512], ∀ strap ∈ [true, false],
      let s := { atStage n more with boot := { por := false, strap := strap } }
      Canon s ∧ live s = true ∧ stage s = n ∧ bitOf 9 (regGet s 0x200010) = (more == 512)) ∧
    stage up = 0 ∧ (∀ c ∈ up.fusesSensed.dies, c = some up.fusesSensed.pairing) ∧
    (∃ c ∈ ({ up with fusesSensed := { dies := [some 0, none] } } : State).fusesSensed.dies, c ≠ some up.fusesSensed.pairing) ∧
    bitOf 0 (regGet up 0x200070) = false ∧
    (let s := atStage 4 0
     stage s = 4 ∧ (bankState s).trial = false ∧ (bankState s).active = 0 ∧ stateOfBank (bankState s) 0 ≠ 2 ∧
      stateOfBank (bankState s) 1 ≠ 2) ∧
    (∃ e ∈ [64], (0 : Nat) < e ∧ e ≤ 64) ∧ ¬(∃ e ∈ [0, 65], 0 < e ∧ e ≤ 64) := by
  refine ⟨by simp only [canon_iff]; decide +kernel, by decide +kernel, up_dies, ?_⟩
  decide +kernel

/-- A settings record of version 1 with its CRC (R335). -/
def settings1 : List Byte :=
  let b := toLe 4 0x5445534B ++ toLe 2 1 ++ toLe 2 48 ++ toLe 4 0
  b ++ toLe 4 (crc32c (b ++ toLe 36 0)).toNat ++ toLe 32 0
/-- The cluster in stage 5 on bank 0, with an image state, an image descriptor, and a settings record in scratchpad. -/
def imaging (op bank now img : Nat) (source e : Nat) : State :=
  { upWith ((0x200010, 5) :: (if img = 0 then [] else [(0x200040, BitVec.ofNat 32 img)])) with
    spm := ((List.range 48).zip settings1).filter fun p => p.2 != 0
    boot := { por := false, staged := if 2 ≤ img then some (1, 0x10000, 128) else none }
    descs := [desc 4 (image [(0, toLe 1 op), (32, toLe 1 (bank + 2 * now)), (40, toLe 4 128), (48, toLe 8 source), (56, toLe 8 e)])] }
theorem test_meets_ImageDescriptors : (∀ op ∈ [0xF0, 0xF1, 0xF2, 0xF3, 0xF4], ∀ bank ∈ [0, 1], ∀ img ∈ [0, 2, 3, 4],
      ∀ e ∈ [0, 1], let s := imaging op bank 1 img 0 e
      Canon s ∧ (descGet s 4).any (fun x => mayStart s x && dop x == op && !x.disturbed && !x.rejected &&
        firstOf s x (fun y => 0xF0 ≤ dop y) && bitOf 0 (dfield x 32 1) == (bank == 1) && dfield x 56 8 == e) = true ∧ imgFree s = true ∧
        stage s = 5 ∧ runBank s = 0 ∧ imgState s = img ∧ regPair s 0x200048 = 0 ∧ s.boot.staged.isSome = (img != 0)) ∧
    (let s := imaging 0xF4 1 0 0 0 0
     OwnGood s 0 16 ∧ OwnGood s 0 48 ∧ OwnGood s 0 128 ∧ rangeRefusal s 0 0 48 .read = none ∧ fieldAt (spmBytes s 0 16) 6 2 = 48 ∧
      settingsOk (spmBytes s 0 48) = true ∧ (imageReason s (bankImage s 1).1 (bankImage s 1).2).1 = 1) ∧
    (let s := { imaging 0xF4 1 0 0 0 0 with spm := [(7, 16)] }
     OwnGood s 0 4096 ∧ rangeRefusal s 0 0 4096 .read = none ∧ fieldAt (spmBytes s 0 16) 6 2 = 4096 ∧ settingsOk (spmBytes s 0 4096) = false) := by
  simp only [canon_iff, ownGood_iff]; decide +kernel

/-- The same once the device works on it. -/
def working (op : Nat) (aux : List Byte) : State :=
  { imaging op 1 0 0 0 0 with
    boot := { por := false, imageBusy := some 4 }
    descs := (imaging op 1 0 0 0 0).descs.map fun x => { x with phase := .running, engine := .image 1, aux := aux } }
theorem test_meets_ImageCompletions : (∀ op ∈ [0xF0, 0xF1, 0xF4], let s := working op settings1
      Canon s ∧ live s = true ∧ (descGet s 4).any (fun x => x.phase == .running && x.engine == .image 1 && dop x == op &&
        (List.range x.aux.length).all fun i => norByte s (bankAt 1 + dfield x 36 4 + i) == 0xFF) = true ∧
        s.boot.imageBusy = some 4) ∧
    (let s := { imaging 0xF2 1 0 0 0 0 with
       descs := (imaging 0xF2 1 0 0 0 0).descs.map fun x => { x with phase := .running, engine := .image 0 } }
     Canon s ∧ (descGet s 4).any (fun x => x.phase == .running && x.engine == .image 0 && dop x == 0xF2 && x.wrote == [] &&
        x.unacked == 0 && !x.disturbed && !x.rejected) = true ∧ s.inject = none ∧
      (imageReason s (bankImage s 1).1 (bankImage s 1).2).1 = 1 ∧
      stagingFault s 0x10000 (image []) (List.replicate 128 7) = none ∧ OwnClear s 0x10000 128) ∧
    (let s := imaging 0xF5 0 0 0 (nearEnd 320) 0
     Canon s ∧ OwnFree s (nearEnd 320) 320 ∧ (descGet s 4).any (fun x => mayStart s x && dop x == 0xF5 && x.unacked == 0 &&
      firstOf s x (fun y => 0xF0 ≤ dop y)) = true ∧ imgFree s = true ∧ s.inject = none) := by
  simp only [canon_iff, ownFree_iff, ownClear_iff]; decide +kernel

/-- The cluster in stage 5 in an image state, with a schedule for front 1 and 128 staged bytes of bank 1. -/
def switching (img : Nat) : State :=
  { upWith [(0x200010, 5), (0x200040, BitVec.ofNat 32 img), (0x200050, 1)] with
    boot := { por := false, staged := some (1, 0x10000, 128) } }
theorem test_meets_ActivationAtAFront : (∀ img ∈ [2, 3, 4, 5, 6], let s := switching img
      Canon s ∧ live s = true ∧ imgState s = img ∧ Admits s .steward .write 0x20005C ∧ masterPriv s .steward = true ∧
        Admits s .steward .write 0x200060 ∧ regGet s 0x200060 % 4 = 0 ∧ regPair s 0x200050 = 1 ∧ switchDrained s = true ∧
        runBank s < 2 ∧ spmBadIn s 0x10000 128 = none) ∧
    (let s := { launched 1 none [{}, {}, {}, {}] with regs := [(0x200010, 5), (0x200040, 4)] }
     Canon s ∧ imgState s = 4 ∧ (s.groups[0]?).any (fun g => g.state == 1 && g.launch.any (·.fate.isNone)) = true) ∧
    (imageReason (switching 6) (bankImage (switching 6) 1).1 (bankImage (switching 6) 1).2).1 = 1 := by
  simp only [canon_iff, admits_iff]; decide +kernel

/-- Ring 0 of two slots at the start of near scratchpad, with a head and a tail. -/
def ring0 (head tail state : Nat) : Ring :=
  { ring := 0, base := 0, log2 := 1, cls := 0, depth := 2, haltOnFail := true, preempt := false, acting := 0, cq := 0
    head := head, tail := tail, seq := 0, save := 0, state := state, fetch := head }
/-- The cluster in stage 5 with two rings in its table, of which ring 0 is enabled. -/
def ringing (r : Ring) : State :=
  { upWith [(0x200010, 5), (0x300018, 2)] with dre := { rings := [r], cqs := [{ cq := 0, base := 256, log2 := 1, widx := 0 }] } }
theorem test_meets_DoorbellRules : (∀ m ∈ [Master.agent 0, .steward], let s := ringing (ring0 0xFFFF 0xFFFF 1)
      Canon s ∧ serving s = true ∧ live s = true ∧
        masterRefusal s m { kind := .write, addr := ownAddr s bellBase, len := 8, src := 0 } = none ∧
        ringExists s 0 = true ∧ (ringGet s 0).any (·.cached) = true ∧ s.dre.bad = [] ∧ s.boot.stewardBad = false ∧
        cacheUsed s < 4096 ∧ ringRetiring s 0 = false ∧
        ringExists s 1 = true ∧ ringGet s 1 = none ∧ ringExists s 2 = false) ∧
    (let s := { ringing (ring0 0xFFFF 0xFFFF 1) with descs := [{ desc 5 [] with phase := .recording }] }
     ringRetiring s 0 = true) ∧
    dist16 1 0xFFFF = 2 ∧ dist16 2 0xFFFF = 3 ∧ dist16 2 0 = 2 ∧ dist16 3 0 = 3 := by
  simp only [canon_iff]; decide +kernel

theorem test_meets_DescriptorsAreFetched : (let s := { ringing (ring0 0xFFFF 0 1) with nextId := 9 }
      live s = true ∧ (pickRing s).any (·.cached) = true ∧ s.dre.bad = [] ∧ s.dre.rings.length = 1 ∧ (∀ x ∈ s.descs, x.id < s.nextId) ∧
        (∀ g ∈ s.gathers, g.owner ≠ s.nextId) ∧ OwnGood s (0 + 128 * (0xFFFF % 2 ^ 1)) 128) ∧
    (let s := ringing { ring0 0 1 1 with base := chip }
     (pickRing s).map (·.base) = some chip ∧ isChip chip = true) ∧
    pickRing (ringing (ring0 0 0 1)) = none ∧
    (let s := ringing { ring0 0 1 1 with readySince := some 7 }
     (ringGet s 0).map (·.readySince) = some (some 7) ∧ regGet s 0x300040 ≠ 0) := by
  simp only [ownGood_iff]; decide +kernel

/-- The cluster with one fetched descriptor. -/
def fetched (s : State) (bytes : List Byte) : State := { s with descs := [{ desc 5 bytes with phase := .fetched, free := false }] }
def moveBytes (kind count rowlen rows dst src : Nat) : List Byte :=
  image [(0, [0x30]), (32, toLe 1 kind), (34, toLe 2 count), (36, toLe 4 rowlen), (40, toLe 4 rows), (44, toLe 4 1),
    (48, toLe 8 dst), (56, toLe 8 src), (80, toLe 8 4096)]
/-- A backed region over the first page, its home the start of chip memory. -/
def backed0 : List (Nat × Word) := [(0x701008, 1), (0x701010, 0x80000000), (0x701014, 1)]
theorem test_meets_ValidationInOrder : ∀ p ∈ [
      (up, image [(0, [0])], 1, true, true, true, true, 0), (up, image [(0, [0x01])], 0, true, true, true, true, 0),
      ({ up with par := { paramsKC9 with vectorUnits := 2 } }, image [(0, [0x20]), (32, [4])], 0, false, false, true, true, 0),
      (up, moveBytes 0 0 128 1 (nearEnd 128) (nearEnd 127), 0, true, false, true, true, 0),
      (upWith [(0x100040, 0)], moveBytes 0 0 128 1 0 128, 0, true, true, false, true, 0),
      (upWith backed0, moveBytes 0 0 128 1 0 128, 0, true, true, true, false, 0),
      (up, moveBytes 0 0 0 1 0 128, 0, true, true, true, true, 9)],
    let s := fetched p.1 p.2.1
    let x := (descGet s 5).getD (desc 5 [])
    live s = true ∧ s.dre.stopFetch = false ∧ (descGet s 5).isSome = true ∧ x.phase = .fetched ∧ clInsn x = false ∧
      (stepOne s x = 0 ↔ p.2.2.1 = 0) ∧
      ((unitsOk s x && (headRanges s x).all fun r => !beyond s r.addr r.len) = p.2.2.2.1) ∧
      (p.2.2.1 = 0 → p.2.2.2.1 = true → stepTwo (gatherDrop s 5) x = p.2.2.2.2.1 ∧
        (p.2.2.2.2.1 = true → decide (refusedRanges (gatherDrop s 5) x = []) = p.2.2.2.2.2.1 ∧
          (heldWrite (gatherDrop s 5) x).isNone = p.2.2.2.2.2.2.1 ∧ (stepFour (gatherDrop s 5) x = 0 ↔ p.2.2.2.2.2.2.2 = 0))) := by
  decide +kernel

def waitBytes (counter target limit : Nat) : List Byte :=
  image [(0, [0x02]), (32, toLe 2 counter), (36, toLe 4 limit), (40, toLe 8 target)]
theorem test_meets_NopAndWait :
    (∀ target ∈ [0, 1, 2 ^ 63, 2 ^ 63 + 1], ∀ b ∈ [image [(0, [0x01])], waitBytes 4095 target 1],
      let s := { up with descs := [desc 5 b] }
      live s = true ∧ (descGet s 5).any (fun x => mayStart s x && firstOf s x (fun y => dop y == 0x02) && !x.disturbed) = true ∧
        waitsTaken s < 2048) ∧
    (let s := { up with descs := [{ desc 5 (waitBytes 4095 1 1) with phase := .running, engine := .wait 0 }] }
     (descGet s 5).any (fun x => x.phase == .running && x.engine == .wait 0 && dfield x 36 4 != 0) = true) := by decide +kernel

/-- A finished descriptor of ring 0 with a status that counts into counter 4095. -/
def finished (status cnt : Nat) : State :=
  { ringing (ring0 0xFFFF 0 1) with
    descs := [{ desc 5 (image [(0, [0x01]), (1, [BitVec.ofNat 8 cnt]), (4, toLe 4 4095), (8, toLe 4 0xFFFFFFFF)]) with
                phase := .finished, status := status }] }
theorem test_meets_DescriptorsRetire : ∀ status ∈ [0, 0x12], ∀ cnt ∈ [0, 1], let s := finished status cnt
    Canon s ∧ live s = true ∧ (descGet s 5).any (fun x => x.phase == .finished && x.unacked == 0 && x.issue.isNone &&
      !clInsn x && (ringDescs s x.ring).head? == some x && x.engine == .none && !x.disturbed && !dDbEn x &&
      dCntEn x == (cnt == 1) && dCntCluster x == ownId s) = true ∧
    (ringGet s 0).any (fun r => !r.disabling && r.latch == none && r.haltOnFail && r.state == 1 && r.cached) = true ∧
    (s.dre.cqs.find? (fun c => c.cq == 0)).any (fun q => q.base + 32 * (q.widx % 2 ^ q.log2) == 256 && q.cached &&
      !q.overwritten) = true ∧ s.dre.bad = [] ∧ s.dre.doomed = [] ∧ stage s ≠ 7 ∧
    s.boot.attnDrain = false ∧ s.inject = none ∧ OwnFree s 256 32 := by
  simp only [canon_iff, ownFree_iff]; decide +kernel

/-- Context table and completion table at the start of near scratchpad, the ring's slots at 128 and its records at 512. -/
def tables (lg : Nat) : State :=
  { upWith [(0x300010, 0), (0x300020, 1024)] with
    spm := [(0, 128), (8, BitVec.ofNat 8 lg), (10, 1), (20, 0xFF), (21, 0xFF), (22, 1), (1025, 2), (1032, 1)] }
theorem test_meets_RingCommands : (∀ lg ∈ [1, 16], let s := tables lg
      Canon s ∧ Admits s .steward .write 0x300030 ∧ masterPriv s .steward = true ∧ live s = true ∧ s.dre.cmd = none ∧
        ringExists s 0 = true ∧ ringGet s 0 = none ∧ OwnGood s (ctxAddr s 0) 64 ∧ OwnGood s (cqAddr s 0) 16 ∧
        s.dre.cqs.find? (fun c => c.cq == 0) = none ∧
        contextOk s (spmBytes s 0 64) (spmBytes s 1024 16) = (lg == 1) ∧ ringExists s 1 = false) ∧
    cacheUsed (tables 1) + 2 ≤ 4096 ∧
    (∀ st ∈ [1, 2], ∀ cqs ∈ [[], [{ cq := 0, base := 256, log2 := 1, widx := 5 }]],
      let s := { tables 1 with dre := { rings := [ring0 0 0 st], cqs := cqs } }
      (ringGet s 0).any (fun r => r.state == st && !r.overwritten) = true ∧ ringDescs s 0 = [] ∧ OwnOpen s (ctxAddr s 0 + 20) 8 ∧
        OwnOpen s (ctxAddr s 0 + 40) 1 ∧ OwnOpen s (ctxAddr s 0 + 42) 6 ∧
        (s.dre.cqs.find? (fun c => c.cq == 0)).all (fun q => !q.overwritten) = true ∧ OwnOpen s (cqAddr s 0 + 10) 2 ∧
        overlap (offsetOf (cqAddr s 0 + 10)) 2 (offsetOf (ctxAddr s 0)) 64 = false ∧ s.inject = none) := by
  simp only [canon_iff, admits_iff, ownGood_iff, ownOpen_iff]; decide +kernel

/-- A group of one member whose table and staging area lie in near scratchpad. -/
def groupEntry : List Byte :=
  toLe 4 1 ++ toLe 4 0 ++ toLe 10 (1 + 2 ^ 16 + 2 ^ 32 + 2 ^ 48 + 2 ^ 64) ++ toLe 26 0 ++ toLe 2 7 ++ toLe 2 1 ++ toLe 8 4096 ++ toLe 8 8192
/-- The cluster in stage 5 whose table of groups, from 64 on, holds that entry for group 0; the group runs a collective or not. -/
def grouping (e : List Byte) (active : Bool) : State :=
  { upWith [(0x200010, 5), (0xA00010, 64)] with
    spm := ((List.range 64).map (· + 64)).zip e |>.filter fun p => p.2 != 0
    counters := [(7, 3)]
    cle := if active then [{ group := 0, entry := e, base := 0 }] else []
    descs := if active then [{ desc 5 (image [(0, [0x40])]) with phase := .running, engine := .coll { group := 0, seq := 1, sig := 0 } }] else [] }
theorem test_meets_GroupLoadAndUnload : (let s := grouping groupEntry false
     Canon s ∧ Admits s .steward .write 0xA00020 ∧ masterPriv s .steward = true ∧ bitOf 0 (regGet s 0xA00024) = false ∧
      OwnGood s (grpAddr s 0) 64 ∧ grpActive s 0 = none ∧ groupOk s (spmBytes s (offsetOf (grpAddr s 0)) 64) (ownId s) = true ∧
      groupOk up (List.replicate 64 0) 0 = false) ∧
    (grpActive (grouping groupEntry true) 0).isSome = true := by
  simp only [canon_iff, admits_iff, ownGood_iff]; decide +kernel

/-- The cluster in stage 5 with port 3 as given. -/
def ported (c : Port) : State := { upWith [(0x200010, 5)] with fep := { ports := [{}, {}, {}, c] } }
def pkt (type vc : Nat) : Packet := { type := type, vc := vc, dest := 0, src := 1, tag := 5 }
/-- The header flit of a packet with the number `seq` and its CRC, made wrong by `bad`. -/
def flitOf (seq bad : Nat) (k : Packet) : FlitIn :=
  let bs := packetHeader k
  { vc := k.vc, seq := BitVec.ofNat 12 seq, crc := crc32c (bs ++ toLe 2 seq) ^^^ BitVec.ofNat 32 bad, bytes := bs }
def sentFlit (seq resent : Nat) : SentFlit := { seq := seq, packet := pkt 0x10 1, index := 0, resent := resent }
theorem test_meets_LinkFlits : (∀ toAck ∈ [0, 30, 31], ∀ nak ∈ [true, false],
      let c : Port := { up := true, expect := 4095, toAck := toAck, nakSent := nak }
      live (ported c) = true ∧ (ported c).fep.ports[3]? = some c ∧
        (∀ p ∈ [(4095, 0), (4095, 1), (0, 0)], let f := flitOf p.1 p.2 (pkt 0x10 1)
          (crc32c (f.bytes ++ toLe 2 f.seq.toNat) = f.crc ∧ f.seq.toNat = c.expect) ↔ p = (4095, 0))) ∧
    (∀ vc ∈ [1, 2], let k := pkt 0x10 vc
      packetWhole (packetHeader k) = true ∧ typeOnChannel (packetRead (packetHeader k)) = (vc == 1) ∧ k.wf = true) ∧
    (let k := { pkt 0x02 0 with payload := List.replicate 33 7, type := 0x01 }
     packetWhole (packetHeader k) = false ∧ k.wf = true ∧ lenIsData k.type k.payload.length = true ∧
      packetRead (packetHeader k ++ k.payload) = { k with body := List.replicate 32 0 }) ∧
    (∀ resent ∈ [7, 8], let c : Port := { up := true, sent := [sentFlit 4095 resent, sentFlit 0 0] }
      Canon (ported c) ∧ (ported c).fep.mcast = [] ∧ (∀ g ∈ c.sent, g.packet.dest < mcastBase) ∧ c.resend = [] ∧
        c.sent[0]? = some (sentFlit 4095 resent) ∧ c.sent[1]? = some (sentFlit 0 0) ∧ (sentFlit 4095 resent).seq ≠ 0) := by
  simp only [canon_iff]; decide +kernel

theorem test_meets_LinksFallAndRise : ∀ on ∈ [true, false], let c : Port := { up := on, sent := [sentFlit 0 0] }
    Canon (ported c) ∧ live (ported c) = true ∧ (ported c).fep.ports[3]? = some c ∧ c.sent ≠ [] ∧ stage (ported c) ≠ 8 := by
  simp only [canon_iff]; decide +kernel

/-- A chip-memory channel with an outstanding request. -/
def outstanding (a : Access) : State := { up with cmp := { out := [{ ch := 7, tag := 4095, acc := a }] } }
theorem test_meets_ChipChannelAnswers : (∀ kind ∈ [AccKind.read, .write, .atomic],
      let s := outstanding { kind := kind, addr := chip + 124, len := 4 }
      (s.cmp.chans[7]?).isSome = true ∧ s.boot.por = false ∧ s.boot.warm = false ∧ live s = true ∧
        (List.replicate 128 (0 : Byte)).length = 128 ∧ (s.cmp.out.find? (fun o => o.ch == 7 && o.tag == 4095)).isSome = true) ∧
    ((ported { up := true }).fep.ports[3]?).any (·.up) = true := by decide +kernel

theorem test_meets_LoadDataReturns_answer : ∀ who ∈ [Who.load 0, .store 0], ∀ d ∈ [none, some (4, 0)],
    (threadAt (at1 up 0 { unacked := 1, deferred := d }) 0).isSome = true ∧ ({ kind := .read, addr := 0, len := 1, who } : Access).who = who := by
  decide +kernel

/-- The cluster with one packet that has arrived. -/
def arrived (k : Packet) : State :=
  { upWith [(0x200010, 5)] with fep := { inbox := [(3, k)] } }
/-- A protection table that denies everything. -/
def denying (s : State) : State := { s with regs := [(0x100040, 0), (0x200010, 5)] }
/-- What a request to the own scratchpad must meet to be served at once. -/
def servedB (s : State) (a : Access) : Bool :=
  mapRefusal s a == none && protCheck s a.src a.addr a.len a.kind == none && serving s && (ordAdd s a).isNone
/-- What a request that the protection table alone refuses must meet. -/
def deniedB (s : State) (a : Access) : Bool :=
  mapRefusal s a == none && (protCheck s a.src a.addr a.len a.kind).isSome && serving s
def requestPkt (type : Nat) (c : Bool) : Packet :=
  { pkt type 0 with addr := nearEnd 4, counted := c, counter := 4095, body := toLe 2 4, payload := toLe 4 9 }
theorem test_meets_RequestsAreServed : ∀ p ∈ [(0x01, AccKind.write), (0x02, .read), (0x03, .atomic)], ∀ c ∈ [true, false],
    let s := arrived (requestPkt p.1 c)
    let a := packetAccess s 3 (requestPkt p.1 c) p.2
    live s = true ∧ (3, requestPkt p.1 c) ∈ s.fep.inbox ∧ (requestPkt p.1 c).dest = ownId s ∧ servedB s a = true ∧
      OwnFree s a.addr a.len ∧ deniedB (denying s) a = true := by
  simp only [ownFree_iff]; decide +kernel
theorem test_meets_RequestsAreServed_count : let s := arrived { pkt 0x04 2 with counter := 4095, body := toLe 4 1 }
    serving s = true ∧ protCheck s 1 (ownAddr s (regBase + 0x908000 + 8 * 4095)) 8 .write = none := by decide +kernel
def agentMask : BitVec 128 := 0xF <<< 124
theorem test_meets_RequestsAreServed_agent : maskRuns agentMask 64 0 = [(124, 4)] ∧
    (∀ kind ∈ [AccKind.read, .write, .atomic], let s := upWith [(0x200010, 5)]
      let a : Access := { kind := kind, addr := ownAddr s (nearEnd 128) + 124, len := 4, src := 1, who := .agent 7 0 agentMask 0 }
      servedB s a = true ∧ OwnFree s a.addr a.len ∧ deniedB (denying s) a = true) := by
  simp only [ownFree_iff]; decide +kernel

/-- A store of thread 0 that awaits the answer of tag 5. -/
def request5 : FepReq :=
  { tag := 5, packet := { pkt 0x01 0 with dest := 1 }, acc := { kind := .write, addr := cluster1, len := 4, who := .store 0 }, port := 3, rcg := 0, since := 0 }
def requesting (k : Packet) (rs : List FepReq) : State :=
  { at1 (arrived k) 0 { unacked := 1 } with fep := { inbox := [(3, k)], reqs := rs } }
theorem test_meets_ResponsesEndRequests : (∀ type ∈ [0x10, 0x11, 0x12, 0x13, 0x14], ∀ rs ∈ [[], [request5]],
      let s := requesting (pkt type 1) rs
      Canon s ∧ live s = true ∧ (3, pkt type 1) ∈ s.fep.inbox ∧ (pkt type 1).dest = ownId s ∧ s.fep.unrouted = [] ∧
        (s.fep.reqs.find? (answers (pkt type 1)) = rs.head? ∨ rs ≠ [] ∧ type ∈ [0x11, 0x12, 0x14]) ∧ (threadAt s 0).isSome = true ∧
        rs.length ≤ 1 ∧ s.fep.echoes = []) ∧
    (∀ p ∈ [(0x11, 0x02), (0x12, 0x03), (0x14, 0x20)], let s := requesting (pkt p.1 1) [{ request5 with packet := { pkt p.2 0 with dest := 1 } }]
      (s.fep.reqs.find? (answers (pkt p.1 1))).isSome = true) ∧
    ({ pkt 0x10 1 with dest := 393215 } : Packet).dest ≠ ownId up ∧ 393215 < mcastBase := by
  simp only [canon_iff]; decide +kernel

/-- A request that waits for its gap, one that waits for its answer, a reservation, and a packet that has arrived. -/
def waiting (retryAt : Option Nat) (dest : Nat) : State :=
  { upWith [(0x200010, 5)] with
    fep := { reqs := [{ request5 with retryAt := retryAt, packet := { pkt 0x01 0 with dest := dest } }], resv := [(1, 2, 3, 4, 5)] } }
theorem test_meets_RatesAndRetries : (∀ dest ∈ [1, 393216], let s := waiting (some 7) dest
      Canon s ∧ live s = true ∧ (s.fep.reqs.find? (fun r => r.tag == 5)).any (fun r => r.retryAt == some 7) = true ∧
        routeLookup s dest = if dest = 1 then .entry [0] 0 0 else .invalid) ∧
    (let s := waiting none 1
     (s.fep.reqs.find? (fun r => r.tag == 5 && r.retryAt.isNone && isRequest r.packet)).isSome = true ∧ regGet s 0x900030 ≠ 0 ∧
      (∀ c ∈ s.fep.ports, c.queue = []) ∧ isRequest (pkt 0x20 3) = false ∧ s.fep.resv.find? (fun x => x.1 == 1) = some (1, 2, 3, 4, 5)) ∧
    (let k : Packet := { pkt 0x15 1 with body := toLe 4 1 }
     let s := arrived k
     bitOf 0 (regGet s 0x900040) = true ∧ routeLookup s (leNat k.body % 2 ^ 19) = .entry [0] 0 0 ∧ (bucketOf s 0).lastCut = none) ∧
    (let s := { up with fep := { buckets := [{ group := 1023, level := -1 }] } }
     (bucketNow s 1023).level < 0 ∧ 0 < rateOf s 1023 ∧ s.fep.ports = [{}, {}, {}, {}]) ∧
    (arrived (pkt 0x30 5)).fep.resv = [] := by
  simp only [canon_iff]; decide +kernel

/-- The cluster with one request at the bank of its word. -/
def banked (s : State) (a : Access) : State := { s with xbr := [{ bank := bankOf (offsetOf a.addr), acc := a }] }
/-- An access of the last eight bytes of near scratchpad. -/
def bankAcc (kind : AccKind) (counter : Option Nat) : Access :=
  { kind := kind, addr := nearEnd 8, len := 8, data := toLe 8 5, width := 1, counter := counter, who := .store 0 }
theorem test_meets_BanksServeInOrder : (∀ kind ∈ [AccKind.read, .write, .atomic], ∀ c ∈ [none, some 4095],
      let a := bankAcc kind c
      let s := banked up a
      live s = true ∧ (s.xbr.find? (fun r => r.bank == bankOf (nearEnd 8))).map (·.acc) = some a ∧ a.parts = [] ∧
        s.power.retained = [] ∧ s.power.waking = [] ∧ bankIsland (bankOf (nearEnd 8)) ∈ [84, 85, 86, 87, 88, 89] ∧
        ordOver s (nearEnd 8) 8 = none ∧ OwnPlain s a.addr a.len ∧ Apart s (nearEnd 8) a.len ∧ a.data.length = a.len ∧
        ordAdd s a = none ∧ refetchWait s a = none) ∧
    (let s := { upWith backed0 with descs := [{ desc 5 [] with holds := [0] }] }
     backOver s 0 8 = [0] ∧ 0 < holders s 0) ∧
    (let s := { up with spmBad := [0] }
     spmBadIn s 0 8 = some 0 ∧ backOf s 0 = none) ∧
    (let s := { upWith backed0 with spmBad := [0] }
     spmBadIn s 0 8 = some 0 ∧ backOf s 0 = some 0) ∧
    (let s := { upWith backed0 with refetch := [{ block := 0, word := 0, region := 0 }] }
     refetchWait s { bankAcc .write none with addr := 0 } = some 0 ∧ spmRefusal s { bankAcc .write none with addr := 0 } = none) := by
  simp only [ownPlain_iff, apart_iff]; decide +kernel

/-- A closed region of two elements with three sources, in FP32 or BF16: target at 0, slots from 128 on. -/
def closed (bf : Nat) : State :=
  { upWith [(0x903008, 2), (0x90300C, 128), (0x903010, BitVec.ofNat 32 (9 + 2 * bf + 16 * 3)), (0x903014, 7 + 8 * 65536)] with
    spm := [(2, 0x80), (3, 0x3F), (131, 0x40), (138, 0x20), (139, 0x4B), (146, 0x20), (147, 0xCB)]
    ord := [{ region := 0, base := 0, tags := [5, 9, 2] }] }
theorem test_meets_OrderedRegionsFold : ∀ bf ∈ [0, 1], let s := closed bf
    Canon s ∧ live s = true ∧ ordClosed s 0 = true ∧ (ordRound s 0).any (fun r => !r.folding) = true ∧ s.refetch = [] ∧ s.spmBad = [] ∧ (∀ d ∈ s.descs, d.disturbed = false) ∧
      backOver s (ordTarget s 0).1 (2 * (if bf = 1 then 2 else 4)) = [] ∧
      List.Perm [(2, 2), (0, 5), (1, 9)] ((List.range 3).zip [5, 9, 2]) := by
  simp only [canon_iff]; decide +kernel

/-- The cluster whose first block awaits its home copy, which has come or has failed. -/
def repairing (failed : Option Nat) : State :=
  { upWith backed0 with
    spmBad := [0, 4092]
    refetch := [{ block := 0, word := 0, region := 0, key := some 3, fresh := [(8, 4)], waiters := [{ bankAcc .read none with addr := 0 }] }]
    gathers := [{ key := 3, owner := 0, addr := chip, len := 4096, got := [(chip, 1), (chip + 4095, 2)], failed := failed }] }
theorem test_meets_RefetchesRepair : ∀ failed ∈ [none, some 8], let s := repairing failed
    Canon s ∧ live s = true ∧ (s.refetch.find? (fun r => r.block == 0 && r.key.isSome)).isSome = true ∧
      (s.gathers.find? (fun g => g.key == 3)).any (fun g => g.left == 0 && g.failed == failed) = true ∧
      4096 ≤ regGet s 0xC00010 % 2 ^ 27 / 64 * 64 ∧ s.inject = none ∧ (∀ d ∈ s.descs, d.waitBlock ≠ some 0) := by
  simp only [canon_iff]; decide +kernel

/-- An agent that is no listed source, and a cluster that serves it. -/
def agent9 : Master := .agent 9
def servingUp : State := upWith [(0x200010, 5)]
theorem test_meets_RegistersObeyTheirCodes : Canon servingUp ∧
    (∀ m ∈ [Master.steward, agent9], ∀ off ∈ [0x10, 0x100010, 0x900048, 0xC00044, 0xC00000, 0x200070, 0xC00014],
      Admits servingUp m .write off ∧ regDecode off = off ∧ (rowOf off).isSome = true ∧ specialOf off = .none ∧ indData? off = none ∧
        (openWrite servingUp off 3).isNone = true ∧ (lkWrite servingUp off 3).isNone = true ∧ unitAbsent servingUp off = false) ∧
    (∀ off ∈ [0x400100, 0xB00018, 0x800000, 0x300018, 0xB00034, backReg 63 4, ordReg 15 7, 0x900014], Admits servingUp .steward .write off) ∧
    lkAccepted servingUp true 0x300018 = true ∧ lkAccepted servingUp true 0xB00034 = true ∧ lkAccepted (upWith [(0xB00000, 1)]) true 0xB00034 = false ∧
    backValid (upWith [(backReg 63 5, 1)]) 63 = true ∧ ordArm (upWith [(ordReg 15 4, 1)]) 15 = true ∧
    ordClosed (upWith [(ordReg 15 4, 8)]) 15 = true ∧ activeBank servingUp = 0 := by
  simp only [canon_iff, admits_iff]; decide +kernel

theorem test_meets_ReadsOfRegisters : Canon servingUp ∧
    (∀ m ∈ [Master.steward, agent9], ∀ off ∈ [0x100044, 0xC00024, 0x908000, 0x908000 + 8 * 4095, 0x908004 + 8 * 4095, 0xB00050, 0xB00054, 0x100010],
      Admits servingUp m .read off) ∧
    (∀ off ∈ [0x100044, 0xC00024, 0x100010], (rowOf off).isSome = true ∧ off ∉ servingUp.cfgBad ∧ capturePair off = none ∧
      off - 4 ≠ 0xB00050 ∧ (off < 0x908004 ∨ 0x908004 + 8 * 4096 ≤ off) ∧ indData? off = none ∧ regDecode off = off) ∧
    (rowOf 0x100044).map (·.fields) = some (fld .rc) ∧ (rowOf 0x100010).any (fun r => r.fields.all (·.acc == .lk)) = true ∧
    masterPriv servingUp agent9 = false := by
  simp only [canon_iff, admits_iff]; decide +kernel

theorem test_meets_PrivilegeGuardsCommands :
    (∀ off ∈ [0x900200, 0x900020, 0xB00004, 0x700200, 0x20005C, 0x200060, 0x200090, 0xC00020, 0xC00048, 0x300030, 0xA00020],
      Admits servingUp agent9 .write off ∧ lkAccepted servingUp (masterPriv servingUp agent9) off = false) ∧
    servingUp.dre.cmd = none ∧ bitOf 0 (regGet servingUp 0xA00024) = false ∧
    (let s := upWith [(0xB00000, 1), (0x200010, 5)]
     lkAccepted s (masterPriv s .steward) 0xB00004 = false) := by
  simp only [admits_iff]; decide +kernel

/-- The cluster with an open entry of the error log, and one with a request in flight from the old epoch. -/
def withEntry : State :=
  { servingUp with errors := { opens := [{ index := 65535, cls := 2, delivered := true, resource := 0, addr := 0 }], nest := [65535] } }
def oldEpoch : State := { servingUp with fep := { reqs := [{ request5 with oldEpoch := true }] } }
theorem test_meets_RegisterCommandsAct : Canon servingUp ∧ masterPriv servingUp .steward = true ∧ masterPriv servingUp agent9 = false ∧
    (∀ off ∈ [0x900200, 0x900020, 0xC00020, 0xC00048, 0xC00030, 0xD00034], Admits servingUp .steward .write off) ∧
    (∀ off ∈ [0xD00034, 0xD00038], Admits servingUp .steward .read off) ∧
    bitOf 31 (regGet servingUp 0x900200) = false ∧ bitOf 0 (regGet servingUp 0x900020) = false ∧ oldInflight servingUp = 0 ∧
    routeBaseOk servingUp (1 - activeBank servingUp) = true ∧ oldInflight oldEpoch ≠ 0 ∧ withEntry.errors.nest.Nodup ∧
    (∃ e ∈ withEntry.errors.opens, e.index = 65535) ∧ bitOf 0 (regGet servingUp 0xC00048) = false ∧
    bitOf 0 (regGet servingUp 0xD00100) = false ∧
    (∀ p ∈ [(3, 2559), (6, 0), (3, 2560), (15, 0)], let s := upWith [(0xD00030, BitVec.ofNat 32 (4 * p.2 + p.1 * 2 ^ 20))]
      regBits s 0xD00030 19 2 = p.2 ∧ regBits s 0xD00030 23 20 = p.1 ∧ (p.2 < spaceWords p.1 ↔ p ∈ [(3, 2559), (6, 0)])) := by
  simp only [canon_iff, admits_iff]; decide +kernel

/-- The cluster whose ledgers allow Gale, or do not. -/
def galeable (credit10 heat4 tempQ : Nat) (alert : Bool) : State :=
  { servingUp with power := { credit10 := credit10, heat4 := heat4, tempQ := tempQ, alert := alert } }
theorem test_meets_PowerRequests : (∀ p ∈ [(40000000, 0, 0, false), (0, 0, 0, false), (40000000, 0, 4095, false), (40000000, 0, 0, true)],
      let s := galeable p.1 p.2.1 p.2.2.1 p.2.2.2
      Canon s ∧ Admits s .steward .write 0xB00010 ∧ Admits s agent9 .write 0xB00014 ∧ Admits s .steward .write 0xB00004 ∧
        lkAccepted s (masterPriv s .steward) 0xB00004 = true ∧
        ((credit s < 50000 ∨ budget s < heat s + 50000 ∨ s.power.alert = true ∨ regBits s 0xB00034 11 0 ≤ s.power.tempQ ∨ vMax s < 950) ↔
          p ≠ (40000000, 0, 0, false))) ∧
    galeTime { upWith [(0xB00010, 2)] with power := { vset := 950 } } = true ∧ galeTime servingUp = false := by
  simp only [canon_iff, admits_iff]; decide +kernel

/-- The cluster whose region 63 backs the first page from chip memory or from nowhere, and whose ordered region 15 may open. -/
def settingUp (home : Nat) (elems : Nat) : State :=
  { up with regs := [(0x200010, 5), (backReg 63 2, 1), (backReg 63 4, BitVec.ofNat 32 home), (ordReg 15 2, BitVec.ofNat 32 elems),
      (ordReg 15 3, 128), (ordReg 15 5, 65536), (ordReg 15 6, 1)].filter fun p => p.2 != 0 }
theorem test_meets_ScratchpadSetUp : (∀ p ∈ [(0x80000000, 1), (0, 0)], let s := settingUp p.1 p.2
      Canon s ∧ Admits s .steward .write 0x700200 ∧ masterPriv s .steward = true ∧ Admits s .steward .write (backReg 63 5) ∧
        Admits s .steward .write (ordReg 15 4) ∧ backValid s 63 = false ∧ ordArm s 15 = false ∧ ordClosed s 15 = false ∧
        (isChip (backHome s 63) = (p.2 == 1)) ∧ backSize s 63 ≠ 0 ∧ inSpm s (backBase s 63) (backSize s 63) = true ∧
        regBits s (ordReg 15 2) 20 0 = p.2) ∧
    (let s := settingUp 0 1
     (ordTarget s 15).1 = 0 ∧ regBits s (ordReg 15 3) 26 7 * 128 = 128 ∧ inSpm s 0 4 = true ∧ inNear s 128 (64 * 1 * 4) = true ∧
      overlap 0 4 128 (64 * 4) = false ∧ regBits s (ordReg 15 5) 11 0 ≠ regBits s (ordReg 15 5) 27 16) ∧
    inSpm up (nearEnd 4) 4 = true ∧ inSpm up (nearEnd 0) 4 = false := by
  simp only [canon_iff, admits_iff]; decide +kernel

/-- The cluster with some fuses blown, and a fuse operation under way or none. -/
def fusing (f : Fuses) (op : Option (Nat × Nat × BitVec 384)) : State := { servingUp with fuses := f, boot := { por := false, fuseOp := op } }
theorem test_meets_FuseOperations : (∀ f ∈ [({} : Fuses), { programmed := 8, svnBits := BitVec.allOnes 64 }], let s := fusing f none
      Canon s ∧ Admits s .steward .write 0x200090 ∧ lkAccepted s (masterPriv s .steward) 0x200090 = true ∧
        bitOf 31 (regGet s 0x200090) = false ∧ s.boot.fuseOp = none ∧ inNear s 0 48 = true ∧ spmBadIn s 0 48 = none ∧
        (svnFloor s.fuses < 64 ↔ f = {}) ∧ s.fuses.programmed.getLsbD 3 = (f != {})) ∧
    (∀ op ∈ [1, 2, 3], live (fusing {} (some (op, 3, 7))) = true) ∧
    (∀ f ∈ [({} : Fuses), { keys := [0, 0, 0, 8] }], let old := (f.keys[3]?).getD 0
      (old ||| 7 = (7 : BitVec 384) ↔ f = {})) := by
  simp only [canon_iff, admits_iff]; decide +kernel

/-- One period's telemetry: power, the current of island 5, and two sensors of which the second is valid. -/
def tel (power current tempQ : Nat) : Telemetry :=
  { power := power, rate := 0, sensors := [4095, BitVec.ofNat 32 (tempQ + 2 ^ 31)], islands := [(750, 1), (950, current)] }
/-- The cluster in Gale time. -/
def gale : State := { upWith [(0x200010, 5), (0xB00010, 2)] with power := { vset := 950, credit10 := 40000000 } }
theorem test_meets_PowerInTime : Canon gale ∧ live gale = true ∧ galeTime gale = true ∧ galeTime servingUp = false ∧
    hottest gale (tel 0 0 400).sensors = 400 ∧ (tel 0 0 400).sensors.any (fun w => bitOf 31 w.toNat) = true ∧
    (∀ v ∈ [servingUp], v.power.eff ≤ 1000 * max 160 (min 1200 (regBits v 0xB00014 15 0)) ∧ v.power.fixedVin = none ∧ v.power.avsSeen = false ∧
      hotCeiling v = false) ∧
    (∀ i ∈ [0, 63, 68, 83], servingUp.power.gated.contains i = false ∧ servingUp.power.waking.contains i = false ∧
      mayGate servingUp i = true) ∧
    bitOf 0 (regGet (upWith [(0x700000, 1)]) 0x700000) = true ∧ servingUp.xbr = [] ∧
    servingUp.power.waking.Nodup ∧ servingUp.power.retained.Nodup := by
  simp only [canon_iff]; decide +kernel

/-- The cluster whose error log has room for one more entry, or for none. -/
def logged (n : Nat) : State := upWith [(0x200010, 5), (0xC00014, BitVec.ofNat 32 n)]
theorem test_meets_ErrorsAndStops : (∀ n ∈ [255, 256], Canon (logged n) ∧ live (logged n) = true ∧
      (dist16 (logW (logged n)) (logR (logged n)) < 256 ↔ n = 255) ∧
      (let slot := regGet (logged n) 0xC00010 % 2 ^ 27 / 64 * 64 + 64 * (n % 256)
       heldOver (logged n) slot 64 = false ∧ ordOver (logged n) slot 64 = none ∧ refetching (logged n) slot 64 = none)) ∧
    (let s := { upWith ((0x701000, 0x5FBC000) :: backed0) with descs := [{ desc 5 [] with holds := [0] }] }
     regGet s 0xC00010 % 2 ^ 27 / 64 * 64 = 0x5FBC000 ∧ logW s = 0 ∧ heldOver s 0x5FBC000 64 = true) ∧
    (∀ t ∈ [0, 1], let s := { up with errors := { supp := [((0x0101, 0), (some 0, 3))] }, osc := 1000 * 1000 * t }
      suppOf s (0x0101, 0) = (some 0, 3) ∧ (s.osc < 0 + 1000 * regBits s 0xC00050 15 0 ↔ t = 0)) ∧
    (∀ v ∈ [none, some 750], ({ up with power := { fixedVin := v, avsSeen := true } } : State).power.fixedVin = v) ∧
    up.power.avsSeen = false ∧ up.cfgBad = [] ∧ up.power.gated = [] ∧ up.power.waking = [] ∧ up.power.retained = [] ∧
    bitOf 31 (regGet up 0xC00030) = false ∧ bitOf 31 (regGet (upWith [(0xC00030, 0x80000000)]) 0xC00030) = true ∧
    (∀ c ∈ [0x0101, 0x0301, 0xFFFF], errUnit { code := c, cls := 3, unit := 31 } < 32 ∨ c = 0xFFFF) ∧ suppOf up (0x0101, 0) = (none, 0) ∧
    regBits up 0xC00058 15 0 ≠ 0 ∧ regBits up 0xC00054 15 0 ≠ 0 ∧ up.power.pacing = false ∧ up.cmp.fatal = false ∧
    (rowOf 0x10).any (fun r => r.fields.any fun f => f.acc == .rw) = true ∧ stage up ≠ 7 := by
  simp only [canon_iff]; decide +kernel

/-- The cluster with its debug path open by CSU_DEBUG, by a fuse in recovery, or not. -/
def debugging : State := upWith [(0x200010, 5), (0x200080, 1)]
theorem test_meets_TestAccessPort : live debugging = true ∧ debugOpen debugging = true ∧ debugOpen up = false ∧
    debugOpen { upWith [(0x200010, 7)] with fuses := { recoveryDebug := true } } = true ∧
    mapRefusal debugging { kind := .write, addr := ownAddr debugging (regBase + 0xDFFFFC), len := 4, steward := true } = none ∧
    (∀ off ∈ [regBase - 4, regBase + 0xE00000, deepBase],
      mapRefusal debugging { kind := .write, addr := ownAddr debugging off, len := 4, steward := true } =
        (if off = deepBase then none else some 1) ∧ inNear debugging off 4 = false) ∧
    OwnFree debugging (nearEnd 4) 4 ∧ inNear debugging (nearEnd 4) 4 = true ∧ nearEnd 4 < regBase ∧
    ({ debugging with boot := { por := false, stopped := true } }).boot.stopped = true := by
  simp only [ownFree_iff]; decide +kernel

/-- A chain block whose last stage is a STORE in FP32 at 0x3000; under SPLIT a ROWSTAT and a NORMALIZE come first. -/
def storeChain (split : Bool) : List Byte :=
  let st (kind : Nat) : List Byte := toLe 1 kind ++ toLe 11 0 ++ toLe 4 8 ++ toLe 8 0x3000 ++ toLe 8 0
  padTo 320 (if split then toLe 1 3 ++ toLe 1 2 ++ toLe 1 0 ++ toLe 1 8 ++ toLe 36 0 ++ toLe 8 0x5000 ++ toLe 4 8 ++ toLe 12 0 ++
      st 0x16 ++ st 0x17 ++ st 0x19
    else toLe 1 1 ++ toLe 63 0 ++ st 0x19)
/-- A MATMUL of 2 by 2 by 2 in FP16 on array 3: A at 0x1000 and B at 0x2000. -/
def mxBytes (op : Nat) : List Byte :=
  image [(0, [BitVec.ofNat 8 op]), (33, [8]), (34, [1]), (35, [1]), (36, toLe 4 2), (40, toLe 4 (if op = 0x10 then 2 else 0)),
    (44, toLe 4 (if op = 0x10 then 2 else 0)), (48, toLe 8 0x1000 ++ toLe 8 0x2000), (80, toLe 4 4 ++ toLe 4 4), (112, toLe 8 0x4000)]
def mxDesc (op : Nat) (split : Bool) : Desc := { desc 5 (mxBytes op) with chain := storeChain split }
/-- The cluster with that descriptor ready, or running. -/
def mxReady (op : Nat) : State := { servingUp with descs := [mxDesc op false] }
def mxRun (op : Nat) (split : Bool) (r : MxRun) : State :=
  { servingUp with
    descs := [{ mxDesc op split with phase := .running, engine := .matrix r }]
    mxe := { modes := [0, 0, 0, 0] }
    spm := [(0x1001, 0x3C), (0x1003, 0x40), (0x2001, 0x3C), (0x2003, 0x3C), (0x2005, 0xC0)] }
theorem test_meets_MatrixDescriptorsRun_start : ∀ op ∈ [0x10, 0x11], let s := mxReady op
    let x := mxDesc op false
    Canon s ∧ live s = true ∧ descGet s 5 = some x ∧ x.phase = .ready ∧ x.free = true ∧ geoTiles (geoOf x) ≠ 0 ∧
      formList s (mxArrays x) (geoOf x).mode ≠ [] ∧ holdClash s x = false ∧ (∀ y ∈ s.descs, y.id ≠ 5 → mayStart s y = false) ∧
      s.power.gated = [] ∧ s.power.waking = [] ∧ admitted s = true ∧ s.par.arrays ≤ s.mxe.modes.length := by
  simp only [canon_iff]; decide +kernel
theorem test_meets_MatrixDescriptorsRun_end : ∀ op ∈ [0x10, 0x11], let s := mxRun op false { mode := 0, parts := [(3, 0)], drained := [0] }
    (descGet s 5).any (fun x => x.phase == .running && x.unacked == 0 && chPolicy x.chain == 0 && x.clobbered == [] && !x.disturbed &&
      ((match x.engine with | .matrix r => some r | _ => none) : Option MxRun).any (fun (r : MxRun) => r.drained.length == geoTiles (geoOf x) && r.passes == [] && r.stops == [])) = true := by decide +kernel
/-- The plane of that descriptor, as a load brings it, and the state in which it is kept from a descriptor before. -/
def mxPlane : Plane :=
  let x := mxDesc 0x10 false
  let g := geoOf x
  { planeOf x g (3, 0) 0 0 with cells := cellsOf (heldByte (mxRun 0x10 false { mode := 0, parts := [(3, 0)] }) 5) (planeReads x g 0 0) }
def mxKept (on : Bool) : State :=
  let s := mxRun 0x10 false { mode := 0, parts := [(3, 0)] }
  { s with mxe := { s.mxe with planes := if on then [{ mxPlane with owner := 1, retained := true, active := false }] else [] } }
theorem test_meets_MatrixDescriptorsRun_load : ∀ on ∈ [true, false], let s := mxKept on
    let r : MxRun := { mode := 0, parts := [(3, 0)] }
    let x := mxDesc 0x10 false
    let g := geoOf x
    Canon s ∧ curTile g r 0 = some 0 ∧ streamedOf r 0 < g.tr ∧ partTurn s r (3, 0) = true ∧ cellsBad s g.mode (3, 0) = false ∧
      gatherReads x g 0 = [] ∧ gatherBad (heldByte s 5) x g 0 = none ∧
      (planeKept s x g (planeOf x g (3, 0) 0 0)).isSome = on ∧ (∀ p ∈ planeReads x g 0 0, p.2 = 0 ∨ OwnGood s p.1 p.2) ∧
      ∀ p ∈ passReads x g (streamRow (heldByte s 5) x) 0 (planeSpan g 0 0) true, p.2 = 0 ∨ OwnGood s p.1 p.2 := by
  simp only [canon_iff, ownGood_iff]; decide +kernel

def drainRun : MxRun := { mode := 0, parts := [(3, 0)], streamed := [(0, 1)] }
/-- A running descriptor whose one tile has been summed. -/
def mxSummed : State :=
  let s := mxRun 0x10 false drainRun
  let x := mxDesc 0x10 false
  let g := geoOf x
  accPut s x (3, 0) 0 (accStream (heldByte s 5) (planeByte mxPlane) x g 0 (planeSpan g 0 0) (accOpen (heldByte s 5) x g 0))
theorem test_meets_MatrixDescriptorsRun_drain : let s := mxSummed
    let x := (descGet s 5).getD (desc 0 [])
    let g := geoOf x
    Canon s ∧ x.phase = .running ∧ x.engine = .matrix drainRun ∧ curTile g drainRun 0 = some 0 ∧ streamedOf drainRun 0 = g.tr ∧
      partTurn s drainRun (3, 0) = true ∧ chPolicy x.chain = 0 ∧ chHas x.chain 0x16 = false ∧
      ((chStages x.chain).filter (fun t => isTerminal t.kind)).map (fun t => (t.kind, t.fmt, t.addr, t.stride)) = [(0x19, 0, 0x3000, 8)] ∧
      fmtPlain (fmtAt 0) = true ∧ descTrap x = false ∧ x.clobbered = [] ∧ x.disturbed = false ∧ s.inject = none ∧
      cellsBad s g.mode (3, 0) = false ∧ (accAt s (heldByte s 5) x g (3, 0) 0).1.length = 2 ∧
      (∀ p ∈ tileReads x g 0 true, p.2 = 0 ∨ OwnGood s p.1 p.2) ∧ OwnClear s 0x3000 8 ∧ OwnClear s 0x3008 8 ∧ tileRow g 0 = (0, 2) ∧
      tileColAt x g 8 0 = (0, 2) := by
  simp only [canon_iff, ownGood_iff, ownClear_iff]; decide +kernel
/-- The same descriptor under SPLIT, its one row group waiting for its vector pass, or in it on unit 3. -/
def splitRun (unit : Option Nat) : State := mxRun 0x10 true { mode := 0, parts := [(3, 0)], passes := [{ group := 0, unit := unit }] }
theorem test_meets_MatrixDescriptorsRun_split : ∀ unit ∈ [none, some 3], let s := splitRun unit
    let x := (descGet s 5).getD (desc 0 [])
    Canon s ∧ live s = true ∧ x.phase = .running ∧ (∀ y ∈ s.descs, y.id ≠ 5 → wantsUnit s y 3 = false) ∧ s.power.gated = [] ∧ admitted s = true ∧
      (unit = none → (List.range s.par.vectorUnits).filter (fun v => bitOf v (chSplitVu x.chain) && !unitBusy s v) = [3]) ∧
      descTrap x = false ∧ x.clobbered = [] ∧ (∀ p ∈ postReads x (geoOf x) 0, p.2 = 0 ∨ OwnGood s p.1 p.2) ∧
      (∀ j ∈ groupRows (geoOf x) 0,
        spmBadIn s (offsetOf (chSplitAddr x.chain) + j * chSplitStride x.chain) (statCols x (geoOf x) * statWidth x) = none) := by
  simp only [canon_iff, ownGood_iff]; decide +kernel

/-- A chain block of one BUFFER over four FP32 elements, filled from 0x1000 and written back to 0x3000. -/
def bufferChain : List Byte :=
  let xfer (addr voc back : Nat) : List Byte := toLe 8 addr ++ toLe 4 16 ++ toLe 4 voc ++ toLe 4 16 ++ toLe 2 1 ++ toLe 1 back ++ toLe 9 0
  padTo 448 (padTo 320 (toLe 1 1 ++ toLe 1 2 ++ toLe 6 0 ++ toLe 2 1 ++ toLe 54 0 ++ toLe 1 0x0D ++ toLe 23 0 ++ toLe 4 0x100 ++ toLe 4 0)
    ++ xfer 0x1000 0 0 ++ xfer 0x3000 0x100 1)
def vxDesc : Desc := { desc 5 (image [(0, [0x20]), (32, [8]), (36, toLe 4 4), (40, toLe 8 0x4000)]) with chain := bufferChain }
def vxReady : State := { servingUp with descs := [vxDesc] }
def vxRunning (r : VxRun) (runs : Nat) (ph : Phase) : State :=
  { servingUp with
    descs := [{ vxDesc with phase := ph, engine := .vector r, runs := runs }]
    spm := [(0x1003, 0x3F), (0x1007, 0x40), (0x100B, 0xC1), (0x100F, 0x7F)]
    voc := [(786435, 0x3F), (786439, 0x40), (786443, 0xC1), (786691, 0x3F)] }
theorem test_meets_VectorChainsRun : (let s := vxReady
     Canon s ∧ live s = true ∧ descGet s 5 = some vxDesc ∧ dop vxDesc = 0x20 ∧ vxCount vxDesc ≠ 0 ∧ vxSweeps vxDesc ≠ [] ∧
      (vxUnits s vxDesc).filter (vxAvailable s vxDesc) = [3] ∧
      (∀ y ∈ s.descs, y.id ≠ 5 → mayStart s y = false ∧ ∀ w ∈ [3], wantsUnit s y w = false) ∧ admitted s = true) ∧
    (∀ sweeps ∈ [0, 1], let s := vxRunning { unit := 3, filled := sweeps == 1, sweeps := sweeps } 0 .running
     Canon s ∧ (vcFills bufferChain).map (fun f => (f.addr, f.bytes, f.rows)) = [(0x1000, 16, 1)] ∧ OwnGood s 0x1000 16 ∧
      (vcBacks bufferChain).map (fun f => (f.addr, f.bytes, f.rows, f.voc)) = [(0x3000, 16, 1, 0x100)] ∧ OwnClear s 0x3000 16 ∧ vxDesc.clobbered = [] ∧
      (vxSweeps vxDesc).length = 1 ∧ vocBadIn s 3 [(0x100, 16)] = none ∧ s.inject = none ∧ sweepTurn s vxDesc 3 0 = true ∧ fillTurn s vxDesc 3 0 = true ∧
      descTrap vxDesc = false ∧
      vocBadIn s 3 (inputReads vxDesc ++ (((vxSweeps vxDesc).headD []).map stepReads).flatten) = none) ∧
    (∀ runs ∈ [3, 4], (descGet (vxRunning { unit := 3 } runs .replaying) 5).any (fun x => x.phase == .replaying && x.unacked == 0 &&
      x.waitBlock == none && x.runs == runs && !x.disturbed) = true) := by
  simp only [canon_iff, ownGood_iff, ownClear_iff]; decide +kernel

/-- A MOVE of one row of 16 bytes from 0x1000 to 0x2000: plain, gather or scatter. -/
def mvDesc (kind : Nat) : Desc := desc 5 (moveBytes kind 0 16 1 0x2000 0x1000)
def moving (kind : Nat) (index : List (Nat × Byte)) (bad : List Nat) : State :=
  { upWith (backed0 ++ [(0x800000, 4)]) with descs := [mvDesc kind], spm := (0x1000, 7) :: index, spmBad := bad }
def mvRunning (unacked : Nat) : State :=
  { up with descs := [{ mvDesc 0 with phase := .running, engine := .move { row := 1 }, unacked := unacked }] }
theorem test_meets_MovesRun : (let s := moving 0 [] []
     Canon s ∧ live s = true ∧ mvRows (mvDesc 0) = 1 ∧ mvRowBytes (mvDesc 0) = 16 ∧ 0 < regBits s 0x800000 4 0 ∧
      mvKind (mvDesc 0) = 0 ∧ OwnGood s 0x1000 16 ∧ pieceLen s (mvDesc 0) 0x1000 0x2000 0 = 16 ∧
      isOwn s 0x2000 = true ∧ inSpm s (offsetOf 0x2000) 16 = true) ∧
    (let s := { up with spm := [(0x1000, 7)], spmBad := [0x1000], descs := [mvDesc 0] }
     Quiet s 0x1000 16 ∧ ordOver s 0x1000 16 = none ∧ pieceLen s (mvDesc 0) 0x1000 0x2000 0 = 16 ∧
      (spmBadIn s (offsetOf 0x1000) 16).isSome = true ∧ (spmBadIn s (offsetOf 0x1000) 16).all (fun w => backOf s w == none) = true) ∧
    (∀ kind ∈ [1, 2], let s := moving kind [(4096, 1)] []
     mvKind (mvDesc kind) = kind ∧ mvIndex (mvDesc kind) = 4096 ∧ OwnGood s 4096 4 ∧
      mvLimit (mvDesc kind) ≤ leNat (spmBytes s (offsetOf 4096) 4)) ∧
    (∀ unacked ∈ [0, 1], (descGet (mvRunning unacked) 5).any (fun x => x.phase == .running && x.unacked == unacked && !x.disturbed &&
      (mvRows x == 1) && x.engine == .move { row := 1 }) = true) := by
  simp only [canon_iff, ownGood_iff, quiet_iff]; decide +kernel

/-- A group of two members, of which this cluster is member 0 and cluster 1 is member 1. -/
def pairEntry : List Byte :=
  toLe 4 2 ++ toLe 4 0 ++ toLe 10 (2 + 2 ^ 16 + 2 ^ 32 + 2 ^ 48 + 2 ^ 64) ++ toLe 26 0 ++ toLe 2 7 ++ toLe 2 8 ++ toLe 8 0x1000 ++ toLe 8 0x2000
/-- An INT32 all-reduction of four elements on that group with sequence number 5. -/
def clDesc (ph : Phase) (e : Engine) : Desc :=
  { desc 5 (image [(0, [0x40]), (32, [0]), (35, [4]), (40, toLe 8 4), (56, toLe 8 5 ++ toLe 8 0x3000 ++ toLe 8 0x3100)]) with
    phase := ph, engine := e, aux := pairEntry ++ toLe 4 0 ++ toLe 4 0 ++ toLe 4 1 ++ toLe 4 1 }
def clRunOf : ClRun := { group := 0, seq := 5, sig := clSignature (clDesc .ready .none), phase := 1 }
/-- The cluster with the group loaded, that collective ready or running, and one packet that has arrived. -/
def colling (ready : Bool) (k : Packet) : State :=
  { arrived k with
    cle := [{ group := 0, entry := pairEntry, base := 0 }]
    descs := [if ready then clDesc .ready .none else clDesc .running (.coll clRunOf)] }
def clPkt (type : Nat) (seq : Dword) (b : CollBody) : Packet :=
  { type := type, vc := 3, dest := 0, src := 1, tag := 5, collSeq := seq, coll := b, payload := [1, 2, 3, 4]
    body := toLe 8 0 ++ toLe 8 seq.toNat ++ toLe 8 (if type = 5 then clRunOf.sig.toNat else 0) ++ toLe 8 0, addr := 0x100 }
theorem test_meets_CollectivesRun_descriptor : (let s := colling true (clPkt 0x20 5 .none)
     Canon s ∧ live s = true ∧ dop (clDesc .ready .none) = 0x40 ∧ grpHolder s 0 = none ∧ (grpGet s 0).isSome = true ∧ clActive s = 0 ∧
      (clDesc .ready .none).free = true ∧ clGroup (clDesc .ready .none) = 0 ∧ (∀ y ∈ s.descs, y.id ≠ 5 → mayStart s y = false)) ∧
    (let s := colling false (clPkt 0x20 5 .none)
     Canon s ∧ live s = true ∧ regGet s 0xA0001C ≠ 0 ∧ (clDesc .running (.coll clRunOf)).disturbed = false) := by
  simp only [canon_iff]; decide +kernel
theorem test_meets_CollectivesRun_packet : ∀ type ∈ [0x20, 0x21],
    ∀ b ∈ [CollBody.signature clRunOf.sig, .credit 3, .chunk 0 clRunOf.sig],
    ∀ p ∈ [(5, Sorted.active 5), (6, .next), (4, .stale), (7, .refuse)], let k := clPkt type (BitVec.ofNat 64 p.1) b
    let s := colling false k
    let x := clDesc .running (.coll clRunOf)
    Canon s ∧ live s = true ∧ (3, k) ∈ s.fep.inbox ∧ k.dest = ownId s ∧ (grpGet s k.collGroup).any (fun g => clSort s g k == p.2) = true ∧
      descGet s 5 = some x ∧ s.fep.resv = [] ∧ treeParts (clEntry x) (clIndex x) = [(1, 0)] ∧ clMember x k.src = some 1 := by
  simp only [canon_iff]; decide +kernel
/-- What is still to be heard when something arrives: a signature from member 1 leaves nothing in a group of two. -/
def tripleEntry : List Byte :=
  toLe 4 3 ++ toLe 4 0 ++ toLe 10 (3 + 2 ^ 16 + 2 ^ 32 + 2 ^ 48 + 2 ^ 64) ++ toLe 26 0 ++ toLe 2 7 ++ toLe 2 16 ++ toLe 8 0x1000 ++ toLe 8 0x2000
theorem test_meets_CollectivesRun_heard :
    (∃ p ∈ treeParts (clEntry (clDesc .ready .none)) (clIndex (clDesc .ready .none)), p.1 ∉ clRunOf.heard.map (·.1)) ∧
    (let x := { clDesc .ready .none with aux := tripleEntry ++ toLe 4 1 ++ toLe 4 1 ++ toLe 4 2 ++ toLe 4 2 }
     ∃ p ∈ treeParts (clEntry x) (clIndex x), p.1 ∉ 1 :: clRunOf.heard.map (·.1)) := by decide +kernel
theorem test_meets_CollectivesRun_write : ∀ p ∈ [(5, Sorted.active 5), (4, .stale)], let k := clPkt 5 (BitVec.ofNat 64 p.1) .none
    let s := colling false k
    let a := packetAccess s 3 k .write
    Canon s ∧ live s = true ∧ (3, k) ∈ s.fep.inbox ∧ k.dest = ownId s ∧ (grpGet s 0).any (fun g => clSort s g k == p.2) = true ∧
      bitsOf 11 0 (fieldAt k.body 0 2) = 0 ∧ grpGet { s with cle := [] } 0 = none ∧
      clOp (clDesc .running .none) ≠ 5 ∧ fieldAt k.body 16 8 = clRunOf.sig.toNat ∧ servedB s a = true ∧ OwnFree s a.addr a.len ∧
      (∀ e ∈ s.descs, e.disturbed = false) ∧ offsetOf (ownAddr s k.addr) + a.len ≤ 0x4000 ∧
      regGet s 0xC00010 % 2 ^ 27 / 64 * 64 + 16384 ≤ 2 ^ 27 := by
  simp only [canon_iff, ownFree_iff]; decide +kernel
/-- The same where level 0 reduces in a switch, whose identifier for unit 0 is 0x100, and what that switch sends. -/
def switchDesc : Desc :=
  let entry := toLe 4 2 ++ toLe 4 0 ++ toLe 10 (2 + 2 ^ 16 + 2 ^ 32 + 2 ^ 48 + 2 ^ 64) ++ toLe 26 (1 + 2 ^ 16 * 0x100) ++ (pairEntry.drop 44)
  { clDesc .running (.coll clRunOf) with aux := entry ++ toLe 4 0 ++ toLe 4 0 ++ toLe 4 1 ++ toLe 4 1 }
def switchPkt (type : Nat) : Packet := { clPkt type 5 (.chunk 0 clRunOf.sig) with src := 0x100 }
/-- An ALLTOALL with slots of 16 bytes, and data of member 1 for the end of its slot or with no place in it. -/
def allDesc : Desc :=
  { desc 5 (image [(0, [0x40]), (34, [5, 0]), (40, toLe 8 4), (52, toLe 4 16 ++ toLe 8 5 ++ toLe 8 0x3000 ++ toLe 8 0x3100)]) with
    phase := .running, aux := pairEntry ++ toLe 4 0 ++ toLe 4 0 ++ toLe 4 1 ++ toLe 4 1 }
def allRun : ClRun := { group := 0, seq := 5, sig := clSignature allDesc, phase := 1, received := [(1, 3)] }
def allPkt (addr : Nat) : Packet :=
  { clPkt 5 5 .none with body := toLe 8 0 ++ toLe 8 5 ++ toLe 8 allRun.sig.toNat ++ toLe 4 1 ++ toLe 4 0, addr := addr }
def allState (addr : Nat) : State :=
  { colling false (allPkt addr) with descs := [{ allDesc with engine := .coll allRun }] }
theorem test_meets_CollectivesRun_switch : (∀ type ∈ [0x20, 0x21], let k := switchPkt type
      let s := { colling false k with descs := [switchDesc] }
      (grpGet s 0).any (fun g => clSort s g k == .active 5) = true ∧ k.ordered = false ∧ switchDesc.disturbed = false ∧
        (rootLevels (clEntry switchDesc) (clIndex switchDesc)).find?
          (fun l => grpSwitch (clEntry switchDesc) l && k.src == switchId (clEntry switchDesc) (clIndex switchDesc) l) = some 0) ∧
    (let x := clDesc .running (.coll clRunOf)
     (rootLevels (clEntry x) (clIndex x)).any (fun l => grpSwitch (clEntry x) l && 1 == switchId (clEntry x) (clIndex x) l) = false) := by
  decide +kernel
theorem test_meets_CollectivesRun_slots : (∀ p ∈ [(0x311C, 0x311C), (0, 0x3113), (0x311D, 0x3113)], let s := allState p.1
      let k := allPkt p.1
      let a := { packetAccess s 3 k .write with addr := ownAddr s (clSlotPlace allDesc allRun k) }
      (grpGet s 0).any (fun g => clSort s g k == .active 5) = true ∧ clOp allDesc = 5 ∧ serving s = true ∧
        clSlotPlace allDesc allRun k = p.2 ∧ servedB s a = true ∧ OwnFree s a.addr a.len ∧
        bitOf 4 (fieldAt k.body 2 1) = false ∧ allRun.slots = [] ∧ fieldAt k.body 16 8 = allRun.sig.toNat ∧
        (∃ q ∈ treeParts (clEntry allDesc) (clIndex allDesc), q.1 ∉ allRun.heard.map (·.1))) ∧
    serving (upWith [(0x200010, 1)]) = false ∧ serving servingUp = true := by
  simp only [ownFree_iff]; decide +kernel

theorem test_meets_StepRunsTheFront : let s : State := { up with pending := [.nopInstr 0, .trstN] }
    s.pending = .nopInstr 0 :: [.trstN] ∧ up.pending = [] := by decide +kernel
-- an empty queue, and one with a command at its front
theorem test_meets_InvariantKept : ∀ s ∈ [up, { up with pending := [.trstN] }],
    canonB s = true ∧ s.groups.length = 32 ∧ s.gens.length = 8 ∧ s.fep.ports.length = 4 ∧ s.cmp.chans.length = 8 ∧
      (match step s with
        | .next _ => true
        | _ => false) = true := by decide +kernel
theorem test_meets_CountersTakeEveryAdvance : Canon { up with counters := [(4095, 7)] } ∧ up.boot.por = false ∧
    counterGet (([(4095, 2 ^ 64 - 1), (0, 5), (4095, 1)] : List (Nat × Nat)).foldl (fun s p => counterAdvance s p.1 p.2)
      { up with counters := [(4095, 7)] }) 4095 = 7 := by
  simp only [canon_iff]; decide +kernel
/-- A stopped cluster, with work that a running one would do. -/
def stopped : State := { mxReady 0x10 with boot := { up.boot with stopped := true } }
theorem test_meets_StoppedClusterKeeps : stopped.boot.stopped = true ∧ stopped.boot.por = false ∧ stopped.boot.warm = false ∧
    ∀ c ∈ [Instr.matmul 5, .addOp 0, .descriptorFetch, .registerWrite .steward 0x200010 0],
      (match exec c stopped with
        | .next u => decide (u = stopped)
        | _ => false) = true := by decide +kernel

theorem test_meets_CommandsKeepTheRest : ∀ c ∈ [Instr.fuseProgrammingEnd true, .poresetN, .addOp 0, .registerWrite .steward 0x200010 0],
    (match exec c up with
      | .next _ => true
      | _ => false) = true := by decide +kernel

/-! The checks of WellFormed: each accepts the last value of its range and refuses the first beyond it. -/

theorem test_wf_threads : ∀ c ∈ ([.nopInstr, .exitThread, .fret, .brk, .addOp, .subOp, .andOp, .orOp, .xorOp, .shl, .shr, .sra, .mulOp, .mulh,
      .mulhu, .minOp, .maxOp, .minu, .maxu, .jalr, .addi, .andi, .ori, .xori, .shli, .shri, .srai, .li, .uins, .peq,
      .pne, .plt, .pltu, .pge, .pgeu, .pand, .por, .pxor, .br, .jal, .ldB, .ldH, .ldW, .ldD, .ldsB, .ldsH, .ldsW,
      .loadData, .stB, .stH, .stW, .stD, .sysr, .sysw, .tzero, .tload, .tstore, .tget, .tput, .twait, .tcfg, .tcfgm,
      .tmma, .tbind, .tfree, .eissue, .ewait, .etest, .mcopy, .cwait, .cwaitLimit, .fenceR, .acq, .acqAll, .gbar,
      .stC, .amoAdd, .amoMin, .amoMax, .amoMinu, .amoMaxu, .amoSwp, .amoCas, .famoAddF32, .famoAddBf16, .cbar, .cred,
      .illegal, .pcRange] : List (Nat → Instr)),
    WellFormed (c 127) = true ∧ WellFormed (c 128) = false := by decide +kernel
theorem test_wf_groups : (∀ c ∈ ([.suspendDone, .launchComplete, .launchEnd, .tileQueue] : List (Nat → Instr)), WellFormed (c 31) = true ∧ WellFormed (c 32) = false) ∧
    ∀ c ∈ ([.suspendGroup, .resumeGroup, .abortLaunch] : List (Master → Nat → Instr)), WellFormed (c .steward 31) = true ∧ WellFormed (c .steward 32) = false := by
  decide +kernel
theorem test_wf_packets : ∀ c ∈ ([.writePkt, .readPkt, .atomicPkt, .count, .collWrite, .ack, .readData, .atomicData, .refused, .retry, .congEcho,
      .collData, .collCtl, .mgmt] : List (Nat → Packet → Instr)),
    WellFormed (c 3 (pkt 255 7)) = true ∧ WellFormed (c 4 (pkt 255 7)) = false ∧ WellFormed (c 3 (pkt 255 8)) = false := by decide +kernel
theorem test_wf_packet : Packet.wf (pkt 255 7) = true ∧ ∀ k ∈ [pkt 256 7, pkt 255 8, { pkt 0 0 with dest := 2 ^ 19 }, { pkt 0 0 with src := 2 ^ 19 },
    { pkt 0 0 with path := 256 }, { pkt 0 0 with age := 256 }, { pkt 0 0 with tag := 8192 }, { pkt 0 0 with addr := 2 ^ 40 },
    { pkt 0 0 with counter := 4096 }, { pkt 0 0 with status := 65536 }, { pkt 0 0 with body := List.replicate 33 0 },
    { pkt 0 0 with payload := List.replicate 4097 0 }, { pkt 0 0 with atop := 16 }, { pkt 0 0 with awid := 4 }], Packet.wf k = false := by
  decide +kernel
theorem test_wf_registers : (∀ c ∈ ([.ringEnable, .ringDisable, .ringResume, .ringFlush] : List (Master → Nat → Instr)),
      WellFormed (c .debug (2 ^ 18 - 1)) = true ∧ WellFormed (c .debug (2 ^ 18)) = false) ∧
    (∀ c ∈ ([.loadGroup, .unloadGroup] : List (Master → Nat → Instr)), WellFormed (c .debug 4095) = true ∧ WellFormed (c .debug 4096) = false) ∧
    (∀ c ∈ ([.programSlot, .revokeSlot] : List (Master → Nat → Instr)), WellFormed (c .debug 3) = true ∧ WellFormed (c .debug 4) = false) ∧
    ∀ o ∈ [0xDFFFFC, 0xE00000, 2], ∀ c ∈ [Instr.registerWrite .steward o 0, .readClear .steward o, .capture .steward o],
      WellFormed c = (o == 0xDFFFFC) := by decide +kernel
theorem test_wf_islands : ∀ c ∈ ([fun n => .supplyFault (.island n), .islandGate, .retention, .islandWake, fun n => .handshakeStall ⟨n, 0⟩,
    fun n => .handshakeStall ⟨0, n⟩] : List (Nat → Instr)), WellFormed (c 99) = true ∧ WellFormed (c 100) = false := by
  decide +kernel
theorem test_wf_links : (∀ p ∈ [3, 4], ∀ c ∈ [Instr.linkUp p, .linkDown p, .linkAck p ⟨4095, true⟩, .nak p ⟨4095, true⟩, .flitCredit p ⟨5, true⟩, .linkAckTimer p,
      .portFailed p, .flit p (flitOf 0 0 (pkt 0x10 1))], WellFormed c = (p == 3)) ∧
    ∀ c ∈ [Instr.linkAck 3 ⟨4096, true⟩, .nak 3 ⟨4096, true⟩, .flitCredit 3 ⟨6, true⟩, .flit 3 { flitOf 0 0 (pkt 0x10 1) with vc := 6 },
      .flit 3 { flitOf 0 0 (pkt 0x10 1) with bytes := [] }, .flit 3 { flitOf 0 0 (pkt 0x10 1) with bytes := List.replicate 320 0 },
      .flit 3 { flitOf 0 0 (pkt 0x10 1) with bytes := [0] }],
      WellFormed c = false := by decide +kernel
theorem test_wf_channels : (∀ p ∈ [(7, 4095), (8, 4095), (7, 4096)], let m : CmpReq := { addr := 2 ^ 40 - 128, src := 0, be := 0 }
      ∀ c ∈ [Instr.cmpRead p.1 p.2 m, .cmpWrite p.1 p.2 m, .cmpAtomic p.1 p.2 m, .cmpReadData p.1 p.2 .ok [], .cmpAck p.1 p.2 .ok,
        .cmpAtomicData p.1 p.2 .ok []], WellFormed c = (p.1 == 7 && p.2 == 4095)) ∧
    (∀ m ∈ ([{ addr := 2 ^ 40, src := 0, be := 0 }, { addr := 64, src := 0, be := 0 }, { addr := 0, src := 0, be := 0, data := [0] },
        { addr := 0, src := 0, be := 0, atop := 16 }, { addr := 0, src := 0, be := 0, awid := 4 }] : List CmpReq),
      WellFormed (.cmpRead 0 0 m) = false) ∧
    WellFormed (.cmpReadData 0 0 .ok [0]) = false ∧ WellFormed (.cmpAtomicData 0 0 .ok [0]) = false ∧ WellFormed (.cmpCredit ⟨8, true⟩ true true) = false := by
  decide +kernel
theorem test_wf_rest : ∀ c ∈ [Instr.supplyFault (.island 100), .vinReady 4096, .bypass ⟨0x01, []⟩, .bypass ⟨0x10, []⟩, .bypass ⟨0x20, []⟩, .retrySend 8192, .rspTimeout 8192,
    .reservationLapse 2, .rateRaise 1024, .tokenBucketRefill 1024, .bankAccess 576, .fold 16, .refetch 1, .refetch (2 ^ 40), .ageLimit (2 ^ 18),
    .planeLoad 0 16, .counterClear .steward 4096, .backValid .steward 64 1, .orderedArm .steward 16 1, .abandon .steward 16 0,
    .errDone .steward 65536, .indData .steward 4 none, .indDataNoinc .steward 4 none, .fixedVin 4096, .bundleAck 12,
    .controlPeriod { power := 0, rate := 0, sensors := List.replicate 25 0 }], WellFormed c = false := by decide +kernel

/-! A bank whose image passes.  The digest and signature functions are the model's opaque constants (assumption 10), so
that a signature verifies and a key's hash is not zero can only be supposed. -/

theorem fieldAt_app_left {a b : List Byte} {o n : Nat} (h : o + n ≤ a.length) : fieldAt (a ++ b) o n = fieldAt a o n := by
  unfold fieldAt
  rw [List.drop_append_of_le_length (by omega), List.take_append_of_le_length (by simp; omega)]
theorem fieldAt_app_right {a b : List Byte} {o n : Nat} (h : a.length ≤ o) : fieldAt (a ++ b) o n = fieldAt b (o - a.length) n := by
  unfold fieldAt
  rw [show o = a.length + (o - a.length) by omega, List.drop_length_add_append]; simp
/-- Zero bytes. -/
def zeros (n : Nat) : List Byte := List.replicate n 0
theorem zeros_length (n : Nat) : (zeros n).length = n := List.length_replicate
theorem zeros_drop (m n : Nat) : (zeros n).drop m = zeros (n - m) := List.drop_replicate
theorem zeros_take (m n : Nat) : (zeros n).take m = zeros (min m n) := List.take_replicate
theorem leNat_zeros (n : Nat) : leNat (zeros n) = 0 := by
  induction n with
  | zero => rfl
  | succ n ih => exact (congrArg (fun x => 0 + 256 * x) ih)
theorem fieldAt_zeros (m o n : Nat) : fieldAt (zeros m) o n = 0 := by
  rw [fieldAt, zeros_drop, zeros_take, leNat_zeros]
theorem toLe_length (n v : Nat) : (toLe n v).length = n := by
  induction n generalizing v with
  | zero => rfl
  | succ n ih => exact congrArg (· + 1) (ih _)
theorem digestBytes_length (d : BitVec 384) : (digestBytes d).length = 48 := by rw [digestBytes, List.length_reverse, toLe_length]
theorem norBytes_store {s : State} {a : Nat} {bs : List Byte} {o n : Nat} (hs : mapWf (fun _ => (0xFF : Byte)) s.nor = true)
    (h : o + n ≤ bs.length) : norBytes (norStore s a bs) (a + o) n = (bs.drop o).take n := by
  apply List.ext_getElem
  · simp [norBytes]; omega
  · intro i h1 h2
    simp only [norBytes, norByte, norStore, List.getElem_map, List.getElem_range, List.length_map, List.length_range] at h1 ⊢
    rw [Nat.add_assoc, mapGet_setAll_same hs (by omega)]
    simp
theorem norBytes_other {s : State} {a b n : Nat} {bs : List Byte} (h : b + n ≤ a) : norBytes (norStore s a bs) b n = norBytes s b n := by
  simp only [norBytes]
  apply List.map_congr_left
  intro i hi
  have := List.mem_range.1 hi
  exact mapGet_setAll_other (by omega)

theorem store_wf {s : State} {a : Nat} {bs : List Byte} (hs : mapWf (fun _ => (0xFF : Byte)) s.nor = true) :
    mapWf (fun _ => (0xFF : Byte)) (norStore s a bs).nor = true := mapSetAll_wf hs
theorem store_canon {s : State} {a : Nat} {bs : List Byte} (h : Canon s) : Canon (norStore s a bs) :=
  ⟨h.spm, store_wf h.nor, h.regs, h.counters, h.cntShadow, h.voc, h.corr, h.trim, h.ftab⟩
theorem store_boot {s : State} {a n : Nat} {bs : List Byte} (h : live s = true ∧ stage s = n) :
    live (norStore s a bs) = true ∧ stage (norStore s a bs) = n := h
theorem foldl_same {α β : Type} {f g : β → α → β} {l : List α} (h : ∀ m, ∀ x ∈ l, f m x = g m x) (m : β) :
    l.foldl f m = l.foldl g m := by
  induction l generalizing m with
  | nil => rfl
  | cons a l ih =>
    rw [List.foldl_cons, List.foldl_cons, h m a (List.mem_cons_self ..)]
    exact ih (fun m x hx => h m x (List.mem_cons_of_mem _ hx)) _
theorem bank_other {s : State} {a : Nat} {bs : List Byte} (ha : 0x40000 ≤ a) : bankState (norStore s a bs) = bankState s := by
  unfold bankState
  refine foldl_same (fun m i hi => ?_) _
  have := List.mem_range.1 hi
  simp only [bankRecord, norBytes_other (s := s) (bs := bs) (show 0x20000 + 0x10000 * (i / 1024) + 64 * (i % 1024) + 64 ≤ a by omega)]

/-- A manifest that names an empty part 1 and the 10,240 bytes of part 3, and the body it starts. -/
def goodManifest : List Byte :=
  toLe 4 0x4E414D4B ++ toLe 1 2 ++ toLe 11 0 ++ (toLe 1 1 ++ toLe 31 0) ++ (toLe 1 3 ++ toLe 7 0 ++ toLe 4 128 ++ toLe 4 10240 ++ toLe 16 0)
def goodStart : List Byte := goodManifest ++ toLe 48 0
def goodBody : List Byte := goodStart ++ zeros 10240
/-- The header of that body: its first 56 bytes, the digest, and zeros. -/
def headStart : List Byte :=
  toLe 4 0x474D494B ++ toLe 2 1 ++ toLe 2 0 ++ toLe 4 0x4B430901 ++ toLe 1 1 ++ toLe 1 0 ++ toLe 2 0 ++ toLe 16 0 ++ toLe 4 0 ++ toLe 4 10368 ++
    toLe 4 0 ++ toLe 4 80 ++ toLe 8 1
def goodHead : List Byte := headStart ++ (digestBytes (Config.sha384 goodBody) ++ zeros 408)
/-- A bank-state record that says bank 0 is active and GOOD. -/
def goodRecord : List Byte :=
  let r := toLe 4 0x5453424B ++ toLe 4 1 ++ toLe 1 0 ++ toLe 1 0 ++ toLe 1 2 ++ toLe 1 0 ++ toLe 4 0 ++ toLe 8 0 ++ toLe 36 0
  r ++ toLe 4 (crc32c r).toNat

theorem start_length : goodStart.length = 128 := by decide +kernel
theorem headStart_length : headStart.length = 56 := by decide +kernel
theorem head_length : goodHead.length = 512 := by
  rw [goodHead, List.length_append, List.length_append, headStart_length, digestBytes_length, zeros_length]
theorem body_length : goodBody.length = 10368 := by rw [goodBody, List.length_append, start_length, zeros_length]
theorem head_first {o n : Nat} (h : o + n ≤ 56) : fieldAt goodHead o n = fieldAt headStart o n :=
  fieldAt_app_left (by rw [headStart_length]; exact h)
theorem head_drop {o : Nat} (h : 104 ≤ o) : goodHead.drop o = zeros (512 - o) := by
  have h1 : (headStart ++ digestBytes (Config.sha384 goodBody)).length = 104 := by
    rw [List.length_append, headStart_length, digestBytes_length]
  rw [goodHead, ← List.append_assoc, List.drop_append, List.drop_eq_nil_of_le (by omega), h1, zeros_drop, List.nil_append]
  congr 1; omega
theorem head_last {o n : Nat} (h : 104 ≤ o) : fieldAt goodHead o n = 0 := by
  rw [fieldAt, head_drop h, zeros_take, leNat_zeros]
theorem head_digest : (goodHead.drop 56).take 48 = digestBytes (Config.sha384 goodBody) := by
  rw [goodHead, List.drop_append, List.drop_eq_nil_of_le (by have := headStart_length; omega), headStart_length, Nat.sub_self, List.drop_zero,
    List.nil_append, List.take_append_of_le_length (Nat.le_of_eq (digestBytes_length _).symm),
    List.take_of_length_le (Nat.le_of_eq (digestBytes_length _))]
theorem body_man : (goodBody.drop 0).take 80 = goodManifest := by
  rw [List.drop_zero, goodBody, List.take_append_of_le_length (by have := start_length; omega)]; decide +kernel
theorem body_data (n : Nat) : (goodBody.drop 128).take n = zeros (min n 10240) := by
  rw [goodBody, List.drop_append, List.drop_eq_nil_of_le (by have := start_length; omega), start_length, zeros_drop, List.nil_append, zeros_take]

/-- R343 holds of the manifest. -/
theorem manifest_passes (s : State) : manifestFault s goodBody 0 80 = none := by
  have hp : manifestParts goodManifest =
    [{ type := 1, off := 0, len := 0, target := 0 }, { type := 3, off := 128, len := 10240, target := 0 }] := by decide +kernel
  have h3 : partOk s goodBody 0 80 { type := 3, off := 128, len := 10240, target := 0 } = true := by
    have hz : valNonfinite (ofFp32 (BitVec.ofNat 32 0)) = false := by decide +kernel
    have ha : ((List.range 2560).all fun _ => true) = true := List.all_eq_true.2 fun _ _ => rfl
    simp only [partOk, body_data, fieldAt_zeros, hz, body_length, Bool.not_false, ha]; decide +kernel
  have h1 : partOk s goodBody 0 80 { type := 1, off := 0, len := 0, target := 0 } = true := by
    simp only [partOk, body_length]; decide +kernel
  have hr : List.range (fieldAt goodManifest 4 1) = [0, 1] := by decide +kernel
  have h0 : (fieldAt goodManifest 0 4 != 0x4E414D4B || decide (fieldAt goodManifest 4 1 = 0) || decide (fieldAt goodManifest 4 1 > 16) ||
      decide (80 < 16 + 32 * fieldAt goodManifest 4 1)) = false := by decide +kernel
  unfold manifestFault
  simp only [body_man, hp, hr]
  simp only [Bool.or_eq_false_iff, bne_eq_false_iff_eq, decide_eq_false_iff_not] at h0
  obtain ⟨⟨⟨a, b⟩, c⟩, d⟩ := h0
  simp [a, b, c, d, h1, h3, partsClash, overlap]

/-- The cluster with its key slot 0 programmed and the bank-state record in the device; and with the image in bank `b`. -/
@[irreducible] def signed (s : State) : State :=
  norStore { s with fuses := { s.fuses with programmed := 1, keys := [Config.sha384 (zeros 97), 0, 0, 0] } } 0x20000 goodRecord
@[inherit_doc signed, irreducible] def holding (s : State) (b : Nat) : State := norStore (signed s) (bankAt b) (goodHead ++ goodBody)

theorem header_passes {s : State} (hk : Config.sha384 (zeros 97) ≠ 0) (hv : ∀ k d g, Config.ecdsaVerify k d g = true)
    (hf : s.fuses = {}) (hf' : s.fusesSensed = {}) (b : Nat) : headerReason (holding s b) goodHead = 0 := by
  have e1 : (holding s b).fuses = { ({} : Fuses) with programmed := 1, keys := [Config.sha384 (zeros 97), 0, 0, 0] } := by rw [holding, signed, ← hf]; rfl
  have e2 : (holding s b).fusesSensed = {} := by rw [holding, signed]; exact hf'
  unfold headerReason
  simp only [e1, e2, hv]
  simp only [head_drop (o := 104) (by omega), zeros_take, head_last (o := 201) (by omega), head_last (o := 352) (by omega),
    head_first (o := 0) (n := 4) (by omega), head_first (o := 4) (n := 2) (by omega), head_first (o := 6) (n := 2) (by omega),
    head_first (o := 8) (n := 4) (by omega), head_first (o := 12) (n := 1) (by omega), head_first (o := 13) (n := 1) (by omega),
    head_first (o := 14) (n := 2) (by omega), head_first (o := 16) (n := 16) (by omega), head_first (o := 32) (n := 4) (by omega),
    head_first (o := 36) (n := 4) (by omega), head_first (o := 40) (n := 4) (by omega), head_first (o := 44) (n := 4) (by omega)]
  have w : fieldAt headStart 0 4 = 0x474D494B ∧ fieldAt headStart 4 2 = 1 ∧ fieldAt headStart 6 2 = 0 ∧ fieldAt headStart 8 4 = 0x4B430901 ∧
      fieldAt headStart 12 1 = 1 ∧ fieldAt headStart 13 1 = 0 ∧ fieldAt headStart 14 2 = 0 ∧ fieldAt headStart 32 4 = 0 ∧
      fieldAt headStart 36 4 = 10368 ∧ fieldAt headStart 40 4 = 0 ∧ fieldAt headStart 44 4 = 80 := by decide +kernel
  obtain ⟨w0, w1, w2, w3, w4, w5, w6, w7, w8, w9, w10⟩ := w
  simp only [w0, w1, w2, w3, w4, w5, w6, w7, w8, w9, w10]
  simp [svnFloor, bitOf]
  exact hk

theorem image_there {s : State} (hs : mapWf (fun _ => (0xFF : Byte)) s.nor = true) (b : Nat) :
    bankImage (holding s b) b = (goodHead, goodBody) := by
  have hw : mapWf (fun _ => (0xFF : Byte)) (signed s).nor = true := by rw [signed]; exact store_wf hs
  have hl : (goodHead ++ goodBody).length = 10880 := by rw [List.length_append, head_length, body_length]
  have h1 : norBytes (holding s b) (bankAt b) 512 = goodHead := by
    have := norBytes_store (a := bankAt b) (bs := goodHead ++ goodBody) (o := 0) (n := 512) hw (by omega)
    rw [Nat.add_zero, List.drop_zero, List.take_append_of_le_length (by have := head_length; omega),
      List.take_of_length_le (by have := head_length; omega)] at this
    rw [holding]; exact this
  have h2 : norBytes (holding s b) (bankAt b + 512) 10368 = goodBody := by
    have := norBytes_store (a := bankAt b) (bs := goodHead ++ goodBody) (o := 512) (n := 10368) hw (by omega)
    rw [List.drop_append, List.drop_eq_nil_of_le (by have := head_length; omega), head_length, Nat.sub_self, List.drop_zero, List.nil_append,
      List.take_of_length_le (by have := body_length; omega)] at this
    rw [holding]; exact this
  have h3 : min (fieldAt goodHead 36 4) (bankSize - 512) = 10368 := by
    rw [head_first (by omega)]; decide +kernel
  simp only [bankImage, h1, h3, h2]

theorem image_passes {s : State} (hk : Config.sha384 (zeros 97) ≠ 0) (hv : ∀ k d g, Config.ecdsaVerify k d g = true)
    (hs : mapWf (fun _ => (0xFF : Byte)) s.nor = true) (hf : s.fuses = {}) (hf' : s.fusesSensed = {}) (b : Nat) :
    imageReason (holding s b) (bankImage (holding s b) b).1 (bankImage (holding s b) b).2 = (0, 0) := by
  rw [image_there hs]
  have h4 : fieldAt goodHead 40 4 = 0 ∧ fieldAt goodHead 44 4 = 80 := by
    rw [head_first (by omega), head_first (by omega)]; decide +kernel
  simp only [imageReason, header_passes hk hv hf hf', head_digest, h4, manifest_passes, bne_self_eq_false]; rfl

theorem bank_there (s : State) (b : Nat) : bankState (holding s b) = bankState (signed s) := by
  rw [holding]; exact bank_other (by unfold bankAt; omega)
theorem holding_canon {s : State} (h : Canon s) (b : Nat) : Canon (holding s b) := by
  rw [holding, signed]
  exact store_canon (store_canon ⟨h.spm, h.nor, h.regs, h.counters, h.cntShadow, h.voc, h.corr, h.trim, h.ftab⟩)

/-- The bank state of that record. -/
def goodState : BankState := { seq := 1, active := 0, state0 := 2, place := some (0, 0) }
theorem record_first (s : State) : bankRecord (norStore { s with nor := [] } 0x20000 goodRecord) 0 0 = some goodState := by
  have hw : mapWf (fun _ => (0xFF : Byte)) ({ s with nor := [] } : State).nor = true := rfl
  have h := norBytes_store (a := 0x20000) (bs := goodRecord) (o := 0) (n := 64) hw (by decide +kernel)
  have e : (goodRecord.drop 0).take 64 = goodRecord := by decide +kernel
  rw [e] at h
  unfold bankRecord
  simp only [Nat.mul_zero, Nat.add_zero] at h ⊢
  rw [h]; decide +kernel
theorem record_rest (s : State) {i : Nat} (h0 : i ≠ 0) (_h : i < 2048) :
    bankRecord (norStore { s with nor := [] } 0x20000 goodRecord) (i / 1024) (i % 1024) = none := by
  have hl : goodRecord.length = 64 := by decide +kernel
  have h : ∀ a, 0x20040 ≤ a → norByte (norStore { s with nor := [] } 0x20000 goodRecord) a = 0xFF := fun a ha => by
    unfold norByte norStore
    rw [mapGet_setAll_other (by omega)]; rfl
  have g : norBytes (norStore { s with nor := [] } 0x20000 goodRecord) (0x20000 + 0x10000 * (i / 1024) + 64 * (i % 1024)) 64 =
      List.replicate 64 0xFF := by
    apply List.ext_getElem
    · simp [norBytes]
    · intro j _ _
      simp only [norBytes, List.getElem_map, List.getElem_range, List.getElem_replicate]
      exact h _ (by omega)
  have m : (fieldAt (List.replicate 64 (0xFF : Byte)) 0 4 == 0x5453424B) = false := by decide +kernel
  unfold bankRecord
  simp only [g, m, Bool.false_and, Bool.false_eq_true, if_false]
theorem record_there (s : State) (hs : s.nor = []) : bankState (signed s) = goodState := by
  have e : (signed s) = norStore { (signed s) with nor := [] } 0x20000 goodRecord := by rw [signed, ← hs]; rfl
  rw [e]
  unfold bankState
  rw [foldl_same (g := fun m i => if i = 0 then (if m.place.isNone || m.seq < goodState.seq then goodState else m) else m)]
  · decide +kernel
  · intro m i hi
    by_cases h0 : i = 0
    · subst h0; simp only [Nat.zero_div, Nat.zero_mod, record_first, if_pos]
    · rw [record_rest _ h0 (List.mem_range.1 hi)]; simp only [h0, if_false]

theorem test_meets_BootStages_image (hk : Config.sha384 (zeros 97) ≠ 0) (hv : ∀ k d g, Config.ecdsaVerify k d g = true) :
    let s := holding (atStage 4 0) 0
    Canon s ∧ live s = true ∧ stage s = 4 ∧ (bankState s).trial = false ∧ (bankState s).active = 0 ∧ stateOfBank (bankState s) 0 = 2 ∧
      stateOfBank (bankState s) 1 ≠ 2 ∧ (imageReason s (bankImage s 0).1 (bankImage s 0).2).1 = 0 := by
  have c : Canon (atStage 4 0) := by simp only [canon_iff]; decide +kernel
  have b : bankState (holding (atStage 4 0) 0) = goodState := by rw [bank_there]; exact record_there _ (by decide +kernel)
  have l : live (holding (atStage 4 0) 0) = true ∧ stage (holding (atStage 4 0) 0) = 4 := by
    rw [holding, signed]
    exact store_boot (store_boot (by decide +kernel))
  have i := image_passes hk hv c.nor (by decide +kernel) (by decide +kernel) 0
  intro s
  rw [b, i]
  exact ⟨holding_canon c 0, l.1, l.2, rfl, rfl, rfl, by decide, rfl⟩

/-- A verification under way, whose staging area is at 0. -/
def verifying : State :=
  { imaging 0xF2 1 0 0 0 0 with
    descs := (imaging 0xF2 1 0 0 0 0).descs.map fun x => { x with phase := .running, engine := .image 0 } }
theorem test_meets_ImageCompletions_image (hk : Config.sha384 (zeros 97) ≠ 0) (hv : ∀ k d g, Config.ecdsaVerify k d g = true) :
    let s := holding verifying 1
    Canon s ∧ live s = true ∧ (descGet s 4).any (fun x => x.phase == .running && x.engine == .image 0 && dop x == 0xF2 &&
      bitOf 0 (dfield x 32 1) && x.wrote == [] && x.unacked == 0 && !x.disturbed && !x.rejected && dfield x 48 8 == 0) = true ∧ s.inject = none ∧
      (imageReason s (bankImage s 1).1 (bankImage s 1).2).1 = 0 ∧ stagingFault s 0 (bankImage s 1).1 (bankImage s 1).2 = none ∧
      OwnClear s 0 (bankImage s 1).2.length := by
  have c : Canon verifying := by simp only [canon_iff]; decide +kernel
  refine ⟨holding_canon c 1, by decide +kernel, by decide +kernel, by decide +kernel, ?_, ?_⟩
  · rw [image_passes hk hv c.nor rfl rfl]
  · rw [image_there c.nor]
    have h4 : fieldAt goodHead 40 4 = 0 ∧ fieldAt goodHead 44 4 = 80 := by
      rw [head_first (by omega), head_first (by omega)]; decide +kernel
    simp only [stagingFault, h4, body_man, body_length, ownClear_iff]; decide +kernel

/-- The cluster in a switch whose staged 128 zero bytes have the digest that the new bank's header names. -/
def digested : State := norStore (switching 4) (bankAt 1 + 56) (digestBytes (Config.sha384 (zeros 128)))
theorem test_meets_ActivationAtAFront_digest : Canon digested ∧ switchDrained digested = true ∧ imgState digested = 4 ∧
    digested.boot.staged = some (1, 0x10000, 128) ∧ spmBadIn digested 0x10000 128 = none ∧
    digestBytes (Config.sha384 (spmBytes digested 0x10000 128)) = ((norBytes digested (bankAt 1) 512).drop 56).take 48 := by
  have c : Canon (switching 4) := by simp only [canon_iff]; decide +kernel
  refine ⟨⟨c.spm, mapSetAll_wf c.nor, c.regs, c.counters, c.cntShadow, c.voc, c.corr, c.trim, c.ftab⟩, by decide +kernel,
    by decide +kernel, rfl, by decide +kernel, ?_⟩
  have hb : spmBytes digested 0x10000 128 = zeros 128 := by decide +kernel
  have hn : ((norBytes digested (bankAt 1) 512).drop 56).take 48 = norBytes digested (bankAt 1 + 56 + 0) 48 := by
    apply List.ext_getElem
    · simp [norBytes]
    · intro i h1 h2; simp [norBytes]; congr 1; omega
  rw [hb, hn, digested, norBytes_store c.nor (Nat.le_of_eq (digestBytes_length _).symm), List.drop_zero,
    List.take_of_length_le (Nat.le_of_eq (digestBytes_length _))]

/-! Guards that are false, and accesses that trap. -/

/-- `Skips`, decided. -/
def skipsB (s : State) (t : Nat) (m : Mn) (g : Group) (x : Thread) (w : Word) : Bool :=
  live s && threadAt s t == some (g, x) && !x.ended && fetchWord g x == some w && insnOf w == some m &&
    !fetchBad g x.pc.toNat && !guardOk x w && g.state == 1 && x.hold == .free

theorem skips_iff {s t m g x w} : Skips s t m g x w ↔ skipsB s t m g x w = true := by
  constructor
  · intro h; simp [skipsB, h.acts, h.here, h.going, h.word, h.insn, h.good, h.guard, h.runs, h.free]
  · intro h
    simp only [skipsB, Bool.and_eq_true, Bool.not_eq_true', beq_iff_eq] at h
    obtain ⟨⟨⟨⟨⟨⟨⟨⟨h1, h2⟩, h3⟩, h4⟩, h5⟩, h6⟩, h7⟩, h8⟩, h9⟩ := h
    exact { acts := h1, here := h2, going := h3, word := h4, insn := h5, good := h6, guard := h7, runs := h8, free := h9 }

/-- A word of each task-core instruction. -/
def allWords : List (Mn × Word) :=
  words ++ words2 ++ (loads ++ stores).map (fun p => (p.2.1, iw p.1 3 1 0)) ++
  atomics.map (fun p => (p.2.1, amoWord p.1 p.2.2.2)) ++ tileWords ++
  [(.stc, stcWord), (.sysr, iw 0x3E 3 0 0), (.sysw, iw 0x3F 0 1 0x10), (.mcopy, 0x94061100), (.eissue, 0x90061100), (.ewait, 0x90061001),
    (.etest, 0x90061002), (.cwait, 0xA0061100), (.fencer, 0xA0000001), (.acq, 0xA0001102), (.acqall, 0xA0000003), (.gbar, 0xA0000004),
    (.cbar, 0xB0061000), (.cred, 0xB0061101)]
theorem test_allWords : ∀ p ∈ taskInsns 0, (allWords.map (·.1)).contains p.1 = true := by decide +kernel
/-- PredicatesAndControlFlow and ArithmeticResults: each under a guard of p1, which is false, and of p0 negated. -/
theorem test_meets_PredicatesAndControlFlow_skips : ∀ p ∈ allWords, ∀ gd ∈ [22, 25],
    let w := p.2 ||| BitVec.ofNat 32 (2 ^ gd)
    Skips (at1 up w {}) 0 p.1 (grp w {}) {} w := by
  simp only [skips_iff]; decide +kernel

/-- The cluster whose protection table grants nothing. -/
def shut : State := upWith [(0x100040, 0)]
theorem test_meets_LoadsIssue_traps : (∀ p ∈ loads, ∀ a ∈ [nearEnd 8, cluster1, chip],
      (1 < p.2.2 → issuesAt up p.2.1 (iw p.1 31 1 0) (regs3 (a + 1) 0 0) ∧ (a + 1) % p.2.2 ≠ 0) ∧
      issuesAt shut p.2.1 (iw p.1 31 1 0) (regs3 a 0 0) ∧ a % p.2.2 = 0 ∧
      issueRefusal (at1 shut (iw p.1 31 1 0) (regs3 a 0 0)) { kind := .read, addr := a, len := p.2.2, who := .load 0 } = some reasonNoEntry) ∧
    issueRefusal up { kind := .read, addr := nearEnd 0, len := 4, who := .load 0 } = some reasonUnmapped := by
  simp only [issuesAt_iff]; decide +kernel
theorem test_meets_StoresIssue_traps : (∀ p ∈ stores, ∀ a ∈ [nearEnd 8, cluster1, chip],
      (1 < p.2.2 → issuesAt up p.2.1 (iw p.1 2 1 0) (regs3 (a + 1) 0 0) ∧ (a + 1) % p.2.2 ≠ 0) ∧
      issuesAt shut p.2.1 (iw p.1 2 1 0) (regs3 a 0 0) ∧ a % p.2.2 = 0 ∧
      issueRefusal (at1 shut (iw p.1 2 1 0) (regs3 a 0 0))
        { kind := .write, addr := a, len := p.2.2, data := toLe p.2.2 0, who := .store 0 } = some reasonNoEntry) ∧
    ∀ a ∈ [nearEnd 8, cluster1], isChip a = false ∧ issuesAt up .stc stcWord (regs3 (a + 4) 0xFFF 1) ∧ (a + 4) % 8 ≠ 0 ∧
      issuesAt shut .stc stcWord (regs3 a 0xFFF 1) ∧ a % 8 = 0 ∧ issueRefusal (at1 shut stcWord (regs3 a 0xFFF 1))
        { kind := .write, addr := a, len := 8, data := toLe 8 1, counter := some 4095, who := .store 0 } = some reasonNoEntry := by
  simp only [issuesAt_iff]; decide +kernel
theorem test_meets_AtomicsIssue_traps : (∀ p ∈ atomics, ∀ a ∈ [nearEnd 8, cluster1, chip],
      let w := amoWord p.1 p.2.2.2
      issuesAt up p.2.1 w (regs3 (a + 1) 5 6) ∧ (a + 1) % p.2.2.2 ≠ 0 ∧ issuesAt shut p.2.1 w (regs3 a 5 6) ∧ a % p.2.2.2 = 0 ∧
      issueRefusal (at1 shut w (regs3 a 5 6)) { kind := .atomic, addr := a, len := p.2.2.2, data := toLe p.2.2.2 5, op := p.1
                                                width := bitsOf 5 4 w.toNat, compare := 6, who := .load 0 } = some reasonNoEntry) ∧
    ∀ p ∈ [(0, 2), (6, 3), (7, 1), (8, 0), (15, 1)],
      let w := iw 0x29 3 1 (0x100 + p.1 + 16 * p.2)
      let s := at1 up w {}
      live s = true ∧ threadAt s 0 = some (grp w {}, {}) ∧ fetchWord (grp w {}) {} = some w ∧ fetchBad (grp w {}) 0 = false ∧
        bitsOf 31 26 w.toNat = 0x29 ∧ atomicWidth (bitsOf 3 0 w.toNat) (bitsOf 5 4 w.toNat) = none ∧ insnOf w = none := by
  simp only [issuesAt_iff]; decide +kernel

/-! Tile checks and the tile queue, the cases of single checks. -/

/-- A group with a handler at the word `w` with this TCFG. -/
def cgrp (w : Word) (x : Thread) (cfg : List Word) : Group := { grp w x with tcfg := cfg, fhandler := 64 }
/-- The TCFG of `tgrp`. -/
def cfg8 : List Word := [tc 32 64 1, tc 32 64 1, 0, 0, 0, 0, 0, tc 32 128 0]
theorem test_meets_TileChecksArePrecise_offsets : (∀ p ∈ [(Mn.tget, tw 0x20 0 1 0 3 3 3), (.tput, tw 0x20 0 1 0 3 2 4)], ∀ v ∈ [1, 127, 33 * 256, 256],
      let x := regs3 0 0 v
      let g := cgrp p.2 x cfg8
      Issues (atG g) 0 p.1 g x p.2 ∧ g.fhandler ≠ 0 ∧ x.hmode = false ∧ (bitsOf 6 0 v % 8 ≠ 0 ∨ 32 ≤ bitsOf 14 8 v ∨ bitsOf 14 8 v % 4 ≠ 0)) ∧
    (let x := regs3 chip (2 ^ 63) 0
     let g := cgrp (tw 0x20 0 1 0 1 2 2) x cfg8
     Issues (atG g) 0 .tstore g x (tw 0x20 0 1 0 1 2 2) ∧ (g.tcfg[1]?).getD 0 ≠ 0 ∧ bitOf 63 (sGet x 2).toNat = true ∧ isChip (sGet x 1).toNat = true) ∧
    (∀ e ∈ [(5 * 2 ^ 16, false), (129 + 256, true), (128 + 3 * 256, true)], let x := regs3 0 e.1 0
     let w := tw 0x20 0 7 0 2 0 6
     let g := cgrp w x cfg8
     Issues (atG g) 0 .tcfg g x w ∧ codeKnown (bitsOf 20 16 e.1) = e.2 ∧ tcfgOk (BitVec.ofNat 32 e.1) = false) := by
  simp only [issues_iff]; decide +kernel

/-- The 32 bytes of eight TCFG entries. -/
def cfgBytes (es : List Nat) : List Byte := padTo 32 (es.map (toLe 4)).flatten
theorem test_meets_TileChecksArePrecise_tcfgm : ∀ es ∈ [[0, 5 * 2 ^ 16], [1 + 256, 129 + 256], [129 + 256]],
    let x := { regs3 0 0 0 with hold := .read 0, ret := some (cfgBytes es, 0) }
    let w := tw 0x20 0 0 0 1 0 7
    let g := cgrp w x cfg8
    let all := (List.range 8).map fun i => BitVec.ofNat 32 (fieldAt (cfgBytes es) (4 * i) 4)
    Stands (atG g) 0 .tcfgm g x w ∧ g.state = 1 ∧ isChip (sGet x 1).toNat = false ∧ all.any (fun e => !tcfgOk e) = true := by
  simp only [stands_iff]; decide +kernel

/-- TCFGs that fail one check of R151 each, the first to the fifth, with the tiles that the fault names. -/
def mmaFails : List (Word × List Word × Option (Nat × Option Nat)) :=
  let a := tc 32 64 1
  let z := List.replicate 5 (0 : Word)
  let w := tw 0x21 7 0 1 0 0 0
  [(w, [0, a] ++ z ++ [tc 32 128 0], some (0, none)), (w, [a, 0] ++ z ++ [tc 32 128 0], some (1, none)),
    (w, [a, a] ++ z ++ [0], some (7, none)), (w, [a, tc 32 32 3] ++ z ++ [tc 32 128 0], some (0, some 1)),
    (w, [a, tc 32 32 1] ++ z ++ [tc 32 128 0], some (0, some 1)), (w, [a, tc 33 64 1] ++ z ++ [tc 32 128 0], some (1, some 7)),
    (w, [a, a] ++ z ++ [tc 31 128 0], some (0, some 7)), (tw 0x21 0 0 1 0 0 0, [a, a] ++ z ++ [0], some (0, some 0)),
    (w, [a, a] ++ z ++ [tc 32 128 0], none)]
theorem test_meets_TileChecksArePrecise_tmma : ∀ p ∈ mmaFails, let g := cgrp p.1 {} p.2.1
    Issues (atG g) 0 .tmma g {} p.1 ∧ mmaBad p.1 p.2.1 = p.2.2 := by
  simp only [issues_iff]; decide +kernel

def idleOp : TileOp := { n := 0, thread := 0, word := 0, sa := 0, sb := 0 }
/-- A group with this tile instruction of thread 0 at the head of its queue. -/
def headed (w : Word) (o : TileOp) (quad : Option Nat) : Group :=
  { tgrp 0 { hold := .tile 9 } quad with tq := [{ o with n := 9, thread := 0, word := w }], tiles := [(16384 * 1 + 128 * 28 + 56, 5)] }
theorem test_meets_TileQueueExecutes_tcfgm : let s := atG (headed (tw 0x20 0 0 0 1 0 7) { idleOp with cfg := cfg8 } none)
    live s = true ∧ (s.groups[0]?).any (fun g => g.state == 1 && g.tcfg.length == 8 && g.tq.all fun o => o.cfg.length == 8) = true := by
  decide +kernel
/-- A `tbind` of any array, with or without NB, and what may answer it. -/
def binding (nb : Nat) (mask : Nat) : State :=
  atG (headed (tw 0x21 0 0 nb 1 3 1) { idleOp with sa := BitVec.ofNat 64 mask } none)
theorem test_meets_TileQueueExecutes_tbind : ∀ nb ∈ [0, 1],
    (let s := binding nb 0x8000
     (s.groups[0]?).any (fun g => g.quad == none && g.bindSince == none) = true ∧ bindTurn s 0 s.nextId = true ∧
       bitOf 13 (tw 0x21 0 0 nb 1 3 1).toNat = (nb == 1) ∧ insnOf (tw 0x21 0 0 nb 1 3 1) = some .tbind) ∧
    bindPick (binding nb 0) 0 = none ∧ bindPick { binding nb 0x8000 with regs := [(0x400100, 0xFFFF)] } 0x8000 = some 15 ∧
    wakeFor { binding nb 0x8000 with regs := [(0x400100, 0xFFFF)] } (quadIslands 15) = none ∧
    admitted { binding nb 0x8000 with regs := [(0x400100, 0xFFFF)] } = true ∧ 15 / 4 < (binding nb 0).mxe.modes.length := by
  decide +kernel
/-- A product on quad 15: the words of R151 that pass, in FP16 and INT8, transposed or not, in both modes of the sum. -/
theorem test_meets_TileQueueExecutes_tmma : ∀ n ∈ [0, 0x100, 0x200, 0x400], ∀ int8 ∈ [false, true],
    let c := if int8 then (tc 32 32 3, tc 32 128 4) else (tc 32 64 1, tc 32 128 0)
    let w := tw 0x21 7 0 1 0 0 0 ||| BitVec.ofNat 32 n
    let g := { headed w idleOp (some 15) with tcfg := [c.1, c.1, 0, 0, 0, 0, 0, c.2] }
    insnOf w = some .tmma ∧ mmaBad w g.tcfg = none ∧ g.tuse.length = 8 ∧ g.tileBad = [] ∧ cellsBad (atG g) 1 (15 / 4, 15 % 4) = false := by
  decide +kernel
/-- A transfer of tile 1 at the head of the queue, at a place of its rows. -/
def xfering (fn : Nat) (o : TileOp) : Group :=
  headed (tw 0x20 0 1 0 1 2 fn) { o with sa := 0x1000, sb := 64 } none
theorem test_meets_TileQueueExecutes_rows :
    (∀ fn ∈ [1, 2], let g := xfering fn idleOp
      let s := atG g
      g.state = 1 ∧ bitOf 15 g.tstart.toNat = false ∧ bitsOf 7 0 ((g.tcfg[1]?).getD 0).toNat = 32 ∧
      g.tq.all (fun o => !o.begun && o.outstanding == 0 && o.failed == none && (List.range 8).all fun r =>
        let at' := rowAddr o.sa.toNat (xferStride o) r
        isOwn s at' && inSpm s (offsetOf at') 64 && issueRefusal s (rowAccess g 0 o r (if fn = 2 then (List.range 64).map (tileByte g 1 r) else [])
          (fn == 2)) == none) = true) ∧
    (∀ row ∈ [0, 30, 31], let g := xfering 1 { idleOp with begun := true, row, issued := row + 1, got := [(0x1000 + row * 64, 7)] }
      let s := atG g
      1 < g.tuse.length ∧ g.tq.all (fun o => o.begun && o.outstanding == 0 && o.failed == none && !o.resumes && o.fills == [] &&
        o.row < o.issued && o.row < 128 && (row == 31 || issueRefusal s (rowAccess g 0 o (row + 1) [] false) == none)) = true) ∧
    (let g := xfering 2 { idleOp with begun := true, row := 32, issued := 32 }
     g.tq.all (fun o => o.begun && o.outstanding == 0 && o.failed == none && !o.resumes && decide (32 ≤ o.row)) = true) := by
  decide +kernel

/-! Validation, rings, switches and links: the single clauses. -/

/-- A descriptor image of an operation with these bits set beside. -/
def bitImage (op : Nat) (bits : List Nat) : List Byte := toLe 128 (op + (bits.map (2 ^ ·)).foldl (· + ·) 0)
/-- The first field bits that an operation leaves unused. -/
def unusedBit (op : Nat) : Nat := if op = 0x01 then 256 else if op = 0x02 ∨ op = 0x40 then 268 else if op = 0x20 then 260
  else if op = 0x30 then 259 else if op = 0x50 then 272 else 261
/-- The cluster in stage 5 with one fetched descriptor of ring `r`. -/
def checking (r : Nat) (bytes : List Byte) : State :=
  { upWith [(0x200010, 5)] with descs := [{ desc 5 bytes with phase := .fetched, free := false, ring := r }] }
/-- Descriptors that the opcode and the reserved bits alone reject, with the stage of the cluster and the status. -/
def headRejects : List (Nat × List Byte × Nat) :=
  [(5, bitImage 0 [], 1), (5, bitImage 0x55 [], 1), (5, bitImage 0xF6 [], 1), (5, bitImage 0xF0 [], 1), (0, bitImage 0xF4 [], 1),
    (0, bitImage 0x50 [], 8)] ++
  [0x01, 0x02, 0x10, 0x11, 0x20, 0x30, 0x40, 0x50].flatMap (fun op =>
    [(5, bitImage op [13], 1), (5, bitImage op [63], 1), (5, bitImage op [127], 1), (5, bitImage op [unusedBit op], 1),
      (5, bitImage op [9, 146], 1), (5, bitImage op [9, 191], 1), (5, bitImage op [9, 113, 114], 1)]) ++
  [0x01, 0x02, 0x30, 0x40, 0x50].flatMap (fun op => [(5, bitImage op [11], 1), (5, bitImage op [255], 1)]) ++ [(5, bitImage 0x30 [256, 257], 1)]
theorem test_meets_ValidationInOrder_head : ∀ p ∈ headRejects, ∀ r ∈ [0, 1],
    let s := { checking r p.2.1 with regs := if p.1 = 0 then [] else [(0x200010, 5)] }
    live s = true ∧ s.dre.stopFetch = false ∧ (descGet s 5).any (fun x => x.phase == .fetched && !clInsn x && stepOne s x == p.2.2) = true ∧
      bitOf 1 (regGet s 0x200000) = false ∧ stage s = p.1 := by decide +kernel

/-- A descriptor whose structures validation has read, refused and held nowhere, which is as step 4 of R240 finds it. -/
def fourthB (s : State) (x : Desc) : Bool :=
  stepOne s x == 0 && unitsOk s x && ((headRanges s x).all fun r => !beyond s r.addr r.len) && match loadStructures s x with
    | (t, .done y) => t == s && stepTwo (gatherDrop s 5) y && (refusedRanges (gatherDrop s 5) y).isEmpty && (heldWrite (gatherDrop s 5) y).isNone
    | _ => false
/-- Descriptors that step 4 rejects, with the status. -/
def fourths : List (List Byte × Nat) :=
  [(image [(0, [0x10]), (112, toLe 8 4096)], 3), (image [(0, [0x11]), (112, toLe 8 4096)], 3), (image [(0, [0x20]), (32, [1]), (40, toLe 8 4096)], 5),
    (moveBytes 0 0 0 1 0 128, 3), (image [(0, [0x50]), (32, [1])], 3), (image [(0, [0x40]), (8, [])], 1),
    (bitImage 0x01 [8, 61, 62], 7), (waitBytes 0 0 1, 0)]
theorem test_meets_ValidationInOrder_fourth : ∀ p ∈ fourths, let s := checking 0 p.1
    live s = true ∧ (descGet s 5).any (fun x => fourthB s x) = true := by decide +kernel
theorem test_meets_ValidationInOrder_units : ∀ b ∈ [image [(0, [0x10]), (33, [4]), (112, toLe 8 4096)], image [(0, [0x20]), (32, [4])],
      image [(0, [0x50]), (32, [4])], image [(0, [0x01]), (1, [2]), (16, toLe 4 (2 ^ 17))]],
    let s := { checking 0 b with par := { paramsKC9 with arrays := 2, vectorUnits := 2, taskCores := 2, ringLog2 := 17 } }
    (descGet s 5).any (fun x => stepOne s x == 0) = true := by decide +kernel

/-- A disabled ring with one finished descriptor. -/
theorem test_meets_DescriptorsRetire_disabling : let s := { finished 0 0 with
      dre := { (finished 0 0).dre with rings := [{ ring0 0xFFFF 0 1 with disabling := true }], cmd := some (2, 0) } }
    Canon s ∧ live s = true ∧ (ringGet s 0).any (·.disabling) = true ∧ (descGet s 5).map (fun x => ringDescs s 0 == [x]) = some true ∧
      OwnFree s 256 32 := by
  simp only [canon_iff, ownFree_iff]; decide +kernel
/-- Ring 0 with a descriptor that is fetched, a WAIT that is pending or may start, and a MOVE that runs. -/
def inFlight : State :=
  { tables 1 with
    dre := { rings := [ring0 0 4 1], cqs := [{ cq := 0, base := 256, log2 := 1, widx := 5 }] }
    counters := [(4095, 9)]
    descs := [{ desc 5 (bitImage 0x01 []) with phase := .fetched, free := false }, { desc 6 (waitBytes 4095 10 1) with phase := .running, engine := .wait 0 },
      desc 7 (waitBytes 4095 10 1), { desc 8 (moveBytes 0 0 16 1 0x2000 0x1000) with phase := .running, engine := .move {} },
      { desc 9 (moveBytes 0 0 16 1 0x2000 0x1000) with free := false }] }
theorem test_meets_RingCommands_disable : let s := inFlight
    Canon s ∧ Admits s .steward .write 0x300030 ∧ live s = true ∧ s.dre.cmd = none ∧ ringExists s 0 = true ∧ (ringGet s 0).isSome = true ∧
      ringDescs s 0 ≠ [] ∧ s.descs.map (·.id) = [5, 6, 7, 8, 9] ∧ (∀ d ∈ s.descs, d.disturbed = false) := by
  simp only [canon_iff, admits_iff]; decide +kernel

theorem test_meets_GroupCommands_suspended : let s := withSave (launched 3 none [{}, {}, {}, {}]) saveEnd
    Admits s .steward .write 0x600400 ∧ (s.groups[0]?).any (fun g => g.state == 3 && g.launch.any (·.desc == 1)) = true ∧ Undisturbed s 1 ∧
      regPair s 0x600408 = saveEnd ∧ isOwn s saveEnd = true ∧ saveEnd % 128 = 0 ∧ inNear s (offsetOf saveEnd) 1 = true := by
  simp only [undisturbed_iff, admits_iff]; decide +kernel

/-- The bytes of a body with one part, of 16 bytes at 64, for the near scratchpad at 0x20000; ordered region 0 lies there. -/
def partBody : List Byte := padTo 128 (toLe 4 0 ++ [1] ++ toLe 11 0 ++ [2] ++ toLe 7 0 ++ toLe 4 64 ++ toLe 4 16 ++ toLe 8 0x20000)
def regioned (armed : Bool) (img : Nat) : State :=
  { switching img with
    regs := [(0x200010, 5), (0x200040, BitVec.ofNat 32 img), (0x200050, 1)] ++
      (if armed then [(0x903000, 0x20000), (0x903008, 4), (0x90300C, 0x30000), (0x903010, 0x11)] else [])
    nor := [(bankAt 1 + 40, 0), (bankAt 1 + 41, 0), (bankAt 1 + 42, 0), (bankAt 1 + 43, 0), (bankAt 1 + 44, 48), (bankAt 1 + 45, 0),
      (bankAt 1 + 46, 0), (bankAt 1 + 47, 0)]
    spm := ((List.range 128).map (· + 0x10000)).zip partBody |>.filter fun p => p.2 != 0 }
theorem test_meets_ActivationAtAFront_parts : (∀ armed ∈ [true, false], let s := regioned armed 4
      Canon s ∧ live s = true ∧ switchDrained s = true ∧ imgState s = 4 ∧ s.boot.staged = some (1, 0x10000, 128) ∧ Quiet s 0x10000 128 ∧
        ordOver s 0x10000 128 = none ∧ spmBadIn s 0x10000 128 = none ∧
        partStop s (norBytes s (bankAt 1) 512) (spmBytes s 0x10000 128) = if armed then some (.refused 0x20000) else none) ∧
    (let s := regioned true 6
     switchDrained s = true ∧ imgState s = 6 ∧ runBank s < 2 ∧ (imageReason s (bankImage s (1 - runBank s)).1 (bankImage s (1 - runBank s)).2).1 ≠ 0) := by
  simp only [canon_iff, quiet_iff]; decide +kernel
/-- The port rows of a transfer on a link that stands high, and those of a port that has failed under it. -/
theorem test_meets_LinkFlits_link : ∀ up' ∈ [true, false], ∀ alone ∈ [true, false],
    let c : Port := { up := up', link := true, txReq := true, rxAck := alone, sent := [sentFlit 4095 0, sentFlit 0 8], toAck := 1 }
    let s := ported c
    Canon s ∧ live s = true ∧ s.fep.ports[3]? = some c ∧ c.up = up' ∧ c.link = true ∧ s.fep.mcast = [] ∧ (∃ g ∈ c.sent.drop 1, 8 ≤ g.resent) ∧
      c.sent[1]? = some (sentFlit 0 8) ∧ (∀ f ∈ c.sent, f.seq ≠ 7) := by
  simp only [canon_iff]; decide +kernel
theorem test_meets_ChipChannelAnswers_link : ∀ up' ∈ [true, false], let s := ported { up := up', link := true, txReq := true }
    live s = true ∧ (s.fep.ports[3]?).any (·.link) = true := by decide +kernel
theorem test_meets_RatesAndRetries_sent : let s : State := { waiting none 1 with fep := { (waiting none 1).fep with
      ports := [{}, {}, {}, { up := true, sent := [{ sentFlit 3 0 with packet := { pkt 0x01 0 with tag := 6 } }] }] } }
    (∀ c ∈ s.fep.ports, c.queue = [] ∧ ∀ f ∈ c.sent, f.packet.type = 0x01 → f.packet.tag ≠ 5) ∧
      (s.fep.reqs.find? (fun r => r.tag == 5 && r.retryAt.isNone)).isSome = true := by decide +kernel

/-! Banks, ordered regions, home copies, power, log and test access: the single clauses. -/

/-- A read across two banks behind an older read at its second bank, with the power of the banks as given. -/
def crossing (retained waking : List Nat) : State :=
  let at' (a : Nat) : BankReq := { bank := bankOf a, acc := { bankAcc .read none with addr := a } }
  { up with xbr := [at' 512, at' 508], power := { retained := retained, waking := waking } }
theorem test_meets_BanksServeInOrder_ahead : ∀ p ∈ [([], []), ([84], []), ([], [84])], let s := crossing p.1 p.2
    let r : BankReq := { bank := bankOf 508, acc := { bankAcc .read none with addr := 508 } }
    live s = true ∧ bankOf 508 ≠ bankOf 512 ∧ s.xbr.find? (fun r => r.bank == bankOf 508) = some r ∧
      (bankAhead s (bankOf 508) r).1.map (·.acc.addr) = [512] ∧ bankIsland (bankOf 508) = 84 ∧
      ordOver (serveQueued { s with xbr := [] } (bankAhead s (bankOf 508) r).1) 508 8 = none := by decide +kernel
theorem test_meets_BanksServeInOrder_through : ∀ kind ∈ [AccKind.write, .atomic], ∀ held ∈ [true, false],
    let a := { bankAcc kind none with addr := 0 }
    let s := { banked (upWith backed0) a with descs := if held then [{ desc 5 [] with holds := [0] }] else [] }
    (s.xbr.find? (fun r => r.bank == 0)).map (·.acc) = some a ∧ heldOver s 0 8 = held ∧ ordOver s 0 8 = none ∧ refetching s 0 8 = none ∧
      spmBadIn s 0 8 = none ∧ Apart s 0 8 ∧ backOver s 0 8 = [0] ∧ ordAdd s a = none ∧ backBase s 0 ≤ 0 ∧
      0 + 8 ≤ backBase s 0 + backSize s 0 := by
  simp only [apart_iff]; decide +kernel
/-- An open region of two elements with a number of slots, and an add to its second element. -/
def opened (bf slots : Nat) (tags : List Nat) (back : List (Nat × Word)) : State :=
  { upWith (back ++ [(0x903008, 2), (0x90300C, 128), (0x903010, BitVec.ofNat 32 (1 + 2 * bf + 16 * slots)), (0x903014, 7 + 8 * 65536)]) with
    ord := [{ region := 0, base := 0, tags := tags }] }
def adding (bf width : Nat) : Access :=
  let w := if bf = 1 then 2 else 4
  { kind := .atomic, addr := w, len := w, data := toLe w 0x3F80, op := 7, width := width, who := .store 0 }
theorem test_meets_BanksServeInOrder_add : ∀ bf ∈ [0, 1], ∀ width ∈ [0, 2], ∀ p ∈ [(3, [0]), (3, [5]), (1, [5])], ∀ back ∈ [[], backed0],
    let a := adding bf width
    let s := banked (opened bf p.1 p.2 back) a
    let o : OrdRound := { region := 0, base := 0, tags := p.2 }
    let slot := ordSlot s 0 a o
    Canon s ∧ live s = true ∧ ordAdd s a = some 0 ∧ ordRound s 0 = some o ∧ slot.1 = (p.2 == [0]) ∧ heldOver s 0 8 = false ∧
      heldOver s slot.2.2.1 slot.2.2.2 = false ∧ bitOf 1 (regGet s (ordReg 0 4)) = (bf == 1) ∧
      (o.tags.length < regBits s (ordReg 0 4) 10 4 ↔ p.1 = 3) ∧ refetchWait s a = none ∧ refetching s slot.2.2.1 slot.2.2.2 = none ∧
      spmBadIn s slot.2.1 4 = none ∧ (backOver s slot.2.1 4 = [] ↔ back = []) := by
  simp only [canon_iff]; decide +kernel
/-- The slot area in a backed page of its own that is held, refetched or holds a bad word. -/
theorem test_meets_BanksServeInOrder_slot : ∀ what ∈ [0, 1, 2], ∀ backed ∈ [true, false],
    let a := adding 0 0
    let regs : List (Nat × Word) := (if backed then (0x701000, 0x1000) :: backed0 else []) ++
      [(0x903008, 2), (0x90300C, 0x1000), (0x903010, 1 + 16 * 3), (0x903014, 7 + 8 * 65536)]
    let s := { banked (upWith regs) a with
      ord := [{ region := 0, base := 0, tags := [0] }]
      descs := if what = 0 then [{ desc 5 [] with holds := [0] }] else []
      refetch := if what = 1 then [{ block := 0x1000, word := 0x1000, region := 0 }] else []
      spmBad := if what = 2 then [0x1004] else [] }
    let slot := ordSlot s 0 a { region := 0, base := 0, tags := [0] }
    Canon s ∧ ordAdd s a = some 0 ∧ slot = (true, 0x1004, (0x1004, 4)) ∧ heldOver s 4 4 = false ∧ heldOver s 0x1004 4 = (backed && what == 0) ∧
      refetchWait s a = none ∧ (refetching s 0x1004 4 = if what = 1 then some 0x1000 else none) ∧
      spmBadIn s 0x1004 4 = (if what = 2 then some 0x1004 else none) ∧ backOf s 0x1004 = (if backed then some 0 else none) := by
  simp only [canon_iff]; decide +kernel
/-- A write whose home copies are under way, the last of them or not, with one failed or none, of a load or of a store. -/
def going (left : Nat) (failed : Bool) (who : Who) : State :=
  { up with throughs := [{ key := 7, acc := { bankAcc .atomic none with who := who }, ranges := [(0, 8)], left := left, failed := failed }]
            refetch := [{ block := 0, word := 0, region := 0 }] }
theorem test_meets_BanksServeInOrder_home : (∀ left ∈ [1, 2], ∀ failed ∈ [true, false], ∀ who ∈ [Who.store 0, .load 0],
      (going left failed who).throughs.find? (fun x => x.key == 7) =
        some { key := 7, acc := { bankAcc .atomic none with who := who }, ranges := [(0, 8)], left := left, failed := failed }) ∧
    causeOf (.ok []) = 0 ∧ causeOf .dataErr ≠ 0 ∧ ∀ x, Who.store 0 ≠ .load x :=
  ⟨by decide +kernel, by decide +kernel, by decide +kernel, fun _ h => nomatch h⟩
theorem test_meets_OrderedRegionsFold_backed : ∀ bf ∈ [0, 1], let s := { closed bf with regs := backed0 ++ (closed bf).regs }
    Canon s ∧ live s = true ∧ ordClosed s 0 = true ∧ backOver s (ordTarget s 0).1 (2 * (if bf = 1 then 2 else 4)) = [0] := by
  simp only [canon_iff]; decide +kernel

theorem test_meets_RegistersObeyTheirCodes_rates : ∀ off ∈ [0x900040, 0x900044], Canon servingUp ∧ Admits servingUp .steward .write off := by
  simp only [canon_iff, admits_iff]; decide +kernel
theorem test_meets_RegisterCommandsAct_pairs : ∀ p ∈ [(3, 2559), (6, 255)], ∀ bad ∈ [true, false], ∀ user ∈ [none, some 9],
    let s := { upWith [(0x200010, 5), (0xD00030, BitVec.ofNat 32 (4 * p.2 + p.1 * 2 ^ 20))] with
      cfgBad := if bad then [indKey p.1 p.2] else []
      boot := { por := false, indUser := match user with | some m => [(3, m)] | none => [] } }
    Canon s ∧ live s = true ∧ Admits s .steward .read 0xD00034 ∧ Admits s .steward .read 0xD00038 ∧ Admits s .steward .write 0xD00034 ∧
      (indKey p.1 p.2 ∈ s.cfgBad ↔ bad = true) ∧ masterPriv s .steward = true ∧ s.cfgBad.Nodup ∧
      ((∀ x, s.boot.indUser.find? (fun x => x.1 == 3) = some x → x.2 = masterUser .steward) ↔ user = none ∨ user = some (masterUser .steward)) := by
  simp only [canon_iff, admits_iff]; decide +kernel

theorem test_meets_PowerInTime_gale : (∀ p ∈ [(379, true), (380, false)],
      (hottest gale (tel 0 0 p.1).sensors < regBits gale 0xB00034 11 0 ↔ p.2 = true)) ∧
    (∀ mv ∈ [809, 810], ∀ v ∈ [749, 750], let s := { servingUp with power := { servingUp.power with vset := v, vinReq := 810 } }
      live s = true ∧ s.power.fixedVin = none ∧ s.power.debt < regBits s 0xB00018 5 0 ∧ s.power.vinReq ≤ ceiling s + 60 ∧
        (s.power.vset + 60 < s.power.vinReq ∧ s.power.vinReq ≤ mv ↔ mv = 810 ∧ v = 749)) ∧
    (∀ since ∈ [1000, 1001], let s := { servingUp with osc := 2560, power := { servingUp.power with
        avsFrame := some { write := true, code := 0, data := 0, since := since } } }
      (avsBusy s.power (s.osc + 1000) = true ↔ since = 1001)) := by decide +kernel

/-- The cluster in reset's self-test, where nothing reaches the error unit. -/
theorem test_meets_ErrorsAndStops_shut : (let s := upWith [(0x200010, 8)]
      Canon s ∧ live s = true ∧ eeuShut s = true) ∧ eeuShut (logged 255) = false ∧
    (∀ v ∈ [none, some 750], (({ up with power := { fixedVin := v, avsMiss := 2, avsSeen := true } } : State).power.fixedVin.isSome = true ↔ v = some 750)) ∧
    (∀ i ∈ [0, 84], let s := { up with power := { pacing := true } }
      i ∉ s.power.gated ∧ i ∉ s.power.waking ∧ i ∉ s.power.retained ∧ ((s.power.pacing = false ∨ 84 ≤ i) ↔ i = 84)) ∧
    (∀ p ∈ [(3, 2559), (6, 255)], (p.1 = 3 ∧ p.2 < 2560) ∨ (p.1 = 6 ∧ p.2 < 256)) ∧ AttnIn.high ≠ .lasted := by
  simp only [canon_iff]; decide +kernel

/-- A word of near scratchpad that the test access reads or writes: plain, of a backed range (held or not), or under refetch. -/
theorem test_meets_TestAccessPort_near : ∀ wr ∈ [true, false], ∀ what ∈ [0, 1, 2, 3],
    let s := { debugging with
      regs := [(0x200010, 5), (0x200080, 1)] ++ (if what = 0 then [] else backed0)
      descs := if what = 2 then [{ desc 5 [] with holds := [0] }] else []
      refetch := if what = 3 then [{ block := 0, word := 0, region := 0 }] else [] }
    let a : Access := { kind := if wr then .write else .read, addr := ownAddr s 0, len := 4, data := if wr then toLe 4 7 else [], src := ownId s, steward := true }
    Canon s ∧ (live s && debugOpen s) = true ∧ mapRefusal s a = none ∧ inNear s 0 4 = true ∧ Quiet s 0 4 ∧ (∀ w ∈ s.spmBad, w % 4 = 0) ∧
      (OwnFree s a.addr 4 ↔ what = 0) ∧ (spmRefusal s a = none ↔ what ≠ 2 ∨ wr = false) ∧
      (refetchWait s a = if what = 3 ∧ wr = true then some 0 else none) ∧ (backOver s 0 4 = [] ↔ what = 0) := by
  simp only [canon_iff, quiet_iff, ownFree_iff]; decide +kernel
theorem test_meets_TestAccessPort_segments : ∀ w ∈ [0, 0x01, 0xFF], let s := { debugging with tap := { segs := BitVec.ofNat 8 w, key := some 3 } }
    (segOpen s .steward = (w != 0)) ∧ s.tap.key = some 3 := by decide +kernel

/-- A matrix descriptor without an output element, whose array is its own to take or runs in another mode. -/
def emptyDesc : Desc := desc 5 (image [(0, [0x10]), (33, [8]), (34, [1]), (35, [1]), (40, toLe 4 2), (44, toLe 4 2), (112, toLe 8 0x4000)])
def emptyState (busy : Bool) : State :=
  { mxReady 0x10 with
    mxe := { modes := [0, 0, 0, 1] }
    descs := emptyDesc :: if busy then [{ mxDesc 0x10 false with id := 4, phase := .running, engine := .matrix { mode := 1, parts := [(3, 0)] } }] else [] }
theorem test_meets_MatrixDescriptorsRun_empty : ∀ busy ∈ [true, false], let s := emptyState busy
    let x := emptyDesc
    Canon s ∧ live s = true ∧ descGet s 5 = some x ∧ x.phase = .ready ∧ x.free = true ∧ geoTiles (geoOf x) = 0 ∧ holdClash s x = false ∧
      (∀ y ∈ s.descs, y.id ≠ 5 → mayStart s y = false) ∧ (formList s (mxArrays x) (geoOf x).mode = [] ↔ busy = true) ∧
      x.unacked = 0 ∧ x.clobbered = [] ∧ x.disturbed = false := by
  simp only [canon_iff]; decide +kernel
theorem test_meets_MatrixDescriptorsRun_pass : let s := splitRun (some 3)
    let x := (descGet s 5).getD (desc 0 [])
    let g := geoOf x
    x.disturbed = false ∧ (∀ p ∈ splitRows x g 0 ++ postReads x g 0, p.2 = 0 ∨ OwnGood s p.1 p.2) ∧
      (∀ w ∈ groupDests x g 0 ++ (groupTiles g 0).flatMap (tileDests x g), w.2 = 0 ∨ OwnClear s w.1 w.2) ∧
      ∃ w ∈ (groupTiles g 0).flatMap (tileDests x g), w.2 ≠ 0 := by
  simp only [ownGood_iff, ownClear_iff]; decide +kernel
/-- Pieces outstanding at the block: one under the bound, or at it. -/
theorem test_meets_MovesRun_pieces : ∀ n ∈ [3, 4],
    let run : MvRun := { row := 0, inflight := List.replicate n { addr := 0x2000, len := 16, left := 16 } }
    let other : Desc := { mvDesc 0 with id := 4, phase := .running, engine := .move run }
    let s := { moving 0 [] [] with descs := [mvDesc 0, other] }
    (movOut s < regBits s 0x800000 4 0 ↔ n = 3) ∧ mvSrc (mvDesc 0) < 2 ^ 64 ∧ mvDst (mvDesc 0) < 2 ^ 64 ∧
      (mvDesc 0).phase = .ready ∧ (mvDesc 0).free = true := by decide +kernel
theorem test_meets_StoppedClusterKeeps_commands : ∀ c ∈ ([.attnReq .high, .controlPeriod (tel 0 0 400)] : List Instr),
    c ≠ .poresetN ∧ c ≠ .warmresetN ∧ (match exec c stopped with
      | .next _ => true
      | _ => false) = true := by decide +kernel

end Sys2Proof.Tests
end

section
/-! Register accesses of a master that is admitted, and the rows of the register map. -/
namespace Sys2Proof.Machine

/-- An admitted access is performed in the state it meets, with the master's privilege (R7, R395). -/
theorem masterDo_admits {s : State} {m : Master} {kind : AccKind} {off : Nat} (h : Admits s m kind off)
    (f : State → Bool → State) {a : Access} (ha : a = { kind := kind, addr := ownAddr s (regBase + off), len := 4 }) :
    masterDo s m a f = f s (masterPriv s m) := by
  obtain ⟨admitted, mapped, allowed⟩ := h
  rw [← ha] at mapped
  cases m with
  | steward =>
    obtain ⟨alive, good⟩ : live s = true ∧ s.boot.stewardBad = false := by simpa using admitted
    simp [masterDo, masterRefusal, stewardParity, alive, good, mapped]
  | debug =>
    obtain ⟨alive, opened⟩ : live s = true ∧ debugOpen s = true := by simpa using admitted
    simp [masterDo, masterRefusal, alive, opened, mapped]
  | agent src =>
    have served : inService s a = true := ha ▸ admitted
    have checked : protCheck s src.toNat a.addr a.len a.kind = none := ha ▸ allowed src rfl
    simp [masterDo, masterRefusal, served, mapped, checked]

theorem masterWrite_admits {s : State} {m : Master} {off : Nat} (h : Admits s m .write off) (v : Nat) :
    masterWrite s m off v = regWrite s (masterPriv s m) (masterUser m) off v :=
  masterDo_admits h (fun s priv => regWrite s priv (masterUser m) off v) rfl

/-- A read by an admitted master that leaves state `u` and answers `w`. -/
theorem masterRead_admits {s u : State} {m : Master} {off w : Nat} (h : Admits s m .read off)
    (read : regRead s (masterPriv s m) (masterUser m) off 4 = (w, u)) :
    masterRead s m off = { u with readout := BitVec.ofNat 64 w } := by
  unfold masterRead
  rw [masterDo_admits h _ rfl, read]

/-! The register map (R390 to R402). -/

/-- Every row of the register map. -/
def registerRows : List RegRow :=
  rowsGen ++ rowsSec ++ rowsCsu ++ rowsDre ++ rowsMxe ++ [{ base := 0x500000, fields := fld .rw 1 }] ++ rowsTc ++ rowsNsds ++
    [{ base := 0x800000, fields := fld .rw 0x10 }] ++ rowsFep ++ rowsCle ++ rowsPtm ++ rowsEeu ++ rowsInd

theorem rowsOfBlock_subset (off : Nat) : rowsOfBlock off ⊆ registerRows := by
  intro r h
  simp only [registerRows, List.mem_append]
  unfold rowsOfBlock at h
  split at h <;> simp [h] at *

theorem rowHas_bounds {r : RegRow} {off : Nat} (h : rowHas r off = true) :
    r.base ≤ off ∧ off ≤ r.base + r.stride * (r.count - 1) := by
  simp only [rowHas, Bool.and_eq_true, decide_eq_true_eq, beq_iff_eq] at h
  obtain ⟨⟨above, aligned⟩, below⟩ := h
  have split := Nat.div_add_mod (off - r.base) r.stride
  have last : r.stride * ((off - r.base) / r.stride) ≤ r.stride * (r.count - 1) := Nat.mul_le_mul_left _ (by omega)
  omega

theorem rowOf_some {r : RegRow} {off : Nat} (h : rowOf off = some r) :
    r ∈ registerRows ∧ r.base ≤ off ∧ off ≤ r.base + r.stride * (r.count - 1) := by
  have has : rowHas r off = true := List.find?_some (p := (rowHas · off)) h
  exact ⟨rowsOfBlock_subset off (List.mem_of_find?_eq_some h), rowHas_bounds has⟩

/-- The registers that do not simply read the word they hold: from an offset to below another. -/
def liveRanges : List (Nat × Nat) :=
  [(0x200014, 0x200018), (0x200020, 0x200030), (0x200070, 0x200074), (0x200080, 0x200084), (0x200098, 0x20009C),
    (0x300034, 0x300038), (0x400110, 0x400120), (0x600400, 0x600800), (0x701000, 0x701800), (0x900024, 0x900028),
    (0xB00070, 0xB00080)]

theorem between_false {off lo hi : Nat} (h : off < lo ∨ hi ≤ off) : (decide (lo ≤ off) && decide (off < hi)) = false := by
  simp only [Bool.and_eq_false_imp, decide_eq_true_eq, decide_eq_false_iff_not]
  omega

theorem specialOf_ne_back {off : Nat} (h : off < 0x701000 ∨ 0x701800 ≤ off) (n k : Nat) : specialOf off ≠ .back n k := by
  simp only [specialOf, between_false h, Bool.false_eq_true, if_false]
  split
  · simp
  split
  · simp
  split <;> simp

theorem liveWord_held {s : State} {off : Nat} (h : ∀ p ∈ liveRanges, off < p.1 ∨ p.2 ≤ off) : liveWord s off = regGet s off := by
  simp only [liveRanges, List.forall_mem_cons] at h
  obtain ⟨h14, h20, h70, h80, h98, h34, hArray, hGroup, hBack, hRoute, hIsland, -⟩ := h
  have present : unitAbsent s off = false := by
    simp only [unitAbsent, between_false hGroup, between_false hArray, Bool.false_and, Bool.or_self]
  have notBack := specialOf_ne_back hBack
  simp only [liveWord, present, between_false h20, between_false hGroup, between_false hIsland, Bool.false_and,
    Bool.false_eq_true, if_false]
  split
  · next n e => exact absurd e (notBack n 5)
  · split
    case h_7 => rfl
    all_goals omega

/-- A register of count or lock fields alone reads the word it holds. -/
theorem guardedRows_held : ∀ r ∈ registerRows, (∀ f ∈ r.fields, f.acc = .rc ∨ f.acc = .lk ∨ f.acc = .lock) →
    ∀ p ∈ liveRanges, r.base + r.stride * (r.count - 1) < p.1 ∨ p.2 ≤ r.base := by
  decide +kernel

theorem liveWord_guarded {s : State} {off : Nat} {r : RegRow} (h : rowOf off = some r)
    (guarded : ∀ f ∈ r.fields, f.acc = .rc ∨ f.acc = .lk ∨ f.acc = .lock) : liveWord s off = regGet s off := by
  obtain ⟨listed, above, below⟩ := rowOf_some h
  refine liveWord_held fun p hp => ?_
  have apart := guardedRows_held r listed guarded p hp
  omega

/-- The bits that the fields of a register cover, where every field is an LK field or a lock. -/
theorem lockedRows_cover : ∀ r ∈ registerRows, (∀ f ∈ r.fields, f.acc = .lk ∨ f.acc = .lock) →
    r.fields.map (fun f => (f.hi, f.lo)) ∈ [[(31, 0)], [(0, 0), (31, 1)], [(30, 0), (31, 31)]] := by
  decide +kernel

/-- Without privilege every LK field and every lock reads zero (R6). -/
theorem visible_unprivileged {fs : List Field} (h : ∀ f ∈ fs, f.acc = .lk ∨ f.acc = .lock) (w : Nat) :
    visible false w fs = (fs.map fun f => (f.hi, f.lo)).foldl (fun a b => setBits b.1 b.2 a 0) w := by
  induction fs generalizing w with
  | nil => rfl
  | cons f fs ih =>
    obtain ⟨guarded, rest⟩ := List.forall_mem_cons.1 h
    have here : visible false w (f :: fs) = visible false (setBits f.hi f.lo w 0) fs := by
      rcases guarded with e | e <;> simp [visible, e]
    rw [here, ih rest]
    rfl

theorem visible_lockedRow {r : RegRow} (listed : r ∈ registerRows) (h : ∀ f ∈ r.fields, f.acc = .lk ∨ f.acc = .lock)
    {w : Nat} (hw : w < 2 ^ 32) : visible false w r.fields = 0 := by
  have cover := lockedRows_cover r listed h
  rw [visible_unprivileged h]
  simp only [List.mem_cons, List.not_mem_nil, or_false] at cover
  rcases cover with e | e | e <;> rw [e] <;> simp [setBits] <;> omega

theorem regGet_lt (s : State) (off : Nat) : regGet s off < 2 ^ 32 := BitVec.isLt _

/-! Direct reads (R6, R199). -/

/-- A read of a pair's LO register answers its low half and captures the whole value. -/
theorem regRead_lo {s : State} {priv : Bool} {user off : Nat} {p : Option Nat} (decoded : regDecode off = off)
    (notInd : indData? off = none) (lo : capturePair off = some p) :
    regRead s priv user off 4 = ((pairValue s p).toNat % 2 ^ 32, capturePut s p) := by
  simp [regRead, directRead, decoded, notInd, lo]

/-- A read of a pair's HI register answers the high half of the captured value. -/
theorem regRead_hi {s : State} {priv : Bool} {user off : Nat} {p : Option Nat} (decoded : regDecode (off + 4) = off + 4)
    (notInd : indData? (off + 4) = none) (notLo : capturePair (off + 4) = none) (lo : capturePair off = some p) :
    regRead s priv user (off + 4) 4 = ((shadowOf s p).toNat / 2 ^ 32, s) := by
  simp [regRead, directRead, decoded, notInd, notLo, lo]

theorem capturePair_none_of_ne {off : Nat} (hosc : off ≠ 0xB00050) (hcnt : ∀ k, off ≠ 0x908000 + 8 * k) :
    capturePair off = none := by
  have notCounter : (decide (0x908000 ≤ off) && decide (off < 0x910000) && off % 8 == 0) = false := by
    have := hcnt ((off - 0x908000) / 8)
    simp only [Bool.and_eq_false_imp, Bool.and_eq_true, decide_eq_true_eq, beq_eq_false_iff_ne]
    omega
  simp only [capturePair, if_neg hosc, notCounter, Bool.false_eq_true, if_false]

/-- What a read of a register of the map with good parity answers and leaves: its visible word, an RC register cleared. -/
def readRow (s : State) (priv : Bool) (off : Nat) (r : RegRow) : Nat × State :=
  (visible priv (liveWord s off) r.fields, if r.fields.any fun f => f.acc == .rc then regPut s off 0 else s)

theorem regRead_row {s : State} {priv : Bool} {user off : Nat} {r : RegRow} (row : rowOf (regDecode off) = some r)
    (notInd : indData? (regDecode off) = none) (notLo : capturePair (regDecode off) = none)
    (notHi : 4 ≤ regDecode off → capturePair (regDecode off - 4) = none) (good : regDecode off ∉ s.cfgBad) :
    regRead s priv user off 4 = readRow s priv (regDecode off) r := by
  have notPair : (if regDecode off ≥ 4 then capturePair (regDecode off - 4) else none) = none := by
    split
    · exact notHi ‹_›
    · rfl
  simp [regRead, directRead, readRow, notInd, notLo, notPair, row, good]

/-- An RC register answers its word and clears (R6). -/
theorem readRow_rc {s : State} {off : Nat} {r : RegRow} (row : rowOf off = some r) (fields : r.fields = fld .rc) (priv : Bool) :
    readRow s priv off r = (regGet s off, regPut s off 0) := by
  rw [readRow, liveWord_guarded row (by simp [fields, fld]), fields]
  rfl

/-- A register of LK fields and locks answers zero without privilege, and keeps its word (R6). -/
theorem readRow_unprivileged {s : State} {off : Nat} {r : RegRow} (row : rowOf off = some r)
    (locked : ∀ f ∈ r.fields, f.acc = .lk ∨ f.acc = .lock) : readRow s false off r = (0, s) := by
  have keeps : (r.fields.any fun f => f.acc == .rc) = false := by
    refine List.any_eq_false.2 fun f hf => ?_
    rcases locked f hf with e | e <;> simp [e]
  rw [readRow, liveWord_guarded row fun f hf => .inr (locked f hf), visible_lockedRow (rowOf_some row).1 locked (regGet_lt s off),
    keeps]
  rfl

/-! The registers after a write of one word. -/

theorem regGet_regPut_same {s : State} (h : Canon s) (off v : Nat) : regGet (regPut s off v) off = v % 2 ^ 32 := by
  have stored : mapGet regReset (regPut s off v).regs off = BitVec.ofNat 32 v := mapGet_set_same h.regs
  rw [regGet, stored, BitVec.toNat_ofNat]

theorem regGet_regPut_other (s : State) {off o : Nat} (v : Nat) (h : o ≠ off) : regGet (regPut s off v) o = regGet s o :=
  congrArg BitVec.toNat (mapGet_set_other h)

end Sys2Proof.Machine
end

section
/-! Reads of registers by a master: the RC registers, the pairs, and what privilege hides (R6, R199, R295). -/
namespace Sys2Proof.Machine

theorem counterBlock_direct {off : Nat} (above : 0x908000 ≤ off) (below : off < 0x910000) :
    regDecode off = off ∧ indData? off = none := by
  have block : off / 0x100000 = 9 := by omega
  have inside : 0x8000 ≤ off % 0x100000 ∧ off % 0x100000 ≤ 0xFFFF := by omega
  have notInd : ¬(0xD00000 ≤ off && off < 0xD00040) := by simp only [Bool.and_eq_true, decide_eq_true_eq]; omega
  exact ⟨by simp [regDecode, block, inside], if_neg notInd⟩

theorem capturePair_counter {c : Nat} (h : c < 4096) : capturePair (0x908000 + 8 * c) = some (some c) := by
  have notOsc : 0x908000 + 8 * c ≠ 0xB00050 := by omega
  have isLo : (decide (0x908000 ≤ 0x908000 + 8 * c) && decide (0x908000 + 8 * c < 0x910000) && (0x908000 + 8 * c) % 8 == 0) = true := by
    simp only [Bool.and_eq_true, decide_eq_true_eq, beq_iff_eq]; omega
  have number : (0x908000 + 8 * c - 0x908000) / 8 = c := by omega
  simp only [capturePair, if_neg notOsc, isLo, if_true, number]

theorem execReadClear_of_read {s u : State} {m : Master} {off w : Nat} (h : Admits s m .read off)
    (read : regRead s (masterPriv s m) (masterUser m) off 4 = (w, u)) :
    exec (.readClear m off) s = .next { u with readout := BitVec.ofNat 64 w } :=
  congrArg _ (masterRead_admits h read)

theorem execCapture_of_read {s u : State} {m : Master} {off w : Nat} (h : Admits s m .read off)
    (lo : (capturePair (regDecode off)).isSome = true) (read : regRead s (masterPriv s m) (masterUser m) off 4 = (w, u)) :
    exec (.capture m off) s = .next { u with readout := BitVec.ofNat 64 w } := by
  show execCapture m off s = _
  rw [execCapture, if_pos lo, masterRead_admits h read]

/-- Settles O42: by the kind of register that the read meets. -/
theorem readsOfRegisters : Obligations.ReadsOfRegisters := by
  unfold Obligations.ReadsOfRegisters
  intro s m canon
  refine ⟨fun off r admits row good notLo notHi notInd => ?_, fun c hc => ⟨fun admits => ?_, fun admits => ?_⟩,
    fun admits => ?_, fun admits => ?_⟩
  · have notHiPair (h : 4 ≤ regDecode off) : capturePair (regDecode off - 4) = none :=
      capturePair_none_of_ne (notHi 0 h).1 fun k e => (notHi k h).2 (by omega)
    have read := regRead_row (priv := masterPriv s m) (user := masterUser m) row notInd notLo notHiPair good
    refine ⟨fun fields => ?_, fun locked unprivileged => ?_⟩
    · rw [readRow_rc row fields] at read
      exact ⟨_, execReadClear_of_read admits read, rfl, regGet_regPut_same canon _ 0, fun o ho => regGet_regPut_other s 0 ho, rfl⟩
    · rw [unprivileged, readRow_unprivileged row locked, ← unprivileged] at read
      exact execReadClear_of_read admits read
  · obtain ⟨decoded, notInd⟩ := counterBlock_direct (off := 0x908000 + 8 * c) (by omega) (by omega)
    have lo := capturePair_counter hc
    exact ⟨_, execCapture_of_read admits (by rw [decoded, lo]; rfl) (regRead_lo decoded notInd lo), rfl,
      mapGet_set_same canon.cntShadow, rfl⟩
  · obtain ⟨decoded, notInd⟩ := counterBlock_direct (off := 0x908004 + 8 * c) (by omega) (by omega)
    have hi : 0x908004 + 8 * c = 0x908000 + 8 * c + 4 := by omega
    rw [hi] at decoded notInd admits ⊢
    have notLo : capturePair (0x908000 + 8 * c + 4) = none := capturePair_none_of_ne (by omega) (by omega)
    exact execReadClear_of_read admits (regRead_hi decoded notInd notLo (capturePair_counter hc))
  · exact execCapture_of_read admits rfl (regRead_lo (p := none) rfl rfl rfl)
  · exact execReadClear_of_read admits (regRead_hi (off := 0xB00050) (p := none) rfl rfl rfl rfl)

end Sys2Proof.Machine
end

section
/-! Writes of the privileged registers that are commands, and the write of the MXE configuration. -/
namespace Sys2Proof.Machine

/-- The privileged registers at which register commands are writes (R199, R217, R246, R284, R314, R325, R349, R351, R359). -/
def lkCommandRegs : List Nat :=
  [0x20005C, 0x200060, 0x200090, 0x300030, 0x700200, 0x900020, 0x900200, 0xA00020, 0xB00004, 0xC00020, 0xC00048]

/-- Such a register is decoded as itself, lies in no array with an effect of its own, and is no register of IND. -/
theorem lkCommandRegs_direct : ∀ off ∈ lkCommandRegs, regDecode off = off ∧ indData? off = none ∧
    specialOf off = .none ∧ ¬(0xD00000 ≤ off && off < 0xD00040 && off % 16 == 0) := by
  decide

theorem openWrite_lkCommand (s : State) (v : Nat) : ∀ off ∈ lkCommandRegs, openWrite s off v = none := by
  simp [lkCommandRegs, openWrite]

theorem lkWrite_lkCommand (s : State) (v : Nat) : ∀ off ∈ lkCommandRegs, (lkWrite s off v).isSome = true := by
  simp [lkCommandRegs, lkWrite, apply_ite Option.isSome]

/-- A write of a command register that privilege or a lock refuses is dropped (R6, R396). -/
theorem masterWrite_refused {s : State} {m : Master} {off : Nat} (hc : off ∈ lkCommandRegs) (h : Admits s m .write off)
    (refused : lkAccepted s (masterPriv s m) off = false) (v : Nat) : masterWrite s m off v = s := by
  obtain ⟨decoded, notInd, notSpecial, notAddr⟩ := lkCommandRegs_direct off hc
  rw [masterWrite_admits h]
  simp only [regWrite, decoded, notInd, if_neg notAddr, directWrite, notSpecial, openWrite_lkCommand s v off hc, refused,
    lkWrite_lkCommand s v off hc, Bool.false_eq_true, if_false, if_true]

theorem lkAccepted_unprivileged (s : State) (off : Nat) : lkAccepted s false off = false := rfl

/-- The commands that are one write of a privileged register whatever the state, each with its register. -/
def lkCommands (m : Master) (c index ring g slot : Nat) (v : Word) : List (Instr × Nat) :=
  [(.counterClear m c, 0x900200), (.routeFront m, 0x900020), (.ptmVlimit m v, 0xB00004), (.parityArm m v, 0x700200),
    (.activationFront m v, 0x20005C), (.confirm m, 0x200060), (.revert m, 0x200060), (.programSlot m slot, 0x200090),
    (.revokeSlot m slot, 0x200090), (.svnAdvance m, 0x200090), (.errDone m index, 0xC00020), (.evtSw m, 0xC00048),
    (.ringDisable m ring, 0x300030), (.ringResume m ring, 0x300030), (.ringFlush m ring, 0x300030),
    (.unloadGroup m g, 0xA00020)]

theorem lkCommands_reg (m : Master) (c index ring g slot : Nat) (v : Word) :
    ∀ p ∈ lkCommands m c index ring g slot v, p.2 ∈ lkCommandRegs := by
  simp [lkCommands, lkCommandRegs]

theorem lkCommands_write (m : Master) (c index ring g slot : Nat) (v : Word) (s : State) :
    ∀ p ∈ lkCommands m c index ring g slot v, ∃ w, exec p.1 s = .next (masterWrite s m p.2 w) := by
  simp only [lkCommands, List.forall_mem_cons]
  refine ⟨⟨_, rfl⟩, ⟨_, rfl⟩, ⟨_, rfl⟩, ⟨_, rfl⟩, ⟨_, rfl⟩, ⟨_, rfl⟩, ⟨_, rfl⟩, ⟨_, rfl⟩, ⟨_, rfl⟩, ⟨_, rfl⟩, ⟨_, rfl⟩, ⟨_, rfl⟩,
    ⟨_, rfl⟩, ⟨_, rfl⟩, ⟨_, rfl⟩, ⟨_, rfl⟩, ?_⟩
  exact List.forall_mem_nil _

/-- Settles O43: each command is a write of its register, and a refused write is dropped. -/
theorem privilegeGuardsCommands : Obligations.PrivilegeGuardsCommands := by
  unfold Obligations.PrivilegeGuardsCommands
  intro s m c index ring g slot v
  refine ⟨fun p hp admits refused => ?_, fun admits unprivileged idle => ?_, fun admits unprivileged idle => ?_⟩
  · obtain ⟨w, runs⟩ := lkCommands_write m c index ring g slot v s p hp
    rw [runs, masterWrite_refused (lkCommands_reg m c index ring g slot v p hp) admits refused]
  · have refused : lkAccepted s (masterPriv s m) 0x300030 = false := by rw [unprivileged, lkAccepted_unprivileged]
    have starts : exec (.ringEnable m ring) s = .next (ringWrite s m 1 ring) := by
      show execRingEnable m ring s = _
      simp [execRingEnable, idle]
    rw [starts, ringWrite, masterWrite_refused (by decide) admits refused]
  · have refused : lkAccepted s (masterPriv s m) 0xA00020 = false := by rw [unprivileged, lkAccepted_unprivileged]
    have starts : exec (.loadGroup m g) s = .next (masterWrite s m 0xA00020 (g % 4096 + 4096)) := by
      show execLoadGroup m g s = _
      simp [execLoadGroup, idle]
    rw [starts, masterWrite_refused (by decide) admits refused]

/-- An accepted write of the MXE configuration: the register, and its generation (R397, R401). -/
theorem regWrite_mxeConfig (s : State) (priv : Bool) (user n : Nat) :
    regWrite s priv user 0x400000 n =
      bumpGens (regPut s 0x400000 (applyFields priv false (regGet s 0x400000) n (fld .rw 3))) [1] := by
  have decoded : regDecode 0x400000 = 0x400000 := rfl
  have notInd : indData? 0x400000 = none := rfl
  have notSpecial : specialOf 0x400000 = .none := rfl
  have row : rowOf 0x400000 = some { base := 0x400000, fields := fld .rw 3 } := rfl
  simp [regWrite, decoded, notInd, directWrite, notSpecial, openWrite, lkWrite, plainWrite, row, unitAbsent, lockedReg, regClamp,
    regGens, fld]

/-- That write clears every retained plane (R61). -/
theorem registerWrite_mxeConfig {s : State} {m : Master} (h : Admits s m .write 0x400000) (v : Word) :
    ∃ u, exec (.registerWrite m 0x400000 v) s = .next u ∧ u.mxe.planes = s.mxe.planes.filter fun p => !p.retained :=
  ⟨_, congrArg Host.Outcome.next ((masterWrite_admits h v.toNat).trans (regWrite_mxeConfig ..)), rfl⟩

/-- A weight plane that its partition retains. -/
def retainedPlane : Plane where
  owner := 1
  array := 0
  part := 0
  mode := 0
  b := 0
  bScale := 0
  bStride := 0
  fmt := 0
  tscale := 0
  kk := 0
  nn := 0
  range := (0, 64)
  sRange := (0, 0)
  retained := true

/-- A cluster in stage 5 whose array 0 retains that plane. -/
def retaining : State :=
  { State.reset with boot := { por := false }, regs := [(0x200010, 5)], mxe := { planes := [retainedPlane] } }

theorem canon_retaining : Canon retaining := ⟨rfl, rfl, by decide, rfl, rfl, rfl, rfl, rfl, rfl⟩

theorem admits_retaining : Admits retaining .steward .write 0x400000 := ⟨by decide, by decide, nofun⟩

/-- Refutes O41: the first clause lets a register write change nothing but registers, generations and marks, and holds at
the MXE configuration register too, whose write also clears the retained planes (R61). -/
theorem not_registersObeyTheirCodes : ¬ Obligations.RegistersObeyTheirCodes := by
  unfold Obligations.RegistersObeyTheirCodes
  intro claim
  obtain ⟨plain, -⟩ := claim retaining .steward 3 canon_retaining
  obtain ⟨u, ran, -, -, -, rest⟩ := plain 0x400000 { base := 0x400000, fields := fld .rw 3 } admits_retaining rfl rfl rfl rfl rfl
    (by decide) (by decide)
  obtain ⟨w, ran', cleared⟩ := registerWrite_mxeConfig admits_retaining 3
  obtain rfl : u = w := by simpa using ran.symm.trans ran'
  have kept : u.mxe.planes = retaining.mxe.planes := congrArg (·.mxe.planes) rest
  rw [cleared] at kept
  exact absurd kept (by decide)

end Sys2Proof.Machine
end

section
/-! The state right after the assertion of PORESET_N (R328). -/
namespace Sys2Proof.Machine

/-- Settles O56: no map of the reset state has an entry, so every register reads its reset value. -/
theorem invariantAtReset : Obligations.InvariantAtReset := by
  unfold Obligations.InvariantAtReset
  have canon : Canon State.reset := ⟨rfl, rfl, rfl, rfl, rfl, rfl, rfl, rfl, rfl⟩
  have sized : Sized State.reset := ⟨rfl, rfl, rfl, rfl⟩
  exact ⟨⟨canon, sized⟩, rfl, rfl, rfl, rfl, rfl, rfl, rfl, rfl, fun _ => rfl, fun _ => rfl, fun _ => rfl, by decide⟩

end Sys2Proof.Machine
end

section
/-! The command at the front of the queue (R10, R194). -/
namespace Sys2Proof.Machine

theorem step_cons {s : State} {c : Instr} {rest : List Instr} (h : s.pending = c :: rest) :
    step s = exec c { s with pending := rest } := by rw [step, h]

theorem step_nil {s : State} (h : s.pending = []) : step s = .next { s with osc := s.osc + 1 } := by rw [step, h]

/-- Settles O55: `step` takes the queue apart, and a command put at its front leaves it as it was. -/
theorem stepRunsTheFront : Obligations.StepRunsTheFront := by
  unfold Obligations.StepRunsTheFront
  exact ⟨fun _ _ _ => step_cons, fun _ _ => step_cons rfl, fun _ => step_nil⟩

end Sys2Proof.Machine
end

section
/-! A retirement that finds the context cache full (R14, R216, R218). -/
namespace Sys2Proof.Machine

/-- A descriptor that is not a thread's collective retires in four steps, 10 to 13 of R14. -/
theorem exec_descriptorRetire {s : State} {d : Nat} {x : Desc} (acts : live s = true) (here : descGet s d = some x)
    (notInsn : clInsn x = false) :
    exec (.descriptorRetire d) s = .next (retireStep (retireStep (retireStep (retireStep s d) d) d) d) := by
  show execDescriptorRetire d s = _
  simp [execDescriptorRetire, whenLive, acts, here, notInsn, List.range_succ]

/-- The first of them, for the oldest descriptor of a ring whose cached context is good. -/
theorem retireStep_finished {s : State} {d : Nat} {x : Desc} {r : Ring} (acts : live s = true)
    (here : descGet s d = some x) (answered : x.unacked = 0) (finished : x.phase = .finished)
    (ringed : x.issue = none) (turn : retireTurn s x = true) (ring : ringGet s x.ring = some r)
    (cached : r.cached = true) (good : s.dre.bad = []) : retireStep s d = recordStep s x := by
  simp [retireStep, here, answered, finished, turn, ringed, cacheRing, ring, cached, contextParity, good, whenLive, acts]

/-- Step 10 once its completion ring's entry is in the context cache: the slot is taken and the record is sent. -/
def recordSend (s : State) (x : Desc) (q : Cq) : State :=
  let slot := q.base + 32 * (q.widx % 2 ^ q.log2)
  let s := cqUpd s q.cq fun c => { c with widx := (c.widx + 1) % 65536 }
  let b := recordSent s q.overwritten (recordBytes x (q.widx / 2 ^ q.log2 % 2 == 0))
  retireWrite (descUpd b.2 x.id fun y => { y with slot := slot }) x 0 slot b.1 fun s a => unitWrite s none a

/-- Step 10 of a descriptor of a ring that no engine ran and that is no image descriptor. -/
theorem recordStep_cq {s : State} {x y : Desc} {q : Cq} (op : dop x < 0xF0) (undisturbed : x.disturbed = false)
    (engine : x.engine = .none) (here : descGet (setPhase s x.id .recording) x.id = some y) (ringed : y.issue = none)
    (cq : (ringGet s y.ring).bind (fun r => s.dre.cqs.find? fun c => c.cq == r.cq) = some q) :
    recordStep s x = recordSend (cacheCq (setPhase s x.id .recording) q.cq) y q := by
  have notImage : ¬0xF0 ≤ dop x := by omega
  have settled : imgSettle s x = s := by simp [imgSettle, notImage]
  have left : aftermath s x = s := by simp [aftermath, undisturbed, engine]
  have cq' : (ringGet (setPhase s x.id .recording) y.ring).bind
      (fun r => (setPhase s x.id .recording).dre.cqs.find? fun c => c.cq == r.cq) = some q := cq
  simp only [recordStep, settled, left, here, Option.getD_some, ringed, cq']
  rfl

/-- The context of ring `r`, and the entry of completion ring `q`, leaves the context cache (R218). -/
def ringEvicted (s : State) (r : Ring) : State :=
  ringBack (ringUpd (draw s 1).2 r.ring fun r => { r with cached := false }) r r.state .evict
@[inherit_doc ringEvicted] def cqEvicted (s : State) (q : Cq) : State :=
  cqBack (cqUpd (draw s 1).2 q.cq fun q => { q with cached := false }) q .evict

/-- A full cache of one ring's context and of entries all alike gives up the one or the other. -/
theorem cacheRoom_full {s : State} {r : Ring} {q : Cq} {n : Nat} (rings : (s.dre.rings.filter fun r => r.cached) = [r])
    (cqs : (s.dre.cqs.filter fun q => q.cached) = List.replicate n q) (full : 4095 ≤ n) :
    cacheRoom s = ringEvicted s r ∨ cacheRoom s = cqEvicted s q := by
  have used : cacheUsed s = n + 1 := by simp [cacheUsed, rings, cqs, Nat.add_comm]
  have notFree : ¬n + 1 < 4096 := by omega
  simp only [cacheRoom, used, if_neg notFree, rings, cqs]
  have bound := Nat.mod_lt (Config.freeWord (draw s 1).1).toNat (Nat.succ_pos n)
  generalize (Config.freeWord (draw s 1).1).toNat % (n + 1) = i at bound ⊢
  cases i with
  | zero => exact .inl rfl
  | succ j =>
    have room : j < n := by omega
    right
    simp [room, cqEvicted]

/-- A ring whose one descriptor failed, its context in the cache. -/
def crowdedRing : Ring where
  ring := 0
  base := 0x1000
  log2 := 1
  cls := 0
  depth := 2
  haltOnFail := false
  preempt := false
  acting := 0
  cq := 0
  head := 0
  tail := 1
  seq := 0
  save := 0
  state := 1
  fetch := 1

/-- Its completion ring, whose next slot is the 32 bytes at 512. -/
def crowdedCq : Cq where
  cq := 0
  base := 512
  log2 := 1
  widx := 0

/-- Its descriptor, ended with ABORTED and naming no counter. -/
def abortedDesc : Desc where
  id := 5
  ring := 0
  index := 0
  seq := 0
  cls := 0
  src := 0
  phase := .finished
  status := 0x0018

/-- A counted write that waits at bank 0, in which the contexts and the completion rings' entries lie. -/
def countedWrite : BankReq where
  bank := 0
  acc := { kind := .write, addr := 128, len := 8, data := List.replicate 8 0, counter := some 0 }

/-- Completion rings' entries: that of completion ring 0 once more, not cached, and as many more as fill the cache. -/
def crowdedCqs : List Cq := crowdedCq :: { crowdedCq with cached := false } :: List.replicate 4094 crowdedCq

theorem crowdedCqs_cq {q : Cq} (h : q ∈ crowdedCqs) : q.cq = 0 := by
  rw [crowdedCqs, List.mem_cons, List.mem_cons] at h
  obtain rfl | rfl | spare := h
  · rfl
  · rfl
  · rw [List.eq_of_mem_replicate spare]; rfl

theorem crowdedCqs_cached : (crowdedCqs.filter fun q => q.cached) = List.replicate 4095 crowdedCq := by
  show crowdedCq :: (List.replicate 4094 crowdedCq).filter (fun q => q.cached) = _
  rw [List.filter_replicate_of_pos rfl]
  rfl

/-- A cluster whose context cache is full, where that descriptor is to retire. -/
def fullCache : State :=
  { State.reset with
    boot := { por := false }
    regs := [(0x200010, 5), (0x300010, 0), (0x300020, 64)]
    xbr := [countedWrite]
    descs := [abortedDesc]
    dre := { rings := [crowdedRing], cqs := crowdedCqs } }

theorem canon_fullCache : Canon fullCache := ⟨rfl, rfl, by decide, rfl, rfl, rfl, rfl, rfl, rfl⟩

theorem ownFree_fullCache : OwnFree fullCache 512 32 where
  some := by decide
  own := by decide
  fits := by decide
  unbacked := by decide
  unordered := by decide
  settled := rfl
  good := rfl
  quiet := ⟨rfl, by decide, List.forall_mem_nil _⟩
  apart := {
    rings := by decide
    cqs := fun q hq => by rw [crowdedCqs_cq hq]; decide
    saves := by decide
    routes := by decide }
  short := by decide
  page := by decide

/-- That cluster with the descriptor in step 10. -/
def fullCacheRecording : State := setPhase fullCache 5 .recording

/-- The rest of the retirement, from a state in which there is room for the entry of the completion ring. -/
def retired (s : State) : State :=
  retireStep (retireStep (retireStep (recordSend (cqUpd s crowdedCq.cq fun q => { q with cached := true })
    { abortedDesc with phase := .recording } crowdedCq) 5) 5) 5

theorem retire_fullCache : exec (.descriptorRetire 5) fullCache = .next (retired (cacheRoom fullCacheRecording)) := by
  have cached : cacheCq fullCacheRecording crowdedCq.cq =
      cqUpd (cacheRoom fullCacheRecording) crowdedCq.cq fun q => { q with cached := true } := by
    have uncached : (fullCacheRecording.dre.cqs.any fun q => q.cq == crowdedCq.cq && !q.cached) = true := rfl
    rw [cacheCq, if_pos uncached]
  have first : retireStep fullCache 5 = recordStep fullCache abortedDesc :=
    retireStep_finished (r := crowdedRing) rfl rfl rfl rfl rfl rfl rfl rfl rfl
  have sent : recordStep fullCache abortedDesc =
      recordSend (cacheCq fullCacheRecording crowdedCq.cq) { abortedDesc with phase := .recording } crowdedCq :=
    recordStep_cq (by decide) rfl rfl rfl rfl rfl
  rw [exec_descriptorRetire (x := abortedDesc) rfl rfl rfl, first, sent, cached, retired]

/-- Whichever of the two leaves the cache, its write-back reaches bank 0 after the counted write, which is served. -/
theorem retired_counters : (retired (ringEvicted fullCacheRecording crowdedRing)).counters = [(0, 8)] ∧
    (retired (cqEvicted fullCacheRecording crowdedCq)).counters = [(0, 8)] := by
  decide +kernel

theorem retire_fullCache_counters : ∃ w, exec (.descriptorRetire 5) fullCache = .next w ∧ w.counters = [(0, 8)] := by
  refine ⟨_, retire_fullCache, ?_⟩
  obtain ring | cq := cacheRoom_full (s := fullCacheRecording) (r := crowdedRing) rfl crowdedCqs_cached (Nat.le_refl _)
  · rw [ring, retired_counters.1]
  · rw [cq, retired_counters.2]

/-- Refutes O29: two entries of one completion ring, the first cached and the second not, meet what the statement
supposes, and in a full cache the retirement then evicts an entry. Its write-back makes bank 0 serve an older counted
write first (R170), so that a counter changes though the descriptor failed. -/
theorem not_descriptorsRetire : ¬ Obligations.DescriptorsRetire := by
  unfold Obligations.DescriptorsRetire
  intro claim
  obtain ⟨-, enabled⟩ := claim fullCache 5 abortedDesc crowdedRing crowdedCq canon_fullCache rfl rfl rfl rfl rfl rfl rfl
    (fun y hy _ => List.mem_singleton.1 hy) rfl (fun y hy => by rw [List.mem_singleton.1 hy]; rfl) rfl rfl rfl rfl rfl
    rfl rfl rfl (.inl (by decide)) rfl (.inl ⟨rfl, rfl⟩) ownFree_fullCache (.inl rfl)
  obtain ⟨u, ran, -, -, -, -, uncounted, -⟩ := enabled rfl
  obtain ⟨w, ran', counted⟩ := retire_fullCache_counters
  obtain rfl : u = w := by simpa using ran.symm.trans ran'
  have kept : u.counters = [] := uncounted (.inl (by decide))
  rw [counted] at kept
  exact absurd kept (by decide)

end Sys2Proof.Machine
end

section
/-! Stores of a task-core thread (R132, R133, R162). -/
namespace Sys2Proof.Machine

theorem length_toLe (n v : Nat) : (toLe n v).length = n := by
  induction n generalizing v with
  | zero => rfl
  | succ n ih => simp [toLe, ih]

/-- The access that a thread's write makes (R132, R171). -/
def storeAccess (t : Nat) (g : Group) (a n v : Nat) (counter : Option Nat) : Access :=
  { kind := .write, addr := a, len := n, data := toLe n v, counter := counter, src := launchSrc g, who := .store t }

theorem checked_unaligned {s : State} {t : Nat} {a : Access} (f : State → State) (h : a.addr % a.len ≠ 0) :
    checked s t a f = raiseFault s t 0x02 (BitVec.ofNat 64 a.addr) 0 := by
  simp [checked, h, raiseAt]

/-- A refused write is counted and faults (R135, R173). -/
theorem checked_refused {s : State} {t why : Nat} {a : Access} (f : State → State) (aligned : a.addr % a.len = 0)
    (plain : a.kind = .write) (refused : issueRefusal s a = some why) :
    checked s t a f = raiseFault (noteRefusal s true a.src a.addr why) t 0x04 (BitVec.ofNat 64 a.addr) 0 := by
  simp [checked, aligned, refused, raiseAt, ordNoteRefused, plain]

theorem threadWrite_checked (s : State) (t : Nat) (g : Group) (a n v : Nat) (counter : Option Nat) :
    ∃ f, threadWrite s t g a (toLe n v) counter = checked s t (storeAccess t g a n v counter) f := by
  rw [threadWrite, length_toLe]
  exact ⟨_, rfl⟩

/-- A thread's write that enters a bank's queue changes the queue and the matrix engine's planes alone (R61, R170). -/
theorem bankQueue_write (s : State) {a : Access} (h : a.kind = .write) :
    (bankQueue s a).xbr = s.xbr ++ [{ bank := bankOf (offsetOf a.addr), acc := a }] ∧
      { bankQueue s a with xbr := s.xbr, mxe := s.mxe } = s := by
  simp [bankQueue, h, clearPlanes]

/-- What a store whose write is `threadWrite` does once it issues. -/
theorem store_gives {s : State} {t : Nat} {g : Group} {x : Thread} {c : Instr} {a n v : Nat} {counter : Option Nat}
    (here : threadAt s t = some (g, x)) (free : x.hold = .free)
    (runs : isChip a = false ∨ counter = none → exec c s = .next (threadWrite s t g a (toLe n v) counter)) :
    let acc := storeAccess t g a n v counter
    let held := threadNow s t { stepped x with unacked := x.unacked + 1 }
    (a % n = 0 → issueRefusal s acc = none →
      (isOwn s a = true → inSpm s (offsetOf a) n = true → exec c s = .next (bankQueue held acc) ∧
        (bankQueue held acc).xbr = held.xbr ++ [{ bank := bankOf (offsetOf a), acc := acc }] ∧
        { bankQueue held acc with xbr := held.xbr, mxe := held.mxe } = held) ∧
      (isChip a = false → exec c s = .next (threadAccess held acc)) ∧
      (isChip a = true → counter = none →
        exec c s = .next (threadAccess (l1Store held (coreOf t) a (toLe n v)) acc))) ∧
    (isChip a = false ∨ counter = none → a % n ≠ 0 → exec c s = .next (raiseFault s t 0x02 (BitVec.ofNat 64 a) 0)) ∧
    (isChip a = false ∨ counter = none → a % n = 0 → ∀ why, issueRefusal s acc = some why →
      exec c s = .next (raiseFault (noteRefusal s true (launchSrc g) a why) t 0x04 (BitVec.ofNat 64 a) 0)) := by
  intro acc held
  refine ⟨fun aligned allowed => ?_, fun plain unaligned => ?_, fun plain aligned why refused => ?_⟩
  · have write : threadWrite s t g a (toLe n v) counter =
        threadAccess (if isChip a then l1Store held (coreOf t) a (toLe n v) else held) acc :=
      threadWrite_eq here free aligned allowed
    have near (h : isChip a = false) : exec c s = .next (threadAccess held acc) := by
      rw [runs (.inl h), write, h]; rfl
    refine ⟨fun own fits => ?_, near, fun chip uncounted => ?_⟩
    · have arrives : threadAccess held acc = bankQueue held acc := access_own (s := held) (a := acc) own fits
      exact ⟨by rw [near (own_notChip own), arrives], bankQueue_write held rfl⟩
    · rw [runs (.inr uncounted), write, chip]; rfl
  · obtain ⟨f, write⟩ := threadWrite_checked s t g a n v counter
    rw [runs plain, write, checked_unaligned f unaligned]
    rfl
  · obtain ⟨f, write⟩ := threadWrite_checked s t g a n v counter
    rw [runs plain, write, checked_refused f aligned rfl refused]
    rfl

/-- A store of register `d` to the address in `a` plus an immediate. -/
theorem storeInsn_issues {s : State} {t : Nat} {m : Mn} {g : Group} {x : Thread} {w : Word} (h : Issues s t m g x w) (n : Nat) :
    storeInsn s t m n =
      .next (threadWrite s t g (sGet x (iA w) + BitVec.ofInt 64 (if bitsOf 11 0 w.toNat < 2 ^ 11 then (bitsOf 11 0 w.toNat : Int)
        else (bitsOf 11 0 w.toNat : Int) - 2 ^ 12)).toNat (toLe n (sGet x (iD w)).toNat) none) := by
  rw [storeInsn, onInsn_issues h, iImm12_eq]

theorem stC_issues {s : State} {t : Nat} {g : Group} {x : Thread} {w : Word} (h : Issues s t .stc g x w) :
    exec (.stC t) s = .next (if isChip (sGet x (iA w)).toNat then raiseIllegal s t w
      else threadWrite s t g (sGet x (iA w)).toNat (toLe 8 (sGet x (iD w)).toNat) (some (bitsOf 11 0 (sGet x (iB w)).toNat))) :=
  congrArg Host.Outcome.next (onInsn_issues h)

/-- Settles O5: every store is one `threadWrite`, which faults or reaches `threadAccess`. -/
theorem storesIssue : Obligations.StoresIssue := by
  unfold Obligations.StoresIssue
  intro s t g x w n12 arrives gives a ac
  have plain {m : Mn} {c : Instr} {n : Nat} (runs : exec c s = storeInsn s t m n) : gives m c n a none :=
    fun h => store_gives h.here h.free fun _ => runs.trans (storeInsn_issues h n)
  refine ⟨plain rfl, plain rfl, plain rfl, plain rfl, fun h => store_gives h.here h.free fun p => ?_, fun h chip => ?_⟩
  · have near : isChip ac = false := by simpa using p
    rw [stC_issues h, near]
    rfl
  · rw [stC_issues h, chip]
    rfl

end Sys2Proof.Machine
end

section
/-! A row of a drained tile that reaches the end of the window (R59, R89, R164, R168). -/
namespace Sys2Proof.Machine

/-- A chain of one STORE of FP32 elements, two bytes before the end of the window. -/
def edgeChain : List Byte :=
  padTo 64 [1] ++ [0x19] ++ List.replicate 15 0 ++ toLe 8 (2 ^ 40 - 2) ++ List.replicate 8 0

/-- Its STORE. -/
def edgeStore : Stage := stageAt edgeChain 0

/-- The run of a product of one tile, of which nothing has drained. -/
def edgeRun : MxRun where
  mode := 0
  parts := [(0, 0)]

/-- A MATMUL of one row, one column and no products, whose element is stored there. -/
def edgeDesc : Desc where
  id := 5
  ring := 0
  index := 0
  seq := 0
  cls := 0
  src := 0
  phase := .running
  bytes := padTo 32 [0x10] ++ [0, 1, 0, 0] ++ toLe 4 1 ++ toLe 4 1
  chain := edgeChain
  engine := .matrix edgeRun

/-- A cluster that runs it, with near scratchpad beyond the window's 2^40 bytes, and whose byte 0 is 1. -/
def edgeState : State :=
  { State.reset with
    boot := { por := false }
    par := { State.reset.par with nsMib := 2 ^ 20 + 1 }
    regs := [(0x200010, 5)]
    spm := [(0, 1)]
    descs := [edgeDesc] }

theorem canon_edgeState : Canon edgeState := ⟨by decide, rfl, by decide, rfl, rfl, rfl, rfl, rfl, rfl⟩

theorem edge_drains : ∃ w, exec (.tileDrain 5 0) edgeState = .next w ∧ spmByte w 0 = 0 := by
  have h : (match exec (.tileDrain 5 0) edgeState with
    | .next w => spmByte w 0 == 0
    | _ => false) = true := by decide +kernel
  split at h
  · next w e => exact ⟨w, e, by simpa using h⟩
  all_goals exact absurd h (by decide)

/-- The four bytes of the element lie in range, and nothing stands in their way. -/
theorem ownClear_edgeState : OwnClear edgeState (2 ^ 40 - 2) 4 where
  some := by decide
  own := by decide
  fits := by decide
  unbacked := by decide +kernel
  unordered := by decide +kernel
  settled := rfl
  good := rfl
  quiet := ⟨rfl, List.forall_mem_nil _, List.forall_mem_nil _⟩
  apart := {
    rings := List.forall_mem_nil _
    cqs := List.forall_mem_nil _
    saves := by decide
    routes := by decide }

/-- The sums of the tile, and where its row `j` is stored with what bytes. -/
def edgeSums : List (List AccSum) := (accAt edgeState (heldByte edgeState 5) edgeDesc (geoOf edgeDesc) (0, 0) 0).1
@[inherit_doc edgeSums] def edgePlace (j : Nat) : Nat :=
  edgeStore.addr + ((tileRow (geoOf edgeDesc) 0).1 + j) * edgeStore.stride +
    (tileColAt edgeDesc (geoOf edgeDesc) 8 0).1 * fmtBits (fmtAt edgeStore.fmt) / 8
@[inherit_doc edgeSums] def edgeBytes (j : Nat) : List Byte :=
  let row := (tileRow (geoOf edgeDesc) 0).1 + j
  (termRow edgeDesc (geoOf edgeDesc) edgeStore row (tileColAt edgeDesc (geoOf edgeDesc) 8 0).1
    (preRow (heldByte edgeState 5) (coefOf edgeState) edgeDesc (geoOf edgeDesc) row (tileCol (geoOf edgeDesc) 0).1
      ((edgeSums[j]?).getD [])).1).elems

/-- The tile has one row. -/
theorem edgeSums_row {j : Nat} (h : j < edgeSums.length) : j = 0 := by
  have one : edgeSums.length = 1 := by decide +kernel
  omega

theorem edgePlace_zero : edgePlace 0 = 2 ^ 40 - 2 := by decide

theorem length_edgeBytes_zero : (edgeBytes 0).length = 4 := by decide +kernel

/-- Refutes O51: nothing bounds the member's parameters, and where near scratchpad reaches past the window's 2^40 bytes, a
drained row that is to cross their end is cut at a page there and its rest is stored at offset 0, outside its place. -/
theorem not_matrixDescriptorsRun : ¬ Obligations.MatrixDescriptorsRun := by
  unfold Obligations.MatrixDescriptorsRun
  intro claim
  have clear (j : Nat) (hj : j < edgeSums.length) (_ : edgeBytes j ≠ []) :
      OwnClear edgeState (edgePlace j) (edgeBytes j).length := by
    rw [edgeSums_row hj, edgePlace_zero, length_edgeBytes_zero]
    exact ownClear_edgeState
  have alone (j : Nat) (hj : j < edgeSums.length) (k : Nat) (hk : k < edgeSums.length) (apart : j ≠ k) :
      overlap (edgePlace j) (edgeBytes j).length (edgePlace k) (edgeBytes k).length = false :=
    absurd ((edgeSums_row hj).trans (edgeSums_row hk).symm) apart
  have outside (j : Nat) (hj : j < edgeSums.length) :
      ¬(offsetOf (edgePlace j) ≤ 0 ∧ 0 < offsetOf (edgePlace j) + (edgeBytes j).length) := by
    rw [edgeSums_row hj, edgePlace_zero]
    exact fun h => absurd h.1 (by decide)
  obtain ⟨-, -, drains, -⟩ := claim edgeState 5 edgeDesc canon_edgeState rfl rfl
  obtain ⟨u, -, -, ran, -, -, -, -, kept⟩ := drains edgeRun 0 (0, 0) edgeStore rfl rfl rfl rfl rfl rfl rfl rfl rfl rfl rfl rfl
    rfl rfl rfl rfl rfl rfl (List.forall_mem_nil _) clear alone
  obtain ⟨w, ran', stored⟩ := edge_drains
  obtain rfl : u = w := by simpa using ran.symm.trans ran'
  have same : spmByte u 0 = spmByte edgeState 0 := kept 0 outside
  rw [stored] at same
  exact absurd same (by decide)

end Sys2Proof.Machine
end

section
/-! What an error that is raised leaves of the descriptors (R311 to R317). -/
namespace Sys2Proof.Machine

theorem foldl_descs {α : Type} {f : State → α → State} (h : ∀ s a, (f s a).descs = s.descs) (l : List α) (s : State) :
    (l.foldl f s).descs = s.descs := by
  induction l generalizing s with
  | nil => rfl
  | cons a l ih => exact (ih (f s a)).trans (h s a)

theorem foldl_fst_descs {α β : Type} {f : State × β → α → State × β} (h : ∀ r a, (f r a).1.descs = r.1.descs) (l : List α)
    (r : State × β) : (l.foldl f r).1.descs = r.1.descs := by
  induction l generalizing r with
  | nil => rfl
  | cons a l ih => exact (ih (f r a)).trans (h r a)

@[simp] theorem noteRefusal_descs (s : State) (out : Bool) (src addr reason : Nat) :
    (noteRefusal s out src addr reason).descs = s.descs := rfl
@[simp] theorem setEvent_descs (s : State) (b : Nat) : (setEvent s b).descs = s.descs := rfl
@[simp] theorem eeuStatus_descs (s : State) : (eeuStatus s).descs = s.descs := by
  simp only [eeuStatus, regPutBits_descs, regPut_descs]
@[simp] theorem suppPut_descs (s : State) (k : Nat × Nat) (v : Option Nat × Nat) : (suppPut s k v).descs = s.descs := rfl
@[simp] theorem linksDown_descs (s : State) : (linksDown s).descs = s.descs :=
  foldl_descs (fun s _ => regPutBits_descs s ..) _ s

@[simp] theorem wakeBanks_descs (s : State) (off len : Nat) : (wakeBanks s off len).descs = s.descs := by
  unfold wakeBanks; split <;> rfl

@[simp] theorem entriesWritten_descs (s : State) (addr len : Nat) : (entriesWritten s addr len).descs = s.descs := by
  unfold entriesWritten; dsimp only; split <;> rfl

@[simp] theorem routeWritten_descs (s : State) (off len : Nat) : (routeWritten s off len).descs = s.descs := by
  unfold routeWritten; split <;> rfl

@[simp] theorem spmStore_descs (s : State) (off : Nat) (bs : List Byte) : (spmStore s off bs).descs = s.descs := by
  unfold spmStore
  dsimp only
  split
  · split <;> rfl
  · rfl

@[simp] theorem cmpPump_descs (s : State) (ch : Nat) : (cmpPump s ch).descs = s.descs := by
  unfold cmpPump
  dsimp only
  split
  · rfl
  split
  · rfl
  split
  · rfl
  split
  · split <;> rfl
  · rfl

@[simp] theorem cmpOne_descs (s : State) (a : Access) : (cmpOne s a).descs = s.descs :=
  (cmpPump_descs ..).trans (chanUpd_descs ..)

@[simp] theorem cmpSend_descs (s : State) (a : Access) : (cmpSend s a).1.descs = s.descs := by
  refine (foldl_descs (fun s p => cmpOne_descs s _) _ _).trans ?_
  split
  · rfl
  · exact entriesWritten_descs ..

@[simp] theorem homeWrite_descs (s : State) (off : Nat) (bs : List Byte) (who : Who) :
    (homeWrite s off bs who).1.descs = s.descs := by
  unfold homeWrite
  refine foldl_fst_descs (fun r n => ?_) _ _
  exact cmpSend_descs ..

@[simp] theorem writeThrough_descs (s : State) (a : Access) (runs : List (Nat × List Byte)) (count : Option (Nat × Nat))
    (old : List Byte) : (writeThrough s a runs count old).1.descs = s.descs := by
  unfold writeThrough
  split
  · rfl
  · refine (foldl_fst_descs (fun r n => ?_) runs _).trans (newId_descs s)
    exact homeWrite_descs ..

@[simp] theorem deliverEntry_descs (s : State) : (deliverEntry s).descs = s.descs := by
  unfold deliverEntry
  split
  · split <;> simp
  · simp

@[simp] theorem writeFatal_descs (s : State) (e : ErrRec) (cls : Nat) (esc : Bool) : (writeFatal s e cls esc).descs = s.descs := by
  unfold writeFatal; split <;> rfl

@[simp] theorem stopCluster_descs (s : State) (supply : Bool) : (stopCluster s supply).descs = s.descs := by
  have shut : (if eeuShut s then s else setEvent s 2).descs = s.descs := by split <;> rfl
  simp only [stopCluster, linksDown_descs]
  split <;> exact shut

@[simp] theorem countCorrected_descs (s : State) (res : Nat) : (countCorrected s res).descs = s.descs := by
  unfold countCorrected
  dsimp only
  split <;> split <;> split <;> rfl

/-- The descriptors of one state are those of another, but for the writes that were noted in them (R62, R323). -/
def DescsNoted (s u : State) : Prop :=
  ∃ f : Desc → Desc, (∀ x, { f x with wrote := x.wrote, clobbered := x.clobbered } = x) ∧ u.descs = s.descs.map f

theorem DescsNoted.of_eq {s u : State} (h : u.descs = s.descs) : DescsNoted s u :=
  ⟨id, fun _ => rfl, by rw [h, List.map_id]⟩

theorem DescsNoted.trans {s t u : State} : DescsNoted s t → DescsNoted t u → DescsNoted s u := by
  rintro ⟨f, hf, ht⟩ ⟨g, hg, hu⟩
  refine ⟨g ∘ f, fun x => ?_, by rw [hu, ht, List.map_map]⟩
  have inner := hf x
  rw [← hg (f x)] at inner
  exact inner

/-- A descriptor is found where it was, changed in those two fields alone. -/
theorem DescsNoted.get {s u : State} {d : Nat} {x : Desc} : DescsNoted s u → descGet s d = some x →
    ∃ y, descGet u d = some y ∧ { y with wrote := x.wrote, clobbered := x.clobbered } = x := by
  rintro ⟨f, hf, hu⟩ here
  have ids (y : Desc) : (f y).id = y.id := congrArg (·.id) (hf y)
  have found : descGet u d = (descGet s d).map f := by
    rw [descGet, hu, List.find?_map]
    congr 2
    funext y
    simp [ids]
  exact ⟨f x, by rw [found, here]; rfl, hf x⟩

theorem noteWrite_noted (s : State) (owner : Option Nat) (off len : Nat) : DescsNoted s (noteWrite s owner off len) := by
  refine ⟨_, fun x => ?_, rfl⟩
  dsimp only
  split
  · rfl
  · split <;> rfl

theorem spmWrite_noted (s : State) (owner : Option Nat) (off : Nat) (bs : List Byte) : DescsNoted s (spmWrite s owner off bs) :=
  .trans (.of_eq (spmStore_descs ..)) (noteWrite_noted ..)

theorem foldl_noted {α : Type} {f : State → α → State} (h : ∀ s a, DescsNoted s (f s a)) (l : List α) (s : State) :
    DescsNoted s (l.foldl f s) := by
  induction l generalizing s with
  | nil => exact .of_eq rfl
  | cons a l ih => exact (h s a).trans (ih (f s a))

theorem storeRuns_noted (s : State) (owner : Option Nat) (a : Access) (runs : List (Nat × List Byte))
    (count : Option (Nat × Nat)) (old : List Byte) : DescsNoted s (storeRuns s owner a runs count old).1 := by
  refine .trans (foldl_noted (fun s r => ?_) runs s) (.of_eq (writeThrough_descs ..))
  refine .trans (.trans (.of_eq (wakeBanks_descs s r.1 r.2.length)) (spmWrite_noted _ owner r.1 r.2)) (.of_eq ?_)
  split <;> simp

theorem unitStore_noted (s : State) (off : Nat) (bs : List Byte) : DescsNoted s (unitStore s off bs) := by
  unfold unitStore
  dsimp only
  split
  · exact .of_eq rfl
  · split
    · exact .of_eq rfl
    · exact storeRuns_noted ..

theorem writeEntry_noted (s : State) (e : ErrRec) (cls : Nat) (esc : Bool) (supp : Nat) :
    DescsNoted s (writeEntry s e cls esc supp).1 := by
  unfold writeEntry
  dsimp only
  split
  · exact .of_eq rfl
  · exact (unitStore_noted s (regGet s 0xC00010 % 2 ^ 27 / 64 * 64 + 64 * (logW s % 256))
      (logBytes s.osc (logW s) e cls esc supp)).trans (.of_eq (by simp))

/-- An error that is raised changes no descriptor, apart from its log entry's write. -/
theorem raiseErr_noted (s : State) (e : ErrRec) : DescsNoted s (raiseErr s e) := by
  unfold raiseErr
  split
  · split
    · exact .of_eq rfl
    · split
      · exact .of_eq (stopCluster_descs ..)
      · exact .of_eq rfl
  split
  · split <;> exact .of_eq rfl
  have entry (s : State) (cls : Nat) (esc : Bool) (supp : Nat) (u : State)
      (h : u.descs = (writeEntry s e cls esc supp).1.descs) : DescsNoted s u := (writeEntry_noted ..).trans (.of_eq h)
  split
  · refine .trans (.of_eq (countCorrected_descs s e.resource)) ?_
    dsimp only
    split
    · exact .of_eq rfl
    · split <;> exact entry _ 1 false _ _ (suppPut_descs ..)
  · dsimp only
    split
    · exact entry s 3 true 0 _ (by simp)
    · exact entry s 2 false 0 _ (setEvent_descs ..)
  · exact entry s 3 false 0 _ (by simp)
  · dsimp only
    split
    · exact entry s 4 false 0 _ (by simp)
    · exact entry s 4 false 0 _ (setEvent_descs ..)

end Sys2Proof.Machine
end

section
/-! Fields of a descriptor as bits of its 128 bytes (R227). -/
namespace Sys2Proof.Machine

theorem leNat_take (bs : List Byte) (n : Nat) : leNat (bs.take n) = leNat bs % 256 ^ n := by
  induction bs generalizing n with
  | nil => simp [leNat]
  | cons b bs ih =>
    cases n with
    | zero => simp [leNat, Nat.mod_one]
    | succ n =>
      have hb := b.isLt
      rw [List.take_succ_cons, leNat, leNat, ih, Nat.pow_succ', Nat.mod_mul, Nat.add_mul_mod_self_left,
        Nat.mod_eq_of_lt hb, Nat.add_mul_div_left _ _ (by omega), Nat.div_eq_of_lt hb, Nat.zero_add]

theorem leNat_drop (bs : List Byte) (n : Nat) : leNat (bs.drop n) = leNat bs / 256 ^ n := by
  induction bs generalizing n with
  | nil => simp [leNat]
  | cons b bs ih =>
    cases n with
    | zero => simp
    | succ n =>
      have hb := b.isLt
      rw [List.drop_succ_cons, leNat, ih, Nat.pow_succ', ← Nat.div_div_eq_div_mul, Nat.add_mul_div_left _ _ (by omega),
        Nat.div_eq_of_lt hb, Nat.zero_add]

/-- Bits of a run of bits of a number. -/
theorem bitsOf_div_mod {m a b hi lo : Nat} (h : hi < b) : bitsOf hi lo (m / 2 ^ a % 2 ^ b) = m / 2 ^ (a + lo) % 2 ^ (hi + 1 - lo) := by
  unfold bitsOf
  rcases Nat.lt_or_ge hi lo with above | below
  · rw [show hi + 1 - lo = 0 by omega, Nat.pow_zero, Nat.mod_one, Nat.mod_one]
  · have split : 2 ^ b = 2 ^ lo * 2 ^ (b - lo) := by rw [← Nat.pow_add]; congr 1; omega
    rw [split, Nat.mod_mul_right_div_self, Nat.mod_mod_of_dvd _ (Nat.pow_dvd_pow 2 (by omega)), Nat.div_div_eq_div_mul,
      ← Nat.pow_add]

/-- Bits of a field are bits of the whole structure. -/
theorem bitsOf_fieldAt (bs : List Byte) {off len n hi lo : Nat} (inField : hi < 8 * len) (inside : off + len ≤ n) :
    bitsOf hi lo (fieldAt bs off len) = bitsOf (8 * off + hi) (8 * off + lo) (fieldAt bs 0 n) := by
  have base (k : Nat) : 256 ^ k = 2 ^ (8 * k) := by rw [Nat.pow_mul]
  have whole := bitsOf_div_mod (m := leNat bs) (a := 0) (lo := 8 * off + lo) (show 8 * off + hi < 8 * n by omega)
  rw [Nat.pow_zero, Nat.div_one, Nat.zero_add, show 8 * off + hi + 1 - (8 * off + lo) = hi + 1 - lo by omega] at whole
  rw [fieldAt, fieldAt, leNat_take, leNat_take, leNat_drop, List.drop_zero, base, base, base, bitsOf_div_mod inField, whole]

theorem bitOf_eq (i n : Nat) : bitOf i n = (bitsOf i i n == 1) := by
  simp [bitOf, bitsOf]

/-- The same of one bit. -/
theorem bitOf_fieldAt (bs : List Byte) {off len n i : Nat} (inField : i < 8 * len) (inside : off + len ≤ n) :
    bitOf i (fieldAt bs off len) = bitOf (8 * off + i) (fieldAt bs 0 n) := by
  rw [bitOf_eq, bitOf_eq, bitsOf_fieldAt bs inField inside]

theorem dCntEn_eq (d : Desc) : dCntEn d = bitOf 8 (dfield d 0 128) := bitOf_fieldAt d.bytes (by decide) (by decide)

theorem dDbEn_eq (d : Desc) : dDbEn d = bitOf 9 (dfield d 0 128) := bitOf_fieldAt d.bytes (by decide) (by decide)

theorem dCntCluster_eq (d : Desc) : dCntCluster d = bitsOf 62 44 (dfield d 0 128) :=
  bitsOf_fieldAt d.bytes (by decide) (by decide)

theorem dDbCluster_eq (d : Desc) : dDbCluster d = bitsOf 114 96 (dfield d 0 128) :=
  bitsOf_fieldAt d.bytes (by decide) (by decide)

theorem dDbValue_bits (d : Desc) {hi lo : Nat} (h : hi < 64) :
    bitsOf hi lo (dDbValue d) = bitsOf (128 + hi) (128 + lo) (dfield d 0 128) :=
  bitsOf_fieldAt d.bytes h (by decide)

/-- A count-only advance to a multicast identifier, read off the whole descriptor (R198, R227). -/
theorem countMulticast_eq (d : Desc) :
    countMulticast d = (bitOf 8 (dfield d 0 128) && decide (mcastBase ≤ bitsOf 62 44 (dfield d 0 128))) := by
  rw [countMulticast, dCntEn_eq, dCntCluster_eq]

end Sys2Proof.Machine
end

section
/-! Validation of a fetched descriptor, step by step (R240). -/
namespace Sys2Proof.Machine

theorem descGet_id {s : State} {d : Nat} {x : Desc} (h : descGet s d = some x) : x.id = d := by
  simpa using List.find?_some h

theorem descGet_descUpd {s : State} {d : Nat} {f : Desc → Desc} {x : Desc} (here : descGet s d = some x) (same : (f x).id = d) :
    descGet (descUpd s d f) d = some (f x) := by
  unfold descGet descUpd at *
  generalize s.descs = l at here
  induction l with
  | nil => cases here
  | cons y l ih =>
    rw [replaceFirst]
    by_cases h : (y.id == d) = true
    · obtain rfl : y = x := by simpa [List.find?_cons, h] using here
      simp [h, same]
    · have later : l.find? (fun x => x.id == d) = some x := by simpa [List.find?_cons, h] using here
      simpa [List.find?_cons, h] using ih later

/-- A descriptor that is found finished and rejected with a status (R239). -/
def RejectedWith (s : State) (d status : Nat) : Prop :=
  ∃ y, descGet s d = some y ∧ y.phase = .finished ∧ y.status = status ∧ y.rejected = true

theorem DescsNoted.rejectedWith {s u : State} {d status : Nat} (noted : DescsNoted s u) :
    RejectedWith s d status → RejectedWith u d status := by
  rintro ⟨x, here, finished, stat, rejected⟩
  obtain ⟨y, there, same⟩ := noted.get here
  exact ⟨y, there, by rw [← finished, ← same], by rw [← stat, ← same], by rw [← rejected, ← same]⟩

/-- A rejected descriptor ends with the status of the step that failed (R239, R240). -/
theorem rejectDesc_rejects {s : State} {d : Nat} {x : Desc} (here : descGet s d = some x) (going : x.phase ≠ .finished)
    (status : Nat) (det : Detail) : RejectedWith (rejectDesc s d status det) d status := by
  have id := descGet_id here
  have marked : descGet (descUpd s d fun x => { x with rejected := true }) d = some { x with rejected := true } :=
    descGet_descUpd here id
  simp only [rejectDesc, endDesc, marked, going, if_false, Bool.not_true, Bool.and_false, Bool.false_eq_true]
  have ended := descGet_descUpd (f := fun _ =>
    { x with rejected := true, phase := .finished, status := status, detail := det, waitBlock := none }) marked id
  split
  · exact ⟨_, ended, rfl, rfl, rfl⟩
  · exact (raiseErr_noted ..).rejectedWith ⟨_, ended, rfl, rfl, rfl⟩

/-- A descriptor is where it was after the barriers are freed, but for being free (R224). -/
theorem freeBarriers_get {s : State} {d : Nat} {x : Desc} (here : descGet s d = some x) :
    ∃ b, descGet (freeBarriers s) d = some { x with free := b } := by
  unfold freeBarriers
  split
  · exact ⟨x.free, here⟩
  · have found : descGet { s with descs := s.descs.map fun y =>
        if y.phase = .ready && !barrierHeld s y then { y with free := true } else y } d =
        (descGet s d).map fun y => if y.phase = .ready && !barrierHeld s y then { y with free := true } else y := by
      rw [descGet, List.find?_map]
      congr 2
      funext y
      simp only [Function.comp_apply]
      split <;> rfl
    rw [found, here, Option.map_some]
    split
    · exact ⟨true, rfl⟩
    · exact ⟨x.free, rfl⟩

/-- What validation makes of a descriptor that it accepts. -/
theorem validated_get {t : State} {d : Nat} {x y : Desc} (here : descGet t d = some x) (id : y.id = d) :
    ∃ z, descGet (validated t y) d = some z ∧ z.phase = .ready ∧ z.chain = y.chain ∧ z.aux = y.aux ∧ z.bytes = x.bytes ∧
      z.rejected = x.rejected := by
  subst id
  have same := descGet_id here
  obtain ⟨b, freed⟩ := freeBarriers_get (descGet_descUpd (f := fun x =>
    { x with phase := .ready, chain := y.chain, aux := y.aux, remote := namesRemote t y
             disturbed := x.disturbed || (x.fepMoved && namesRemote t y) }) here same)
  exact ⟨_, freed, rfl, rfl, rfl, rfl, rfl⟩

/-- The command that validates a descriptor rejects it with a status. -/
def ValidateRejects (s : State) (d status : Nat) : Prop :=
  ∃ u y, exec (.descriptorValidate d) s = .next u ∧ descGet u d = some y ∧ y.phase = .finished ∧ y.status = status ∧
    y.rejected = true

/-- A descriptor that DRE can validate now: fetched, of no thread's collective, in a cluster that acts. -/
structure Validates (s : State) (d : Nat) (x : Desc) : Prop where
  acts : live s = true
  serves : s.dre.stopFetch = false
  here : descGet s d = some x
  fetched : x.phase = .fetched
  notInsn : clInsn x = false

/-- What validation makes of a fetched descriptor (R240). -/
def validateFetched (s : State) (d : Nat) (x : Desc) : State :=
  if stepOne s x != 0 then ringSync (rejectDesc s d (stepOne s x) {})
  else if !unitsOk s x || (headRanges s x).any (fun r => beyond s r.addr r.len) then ringSync (rejectDesc s d stParamRange {})
  else match (loadStructures s x).2 with
    | .done y => ringSync (validateSteps (gatherDrop (loadStructures s x).1 d) y)
    | .stopped => ringSync (loadStructures s x).1

namespace Validates
variable {s : State} {d : Nat} {x y : Desc} (h : Validates s d x)
include h

theorem exec_eq : exec (.descriptorValidate d) s = .next (validateFetched s d x) := by
  show execDescriptorValidate d s = _
  simp only [execDescriptorValidate, whenLive, h.acts, if_true, h.here, h.serves, h.fetched, h.notInsn, Bool.false_eq_true,
    if_false]
  rfl

theorem rejects {t : State} {status : Nat} {det : Detail} (there : t.descs = s.descs)
    (runs : exec (.descriptorValidate d) s = .next (ringSync (rejectDesc t d status det))) : ValidateRejects s d status := by
  have here : descGet t d = some x := by rw [descGet, there]; exact h.here
  obtain ⟨y, ended⟩ := rejectDesc_rejects here (by rw [h.fetched]; nofun) status det
  exact ⟨_, y, runs, ended⟩

/-- Step 1. -/
theorem rejects_stepOne (bad : stepOne s x ≠ 0) : ValidateRejects s d (stepOne s x) :=
  h.rejects rfl (by rw [h.exec_eq, validateFetched, if_pos (by simpa using bad)])

/-- Step 2, on the units, the ring and the header's ranges. -/
theorem rejects_unplaced (one : stepOne s x = 0)
    (bad : (!unitsOk s x || (headRanges s x).any fun r => beyond s r.addr r.len) = true) : ValidateRejects s d 0x0002 :=
  h.rejects rfl (by rw [h.exec_eq, validateFetched, if_neg (by simp [one]), if_pos bad]; rfl)

/-- The rest of the validation, once the structures are read. -/
theorem exec_loaded (one : stepOne s x = 0)
    (placed : (!unitsOk s x || (headRanges s x).any fun r => beyond s r.addr r.len) = false)
    (loaded : loadStructures s x = (s, .done y)) :
    exec (.descriptorValidate d) s = .next (ringSync (validateSteps (gatherDrop s d) y)) := by
  rw [h.exec_eq, validateFetched, if_neg (by simp [one]), if_neg (by simp [placed]), loaded]

end Validates

/-- What validation has read of a descriptor lies in its structures alone. -/
def SameBut (x y : Desc) : Prop := ∃ chain aux, y = { x with chain := chain, aux := aux }

theorem SameBut.refl (x : Desc) : SameBut x x := ⟨_, _, rfl⟩

theorem loadChain_done {s t : State} {x y : Desc} (h : loadChain s x = (t, .done y)) : SameBut x y := by
  unfold loadChain at h
  dsimp only at h
  split at h
  · split at h
    · cases h; exact .refl _
    split at h
    · split at h
      · split at h
        · cases h; exact ⟨_, _, rfl⟩
        · split at h
          · cases h; exact ⟨_, _, rfl⟩
          · cases h
      · cases h; exact ⟨_, _, rfl⟩
    · cases h
  · cases h; exact .refl _

theorem loadGroup_done {s t : State} {x y : Desc} (h : loadGroup s x = (t, .done y)) : SameBut x y := by
  unfold loadGroup at h
  dsimp only at h
  split at h
  · cases h; exact .refl _
  split at h
  · split at h
    · cases h; exact ⟨_, _, rfl⟩
    split at h
    · cases h; exact ⟨_, _, rfl⟩
    · cases h
  · cases h

theorem loadStructures_done {s t : State} {x y : Desc} (h : loadStructures s x = (t, .done y)) : SameBut x y := by
  unfold loadStructures at h
  split at h
  · exact loadChain_done h
  split at h
  · exact loadGroup_done h
  · cases h; exact .refl _

/-- A descriptor whose structures have been read, past the steps before that (R240). -/
structure Loads (s : State) (d : Nat) (x y : Desc) : Prop extends Validates s d x where
  same : SameBut x y
  runs : exec (.descriptorValidate d) s = .next (ringSync (validateSteps (gatherDrop s d) y))

namespace Loads
variable {s : State} {d : Nat} {x y : Desc} (h : Loads s d x y)
include h

theorem id_eq : y.id = d := by
  have id := descGet_id h.here
  obtain ⟨c, a, rfl⟩ := h.same
  exact id

/-- A step after the structures are read, in the state without the reads of validation. -/
theorem rejects_after {t : State} {status : Nat} {det : Detail} (there : t.descs = s.descs)
    (step : validateSteps (gatherDrop s d) y = rejectDesc t y.id status det) : ValidateRejects s d status :=
  h.rejects there (by rw [h.runs, step, h.id_eq])

/-- Step 2, on every range. -/
theorem rejects_stepTwo (bad : stepTwo (gatherDrop s d) y = false) : ValidateRejects s d 0x0002 :=
  h.rejects_after (gatherDrop_descs s d) (by rw [validateSteps, bad]; rfl)

/-- Step 3, on refused ranges, each of which is counted. -/
theorem rejects_refused (two : stepTwo (gatherDrop s d) y = true) (bad : refusedRanges (gatherDrop s d) y ≠ []) :
    ValidateRejects s d 0x0010 := by
  obtain ⟨⟨a, n⟩, rest, refused⟩ := List.exists_cons_of_ne_nil bad
  have step : validateSteps (gatherDrop s d) y =
      rejectDesc (((a, n) :: rest).foldl (fun s r => noteRefusal s true y.src r.1 r.2) (gatherDrop s d)) y.id stAccessRefused
        { addr := BitVec.ofNat 64 a, info0 := BitVec.ofNat 64 n } := by
    simp [validateSteps, two, refused]
  have kept := foldl_descs (f := fun s r => noteRefusal s true y.src r.1 r.2) (fun s r => by simp only [noteRefusal_descs])
    ((a, n) :: rest) (gatherDrop s d)
  exact h.rejects_after (kept.trans (gatherDrop_descs s d)) step

section
variable (two : stepTwo (gatherDrop s d) y = true) (allowed : refusedRanges (gatherDrop s d) y = [])
include two allowed

/-- Step 3, on a write of a held range. -/
theorem rejects_held (bad : (heldWrite (gatherDrop s d) y).isSome = true) : ValidateRejects s d 0x0011 := by
  obtain ⟨w, held⟩ := Option.isSome_iff_exists.1 bad
  refine h.rejects_after (det := { addr := BitVec.ofNat 64 w.1 }) (status := stRangeHeld) (gatherDrop_descs s d) ?_
  simp [validateSteps, two, allowed, held]

/-- Step 4. -/
theorem rejects_stepFour (unheld : heldWrite (gatherDrop s d) y = none) (bad : stepFour (gatherDrop s d) y ≠ 0) :
    ValidateRejects s d (stepFour (gatherDrop s d) y) := by
  refine h.rejects_after (det := {}) (gatherDrop_descs s d) ?_
  simp [validateSteps, two, allowed, unheld, bad]

/-- A descriptor that no step rejects is ready, its structures as they were read (R224, R240). -/
theorem passes (unheld : heldWrite (gatherDrop s d) y = none) (four : stepFour (gatherDrop s d) y = 0) :
    ∃ u z, exec (.descriptorValidate d) s = .next u ∧ descGet u d = some z ∧ z.phase = .ready ∧ z.chain = y.chain ∧
      z.aux = y.aux ∧ z.bytes = x.bytes ∧ z.rejected = x.rejected := by
  have step : validateSteps (gatherDrop s d) y = validated (gatherDrop s d) y := by
    simp [validateSteps, two, allowed, unheld, four]
  obtain ⟨z, ready⟩ := validated_get (t := gatherDrop s d) h.here h.id_eq
  exact ⟨_, z, h.runs, by rw [step]; exact ready⟩

end
end Loads

end Sys2Proof.Machine
end

section
/-! Steps 1 and 2 of validation: the operation, its fields and its units (R227, R228, R240, R346). -/
namespace Sys2Proof.Machine

theorem bitOf_of_bitsOf_ne {i n : Nat} (h : bitsOf i i n ≠ 0) : bitOf i n = true := by
  have two : bitsOf i i n < 2 := by
    rw [bitsOf, show i + 1 - i = 1 by omega]
    exact Nat.mod_lt _ (by decide)
  rw [bitOf_eq, beq_iff_eq]
  omega

/-- The operations of R228, apart from those of images. -/
def listedOps : List Nat := [0x01, 0x02, 0x10, 0x11, 0x20, 0x30, 0x40, 0x50]

section
variable {s : State} {x : Desc}

theorem stepOne_unlisted (unlisted : dop x ∉ listedOps) (low : dop x < 0xF0) : stepOne s x = 0x0001 := by
  have absent : opListed (dop x) = false := by simpa [opListed, isImage, listedOps, low] using unlisted
  rw [stepOne, absent, Bool.not_false, Bool.true_or, if_pos rfl]
  rfl

theorem stepOne_imageRefused (image : 0xF0 ≤ dop x) (refused : imageAccepted s x = false) : stepOne s x = 0x0001 := by
  have bad : (!opListed (dop x) || (isImage (dop x) && !imageAccepted s x)) = true := by
    by_cases top : dop x ≤ 0xFF
    · simp [isImage, image, top, refused]
    · have low : ∀ op ∈ listedOps, op < 0xF0 := by decide
      have unlisted : dop x ∉ listedOps := fun h => absurd (low _ h) (by omega)
      simpa [opListed, isImage, listedOps, top] using unlisted
  rw [stepOne, if_pos bad]
  rfl

theorem stepOne_noFirmware (op : dop x = 0x50) (stopped : stage s ≠ 5) : stepOne s x = 0x0008 := by
  have listed : (!opListed 0x50 || (isImage 0x50 && !imageAccepted s x)) = false := rfl
  simp only [stepOne, op, listed, Bool.false_eq_true, if_false]
  rw [if_pos (by simpa using stopped)]
  rfl

/-- Step 1 of an operation that is listed and served: its fields. -/
theorem stepOne_served (listed : dop x ∈ listedOps) (firmware : dop x = 0x50 → stage s = 5)
    (bad : zerosOk x = false ∨ valuesOk s x = false ∨ bellOk x = false) : stepOne s x = 0x0001 := by
  have known : (!opListed (dop x) || (isImage (dop x) && !imageAccepted s x)) = false := by
    have low : ∀ op ∈ listedOps, opListed op = true ∧ isImage op = false := by decide
    rw [(low _ listed).1, (low _ listed).2]
    rfl
  have served : ¬(dop x = 0x50 && stage s != 5) = true := by simpa using firmware
  have fields : ¬(zerosOk x && valuesOk s x && bellOk x) = true := by
    obtain bad | bad | bad := bad <;> simp [bad]
  rw [stepOne, known, if_neg Bool.false_ne_true, if_neg served, if_neg fields]
  rfl

theorem zerosOk_of_ne {lo hi : Nat} (zero : (lo, hi) ∈ headZeros x ++ bodyZeros x) (h : bitsOf hi lo (dfield x 0 128) ≠ 0) :
    zerosOk x = false :=
  List.all_eq_false.2 ⟨_, zero, by simpa using h⟩

theorem headZeros_reserved {r : Nat × Nat} (h : r ∈ [(13, 31), (63, 63), (115, 127)]) : r ∈ headZeros x ++ bodyZeros x :=
  List.mem_append_left _ (List.mem_append_left _ h)

theorem headZeros_unchained (op : dop x ∉ [0x10, 0x11, 0x20]) {r : Nat × Nat} (h : r ∈ [(11, 12), (192, 255)]) :
    r ∈ headZeros x ++ bodyZeros x := by
  have plain : (isMatrix x || dop x == 0x20) = false := by
    simp only [List.mem_cons, List.not_mem_nil, or_false, not_or] at op
    simp [isMatrix, op]
  rw [headZeros, plain]
  exact List.mem_append_left _ (List.mem_append_right _ h)

/-- The reserved bits and fields that no operation of a type uses (R228 to R233, R248). -/
def unusedBits (op : Nat) : List (Nat × Nat) :=
  if op = 0x01 then [(256, 1023)]
  else if op = 0x02 then [(268, 287), (384, 1023)]
  else if op = 0x20 then [(260, 287), (303, 319), (384, 1023)]
  else if op = 0x30 then [(259, 271), (284, 287), (313, 319), (345, 351), (704, 1023)]
  else if op = 0x40 then [(268, 271), (277, 279), (285, 287), (292, 319), (704, 1023)]
  else if op = 0x50 then [(272, 287), (672, 1023)]
  else [(261, 263), (268, 271), (277, 279), (285, 287), (313, 319), (345, 351), (377, 383), (864, 895), (960, 1023)]

theorem unusedBits_zero (listed : dop x ∈ listedOps) {r : Nat × Nat} (unused : r ∈ unusedBits (dop x)) :
    r ∈ headZeros x ++ bodyZeros x := by
  have ops : dop x = 0x01 ∨ dop x = 0x02 ∨ dop x = 0x10 ∨ dop x = 0x11 ∨ dop x = 0x20 ∨ dop x = 0x30 ∨ dop x = 0x40 ∨
      dop x = 0x50 := by
    simpa [listedOps] using listed
  refine List.mem_append_right _ ?_
  obtain op | op | op | op | op | op | op | op := ops
  case inr.inr.inr.inr.inr.inr.inl =>
    rw [op] at unused
    simp only [bodyZeros, op]
    exact List.mem_append_left _ unused
  all_goals
    rw [op] at unused
    simp only [bodyZeros, op]
    exact unused

/-- A chained doorbell with a reserved bit, or to a multicast identifier (R219, R227). -/
theorem bellOk_of_bad (en : bitsOf 9 9 (dfield x 0 128) ≠ 0)
    (bad : bitsOf 159 146 (dfield x 0 128) ≠ 0 ∨ bitsOf 191 176 (dfield x 0 128) ≠ 0 ∨
      mcastBase ≤ bitsOf 114 96 (dfield x 0 128)) : bellOk x = false := by
  rw [bellOk, dDbEn_eq, bitOf_of_bitsOf_ne en, dDbCluster_eq, dDbValue_bits x (by decide), dDbValue_bits x (by decide)]
  obtain bad | bad | bad := bad
  · simp [bad]
  · simp [bad]
  · simp [Nat.not_lt.2 bad]

theorem valuesOk_of_kind (op : dop x = 0x30) (kind : dfield x 32 1 % 4 = 3) : valuesOk s x = false := by
  have three : mvKind x = 3 := by simpa [mvKind, dbits, bitsOf, dfield] using kind
  simp [valuesOk, op, three]

theorem unitsOk_of_arrays (op : dop x = 0x10 ∨ dop x = 0x11) (h : 2 ^ s.par.arrays ≤ dfield x 33 1 % 16) :
    unitsOk s x = false := by
  have absent : ¬mxArrays x < 2 ^ s.par.arrays := by simpa [mxArrays, dbits, bitsOf, dfield] using h
  obtain op | op := op <;> simp [unitsOk, op, absent]

theorem unitsOk_of_vectorUnits (op : dop x = 0x20) (h : 2 ^ s.par.vectorUnits ≤ dfield x 32 1 % 16) :
    unitsOk s x = false := by
  have absent : ¬vxMask x < 2 ^ s.par.vectorUnits := by simpa [vxMask, dbits, bitsOf, dfield] using h
  simp [unitsOk, op, absent]

theorem unitsOk_of_taskCores (op : dop x = 0x50) (h : 2 ^ s.par.taskCores ≤ dfield x 32 2) : unitsOk s x = false := by
  have absent : ¬lcCores x < 2 ^ s.par.taskCores := Nat.not_lt.2 h
  simp [unitsOk, op, absent]

theorem unitsOk_of_ring (en : bitsOf 9 9 (dfield x 0 128) ≠ 0) (own : bitsOf 114 96 (dfield x 0 128) = ownId s)
    (h : 2 ^ s.par.ringLog2 ≤ bitsOf 145 128 (dfield x 0 128)) : unitsOk s x = false := by
  have absent : ¬bitsOf 145 128 (dfield x 0 128) < 2 ^ s.par.ringLog2 := Nat.not_lt.2 h
  simp only [unitsOk, dDbEn_eq, bitOf_of_bitsOf_ne en, dDbCluster_eq, own, dDbValue_bits x (show 17 < 64 by decide)]
  simp [absent]

end

namespace Validates
variable {s : State} {d : Nat} {x : Desc} (h : Validates s d x)
include h

/-- Step 1, when what fails is known. -/
theorem rejects_of_stepOne {status : Nat} (bad : stepOne s x = status) (fails : status ≠ 0 := by decide) :
    ValidateRejects s d status :=
  bad ▸ h.rejects_stepOne (bad ▸ fails)

/-- Step 1, on a field of an operation that is listed and served. -/
theorem rejects_field (listed : dop x ∈ listedOps) (firmware : dop x = 0x50 → stage s = 5)
    (bad : zerosOk x = false ∨ valuesOk s x = false ∨ bellOk x = false) : ValidateRejects s d 0x0001 :=
  h.rejects_of_stepOne (stepOne_served listed firmware bad)

/-- Step 2, on a unit or ring that is absent. -/
theorem rejects_unit (one : stepOne s x = 0) (absent : unitsOk s x = false) : ValidateRejects s d 0x0002 :=
  h.rejects_unplaced one (by simp [absent])

end Validates

end Sys2Proof.Machine
end

section
/-! Step 4 of validation: the first row of the type's table that holds (R67, R73, R117, R126, R198, R232, R247, R248). -/
namespace Sys2Proof.Machine

theorem firstRow_of_find {rows : List (Bool × Nat)} {r : Bool × Nat} (h : rows.find? (·.1) = some r) : firstRow rows = r.2 := by
  induction rows with
  | nil => cases h
  | cons a rows ih =>
    obtain ⟨b, status⟩ := a
    cases b with
    | true => cases h; rfl
    | false => exact ih h

theorem SameBut.dop_eq {x y : Desc} (h : SameBut x y) : dop y = dop x := by
  obtain ⟨c, a, rfl⟩ := h
  rfl

theorem stepTwo_of_beyond {s : State} {d : Desc} {r : Range} (named : r ∈ descRanges s d) (out : beyond s r.addr r.len = true) :
    stepTwo s d = false := by
  have bad : ((descRanges s d).all fun r => !beyond s r.addr r.len) = false := List.all_eq_false.2 ⟨r, named, by simp [out]⟩
  rw [stepTwo, bad, Bool.and_false, Bool.false_and]

theorem geoOf_diag (d : Desc) : (geoOf d).diag = (dop d == 0x11) := by
  rw [geoOf]
  cases diag : mxDiag d
  · exact diag.symm
  · exact diag.symm

section
variable {s : State} {d : Desc}

theorem stepFour_matrix (op : dop d = 0x10 ∨ dop d = 0x11) : stepFour s d = mxRows s d := by
  obtain op | op := op <;> simp [stepFour, op]

theorem stepFour_vector (op : dop d = 0x20) : stepFour s d = vxRows s d := by simp [stepFour, op]

theorem stepFour_move (op : dop d = 0x30) : stepFour s d = mvRowsCheck s d := by simp [stepFour, op]

theorem stepFour_collective (op : dop d = 0x40) : stepFour s d = clRows s d := by simp [stepFour, op]

theorem stepFour_launch (op : dop d = 0x50) : stepFour s d = lcRows d := by simp [stepFour, op]

theorem stepFour_other (op : dop d ∉ [0x10, 0x11, 0x20, 0x30, 0x40, 0x50]) :
    stepFour s d = firstRow [(countMulticast d, 0x0007)] := by
  unfold stepFour
  split
  case h_7 => rfl
  all_goals simp_all

theorem clTypes_eq (op : Nat) : clTypes op =
    if op ≤ 1 then [0x00, 0x01, 0x02, 0x04] else if op ≤ 3 then [0x00, 0x01, 0x02, 0x03, 0x04, 0x08, 0x09] else [0] := by
  unfold clTypes
  split
  · rfl
  · rfl
  · rfl
  · rfl
  case h_5 zero one two three =>
    rw [if_neg (fun h => ?_), if_neg (fun h => ?_)]
    · interval_cases op <;> contradiction
    · interval_cases op <;> contradiction

/-- The spans of a MOVE that does not fit the address space: the model finds them by two rows (R232). -/
theorem mvRowsCheck_eq (issue : d.issue = none) {r : Bool × Nat}
    (h : [(moveUncountable s d || countMulticast d, 0x0007),
      (decide (mvRowBytes d = 0 ∨ 2 ^ 24 < mvRowBytes d ∨ mvRows d = 0 ∨ 2 ^ 24 < mvRows d), 0x0003),
      ((mvSrcSpan d).isNone || (mvDstSpan d).isNone, 0x0003)].find? (·.1) = some r) : mvRowsCheck s d = r.2 := by
  have shape : (mvRowBytes d == 0 || (decide (mvRowBytes d > 2 ^ 24) && !false) || mvRows d == 0 || decide (mvRows d > 2 ^ 24)) =
      decide (mvRowBytes d = 0 ∨ 2 ^ 24 < mvRowBytes d ∨ mvRows d = 0 ∨ 2 ^ 24 < mvRows d) := by
    rw [Bool.eq_iff_iff]
    simp [or_assoc]
  rw [← firstRow_of_find h]
  simp only [mvRowsCheck, issue, shape, firstRow]
  by_cases count : (moveUncountable s d || countMulticast d) = true
  · rw [if_pos count, if_pos count]
    rfl
  by_cases size : decide (mvRowBytes d = 0 ∨ 2 ^ 24 < mvRowBytes d ∨ mvRows d = 0 ∨ 2 ^ 24 < mvRows d) = true
  · rw [if_neg count, if_neg count, if_pos size, if_pos size]
    rfl
  have spans : ((mvSrcSpan d).isNone || (mvDstSpan d).isNone) = true := by
    refine (Bool.eq_false_or_eq_true _).resolve_right fun fits => ?_
    simp only [List.find?, count, size, fits] at h
    cases h
  rw [if_neg count, if_neg count, if_neg size, if_neg size, if_pos spans]
  cases dst : mvDstSpan d with
  | none => rfl
  | some b =>
    have src : (mvSrcSpan d).isNone = true := by simpa [dst] using spans
    rw [if_pos src]
    exact ite_self _

end

namespace Loads
variable {s : State} {d : Nat} {x y : Desc} (h : Loads s d x y)
include h

section
variable (two : stepTwo (gatherDrop s d) y = true) (allowed : refusedRanges (gatherDrop s d) y = [])
  (unheld : heldWrite (gatherDrop s d) y = none)
include two allowed unheld

/-- Step 4, when what fails is known. -/
theorem rejects_of_stepFour {status : Nat} (bad : stepFour (gatherDrop s d) y = status) (fails : status ≠ 0) :
    ValidateRejects s d status :=
  bad ▸ h.rejects_stepFour two allowed unheld (bad ▸ fails)

/-- Step 4, on the row that decides it. -/
theorem rejects_row {rows : List (Bool × Nat)} {r : Bool × Nat} (fails : (rows.all fun r => r.2 != 0) = true)
    (first : rows.find? (·.1) = some r) (four : stepFour (gatherDrop s d) y = r.2) : ValidateRejects s d r.2 :=
  h.rejects_of_stepFour two allowed unheld four
    (by simpa using List.all_eq_true.1 fails r (List.mem_of_find?_eq_some first))

/-- Step 4, on the first row that holds. -/
theorem rejects_firstRow {rows : List (Bool × Nat)} (four : stepFour (gatherDrop s d) y = firstRow rows)
    (fails : (rows.all fun r => r.2 != 0) = true) (r : Bool × Nat) (first : rows.find? (·.1) = some r) : ValidateRejects s d r.2 :=
  h.rejects_row two allowed unheld fails first (four.trans (firstRow_of_find first))

end

theorem rejects_beyond {r : Range} (named : r ∈ descRanges (gatherDrop s d) y)
    (out : beyond (gatherDrop s d) r.addr r.len = true) : ValidateRejects s d 0x0002 :=
  h.rejects_stepTwo (stepTwo_of_beyond named out)

end Loads

/-- Settles O27: each step of the model's validation, in the order in which it takes them. -/
theorem validationInOrder : Obligations.ValidationInOrder := by
  unfold Obligations.ValidationInOrder
  intro s d x acts serves here fetched notInsn rejects placed op set listed served unused
  have v : Validates s d x := ⟨acts, serves, here, fetched, notInsn⟩
  have zero {lo hi : Nat} (h : served) (z : (lo, hi) ∈ headZeros x ++ bodyZeros x) (bad : set lo hi) : rejects 0x0001 :=
    v.rejects_field h.1 h.2 (.inl (zerosOk_of_ne z bad))
  refine ⟨?unlisted, ?image, ?locked, ?firmware, ?reserved, ?unchained, ?unused, ?bell, ?kind, ?units,
    v.rejects_stepOne, ?place, ?loaded⟩
  case unlisted =>
    rintro absent (low | high)
    · exact v.rejects_of_stepOne (stepOne_unlisted absent low)
    · have above : ¬dop x ≤ 0xF5 := Nat.not_le.2 high
      exact v.rejects_of_stepOne (stepOne_imageRefused (by omega) (by simp [imageAccepted, above]))
  case image =>
    rintro high (ring | issued)
    · exact v.rejects_of_stepOne (stepOne_imageRefused high (by simp [imageAccepted, ring]))
    · exact v.rejects_of_stepOne (stepOne_imageRefused high (by simp [imageAccepted, issued]))
  case locked =>
    intro high (other : dop x ≠ 0xF5) running closed
    exact v.rejects_of_stepOne (stepOne_imageRefused high (by simp [imageAccepted, other, running, closed]))
  case firmware => exact fun op stopped => v.rejects_of_stepOne (stepOne_noFirmware op stopped)
  case reserved =>
    rintro h (bad | bad | bad)
    · exact zero h (headZeros_reserved (by decide)) bad
    · exact zero h (headZeros_reserved (by decide)) bad
    · exact zero h (headZeros_reserved (by decide)) bad
  case unchained =>
    rintro h plain (bad | bad)
    · exact zero h (headZeros_unchained plain (by decide)) bad
    · exact zero h (headZeros_unchained plain (by decide)) bad
  case unused => exact fun h r zeros => zero h (unusedBits_zero h.1 zeros)
  case bell => exact fun h en bad => v.rejects_field h.1 h.2 (.inr (.inr (bellOk_of_bad en bad)))
  case kind =>
    intro move kind
    have listed : dop x ∈ listedOps ∧ (dop x = 0x50 → stage s = 5) := by
      rw [show dop x = 0x30 from move]
      exact ⟨by decide, nofun⟩
    exact v.rejects_field listed.1 listed.2 (.inr (.inl (valuesOk_of_kind move kind)))
  case units =>
    intro one
    exact ⟨fun op h => v.rejects_unit one (unitsOk_of_arrays op h), fun op h => v.rejects_unit one (unitsOk_of_vectorUnits op h),
      fun op h => v.rejects_unit one (unitsOk_of_taskCores op h), fun en own h => v.rejects_unit one (unitsOk_of_ring en own h)⟩
  case place =>
    intro one away
    refine v.rejects_unplaced one (Bool.of_not_eq_false fun clear => away ?_)
    simpa using clear
  case loaded =>
    intro one there y loaded t
    have clear : (!unitsOk s x || (headRanges s x).any fun r => beyond s r.addr r.len) = false := by
      simpa using there
    have l : Loads s d x y := ⟨v, loadStructures_done loaded, v.exec_loaded one clear loaded⟩
    have same : dop y = op := l.same.dop_eq
    refine ⟨l.rejects_stepTwo, fun r => l.rejects_beyond, l.rejects_refused, l.rejects_held, ?rows⟩
    intro two allowed unheld geo first multicast
    have many : multicast = countMulticast y := (countMulticast_eq y).symm
    clear_value multicast
    subst many
    rw [← same]
    refine ⟨?mx, ?vx, ?mv, ?lc, ?cl, ?other, l.rejects_stepFour two allowed unheld, l.passes two allowed unheld⟩
    case mx =>
      intro op
      refine l.rejects_firstRow two allowed unheld ?_ rfl
      simp only [stepFour_matrix op, mxRows, geoOf_diag, Bool.decide_or, Bool.decide_and, Bool.or_assoc, Bool.and_assoc,
        ne_eq, decide_not]
      rfl
    case vx =>
      intro op
      refine l.rejects_firstRow two allowed unheld ?_ rfl
      simp only [stepFour_vector op, vxRows, Bool.decide_or, Bool.decide_and, Bool.or_assoc, ne_eq, decide_not]
      rfl
    case mv =>
      intro op issue r row
      exact l.rejects_row two allowed unheld rfl row ((stepFour_move op).trans (mvRowsCheck_eq issue row))
    case lc =>
      intro op
      refine l.rejects_firstRow two allowed unheld ?_ rfl
      simp only [stepFour_launch op, lcRows, Bool.decide_or, Bool.or_assoc, ne_eq, decide_not]
      rfl
    case cl =>
      intro op
      refine l.rejects_firstRow two allowed unheld ?_ rfl
      simp only [stepFour_collective op, clRows, clTypes_eq, List.contains_eq_mem, Bool.decide_or, Bool.decide_and,
        Bool.or_assoc, decide_not]
      rfl
    case other =>
      intro op
      exact l.rejects_firstRow two allowed unheld (stepFour_other op) rfl

end Sys2Proof.Machine
end

section
/-! A row of a write-back that reaches the end of the window (R104, R164, R168). -/
namespace Sys2Proof.Machine

/-- What stands in the way of a write does not depend on the descriptors or the operand caches. -/
theorem OwnClear.other_descs_voc {s : State} {addr len : Nat} (h : OwnClear s addr len) (ds : List Desc)
    (voc : List (Nat × Byte)) : OwnClear { s with descs := ds, voc := voc } addr len where
  some := h.some
  own := h.own
  fits := h.fits
  unbacked := h.unbacked
  unordered := h.unordered
  settled := h.settled
  good := h.good
  quiet := ⟨h.quiet.awake, h.quiet.clear, h.quiet.past⟩
  apart := ⟨h.apart.rings, h.apart.cqs, h.apart.saves, h.apart.routes⟩

/-- A write-back of one row of four cache bytes, which begins two bytes before the end of the window. -/
def edgeBack : VXfer where
  addr := 2 ^ 40 - 2
  stride := 0
  voc := 0
  bytes := 4
  rows := 1
  back := true

/-- The run of a chain whose one sweep is done, and which has written nothing back. -/
def edgeVxRun : VxRun where
  unit := 0
  filled := true
  sweeps := 1

/-- A vector chain of no stage and that write-back. -/
def edgeVxDesc : Desc where
  id := 5
  ring := 0
  index := 0
  seq := 0
  cls := 0
  src := 0
  phase := .running
  bytes := padTo 36 [0x20] ++ toLe 4 1
  chain := padTo 320 [0, 1] ++ toLe 8 (2 ^ 40 - 2) ++ toLe 4 0 ++ toLe 4 0 ++ toLe 4 4 ++ toLe 2 1 ++ [1]
  engine := .vector edgeVxRun

/-- The cluster of `edgeState` when it runs that chain, with the bytes 2, 3, 4 and 5 in the cache. -/
def edgeVxState : State :=
  { edgeState with descs := [edgeVxDesc], voc := [(0, 2), (1, 3), (2, 4), (3, 5)] }

theorem canon_edgeVxState : Canon edgeVxState := { canon_edgeState with voc := by decide }

theorem ownClear_edgeVxState : OwnClear edgeVxState edgeBack.addr edgeBack.bytes :=
  ownClear_edgeState.other_descs_voc _ _

theorem vcBacks_edgeVxDesc : vcBacks edgeVxDesc.chain = [edgeBack] := by decide +kernel

theorem edgeBack_row {j : Nat} (h : j < edgeBack.rows) : j = 0 := Nat.lt_one_iff.1 h

/-- The third cache byte, which follows the last byte of the window, is stored at offset 0. -/
theorem edge_writesBack : ∃ w, exec (.writeBack 5) edgeVxState = .next w ∧ spmByte w 0 = 4 := by
  have h : (match exec (.writeBack 5) edgeVxState with
    | .next w => spmByte w 0 == 4
    | _ => false) = true := by decide +kernel
  split at h
  · next w e => exact ⟨w, e, by simpa using h⟩
  all_goals exact absurd h (by decide)

/-- Refutes O52: nothing bounds the member's parameters, and where near scratchpad reaches past the window's 2^40 bytes, a
written-back row that is to cross their end is cut at a page there and its rest is stored at offset 0, outside its place. -/
theorem not_vectorChainsRun : ¬ Obligations.VectorChainsRun := by
  unfold Obligations.VectorChainsRun
  intro claim
  have place (j : Nat) (hj : j < edgeBack.rows) : edgeBack.addr + j * edgeBack.stride = edgeBack.addr := by
    rw [edgeBack_row hj]; rfl
  have clear (j : Nat) (hj : j < edgeBack.rows) :
      OwnClear edgeVxState (edgeBack.addr + j * edgeBack.stride) edgeBack.bytes := by
    rw [place j hj]; exact ownClear_edgeVxState
  have outside (j : Nat) (hj : j < edgeBack.rows) :
      ¬(offsetOf (edgeBack.addr + j * edgeBack.stride) ≤ 0 ∧
        0 < offsetOf (edgeBack.addr + j * edgeBack.stride) + edgeBack.bytes) := by
    rw [place j hj]; decide
  obtain ⟨-, -, -, writesBack, -⟩ := claim edgeVxState 5 edgeVxDesc canon_edgeVxState rfl rfl
  obtain ⟨u, ran, -, -, kept⟩ := writesBack edgeVxRun edgeBack rfl rfl (by decide) vcBacks_edgeVxDesc rfl rfl rfl rfl rfl rfl
    (by decide) clear fun j hj k hk apart => absurd ((edgeBack_row hj).trans (edgeBack_row hk).symm) apart
  obtain ⟨w, ran', stored⟩ := edge_writesBack
  obtain rfl : u = w := by simpa using ran.symm.trans ran'
  have same : spmByte u 0 = spmByte edgeVxState 0 := kept 0 outside
  rw [stored] at same
  exact absurd same (by decide)

end Sys2Proof.Machine
end

section
/-! Every command keeps the invariant (R6, R124, R268, R321, R361). -/
namespace Sys2Proof.Machine

/-- What every command leaves of the state, the assertion of PORESET_N and the end of a fuse operation apart: the lemma
of its meaning. -/
theorem exec_keeps {s : State} : ∀ c : Instr, c ≠ .poresetN → (∀ ok, c ≠ .fuseProgrammingEnd ok) → KeepsR s (exec c s)
  | .poresetN, notPor, _ => absurd rfl notPor
  | .warmresetN, _, _ => execWarmresetN_keeps
  | .resetRelease _, _, _ => execResetRelease_keeps
  | .fusesStage _, _, _ => execFusesStage_keeps
  | .selftestStage _, _, _ => execSelftestStage_keeps
  | .flashStage _, _, _ => execFlashStage_keeps
  | .settingsStage, _, _ => execSettingsStage_keeps
  | .imageStage, _, _ => execImageStage_keeps
  | .linkUp _, _, _ => execLinkUp_keeps
  | .linkDown _, _, _ => execLinkDown_keeps
  | .chipMemoryFatal, _, _ => execChipMemoryFatal_keeps
  | .thermAlertN _, _, _ => execThermAlertN_keeps
  | .thermalTrip, _, _ => execThermalTrip_keeps
  | .attnReq _, _, _ => execAttnReq_keeps
  | .supplyFault _, _, _ => execSupplyFault_keeps
  | .vinReady _, _, _ => execVinReady_keeps
  | .trstN, _, _ => execTrstN_keeps
  | .idcode, _, _ => execIdcode_keeps
  | .ijtagSel _, _, _ => execIjtagSel_keeps
  | .regAccess _ _ _, _, _ => execRegAccess_keeps
  | .bypass _, _, _ => execBypass_keeps
  | .cmpRead _ _ _, _, _ => execCmpRead_keeps
  | .cmpWrite _ _ _, _, _ => execCmpWrite_keeps
  | .cmpAtomic _ _ _, _, _ => execCmpAtomic_keeps
  | .cmpReadData _ _ _ _, _, _ => execCmpReadData_keeps
  | .cmpAck _ _ _, _, _ => execCmpAck_keeps
  | .cmpAtomicData _ _ _ _, _, _ => execCmpAtomicData_keeps
  | .cmpCredit _ _ _, _, _ => execCmpCredit_keeps
  | .flit _ _, _, _ => execFlit_keeps
  | .linkAck _ _, _, _ => execLinkAck_keeps
  | .nak _ _, _, _ => execNak_keeps
  | .flitCredit _ _, _, _ => execFlitCredit_keeps
  | .linkAckTimer _, _, _ => execLinkAckTimer_keeps
  | .portFailed _, _, _ => execPortFailed_keeps
  | .writePkt _ _, _, _ => execWritePkt_keeps
  | .readPkt _ _, _, _ => execReadPkt_keeps
  | .atomicPkt _ _, _, _ => execAtomicPkt_keeps
  | .count _ _, _, _ => execCount_keeps
  | .collWrite _ _, _, _ => execCollWrite_keeps
  | .ack _ _, _, _ => execAck_keeps
  | .readData _ _, _, _ => execReadData_keeps
  | .atomicData _ _, _, _ => execAtomicData_keeps
  | .refused _ _, _, _ => execRefused_keeps
  | .retry _ _, _, _ => execRetry_keeps
  | .retrySend _, _, _ => execRetrySend_keeps
  | .reservationLapse _, _, _ => execReservationLapse_keeps
  | .congEcho _ _, _, _ => execCongEcho_keeps
  | .collData _ _, _, _ => execCollData_keeps
  | .collCtl _ _, _, _ => execCollCtl_keeps
  | .mgmt _ _, _, _ => execMgmt_keeps
  | .rspTimeout _, _, _ => execRspTimeout_keeps
  | .rateRaise _, _, _ => execRateRaise_keeps
  | .bankAccess _, _, _ => execBankAccess_keeps
  | .fold _, _, _ => execFold_keeps
  | .refetch _, _, _ => execRefetch_keeps
  | .doorbell _ _, _, _ => execDoorbell_keeps
  | .ageLimit _, _, _ => execAgeLimit_keeps
  | .descriptorFetch, _, _ => execDescriptorFetch_keeps
  | .descriptorValidate _, _, _ => execDescriptorValidate_keeps
  | .nopDesc _, _, _ => execNopDesc_keeps
  | .waitDesc _, _, _ => execWaitDesc_keeps
  | .waitTimeout _, _, _ => execWaitTimeout_keeps
  | .matmul _, _, _ => execMatmul_keeps
  | .diag _, _, _ => execDiag_keeps
  | .vchain _, _, _ => execVchain_keeps
  | .moveDesc _, _, _ => execMoveDesc_keeps
  | .coll _, _, _ => execColl_keeps
  | .launch _, _, _ => execLaunch_keeps
  | .imgErase _, _, _ => execImgErase_keeps
  | .imgWrite _, _, _ => execImgWrite_keeps
  | .imgVerify _, _, _ => execImgVerify_keeps
  | .imgSchedule _, _, _ => execImgSchedule_keeps
  | .settingsWrite _, _, _ => execSettingsWrite_keeps
  | .identify _, _, _ => execIdentify_keeps
  | .planeLoad _ _, _, _ => execPlaneLoad_keeps
  | .tileDrain _ _, _, _ => execTileDrain_keeps
  | .splitPass _ _, _, _ => execSplitPass_keeps
  | .splitPassRetire _ _, _, _ => execSplitPassRetire_keeps
  | .fill _, _, _ => execFill_keeps
  | .sweep _, _, _ => execSweep_keeps
  | .writeBack _, _, _ => execWriteBack_keeps
  | .replay _, _, _ => execReplay_keeps
  | .descriptorRetire _, _, _ => execDescriptorRetire_keeps
  | .ringEnable _ _, _, _ => execRingEnable_keeps
  | .ringDisable _ _, _, _ => execRingDisable_keeps
  | .ringResume _ _, _, _ => execRingResume_keeps
  | .ringFlush _ _, _, _ => execRingFlush_keeps
  | .loadGroup _ _, _, _ => execLoadGroup_keeps
  | .unloadGroup _ _, _, _ => execUnloadGroup_keeps
  | .collTimeout _, _, _ => execCollTimeout_keeps
  | .suspendGroup _ _, _, _ => execSuspendGroup_keeps
  | .suspendDone _, _, _ => execSuspendDone_keeps
  | .resumeGroup _ _, _, _ => execResumeGroup_keeps
  | .abortLaunch _ _, _, _ => execAbortLaunch_keeps
  | .launchComplete _, _, _ => execLaunchComplete_keeps
  | .launchEnd _, _, _ => execLaunchEnd_keeps
  | .tileQueue _, _, _ => execTileQueue_keeps
  | .nopInstr _, _, _ => execNopInstr_keeps
  | .exitThread _, _, _ => execExitThread_keeps
  | .fret _, _, _ => execFret_keeps
  | .brk _, _, _ => execBrk_keeps
  | .addOp _, _, _ => execAddOp_keeps
  | .subOp _, _, _ => execSubOp_keeps
  | .andOp _, _, _ => execAndOp_keeps
  | .orOp _, _, _ => execOrOp_keeps
  | .xorOp _, _, _ => execXorOp_keeps
  | .shl _, _, _ => execShl_keeps
  | .shr _, _, _ => execShr_keeps
  | .sra _, _, _ => execSra_keeps
  | .mulOp _, _, _ => execMulOp_keeps
  | .mulh _, _, _ => execMulh_keeps
  | .mulhu _, _, _ => execMulhu_keeps
  | .minOp _, _, _ => execMinOp_keeps
  | .maxOp _, _, _ => execMaxOp_keeps
  | .minu _, _, _ => execMinu_keeps
  | .maxu _, _, _ => execMaxu_keeps
  | .jalr _, _, _ => execJalr_keeps
  | .addi _, _, _ => execAddi_keeps
  | .andi _, _, _ => execAndi_keeps
  | .ori _, _, _ => execOri_keeps
  | .xori _, _, _ => execXori_keeps
  | .shli _, _, _ => execShli_keeps
  | .shri _, _, _ => execShri_keeps
  | .srai _, _, _ => execSrai_keeps
  | .li _, _, _ => execLi_keeps
  | .uins _, _, _ => execUins_keeps
  | .peq _, _, _ => execPeq_keeps
  | .pne _, _, _ => execPne_keeps
  | .plt _, _, _ => execPlt_keeps
  | .pltu _, _, _ => execPltu_keeps
  | .pge _, _, _ => execPge_keeps
  | .pgeu _, _, _ => execPgeu_keeps
  | .pand _, _, _ => execPand_keeps
  | .por _, _, _ => execPor_keeps
  | .pxor _, _, _ => execPxor_keeps
  | .br _, _, _ => execBr_keeps
  | .jal _, _, _ => execJal_keeps
  | .ldB _, _, _ => execLdB_keeps
  | .ldH _, _, _ => execLdH_keeps
  | .ldW _, _, _ => execLdW_keeps
  | .ldD _, _, _ => execLdD_keeps
  | .ldsB _, _, _ => execLdsB_keeps
  | .ldsH _, _, _ => execLdsH_keeps
  | .ldsW _, _, _ => execLdsW_keeps
  | .loadData _, _, _ => execLoadData_keeps
  | .stB _, _, _ => execStB_keeps
  | .stH _, _, _ => execStH_keeps
  | .stW _, _, _ => execStW_keeps
  | .stD _, _, _ => execStD_keeps
  | .sysr _, _, _ => execSysr_keeps
  | .sysw _, _, _ => execSysw_keeps
  | .tzero _, _, _ => execTzero_keeps
  | .tload _, _, _ => execTload_keeps
  | .tstore _, _, _ => execTstore_keeps
  | .tget _, _, _ => execTget_keeps
  | .tput _, _, _ => execTput_keeps
  | .twait _, _, _ => execTwait_keeps
  | .tcfg _, _, _ => execTcfg_keeps
  | .tcfgm _, _, _ => execTcfgm_keeps
  | .tmma _, _, _ => execTmma_keeps
  | .tbind _, _, _ => execTbind_keeps
  | .tfree _, _, _ => execTfree_keeps
  | .eissue _, _, _ => execEissue_keeps
  | .ewait _, _, _ => execEwait_keeps
  | .etest _, _, _ => execEtest_keeps
  | .mcopy _, _, _ => execMcopy_keeps
  | .cwait _, _, _ => execCwait_keeps
  | .cwaitLimit _, _, _ => execCwaitLimit_keeps
  | .fenceR _, _, _ => execFenceR_keeps
  | .acq _, _, _ => execAcq_keeps
  | .acqAll _, _, _ => execAcqAll_keeps
  | .gbar _, _, _ => execGbar_keeps
  | .stC _, _, _ => execStC_keeps
  | .amoAdd _, _, _ => execAmoAdd_keeps
  | .amoMin _, _, _ => execAmoMin_keeps
  | .amoMax _, _, _ => execAmoMax_keeps
  | .amoMinu _, _, _ => execAmoMinu_keeps
  | .amoMaxu _, _, _ => execAmoMaxu_keeps
  | .amoSwp _, _, _ => execAmoSwp_keeps
  | .amoCas _, _, _ => execAmoCas_keeps
  | .famoAddF32 _, _, _ => execFamoAddF32_keeps
  | .famoAddBf16 _, _, _ => execFamoAddBf16_keeps
  | .cbar _, _, _ => execCbar_keeps
  | .cred _, _, _ => execCred_keeps
  | .registerWrite _ _ _, _, _ => execRegisterWrite_keeps
  | .readClear _ _, _, _ => execReadClear_keeps
  | .capture _ _, _, _ => execCapture_keeps
  | .counterClear _ _, _, _ => execCounterClear_keeps
  | .routeFront _, _, _ => execRouteFront_keeps
  | .ptmMode _ _, _, _ => execPtmMode_keeps
  | .ptmPowerCap _ _, _, _ => execPtmPowerCap_keeps
  | .ptmVlimit _ _, _, _ => execPtmVlimit_keeps
  | .parityArm _ _, _, _ => execParityArm_keeps
  | .backValid _ _ _, _, _ => execBackValid_keeps
  | .orderedArm _ _ _, _, _ => execOrderedArm_keeps
  | .abandon _ _ _, _, _ => execAbandon_keeps
  | .activationFront _ _, _, _ => execActivationFront_keeps
  | .activationSwitch, _, _ => execActivationSwitch_keeps
  | .drainLimit, _, _ => execDrainLimit_keeps
  | .confirm _, _, _ => execConfirm_keeps
  | .revert _, _, _ => execRevert_keeps
  | .confirmTimeout, _, _ => execConfirmTimeout_keeps
  | .programSlot _ _, _, _ => execProgramSlot_keeps
  | .revokeSlot _ _, _, _ => execRevokeSlot_keeps
  | .svnAdvance _, _, _ => execSvnAdvance_keeps
  | .errDone _ _, _, _ => execErrDone_keeps
  | .evtSw _, _, _ => execEvtSw_keeps
  | .fatalClear _, _, _ => execFatalClear_keeps
  | .indData _ _ _, _, _ => execIndData_keeps
  | .indDataNoinc _ _ _, _, _ => execIndDataNoinc_keeps
  | .controlPeriod _, _, _ => execControlPeriod_keeps
  | .islandGate _, _, _ => execIslandGate_keeps
  | .retention _, _, _ => execRetention_keeps
  | .islandWake _, _, _ => execIslandWake_keeps
  | .scrub _, _, _ => execScrub_keeps
  | .handshakeStall _, _, _ => execHandshakeStall_keeps
  | .windowBoundary, _, _ => execWindowBoundary_keeps
  | .flashDone _, _, _ => execFlashDone_keeps
  | .fuseProgrammingEnd ok, _, notFuse => absurd rfl (notFuse ok)
  | .fixedVin _, _, _ => execFixedVin_keeps
  | .tokenBucketRefill _, _, _ => execTokenBucketRefill_keeps
  | .bundleAck _, _, _ => execBundleAck_keeps
  | .illegal _, _, _ => execIllegal_keeps
  | .pcRange _, _, _ => execPcRange_keeps

theorem Keeps.inv {s u : State} (h : Keeps s u) (inv : Inv s) : Inv u := ⟨h.canon inv.canon, h.sized inv.sized⟩

/-- The invariant does not speak of the queue, the fuses or the clock. -/
theorem Inv.other {s : State} (h : Inv s) (q : List Instr) (f : Fuses) (n : Nat) :
    Inv { s with pending := q, fuses := f, osc := n } := by
  obtain ⟨⟨spm, nor, regs, counters, shadow, voc, corr, trim, ftab⟩, groups, gens, ports, chans⟩ := h
  exact ⟨⟨spm, nor, regs, counters, shadow, voc, corr, trim, ftab⟩, groups, gens, ports, chans⟩

theorem exec_keeps_inv {c : Instr} {s u : State} (inv : Inv s) (ran : exec c s = .next u) : Inv u := by
  by_cases por : c = .poresetN
  · subst por
    obtain ⟨-, -, -, -, -, canon, sized⟩ := execPoresetN_keeps ran
    exact ⟨canon inv.canon, sized inv.sized⟩
  by_cases fuse : ∃ ok, c = .fuseProgrammingEnd ok
  · obtain ⟨ok, rfl⟩ := fuse
    obtain ⟨f, keeps, -⟩ := execFuseProgrammingEnd_keeps ran
    exact keeps.inv (inv.other s.pending f s.osc)
  · exact ((exec_keeps c por fun ok e => fuse ⟨ok, e⟩).out u ran).inv inv

/-- Settles O57: every command keeps the invariant in the state that its own removal from the queue leaves, and the idle
count is no part of it. -/
theorem invariantKept : Obligations.InvariantKept := by
  unfold Obligations.InvariantKept
  intro s u inv ran
  cases queue : s.pending with
  | nil =>
    rw [step_nil queue] at ran
    cases ran
    exact inv.other s.pending s.fuses (s.osc + 1)
  | cons c rest =>
    rw [step_cons queue] at ran
    exact exec_keeps_inv (inv.other rest s.fuses s.osc) ran

end Sys2Proof.Machine
end

section
/-! Scalar instructions of a task-core thread: an instruction that issues or is skipped, arithmetic, predicates and control
flow (R128, R130, R131, R136). -/
namespace Sys2Proof.Machine

variable {s : State} {t : Nat} {m : Mn} {g : Group} {x : Thread} {w : Word}

theorem Skips.mayIssue (h : Skips s t m g x w) : mayIssue s g x = true := by
  simp [Machine.mayIssue, h.acts, h.runs, h.going, h.free]

/-- An instruction whose guard is false leaves its thread at the next word (R128, R130). -/
theorem onHeld_skips {held : Group → Hold → Bool} {f : State → Group → Thread → Word → State} (h : Skips s t m g x w) :
    onHeld s t m held f = threadNow s t (stepped x) := by
  simp only [onHeld, whenLive, h.acts, h.here, h.mayIssue, h.word, h.insn, h.good, h.guard, Bool.true_or, if_true,
    Bool.false_eq_true, if_false]
  exact threadUpd_at h.here

/-- What an instruction whose command is `onHeld` does where it issues and where it is skipped. -/
theorem onHeld_row {c : Instr} {held : Group → Hold → Bool} {f : State → Group → Thread → Word → State} {y : Thread}
    (runs : exec c s = .next (onHeld s t m held f)) (gives : Issues s t m g x w → f s g x w = threadNow s t y) :
    (Issues s t m g x w → exec c s = .next (threadNow s t y)) ∧
      (Skips s t m g x w → exec c s = .next (threadNow s t (stepped x))) :=
  ⟨fun h => by rw [runs, onHeld_issues h, gives h], fun h => by rw [runs, onHeld_skips h]⟩

/-! Arithmetic (R128, R131). -/

theorem regs_row {c : Instr} {f : Dword → Dword → Dword} {v : Dword} (runs : exec c s = alu s t m f)
    (value : f (sGet x (iA w)) (sGet x (iB w)) = v) :
    (Issues s t m g x w → exec c s = .next (threadNow s t (wroteReg x (iD w) v))) ∧
      (Skips s t m g x w → exec c s = .next (threadNow s t (stepped x))) :=
  onHeld_row runs fun h => by rw [retire_at h.here h.free, value]

theorem imm_row {c : Instr} {f : Dword → Dword → Dword} {v : Dword} (runs : exec c s = aluImm s t m f)
    (value : f (sGet x (iA w)) (iImm12 w) = v) :
    (Issues s t m g x w → exec c s = .next (threadNow s t (wroteReg x (iD w) v))) ∧
      (Skips s t m g x w → exec c s = .next (threadNow s t (stepped x))) :=
  onHeld_row runs fun h => by rw [retire_at h.here h.free, value]

theorem bv_insert17 {a : Dword} {n : Nat} (h : n < 2 ^ 17) :
    (a <<< 17) ||| BitVec.ofNat 64 n = BitVec.ofNat 64 (a.toNat * 2 ^ 17 + n) := by
  have low : n % 2 ^ 64 = n := Nat.mod_eq_of_lt (by omega)
  have high : a.toNat * 2 ^ 17 % 2 ^ 64 = 2 ^ 17 * (a.toNat % 2 ^ 47) := by omega
  apply BitVec.eq_of_toNat_eq
  rw [BitVec.toNat_or, BitVec.toNat_shiftLeft, Nat.shiftLeft_eq, BitVec.toNat_ofNat, BitVec.toNat_ofNat, low, high,
    ← Nat.two_pow_add_eq_or_of_lt h]
  omega

/-- Settles O1: each row is one of the shared shapes, and its operation is R131's on numbers. -/
theorem arithmeticResults : Obligations.ArithmeticResults := by
  unfold Obligations.ArithmeticResults
  refine ⟨fun s t g x w => ?_, fun s t g x w => ?_⟩
  · intro a b sh gives
    exact ⟨regs_row (f := (· + ·)) rfl (bv_add a b), regs_row (f := (· - ·)) rfl (bv_sub a b),
      regs_row (f := (· &&& ·)) rfl rfl, regs_row (f := (· ||| ·)) rfl rfl, regs_row (f := (· ^^^ ·)) rfl rfl,
      regs_row (f := fun a b => a <<< shamt b) rfl (bv_shl a sh), regs_row (f := fun a b => a >>> shamt b) rfl (bv_shr a sh),
      regs_row (f := fun a b => a.sshiftRight (shamt b)) rfl (bv_sra a sh), regs_row (f := (· * ·)) rfl (bv_mul a b),
      regs_row (f := fun a b => BitVec.ofInt 64 (a.toInt * b.toInt / 2 ^ 64)) rfl rfl,
      regs_row (f := fun a b => BitVec.ofNat 64 (a.toNat * b.toNat / 2 ^ 64)) rfl rfl,
      regs_row (f := fun a b => if a.slt b then a else b) rfl bv_min, regs_row (f := fun a b => if a.slt b then b else a) rfl bv_max,
      regs_row (f := fun a b => if a < b then a else b) rfl bv_minu, regs_row (f := fun a b => if a < b then b else a) rfl bv_maxu⟩
  · intro a n12 n17 i12 sh gives
    have imm : iImm12 w = i12 := iImm12_eq w
    have amount : shamt (iImm12 w) = sh := shamt_imm w
    refine ⟨imm_row (f := (· + ·)) rfl (by rw [imm]), imm_row (f := (· &&& ·)) rfl (by rw [imm]),
      imm_row (f := (· ||| ·)) rfl (by rw [imm]), imm_row (f := (· ^^^ ·)) rfl (by rw [imm]),
      imm_row (f := fun a b => a <<< shamt b) rfl ?shl, imm_row (f := fun a b => a >>> shamt b) rfl ?shr,
      imm_row (f := fun a b => a.sshiftRight (shamt b)) rfl ?sra, onHeld_row rfl fun h => ?li, onHeld_row rfl fun h => ?uins⟩
    case shl => rw [amount, bv_shl]
    case shr => rw [amount, bv_shr]
    case sra => rw [amount, bv_sra]
    case li => rw [retire_at h.here h.free, iImm17_eq]
    case uins => rw [retire_at h.here h.free, bv_insert17 (bitsOf_lt 16 0 _)]

/-! Predicates and control flow (R131, R136). -/

theorem relation_row {c : Instr} {f : Dword → Dword → Bool} {v : Bool} (runs : exec c s = predCmp s t m f)
    (value : f (sGet x (iA w)) (sGet x (iB w)) = v) :
    (Issues s t m g x w → exec c s = .next (threadNow s t (wrotePred x (bitsOf 21 19 w.toNat) v))) ∧
      (Skips s t m g x w → exec c s = .next (threadNow s t (stepped x))) :=
  ⟨fun h => runs.trans (pred_gives h value), fun h => by rw [runs, predCmp, onInsn, onHeld_skips h]⟩

theorem logical_row {c : Instr} {f : Bool → Bool → Bool} {v : Bool} (runs : exec c s = predOp s t m f)
    (value : f (pGet x (bitsOf 14 12 w.toNat)) (pGet x (bitsOf 9 7 w.toNat)) = v) :
    (Issues s t m g x w → exec c s = .next (threadNow s t (wrotePred x (bitsOf 21 19 w.toNat) v))) ∧
      (Skips s t m g x w → exec c s = .next (threadNow s t (stepped x))) :=
  ⟨fun h => runs.trans (predOp_gives h value), fun h => by rw [runs, predOp, onInsn, onHeld_skips h]⟩

/-- A jump that issues links the next word into `d`. -/
theorem jumpLink_at {d : Nat} {target : Dword} (h : threadAt s t = some (g, x)) :
    jumpLink s t d target =
      threadNow s t { x with s := if d = 0 then x.s else x.s.set d (x.pc + 4), pc := target } := by
  rw [jumpLink, threadUpd_at h, sSet]
  split <;> rfl

theorem nextPc_free (h : x.hold = .free) : nextPc x = { x with pc := x.pc + 4, ret := none, noAlloc := false } := by
  rw [nextPc, h]

theorem brk_issues (h : Issues s t .brk g x w) : exec (.brk t) s =
    .next (if debugOpen s then threadUpd s t fun x => { nextPc x with hold := .debug } else threadUpd s t nextPc) :=
  congrArg _ (onInsn_issues h)

/-- Every instruction of the task cores is looked for at its thread's PC and meets its guard. -/
theorem taskInsns_onHeld (s : State) (t : Nat) :
    ∀ p ∈ taskInsns t, ∃ held f, exec p.2 s = .next (onHeld s t p.1 held f) := by
  simp only [taskInsns, List.forall_mem_append, List.forall_mem_cons, List.not_mem_nil, IsEmpty.forall_iff, implies_true,
    and_true]
  and_intros <;> exact ⟨_, _, rfl⟩

/-- Settles O2: predicates by their two shapes, control flow row by row, and a false guard by what all the rows share. -/
theorem predicatesAndControlFlow : Obligations.PredicatesAndControlFlow := by
  unfold Obligations.PredicatesAndControlFlow
  refine ⟨fun s t g x w => ?_, fun s t g x w => ?_⟩
  · intro a b pa pb gives
    exact ⟨relation_row (f := (· == ·)) rfl (beq_eq_decide ..), relation_row (f := (· != ·)) rfl (by simp [bne, beq_eq_decide, a, b]),
      relation_row (f := BitVec.slt) rfl rfl, relation_row (f := BitVec.ult) rfl rfl,
      relation_row (f := fun a b => !a.slt b) rfl (by simp [BitVec.slt, ← decide_not, a, b]),
      relation_row (f := fun a b => !a.ult b) rfl (by simp [BitVec.ult, ← decide_not, a, b]), logical_row (f := and) rfl rfl,
      logical_row (f := or) rfl rfl, logical_row (f := bne) rfl rfl⟩
  · intro n22 n17 off22 off17 linked next gives
    refine ⟨fun h => ?br, fun h => ?jal, fun h => ?jalr, fun h => ?fret, fun h => ?nop, fun closed h => ?off,
      fun opened h => ?on, fun p listed h => ?skip⟩
    case br =>
      have runs : exec (.br t) s = .next (threadUpd s t fun x => { x with pc := x.pc + 4 * iOff22 w }) :=
        congrArg _ (onInsn_issues h)
      rw [runs, threadUpd_at h.here, off22_eq, four_mul]
    case jal =>
      have runs : exec (.jal t) s = .next (jumpLink s t (iD w) (x.pc + 4 * iImm17 w)) := congrArg _ (onInsn_issues h)
      rw [runs, jumpLink_at h.here, iImm17_eq, four_mul]
    case jalr =>
      have runs : exec (.jalr t) s = .next (jumpLink s t (iD w) (sGet x (iA w))) := congrArg _ (onInsn_issues h)
      rw [runs, jumpLink_at h.here]
    case fret =>
      have runs : exec (.fret t) s = .next (threadUpd s t fun x => { x with hmode := false, pc := x.fpc }) :=
        congrArg _ (onInsn_issues h)
      rw [runs, threadUpd_at h.here]
    case nop =>
      have runs : exec (.nopInstr t) s = .next (threadUpd s t nextPc) := congrArg _ (onInsn_issues h)
      rw [runs, threadUpd_at h.here, nextPc_free h.free]
    case off =>
      rw [brk_issues h, closed, if_neg Bool.false_ne_true, threadUpd_at h.here, nextPc_free h.free]
    case on =>
      rw [brk_issues h, opened, if_pos rfl, threadUpd_at h.here]
      rfl
    case skip =>
      obtain ⟨held, f, runs⟩ := taskInsns_onHeld s t p listed
      rw [runs, onHeld_skips h]

end Sys2Proof.Machine
end

section
/-! Loads and atomics of a task-core thread (R132, R133, R162, R206 to R208). -/
namespace Sys2Proof.Machine

variable {s : State} {t : Nat} {m : Mn} {g : Group} {x : Thread} {w : Word}

/-! Accesses that fault at issue (R132, R135, R173). -/

/-- A refused access is counted, by an ordered region too, and faults (R135, R173, R213). -/
theorem checked_denied {why : Nat} {a : Access} (f : State → State) (aligned : a.addr % a.len = 0)
    (refused : issueRefusal s a = some why) : checked s t a f =
      raiseFault (ordNoteRefused (noteRefusal s true a.src a.addr why) a) t 0x04 (BitVec.ofNat 64 a.addr) 0 := by
  simp [checked, aligned, refused, raiseAt]

theorem checked_allowed {a : Access} (f : State → State) (aligned : a.addr % a.len = 0) (allowed : issueRefusal s a = none) :
    checked s t a f = f s := by
  simp [checked, aligned, allowed]

/-- Only a floating-point add is counted by an ordered region (R213). -/
theorem ordNoteRefused_uncounted {a : Access} (h : a.kind ≠ .atomic ∨ a.op ≠ 7) : ordNoteRefused s a = s := by
  rcases h with h | h <;> simp [ordNoteRefused, h]

/-! Loads (R132, R133). -/

/-- The read that a thread's load makes (R132, R171). -/
def loadAccess (t : Nat) (g : Group) (a n : Nat) : Access :=
  { kind := .read, addr := a, len := n, src := launchSrc g, who := .load t }

theorem threadRead_checked (s : State) (t : Nat) (g : Group) (a n : Nat) (h : Hold) :
    ∃ f, threadRead s t g a n h = checked s t (loadAccess t g a n) f := by
  rw [threadRead]
  exact ⟨_, rfl⟩

theorem loadInsn_issues (h : Issues s t m g x w) (n : Nat) (signed : Bool) : loadInsn s t m n signed =
    .next (threadRead s t g (sGet x (iA w) + iImm12 w).toNat n (.load (iD w) n signed (sGet x (iA w) + iImm12 w).toNat)) :=
  congrArg _ (onInsn_issues h)

/-- A load that is aligned and allowed, in each place where its address may lie. -/
theorem load_row {c : Instr} {a n : Nat} {signed : Bool} (runs : exec c s = loadInsn s t m n signed)
    (address : (sGet x (iA w) + iImm12 w).toNat = a) (h : Issues s t m g x w) :
    let acc := loadAccess t g a n
    let held := threadNow s t { x with hold := .load (iD w) n signed a, ret := none, noAlloc := false }
    let seen := l1Check held (coreOf t) (lineOf a)
    a % n = 0 → issueRefusal s acc = none →
      (isOwn s a = true → inSpm s (offsetOf a) n = true →
        exec c s = .next { held with xbr := s.xbr ++ [{ bank := bankOf (offsetOf a), acc := acc }] }) ∧
      (isChip a = false → exec c s = .next (threadAccess held acc)) ∧
      (isChip a = true → l1Find seen (coreOf t) (lineOf a) = none →
        exec c s = .next (threadAccess seen { acc with addr := lineOf a, len := 128 })) ∧
      (isChip a = true → ∀ l, l1Find seen (coreOf t) (lineOf a) = some l →
        exec c s = .next (threadUpd seen t fun x => { x with ret := some (l.bytes, 0), noAlloc := true })) ∧
      (isChip a = true → (∀ l ∈ s.l1, l.core = coreOf t → l.addr = lineOf a → l.bad = false) → seen = held) := by
  subst address
  intro acc held seen aligned allowed
  rw [runs]
  obtain ⟨own, near, miss, hit, clean⟩ := load_gives h aligned allowed
  refine ⟨own, near, miss, hit, fun _ good => clean (List.any_eq_false.2 fun l listed => ?_)⟩
  simp only [Bool.and_eq_true, beq_iff_eq]
  rintro ⟨⟨core, line⟩, bad⟩
  exact absurd bad (by simp [good l listed core line])

/-- A load that is not aligned or that is refused. -/
theorem load_traps {c : Instr} {a n : Nat} {signed : Bool} (runs : exec c s = loadInsn s t m n signed)
    (address : (sGet x (iA w) + iImm12 w).toNat = a) (h : Issues s t m g x w) :
    (a % n ≠ 0 → exec c s = .next (raiseFault s t 0x02 (BitVec.ofNat 64 a) 0)) ∧
    (a % n = 0 → ∀ why, issueRefusal s (loadAccess t g a n) = some why →
      exec c s = .next (raiseFault (noteRefusal s true (launchSrc g) a why) t 0x04 (BitVec.ofNat 64 a) 0)) := by
  subst address
  obtain ⟨f, read⟩ := threadRead_checked s t g (sGet x (iA w) + iImm12 w).toNat n
    (.load (iD w) n signed (sGet x (iA w) + iImm12 w).toNat)
  rw [runs, loadInsn_issues h, read]
  refine ⟨fun unaligned => congrArg _ (checked_unaligned f unaligned), fun aligned why refused => congrArg _ ?_⟩
  rw [checked_denied f aligned refused, ordNoteRefused_uncounted (.inl (show AccKind.read ≠ .atomic by decide))]
  rfl

/-- Settles O3: every load is one `threadRead`, which faults or reaches `threadAccess`. -/
theorem loadsIssue : Obligations.LoadsIssue := by
  unfold Obligations.LoadsIssue
  intro s t g x w n12 a seen gives traps
  have address : (sGet x (iA w) + iImm12 w).toNat = a := by rw [iImm12_eq]
  exact ⟨load_row rfl address, load_row rfl address, load_row rfl address, load_row rfl address, load_row rfl address,
    load_row rfl address, load_row rfl address, load_traps rfl address, load_traps rfl address, load_traps rfl address,
    load_traps rfl address, load_traps rfl address, load_traps rfl address, load_traps rfl address⟩

/-! Atomics (R162, R206 to R208). -/

/-- The access that a thread's atomic makes (R162, R206). -/
def atomicAccess (t : Nat) (g : Group) (x : Thread) (w : Word) (op n : Nat) : Access :=
  { kind := .atomic, addr := (sGet x (iA w)).toNat, len := n, data := toLe n (sGet x (iB w)).toNat, op := op
    width := bitsOf 5 4 w.toNat, compare := sGet x (iD w), src := launchSrc g, who := .load t }

/-- An atomic of a listed width that issues is one checked access, made with its thread held. -/
theorem atomicInsn_issues {op n : Nat} (h : Issues s t m g x w) (width : atomicWidth op (bitsOf 5 4 w.toNat) = some n) :
    let a := (sGet x (iA w)).toNat
    let held := threadNow s t { x with hold := .atomic (iD w) op (bitsOf 5 4 w.toNat) a, ret := none }
    ∃ f, atomicInsn s t m op = .next (checked s t (atomicAccess t g x w op n) f) ∧
      f s = threadAccess (if isChip a then l1Drop held (coreOf t) a n else held) (atomicAccess t g x w op n) := by
  intro a held
  have now : threadUpd s t (fun x => { x with hold := .atomic (iD w) op (bitsOf 5 4 w.toNat) a, ret := none }) = held :=
    threadUpd_at h.here
  unfold atomicInsn
  rw [onInsn_issues h]
  simp only [width]
  exact ⟨_, rfl, by rw [← now]; rfl⟩

/-- An atomic that enters a bank's queue changes the queue and the matrix engine's planes alone (R61, R170). -/
theorem bankQueue_atomic (s : State) {a : Access} (h : a.kind = .atomic) :
    (bankQueue s a).xbr = s.xbr ++ [{ bank := bankOf (offsetOf a.addr), acc := a }] ∧
      { bankQueue s a with xbr := s.xbr, mxe := s.mxe } = s := by
  simp [bankQueue, h, clearPlanes]

/-- What an atomic of a listed width does, in each place where its address may lie, and where it faults. -/
theorem atomic_gives {c : Instr} {op n : Nat} (runs : exec c s = atomicInsn s t m op) (h : Issues s t m g x w)
    (width : atomicWidth op (bitsOf 5 4 w.toNat) = some n) :
    let a := (sGet x (iA w)).toNat
    let acc := atomicAccess t g x w op n
    let held := threadNow s t { x with hold := .atomic (iD w) op (bitsOf 5 4 w.toNat) a, ret := none }
    (a % n = 0 → issueRefusal s acc = none →
      (isOwn s a = true → inSpm s (offsetOf a) n = true → exec c s = .next (bankQueue held acc) ∧
        (bankQueue held acc).xbr = held.xbr ++ [{ bank := bankOf (offsetOf a), acc := acc }] ∧
        { bankQueue held acc with xbr := held.xbr, mxe := held.mxe } = held) ∧
      (isChip a = false → exec c s = .next (threadAccess held acc)) ∧
      (isChip a = true → exec c s = .next (threadAccess (l1Drop held (coreOf t) a n) acc))) ∧
    (a % n ≠ 0 → exec c s = .next (raiseFault s t 0x02 (BitVec.ofNat 64 a) 0)) ∧
    (a % n = 0 → ∀ why, issueRefusal s acc = some why →
      exec c s = .next
        (raiseFault (ordNoteRefused (noteRefusal s true (launchSrc g) a why) acc) t 0x04 (BitVec.ofNat 64 a) 0) ∧
      (op ≠ 7 → ordNoteRefused (noteRefusal s true (launchSrc g) a why) acc = noteRefusal s true (launchSrc g) a why)) := by
  intro a acc held
  obtain ⟨f, checks, makes⟩ := atomicInsn_issues h width
  rw [runs, checks]
  refine ⟨fun aligned allowed => ?_, fun unaligned => congrArg _ (checked_unaligned f unaligned),
    fun aligned why refused => ⟨congrArg _ (checked_denied f aligned refused), fun plain => ordNoteRefused_uncounted (.inr plain)⟩⟩
  rw [checked_allowed f aligned allowed, makes]
  refine ⟨fun own fits => ⟨?_, bankQueue_atomic held rfl⟩, fun near => ?_, fun chip => ?_⟩
  · rw [if_neg (ne_true_of_eq_false (own_notChip own))]
    exact congrArg _ (access_own (s := held) (a := acc) own fits)
  · rw [if_neg (ne_true_of_eq_false near)]
  · rw [if_pos chip]

/-! The words of atomics (R162). -/

/-- The operation of an atomic instruction (R162). -/
def atomicOp : Mn → Option Nat
  | .amo op => some op
  | .famoF32 | .famoBf16 => some 7
  | _ => none

/-- The low FN bits of a word are the operation and the width of an atomic. -/
theorem iFn_atomic {w : Word} (h : iFn w < 64) : iFn w % 16 = bitsOf 3 0 w.toNat ∧ iFn w / 16 = bitsOf 5 4 w.toNat := by
  simp only [iFn, bitsOf] at *
  omega

/-- The format A words of OP 0x29 are the atomics of a listed operation and width (R162). -/
theorem insnA_29 {fn : Nat} {r : Mn × Bool × Bool × Bool} (h : insnA 0x29 fn = some r) :
    fn < 64 ∧ atomicOp r.1 = some (fn % 16) ∧ (atomicWidth (fn % 16) (fn / 16)).isSome = true := by
  simp only [insnA] at h
  split at h
  · cases h
  next low =>
    refine ⟨Nat.not_le.1 low, ?_⟩
    split at h
    case h_1 op width | h_2 op width =>
      cases h
      rw [op, width]
      exact ⟨rfl, rfl⟩
    case h_3 width _ | h_4 width =>
      split at h <;> cases h
      next op =>
        rw [width]
        refine ⟨rfl, ?_⟩
        delta atomicWidth
        rw [if_pos op]
        rfl
    case h_5 => cases h

/-- No other OP has an atomic. -/
theorem insnA_atomic {o fn op : Nat} {r : Mn × Bool × Bool × Bool} (h : insnA o fn = some r) (m : atomicOp r.1 = some op) :
    o = 0x29 := by
  unfold insnA at h
  split at h
  case h_33 => rfl
  all_goals cases h <;> cases m

theorem insnP_atomic {fn : Nat} {m : Mn} {b : Bool} (h : insnP fn = some (m, b)) : atomicOp m = none := by
  unfold insnP at h
  split at h <;> cases h <;> rfl

theorem insnT_atomic {o fn used : Nat} {m : Mn} (h : insnT o fn = some (m, used)) : atomicOp m = none := by
  unfold insnT at h
  split at h <;> cases h <;> rfl

theorem insnOf_atomic {w : Word} {m : Mn} {op : Nat} (h : insnOf w = some m) (e : atomicOp m = some op) :
    ∃ d a b, insnA (iOp w) (iFn w) = some (m, d, a, b) := by
  have no (n : Mn) (isM : some n = some m) (plain : atomicOp n = none) : False := by
    cases isM
    simp [plain] at e
  unfold insnOf at h
  dsimp only at h
  split at h
  case h_12 =>
    split at h
    · cases h
    split at h
    next n found =>
      split at h
      · exact (no n h (insnP_atomic found)).elim
      · cases h
    next n found => exact (no n h (insnP_atomic found)).elim
    · cases h
  case h_26 | h_27 =>
    split at h
    next n _ found =>
      split at h
      · exact (no n h (insnT_atomic found)).elim
      · cases h
    · cases h
  case h_28 =>
    split at h
    next n d a b found =>
      split at h
      · cases h
        exact ⟨d, a, b, found⟩
      · cases h
    · cases h
  case h_5 | h_6 | h_7 | h_24 | h_25 =>
    split at h
    · exact (no _ h rfl).elim
    · cases h
  all_goals exact (no _ h rfl).elim

/-- A word that is an atomic names a width that R162 lists for its operation. -/
theorem atomicWidth_listed {w : Word} {m : Mn} {op : Nat} (h : insnOf w = some m) (e : atomicOp m = some op) :
    (atomicWidth op (bitsOf 5 4 w.toNat)).isSome = true := by
  obtain ⟨d, a, b, found⟩ := insnOf_atomic h e
  rw [insnA_atomic found e] at found
  obtain ⟨low, op', listed⟩ := insnA_29 found
  obtain rfl : op = iFn w % 16 := Option.some.inj (e.symm.trans op')
  rwa [(iFn_atomic low).2] at listed

/-- A word of OP 0x29 that names another operation or width is no instruction (R130, R162). -/
theorem insnOf_unlisted {w : Word} (op : bitsOf 31 26 w.toNat = 0x29)
    (unlisted : atomicWidth (bitsOf 3 0 w.toNat) (bitsOf 5 4 w.toNat) = none) : insnOf w = none := by
  have none' : insnA 0x29 (iFn w) = none := by
    refine Option.eq_none_iff_forall_ne_some.2 fun r found => ?_
    obtain ⟨low, -, listed⟩ := insnA_29 found
    rw [(iFn_atomic low).1, (iFn_atomic low).2, unlisted] at listed
    cases listed
  have code : iOp w = 0x29 := op
  simp only [insnOf, code, none']

/-- A thread at a word that is no instruction raises ILLEGAL (R130). -/
theorem illegal_issues (acts : live s = true) (here : threadAt s t = some (g, x)) (runs : g.state = 1) (going : x.ended = false)
    (free : x.hold = .free) (word : fetchWord g x = some w) (good : fetchBad g x.pc.toNat = false) (insn : insnOf w = none) :
    exec (.illegal t) s = .next (raiseFault s t 0x01 (w.setWidth 64) 0) := by
  show execIllegal t s = _
  simp [execIllegal, whenLive, acts, here, mayIssue, runs, going, free, word, insn, good, raiseIllegal]

/-- Settles O6: every atomic is one checked access, and a word of its OP is an instruction only where its width is listed. -/
theorem atomicsIssue : Obligations.AtomicsIssue := by
  unfold Obligations.AtomicsIssue
  intro s t g x w a width arrives gives
  have row {m : Mn} {c : Instr} {op : Nat} (runs : exec c s = atomicInsn s t m op) (e : atomicOp m = some op) : gives m c op :=
    fun h => ⟨fun n listed => atomic_gives runs h listed, atomicWidth_listed h.insn e⟩
  exact ⟨fun acts here runs going free word good op unlisted =>
      illegal_issues acts here runs going free word good (insnOf_unlisted op unlisted),
    row rfl rfl, row rfl rfl, row rfl rfl, row rfl rfl, row rfl rfl, row rfl rfl, row rfl rfl, row rfl rfl, row rfl rfl⟩

end Sys2Proof.Machine
end

section
/-! What a thread that waits for memory gets back (R132, R133, R135, R178, R203). -/
namespace Sys2Proof.Machine

variable {s : State} {t : Nat} {g : Group} {x : Thread}

/-! The data of a load or an atomic retires it. -/

/-- A load's value: `n` bytes zero- or sign-extended (R132). -/
def loadValue (n : Nat) (signed : Bool) (v : Nat) : Dword :=
  if signed = true ∧ 2 ^ (8 * n - 1) ≤ v then BitVec.ofInt 64 ((v : Int) - 2 ^ (8 * n)) else BitVec.ofNat 64 v

theorem loadValue_eq {n v : Nat} (signed : Bool) (h : v < 2 ^ (8 * n)) :
    (if signed then BitVec.ofInt 64 (sext (8 * n) v) else BitVec.ofNat 64 v) = loadValue n signed v := by
  cases signed with
  | false => simp [loadValue]
  | true =>
    rw [if_pos rfl, sext_eq h, loadValue]
    by_cases low : v < 2 ^ (8 * n - 1)
    · rw [if_pos low, if_neg (by omega)]
      rfl
    · rw [if_neg low, if_pos ⟨rfl, Nat.not_lt.1 low⟩]

section
variable (acts : live s = true) (here : threadAt s t = some (g, x)) (runs : g.state = 1 ∨ g.state = 2)
include acts here runs

/-- What `loadData` does for a thread of a group that runs or suspends, by the thread's hold and what has returned. -/
theorem loadData_load {d n a c : Nat} {signed : Bool} {bs : List Byte} (held : x.hold = .load d n signed a)
    (back : x.ret = some (bs, c)) : exec (.loadData t) s = .next (if c = 0 then
      retire (takeRead s t x a n bs).1 t d (if signed then BitVec.ofInt 64 (sext (8 * n) (leNat (takeRead s t x a n bs).2))
        else BitVec.ofNat 64 (leNat (takeRead s t x a n bs).2)) else raiseFault s t c (BitVec.ofNat 64 a) 0) := by
  show execLoadData t s = _
  have state : (g.state != 1 && g.state != 2) = false := by rcases runs with r | r <;> simp [r]
  cases c <;> simp [execLoadData, whenLive, acts, here, state, held, back, raiseAt]

theorem loadData_atomic {d op width a c : Nat} {bs : List Byte} (held : x.hold = .atomic d op width a)
    (back : x.ret = some (bs, c)) : exec (.loadData t) s = .next (if c = 0 then
      retire s t d (BitVec.ofNat 64 (leNat (bs.take ((atomicWidth op width).getD 4)))) else
        raiseFault s t c (BitVec.ofNat 64 a) 0) := by
  show execLoadData t s = _
  have state : (g.state != 1 && g.state != 2) = false := by rcases runs with r | r <;> simp [r]
  cases c <;> simp [execLoadData, whenLive, acts, here, state, held, back, raiseAt]

end

theorem takeRead_near {a n : Nat} {bs : List Byte} (h : isChip a = false) : takeRead s t x a n bs = (s, bs) := by
  simp [takeRead, h]

theorem takeRead_chip {a n : Nat} {bs : List Byte} (h : isChip a = true) : takeRead s t x a n bs =
    (if x.noAlloc then s else l1Alloc s (coreOf t) (lineOf a) bs, (bs.drop (a % 128)).take n) := by
  simp [takeRead, h]

/-! What an answer brings to the thread that asked. -/

theorem deliver_load {a : Access} (r : Resp) (here : threadAt s t = some (g, x)) (who : a.who = .load t) :
    deliver s a r = threadNow s t { x with ret := some (match r with
      | .ok bs => bs
      | _ => [], causeOf r) } := by
  simp only [deliver, who, deliverBase]
  exact threadUpd_at here

theorem deliver_store {a : Access} (r : Resp) (here : threadAt s t = some (g, x)) (who : a.who = .store t) :
    deliver s a r = threadNow s t { x with
      unacked := x.unacked - 1
      deferred := if causeOf r = 0 || x.deferred.isSome then x.deferred else some (causeOf r, BitVec.ofNat 64 a.addr) } := by
  simp only [deliver, who, deliverBase]
  exact threadUpd_at here

/-- Settles O4: by what the thread waits for, and by the answer. -/
theorem loadDataReturns : Obligations.LoadDataReturns := by
  unfold Obligations.LoadDataReturns
  refine ⟨fun s t g x acts here runs => ?_, fun s a t g x here => ?_⟩
  · intro done value
    have ends {u : State} {d n v : Nat} {signed : Bool} (at' : threadAt u t = some (g, x)) (fits : v < 2 ^ (8 * n)) :
        retire u t d (if signed then BitVec.ofInt 64 (sext (8 * n) v) else BitVec.ofNat 64 v) = done u d (value n signed v) := by
      rw [loadValue_eq signed fits]
      exact retire_gen at'
    refine ⟨fun d n a signed bs _ held back => ⟨fun near whole => ?_, fun chip => ?_⟩, fun d op width a n bs held back listed => ?_,
      fun d n a c signed bs held back => loadData_load acts here runs held back,
      fun d op width a c bs held back => loadData_atomic acts here runs held back⟩
    · rw [loadData_load acts here runs held back, if_pos rfl, takeRead_near near, ends here (leNat_lt bs n (Nat.le_of_eq whole))]
    · have fits : leNat ((bs.drop (a % 128)).take n) < 2 ^ (8 * n) := leNat_lt _ n (List.length_take_le ..)
      have runs := loadData_load acts here runs held back
      rw [if_pos rfl, takeRead_chip chip] at runs
      refine ⟨fun kept => ?_, fun kept => ?_⟩
      · rw [runs, kept, if_pos rfl, ends here fits]
      · rw [runs, kept, if_neg Bool.false_ne_true, ends (l1Alloc_threadAt.trans here) fits]
    · rw [loadData_atomic acts here runs held back, if_pos rfl, listed, retire_gen here]
      rfl
  · intro fails
    have failed {r : Resp} (cause : causeOf r ≠ 0) : fails r (causeOf r) := by
      refine ⟨fun who => ?_, fun who => ?_⟩
      · cases r with
        | ok bs => exact absurd rfl cause
        | _ => exact deliver_load _ here who
      · rw [deliver_store r here who]
        cases x.deferred <;> simp [cause]
    refine ⟨fun bs => ⟨deliver_load (.ok bs) here, fun who => ?_⟩, fun n => failed (r := .refused n) (Nat.succ_ne_zero 3),
      failed (r := .dataErr) (Nat.succ_ne_zero 4), failed (r := .unreachable) (Nat.succ_ne_zero 5)⟩
    rw [deliver_store (.ok bs) here who]
    rfl

end Sys2Proof.Machine
end

section
/-! Fences, the end of a thread, barriers, invalidation and counter waits (R131, R132, R159, R161, R202, R203). -/
namespace Sys2Proof.Machine

variable {s : State} {t : Nat} {m : Mn} {g : Group} {x : Thread} {w : Word}

/-! Fences, `exit` and `gbar`. -/

theorem fenceR_stands (h : Stands s t .fencer g x w) (runs : g.state = 1) (at' : x.hold = .free ∨ x.hold = .fence) :
    exec (.fenceR t) s = .next (if x.unacked != 0 then threadUpd s t fun x => { x with hold := .fence }
      else match x.deferred with
        | some (c, a) => raiseFault (threadUpd s t fun x => { x with deferred := none }) t c a 0
        | none => threadUpd s t nextPc) := by
  refine congrArg _ (h.onHeld ?_)
  rcases at' with free | fence
  · exact .inl (by simp [mayIssue, h.acts, runs, h.going, free])
  · exact .inr (by simp [runs, fence])

theorem exit_issues (h : Issues s t .exit g x w) :
    exec (.exitThread t) s = .next (if x.unacked != 0 then s
      else match x.deferred with
        | some (c, a) => raiseFault (threadUpd s t fun x => { x with deferred := none }) t c a 0
        | none => gbarCheck (threadUpd s t fun x => { x with ended := true, exitVal := (sGet x (iA w)).setWidth 16 }) (t / 4)) :=
  congrArg _ (onInsn_issues h)

theorem gbar_issues (h : Issues s t .gbar g x w) :
    exec (.gbar t) s = .next (gbarCheck (threadUpd s t fun x => { x with hold := .gbar }) (t / 4)) :=
  congrArg _ (onInsn_issues h)

/-! Invalidation (R203). -/

/-- A thread whose load of a range, if it has one in flight, will allocate no line (R203). -/
def unfilled (a len : Nat) (x : Thread) : Thread :=
  match x.hold with
  | .load _ _ _ addr | .read addr => if overlap (lineOf addr) 128 a len then { x with noAlloc := true } else x
  | _ => x

/-- A group whose fills of a range will allocate no line (R203). -/
def groupUnfilled (a len : Nat) (g : Group) : Group :=
  { g with
    threads := g.threads.map (unfilled a len)
    tq := g.tq.map fun o => { o with fills := o.fills.filter fun l => !overlap l 128 a len } }

theorem killFills_eq (s : State) (core a len : Nat) : killFills s core a len =
    groupUpd (groupUpd s (2 * core) (groupUnfilled a len)) (2 * core + 1) (groupUnfilled a len) := rfl

theorem unfilled_free {a len : Nat} (h : x.hold = .free) : unfilled a len x = x := by rw [unfilled, h]

theorem unfilled_load {a len d k b : Nat} {sg : Bool} (h : (unfilled a len x).hold = .load d k sg b)
    (meets : overlap (lineOf b) 128 a len = true) : (unfilled a len x).noAlloc = true := by
  have same : (unfilled a len x).hold = x.hold := by
    unfold unfilled
    split
    · split <;> rfl
    · split <;> rfl
    · rfl
  rw [unfilled, same.symm.trans h]
  simp only [meets, if_true]

/-- The threads of a core after the fills of a range are cut off. -/
theorem threadAt_killFills {core i a len : Nat} (h : coreOf i = core) : threadAt (killFills s core a len) i =
    (threadAt s i).map fun p => (groupUnfilled a len p.1, unfilled a len p.2) := by
  have mine : (killFills s core a len).groups[i / 4]? = (s.groups[i / 4]?).map (groupUnfilled a len) := by
    rw [killFills_eq]
    simp only [groupUpd, setAt_get]
    have two : i / 4 = 2 * core ∨ i / 4 = 2 * core + 1 := by rw [coreOf] at h; omega
    rcases two with e | e
    · rw [if_neg (by omega), if_pos e.symm]
    · rw [if_pos e.symm, if_neg (by omega)]
  simp only [threadAt, mine]
  cases s.groups[i / 4]? with
  | none => rfl
  | some g =>
    simp only [Option.map_some, groupUnfilled, List.getElem?_map]
    cases g.threads[i % 4]? <;> rfl

theorem threadAt_snd (s : State) (i : Nat) :
    (threadAt s i).map (·.2) = (s.groups[i / 4]?).bind fun g => g.threads[i % 4]? := by
  unfold threadAt
  cases s.groups[i / 4]? with
  | none => rfl
  | some g => simp only [Option.bind_some]; cases g.threads[i % 4]? <;> rfl

/-- The other threads are as they were. -/
theorem threadAt_threadNow_other {i : Nat} {y : Thread} (h : i ≠ t) :
    (threadAt (threadNow s t y) i).map (·.2) = (threadAt s i).map (·.2) := by
  rw [threadAt_snd, threadAt_snd]
  exact threadNow_only.others _ _ (by omega)

/-- The state that an `acq` of a range by thread `t` leaves. -/
def acquired (s : State) (t a len : Nat) : State :=
  threadUpd (killFills (l1Drop s (coreOf t) a len) (coreOf t) a len) t nextPc

/-- An `acq` changes threads, tile queues and lines alone. -/
theorem acquired_rest (s : State) (t a len : Nat) : { acquired s t a len with groups := s.groups, l1 := s.l1 } = s := by
  simp only [acquired, killFills_eq, threadUpd, groupUpd, l1Drop]

theorem threadAt_acquiring {a len : Nat} (here : threadAt s t = some (g, x)) (free : x.hold = .free) :
    threadAt (killFills (l1Drop s (coreOf t) a len) (coreOf t) a len) t = some (groupUnfilled a len g, x) := by
  rw [threadAt_killFills rfl, show threadAt (l1Drop s (coreOf t) a len) t = some (g, x) from here, Option.map_some,
    unfilled_free free]

theorem acquired_eq {a len : Nat} (here : threadAt s t = some (g, x)) (free : x.hold = .free) :
    acquired s t a len = threadNow (killFills (l1Drop s (coreOf t) a len) (coreOf t) a len) t (stepped x) :=
  threadUpd_at (threadAt_acquiring here free)

/-- No load in flight of the core will allocate a line of an acquired range (R203). -/
theorem acquired_unfilled {i a len : Nat} {g' : Group} {y : Thread} (here : threadAt s t = some (g, x)) (free : x.hold = .free)
    (core : coreOf i = coreOf t) (at' : threadAt (acquired s t a len) i = some (g', y)) {d k b : Nat} {sg : Bool}
    (load : y.hold = .load d k sg b) (meets : overlap (lineOf b) 128 a len = true) : y.noAlloc = true := by
  have now : (threadAt (acquired s t a len) i).map (·.2) = some y := by rw [at']; rfl
  rw [acquired_eq here free] at now
  by_cases self : i = t
  · rw [self, threadAt_threadNow (threadAt_acquiring here free)] at now
    cases now
    cases load
  · rw [threadAt_threadNow_other self, threadAt_killFills core, Option.map_map, Option.map_eq_some_iff] at now
    obtain ⟨⟨g₀, x₀⟩, -, rfl⟩ := now
    exact unfilled_load load meets

theorem acq_issues (h : Issues s t .acq g x w) :
    exec (.acq t) s = .next (acquired s t (sGet x (iA w)).toNat (sGet x (iB w)).toNat) :=
  congrArg _ (onInsn_issues h)

theorem acqAll_issues (h : Issues s t .acqall g x w) : exec (.acqAll t) s = .next (acquired s t 0 (2 ^ 64)) :=
  congrArg _ (onInsn_issues h)

/-- Settles O7: fences, `exit` and `gbar` by what is unacknowledged, and an invalidation by the core of each thread. -/
theorem fencesAndWaits : Obligations.FencesAndWaits := by
  unfold Obligations.FencesAndWaits
  intro s t g x w threadsNow
  refine ⟨fun h ⟨runs, at'⟩ => ?fence, fun h => ?exit, fun h => ?gbar, ?acq⟩
  case fence =>
    rw [fenceR_stands h runs at']
    refine ⟨fun none' clear => ?_, fun none' c a late => ?_, fun some' => ?_⟩
    · simp only [none', clear, bne_self_eq_false, Bool.false_eq_true, if_false, threadUpd_at h.here]
      rfl
    · simp only [none', late, bne_self_eq_false, Bool.false_eq_true, if_false, threadUpd_at h.here]
    · rw [if_pos (by simpa using some'), threadUpd_at h.here]
  case exit =>
    rw [exit_issues h]
    refine ⟨fun none' clear => ?_, fun none' c a late => ?_, fun some' => ?_⟩
    · simp only [none', clear, bne_self_eq_false, Bool.false_eq_true, if_false, threadUpd_at h.here, gbarCheck_now h.here]
      rfl
    · simp only [none', late, bne_self_eq_false, Bool.false_eq_true, if_false, threadUpd_at h.here]
    · rw [if_pos (by simpa using some')]
  case gbar => rw [gbar_issues h, threadUpd_at h.here, gbarCheck_now h.here]
  case acq =>
    intro gone
    have acquires {m : Mn} (h : Issues s t m g x w) (a n : Nat) : gone (acquired s t a n) a n := by
      refine ⟨rfl, ?_, acquired_rest s t a n, fun i g' y core at' d k sg b load meets => acquired_unfilled h.here h.free core at' load meets⟩
      rw [acquired_eq h.here h.free, threadAt_threadNow (threadAt_acquiring h.here h.free)]
      rfl
    exact ⟨fun h => ⟨_, acq_issues h, acquires h _ _⟩, fun h => ⟨_, acqAll_issues h, acquires h _ _⟩⟩

end Sys2Proof.Machine
end

section
/-! Counter waits, system registers and faults (R129, R130, R134 to R137, R159). -/
namespace Sys2Proof.Machine

variable {s : State} {t : Nat} {m : Mn} {g : Group} {x : Thread} {w : Word}

/-! Counter waits (R159). -/

/-- A `cwait` that starts or goes on. -/
theorem cwait_stands (h : Stands s t .cwait g x w) (runs : g.state = 1) (at' : x.hold = .free ∨ ∃ c, x.hold = .cwait c) :
    exec (.cwait t) s = .next (
      if reached (counterGet s (cwCounter x w)) (sGet x (iB w)) then retire s t (iD w) (counterGet s (cwCounter x w))
      else match x.hold with
        | .cwait _ => s
        | _ => threadUpd s t fun x => { x with hold := .cwait s.osc }) := by
  refine congrArg _ (h.onHeld ?_)
  rcases at' with free | ⟨c, wait⟩
  · exact .inl (by simp [mayIssue, h.acts, runs, h.going, free])
  · exact .inr (by simp [inCwait, runs, wait])

/-- The limit of a `cwait` that began at count `c`. -/
theorem cwaitLimit_stands {c : Nat} (h : Stands s t .cwait g x w) (runs : g.state = 1) (wait : x.hold = .cwait c) :
    exec (.cwaitLimit t) s = .next (if cwLimit x w = 0 then s
      else retire { s with osc := max s.osc (c + cwLimit x w) } t (iD w) (counterGet s (cwCounter x w))) := by
  refine congrArg _ ((h.onHeld (.inr (by simp [inCwait, runs, wait]))).trans ?_)
  simp only [wait]
  rfl

/-- Settles O8: a `cwait` by its target, which `reached` tests, and its limit by whether it has one. -/
theorem counterWaitsEnd : Obligations.CounterWaitsEnd := by
  unfold Obligations.CounterWaitsEnd
  intro s t g x w counter v limit met h runs
  have target : reached v (sGet x (iB w)) = true ↔ met := reached_iff
  refine ⟨fun at' ends => ?_, fun free waits => ?_, fun c wait waits => ?_, fun c wait some' => ?_, fun c wait none' => ?_⟩
  · rw [cwait_stands h runs at']
    exact congrArg _ ((if_pos (target.2 ends)).trans (retire_gen h.here))
  · rw [cwait_stands h runs (.inl free)]
    refine congrArg _ ((if_neg (mt target.1 waits)).trans ?_)
    simp only [free]
    exact threadUpd_at h.here
  · rw [cwait_stands h runs (.inr ⟨c, wait⟩)]
    refine congrArg _ ((if_neg (mt target.1 waits)).trans ?_)
    simp only [wait]
  · refine ⟨max s.osc (c + limit), Nat.le_max_left .., Nat.le_max_right .., ?_⟩
    rw [cwaitLimit_stands h runs wait]
    exact congrArg _ ((if_neg some').trans (retire_gen h.here))
  · rw [cwaitLimit_stands h runs wait]
    exact congrArg _ (if_pos none')

/-! System registers (R129). -/

theorem sysr_issues (h : Issues s t .sysr g x w) :
    exec (.sysr t) s = .next (match sysGet s t g x (bitsOf 11 0 w.toNat) with
      | some v => retire s t (iD w) v
      | none => raiseIllegal s t w) :=
  congrArg _ (onInsn_issues h)

theorem sysr_reads {v : Dword} (h : Issues s t .sysr g x w) (listed : sysGet s t g x (bitsOf 11 0 w.toNat) = some v) :
    exec (.sysr t) s = .next (threadNow s t (wroteReg x (iD w) v)) := by
  rw [sysr_issues h, listed]
  exact congrArg _ (retire_at h.here h.free)

theorem sysGet_tcfg {k : Nat} (h : k < 8) : sysGet s t g x (0x028 + k) = some (((g.tcfg[k]?).getD 0).setWidth 64) := by
  interval_cases k <;> rfl

/-- A thread's identity counts it in its core as it counts it in its group (R129). -/
theorem sysGet_tid : sysGet s t g x 0x000 =
    some (BitVec.ofNat 64 (t % 4 + 4 * (t / 4 % 2) + 8 * (t / 4 % 2) + 16 * (t / 8) + 256 * ownId s)) := by
  have thread : t % 8 = t % 4 + 4 * (t / 4 % 2) := by omega
  rw [← thread]
  rfl

theorem sysw_issues (h : Issues s t .sysw g x w) :
    exec (.sysw t) s = .next (match bitsOf 11 0 w.toNat with
      | 0x010 => threadUpd (groupUpd s (t / 4) fun g => { g with fhandler := (sGet x (iA w)).setWidth 32 }) t nextPc
      | 0x011 => threadUpd s t fun x' => nextPc { x' with fpc := sGet x (iA w) }
      | 0x022 => threadUpd (groupUpd s (t / 4) fun g => { g with tstat := g.tstat &&& ~~~ ((sGet x (iA w)).setWidth 8) }) t nextPc
      | _ => raiseIllegal s t w) :=
  congrArg _ (onInsn_issues h)

theorem setAt_setAt {α : Type} {xs : List α} {i : Nat} {f k : α → α} :
    setAt (setAt xs i f) i k = setAt xs i fun y => k (f y) := by
  refine List.ext_getElem? fun j => ?_
  simp only [setAt_get]
  split
  · rw [Option.map_map]
    rfl
  · rfl

/-- A group with other threads. -/
def Group.withThreads (g : Group) (ts : List Thread) : Group := { g with threads := ts }

theorem threadUpd_eq (s : State) (t : Nat) (k : Thread → Thread) :
    threadUpd s t k = groupUpd s (t / 4) fun g => g.withThreads (setAt g.threads (t % 4) k) := rfl

theorem groupUpd_groupUpd (s : State) (i : Nat) (f k : Group → Group) :
    groupUpd (groupUpd s i f) i k = groupUpd s i fun g => k (f g) := by
  simp only [groupUpd, setAt_setAt]

/-- An update of a group depends on that group only. -/
theorem groupUpd_congr {i : Nat} {f k : Group → Group} (at' : s.groups[i]? = some g) (same : f g = k g) :
    groupUpd s i f = groupUpd s i k := by
  unfold groupUpd
  congr 1
  refine setAt_congr fun g' e => ?_
  obtain rfl : g = g' := Option.some.inj (at'.symm.trans e)
  exact same

theorem setAt_at {α : Type} {xs : List α} {i : Nat} {y : α} {f : α → α} (at' : xs[i]? = some y) :
    setAt xs i f = setAt xs i fun _ => f y :=
  setAt_congr fun z e => by rw [Option.some.inj (at'.symm.trans e)]

/-- A change of a group beside its threads, and a thread's step after it. -/
theorem threadUpd_groupUpd {f : Group → Group} {k : Thread → Thread} (here : threadAt s t = some (g, x))
    (beside : ∀ ts, f (g.withThreads ts) = (f g).withThreads ts) :
    threadUpd (groupUpd s (t / 4) f) t k = groupUpd (threadNow s t (k x)) (t / 4) f := by
  obtain ⟨at', own⟩ := threadAt_some.1 here
  have kept : (f (g.withThreads g.threads)).threads = g.threads := by
    rw [beside]
    rfl
  rw [threadNow, threadUpd_eq, threadUpd_eq, groupUpd_groupUpd, groupUpd_groupUpd]
  refine groupUpd_congr at' ?_
  rw [beside, show (f g).threads = g.threads from kept, setAt_at own]

/-- Settles O9: each system register by its number. -/
theorem systemRegisters : Obligations.SystemRegisters := by
  unfold Obligations.SystemRegisters
  intro s t g x w n a
  refine ⟨fun h => ?read, fun h => ?write⟩
  case read =>
    intro reads
    have listed {k : Nat} {v : Dword} (e : sysGet s t g x k = some v) : reads k v := fun number =>
      sysr_reads h ((congrArg (sysGet s t g x) number).trans e)
    refine ⟨listed sysGet_tid, listed rfl, listed rfl, listed rfl, listed rfl, listed rfl, listed rfl, listed rfl, listed rfl,
      listed rfl, listed rfl, listed rfl, fun k hk => listed (sysGet_tcfg hk), listed rfl, fun free => listed ?_,
      fun q bound => listed ?_, fun other => ?_⟩
    · rw [sysGet, free]
    · rw [sysGet, bound]
    · rw [sysr_issues h, sysGet_none other]
      rfl
  case write =>
    rw [sysw_issues h]
    refine ⟨fun e => ?_, fun e => ?_, fun e => ?_, fun e₁ e₂ e₃ => ?_⟩
    · simp only [show bitsOf 11 0 w.toNat = 0x010 from e]
      exact congrArg _ (threadUpd_groupUpd h.here fun _ => rfl)
    · simp only [show bitsOf 11 0 w.toNat = 0x011 from e]
      exact congrArg _ (threadUpd_at h.here)
    · simp only [show bitsOf 11 0 w.toNat = 0x022 from e]
      exact congrArg _ (threadUpd_groupUpd h.here fun _ => rfl)
    · split
      · exact absurd ‹_› e₁
      · exact absurd ‹_› e₂
      · exact absurd ‹_› e₃
      · rfl

/-! Words that are no instruction, and faults (R130, R134 to R137). -/

theorem pcRange_issues (acts : live s = true) (here : threadAt s t = some (g, x)) (runs : g.state = 1) (going : x.ended = false)
    (free : x.hold = .free) (beyond : fetchWord g x = none) : exec (.pcRange t) s = .next (raiseFault s t 0x03 x.pc 0) := by
  show execPcRange t s = _
  simp [execPcRange, whenLive, acts, here, mayIssue, runs, going, free, beyond, raiseAt]

/-- A fault of a thread that has a handler and is outside it (R136). -/
theorem raiseFault_handled {c : Nat} {i0 i1 : Dword} (here : threadAt s t = some (g, x)) (handler : g.fhandler ≠ 0)
    (outside : x.hmode = false) : raiseFault s t c i0 i1 = handlerNext s t g x c i0 i1 := by
  have handled : (g.fhandler != 0 && !x.hmode) = true := by simpa [outside] using handler
  simp only [raiseFault, here, handled, Bool.or_true, if_true]
  rfl

/-- A thread whose fault ends its launch (R134, R137). -/
def faulted (x : Thread) (c : Nat) (i0 i1 : Dword) : Thread :=
  { x with fpc := x.pc, fcause := BitVec.ofNat 8 c, finfo0 := i0, finfo1 := i1, hold := .free, ret := none, noAlloc := false }

/-- A fault without a handler, or in it, ends the launch (R137). -/
theorem raiseFault_ends {c : Nat} {i0 i1 : Dword} (here : threadAt s t = some (g, x)) (unhandled : ¬(g.fhandler ≠ 0 ∧ x.hmode = false)) :
    raiseFault s t c i0 i1 = endLaunch (groupUpd (threadNow s t (faulted x c i0 i1)) (t / 4) fun g => { g with lastCause := c })
      (t / 4) (statusOfCause c) (some (t % 4)) := by
  have handled : (g.fhandler != 0 && !x.hmode) = false := by
    rw [← Bool.not_eq_true]
    simpa using unhandled
  simp only [raiseFault, here, handled, Bool.or_false, Bool.false_eq_true, if_false]
  rfl

theorem threadAt_groupUpd {f : Group → Group} (here : threadAt s t = some (g, x)) (kept : (f g).threads = g.threads) :
    threadAt (groupUpd s (t / 4) f) t = some (f g, x) := by
  obtain ⟨at', own⟩ := threadAt_some.1 here
  refine threadAt_some.2 ⟨?_, kept ▸ own⟩
  simp only [groupUpd, setAt_get, if_true, at', Option.map_some]

/-- Settles O10: a fault by whether its handler can run, and the two faults of a fetch. -/
theorem faultsTakeTheHandler : Obligations.FaultsTakeTheHandler := by
  unfold Obligations.FaultsTakeTheHandler
  intro s t g x here handled
  refine ⟨fun c i0 i1 ⟨handler, outside⟩ => raiseFault_handled here handler outside, fun c i0 i1 unhandled => ?_,
    fun acts runs going free => ⟨fun beyond => pcRange_issues acts here runs going free beyond, fun w word insn good =>
      illegal_issues acts here runs going free word good insn⟩⟩
  intro status
  have code : statusOfCause c = status := rfl
  rw [raiseFault_ends here unhandled, code]
  have noted := threadAt_groupUpd (f := fun g => { g with lastCause := c }) (threadAt_threadNow (y := faulted x c i0 i1) here) rfl
  have ends := threadAt_groupUpd (s := dropColls (groupUpd (threadNow s t (faulted x c i0 i1)) (t / 4) fun g => { g with lastCause := c })
    (t / 4)) (f := fun x => { x with
      state := 5
      launch := x.launch.map fun l => { l with fate := l.fate.orElse fun _ => some (status, some (t % 4)) }
      tq := x.tq.filter fun o => o.begun
      bindSince := none }) noted rfl
  refine ⟨_, ends, rfl, rfl, fun l launch fate => ?_⟩
  simp only [launch, Option.map_some, fate]
  rfl

end Sys2Proof.Machine
end

section
/-! Tile instructions at issue: what enters the queue of the group and what faults (R139, R142 to R145, R149, R151). -/
namespace Sys2Proof.Machine

variable {s : State} {t : Nat} {m : Mn} {g : Group} {x y : Thread} {w : Word}

/-! What enters the queue (R142). -/

/-- A tile instruction of thread `x` as it enters the queue. -/
def tileOp (n t : Nat) (x : Thread) (w : Word) (cfg : List Word) : TileOp :=
  { n := n, thread := t % 4, word := w, sa := sGet x (iSA w), sb := sGet x (iSB w), cfg }

/-- Its thread, once it has entered. -/
def afterEnter (n : Nat) (x : Thread) (waits : Bool) : Thread := if waits then { x with hold := .tile n } else stepped x

/-- Its group, once it has entered. -/
def groupEntered (o : TileOp) (j : Nat) (y : Thread) (g : Group) : Group :=
  { g with tq := g.tq ++ [o], threads := setAt g.threads j fun _ => y }

theorem queued_eq (s : State) (t : Nat) (x : Thread) (w : Word) (waits : Bool) (cfg : List Word) :
    queued s t x w waits cfg = groupUpd { s with nextId := s.nextId + 1 } (t / 4)
      (groupEntered (tileOp s.nextId t x w cfg) (t % 4) (afterEnter s.nextId x waits)) := rfl

theorem tileEnter_queued {waits : Bool} {cfg : List Word} (here : threadAt s t = some (g, x)) (regs : y.s = x.s) :
    tileEnter s t y w waits cfg = queued s t x w waits cfg := by
  obtain ⟨at', own⟩ := threadAt_some.1 here
  have same (n : Nat) : sGet y n = sGet x n := by rw [sGet, sGet, regs]
  simp only [tileEnter, threadUpd_eq, groupUpd_groupUpd, same, queued_eq]
  refine groupUpd_congr (s := (newId s).2) at' ?_
  simp only [Group.withThreads, setAt_at own, groupEntered]
  rfl

theorem queued_threadNow {waits : Bool} {cfg : List Word} {z : Thread} (here : threadAt s t = some (g, x)) :
    queued (threadNow s t z) t y w waits cfg = queued s t y w waits cfg := by
  obtain ⟨at', own⟩ := threadAt_some.1 here
  have fused : queued (threadNow s t z) t y w waits cfg =
      groupUpd (groupUpd { s with nextId := s.nextId + 1 } (t / 4) fun g => g.withThreads (setAt g.threads (t % 4) fun _ => z)) (t / 4)
        (groupEntered (tileOp s.nextId t y w cfg) (t % 4) (afterEnter s.nextId y waits)) := rfl
  rw [fused, groupUpd_groupUpd, queued_eq]
  refine groupUpd_congr at' ?_
  simp only [groupEntered, Group.withThreads, setAt_setAt]

/-- A thread's read of anything but chip memory, aligned and allowed (R132). -/
theorem threadRead_near {a n : Nat} {h : Hold} (here : threadAt s t = some (g, x)) (aligned : a % n = 0)
    (allowed : issueRefusal s (loadAccess t g a n) = none) (near : isChip a = false) : threadRead s t g a n h =
      threadAccess (threadNow s t { x with hold := h, ret := none, noAlloc := false }) (loadAccess t g a n) := by
  have held : threadUpd s t (fun x => { x with hold := h, ret := none, noAlloc := false }) =
    threadNow s t { x with hold := h, ret := none, noAlloc := false } := threadUpd_at here
  rw [threadRead]
  refine (checked_allowed (a := loadAccess t g a n) _ aligned allowed).trans ?_
  simp only [near, Bool.false_eq_true, if_false]
  exact congrArg (threadAccess · (loadAccess t g a n)) held

/-! The fields of a TCFG entry (R138, R139). -/

theorem entry_bits (n : Nat) : bitsOf 20 0 n = bitsOf 7 0 n + 2 ^ 8 * bitsOf 15 8 n + 2 ^ 16 * bitsOf 20 16 n := by
  simp only [bitsOf]
  omega

theorem tcfgOk_known {c : Word} (h : tcfgOk c = true) : codeKnown (tFmt c) = true := by
  simp only [tcfgOk, Bool.and_eq_true] at h
  tauto

theorem tcfgFault_none {cfg es : List Word} {i : Nat} (h : ∀ e ∈ es, tcfgOk e = true) : tcfgFault s t w cfg i es = none := by
  have known : (es.find? fun c => !codeKnown (tFmt c)) = none := by
    simp only [List.find?_eq_none, Bool.not_eq_true, Bool.not_eq_false']
    exact fun e listed => tcfgOk_known (h e listed)
  have good : (es.findIdx? fun c => !tcfgOk c) = none := by
    simp only [List.findIdx?_eq_none_iff, Bool.not_eq_false']
    exact h
  rw [tcfgFault, known, good]
  rfl

/-! The commands where their thread issues. -/

theorem tzero_issues (h : Issues s t .tzero g x w) : exec (.tzero t) s = .next (tileEnter s t x w false []) :=
  congrArg _ (onInsn_issues h)

theorem twait_issues (h : Issues s t .twait g x w) : exec (.twait t) s = .next (tileEnter s t x w true []) :=
  congrArg _ (onInsn_issues h)

theorem tbind_issues (h : Issues s t .tbind g x w) : exec (.tbind t) s = .next (tileEnter s t x w true []) :=
  congrArg _ (onInsn_issues h)

theorem tfree_issues (h : Issues s t .tfree g x w) : exec (.tfree t) s = .next (tileEnter s t x w false []) :=
  congrArg _ (onInsn_issues h)

theorem tload_issues (h : Issues s t .tload g x w) :
    exec (.tload t) s = .next (if ((tcfgAhead g)[iTA w]?).getD 0 = 0 then shapeNone s t w (tcfgAhead g) (iTA w)
      else tileEnter s t x w true []) :=
  congrArg _ (onInsn_issues h)

theorem tstore_issues (h : Issues s t .tstore g x w) :
    exec (.tstore t) s = .next (if ((tcfgAhead g)[iTA w]?).getD 0 = 0 then shapeNone s t w (tcfgAhead g) (iTA w)
      else if bitOf 63 (sGet x (iSB w)).toNat && isChip (sGet x (iSA w)).toNat then raiseIllegal s t w
      else tileEnter s t x w true []) :=
  congrArg _ (onInsn_issues h)

theorem rowInsn_issues {c : Instr} {waits : Bool} (runs : exec c s = rowInsn s t m waits) (h : Issues s t m g x w) :
    exec c s = .next (if rowOk t (((tcfgAhead g)[iTA w]?).getD 0) (sGet x (iSA w)) then tileEnter s t x w waits []
      else shapeAsked s t w (tcfgAhead g) (iTA w) (bitsOf 14 8 (sGet x (iSA w)).toNat) (bitsOf 6 0 (sGet x (iSA w)).toNat) none) :=
  runs.trans (congrArg _ (onInsn_issues h))

theorem tcfg_issues (h : Issues s t .tcfg g x w) :
    exec (.tcfg t) s = .next ((tcfgFault s t w (tcfgAhead g) (iTA w) [(sGet x (iSA w)).setWidth 32]).getD
      (tileEnter s t x w true [])) := by
  refine congrArg _ ((onInsn_issues h).trans ?_)
  show (match tcfgFault s t w (tcfgAhead g) (iTA w) [(sGet x (iSA w)).setWidth 32] with
    | some s => s
    | none => tileEnter s t x w true []) = _
  cases tcfgFault s t w (tcfgAhead g) (iTA w) [(sGet x (iSA w)).setWidth 32] <;> rfl

theorem tmma_issues (h : Issues s t .tmma g x w) : exec (.tmma t) s = .next (match mmaBad w (tcfgAhead g) with
    | some (i, some j) => shapePair s t w (tcfgAhead g) i j
    | some (i, none) => shapeNone s t w (tcfgAhead g) i
    | none =>
      match bindAhead g with
      | some .tbind => s
      | some _ => raiseFault s t 0x08 (w.setWidth 64) 0
      | none => if g.quad.isSome then tileEnter s t x w false [] else raiseFault s t 0x08 (w.setWidth 64) 0) :=
  congrArg _ (onInsn_issues h)

theorem tcfgm_issues (h : Issues s t .tcfgm g x w) :
    exec (.tcfgm t) s = .next (threadRead s t g (sGet x (iSA w)).toNat 32 (.read (sGet x (iSA w)).toNat)) := by
  refine congrArg _ ((onHeld_issues h).trans ?_)
  simp only [h.free]

/-- A thread that has taken what it read. -/
def readTaken (s : State) (t : Nat) (x : Thread) : State := threadNow s t { x with ret := none, noAlloc := false }

/-- The eight entries that a `tcfgm` has read. -/
def readEntries (bs : List Byte) : List Word := (List.range 8).map fun i => BitVec.ofNat 32 (fieldAt bs (4 * i) 4)

theorem tcfgm_back {a : Nat} {bs : List Byte} (h : Stands s t .tcfgm g x w) (runs : g.state = 1) (held : x.hold = .read a)
    (near : isChip (sGet x (iSA w)).toNat = false) (back : x.ret = some (bs, 0)) :
    exec (.tcfgm t) s = .next ((tcfgFault (readTaken s t x) t w (tcfgAhead g) 0 (readEntries bs)).getD
      (tileEnter (readTaken s t x) t x w true (readEntries bs))) := by
  refine congrArg _ ((h.onHeld (.inr (by simp [inTcfgm, held, runs]))).trans ?_)
  simp only [held, back, takeRead_near near, threadUpd_at h.here, readEntries, readTaken]
  generalize tcfgFault _ t w (tcfgAhead g) 0 _ = faults
  cases faults <;> rfl

theorem rowOk_iff {c : Word} {sa : Dword} : rowOk t c sa = true ↔
    bitsOf 6 0 sa.toNat % 8 = 0 ∧ bitsOf 14 8 sa.toNat < bitsOf 7 0 c.toNat ∧ bitsOf 14 8 sa.toNat % 4 = t % 4 := by
  simp only [rowOk, Bool.and_eq_true, beq_iff_eq, decide_eq_true_eq, and_assoc]
  rfl

/-- Settles O11: each tile instruction, once its check passes, by what enters the queue. -/
theorem tileInstructionsQueue : Obligations.TileInstructionsQueue := by
  unfold Obligations.TileInstructionsQueue
  intro s t g x w cfg entry sa sb row rowGood gives
  have queues {m : Mn} {waits : Bool} {c : Instr} (h : Issues s t m g x w)
      (enters : exec c s = .next (tileEnter s t x w waits [])) : exec c s = .next (queued s t x w waits []) :=
    enters.trans (congrArg _ (tileEnter_queued h.here rfl))
  refine ⟨fun h _ => queues h (tzero_issues h), fun h set => queues h ?_, fun h ⟨set, near⟩ => queues h ?_,
    fun h good => queues h ?_, fun h good => queues h ?_, fun h _ => queues h (twait_issues h), fun h good => queues h ?_,
    fun h _ => queues h (tbind_issues h), fun h _ => queues h (tfree_issues h), fun h ⟨shapes, ahead, bound⟩ => queues h ?_,
    fun h aligned => fun allowed near => ?_, fun a bs h runs held near back => fun good => ?_⟩
  case refine_1 => rw [tload_issues h, if_neg set]
  case refine_2 => rw [tstore_issues h, if_neg set, if_neg (by simpa using near)]
  case refine_3 => rw [rowInsn_issues rfl h, if_pos (rowOk_iff.2 good)]
  case refine_4 => rw [rowInsn_issues rfl h, if_pos (rowOk_iff.2 good)]
  case refine_5 => rw [tcfg_issues h, tcfgFault_none (by simpa using good), Option.getD_none]
  case refine_6 =>
    rw [tmma_issues h, show mmaBad w (tcfgAhead g) = none from shapes]
    simp only [ahead, bound, if_true]
  case refine_7 => exact (tcfgm_issues h).trans (congrArg _ (threadRead_near h.here aligned allowed near))
  case refine_8 =>
    have ready := threadAt_threadNow (y := { x with ret := none, noAlloc := false }) h.here
    rw [tcfgm_back h runs held near back]
    simp only [tcfgFault_none (es := readEntries bs) good, Option.getD_none]
    rw [readTaken, tileEnter_queued (y := x) ready rfl]
    exact congrArg _ (queued_threadNow h.here)

/-! Faults of the checks (R135, R139, R144). -/

/-- A fault of a thread whose read has just been taken (R136). -/
theorem raiseFault_taken {c : Nat} {i0 i1 : Dword} (here : threadAt s t = some (g, x)) (handler : g.fhandler ≠ 0)
    (outside : x.hmode = false) : raiseFault (readTaken s t x) t c i0 i1 = handlerNext s t g x c i0 i1 := by
  rw [readTaken, raiseFault_handled (threadAt_threadNow (y := { x with ret := none, noAlloc := false }) here) handler outside, handlerNext, threadNow_threadNow]
  rfl

theorem shapeInfo0_eq (cfg : List Word) (i : Nat) : shapeInfo0 w cfg i =
    BitVec.ofNat 64 (w.toNat + 2 ^ 32 * (i + 2 ^ 3 * bitsOf 20 0 ((cfg[i]?).getD 0).toNat)) := by
  rw [shapeInfo0, entry_bits, tRows, tBpr, tFmt]
  congr 1
  omega

theorem shapeTile_eq (cfg : List Word) (i : Nat) : shapeTile cfg i =
    BitVec.ofNat 64 (i + 2 ^ 3 * bitsOf 20 0 ((cfg[i]?).getD 0).toNat) := by
  rw [shapeTile, entry_bits, tRows, tBpr, tFmt]
  congr 1
  omega

/-- TILE_SHAPE without a second shape draws one free word and says so in its mode field (R144). -/
theorem shapeNone_raises (s : State) (t : Nat) (w : Word) (cfg : List Word) (i : Nat) : ∃ i1 : Dword,
    shapeNone s t w cfg i = raiseFault { s with freeCtr := s.freeCtr + 1 } t 0x07 (shapeInfo0 w cfg i) i1 ∧
      bitsOf 25 24 i1.toNat = 2 := by
  refine ⟨_, rfl, ?_⟩
  simp only [bitsOf, BitVec.toNat_ofNat]
  omega

/-- TILE_SHAPE with a requested shape draws one free word and reports the shape (R144). -/
theorem shapeAsked_raises (s : State) (t : Nat) (w : Word) (cfg : List Word) (i rows bpr : Nat) (fmt : Option Nat) : ∃ i1 : Dword,
    shapeAsked s t w cfg i rows bpr fmt = raiseFault { s with freeCtr := s.freeCtr + 1 } t 0x07 (shapeInfo0 w cfg i) i1 ∧
      bitsOf 10 3 i1.toNat = rows % 256 ∧ bitsOf 18 11 i1.toNat = bpr % 256 ∧
      (∀ f, fmt = some f → bitsOf 23 19 i1.toNat = f % 32) ∧ bitsOf 25 24 i1.toNat = 1 := by
  refine ⟨_, rfl, ?_, ?_, ?_, ?_⟩
  case refine_3 =>
    rintro f rfl
    simp only [bitsOf, BitVec.toNat_ofNat, Option.getD_some]
    omega
  all_goals
    simp only [bitsOf, BitVec.toNat_ofNat]
    omega

/-- The shape that an invalid entry requests (R144). -/
theorem requested_bits {n : Nat} {e : Word} (rows : bitsOf 10 3 n = tRows e % 256) (bpr : bitsOf 18 11 n = tBpr e % 256)
    (fmt : bitsOf 23 19 n = tFmt e % 32) : bitsOf 23 3 n = bitsOf 20 0 e.toNat := by
  simp only [tRows, tBpr, tFmt, bitsOf] at *
  omega

/-- An entry whose format is not listed faults first (R139). -/
theorem tcfgFault_unlisted {cfg es : List Word} {i : Nat} {e : Word}
    (unlisted : es.find? (fun e => !codeKnown (bitsOf 20 16 e.toNat)) = some e) :
    tcfgFault s t w cfg i es = some (raiseFault s t 0x09 (w.setWidth 64) (e.setWidth 64)) := by
  rw [tcfgFault, show es.find? (fun c => !codeKnown (tFmt c)) = some e from unlisted]

/-- Then the first invalid entry (R139, R144). -/
theorem tcfgFault_invalid {cfg es : List Word} {i k : Nat} {e : Word} (known : ∀ e ∈ es, codeKnown (bitsOf 20 16 e.toNat) = true)
    (entry : es[k]? = some e) (bad : tcfgOk e = false) (first : ∀ j < k, ∀ e', es[j]? = some e' → tcfgOk e' = true) :
    tcfgFault s t w cfg i es = some (shapeAsked s t w cfg (i + k) (tRows e) (tBpr e) (some (tFmt e))) := by
  have listed : (es.find? fun c => !codeKnown (tFmt c)) = none := by
    simp only [List.find?_eq_none, Bool.not_eq_true, Bool.not_eq_false']
    exact known
  obtain ⟨within, rfl⟩ := List.getElem?_eq_some_iff.1 entry
  have found : (es.findIdx? fun c => !tcfgOk c) = some k := by
    rw [List.findIdx?_eq_some_iff_getElem]
    exact ⟨within, by simp [bad], fun j lt => by simp [first j lt _ (List.getElem?_eq_getElem _)]⟩
  rw [tcfgFault, listed]
  simp only [found, Option.map_some, entry, Option.getD_some]

/-! The checks of a product (R55, R151). -/

/-- The TCFG entry of a tile. -/
def entryAt (cfg : List Word) (i : Nat) : Word := (cfg[i]?).getD 0

/-- The format of a tile's entry. -/
def entryFmt (cfg : List Word) (i : Nat) : Fmt := fmtAt (bitsOf 20 16 (entryAt cfg i).toNat)

/-- The columns of a product, and its destinations (R150). -/
def mmaWidth (w : Word) (cfg : List Word) : Nat := mmaCols w (entryAt cfg (iTB w))
@[inherit_doc mmaWidth] def mmaDests (w : Word) (cfg : List Word) : Nat := (mmaWidth w cfg + 31) / 32

/-- The longest contraction (R151). -/
def mmaMost (w : Word) (cfg : List Word) : Nat :=
  if fmtFp4Class (entryFmt cfg (iTA w)) && fmtFp4Class (entryFmt cfg (iTB w)) && !bitOf 9 w.toNat then 256 else 128

/-- The first four checks of R151. -/
def MmaSet (w : Word) (cfg : List Word) : Prop := entryAt cfg (iTA w) ≠ 0 ∧ entryAt cfg (iTB w) ≠ 0 ∧ entryAt cfg (iTD w) ≠ 0
@[inherit_doc MmaSet] def MmaPaired (w : Word) (cfg : List Word) : Prop := pairOk (entryFmt cfg (iTA w)) (entryFmt cfg (iTB w)) = true
@[inherit_doc MmaSet] def MmaMatched (w : Word) (cfg : List Word) : Prop :=
  tElems (entryAt cfg (iTA w)) = mmaRed w (entryAt cfg (iTB w)) ∧ mmaRed w (entryAt cfg (iTB w)) ≤ mmaMost w cfg
@[inherit_doc MmaSet] def MmaRoom (w : Word) (cfg : List Word) : Prop := mmaWidth w cfg ≤ 128 ∧ iTD w + mmaDests w cfg ≤ 8

/-- The fifth check of R151, of one destination. -/
def MmaFits (w : Word) (cfg : List Word) (i : Nat) : Prop :=
  tRows (entryAt cfg (iTD w + i)) = tRows (entryAt cfg (iTA w)) ∧
    tElems (entryAt cfg (iTD w + i)) = min 32 (mmaWidth w cfg - 32 * i) ∧
    entryFmt cfg (iTD w + i) = if entryFmt cfg (iTA w) = .int8 then .int32 else .fp32

/-- The first tile of a product without an entry (R151). -/
def mmaUnset (w : Word) (cfg : List Word) : Option Nat := [iTA w, iTB w, iTD w].find? fun i => entryAt cfg i == 0

theorem mmaUnset_none : mmaUnset w cfg = none ↔ MmaSet w cfg := by
  simp [mmaUnset, MmaSet]

/-- A format that a product may write is none that it may read (R55, R151). -/
theorem pairOk_result {a b f : Fmt} (paired : pairOk a b = true) (dest : f = if a = .int8 then .int32 else .fp32) : f ≠ a ∧ f ≠ b := by
  simp only [pairOk, Bool.and_eq_true, bne_iff_ne] at paired
  obtain ⟨⟨⟨⟨a32, aInt⟩, b32⟩, bInt⟩, -⟩ := paired
  subst dest
  split
  · exact ⟨aInt.symm, bInt.symm⟩
  · exact ⟨a32.symm, b32.symm⟩

/-- The sixth check of R151 never fails alone. -/
theorem mma_apart {cfg : List Word} (paired : MmaPaired w cfg) (fits : ∀ i < mmaDests w cfg, MmaFits w cfg i) :
    ¬(iTD w ≤ iTA w ∧ iTA w < iTD w + mmaDests w cfg) ∧ ¬(iTD w ≤ iTB w ∧ iTB w < iTD w + mmaDests w cfg) := by
  have apart (i : Nat) (operand : entryFmt cfg i = entryFmt cfg (iTA w) ∨ entryFmt cfg i = entryFmt cfg (iTB w)) :
      ¬(iTD w ≤ i ∧ i < iTD w + mmaDests w cfg) := by
    rintro ⟨low, high⟩
    obtain ⟨-, -, dest⟩ := fits (i - iTD w) (by omega)
    rw [Nat.add_sub_cancel' low] at dest
    obtain ⟨notA, notB⟩ := pairOk_result paired dest
    exact operand.elim notA notB
  exact ⟨apart _ (.inl rfl), apart _ (.inr rfl)⟩

open Classical in
/-- The checks of a product in order, without the sixth (R151). -/
theorem mmaBad_eq (w : Word) (cfg : List Word) : mmaBad w cfg = match mmaUnset w cfg with
    | some i => some (i, none)
    | none =>
      if ¬MmaPaired w cfg then some (iTA w, some (iTB w))
      else if ¬MmaMatched w cfg then some (iTA w, some (iTB w))
      else if ¬MmaRoom w cfg then some (iTB w, some (iTD w))
      else ((List.range (mmaDests w cfg)).find? fun i => ¬MmaFits w cfg i).map fun i => (iTA w, some (iTD w + i)) := by
  have matched : (tElems (entryAt cfg (iTA w)) != mmaRed w (entryAt cfg (iTB w)) ||
      decide (tElems (entryAt cfg (iTA w)) > mmaMost w cfg)) = true ↔ ¬MmaMatched w cfg := by
    simp only [MmaMatched, Bool.or_eq_true, bne_iff_ne, decide_eq_true_eq]
    omega
  have room : (decide (mmaWidth w cfg > 128) || decide (iTD w + mmaDests w cfg > 8)) = true ↔ ¬MmaRoom w cfg := by
    simp only [MmaRoom, Bool.or_eq_true, decide_eq_true_eq]
    omega
  have misfit (i : Nat) : (!(tRows (entryAt cfg (iTD w + i)) == tRows (entryAt cfg (iTA w)) &&
      tElems (entryAt cfg (iTD w + i)) == min 32 (mmaWidth w cfg - 32 * i) && entryFmt cfg (iTD w + i) ==
        (if entryFmt cfg (iTA w) == .int8 then .int32 else .fp32))) = decide (¬MmaFits w cfg i) := by
    rw [decide_not]
    congr 1
    rw [Bool.eq_iff_iff, decide_eq_true_eq]
    simp [MmaFits, and_assoc]
  unfold mmaBad
  extract_lets c ta tb td fa fb red cols n fp4
  split
  next i unset => rw [show mmaUnset w cfg = some i from unset]
  next unset =>
    rw [show mmaUnset w cfg = none from unset]
    simp only []
    refine ite_congr (by simp [MmaPaired]; rfl) (fun _ => rfl) fun paired => ite_congr (propext matched) (fun _ => rfl) fun _ =>
      ite_congr (propext room) (fun _ => rfl) fun _ => ?_
    have found : (List.range n).find? _ = _ := congrArg (List.find? · (List.range (mmaDests w cfg))) (funext misfit)
    split
    next i bad => rw [show List.find? _ _ = some i from found.symm.trans bad]; rfl
    next fits =>
      rw [show List.find? _ _ = none from found.symm.trans fits]
      have all : ∀ i < mmaDests w cfg, MmaFits w cfg i := by
        simpa using show List.find? _ _ = none from found.symm.trans fits
      have apart : ([ta, tb].find? fun i => decide (td ≤ i) && decide (i < td + n)) = none := by
        simp only [List.find?_eq_none, List.mem_cons, List.not_mem_nil, or_false, Bool.and_eq_true, decide_eq_true_eq,
          forall_eq_or_imp, forall_eq]
        exact mma_apart (not_not.1 paired) all
      rw [apart]
      rfl

/-- The product that passes its checks (R151). -/
theorem mmaBad_none {cfg : List Word} : mmaBad w cfg = none ↔
    MmaSet w cfg ∧ MmaPaired w cfg ∧ MmaMatched w cfg ∧ MmaRoom w cfg ∧ ∀ i < mmaDests w cfg, MmaFits w cfg i := by
  rw [mmaBad_eq, ← mmaUnset_none]
  cases unset : mmaUnset w cfg with
  | some i => simp
  | none =>
    simp only [true_and]
    split_ifs with paired matched room <;> simp_all

theorem mmaBad_unset {cfg : List Word} {i : Nat} (unset : mmaUnset w cfg = some i) : mmaBad w cfg = some (i, none) := by
  rw [mmaBad_eq, unset]

theorem mmaBad_operands {cfg : List Word} (set : MmaSet w cfg) (bad : ¬(MmaPaired w cfg ∧ MmaMatched w cfg)) :
    mmaBad w cfg = some (iTA w, some (iTB w)) := by
  rw [mmaBad_eq, mmaUnset_none.2 set]
  simp only []
  split_ifs with paired matched
  · exact absurd ⟨paired, matched⟩ bad
  · exact absurd ⟨paired, matched⟩ bad
  · rfl
  · rfl

theorem mmaBad_room {cfg : List Word} (set : MmaSet w cfg) (paired : MmaPaired w cfg) (matched : MmaMatched w cfg)
    (bad : ¬MmaRoom w cfg) : mmaBad w cfg = some (iTB w, some (iTD w)) := by
  rw [mmaBad_eq, mmaUnset_none.2 set]
  simp only [paired, matched, bad, not_true_eq_false, not_false_eq_true, if_false, if_true]

theorem mmaBad_dest {cfg : List Word} {i : Nat} (set : MmaSet w cfg) (paired : MmaPaired w cfg) (matched : MmaMatched w cfg)
    (room : MmaRoom w cfg) (within : i < mmaDests w cfg) (bad : ¬MmaFits w cfg i) (first : ∀ j < i, MmaFits w cfg j) :
    mmaBad w cfg = some (iTA w, some (iTD w + i)) := by
  rw [mmaBad_eq, mmaUnset_none.2 set]
  simp only [paired, matched, room, not_true_eq_false, if_false, Option.map_eq_some_iff]
  refine ⟨i, ?_, rfl⟩
  simpa [List.find?_range_eq_some, bad, within] using first

/-- Settles O12: each check by its fault. -/
theorem tileChecksArePrecise : Obligations.TileChecksArePrecise := by
  unfold Obligations.TileChecksArePrecise
  intro s t g x w handler outside cfg entry row off shown info0 requested shape
  have raises {u : State} {c : Nat} {i0 i1 : Dword} (here : threadAt u t = some (g, x)) :
      raiseFault u t c i0 i1 = handlerNext u t g x c i0 i1 := raiseFault_handled here handler outside
  have alone (h : threadAt s t = some (g, x)) (i : Nat) : ∃ k i1, shapeNone s t w cfg i =
      handlerNext { s with freeCtr := k } t g x 0x07 (info0 i) i1 ∧ bitsOf 25 24 i1.toNat = 2 := by
    obtain ⟨i1, fault, mode⟩ := shapeNone_raises s t w cfg i
    refine ⟨s.freeCtr + 1, i1, ?_, mode⟩
    rw [fault, shapeInfo0_eq]
    exact raises h
  have asks (u : State) {i : Nat} {e : Word} : ∃ i1, shapeAsked u t w cfg i (tRows e) (tBpr e) (some (tFmt e)) =
      raiseFault { u with freeCtr := u.freeCtr + 1 } t 0x07 (info0 i) i1 ∧ requested i1 e := by
    obtain ⟨i1, fault, rowsIs, bprIs, fmtIs, mode⟩ := shapeAsked_raises u t w cfg i (tRows e) (tBpr e) (some (tFmt e))
    exact ⟨i1, by rw [fault, shapeInfo0_eq], requested_bits rowsIs bprIs (fmtIs _ rfl), mode⟩
  have unset {m : Mn} {c : Instr} {u : State} (h : Issues s t m g x w) (e : entry = 0)
      (runs : exec c s = .next (if ((tcfgAhead g)[iTA w]?).getD 0 = 0 then shapeNone s t w (tcfgAhead g) (iTA w) else u)) :
      shape c := by
    obtain ⟨k, i1, fault, mode⟩ := alone h.here (iTA w)
    exact ⟨k, i1, by rw [runs, if_pos e, fault], mode⟩
  refine ⟨fun h e => unset h e (tload_issues h), fun h e => unset h e (tstore_issues h), fun h set counted chip => ?counted,
    fun m c listed h bad => ?row, fun h => ?tcfg, fun a bs h runs held near back => ?tcfgm, fun h => ?tmma,
    fun h shapes empty unbound => ?unbound⟩
  case counted =>
    rw [tstore_issues h, if_neg set, if_pos (by simp [counted, chip])]
    exact congrArg _ (raises h.here)
  case row =>
    have denied : ¬rowOk t (((tcfgAhead g)[iTA w]?).getD 0) (sGet x (iSA w)) = true := by
      rw [rowOk_iff]
      rintro ⟨aligned, below, beside⟩
      rcases bad with h | h | h
      · exact h aligned
      · exact absurd below (Nat.not_lt.2 h)
      · exact h beside
    have runs : exec c s = .next (shapeAsked s t w (tcfgAhead g) (iTA w) row off none) := by
      rcases listed with e | e <;> obtain ⟨rfl, rfl⟩ := Prod.mk.inj e <;> rw [rowInsn_issues rfl h, if_neg denied]
    obtain ⟨i1, fault, rowIs, offIs, -, mode⟩ := shapeAsked_raises s t w (tcfgAhead g) (iTA w) row off none
    refine ⟨s.freeCtr + 1, i1, ?_, rowIs.trans ?_, offIs.trans ?_, mode⟩
    · rw [runs, fault, shapeInfo0_eq]
      exact congrArg _ (raises h.here)
    · exact Nat.mod_eq_of_lt ((bitsOf_lt ..).trans (by decide))
    · exact Nat.mod_eq_of_lt ((bitsOf_lt ..).trans (by decide))
  case tcfg =>
    rw [tcfg_issues h]
    refine ⟨fun unlisted => ?_, fun listed bad => ?_⟩
    · rw [tcfgFault_unlisted (List.find?_cons_of_pos (by rw [unlisted]; rfl))]
      exact congrArg _ (raises h.here)
    · rw [tcfgFault_invalid (k := 0) (e := (sGet x (iSA w)).setWidth 32) (by simpa using listed) rfl bad (by simp)]
      obtain ⟨i1, fault, asked⟩ := asks s (i := iTA w) (e := (sGet x (iSA w)).setWidth 32)
      exact ⟨s.freeCtr + 1, i1, congrArg _ (fault.trans (raises h.here)), asked⟩
  case tcfgm =>
    intro es
    rw [tcfgm_back h runs held near back]
    refine ⟨fun e unlisted => ?_, fun listed i e entry bad first => ?_⟩
    · rw [tcfgFault_unlisted (es := readEntries bs) unlisted]
      exact congrArg _ (raiseFault_taken h.here handler outside)
    · rw [tcfgFault_invalid (i := 0) (es := readEntries bs) listed entry bad first, Nat.zero_add]
      obtain ⟨i1, fault, asked⟩ := asks (readTaken s t x) (i := i) (e := e)
      exact ⟨s.freeCtr + 1, i1, congrArg _ (fault.trans (raiseFault_taken (s := { s with freeCtr := s.freeCtr + 1 }) h.here
        handler outside)), asked⟩
  case tmma =>
    intro at' ta tb td fmt rows elems trans red cols most dests fits c1 c2 c3 c4 lone pair
    have lonely {i : Nat} (unset : mmaUnset w cfg = some i) : lone i := by
      obtain ⟨k, i1, fault, mode⟩ := alone h.here i
      refine ⟨k, i1, ?_, mode⟩
      rw [tmma_issues h, show mmaBad w (tcfgAhead g) = _ from mmaBad_unset unset]
      exact congrArg _ fault
    have paired {i j : Nat} (bad : mmaBad w cfg = some (i, some j)) : pair i j := by
      show exec _ _ = _
      rw [tmma_issues h, show mmaBad w (tcfgAhead g) = _ from bad]
      simp only [shapePair, shapeInfo0_eq, shapeTile_eq]
      exact congrArg _ (raises h.here)
    have unset' (i : Nat) (first : [ta, tb, td].find? (fun i => at' i == 0) = some i) : lone i := lonely first
    refine ⟨fun a => unset' _ (by simp [a]), fun a b => unset' _ ?second, fun a b d => unset' _ ?third,
      fun set bad => paired (mmaBad_operands set fun h => bad h.1), fun set _ bad => paired (mmaBad_operands set fun h => bad h.2),
      fun set match' length bad => paired (mmaBad_room set match' length bad),
      fun set match' length room i within bad first => paired (mmaBad_dest set match' length room within bad first),
      fun _ match' _ _ all => mma_apart match' all, mmaBad_none⟩
    case second => rw [List.find?_cons_of_neg (by simpa using a), List.find?_cons_of_pos (by simpa using b)]
    case third =>
      rw [List.find?_cons_of_neg (by simpa using a), List.find?_cons_of_neg (by simpa using b),
        List.find?_cons_of_pos (by simpa using d)]
  case unbound =>
    have ahead : bindAhead g = none := by simp [bindAhead, empty]
    rw [tmma_issues h, show mmaBad w (tcfgAhead g) = none from shapes]
    simp only [ahead, unbound, Option.isSome_none, Bool.false_eq_true, if_false]
    exact congrArg _ (raises h.here)

end Sys2Proof.Machine
end

section
/-! The head of a tile queue (R142). -/
namespace Sys2Proof.Machine

/-- A `tput` of eight zero bytes to row 0 of tile 0. -/
def zeroPut : TileOp := { n := 0, thread := 0, word := 0x80000004, sa := 0, sb := 0 }

/-- A running group whose tile map lists its first byte twice, the second time with value 2. -/
def twiceListed : Group := { state := 1, tcfg := [0x0101], tiles := [(0, 1), (0, 2)], tq := [zeroPut] }

/-- A cluster that acts and has only that group. -/
def twiceListedState : State := { State.reset with boot := { por := false }, groups := [twiceListed] }

/-- The `tput` drops the first entry of the byte, so that the second one shows. -/
theorem zeroPut_leaves : ∃ u g', exec (.tileQueue 0) twiceListedState = .next u ∧ u.groups[0]? = some g' ∧ tileByte g' 0 0 0 = 2 :=
  ⟨_, _, rfl, rfl, by decide⟩

/-- Refutes O13: nothing says that the tile map of the group is canonical, and where it lists a byte twice, a `tput` of a
zero to that byte removes the first entry only, so that the byte then reads as the second entry says. -/
theorem not_tileQueueExecutes : ¬ Obligations.TileQueueExecutes := by
  unfold Obligations.TileQueueExecutes
  intro claim
  obtain ⟨-, puts, -⟩ := claim twiceListedState 0 twiceListed zeroPut [] rfl rfl (.inl rfl) rfl
  obtain ⟨u, g', ran, at', -, stored, -⟩ := puts (by decide) (by decide) (by decide)
  obtain ⟨v, k, ran', kept, second⟩ := zeroPut_leaves
  obtain rfl : u = v := by simpa using ran.symm.trans ran'
  obtain rfl : g' = k := Option.some.inj (at'.symm.trans kept)
  have first := stored 0 0 0 (by decide) (by decide)
  rw [if_pos (by decide), second] at first
  exact absurd first (by decide)

end Sys2Proof.Machine
end

section
/-! Tickets of a task-core thread (R155, R157 to R159). -/
namespace Sys2Proof.Machine

variable {s : State} {t : Nat} {g : Group} {x : Thread} {w : Word}

/-- A slot whose ticket is not pending may be taken (R158). -/
def slotFree (g : Group) (i : Nat) : Bool :=
  match g.tickets[i]? with
  | some k => !k.pending
  | none => false

theorem slotFree_iff {i : Nat} : slotFree g i = true ↔ ∃ k, g.tickets[i]? = some k ∧ k.pending = false := by
  rw [slotFree]
  cases g.tickets[i]? with
  | none => simp
  | some k => simp

theorem pickSlot_eq (s : State) (g : Group) : pickSlot s g =
    if ((List.range 16).filter (slotFree g)).isEmpty then none
    else (((List.range 16).filter (slotFree g))[(Config.freeWord s.freeCtr).toNat % ((List.range 16).filter (slotFree g)).length]?).map
      fun i => (i, { s with freeCtr := s.freeCtr + 1 }) := rfl

/-- Where a slot is free, one is taken, with one free word drawn (assumption 40). -/
theorem pickSlot_free (free : ∃ i < 16, ∃ k, g.tickets[i]? = some k ∧ k.pending = false) : ∃ slot k,
    pickSlot s g = some (slot, { s with freeCtr := s.freeCtr + 1 }) ∧ slot < 16 ∧ g.tickets[slot]? = some k ∧ k.pending = false := by
  obtain ⟨i, low, k, at', done⟩ := free
  have listed : i ∈ (List.range 16).filter (slotFree g) :=
    List.mem_filter.2 ⟨List.mem_range.2 low, slotFree_iff.2 ⟨k, at', done⟩⟩
  rw [pickSlot_eq, if_neg (by simpa using ⟨i, low, slotFree_iff.2 ⟨k, at', done⟩⟩)]
  have within := Nat.mod_lt (Config.freeWord s.freeCtr).toNat (List.length_pos_of_mem listed)
  obtain ⟨low', free'⟩ := List.mem_filter.1 (List.getElem_mem within)
  obtain ⟨k', at'', done'⟩ := slotFree_iff.1 free'
  exact ⟨_, k', by rw [List.getElem?_eq_getElem within, Option.map_some], List.mem_range.1 low', at'', done'⟩

/-- The descriptor that takes a ticket of a thread (R158). -/
def ticketDesc (s : State) (t : Nat) (l : Launch) (slot seq : Nat) (bytes : List Byte) (record : Nat) (copy : Bool) : Desc :=
  { id := s.nextId, ring := l.ring, index := 0, seq := seq % 2 ^ 32, cls := l.cls, src := l.src, bytes := bytes
    phase := .fetched, issue := some { group := t / 4, slot, seq, record, launch := l.desc, copy } }

/-- A group that has issued a ticket. -/
def Group.ticketed (g : Group) (slot seq : Nat) : Group :=
  { g with tickets := g.tickets.set slot { seq := seq, pending := true, valid := true } }

/-- What an issued image leaves (R158). -/
theorem issueImage_taken {l : Launch} {slot : Nat} {k : Ticket} {bytes : List Byte} {record : Nat} {copy : Bool}
    (here : threadAt s t = some (g, x)) (launched : g.launch = some l)
    (picked : pickSlot s g = some (slot, { s with freeCtr := s.freeCtr + 1 })) (entry : g.tickets[slot]? = some k) :
    issueImage s t g w bytes record copy =
      threadNow (groupUpd { s with
        freeCtr := s.freeCtr + 1, nextId := s.nextId + 1, descs := s.descs ++ [ticketDesc s t l slot (k.seq + 1) bytes record copy] }
        (t / 4) fun g => g.ticketed slot (k.seq + 1)) t
        { wroteReg x (iD w) (BitVec.ofNat 64 (slot + 16 * (k.seq + 1))) with hold := .free } := by
  simp only [issueImage, launched, picked, entry, Option.map_some, Option.getD_some]
  refine retire_gen (g := g.ticketed slot (k.seq + 1)) (threadAt_groupUpd (s := { s with
    freeCtr := s.freeCtr + 1, nextId := s.nextId + 1, descs := s.descs ++ [ticketDesc s t l slot (k.seq + 1) bytes record copy] })
    here rfl)

/-- The thread and the descriptor of an issued image. -/
theorem issueImage_issued {bytes : List Byte} {record : Nat} {copy : Bool} (here : threadAt s t = some (g, x))
    (launched : g.launch.isSome = true) (free : ∃ i < 16, ∃ k, g.tickets[i]? = some k ∧ k.pending = false) :
    ∃ slot k, slot < 16 ∧ g.tickets[slot]? = some k ∧ k.pending = false ∧
      (∃ g', threadAt (issueImage s t g w bytes record copy) t = some (g',
          { wroteReg x (iD w) (BitVec.ofNat 64 (slot + 16 * (k.seq + 1))) with hold := .free }) ∧
        g'.tickets = g.tickets.set slot { seq := k.seq + 1, pending := true, valid := true }) ∧
      ∀ l, g.launch = some l → (issueImage s t g w bytes record copy).descs =
        s.descs ++ [ticketDesc s t l slot (k.seq + 1) bytes record copy] := by
  obtain ⟨l, launch⟩ := Option.isSome_iff_exists.1 launched
  obtain ⟨slot, k, picked, low, entry, done⟩ := pickSlot_free (s := s) free
  refine ⟨slot, k, low, entry, done, ?_, fun l' launch' => ?_⟩
  · rw [issueImage_taken here launch picked entry]
    have noted := threadAt_groupUpd (s := { s with
      freeCtr := s.freeCtr + 1, nextId := s.nextId + 1, descs := s.descs ++ [ticketDesc s t l slot (k.seq + 1) bytes record copy] })
      (f := fun g => g.ticketed slot (k.seq + 1)) here rfl
    exact ⟨_, threadAt_threadNow noted, rfl⟩
  · rw [issueImage_taken here launch' picked entry]
    rfl

/-! The commands where their thread issues, or has read its image. -/

theorem mcopy_issues (h : Issues s t .mcopy g x w) : exec (.mcopy t) s = .next
    (issueImage s t g w (copyImage (sGet x (iD w)).toNat (sGet x (iA w)).toNat (sGet x (iB w)).toNat) 0 true) :=
  congrArg _ (onInsn_issues h)

theorem eissue_issues (h : Issues s t .eissue g x w) :
    exec (.eissue t) s = .next (threadRead s t g (sGet x (iA w)).toNat 128 (.read (sGet x (iA w)).toNat)) := by
  refine congrArg _ ((onHeld_issues h).trans ?_)
  simp only [h.free]

theorem eissue_back {a : Nat} {bs : List Byte} (h : Stands s t .eissue g x w) (runs : g.state = 1) (held : x.hold = .read a)
    (near : isChip (sGet x (iA w)).toNat = false) (back : x.ret = some (bs, 0))
    (free : ∃ i < 16, ∃ k, g.tickets[i]? = some k ∧ k.pending = false) :
    exec (.eissue t) s = .next (issueImage s t g w bs (sGet x (iB w)).toNat false) := by
  refine congrArg _ ((h.onHeld (.inr (by simp [inRead, held, runs]))).trans ?_)
  obtain ⟨slot, k, picked, -⟩ := pickSlot_free (s := s) free
  simp only [held, back, takeRead_near near, picked, Option.isNone_some, Bool.false_eq_true, if_false]

theorem ewait_issues (h : Issues s t .ewait g x w) : exec (.ewait t) s = .next (match ticketAt g (sGet x (iA w)).toNat with
    | .here k => if k.pending then s else retire s t (iD w) (BitVec.ofNat 64 k.status)
    | .reused => retire s t (iD w) (-1)
    | .unknown => unknownTicket s t (iD w)) :=
  congrArg _ (onInsn_issues h)

theorem etest_issues (h : Issues s t .etest g x w) : exec (.etest t) s = .next (match ticketAt g (sGet x (iA w)).toNat with
    | .here k => retire s t (iD w) (if k.pending then -2 else BitVec.ofNat 64 k.status)
    | .reused => retire s t (iD w) (-1)
    | .unknown => unknownTicket s t (iD w)) :=
  congrArg _ (onInsn_issues h)

theorem ticketAt_here {v : Nat} {k : Ticket} (entry : g.tickets[v % 16]? = some k) (valid : k.valid = true) (same : k.seq = v / 16) :
    ticketAt g v = .here k := by
  simp [ticketAt, entry, valid, same]

theorem ticketAt_reused {v : Nat} {k : Ticket} (entry : g.tickets[v % 16]? = some k) (valid : k.valid = true) (issued : 0 < v / 16)
    (older : v / 16 < k.seq) : ticketAt g v = .reused := by
  simp only [ticketAt, entry, valid, beq_false_of_ne older.ne', issued, older, Bool.and_false, Bool.false_eq_true, if_false,
    decide_true, Bool.and_self, if_true]

/-- Settles O14: an issued image by the slot it takes, a ticket by what it names. -/
theorem ticketInstructions : Obligations.TicketInstructions := by
  unfold Obligations.TicketInstructions
  intro s t g x w a b retires issued free
  have issues {c : Instr} {bytes : List Byte} {record : Nat} {copy : Bool} (here : threadAt s t = some (g, x))
      (launched : g.launch.isSome = true) (slots : free) (runs : exec c s = .next (issueImage s t g w bytes record copy)) :
      issued c bytes record copy := by
    obtain ⟨slot, k, low, entry, done, thread, descs⟩ :=
      issueImage_issued (w := w) (bytes := bytes) (record := record) (copy := copy) here launched slots
    exact ⟨_, slot, k, runs, low, entry, done, thread, fun l launch => ⟨_, descs l launch, rfl, rfl, rfl, rfl, rfl, rfl⟩⟩
  refine ⟨fun h launched slots => issues h.here launched slots (mcopy_issues h), fun _ bs h runs held back near launched slots =>
    issues h.here launched slots (eissue_back h runs held near back slots), fun h aligned => fun allowed near =>
    (eissue_issues h).trans (congrArg _ (threadRead_near h.here aligned allowed near)), fun k entry valid => ?_⟩
  refine ⟨fun same done => ?_, fun same pending => ?_, fun issued older => ?_⟩
  case refine_1 =>
    constructor <;> intro h
    · rw [ewait_issues h, ticketAt_here entry valid same]
      simp only [done, Bool.false_eq_true, if_false]
      exact congrArg _ (retire_at h.here h.free)
    · rw [etest_issues h, ticketAt_here entry valid same]
      simp only [done, Bool.false_eq_true, if_false]
      exact congrArg _ (retire_at h.here h.free)
  case refine_2 =>
    constructor <;> intro h
    · rw [ewait_issues h, ticketAt_here entry valid same]
      simp only [pending, if_true]
    · rw [etest_issues h, ticketAt_here entry valid same]
      simp only [pending, if_true]
      exact congrArg _ (retire_at h.here h.free)
  case refine_3 =>
    constructor <;> intro h
    · rw [ewait_issues h, ticketAt_reused entry valid issued older]
      exact congrArg _ (retire_at h.here h.free)
    · rw [etest_issues h, ticketAt_reused entry valid issued older]
      exact congrArg _ (retire_at h.here h.free)

end Sys2Proof.Machine
end

section
/-! Collectives of a task-core thread (R163, R246, R266). -/
namespace Sys2Proof.Machine

variable {s u : State} {t : Nat} {g : Group} {x : Thread} {w : Word}

/-- A thread whose collective instruction has ended (R163). -/
def collEnded (x : Thread) (d : Nat) (v : Dword) (status : Nat) : Thread :=
  { wroteReg x d v with hold := .free, cstatus := BitVec.ofNat 32 status }

theorem collDone_at {d status : Nat} {v : Dword} (here : threadAt s t = some (g, x)) :
    collDone s t d status v = threadNow s t (collEnded x d v status) := by
  rw [collDone, threadUpd_at here]
  congr 1
  unfold nextPc sSet collEnded wroteReg
  split <;> rfl

/-- A collective instruction whose first round ends it goes no further. -/
theorem collInsn_ended {pc d status : Nat} {v : Dword} {round : State → State} (here : threadAt u t = some (g, x))
    (ends : round s = threadNow u t (collEnded x d v status)) :
    collInsn s t pc round = threadNow u t (collEnded x d v status) := by
  have ended := threadAt_threadNow (y := collEnded x d v status) here
  have stops : (collEnded x d v status).hold = .free := rfl
  simp only [collInsn, ends, ended, stops, Bool.and_false, Bool.false_eq_true, if_false]

section
variable {group op type redop count d : Nat} {chain : List Byte} {result : State → Nat → List Byte → Dword × State}

/-- A collective on a group that is not loaded (assumption 47). -/
theorem collRound_unloaded (here : threadAt s t = some (g, x)) (free : x.hold = .free) (unloaded : grpGet s group = none) :
    collRound s t group op type redop count chain d result =
      collDone (result s stDescInvalid []).2 t d stDescInvalid (result s stDescInvalid []).1 := by
  simp only [collRound, here, free, unloaded]

/-- A thread's collective without its descriptor. -/
def collGone (s : State) (c : Nat) : State := { s with descs := s.descs.filter fun z => z.id != c }

/-- A collective that has ended (R163). -/
theorem collRound_finished {c : Nat} {started : Bool} {y : Desc} (here : threadAt s t = some (g, x)) (held : x.hold = .coll c started)
    (desc : descGet s c = some y) (done : y.phase = .finished) :
    collRound s t group op type redop count chain d result =
      collDone (result (collGone s c) y.status y.body).2 t d y.status (result (collGone s c) y.status y.body).1 := by
  simp only [collRound, here, held]
  cases grpGet s group <;> simp only [desc, done] <;> rfl

end

/-- What `cred` gives its register (R163): the result, or on a failure an undefined value. -/
def credResult (n : Nat) (s : State) (st : Nat) (body : List Byte) : Dword × State :=
  if st = 0 then (BitVec.ofNat 64 (leNat (body.take n)), s) else (Config.freeWord s.freeCtr, { s with freeCtr := s.freeCtr + 1 })

/-- The round of a `cbar` and of a `cred`. -/
def cbarRound (t : Nat) (x : Thread) (w : Word) (s : State) : State :=
  collRound s t (bitsOf 11 0 (sGet x (iA w)).toNat) 4 0 0 0 [] (iD w) fun s st _ => (BitVec.ofNat 64 st, s)
@[inherit_doc cbarRound] def credRound (t : Nat) (x : Thread) (w : Word) (type redop n : Nat) (s : State) : State :=
  collRound s t (bitsOf 11 0 (sGet x (iA w)).toNat) 0 type redop 1 (toLe n (sGet x (iB w)).toNat) (iD w) (credResult n)

theorem cbar_stands (h : Stands s t .cbar g x w) (goes : mayIssue s g x = true ∨ inColl g x.hold = true) :
    exec (.cbar t) s = .next (collInsn s t x.pc.toNat (cbarRound t x w)) :=
  congrArg _ (h.onHeld goes)

theorem cred_stands {type redop n : Nat} (h : Stands s t .cred g x w) (goes : mayIssue s g x = true ∨ inColl g x.hold = true)
    (listed : credOp (bitsOf 15 12 (sGet x (iA w)).toNat) = some (type, redop, n)) :
    exec (.cred t) s = .next (collInsn s t x.pc.toNat (credRound t x w type redop n)) := by
  refine congrArg _ ((h.onHeld goes).trans ?_)
  simp only [listed]
  rfl

theorem cred_unlisted (h : Issues s t .cred g x w) (unlisted : credOp (bitsOf 15 12 (sGet x (iA w)).toNat) = none) :
    exec (.cred t) s = .next (raiseIllegal s t w) := by
  refine congrArg _ ((onHeld_issues h).trans ?_)
  simp only [unlisted]

theorem credOp_listed {k : Nat} (h : k ≤ 4) : ∃ type redop, credOp k = some (type, redop, if k ≤ 2 then 8 else 4) := by
  interval_cases k <;> exact ⟨_, _, rfl⟩

theorem credOp_unlisted {k : Nat} (h : 4 < k) : credOp k = none := by
  obtain ⟨j, rfl⟩ := Nat.exists_eq_add_of_lt h
  rw [show 4 + j + 1 = j + 5 by omega]
  rfl

theorem threadAt_collGone {c : Nat} (here : threadAt s t = some (g, x)) : threadAt (collGone s c) t = some (g, x) := here

/-- Settles O15: the first round ends each collective. -/
theorem collectiveInstructions : Obligations.CollectiveInstructions := by
  unfold Obligations.CollectiveInstructions
  intro s t g x w a group ends
  refine ⟨fun h unloaded => ?_, fun h beyond => cred_unlisted h (credOp_unlisted beyond), fun h within unloaded => ?_,
    fun c started y held runs desc done => ?_⟩
  · rw [cbar_stands h.toStands (.inl h.mayIssue)]
    refine congrArg _ (collInsn_ended h.here ?_)
    rw [cbarRound, collRound_unloaded h.here h.free unloaded, collDone_at h.here]
    rfl
  · obtain ⟨type, redop, listed⟩ := credOp_listed within
    rw [cred_stands h.toStands (.inl h.mayIssue) listed]
    refine ⟨Config.freeWord s.freeCtr, congrArg _ (collInsn_ended (u := { s with freeCtr := s.freeCtr + 1 }) h.here ?_)⟩
    rw [credRound, collRound_unloaded h.here h.free unloaded]
    exact collDone_at (s := { s with freeCtr := s.freeCtr + 1 }) h.here
  have goes : inColl g x.hold = true := by simp [inColl, held, runs]
  refine ⟨fun h => ?_, fun h ok within => ?_, fun h failed within => ?_⟩
  · rw [cbar_stands h (.inr goes)]
    refine congrArg _ (collInsn_ended (threadAt_collGone h.here) ?_)
    rw [cbarRound, collRound_finished h.here held desc done]
    exact collDone_at (threadAt_collGone h.here)
  · obtain ⟨type, redop, listed⟩ := credOp_listed within
    intro n
    rw [cred_stands h (.inr goes) listed]
    refine congrArg _ (collInsn_ended (threadAt_collGone h.here) ?_)
    rw [credRound, collRound_finished h.here held desc done, credResult, if_pos ok, ok]
    exact collDone_at (threadAt_collGone h.here)
  · obtain ⟨type, redop, listed⟩ := credOp_listed within
    rw [cred_stands h (.inr goes) listed]
    refine ⟨Config.freeWord s.freeCtr, congrArg _ (collInsn_ended (u := { collGone s c with freeCtr := s.freeCtr + 1 }) h.here ?_)⟩
    rw [credRound, collRound_finished h.here held desc done, credResult, if_neg failed]
    exact collDone_at (s := { collGone s c with freeCtr := s.freeCtr + 1 }) h.here

end Sys2Proof.Machine
end

section
/-! The start of a launch (R126). -/
namespace Sys2Proof.Machine

variable {s u : State} {d gi : Nat} {x : Desc} {g : Group}

/-- A read of outside memory asks once and gives what has come (R171). -/
theorem readRange_outside {owner addr len : Nat} (outside : isOwn s addr = false) (some' : 0 < len) :
    readRange s owner addr len = (gatherStart s owner addr len, match gatherGet (gatherStart s owner addr len) owner addr len with
      | .bytes bs => .bytes bs
      | .failed c => .failed c
      | .waiting => .waiting) := by
  simp only [readRange, some'.ne', if_false, outside, Bool.false_and, Bool.false_eq_true]
  cases gatherGet (gatherStart s owner addr len) owner addr len <;> rfl

/-- A launch that has taken its group, its image still to be copied (R126). -/
def launchTaken (s : State) (x : Desc) (gi : Nat) : State :=
  descUpd (groupUpd { s with nextId := s.nextId + 1 } gi (startGroup s.nextId x)) x.id fun y =>
    { y with phase := .running, engine := .launch gi, runs := 1 }

/-- Its threads, once the image is copied. -/
def imageCopied (im : List Byte) (y : Group) : Group :=
  { y with store := im, threads := y.threads.map fun z => if z.hold = .image then { z with hold := .free } else z }

theorem launch_takes (acts : live s = true) (desc : descGet s d = some x) (op : dop x = 0x50) (fresh : x.engine = .none)
    (may : mayStart s x = true) (pick : pickGroup s x = some gi)
    (first : firstOf s x (fun y => dop y == 0x50 && namesGroup s y gi) = true) (awake : wakeFor s [68 + gi / 2] = none) :
    exec (.launch d) s = .next (copyProgram (launchTaken s x gi) x gi) := by
  obtain rfl := descGet_id desc
  show execLaunch x.id s = _
  simp [execLaunch, whenLive, acts, desc, op, fresh, may, pick, first, awake]
  rfl

theorem launch_copies (acts : live s = true) (desc : descGet s d = some x) (op : dop x = 0x50) (taken : x.engine = .launch gi)
    (running : x.phase = .running) (copying : groupCopying s gi = true) :
    exec (.launch d) s = .next (copyProgram s x gi) := by
  show execLaunch d s = _
  simp [execLaunch, whenLive, acts, desc, op, taken, running, copying]

theorem copyProgram_whole {im : List Byte} (read : readRange s x.id (lcProg x) (lcProgLen x) = (u, .bytes im)) :
    copyProgram s x gi = groupUpd (gatherDrop u x.id) gi (imageCopied im) := by
  simp only [copyProgram, read]
  rfl

theorem copyProgram_waits (read : readRange s x.id (lcProg x) (lcProgLen x) = (u, .waiting)) : copyProgram s x gi = u := by
  simp only [copyProgram, read]

theorem OwnGood.launchTaken {addr len : Nat} (h : OwnGood s addr len) : OwnGood (launchTaken s x gi) addr len :=
  ⟨h.some, h.own, h.fits, ⟨h.quiet.awake, h.quiet.clear, h.quiet.past⟩, h.unordered, h.good⟩

/-- A launch's descriptor running on group `gi`, which holds `G`. -/
def launchPlaced (s : State) (x : Desc) (gi : Nat) (G : Group) : State :=
  descUpd (groupUpd { s with nextId := s.nextId + 1 } gi fun _ => G) x.id fun y =>
    { y with phase := .running, engine := .launch gi, runs := 1 }

theorem launchTaken_at (here : s.groups[gi]? = some g) : launchTaken s x gi = launchPlaced s x gi (startGroup s.nextId x g) := by
  rw [launchTaken, launchPlaced]
  congr 1
  exact groupUpd_congr (s := { s with nextId := s.nextId + 1 }) here rfl

theorem groupUpd_launchPlaced {G : Group} {f : Group → Group} {owner : Nat} :
    groupUpd (gatherDrop (launchPlaced s x gi G) owner) gi f = gatherDrop (launchPlaced s x gi (f G)) owner := by
  simp only [launchPlaced, groupUpd, gatherDrop, descUpd, setAt_setAt]

theorem imageCopied_started {im : List Byte} {h : Group} (waits : h.threads = List.replicate 4 (startThread x)) :
    imageCopied im h = { h with store := im, threads := List.replicate 4 { startThread x with hold := .free } } := by
  rw [imageCopied, waits, List.map_replicate]
  rfl

/-- Settles O16: the copy of the image, from the scratchpad, asked for and returned. -/
theorem launchStarts : Obligations.LaunchStarts := by
  unfold Obligations.LaunchStarts
  intro s d gi x g acts desc op fresh may pick here first awake arg thread taken with'
  obtain rfl := descGet_id desc
  refine ⟨fun good => ?_, fun outside some' => fun waits => ?_, fun u h im acts' par outside some' desc' here' runs asked back => ?_⟩
  · rw [launch_takes acts desc op fresh may pick first awake, copyProgram_whole (readRange_good good.launchTaken),
      launchTaken_at here, groupUpd_launchPlaced, imageCopied_started rfl]
    rfl
  · have read := readRange_outside (s := launchPlaced s x gi (startGroup s.nextId x g)) (owner := x.id) outside some'
    have waits' : gatherGet (gatherStart (launchPlaced s x gi (startGroup s.nextId x g)) x.id (dfield x 40 8) (dfield x 36 4)) x.id
      (dfield x 40 8) (dfield x 36 4) = .waiting := waits
    rw [launch_takes acts desc op fresh may pick first awake, launchTaken_at here]
    rw [waits'] at read
    exact congrArg _ (copyProgram_waits read)
  · have copying : groupCopying u gi = true := by simp [groupCopying, here', runs, thread]
    have read := readRange_outside (s := u) (owner := x.id) outside some'
    rw [gatherStart, if_pos asked, back] at read
    rw [launch_copies acts' desc' op rfl rfl copying]
    refine congrArg _ ((copyProgram_whole (x := { x with phase := .running, engine := .launch gi, runs := 1 }) read).trans ?_)
    show gatherDrop (groupUpd u gi (imageCopied im)) x.id = _
    rw [groupUpd_congr (k := fun _ => { h with store := im, threads := List.replicate 4 (thread .free) }) here'
      (imageCopied_started rfl)]

end Sys2Proof.Machine
end

section
/-! What an error that is raised leaves of the groups (R156, R311 to R317). -/
namespace Sys2Proof.Machine

/-- A fold keeps what each of its steps keeps. -/
theorem foldl_same {α β γ : Type} {p : β → γ} {f : β → α → β} (h : ∀ s a, p (f s a) = p s) (l : List α) (s : β) :
    p (l.foldl f s) = p s := by
  induction l generalizing s with
  | nil => rfl
  | cons a l ih => exact (ih (f s a)).trans (h s a)

@[simp] theorem noteRefusal_groups (s : State) (out : Bool) (src addr reason : Nat) :
    (noteRefusal s out src addr reason).groups = s.groups := rfl
@[simp] theorem setEvent_groups (s : State) (b : Nat) : (setEvent s b).groups = s.groups := rfl
@[simp] theorem suppPut_groups (s : State) (k : Nat × Nat) (v : Option Nat × Nat) : (suppPut s k v).groups = s.groups := rfl
@[simp] theorem eeuStatus_groups (s : State) : (eeuStatus s).groups = s.groups := by
  simp only [eeuStatus, regPutBits_groups, regPut_groups]
@[simp] theorem linksDown_groups (s : State) : (linksDown s).groups = s.groups :=
  foldl_same (p := State.groups) (fun s _ => regPutBits_groups s ..) _ s

@[simp] theorem wakeBanks_groups (s : State) (off len : Nat) : (wakeBanks s off len).groups = s.groups := by
  unfold wakeBanks
  split <;> rfl

@[simp] theorem entriesWritten_groups (s : State) (addr len : Nat) : (entriesWritten s addr len).groups = s.groups := by
  unfold entriesWritten
  dsimp only
  split <;> rfl

@[simp] theorem routeWritten_groups (s : State) (off len : Nat) : (routeWritten s off len).groups = s.groups := by
  unfold routeWritten
  split <;> rfl

@[simp] theorem spmStore_groups (s : State) (off : Nat) (bs : List Byte) : (spmStore s off bs).groups = s.groups := by
  unfold spmStore
  dsimp only
  split
  · split <;> rfl
  · rfl

@[simp] theorem cmpPump_groups (s : State) (ch : Nat) : (cmpPump s ch).groups = s.groups := by
  unfold cmpPump
  dsimp only
  split
  · rfl
  split
  · rfl
  split
  · rfl
  split
  · split <;> rfl
  · rfl

@[simp] theorem cmpSend_groups (s : State) (a : Access) : (cmpSend s a).1.groups = s.groups := by
  refine (foldl_same (p := State.groups) (fun s p => ?_) _ _).trans ?_
  · exact (cmpPump_groups ..).trans (chanUpd_groups ..)
  · split
    · rfl
    · exact entriesWritten_groups ..

@[simp] theorem homeWrite_groups (s : State) (off : Nat) (bs : List Byte) (who : Who) :
    (homeWrite s off bs who).1.groups = s.groups := by
  unfold homeWrite
  refine foldl_same (p := fun r : State × _ => r.1.groups) (fun r n => ?_) _ _
  exact cmpSend_groups ..

@[simp] theorem writeThrough_groups (s : State) (a : Access) (runs : List (Nat × List Byte)) (count : Option (Nat × Nat))
    (old : List Byte) : (writeThrough s a runs count old).1.groups = s.groups := by
  unfold writeThrough
  split
  · rfl
  · refine (foldl_same (p := fun r : State × _ => r.1.groups) (fun r n => ?_) runs _).trans (newId_groups s)
    exact homeWrite_groups ..

@[simp] theorem deliverEntry_groups (s : State) : (deliverEntry s).groups = s.groups := by
  unfold deliverEntry
  split
  · split <;> simp
  · simp

@[simp] theorem writeFatal_groups (s : State) (e : ErrRec) (cls : Nat) (esc : Bool) : (writeFatal s e cls esc).groups = s.groups := by
  unfold writeFatal
  split <;> rfl

@[simp] theorem stopCluster_groups (s : State) (supply : Bool) : (stopCluster s supply).groups = s.groups := by
  have shut : (if eeuShut s then s else setEvent s 2).groups = s.groups := by split <;> rfl
  simp only [stopCluster, linksDown_groups]
  split <;> exact shut

@[simp] theorem countCorrected_groups (s : State) (res : Nat) : (countCorrected s res).groups = s.groups := by
  unfold countCorrected
  dsimp only
  split <;> split <;> split <;> rfl

/-- A write changes no group but a suspended one, whose save area it may spoil (R156). -/
def GroupsNoted (s u : State) : Prop :=
  ∃ f : Group → Group, (∀ g, g.state ≠ 3 → f g = g) ∧ (∀ g, (f g).state = g.state) ∧ u.groups = s.groups.map f

theorem GroupsNoted.of_eq {s u : State} (h : u.groups = s.groups) : GroupsNoted s u :=
  ⟨id, fun _ _ => rfl, fun _ => rfl, by rw [h, List.map_id]⟩

theorem GroupsNoted.trans {s t u : State} : GroupsNoted s t → GroupsNoted t u → GroupsNoted s u := by
  rintro ⟨f, hf, same, ht⟩ ⟨k, hk, same', hu⟩
  refine ⟨k ∘ f, fun g apart => ?_, fun g => (same' _).trans (same g), by rw [hu, ht, List.map_map]⟩
  rw [Function.comp_apply, hf g apart, hk g apart]

/-- A group that is not suspended stays as it is. -/
theorem GroupsNoted.get {s u : State} {i : Nat} {g : Group} (noted : GroupsNoted s u) (here : s.groups[i]? = some g)
    (apart : g.state ≠ 3) : u.groups[i]? = some g := by
  obtain ⟨f, hf, -, hu⟩ := noted
  rw [hu, List.getElem?_map, here, Option.map_some, hf g apart]

theorem noteWrite_spares (s : State) (owner : Option Nat) (off len : Nat) : GroupsNoted s (noteWrite s owner off len) := by
  refine ⟨_, fun g apart => ?_, fun g => ?_, rfl⟩
  · simp [apart]
  · split <;> rfl

theorem spmWrite_spares (s : State) (owner : Option Nat) (off : Nat) (bs : List Byte) : GroupsNoted s (spmWrite s owner off bs) :=
  .trans (.of_eq (spmStore_groups ..)) (noteWrite_spares ..)

theorem foldl_spares {α : Type} {f : State → α → State} (h : ∀ s a, GroupsNoted s (f s a)) (l : List α) (s : State) :
    GroupsNoted s (l.foldl f s) := by
  induction l generalizing s with
  | nil => exact .of_eq rfl
  | cons a l ih => exact (h s a).trans (ih (f s a))

theorem storeRuns_spares (s : State) (owner : Option Nat) (a : Access) (runs : List (Nat × List Byte))
    (count : Option (Nat × Nat)) (old : List Byte) : GroupsNoted s (storeRuns s owner a runs count old).1 := by
  refine .trans (foldl_spares (fun s r => ?_) runs s) (.of_eq (writeThrough_groups ..))
  refine .trans (.trans (.of_eq (wakeBanks_groups s r.1 r.2.length)) (spmWrite_spares _ owner r.1 r.2)) (.of_eq ?_)
  split <;> simp

theorem unitStore_spares (s : State) (off : Nat) (bs : List Byte) : GroupsNoted s (unitStore s off bs) := by
  unfold unitStore
  dsimp only
  split
  · exact .of_eq rfl
  · split
    · exact .of_eq rfl
    · exact storeRuns_spares ..

theorem writeEntry_spares (s : State) (e : ErrRec) (cls : Nat) (esc : Bool) (supp : Nat) :
    GroupsNoted s (writeEntry s e cls esc supp).1 := by
  unfold writeEntry
  dsimp only
  split
  · exact .of_eq rfl
  · exact (unitStore_spares s (regGet s 0xC00010 % 2 ^ 27 / 64 * 64 + 64 * (logW s % 256))
      (logBytes s.osc (logW s) e cls esc supp)).trans (.of_eq (by simp))

/-- An error that is raised changes no group, apart from its log entry's write. -/
theorem raiseErr_spares (s : State) (e : ErrRec) : GroupsNoted s (raiseErr s e) := by
  unfold raiseErr
  split
  · split
    · exact .of_eq rfl
    · split
      · exact .of_eq (stopCluster_groups ..)
      · exact .of_eq rfl
  split
  · split <;> exact .of_eq rfl
  have entry (s : State) (cls : Nat) (esc : Bool) (supp : Nat) (u : State)
      (h : u.groups = (writeEntry s e cls esc supp).1.groups) : GroupsNoted s u := (writeEntry_spares ..).trans (.of_eq h)
  split
  · refine .trans (.of_eq (countCorrected_groups s e.resource)) ?_
    dsimp only
    split
    · exact .of_eq rfl
    · split <;> exact entry _ 1 false _ _ (suppPut_groups ..)
  · dsimp only
    split
    · exact entry s 3 true 0 _ (by simp)
    · exact entry s 2 false 0 _ (setEvent_groups ..)
  · exact entry s 3 false 0 _ (by simp)
  · dsimp only
    split
    · exact entry s 4 false 0 _ (by simp)
    · exact entry s 4 false 0 _ (setEvent_groups ..)

end Sys2Proof.Machine
end

section
/-! The end of a launch (R127, R137). -/
namespace Sys2Proof.Machine

variable {s : State} {gi st : Nat} {g : Group} {l : Launch}

@[simp] theorem syncOwners_groups (s : State) : (syncOwners s).groups = s.groups :=
  foldl_same (p := State.groups) (fun s _ => regPut_groups s ..) _ s
@[simp] theorem syncOwners_descs (s : State) : (syncOwners s).descs = s.descs :=
  foldl_same (p := State.descs) (fun s _ => regPut_descs s ..) _ s

theorem groupUpd_at {f : Group → Group} (here : s.groups[gi]? = some g) : (groupUpd s gi f).groups[gi]? = some (f g) := by
  simp only [groupUpd, setAt_get, if_true, here, Option.map_some]

/-- Descriptor `d` has ended with a status and a body. -/
def EndedAs (s : State) (d status : Nat) (body : List Byte) : Prop :=
  ∃ y, descGet s d = some y ∧ y.phase = .finished ∧ y.status = status ∧ y.body = body

theorem DescsNoted.endedAs {u : State} {d : Nat} {body : List Byte} (noted : DescsNoted s u) :
    EndedAs s d st body → EndedAs u d st body := by
  rintro ⟨x, here, finished, status, kept⟩
  obtain ⟨y, there, same⟩ := noted.get here
  exact ⟨y, there, by rw [← finished, ← same], by rw [← status, ← same], by rw [← kept, ← same]⟩

/-- A descriptor that nothing has disturbed ends with the status it is given, and no running group with it (R14, R322). -/
theorem endDesc_ends {d : Nat} {x : Desc} {det : Detail} (here : descGet s d = some x) (going : x.phase ≠ .finished)
    (apart : x.disturbed = false) : GroupsNoted s (endDesc s d st det) ∧ EndedAs (endDesc s d st det) d st x.body := by
  have id := descGet_id here
  have ended := descGet_descUpd (f := fun _ => { x with phase := .finished, status := st, detail := det, waitBlock := none }) here id
  have calm : (x.disturbed && !x.rejected) = false := by rw [apart, Bool.false_and]
  simp only [endDesc, here, going, if_false, calm, Bool.false_eq_true]
  split
  · exact ⟨.of_eq rfl, _, ended, rfl, rfl, rfl⟩
  · exact ⟨.trans (.of_eq rfl) (raiseErr_spares ..), (raiseErr_noted ..).endedAs ⟨_, ended, rfl, rfl, rfl⟩⟩

/-- A launch's group given up and its descriptor about to end. -/
def launchRetired (s : State) (gi : Nat) (g : Group) (l : Launch) (th : Option Nat) : State :=
  descUpd (groupUpd (quadRelease s gi) gi idleGroup) l.desc fun d => { d with body := launchBody gi g th, engine := .none }

theorem retireLaunch_eq {th : Option Nat} (here : s.groups[gi]? = some g) (launched : g.launch = some l) :
    ∃ det, retireLaunch s gi st th = endDesc (launchRetired s gi g l th) l.desc st det := by
  simp only [retireLaunch, here, launched]
  exact ⟨_, rfl⟩

/-- A launch that retires leaves its group idle and ends its descriptor (R127, R137). -/
theorem retireLaunch_ends {th : Option Nat} (here : s.groups[gi]? = some g) (launched : g.launch = some l)
    (apart : Undisturbed s l.desc) : (retireLaunch s gi st th).groups[gi]? = some (idleGroup g) ∧
      EndedAs (retireLaunch s gi st th) l.desc st (launchBody gi g th) := by
  obtain ⟨x, desc, going, calm⟩ := apart
  obtain ⟨det, retires⟩ := retireLaunch_eq (st := st) (th := th) here launched
  have kept : descGet (groupUpd (quadRelease s gi) gi idleGroup) l.desc = some x := by
    rw [descGet, groupUpd_descs, quadRelease, syncOwners_descs, groupUpd_descs]
    exact desc
  have id := descGet_id desc
  have marked : descGet (launchRetired s gi g l th) l.desc = some { x with body := launchBody gi g th, engine := .none } :=
    descGet_descUpd kept id
  have idle : (launchRetired s gi g l th).groups[gi]? = some (idleGroup g) := by
    refine groupUpd_at (s := quadRelease s gi) (g := { g with quad := none, tags := [], feeder := none, bindSince := none }) ?_
    rw [quadRelease, syncOwners_groups]
    exact groupUpd_at here
  obtain ⟨spared, ended⟩ := endDesc_ends (st := st) (det := det) marked going calm
  rw [retires]
  exact ⟨spared.get idle (show (0 : Nat) ≠ 3 by decide), ended⟩

theorem launchComplete_runs (acts : live s = true) (here : s.groups[gi]? = some g) (launched : g.launch = some l)
    (drained : groupDrained g = true) (runs : g.state = 1) (ended : ∀ x ∈ g.threads, x.ended = true) :
    exec (.launchComplete gi) s = .next (stewardAct (retireLaunch s gi 0 none)) := by
  show execLaunchComplete gi s = _
  have all : g.threads.all (·.ended) = true := List.all_eq_true.2 ended
  simp [execLaunchComplete, whenLive, acts, here, launched, drained, runs, all]

theorem launchEnd_runs {th : Option Nat} (acts : live s = true) (here : s.groups[gi]? = some g) (launched : g.launch = some l)
    (drained : groupDrained g = true) (ends : g.state = 5) (fate : l.fate = some (st, th)) :
    exec (.launchEnd gi) s = .next (stewardAct (retireLaunch s gi st th)) := by
  show execLaunchEnd gi s = _
  simp [execLaunchEnd, whenLive, acts, here, launched, drained, ends, fate]

theorem launchBody_ended (ended : ∀ x ∈ g.threads, x.ended = true) :
    launchBody gi g none = (g.threads.map fun x => toLe 2 x.exitVal.toNat).flatten ++ toLe 12 0 := by
  have exits : (g.threads.map fun x => if x.ended then toLe 2 x.exitVal.toNat else toLe 2 0) =
      g.threads.map fun x => toLe 2 x.exitVal.toNat := List.map_congr_left fun x listed => if_pos (ended x listed)
  rw [launchBody, exits]

/-- Settles O17: both ends of a launch retire it. -/
theorem launchEnds : Obligations.LaunchEnds := by
  unfold Obligations.LaunchEnds
  intro s gi g l acts here launched drained apart idle
  refine ⟨fun runs ended => ?_, fun st th ends fate => ?_⟩
  · obtain ⟨gone, y, desc, finished, status, body⟩ := retireLaunch_ends (st := 0) (th := none) here launched apart
    refine ⟨_, launchComplete_runs acts here launched drained runs ended, gone, ⟨y, desc, finished, status⟩, ?_⟩
    rw [desc, Option.map_some, body, launchBody_ended ended]
  · obtain ⟨gone, y, desc, finished, status, -⟩ := retireLaunch_ends (st := st) (th := th) here launched apart
    exact ⟨_, launchEnd_runs acts here launched drained ends fate, gone, y, desc, finished, status⟩

end Sys2Proof.Machine
end

section
/-! SUSPEND, RESUME and ABORT in a group's command register (R154, R155). -/
namespace Sys2Proof.Machine

variable {s : State} {m : Master} {gi : Nat} {g : Group}

/-- TC_GRPn_CTL and its row of the register map (R401). -/
def ctlReg (gi : Nat) : Nat := 0x600400 + 0x20 * gi
@[inherit_doc ctlReg] def ctlRow : RegRow := { base := 0x600400, stride := 0x20, count := 32, fields := fld .rw }

theorem ctlReg_row : ∀ gi < 32, rowOf (ctlReg gi) = some ctlRow ∧ regDecode (ctlReg gi) = ctlReg gi ∧
    indData? (ctlReg gi) = none ∧ specialOf (ctlReg gi) = .group gi ∧ regGens (ctlReg gi) = [] := by
  decide +kernel

theorem bumpGens_nil (s : State) : bumpGens s [] = s := by
  have kept : (fun d : Desc => if !inSpan s d then d else { d with
      disturbed := d.disturbed || [].any (boundTo s d)
      fepMoved := d.fepMoved || (d.phase == .fetched && [].contains 6) }) = id := by
    funext d
    split
    · rfl
    · simp
  simp only [bumpGens, kept, List.map_id]
  rfl

theorem unitAbsent_ctlReg (low : gi < 32) (present : gi < 2 * s.par.taskCores) : unitAbsent s (ctlReg gi) = false := by
  have number : (ctlReg gi - 0x600400) / 0x20 = gi := by
    rw [ctlReg]
    omega
  have high : ¬ctlReg gi < 0x400120 := by
    rw [ctlReg]
    omega
  simp only [unitAbsent, number, high]
  simp [present]

/-- A write of a group's command register puts a word there and does nothing else by itself. -/
theorem plainWrite_ctlReg (low : gi < 32) (present : gi < 2 * s.par.taskCores) (v : Nat) :
    ∃ w, plainWrite s true (ctlReg gi) v = regPut s (ctlReg gi) w := by
  obtain ⟨row, -, -, -, gens⟩ := ctlReg_row gi low
  simp only [plainWrite, row, unitAbsent_ctlReg low present, gens, bumpGens_nil]
  exact ⟨_, rfl⟩

theorem groupWrite_admits (low : gi < 32) (present : gi < 2 * s.par.taskCores) (admits : Admits s m .write (0x600400 + 0x20 * gi))
    (cmd : Nat) : groupWrite s m gi cmd = groupCtl s gi (setBits 1 0 (regGet s (ctlReg gi)) cmd) := by
  obtain ⟨-, decoded, notInd, special, -⟩ := ctlReg_row gi low
  have notIndex : (decide (0xD00000 ≤ ctlReg gi) && decide (ctlReg gi < 0xD00040) && ctlReg gi % 16 == 0) = false := by
    have : ¬0xD00000 ≤ ctlReg gi := by
      rw [ctlReg]
      omega
    simp [this]
  rw [groupWrite, if_pos low, masterWrite_admits admits]
  show regWrite s (masterPriv s m) (masterUser m) (ctlReg gi) _ = _
  simp only [regWrite, decoded, notInd, notIndex, Bool.false_eq_true, if_false, directWrite, special,
    unitAbsent_ctlReg low present]
  rfl

theorem setBits_cmd (n : Nat) {cmd : Nat} (h : cmd < 4) : setBits 1 0 n cmd % 4 = cmd := by
  simp only [setBits]
  omega

/-! What the write of the command register leaves. -/

/-- The registers of another use are as they were. -/
theorem regGet_ctlReg {off : Nat} (w : Nat) (h : off ≠ ctlReg gi) : regGet (regPut s (ctlReg gi) w) off = regGet s off :=
  regGet_regPut_other s w h

theorem saveAddr_ctlReg (w : Nat) : saveAddr (regPut s (ctlReg gi) w) gi = saveAddr s gi := by
  simp only [saveAddr, regPair]
  rw [regGet_ctlReg w (by rw [ctlReg]; omega), regGet_ctlReg w (by rw [ctlReg]; omega)]

theorem ownId_ctlReg (w : Nat) : ownId (regPut s (ctlReg gi) w) = ownId s := by
  simp only [ownId, regBits]
  rw [regGet_ctlReg w (by rw [ctlReg]; omega)]

theorem isOwn_ctlReg (w a : Nat) : isOwn (regPut s (ctlReg gi) w) a = isOwn s a := by
  simp only [isOwn, ownId_ctlReg]

theorem saveOk_ctlReg (w a : Nat) : saveOk (regPut s (ctlReg gi) w) a = saveOk s a := by
  simp only [saveOk, isOwn_ctlReg]
  rfl

theorem saveOk_iff {a : Nat} : saveOk s a = true ↔ isOwn s a = true ∧ a % 128 = 0 ∧ inNear s (offsetOf a) 1 = true := by
  simp [saveOk, and_assoc]

/-! The three commands. -/

theorem suspendGroup_runs (low : gi < 32) (present : gi < 2 * s.par.taskCores)
    (admits : Admits s m .write (0x600400 + 0x20 * gi)) :
    ∃ w, exec (.suspendGroup m gi) s = .next (suspendCmd (regPut s (ctlReg gi) w) gi) := by
  obtain ⟨w, puts⟩ := plainWrite_ctlReg low present (setBits 1 0 (regGet s (ctlReg gi)) 1)
  have cmd := setBits_cmd (regGet s (ctlReg gi)) (show 1 < 4 by decide)
  refine ⟨w, congrArg _ ((groupWrite_admits low present admits 1).trans ?_)⟩
  rw [groupCtl, cmd, if_neg (by decide), groupCmd, cmd]
  exact congrArg (suspendCmd · gi) puts

theorem resumeGroup_runs (low : gi < 32) (present : gi < 2 * s.par.taskCores)
    (admits : Admits s m .write (0x600400 + 0x20 * gi)) (here : s.groups[gi]? = some g) (other : g.state ≠ 4) :
    ∃ w, exec (.resumeGroup m gi) s = .next (resumeCmd (regPut s (ctlReg gi) w) gi) := by
  obtain ⟨w, puts⟩ := plainWrite_ctlReg low present (setBits 1 0 (regGet s (ctlReg gi)) 2)
  have cmd := setBits_cmd (regGet s (ctlReg gi)) (show 2 < 4 by decide)
  have fresh : (live s && resuming s gi) = false := by simp [resuming, here, other]
  refine ⟨w, congrArg _ ((if_neg (by simp [fresh])).trans ((groupWrite_admits low present admits 2).trans ?_))⟩
  rw [groupCtl, cmd, if_neg (by decide), groupCmd, cmd]
  exact congrArg (resumeCmd · gi) puts

theorem abortLaunch_runs (low : gi < 32) (present : gi < 2 * s.par.taskCores)
    (admits : Admits s m .write (0x600400 + 0x20 * gi)) :
    ∃ w, exec (.abortLaunch m gi) s = .next (
      if groupIdle (abortCmd (regPut s (ctlReg gi) w) gi) gi && !groupIdle s gi then stewardAct (abortCmd (regPut s (ctlReg gi) w) gi)
      else abortCmd (regPut s (ctlReg gi) w) gi) := by
  obtain ⟨w, puts⟩ := plainWrite_ctlReg low present (setBits 1 0 (regGet s (ctlReg gi)) 3)
  have cmd := setBits_cmd (regGet s (ctlReg gi)) (show 3 < 4 by decide)
  refine ⟨w, congrArg _ ((groupWrite_admits low present admits 3).trans ?_)⟩
  rw [groupCtl, cmd, if_pos rfl]
  exact congrArg (fun u => if groupIdle (abortCmd u gi) gi && !groupIdle s gi then stewardAct (abortCmd u gi) else abortCmd u gi) puts

/-- A group as SUSPEND leaves it (R155). -/
def Group.suspending (x : Group) : Group :=
  { x with
    state := 2, refused := false, bindSince := none
    tq := x.tq.filter fun o => iOp o.word != 0x21 || bitsOf 2 0 o.word.toNat != 1
    threads := x.threads.map fun y => match y.hold with
      | .cwait _ | .gbar | .coll _ false => { y with hold := .free }
      | .tile n => if x.tq.any (fun o => o.n == n && iOp o.word == 0x21 && bitsOf 2 0 o.word.toNat == 1)
          then { y with hold := .free } else y
      | _ => y }

theorem suspendCmd_refused (here : s.groups[gi]? = some g) (bad : ¬(g.state = 1 ∧ saveOk s (saveAddr s gi) = true)) :
    suspendCmd s gi = refuseGroup s gi := by
  have refuses : (g.state != 1 || !saveOk s (saveAddr s gi)) = true := by
    simp only [Bool.or_eq_true, bne_iff_ne, Bool.not_eq_true']
    by_contra none
    push Not at none
    exact bad ⟨none.1, by simpa using none.2⟩
  simp only [suspendCmd, here, refuses, if_true]

theorem suspendCmd_runs (here : s.groups[gi]? = some g) (runs : g.state = 1) (ok : saveOk s (saveAddr s gi) = true) :
    suspendCmd s gi = groupUpd (dropColls s gi) gi Group.suspending := by
  have takes : (g.state != 1 || !saveOk s (saveAddr s gi)) = false := by simp [runs, ok]
  simp only [suspendCmd, here, takes, Bool.false_eq_true, if_false]
  rfl

theorem resumeCmd_refused (here : s.groups[gi]? = some g) (bad : g.state ≠ 0 ∨ saveOk s (saveAddr s gi) = false) :
    resumeCmd s gi = refuseGroup s gi := by
  have refuses : (g.state != 0 || !saveOk s (saveAddr s gi)) = true := by simpa using bad
  simp only [resumeCmd, here, refuses, if_true]

theorem abortCmd_refused (here : s.groups[gi]? = some g) (bad : g.state = 0 ∨ saveOk s (saveAddr s gi) = false) :
    abortCmd s gi = refuseGroup s gi := by
  have refuses : (decide (g.state = 0) || !saveOk s (saveAddr s gi)) = true := by simpa using bad
  simp only [abortCmd, here, refuses, if_true]

/-- A command that is taken leaves CMD_REFUSED clear. -/
def Group.accepted (g : Group) : Group := { g with refused := false }

theorem abortCmd_runs (here : s.groups[gi]? = some g) (ok : saveOk s (saveAddr s gi) = true)
    (runs : g.state = 1 ∨ g.state = 2 ∨ g.state = 4) :
    abortCmd s gi = endLaunch (groupUpd s gi Group.accepted) gi stAborted none := by
  have takes : (decide (g.state = 0) || !saveOk s (saveAddr s gi)) = false := by
    simp only [ok, Bool.not_true, Bool.or_false, decide_eq_false_iff_not]
    omega
  have notHeld : g.state ≠ 3 := by omega
  have notEnding : g.state ≠ 5 := by omega
  simp only [abortCmd, here, takes, Bool.false_eq_true, if_false, notHeld, notEnding]
  rfl

theorem abortCmd_suspended (here : s.groups[gi]? = some g) (ok : saveOk s (saveAddr s gi) = true) (held : g.state = 3) :
    abortCmd s gi = retireLaunch (groupUpd s gi Group.accepted) gi stAborted none := by
  simp only [abortCmd, here, ok, held]
  rfl

/-- A group whose launch ends (R137). -/
def Group.ending (x : Group) (status : Nat) (th : Option Nat) : Group :=
  { x with
    state := 5
    launch := x.launch.map fun l => { l with fate := l.fate.orElse fun _ => some (status, th) }
    tq := x.tq.filter fun o => o.begun
    bindSince := none }

theorem endLaunch_eq (s : State) (gi status : Nat) (th : Option Nat) :
    endLaunch s gi status th = groupUpd (dropColls s gi) gi fun x => x.ending status th := rfl

theorem suspending_releases {k : Nat} {x : Thread} (here : g.threads[k]? = some x) (waits : x.hold = .gbar ∨ ∃ c, x.hold = .cwait c) :
    g.suspending.threads[k]? = some { x with hold := .free } := by
  rw [Group.suspending, List.getElem?_map, here]
  rcases waits with e | ⟨c, e⟩ <;> simp only [Option.map_some, e]

theorem suspending_leaves {k : Nat} {x : Thread} (here : g.threads[k]? = some x) (quiet : x.hold = .free ∨ x.hold = .fence) :
    g.suspending.threads[k]? = some x := by
  rw [Group.suspending, List.getElem?_map, here]
  rcases quiet with e | e <;> simp only [Option.map_some, e]

theorem groupIdle_at {u : State} (here : u.groups[gi]? = some g) : groupIdle u gi = (g.state == 0 && g.launch.isNone) := by
  simp only [groupIdle, here]

/-- Settles O18: the three commands, each refused or done. -/
theorem groupCommands : Obligations.GroupCommands := by
  unfold Obligations.GroupCommands
  intro s m gi g here present low admits save saveGood turns refused
  obtain ⟨ws, suspends⟩ := suspendGroup_runs low present admits
  obtain ⟨wa, aborts⟩ := abortLaunch_runs low present admits
  have ok (w : Nat) : saveOk (regPut s (ctlReg gi) w) (saveAddr (regPut s (ctlReg gi) w) gi) = true ↔ saveGood := by
    rw [saveOk_ctlReg, saveAddr_ctlReg]
    exact saveOk_iff
  have bad (w : Nat) : saveOk (regPut s (ctlReg gi) w) (saveAddr (regPut s (ctlReg gi) w) gi) = false ↔ ¬saveGood := by
    rw [← ok w, Bool.not_eq_true]
  have refuses (w : Nat) : (refuseGroup (regPut s (ctlReg gi) w) gi).groups[gi]? = some { g with refused := true } :=
    groupUpd_at (s := regPut s (ctlReg gi) w) here
  have resumes (other : g.state ≠ 4) (no : g.state ≠ 0 ∨ ¬saveGood) : refused (.resumeGroup m gi) := by
    obtain ⟨w, runs⟩ := resumeGroup_runs low present admits here other
    rw [resumeCmd_refused (s := regPut s (ctlReg gi) w) here (no.imp_right (bad w).2)] at runs
    exact ⟨_, _, runs, refuses w, rfl⟩
  refine ⟨fun running good => ?suspend, fun no => ?notSuspended, fun no => ?notAborted, fun notIdle other => resumes other (.inl notIdle),
    fun idle no => resumes (by omega) (.inr no), fun good running l launched fate => ?abort, fun good held l launched apart => ?abortHeld⟩
  case suspend =>
    rw [suspendCmd_runs (s := regPut s (ctlReg gi) ws) here running ((ok ws).2 good)] at suspends
    have taken := groupUpd_at (s := dropColls (regPut s (ctlReg gi) ws) gi) (f := Group.suspending) here
    exact ⟨_, _, suspends, taken, rfl, rfl, rfl, rfl, rfl, fun k x => suspending_releases, fun k x => suspending_leaves⟩
  case notSuspended =>
    rw [suspendCmd_refused (s := regPut s (ctlReg gi) ws) here fun h => no ⟨h.1, (ok ws).1 h.2⟩] at suspends
    exact ⟨_, _, suspends, refuses ws, rfl⟩
  case notAborted =>
    have stays : (groupIdle (refuseGroup (regPut s (ctlReg gi) wa) gi) gi && !groupIdle s gi) = false := by
      rw [groupIdle_at (refuses wa), groupIdle_at here, Bool.and_not_self]
    rw [abortCmd_refused (s := regPut s (ctlReg gi) wa) here (no.imp_right (bad wa).2), stays] at aborts
    exact ⟨_, _, aborts, refuses wa, rfl⟩
  case abort =>
    have ends := groupUpd_at (s := dropColls (groupUpd (regPut s (ctlReg gi) wa) gi Group.accepted) gi)
      (f := fun x => x.ending stAborted none) (groupUpd_at (s := regPut s (ctlReg gi) wa) here)
    rw [← endLaunch_eq] at ends
    rw [abortCmd_runs (s := regPut s (ctlReg gi) wa) here ((ok wa).2 good) running, groupIdle_at ends] at aborts
    refine ⟨_, _, aborts, ends, rfl, rfl, ?_, rfl⟩
    show g.launch.map _ = _
    rw [launched, Option.map_some, fate]
    rfl
  case abortHeld =>
    obtain ⟨gone, y, desc, finished, status, -⟩ := retireLaunch_ends (st := stAborted) (th := none)
      (s := groupUpd (regPut s (ctlReg gi) wa) gi Group.accepted) (groupUpd_at (s := regPut s (ctlReg gi) wa) here)
      (l := l) launched apart
    have frees : (groupIdle (retireLaunch (groupUpd (regPut s (ctlReg gi) wa) gi Group.accepted) gi stAborted none) gi &&
        !groupIdle s gi) = true := by
      rw [groupIdle_at gone, groupIdle_at here, held]
      rfl
    rw [abortCmd_suspended (s := regPut s (ctlReg gi) wa) here ((ok wa).2 good) held, if_pos frees] at aborts
    exact ⟨_, aborts, ⟨y, desc, finished, status⟩, gone⟩

end Sys2Proof.Machine
end

section
/-! The save area of a suspended group: written at the end of its suspension, read at its resumption (R155, R156). -/
namespace Sys2Proof.Machine

variable {s u : State} {gi : Nat} {g : Group} {l : Launch}

/-! The end of a suspension (R155). -/

@[simp] theorem syncOwners_spm (s : State) : (syncOwners s).spm = s.spm :=
  foldl_same (p := State.spm) (fun s _ => regPut_spm s ..) _ s
@[simp] theorem syncOwners_spmLost (s : State) : (syncOwners s).spmLost = s.spmLost :=
  foldl_same (p := State.spmLost) (fun s _ => regPut_spmLost s ..) _ s

/-- A group that has released its quad (R149). -/
def Group.unbound (g : Group) : Group := { g with quad := none, tags := [], feeder := none, bindSince := none }

theorem quadRelease_groups (s : State) (gi : Nat) : (quadRelease s gi).groups = (groupUpd s gi Group.unbound).groups := by
  rw [quadRelease, syncOwners_groups]
  rfl

/-- A group whose save area is being written, and one for which that is answered (R155). -/
def Group.awaiting (g : Group) (area : Nat × Nat) : Group := { g with saving := .awaited, saved := area }
@[inherit_doc Group.awaiting] def Group.answered (g : Group) : Group := { g with saving := .done }

/-- A suspended group (R155). -/
def Group.suspended (g : Group) : Group := { g with state := 3, saving := .no, saveWild := false }

/-- No thread waits at a fence. -/
theorem finishFence_none {t : Nat} (h : ∀ g x, threadAt s t = some (g, x) → x.hold ≠ .fence) : finishFence s t = s := by
  unfold finishFence
  split
  next g x here => exact if_neg (h g x here)
  next => rfl

theorem finishFences_none (here : s.groups[gi]? = some g) (quiet : ∀ x ∈ g.threads, x.hold ≠ .fence) :
    (List.range 4).foldl (fun s k => finishFence s (4 * gi + k)) s = s := by
  have each (k : Nat) (low : k < 4) : finishFence s (4 * gi + k) = s := by
    refine finishFence_none fun g' x at' => ?_
    obtain ⟨group, thread⟩ := threadAt_some.1 at'
    rw [show (4 * gi + k) / 4 = gi by omega, here] at group
    obtain rfl := Option.some.inj group
    exact quiet x (List.mem_of_getElem? thread)
  show finishFence (finishFence (finishFence (finishFence s (4 * gi + 0)) (4 * gi + 1)) (4 * gi + 2)) (4 * gi + 3) = s
  rw [each 0 (by decide), each 1 (by decide), each 2 (by decide), each 3 (by decide)]

/-- A change of a group that is not suspended leaves a clear range clear. -/
theorem OwnClear.groupUpd {addr len : Nat} {f : Group → Group} (h : OwnClear s addr len)
    (apart : ∀ g, s.groups[gi]? = some g → (f g).state ≠ 3) : OwnClear (groupUpd s gi f) addr len where
  some := h.some
  own := h.own
  fits := h.fits
  unbacked := h.unbacked
  unordered := h.unordered
  settled := h.settled
  good := h.good
  quiet := ⟨h.quiet.awake, h.quiet.clear, h.quiet.past⟩
  apart := by
    refine ⟨h.apart.rings, h.apart.cqs, fun k listed held => ?_, h.apart.routes⟩
    obtain ⟨i, at'⟩ := List.getElem?_of_mem listed
    simp only [Machine.groupUpd, setAt_get] at at'
    split at at'
    next same =>
      subst same
      obtain ⟨old, there, rfl⟩ := Option.map_eq_some_iff.1 at'
      exact absurd held (apart old there)
    next => exact h.apart.saves k (List.mem_of_getElem? at') held

/-- A write that nothing stands in the way of is read back (R179). -/
theorem spmBytes_spmWrite {owner : Option Nat} {off : Nat} {bs : List Byte} (canon : mapWf (spmDefault s.spmLost) s.spm = true)
    (calm : s.inject = none) : spmBytes (spmWrite s owner off bs) off bs.length = bs := by
  refine List.ext_getElem (by simp [spmBytes]) fun i low _ => ?_
  have within : i < bs.length := by simpa [spmBytes] using low
  have stored : spmByte (spmWrite s owner off bs) (off + i) = bs[i] := by
    rw [spmWrite_plain calm]
    exact mapGet_setAll_same canon within
  simpa only [spmBytes, List.getElem_map, List.getElem_range] using stored

/-- The access that writes a save area. -/
def saveAccess (s : State) (gi : Nat) (bs : List Byte) : Access :=
  { kind := .write, addr := saveAddr s gi, len := bs.length, data := bs, steward := true, src := ownId s, who := .save gi }

theorem saveGroup_whole {c : Word} (agreed : saveCstatus g = some c)
    (fits : (saveArea g l (toLe 4 c.toNat)).length ≤ saveRoom s (offsetOf (saveAddr s gi))) :
    saveGroup s gi g l = serveNow (groupUpd s gi fun x =>
        x.awaiting (offsetOf (saveAddr s gi), (saveArea g l (toLe 4 c.toNat)).length)) none
      (saveAccess s gi (saveArea g l (toLe 4 c.toNat))) := by
  simp only [saveGroup, agreed, List.take_of_length_le fits]
  rfl

theorem deliver_save (s : State) (gi : Nat) (bs : List Byte) :
    deliver u (saveAccess s gi bs) (.ok []) = groupUpd u gi Group.answered := rfl

theorem saveEnd_answered (here : s.groups[gi]? = some g) (done : g.saving = .done) :
    saveEnd s gi = groupUpd (quadRelease s gi) gi Group.suspended := by
  simp only [saveEnd, here, done]
  rfl

theorem suspendDone_saves (acts : live s = true) (here : s.groups[gi]? = some g) (ready : suspendReady g = true)
    (fresh : g.saving = .no) (stops : g.state = 2) (launched : g.launch = some l) (quiet : ∀ x ∈ g.threads, x.hold ≠ .fence) :
    exec (.suspendDone gi) s = .next (suspendEnd (saveGroup s gi g l) gi) := by
  show execSuspendDone gi s = _
  simp [execSuspendDone, whenLive, acts, here, ready, fresh, finishFences_none here quiet, stops, launched]

theorem suspendReady_of (stops : g.state = 2) (drained : groupDrained g = true) (settled : groupWaits g = false)
    (quiet : ∀ x ∈ g.threads, x.hold = .free ∨ x.hold = .debug) : suspendReady g = true := by
  simp only [suspendReady, stops, drained, settled, decide_true, Bool.not_false, Bool.and_true, Bool.true_and, List.all_eq_true]
  intro x listed
  rcases quiet x listed with e | e <;> simp only [e]

/-- The end of a suspension whose save area's write is answered (R155). -/
theorem suspendEnd_answered (here : s.groups[gi]? = some g) (done : g.saving = .done) : ∃ u, suspendEnd s gi = stewardAct u ∧
    u.groups[gi]? = some g.unbound.suspended ∧ ∀ off len, spmBytes u off len = spmBytes s off len := by
  have released : (quadRelease s gi).groups[gi]? = some g.unbound := by
    rw [quadRelease_groups]
    exact groupUpd_at here
  have held := groupUpd_at (f := Group.suspended) released
  have acts : ((groupUpd (quadRelease s gi) gi Group.suspended).groups[gi]?).any (fun x => x.state == 3) = true := by
    rw [held]
    rfl
  refine ⟨_, by rw [suspendEnd, saveEnd_answered here done, acts, if_pos rfl], held, fun off len => ?_⟩
  have kept (o : Nat) : spmByte (groupUpd (quadRelease s gi) gi Group.suspended) o = spmByte s o := by
    simp only [spmByte, groupUpd_spm, groupUpd_spmLost, quadRelease, syncOwners_spm, syncOwners_spmLost]
  simp only [spmBytes, kept]

/-- The write of a save area that takes its bytes at once (R156). -/
theorem saveGroup_stored {area : List Byte} (here : s.groups[gi]? = some g) (stops : g.state = 2)
    (canon : mapWf (spmDefault s.spmLost) s.spm = true) (calm : s.inject = none) (clear : OwnClear s (saveAddr s gi) area.length)
    (saves : saveGroup s gi g l = serveNow (groupUpd s gi fun x => x.awaiting (offsetOf (saveAddr s gi), area.length)) none
      (saveAccess s gi area)) :
    (saveGroup s gi g l).groups[gi]? = some (g.awaiting (offsetOf (saveAddr s gi), area.length)).answered ∧
      spmBytes (saveGroup s gi g l) (offsetOf (saveAddr s gi)) area.length = area := by
  have going : g.state ≠ 3 := by omega
  have open' : OwnClear (groupUpd s gi fun x => x.awaiting (offsetOf (saveAddr s gi), area.length)) (saveAddr s gi) area.length :=
    clear.groupUpd fun k at' => Option.some.inj (here.symm.trans at') ▸ going
  rw [saves, serveNow_clear (a := saveAccess s gi area) open' calm rfl rfl rfl rfl, deliver_save]
  exact ⟨groupUpd_at ((spmWrite_spares ..).get (groupUpd_at here) going), spmBytes_spmWrite (s := groupUpd s gi fun x =>
    x.awaiting (offsetOf (saveAddr s gi), area.length)) (owner := none) canon calm⟩

/-! A resumption (R155). -/

/-- No register of an ordered region is a group's command register. -/
theorem ordOver_ctlReg (low : gi < 32) (w off len : Nat) : ordOver (regPut s (ctlReg gi) w) off len = ordOver s off len := by
  have away (n k i : Nat) : ordReg n k + i ≠ ctlReg gi := by
    rw [ordReg, ctlReg]
    omega
  have kept (n k : Nat) : regGet (regPut s (ctlReg gi) w) (ordReg n k) = regGet s (ordReg n k) := regGet_ctlReg w (away n k 0)
  have kept' (n k : Nat) : regGet (regPut s (ctlReg gi) w) (ordReg n k + 4) = regGet s (ordReg n k + 4) :=
    regGet_ctlReg w (away n k 4)
  simp only [ordOver, ordArm, ordClosed, ordTarget, ordSlots, regPair, regBits, kept, kept']

/-- A range that can be read at once still can after a write of a group's command register. -/
theorem OwnGood.ctlReg {addr len : Nat} (low : gi < 32) (h : OwnGood s addr len) (w : Nat) :
    OwnGood (regPut s (ctlReg gi) w) addr len :=
  ⟨h.some, (isOwn_ctlReg w addr).trans h.own, h.fits, ⟨h.quiet.awake, h.quiet.clear, h.quiet.past⟩,
    (ordOver_ctlReg low w _ len).trans h.unordered, h.good⟩

theorem groupUpd_other {i : Nat} {f : Group → Group} (h : gi ≠ i) : (groupUpd s gi f).groups[i]? = s.groups[i]? := by
  simp only [groupUpd, setAt_get, if_neg h]

/-- The group that holds a suspended launch is suspended. -/
theorem suspendedGroup_state {d old : Nat} (h : suspendedGroup s d = some old) : ∃ k, s.groups[old]? = some k ∧ k.state = 3 := by
  obtain ⟨⟨i, k⟩, listed, found⟩ := List.exists_of_findSome?_eq_some h
  obtain ⟨n, at'⟩ := List.getElem?_of_mem listed
  rw [List.getElem?_zip_eq_some] at at'
  obtain ⟨number, group⟩ := at'
  obtain ⟨within, rfl⟩ := List.getElem?_eq_some_iff.1 number
  rw [List.getElem_range] at *
  cases launched : k.launch with
  | none => simp [launched] at found
  | some l =>
    simp only [launched, Option.ite_none_right_eq_some, Bool.and_eq_true, beq_iff_eq, Option.some.injEq] at found
    obtain ⟨⟨-, state⟩, rfl⟩ := found
    exact ⟨k, group, state⟩

theorem areaBytes_whole {off : Nat} (room : saveRoom s off = saveMax) : areaBytes s off false = (s, spmBytes s off saveMax) := by
  simp only [areaBytes, room, Bool.false_eq_true, if_false, Nat.sub_self, drawBytes, List.range_zero, List.map_nil, List.append_nil]
  rfl

/-- Whether islands are awake depends on the power state alone. -/
theorem wakeFor_awake {is' : List Nat} (same : u.power = s.power) (h : wakeFor s is' = none) : wakeFor u is' = none := by
  have awake : (is'.all fun i => !s.power.gated.contains i && !s.power.waking.contains i) = true := by
    by_contra asleep
    rw [wakeFor, if_neg asleep] at h
    split_ifs at h
  rw [wakeFor, same, if_pos awake]

/-- The launch that a resumption takes from a save area (R155). -/
def resumedLaunch (bs : List Byte) (order : Nat) : Launch :=
  { desc := fieldAt bs 0x5CC 8, ring := fieldAt bs 0x5D4 4, src := fieldAt bs 0x5D8 4, cls := fieldAt bs 0x5DC 4
    prog := fieldAt bs 0x5C0 8, progLen := fieldAt bs 0x5C8 4, started := order }

/-- A group that resumes a launch. -/
def Group.resuming (g : Group) (l : Launch) : Group :=
  { g with state := 4, refused := false, launch := some l, store := [], saveWild := false }

/-- The state in which group `gi` has taken the launch of `old`. -/
def launchMoved (s : State) (gi old : Nat) (bs : List Byte) : State :=
  groupUpd (descUpd (groupUpd { s with nextId := s.nextId + 1 } old idleGroup) (fieldAt bs 0x5CC 8) fun d => { d with engine := .launch gi })
    gi fun x => x.resuming (resumedLaunch bs s.nextId)

theorem resumeInto_moved {off old : Nat} {bs : List Byte} (held : suspendedGroup s (fieldAt bs 0x5CC 8) = some old)
    (tame : ∀ o, s.groups[old]? = some o → o.saveWild = false) :
    resumeInto s gi off bs = resumeStep (launchMoved s gi old bs) gi := by
  obtain ⟨k, at', -⟩ := suspendedGroup_state held
  simp only [resumeInto, held, Option.bind_some, at', tame k at', Bool.false_and, Option.isSome_some, if_true]
  rfl

theorem resumeStep_awake (here : s.groups[gi]? = some g) (launched : g.launch = some l) (awake : wakeFor s [68 + gi / 2] = none) :
    resumeStep s gi = resumeArea s gi l g.saveWild (areaLen s (offsetOf (saveAddr s gi))) := by
  simp only [resumeStep, here, launched, awake]

theorem resumeArea_good (tame : OwnGood s (saveAddr s gi) (areaLen s (offsetOf (saveAddr s gi))))
    (room : saveRoom s (offsetOf (saveAddr s gi)) = saveMax) :
    resumeArea s gi l false (areaLen s (offsetOf (saveAddr s gi))) =
      resumeFrom s gi l (spmBytes s (offsetOf (saveAddr s gi)) saveMax) := by
  have read : readRange s l.desc (saveAddr s gi) (areaLen s (offsetOf (saveAddr s gi))) = (s, .bytes _) := readRange_good tame
  rw [resumeArea, read]
  show resumeFrom (areaBytes s (offsetOf (saveAddr s gi)) false).1 gi l (areaBytes s (offsetOf (saveAddr s gi)) false).2 = _
  rw [areaBytes_whole room]
/-- A group that goes on from its save area with its image (R155). -/
def Group.resumed (g : Group) (bs im : List Byte) : Group := { reloadGroup bs g with store := im, state := 1 }

theorem Group.resumed_store (g : Group) (bs im : List Byte) : (g.resumed bs im).store = im := rfl

theorem Group.resumed_desc (g : Group) (bs im : List Byte) (order : Nat) :
    (((g.resuming (resumedLaunch bs order)).resumed bs im).launch.map (·.desc)) = some (fieldAt bs 0x5CC 8) := rfl

theorem resumeFrom_good {bs : List Byte} (image : OwnGood s l.prog l.progLen) (unbound : bitOf 0 (fieldAt bs 0x4A6 1) = false) :
    resumeFrom s gi l bs = groupUpd (gatherDrop s l.desc) gi fun x => x.resumed bs (spmBytes s (offsetOf l.prog) l.progLen) := by
  have image' : OwnGood (groupUpd s gi (reloadGroup bs)) l.prog l.progLen :=
    ⟨image.some, image.own, image.fits, ⟨image.quiet.awake, image.quiet.clear, image.quiet.past⟩, image.unordered, image.good⟩
  rw [resumeFrom, readRange_good image']
  simp only [resumeBind, unbound, Bool.false_eq_true, if_false, groupUpd, gatherDrop, setAt_setAt]
  rfl

theorem spmBytes_regPut (s : State) (reg v off len : Nat) : spmBytes (regPut s reg v) off len = spmBytes s off len := rfl

theorem resumeCmd_taken (here : s.groups[gi]? = some g) (idle : g.state = 0) (ok : saveOk s (saveAddr s gi) = true)
    (room : saveRoom s (offsetOf (saveAddr s gi)) = saveMax) (quiet : Quiet s (offsetOf (saveAddr s gi)) saveMax) :
    resumeCmd s gi = resumeInto s gi (offsetOf (saveAddr s gi)) (spmBytes s (offsetOf (saveAddr s gi)) saveMax) := by
  have takes : (g.state != 0 || !saveOk s (saveAddr s gi)) = false := by simp [idle, ok]
  simp only [resumeCmd, here, takes, Bool.false_eq_true, if_false]
  rw [room, settle_quiet quiet, areaBytes_whole room]

/-- RESUME from the save area of a suspended launch without a quad (R155, R156). -/
theorem resumeCmd_resumes {old : Nat} {bs : List Byte} (here : s.groups[gi]? = some g) (idle : g.state = 0)
    (ok : saveOk s (saveAddr s gi) = true) (room : saveRoom s (offsetOf (saveAddr s gi)) = saveMax)
    (quiet : Quiet s (offsetOf (saveAddr s gi)) saveMax) (saved : spmBytes s (offsetOf (saveAddr s gi)) saveMax = bs)
    (held : suspendedGroup s (fieldAt bs 0x5CC 8) = some old) (tame : ∀ o, s.groups[old]? = some o → o.saveWild = false)
    (awake : wakeFor s [68 + gi / 2] = none)
    (area : OwnGood s (saveAddr s gi) (areaLen s (offsetOf (saveAddr s gi))))
    (image : OwnGood s (fieldAt bs 0x5C0 8) (fieldAt bs 0x5C8 4)) (unbound : bitOf 0 (fieldAt bs 0x4A6 1) = false) :
    (resumeCmd s gi).groups[gi]? = some ((g.resuming (resumedLaunch bs s.nextId)).resumed bs
        (spmBytes s (offsetOf (fieldAt bs 0x5C0 8)) (fieldAt bs 0x5C8 4))) ∧
      ((resumeCmd s gi).groups[old]?).map (·.state) = some 0 := by
  obtain ⟨k, there, suspended⟩ := suspendedGroup_state held
  have apart : old ≠ gi := by
    rintro rfl
    rw [Option.some.inj (here.symm.trans there)] at idle
    omega
  have taken : (launchMoved s gi old bs).groups[gi]? = some (g.resuming (resumedLaunch bs s.nextId)) :=
    groupUpd_at (s := descUpd _ _ _) ((groupUpd_other (s := { s with nextId := s.nextId + 1 }) apart).trans here)
  have freed : (launchMoved s gi old bs).groups[old]? = some (idleGroup k) :=
    (groupUpd_other (s := descUpd _ _ _) apart.symm).trans (groupUpd_at (s := { s with nextId := s.nextId + 1 }) there)
  have moved {addr len : Nat} (h : OwnGood s addr len) : OwnGood (launchMoved s gi old bs) addr len :=
    ⟨h.some, h.own, h.fits, ⟨h.quiet.awake, h.quiet.clear, h.quiet.past⟩, h.unordered, h.good⟩
  have whole : spmBytes (launchMoved s gi old bs) (offsetOf (saveAddr (launchMoved s gi old bs) gi)) saveMax = bs := saved
  have resumes : resumeCmd s gi = groupUpd (gatherDrop (launchMoved s gi old bs) (fieldAt bs 0x5CC 8)) gi fun x =>
      x.resumed bs (spmBytes s (offsetOf (fieldAt bs 0x5C0 8)) (fieldAt bs 0x5C8 4)) := by
    rw [resumeCmd_taken here idle ok room quiet, saved, resumeInto_moved held tame,
      resumeStep_awake taken rfl (wakeFor_awake (s := s) rfl awake)]
    refine (resumeArea_good (moved area) room).trans ?_
    rw [whole]
    exact resumeFrom_good (l := resumedLaunch bs s.nextId) (moved image) unbound
  rw [resumes]
  refine ⟨groupUpd_at (s := gatherDrop _ _) taken, ?_⟩
  rw [groupUpd_other apart.symm, gatherDrop_groups, freed]
  rfl

/-- Settles O19: the save area written and read. -/
theorem suspendAndResume : Obligations.SuspendAndResume := by
  unfold Obligations.SuspendAndResume
  intro s gi g here save
  refine ⟨fun l c canon acts stops launched drained settled quiet agreed fresh calm => ?suspend,
    fun m old present low admits idle ok room quiet => ?resume⟩
  case suspend =>
    intro area fits clear
    obtain ⟨stored, bytes⟩ := saveGroup_stored here stops canon.spm calm clear (saveGroup_whole agreed fits)
    obtain ⟨u, ends, held, kept⟩ := suspendEnd_answered stored rfl
    have free : ∀ x ∈ g.threads, x.hold ≠ .fence := fun x listed => by
      rcases quiet x listed with e | e <;> simp [e]
    refine ⟨u, ?_, held.trans ?_, (kept _ _).trans bytes⟩
    · rw [suspendDone_saves acts here (suspendReady_of stops drained settled quiet) fresh stops launched free, ends]
    · rw [fresh]
      rfl
  case resume =>
    intro bs held tame awake area image unbound
    obtain ⟨w, runs⟩ := resumeGroup_runs low present admits here (by omega)
    have place : saveAddr (regPut s (ctlReg gi) w) gi = saveAddr s gi := saveAddr_ctlReg w
    have resumes := resumeCmd_resumes (s := regPut s (ctlReg gi) w) (old := old) (bs := bs) here idle
      (by rw [place, saveOk_ctlReg]; exact ok) (by rw [place]; exact room)
      (by rw [place]; exact ⟨quiet.awake, quiet.clear, quiet.past⟩) (by rw [place]; rfl) held tame
      (wakeFor_awake (s := s) rfl awake) (by rw [place]; exact area.ctlReg low w) (image.ctlReg low w) unbound
    obtain ⟨gone, freed⟩ := resumes
    rw [spmBytes_regPut] at gone
    exact ⟨_, _, runs, gone, rfl, rfl, rfl, rfl, Group.resumed_store .., rfl, Group.resumed_desc .., freed⟩

end Sys2Proof.Machine
end

section
/-! Answers, credits and headers on a chip-memory channel (R178, R361, R364, R366, R368, R369). -/
namespace Sys2Proof.Machine

/-! Headers (R366). -/

/-- The number of a message's header: its response bit, command, status, tag, address, operation and width. -/
def headerWord (response op status tag addr atop awid : Nat) : Nat :=
  1 + 2 * response + 2 ^ 2 * op + 2 ^ 5 * status + 2 ^ 8 * tag + 2 ^ 20 * addr + 2 ^ 102 * atop + 2 ^ 106 * awid

section
variable {response op status tag addr atop awid : Nat} (hr : response < 2) (ho : op < 8) (hs : status < 4)
  (ht : tag < 4096) (ha : addr < 2 ^ 63) (hp : atop < 16) (hw : awid < 4)
include hr ho hs ht ha hp hw

theorem headerWord_lt : headerWord response op status tag addr atop awid < 2 ^ 108 := by
  unfold headerWord; omega

/-- Each field of a header reads what the message says (R366). -/
theorem headerWord_fields :
    let n := headerWord response op status tag addr atop awid
    bitsOf 0 0 n = 1 ∧ bitsOf 1 1 n = response ∧ bitsOf 4 2 n = op ∧ bitsOf 6 5 n = status ∧ bitsOf 19 8 n = tag ∧
      bitsOf 59 27 n = addr % 2 ^ 40 / 128 ∧ bitsOf 101 83 n = 0 ∧ bitsOf 105 102 n = atop ∧ bitsOf 107 106 n = awid ∧
      bitOf 108 n = false ∧ bitOf 109 n = false := by
  simp only [bitsOf, bitOf, headerWord, beq_eq_false_iff_ne]
  refine ⟨?_, ?_, ?_, ?_, ?_, ?_, ?_, ?_, ?_, ?_, ?_⟩ <;> omega

end

theorem statusCode_lt (st : CmpStatus) : statusCode st < 4 := by cases st <;> decide

/-- The header of a message that returns no credit. -/
theorem chipHeader_toNat (m : CmpMsg) (ho : m.op < 3) (ht : m.tag < 4096) (hp : m.atop < 16) (hw : m.awid < 4) :
    (chipHeader (some m) false false).toNat = headerWord (boolBit m.response) m.op
      (if m.response then statusCode m.st else 0) m.tag (if m.response then 0 else m.addr % 2 ^ 63)
      (if m.response = false ∧ m.op = 2 then m.atop else 0) (if m.response = false ∧ m.op = 2 then m.awid else 0) := by
  have hs := statusCode_lt m.st
  cases hr : m.response <;> by_cases h2 : m.op = 2 <;>
    simp [chipHeader, headerWord, hr, h2, boolBit] <;> omega

/-- A header spells its message's command at the other end (R366). -/
theorem chipCommands_header (ch : Nat) (m : CmpMsg) (d : List Byte) (ho : m.op < 3) (ht : m.tag < 4096)
    (hp : m.atop < 16) (hw : m.awid < 4) :
    let q : CmpReq := { addr := m.addr % 2 ^ 40 / 128 * 128, src := 0, be := m.be, data := d
                        atop := if m.op = 2 then m.atop else 0, awid := if m.op = 2 then m.awid else 0 }
    chipCommands ch (chipHeader (some m) false false) m.be d = [match m.response, m.op with
      | false, 0 => .cmpRead ch m.tag q
      | false, 1 => .cmpWrite ch m.tag q
      | false, _ => .cmpAtomic ch m.tag q
      | true, 0 => .cmpReadData ch m.tag m.st d
      | true, 1 => .cmpAck ch m.tag m.st
      | true, _ => .cmpAtomicData ch m.tag m.st d] := by
  have hs := statusCode_lt m.st
  have e := chipHeader_toNat m ho ht hp hw
  cases hr : m.response
  · rw [hr] at e
    simp only [Bool.false_eq_true, if_false, true_and] at e
    obtain ⟨f0, f1, f2, f3, f4, f5, f6, f7, f8, f9, f10⟩ := headerWord_fields (response := boolBit false) (op := m.op) (status := 0)
      (tag := m.tag) (addr := m.addr % 2 ^ 63) (atop := if m.op = 2 then m.atop else 0) (awid := if m.op = 2 then m.awid else 0)
      (by decide) (by omega) (by decide) ht (Nat.mod_lt _ (by decide)) (by split <;> omega) (by split <;> omega)
    have line : m.addr % 2 ^ 63 % 2 ^ 40 = m.addr % 2 ^ 40 := by omega
    simp only [chipCommands, e, f0, f1, f2, f3, f4, f5, f6, f7, f8, f9, f10, line]
    have : m.op = 0 ∨ m.op = 1 ∨ m.op = 2 := by omega
    rcases this with h | h | h <;> simp [h, boolBit]
  · rw [hr] at e
    simp only [if_true, Bool.true_eq_false, false_and, if_false] at e
    obtain ⟨f0, f1, f2, f3, f4, f5, f6, f7, f8, f9, f10⟩ := headerWord_fields (response := boolBit true) (op := m.op)
      (status := statusCode m.st) (tag := m.tag) (addr := 0) (atop := 0) (awid := 0)
      (by decide) (by omega) hs ht (by decide) (by decide) (by decide)
    simp only [chipCommands, e, f0, f1, f2, f3, f4, f5, f6, f7, f8, f9, f10]
    have : m.op = 0 ∨ m.op = 1 ∨ m.op = 2 := by omega
    rcases this with h | h | h <;> cases m.st <;> simp [h, boolBit, statusCode]

/-! Answers (R178, R368). -/

/-- What a response says to whoever asked. -/
def chipAnswer (st : CmpStatus) (bs : List Byte) : Resp :=
  match st with
  | .ok => .ok bs
  | .decodeErr => .refused 1
  | .dataErr => .dataErr

/-- The state in which a response has been acknowledged, its tag is free and its credit is owed. -/
def responseTaken (s : State) (ch tag : Nat) : State :=
  { s with cmp := { s.cmp with
    out := dropFirst (fun o => o.ch == ch && o.tag == tag) s.cmp.out
    chans := setAt s.cmp.chans ch fun c => { c with giveRsp := c.giveRsp + 1, rxAck := !c.rxAck } } }

/-- The number of a kind of access among the responses. -/
def kindCode : AccKind → Nat
  | .read => 0
  | .write => 1
  | .atomic => 2

theorem padTo_whole {n : Nat} {bs : List Byte} (h : bs.length = n) : padTo n bs = bs := by
  simp [padTo, ← h]

/-- A response that answers the outstanding request of its kind. -/
theorem onChip_answers {s : State} {ch tag : Nat} {o : CmpOut} {data : List Byte} (st : CmpStatus) (acts : live s = true)
    (whole : data.length = 128) (asked : s.cmp.out.find? (fun o => o.ch == ch && o.tag == tag) = some o) :
    onChip s ch tag (kindCode o.acc.kind) st data = cmpPump (deliver (responseTaken s ch tag) o.acc
      (chipAnswer st ((data.drop (o.acc.addr % 128)).take (if o.acc.kind = .write then 0 else o.acc.len)))) ch := by
  have up : s.boot.por = false ∧ s.boot.warm = false ∧ s.boot.stopped = false := by simpa [live, and_assoc] using acts
  obtain ⟨por, warm, going⟩ := up
  have taken : takeOut (chanUpd s ch fun c => { c with giveRsp := c.giveRsp + 1, rxAck := !c.rxAck }) ch tag (kindCode o.acc.kind) =
      some (o, responseTaken s ch tag) := by
    have asked' : (chanUpd s ch fun c => { c with giveRsp := c.giveRsp + 1, rxAck := !c.rxAck }).cmp.out.find?
      (fun o => o.ch == ch && o.tag == tag) = some o := asked
    simp only [takeOut, asked']
    cases o.acc.kind <;> rfl
  have acts' : live (responseTaken s ch tag) = true := acts
  unfold onChip
  simp only [por, warm, Bool.or_self, Bool.false_eq_true, if_false, taken, whenLive, acts', if_true, padTo_whole whole]
  cases st <;> cases o.acc.kind <;> rfl

/-- Settles O34: a response by the request that it answers, and a header by its fields. -/
theorem chipChannelAnswers : Obligations.ChipChannelAnswers := by
  unfold Obligations.ChipChannelAnswers
  intro s ch c here por warm
  refine ⟨fun tag o st data acts whole asked => ?_, fun req rsp alone => ?_, fun low => ?_, fun port p at' linked acts => ?_,
    fun m d ho ht hp hw => chipCommands_header ch m d ho ht hp hw⟩
  · have answered := onChip_answers st acts whole asked
    refine ⟨fun kind => ?_, fun kind => ?_, fun kind => ?_⟩ <;> rw [kind] at answered
    · exact congrArg Host.Outcome.next answered
    · exact congrArg (fun u => Host.Outcome.next (stewardNext u)) answered
    · exact congrArg Host.Outcome.next answered
  · show execCmpCredit ⟨ch, alone⟩ req rsp s = _
    simp [execCmpCredit, por, warm, boolBit, chanUpd]
  · show execBundleAck ch s = _
    simp [execBundleAck, low, por, warm, chanUpd]
  · show execBundleAck (8 + port) s = _
    simp [execBundleAck, whenLive, acts, at', linked]

end Sys2Proof.Machine
end

section
/-! What a request to chip memory leaves of the state (R361, R366 to R368), and the home copies of a store (R183). -/
namespace Sys2Proof.Machine

/-- A state that differs in the chip-memory port alone. -/
def PortOnly (s u : State) : Prop := ∃ c, u = { s with cmp := c }

theorem PortOnly.refl (s : State) : PortOnly s s := ⟨s.cmp, rfl⟩

theorem PortOnly.trans {s t u : State} : PortOnly s t → PortOnly t u → PortOnly s u := by
  rintro ⟨_, rfl⟩ ⟨c, rfl⟩
  exact ⟨c, rfl⟩

theorem chanUpd_portOnly (s : State) (ch : Nat) (f : Chan → Chan) : PortOnly s (chanUpd s ch f) := ⟨_, rfl⟩

theorem cmpPump_portOnly (s : State) (ch : Nat) : PortOnly s (cmpPump s ch) := by
  unfold cmpPump
  dsimp only
  split
  · exact .refl s
  split
  · exact .refl s
  split
  · exact .refl s
  split
  · split
    · exact ⟨_, rfl⟩
    · exact ⟨_, rfl⟩
  · exact ⟨_, rfl⟩

theorem cmpQueue_portOnly (s : State) (ch : Nat) (m : CmpMsg) (a : Option Access) : PortOnly s (cmpQueue s ch m a) :=
  (chanUpd_portOnly ..).trans (cmpPump_portOnly ..)

theorem cmpOne_portOnly (s : State) (a : Access) : PortOnly s (cmpOne s a) := cmpQueue_portOnly ..

theorem foldl_portOnly {α : Type} {f : State → α → State} (h : ∀ s a, PortOnly s (f s a)) (l : List α) (s : State) :
    PortOnly s (l.foldl f s) := by
  induction l generalizing s with
  | nil => exact .refl s
  | cons a l ih => exact (h s a).trans (ih _)

theorem cmpSend_read_portOnly (s : State) {a : Access} (h : a.kind = .read) : PortOnly s (cmpSend s a).1 := by
  simp only [cmpSend, h, decide_true, Bool.true_or, if_true]
  exact foldl_portOnly (fun s p => cmpOne_portOnly s _) _ s

/-- A state that differs in the chip-memory port, in DRE's rings and in the number of free values drawn. -/
def Sent (s u : State) : Prop := ∃ c d n, u = { s with cmp := c, dre := d, freeCtr := n }

theorem Sent.refl (s : State) : Sent s s := ⟨s.cmp, s.dre, s.freeCtr, rfl⟩

theorem Sent.trans {s t u : State} : Sent s t → Sent t u → Sent s u := by
  rintro ⟨_, _, _, rfl⟩ ⟨c, d, n, rfl⟩
  exact ⟨c, d, n, rfl⟩

theorem PortOnly.sent {s u : State} : PortOnly s u → Sent s u := by
  rintro ⟨c, rfl⟩
  exact ⟨c, s.dre, s.freeCtr, rfl⟩

theorem entriesWritten_sent (s : State) (addr len : Nat) : Sent s (entriesWritten s addr len) := by
  unfold entriesWritten
  dsimp only
  split
  · exact .refl s
  · exact ⟨s.cmp, _, _, rfl⟩

theorem cmpSend_sent (s : State) (a : Access) : Sent s (cmpSend s a).1 := by
  refine Sent.trans ?_ (foldl_portOnly (fun s p => cmpOne_portOnly s _) _ _).sent
  split
  · exact .refl s
  · exact entriesWritten_sent ..

theorem foldl_sent {α : Type} {f : State × Nat → α → State × Nat} (h : ∀ r a, Sent r.1 (f r a).1) (l : List α)
    (r : State × Nat) : Sent r.1 (l.foldl f r).1 := by
  induction l generalizing r with
  | nil => exact .refl r.1
  | cons a l ih => exact (h r a).trans (ih _)

theorem homeWrite_sent (s : State) (off : Nat) (bs : List Byte) (who : Who) : Sent s (homeWrite s off bs who).1 := by
  unfold homeWrite
  refine foldl_sent (fun r n => ?_) _ (s, 0)
  exact cmpSend_sent ..

/-- A state that differs in what requests to chip memory change and in the write-throughs under way. -/
def Homed (s u : State) : Prop := ∃ c d n i ts, u = { s with cmp := c, dre := d, freeCtr := n, nextId := i, throughs := ts }

theorem Sent.homed {s u : State} : Sent s u → Homed s u := by
  rintro ⟨c, d, n, rfl⟩
  exact ⟨c, d, n, s.nextId, s.throughs, rfl⟩

theorem Homed.trans {s t u : State} : Homed s t → Homed t u → Homed s u := by
  rintro ⟨_, _, _, _, _, rfl⟩ ⟨c, d, n, i, ts, rfl⟩
  exact ⟨c, d, n, i, ts, rfl⟩

theorem throughs_homed (s : State) (ts : List Through) : Homed s { s with throughs := ts } :=
  ⟨s.cmp, s.dre, s.freeCtr, s.nextId, ts, rfl⟩

theorem newId_homed (s : State) : Homed s (newId s).2 := ⟨s.cmp, s.dre, s.freeCtr, s.nextId + 1, s.throughs, rfl⟩

theorem writeThrough_homed (s : State) (a : Access) (runs : List (Nat × List Byte)) (count : Option (Nat × Nat))
    (old : List Byte) : Homed s (writeThrough s a runs count old).1 := by
  unfold writeThrough
  split
  · exact (Sent.refl s).homed
  · have sent := foldl_sent (f := fun (h : State × Nat) (r : Nat × List Byte) =>
      ((homeWrite h.1 r.1 r.2 (.through (newId s).1)).1, h.2 + (homeWrite h.1 r.1 r.2 (.through (newId s).1)).2))
      (fun h r => homeWrite_sent ..) runs ((newId s).2, 0)
    dsimp only at sent ⊢
    exact ((newId_homed s).trans sent.homed).trans (throughs_homed _ _)

end Sys2Proof.Machine
end

section
/-! The fetch of a descriptor (R214, R215, R222, R223). -/
namespace Sys2Proof.Machine

variable {s : State} {r : Ring}

/-! The ring that is picked. -/

theorem nextRing_mem {rs : List Ring} {last : Nat} (h : nextRing rs last = some r) : r ∈ rs := by
  have lowest (l : List Ring) (m : Option Ring) (found : l.foldl (fun m r => match m with
      | some b => if r.ring < b.ring then some r else some b
      | none => some r) m = some r) : m = some r ∨ r ∈ l := by
    induction l generalizing m with
    | nil => exact .inl found
    | cons q l ih =>
      rcases ih _ found with e | e
      · cases m with
        | none => exact .inr (by simp_all)
        | some b =>
          dsimp only at e
          split at e
          · exact .inr (by simp_all)
          · exact .inl e
      · exact .inr (List.mem_cons_of_mem _ e)
  have picked (p : Ring → Bool) (found : (rs.filter p).foldl (fun m r => match m with
      | some b => if r.ring < b.ring then some r else some b
      | none => some r) none = some r) : r ∈ rs := by
    rcases lowest _ _ found with e | e
    · cases e
    · exact (List.mem_filter.1 e).1
  unfold nextRing at h
  dsimp only at h
  split at h
  · next e => exact picked _ (h ▸ e)
  · exact picked _ h

theorem pickRing_mem (h : pickRing s = some r) : r ∈ s.dre.rings := by
  have inside := (List.mem_filter.1 (nextRing_mem h)).1
  split at inside
  · exact (List.mem_filter.1 inside).1
  · exact (List.mem_filter.1 (List.mem_filter.1 inside).1).1

theorem ringGet_of_mem (distinct : s.dre.rings.Pairwise fun a b => a.ring ≠ b.ring) (h : r ∈ s.dre.rings) :
    ringGet s r.ring = some r := by
  unfold ringGet
  generalize s.dre.rings = l at distinct h
  induction l with
  | nil => cases h
  | cons q l ih =>
    obtain ⟨apart, rest⟩ := List.pairwise_cons.1 distinct
    rcases List.mem_cons.1 h with rfl | h
    · simp
    · simpa [apart r h] using ih rest h

theorem ringGet_ringUpd {n : Nat} {f : Ring → Ring} (here : ringGet s n = some r) (same : (f r).ring = n) :
    ringGet (ringUpd s n f) n = some (f r) := by
  unfold ringGet ringUpd at *
  dsimp only
  generalize s.dre.rings = l at here
  induction l with
  | nil => cases here
  | cons q l ih =>
    rw [replaceFirst]
    by_cases h : (q.ring == n) = true
    · obtain rfl : q = r := by simpa [List.find?_cons, h] using here
      simp [h, same]
    · have later : l.find? (fun x => x.ring == n) = some r := by simpa [List.find?_cons, h] using here
      simpa [List.find?_cons, h] using ih later

/-- The ready times are all that a synchronisation of the rings changes (R223). -/
theorem ringGet_ringSync {n : Nat} (here : ringGet s n = some r) :
    ∃ t, ringGet (ringSync s) n = some { r with readySince := t } := by
  have ids (x : Ring) : (if ringReady s x then { x with readySince := some (x.readySince.getD s.osc) }
      else { x with readySince := none }).ring = x.ring := by split <;> rfl
  have found : ringGet (ringSync s) n = (ringGet s n).map fun x =>
      if ringReady s x then { x with readySince := some (x.readySince.getD s.osc) } else { x with readySince := none } := by
    simp only [ringGet, ringSync, List.find?_map]
    congr 2
    funext x
    simp only [Function.comp_apply, ids]
  rw [found, here, Option.map_some]
  split <;> exact ⟨_, rfl⟩

/-- With its context cached or room for it, a ring is served without a write-back (R218). -/
theorem cacheRing_room (here : ringGet s r.ring = some r) (room : r.cached = true ∨ cacheUsed s < 4096) :
    cacheRing s r.ring = (if r.cached then s else ringUpd s r.ring fun x => { x with cached := true }) := by
  cases cached : r.cached
  · have roomy : cacheUsed s < 4096 := by simpa [cached] using room
    simp [cacheRing, here, cached, cacheRoom, roomy]
  · simp [cacheRing, here, cached]

/-! The fetch. -/

/-- The descriptor that DRE begins to fetch from a ring (R214). -/
def fetchedDesc (s : State) (r : Ring) : Desc :=
  { id := s.nextId, ring := r.ring, index := r.fetch, seq := r.seq, cls := r.cls, src := r.acting }

/-- The state in which its 128 bytes are read, the ring's indices having gone on. -/
def fetchBegun (s : State) (r : Ring) : State :=
  let t := cacheRing s r.ring
  let t := ringUpd { t with nextId := t.nextId + 1, descs := t.descs ++ [fetchedDesc t r] } r.ring fun r => { r with
    fetch := (r.fetch + 1) % 65536, seq := (r.seq + 1) % 2 ^ 32, readySince := none }
  { t with dre := { t.dre with last := t.dre.last.set r.cls r.ring } }

/-- The slot of the ring's next descriptor. -/
def fetchSlot (r : Ring) : Nat := r.base + 128 * (r.fetch % 2 ^ r.log2)

theorem exec_descriptorFetch (acts : live s = true) (picked : pickRing s = some r) (good : s.dre.bad.contains r.ring = false) :
    exec .descriptorFetch s = .next (
      let t := readRange (fetchBegun s r) (cacheRing s r.ring).nextId (fetchSlot r) 128
      ringSync (match t.2 with
        | .bytes bs => descUpd t.1 (cacheRing s r.ring).nextId fun d => { d with bytes := bs, phase := .fetched }
        | _ => t.1)) := by
  have fine : contextParity s r.ring = s := by simp only [contextParity, good, Bool.false_and, Bool.false_eq_true, if_false]
  show execDescriptorFetch s = _
  simp only [execDescriptorFetch, whenLive, acts, picked, fine, if_true]
  rfl

section
variable (here : ringGet s r.ring = some r) (room : r.cached = true ∨ cacheUsed s < 4096)
include here room

/-- The ring's indices go on (R214). -/
theorem ringGet_fetchBegun : ∃ q : Ring, ringGet (fetchBegun s r) r.ring = some { q with
    fetch := (r.fetch + 1) % 65536, seq := (r.seq + 1) % 2 ^ 32, readySince := none } ∧ q.head = r.head ∧ q.tail = r.tail := by
  have cached := cacheRing_room here room
  have begun (q : Ring) (found : ringGet (cacheRing s r.ring) r.ring = some q) (fetch : q.fetch = r.fetch) (seq : q.seq = r.seq) :
      ringGet (fetchBegun s r) r.ring = some { q with
        fetch := (r.fetch + 1) % 65536, seq := (r.seq + 1) % 2 ^ 32, readySince := none } := by
    rw [← fetch, ← seq]
    exact ringGet_ringUpd (f := fun r => { r with
      fetch := (r.fetch + 1) % 65536, seq := (r.seq + 1) % 2 ^ 32, readySince := none }) (r := q) found (by
        simpa using List.find?_some found)
  cases c : r.cached
  · simp only [c, Bool.false_eq_true, if_false] at cached
    have found := ringGet_ringUpd (f := fun x => { x with cached := true }) here rfl
    exact ⟨{ r with cached := true }, begun _ (by rw [cached]; exact found) rfl rfl, rfl, rfl⟩
  · simp only [c, if_true] at cached
    exact ⟨r, begun r (by rw [cached]; exact here) rfl rfl, rfl, rfl⟩

/-- What the start of a fetch changes: the rings, the descriptors and the handles alone. -/
theorem fetchBegun_eq : fetchBegun s r = { s with
    nextId := s.nextId + 1, descs := s.descs ++ [fetchedDesc s r], dre := (fetchBegun s r).dre } := by
  have cached := cacheRing_room here room
  unfold fetchBegun
  rw [cached]
  split <;> rfl

theorem cacheRing_nextId : (cacheRing s r.ring).nextId = s.nextId := by
  rw [cacheRing_room here room]
  split <;> rfl

end

theorem OwnGood.other_dre {addr len : Nat} (h : OwnGood s addr len) {dre : Dre} {ds : List Desc} {n : Nat} :
    OwnGood { s with nextId := n, descs := ds, dre := dre } addr len :=
  ⟨h.some, h.own, h.fits, ⟨h.quiet.awake, h.quiet.clear, h.quiet.past⟩, h.unordered, h.good⟩

theorem replaceFirst_last {α : Type} {p : α → Bool} {f : α → α} {l : List α} {x : α} (before : ∀ y ∈ l, p y = false)
    (here : p x = true) : replaceFirst p f (l ++ [x]) = l ++ [f x] := by
  induction l with
  | nil => simp [replaceFirst, here]
  | cons y l ih =>
    obtain ⟨no, rest⟩ := List.forall_mem_cons.1 before
    simp [replaceFirst, no, ih rest]

/-- A read of chip memory that begins brings nothing yet, and touches neither the rings nor the descriptors (R171). -/
theorem readRange_chip_begins {owner addr len : Nat} (chip : isChip addr = true) (some' : 0 < len)
    (fresh : ∀ g ∈ s.gathers, g.owner ≠ owner) :
    (readRange s owner addr len).2 = .waiting ∧ (readRange s owner addr len).1.descs = s.descs ∧
      (readRange s owner addr len).1.dre = s.dre := by
  have outside : isOwn s addr = false := by simp [isOwn, chip]
  have unasked : (s.gathers.any fun g => g.owner == owner && g.addr == addr && g.len == len) = false :=
    List.any_eq_false.2 fun g hg => by simp [fresh g hg]
  have pieces : (piecesOf 128 (len / 128 + 2) addr len).length ≠ 0 := by simp [piecesOf, some'.ne']
  let gather : Gather :=
    { key := s.nextId, owner, addr, len, left := (piecesOf 128 (len / 128 + 2) addr len).length }
  have begun : PortOnly { s with nextId := s.nextId + 1, gathers := s.gathers ++ [gather] } (gatherStart s owner addr len) := by
    simp only [gatherStart, unasked, Bool.false_eq_true, if_false, chip, if_true, sendOutside]
    exact cmpSend_read_portOnly _ rfl
  obtain ⟨c, e⟩ := begun
  have found : (s.gathers ++ [gather]).find? (fun g => g.owner == owner && g.addr == addr && g.len == len) = some gather := by
    rw [List.find?_append, List.find?_eq_none.2 fun g hg => by simp [fresh g hg]]
    simp [gather]
  have waiting : gatherGet (gatherStart s owner addr len) owner addr len = .waiting := by
    rw [e, gatherGet]
    dsimp only
    rw [found]
    simp [gather, pieces]
  rw [readRange_outside outside some', waiting, e]
  exact ⟨rfl, rfl, rfl⟩

/-- Settles O26: by where the slot lies. -/
theorem descriptorsAreFetched : Obligations.DescriptorsAreFetched := by
  unfold Obligations.DescriptorsAreFetched
  intro s acts
  refine ⟨fun r picked distinct older unread good room => ?_, fun none' => ?_, fun ring r t here since limit => ?_⟩
  · intro slot place
    have here := ringGet_of_mem distinct (pickRing_mem picked)
    have run := exec_descriptorFetch acts picked good
    rw [cacheRing_nextId here room] at run
    obtain ⟨q, begun, head, tail⟩ := ringGet_fetchBegun here room
    have same := fetchBegun_eq here room
    have descs : (fetchBegun s r).descs = s.descs ++ [fetchedDesc s r] := by rw [same]
    rcases place with whole | chip
    · have whole' : OwnGood (fetchBegun s r) slot 128 := by rw [same]; exact whole.other_dre
      have bytes : spmBytes (fetchBegun s r) (offsetOf slot) 128 = spmBytes s (offsetOf slot) 128 := by rw [same]; rfl
      rw [show fetchSlot r = slot from rfl, readRange_good whole'] at run
      obtain ⟨w, there⟩ := ringGet_ringSync (s := descUpd (fetchBegun s r) s.nextId fun d => { d with
        bytes := spmBytes (fetchBegun s r) (offsetOf slot) 128, phase := .fetched }) begun
      refine ⟨_, _, { fetchedDesc s r with bytes := spmBytes s (offsetOf slot) 128, phase := .fetched }, run, there, rfl, rfl,
        head, tail, ?_, rfl, rfl, rfl, rfl, rfl, rfl, fun _ => ⟨rfl, rfl⟩, fun chip => ?_⟩
      · show replaceFirst _ _ (fetchBegun s r).descs = _
        rw [descs, bytes]
        exact replaceFirst_last (fun y hy => by have := older y hy; simp; omega) (by simp [fetchedDesc])
      · have own := whole.own
        simp [isOwn, chip] at own
    · have unread' : ∀ g ∈ (fetchBegun s r).gathers, g.owner ≠ s.nextId := by rw [same]; exact unread
      obtain ⟨waiting, descs', dre⟩ := readRange_chip_begins chip (by decide : 0 < 128) unread'
      dsimp only at run
      rw [show fetchSlot r = slot from rfl, waiting] at run
      rw [ringGet, ← dre] at begun
      obtain ⟨w, there⟩ := ringGet_ringSync (s := (readRange (fetchBegun s r) s.nextId slot 128).1) begun
      exact ⟨_, _, fetchedDesc s r, run, there, rfl, rfl, head, tail, descs'.trans descs, rfl, rfl, rfl, rfl, rfl, rfl,
        fun whole => by simpa [isOwn, chip] using whole.own, fun _ => rfl⟩
  · show execDescriptorFetch s = _
    simp only [execDescriptorFetch, whenLive, acts, none', if_true]
  · show execAgeLimit ring s = _
    simp only [execAgeLimit, whenLive, acts, here, since, limit, if_true, if_false]

end Sys2Proof.Machine
end

section
/-! Bit fields of a word and of a register after a field of it has been replaced (R6), and members of a sorted set. -/
namespace Sys2Proof.Machine

section
variable {hi lo n v : Nat} (order : lo ≤ hi)
include order

theorem setBits_low : setBits hi lo n v % 2 ^ lo = n % 2 ^ lo := by
  have split : (2 : Nat) ^ (hi + 1) = 2 ^ (hi + 1 - lo) * 2 ^ lo := by rw [← pow_add]; congr 1; omega
  rw [setBits, split, ← Nat.mul_assoc, ← Nat.add_mul, Nat.mul_add_mod', Nat.mod_mod]

theorem setBits_div_low : setBits hi lo n v / 2 ^ lo = n / 2 ^ (hi + 1) * 2 ^ (hi + 1 - lo) + v % 2 ^ (hi + 1 - lo) := by
  have split : (2 : Nat) ^ (hi + 1) = 2 ^ (hi + 1 - lo) * 2 ^ lo := by rw [← pow_add]; congr 1; omega
  have low := Nat.mod_lt n (Nat.two_pow_pos lo)
  rw [setBits, split, ← Nat.mul_assoc, ← Nat.add_mul, Nat.mul_comm _ (2 ^ lo), Nat.mul_add_div (Nat.two_pow_pos lo),
    Nat.div_eq_of_lt low, Nat.add_zero]

theorem setBits_high : setBits hi lo n v / 2 ^ (hi + 1) = n / 2 ^ (hi + 1) := by
  have split : (2 : Nat) ^ (hi + 1) = 2 ^ lo * 2 ^ (hi + 1 - lo) := by rw [← pow_add]; congr 1; omega
  have width := Nat.mod_lt v (Nat.two_pow_pos (hi + 1 - lo))
  rw [split, ← Nat.div_div_eq_div_mul, setBits_div_low order, ← split, Nat.mul_comm, Nat.mul_add_div (Nat.two_pow_pos _),
    Nat.div_eq_of_lt width, Nat.add_zero]

/-- The field itself reads what was put there. -/
theorem bitsOf_setBits_same : bitsOf hi lo (setBits hi lo n v) = v % 2 ^ (hi + 1 - lo) := by
  rw [bitsOf, setBits_div_low order, Nat.mul_add_mod', Nat.mod_mod]

/-- A field above reads as before. -/
theorem bitsOf_setBits_above {h l : Nat} (above : hi < l) : bitsOf h l (setBits hi lo n v) = bitsOf h l n := by
  have split : (2 : Nat) ^ l = 2 ^ (hi + 1) * 2 ^ (l - (hi + 1)) := by rw [← pow_add]; congr 1; omega
  rw [bitsOf, bitsOf, split, ← Nat.div_div_eq_div_mul, setBits_high order, Nat.div_div_eq_div_mul]

/-- A field below reads as before. -/
theorem bitsOf_setBits_below {h l : Nat} (below : h < lo) (inner : l ≤ h) : bitsOf h l (setBits hi lo n v) = bitsOf h l n := by
  have field (m : Nat) : bitsOf h l m = m % 2 ^ lo % 2 ^ (h + 1) / 2 ^ l := by
    have split : (2 : Nat) ^ (h + 1) = 2 ^ l * 2 ^ (h + 1 - l) := by rw [← pow_add]; congr 1; omega
    rw [Nat.mod_mod_of_dvd _ (Nat.pow_dvd_pow 2 (by omega)), split, Nat.mod_mul_right_div_self]
    rfl
  rw [field, field, setBits_low order]

theorem setBits_lt {w : Nat} (inside : hi < w) (h : n < 2 ^ w) : setBits hi lo n v < 2 ^ w := by
  have split : (2 : Nat) ^ w = 2 ^ (hi + 1) * 2 ^ (w - (hi + 1)) := by rw [← pow_add]; congr 1; omega
  rw [split, Nat.mul_comm, ← Nat.div_lt_iff_lt_mul (Nat.two_pow_pos _)] at h ⊢
  rwa [setBits_high order]

end

/-- Bit `i` set or cleared. -/
theorem bitOf_setBits_same (i n v : Nat) : bitOf i (setBits i i n v) = (v % 2 == 1) := by
  rw [bitOf_eq, bitsOf_setBits_same (Nat.le_refl i)]
  simp

theorem bitOf_setBits_other {i hi lo : Nat} (n v : Nat) (order : lo ≤ hi) (apart : i < lo ∨ hi < i) :
    bitOf i (setBits hi lo n v) = bitOf i n := by
  rw [bitOf_eq, bitOf_eq]
  rcases apart with below | above
  · rw [bitsOf_setBits_below order below (Nat.le_refl i)]
  · rw [bitsOf_setBits_above order above]

/-! The same of a register. -/

theorem regGet_regPutBits_other (s : State) {off o : Nat} (hi lo v : Nat) (h : o ≠ off) :
    regGet (regPutBits s off hi lo v) o = regGet s o := regGet_regPut_other s _ h

section
variable {s : State} {off hi lo : Nat} (canon : Canon s) (v : Nat) (order : lo ≤ hi) (inside : hi < 32)
include canon order inside

theorem regGet_regPutBits_same : regGet (regPutBits s off hi lo v) off = setBits hi lo (regGet s off) v := by
  rw [regPutBits, regGet_regPut_same canon, Nat.mod_eq_of_lt (setBits_lt order inside (regGet_lt s off))]

theorem regBits_regPutBits_same : regBits (regPutBits s off hi lo v) off hi lo = v % 2 ^ (hi + 1 - lo) := by
  rw [regBits, regGet_regPutBits_same canon v order inside, bitsOf_setBits_same order]

end

theorem mem_setInsert {l : List Nat} {w x : Nat} : x ∈ setInsert l w ↔ x = w ∨ x ∈ l := by
  induction l with
  | nil => simp [setInsert]
  | cons y l ih =>
    rw [setInsert]
    split
    · simp
    · split
      next same => simp [same]
      next => simp [ih, or_left_comm]

theorem mem_foldl_setInsert {l ws : List Nat} {x : Nat} (h : x ∈ l ∨ x ∈ ws) : x ∈ ws.foldl setInsert l := by
  induction ws generalizing l with
  | nil => simpa using h
  | cons w ws ih =>
    refine ih ?_
    rw [mem_setInsert]
    rcases h with old | new
    · exact .inl (.inr old)
    · exact (List.mem_cons.1 new).imp .inl id

end Sys2Proof.Machine
end

section
/-! Set-up of the scratchpad: parity injection, backed regions and ordered rounds (R180 to R184, R210, R213). -/
namespace Sys2Proof.Machine

variable {s : State} {m : Master} {k : Nat}

/-! Parity injection (R180). -/

theorem exec_parityArm (admits : Admits s m .write 0x700200) (priv : masterPriv s m = true) (v : Word) :
    exec (.parityArm m v) s = .next (injectWrite s v.toNat) := by
  obtain ⟨decoded, notInd, notSpecial, notAddr⟩ := lkCommandRegs_direct 0x700200 (by decide)
  have accepted : lkAccepted s true 0x700200 = true := rfl
  show execParityArm m v s = _
  rw [execParityArm, masterWrite_admits admits, priv]
  simp only [regWrite, decoded, notInd, if_neg notAddr, directWrite, notSpecial, openWrite_lkCommand s _ 0x700200 (by decide),
    accepted, if_true]
  rfl

/-- The next store that touches the armed word leaves its parity bad and the injection disarmed. -/
theorem spmStore_injects {w off : Nat} {bs : List Byte} (armed : s.inject = some w)
    (hit : overlap w 4 off bs.length = true) : spmStore s off bs =
      regPutBits { spmPut s off bs with spmBad := setInsert (spmPut s off bs).spmBad w, inject := none } 0x700200 0 0 0 := by
  have armed' : (spmPut s off bs).inject = some w := armed
  simp only [spmStore, armed', hit, if_true]

theorem canon_spmPut (canon : Canon s) (off : Nat) (bs : List Byte) : Canon (spmPut s off bs) :=
  ⟨mapSetAll_wf canon.spm, canon.nor, canon.regs, canon.counters, canon.cntShadow, canon.voc, canon.corr, canon.trim,
    canon.ftab⟩

theorem injectWrite_inject (s : State) (n : Nat) : (injectWrite s n).inject =
    if bitOf 0 n && inSpm s (n / 4 * 4 + 2 ^ 32 * regBits s 0x700204 7 0) 4 then
      some (n / 4 * 4 + 2 ^ 32 * regBits s 0x700204 7 0) else none := rfl

theorem bit0_cleared (canon : Canon s) (off : Nat) : bitOf 0 (regGet (regPutBits s off 0 0 0) off) = false := by
  rw [regGet_regPutBits_same canon _ (by decide) (by decide), bitOf_setBits_same]
  rfl

theorem bitOf_armed (n : Nat) (b : Bool) : bitOf 0 ((n / 2 * 2 + boolBit b) % 2 ^ 32) = b := by
  cases b <;> simp [bitOf, boolBit]

/-! Backed regions (R181, R182, R184). -/

theorem backReg_direct : ∀ k < 64, regDecode (backReg k 5) = backReg k 5 ∧ indData? (backReg k 5) = none ∧
    specialOf (backReg k 5) = .back k 5 ∧ (decide (0xD00000 ≤ backReg k 5) && decide (backReg k 5 < 0xD00040) && backReg k 5 % 16 == 0) = false := by
  decide +kernel

theorem exec_backValid (low : k < 64) (admits : Admits s m .write (backReg k 5)) (v : Word) :
    exec (.backValid m k v) s = .next (backCtl s k v.toNat) := by
  obtain ⟨decoded, notInd, special, notAddr⟩ := backReg_direct k low
  show execBackValid m k v s = _
  rw [execBackValid, if_pos low, masterWrite_admits admits]
  simp only [regWrite, decoded, notInd, notAddr, Bool.false_eq_true, if_false, directWrite, special]

/-- The set-up of region `k` that R182 takes. -/
def BackLegal (s : State) (k : Nat) : Prop :=
  backSize s k ≠ 0 ∧ inSpm s (backBase s k) (backSize s k) = true ∧ isChip (backHome s k) = true ∧
    ∀ j < 64, j ≠ k → backValid s j = true → overlap (backBase s j) (backSize s j) (backBase s k) (backSize s k) = false

/-- A refused VALID sets SETUP_ERR alone. -/
theorem backCtl_sets {n : Nat} (valid : bitOf 0 n = true) (idle : backValid s k = false) :
    (BackLegal s k → backCtl s k n = regPut s (backReg k 5) (n % 256 / 4 * 4 + 1)) ∧
    (¬BackLegal s k → backCtl s k n = regPutBits s (backReg k 5) 1 1 1) := by
  have others : ((List.range 64).any fun j =>
      j != k && backValid s j && overlap (backBase s j) (backSize s j) (backBase s k) (backSize s k)) = false ↔
      ∀ j < 64, j ≠ k → backValid s j = true → overlap (backBase s j) (backSize s j) (backBase s k) (backSize s k) = false := by
    simp [List.any_eq_false]
  have bad : (backSize s k == 0 || !inSpm s (backBase s k) (backSize s k) || ((List.range 64).any fun j =>
      j != k && backValid s j && overlap (backBase s j) (backSize s j) (backBase s k) (backSize s k)) ||
      !isChip (backHome s k)) = false ↔ BackLegal s k := by
    rw [BackLegal, ← others]
    simp only [Bool.or_eq_false_iff, beq_eq_false_iff_ne, Bool.not_eq_false', ne_eq]
    tauto
  refine ⟨fun legal => ?_, fun illegal => ?_⟩
  · simp only [backCtl, valid, idle, bad.2 legal, Bool.false_eq_true, if_false, if_true]
  · simp only [backCtl, valid, idle, Bool.eq_true_of_not_eq_false (mt bad.1 illegal), Bool.false_eq_true, if_false, if_true]

/-- A region that is made not valid. -/
theorem backCtl_clears {n : Nat} (canon : Canon s) (off : bitOf 0 n = false) :
    backValid (backCtl s k n) k = false ∧ bitOf 1 (regGet (backCtl s k n) (backReg k 5)) = false ∧
      (∀ o, o ≠ backReg k 5 → regGet (backCtl s k n) o = regGet s o) ∧ (backCtl s k n).spm = s.spm ∧
      ∀ d ∈ (backCtl s k n).descs, k ∉ d.holds := by
  let t := if backValid s k then regPutBits s (backReg k 5) 0 0 0 else regPutBits s (backReg k 5) 7 2 (bitsOf 7 2 n)
  have canon' : Canon t := by
    unfold t
    split <;> exact (regPutBits_keeps (Keeps.refl s)).canon canon
  have idle : bitOf 0 (regGet t (backReg k 5)) = false := by
    unfold t
    split
    · rw [regGet_regPutBits_same canon _ (by decide) (by decide), bitOf_setBits_same]
      rfl
    · next h =>
      rw [regGet_regPutBits_same canon _ (by decide) (by decide), bitOf_setBits_other _ _ (by decide) (by decide)]
      simpa [backValid] using h
  have other (o : Nat) (h : o ≠ backReg k 5) : regGet t o = regGet s o := by
    unfold t
    split <;> exact regGet_regPutBits_other s _ _ _ h
  have spm : t.spm = s.spm := by
    unfold t
    split <;> rfl
  have done : backCtl s k n = { regPutBits t (backReg k 5) 1 1 0 with
      descs := t.descs.map fun d => { d with holds := d.holds.filter fun j => j != k } } := by
    simp only [backCtl, off, Bool.false_eq_true, if_false]
    rfl
  have word : regGet (backCtl s k n) (backReg k 5) = setBits 1 1 (regGet t (backReg k 5)) 0 := by
    rw [done]
    exact regGet_regPutBits_same canon' 0 (by decide) (by decide)
  refine ⟨?_, ?_, fun o h => ?_, ?_, ?_⟩
  · rw [backValid, word, bitOf_setBits_other _ _ (by decide) (by decide), idle]
  · rw [word, bitOf_setBits_same]
    rfl
  · rw [done]
    exact (regGet_regPutBits_other t 1 1 0 h).trans (other o h)
  · rw [done]
    exact spm
  · rw [done]
    intro d hd
    obtain ⟨x, -, rfl⟩ := List.mem_map.1 hd
    simp

/-! Ordered rounds (R209, R210, R213). -/

theorem ordReg_direct : ∀ k < 16, regDecode (ordReg k 4) = ordReg k 4 ∧ indData? (ordReg k 4) = none ∧
    specialOf (ordReg k 4) = .ord k 4 ∧ (decide (0xD00000 ≤ ordReg k 4) && decide (ordReg k 4 < 0xD00040) && ordReg k 4 % 16 == 0) = false := by
  decide +kernel

theorem masterWrite_ordCtl (low : k < 16) (admits : Admits s m .write (ordReg k 4)) (n : Nat) :
    masterWrite s m (ordReg k 4) n = ordCtl s k n := by
  obtain ⟨decoded, notInd, special, notAddr⟩ := ordReg_direct k low
  rw [masterWrite_admits admits]
  simp only [regWrite, decoded, notInd, notAddr, Bool.false_eq_true, if_false, directWrite, special]

theorem getLsbD_zero (v : Word) : v.getLsbD 0 = bitOf 0 v.toNat := by
  rw [BitVec.getLsbD, Nat.testBit_zero, bitOf, pow_zero, Nat.div_one]
  rfl

/-- The control word of a round: the fields that are written, ARM, SETUP_ERR and CLOSED clear. -/
def ordFields (n : Nat) : Nat := setBits 3 2 n 0 / 2 * 2

theorem ordFields_bits {n : Nat} (h : n < 2 ^ 32) : ordFields n < 2 ^ 32 - 1 ∧ bitOf 1 (ordFields n) = bitOf 1 n ∧
    bitsOf 10 4 (ordFields n) = bitsOf 10 4 n ∧ bitOf 0 (ordFields n + 1) = true ∧ bitOf 2 (ordFields n + 1) = false ∧
    bitOf 3 (ordFields n + 1) = false := by
  have e : ordFields n = n / 16 * 16 + n % 4 / 2 * 2 := by simp [ordFields, setBits]; omega
  rw [e]
  simp only [bitOf, bitsOf, beq_iff_eq, beq_eq_false_iff_ne]
  refine ⟨?_, ?_, ?_, ?_, ?_, ?_⟩
  · omega
  · congr 1; omega
  all_goals omega

/-- The set-up of region `k`, with its control word, that R210 takes. -/
def OrdLegal (s : State) (k n : Nat) : Prop :=
  let width := if bitOf 1 n then 2 else 4
  let slots := bitsOf 10 4 n
  let elems := regBits s (ordReg k 2) 20 0
  let base := (ordTarget s k).1
  let area := regBits s (ordReg k 3) 26 7 * 128
  let count := regBits s (ordReg k 5) 11 0
  let mine : List (Nat × Nat) := [(base, elems * width), (area, slots * elems * 4)]
  1 ≤ elems ∧ elems ≤ 1048576 ∧ 1 ≤ slots ∧ slots ≤ 64 ∧ regGet s (ordReg k 6) ≠ 0 ∧
    inSpm s base (elems * width) = true ∧ base % width = 0 ∧ inNear s area (slots * elems * 4) = true ∧
    overlap base (elems * width) area (slots * elems * 4) = false ∧ count ≠ regBits s (ordReg k 5) 27 16 ∧
    ∀ j < 16, j ≠ k → (ordArm s j || ordClosed s j) = true →
      ∀ p ∈ mine, ∀ q ∈ [ordTarget s j, ordSlots s j], overlap p.1 p.2 q.1 q.2 = false

theorem ordSetupOk_iff (canon : Canon s) {n : Nat} (h : n < 2 ^ 32) : ordSetupOk s k (ordFields n) = true ↔ OrdLegal s k n := by
  obtain ⟨small, bit1, bits10, -⟩ := ordFields_bits h
  have ctl : regGet (regPut s (ordReg k 4) (ordFields n)) (ordReg k 4) = ordFields n := by
    rw [regGet_regPut_same canon, Nat.mod_eq_of_lt (by omega)]
  have own (i : Nat) (hi : i ≠ 4) : regGet (regPut s (ordReg k 4) (ordFields n)) (ordReg k i) = regGet s (ordReg k i) :=
    regGet_regPut_other s _ (by simp only [ordReg]; omega)
  have other (j i : Nat) (hj : j ≠ k) (hi : i < 8) :
      regGet (regPut s (ordReg k 4) (ordFields n)) (ordReg j i) = regGet s (ordReg j i) :=
    regGet_regPut_other s _ (by simp only [ordReg]; omega)
  have target : ordTarget (regPut s (ordReg k 4) (ordFields n)) k =
      ((ordTarget s k).1, regBits s (ordReg k 2) 20 0 * if bitOf 1 n then 2 else 4) := by
    have hi : ordReg k 0 + 4 = ordReg k 1 := rfl
    simp only [ordTarget, regPair, hi, regBits, ctl, own 0 (by decide), own 1 (by decide), own 2 (by decide), bit1]
  have slots : ordSlots (regPut s (ordReg k 4) (ordFields n)) k =
      (regBits s (ordReg k 3) 26 7 * 128, bitsOf 10 4 n * regBits s (ordReg k 2) 20 0 * 4) := by
    simp only [ordSlots, regBits, ctl, own 2 (by decide), own 3 (by decide), bits10]
  have away (j : Nat) (hj : j ≠ k) : ordTarget (regPut s (ordReg k 4) (ordFields n)) j = ordTarget s j ∧
      ordSlots (regPut s (ordReg k 4) (ordFields n)) j = ordSlots s j ∧
      ordArm (regPut s (ordReg k 4) (ordFields n)) j = ordArm s j ∧
      ordClosed (regPut s (ordReg k 4) (ordFields n)) j = ordClosed s j := by
    have hi : ordReg j 0 + 4 = ordReg j 1 := rfl
    simp only [ordTarget, ordSlots, ordArm, ordClosed, regPair, hi, regBits, other j _ hj (by decide : 0 < 8),
      other j _ hj (by decide : 1 < 8), other j _ hj (by decide : 2 < 8), other j _ hj (by decide : 3 < 8),
      other j _ hj (by decide : 4 < 8), and_self]
  have clash : ((List.range 16).any fun j => j != k &&
        (ordArm (regPut s (ordReg k 4) (ordFields n)) j || ordClosed (regPut s (ordReg k 4) (ordFields n)) j) &&
        ([((ordTarget s k).1, regBits s (ordReg k 2) 20 0 * if bitOf 1 n then 2 else 4),
          (regBits s (ordReg k 3) 26 7 * 128, bitsOf 10 4 n * regBits s (ordReg k 2) 20 0 * 4)].any fun p =>
          [ordTarget (regPut s (ordReg k 4) (ordFields n)) j, ordSlots (regPut s (ordReg k 4) (ordFields n)) j].any fun q =>
            overlap p.1 p.2 q.1 q.2)) = false ↔
      ∀ j < 16, j ≠ k → (ordArm s j || ordClosed s j) = true →
        ∀ p ∈ [((ordTarget s k).1, regBits s (ordReg k 2) 20 0 * if bitOf 1 n then 2 else 4),
          (regBits s (ordReg k 3) 26 7 * 128, bitsOf 10 4 n * regBits s (ordReg k 2) 20 0 * 4)],
        ∀ q ∈ [ordTarget s j, ordSlots s j], overlap p.1 p.2 q.1 q.2 = false := by
    rw [List.any_eq_false]
    simp only [List.mem_range]
    refine forall₂_congr fun j _ => ?_
    by_cases hj : j = k
    · simp [hj]
    · obtain ⟨t, a, arm, closed⟩ := away j hj
      simp [hj, t, a, arm, closed]
  have low : regBits (regPut s (ordReg k 4) (ordFields n)) (ordReg k 2) 20 0 = regBits s (ordReg k 2) 20 0 := by
    rw [regBits, regBits, own 2 (by decide)]
  simp only [ordSetupOk, target, slots, bit1, bits10, low, own 5 (by decide), own 6 (by decide), Bool.and_eq_true,
    Bool.not_eq_true', clash, decide_eq_true_eq, bne_iff_ne, beq_iff_eq, inSpm, inNear, inDeep, nearSize, deepSize, regPut_par]
  simp only [OrdLegal, regBits, inSpm, inNear, inDeep, nearSize, deepSize, and_assoc, ne_eq]
  exact ⟨fun ⟨a, b, c, d, e, f, g, h, i, apart, count⟩ => ⟨a, b, c, d, e, f, g, decide_eq_true h, i, count, apart⟩,
    fun ⟨a, b, c, d, e, f, g, h, i, count, apart⟩ => ⟨a, b, c, d, e, f, g, of_decide_eq_true h, i, apart, count⟩⟩

/-- A round opens with its slots empty, counting from COUNTER (R210). -/
def roundOpened (s : State) (k n : Nat) : State :=
  let t := regPut (regPut s (ordReg k 4) (ordFields n + 1)) (ordReg k 7) 0
  { t with ord := s.ord.filter (fun r => r.region != k) ++
    [{ region := k, base := counterGet s (regBits s (ordReg k 5) 11 0), tags := [] }] }

section
variable {n : Nat} (canon : Canon s) (h : n < 2 ^ 32)
include canon h

theorem ordCtl_arms (idle : ordArm s k = false) (open' : ordClosed s k = false) (arm : bitOf 0 n = true) :
    (OrdLegal s k n → ordCtl s k n = roundOpened s k n) ∧ (¬OrdLegal s k n → ordCtl s k n = regPutBits s (ordReg k 4) 2 2 1) := by
  have ok := ordSetupOk_iff (k := k) canon h
  rw [ordFields] at ok
  refine ⟨fun legal => ?_, fun illegal => ?_⟩
  · simp only [ordCtl, open', idle, arm, ok.2 legal, Bool.false_eq_true, if_false, if_true]
    rfl
  · simp only [ordCtl, open', idle, arm, Bool.eq_false_of_not_eq_true (mt ok.1 illegal), Bool.false_eq_true, if_false, if_true]

theorem roundOpened_opens : ordArm (roundOpened s k n) k = true ∧ ordClosed (roundOpened s k n) k = false ∧
    bitOf 2 (regGet (roundOpened s k n) (ordReg k 4)) = false ∧ regGet (roundOpened s k n) (ordReg k 7) = 0 ∧
    (roundOpened s k n).counters = s.counters ∧ ordRound (roundOpened s k n) k =
      some { region := k, base := counterGet s (regBits s (ordReg k 5) 11 0), tags := [] } := by
  obtain ⟨small, -, -, bit0, bit2, bit3⟩ := ordFields_bits h
  have canon' : Canon (regPut s (ordReg k 4) (ordFields n + 1)) := (regPut_keeps (Keeps.refl s)).canon canon
  have word : regGet (roundOpened s k n) (ordReg k 4) = ordFields n + 1 := by
    have apart : regGet (roundOpened s k n) (ordReg k 4) = regGet (regPut s (ordReg k 4) (ordFields n + 1)) (ordReg k 4) :=
      regGet_regPut_other _ 0 (by simp only [ordReg]; omega)
    rw [apart, regGet_regPut_same canon, Nat.mod_eq_of_lt (by omega)]
  have slots : regGet (roundOpened s k n) (ordReg k 7) = 0 := regGet_regPut_same canon' (ordReg k 7) 0
  have gone : (s.ord.filter fun r => r.region != k).find? (fun r => r.region == k) = none := by
    simp [List.find?_eq_none]
  refine ⟨by rw [ordArm, word, bit0], by rw [ordClosed, word, bit3], by rw [word, bit2], slots, rfl, ?_⟩
  simp only [ordRound, roundOpened, List.find?_append, gone]
  simp

end

theorem ordCtl_abandons {n : Nat} (arm : ordArm s k = true) (open' : ordClosed s k = false) (clear : bitOf 0 n = false) :
    ordCtl s k n = { regPutBits s (ordReg k 4) 0 0 0 with ord := s.ord.filter fun r => r.region != k } := by
  simp only [ordCtl, open', arm, clear, Bool.false_eq_true, if_false, if_true]

/-- Settles O46: by the register that is written and what it holds. -/
theorem scratchpadSetUp : Obligations.ScratchpadSetUp := by
  unfold Obligations.ScratchpadSetUp
  intro s m v canon
  have small : v.toNat < 2 ^ 32 := v.isLt
  refine ⟨fun admits priv => ?_, fun k low admits => ?_, fun k low admits idle open' arm => ?_,
    fun k low admits arm open' clear => ?_⟩
  · have run := exec_parityArm admits priv v
    have word : bitOf 0 (regGet (injectWrite s v.toNat) 0x700200) = (bitOf 0 v.toNat &&
        inSpm s (v.toNat / 4 * 4 + 2 ^ 32 * regBits s 0x700204 7 0) 4) :=
      (congrArg _ (regGet_regPut_same canon ..)).trans (bitOf_armed ..)
    refine ⟨fun arm inside => ⟨_, run, ?_, ?_, rfl, rfl, fun off bs hit => ?_⟩, fun not => ⟨_, run, ?_, ?_⟩⟩
    · rw [injectWrite_inject, if_pos (by rw [arm, inside, Bool.and_self])]
    · rw [word, arm, inside]
      rfl
    · have armed : (injectWrite s v.toNat).inject = some (v.toNat / 4 * 4 + 2 ^ 32 * regBits s 0x700204 7 0) := by
        rw [injectWrite_inject, if_pos (by rw [arm, inside, Bool.and_self])]
      have canon' : Canon (injectWrite s v.toNat) :=
        have c := (regPut_keeps (off := 0x700200) (v := v.toNat / 2 * 2 + boolBit (bitOf 0 v.toNat &&
          inSpm s (v.toNat / 4 * 4 + 2 ^ 32 * regBits s 0x700204 7 0) 4)) (Keeps.refl s)).canon canon
        ⟨c.spm, c.nor, c.regs, c.counters, c.cntShadow, c.voc, c.corr, c.trim, c.ftab⟩
      have c := canon_spmPut canon' off bs
      rw [spmStore_injects armed hit]
      exact ⟨mem_setInsert.2 (.inl rfl), rfl,
        bit0_cleared ⟨c.spm, c.nor, c.regs, c.counters, c.cntShadow, c.voc, c.corr, c.trim, c.ftab⟩ _⟩
    · rw [injectWrite_inject, if_neg]
      rcases not with clear | outside
      · simp only [clear, Bool.false_and, Bool.false_eq_true, not_false_eq_true]
      · simp only [outside, Bool.and_false, Bool.false_eq_true, not_false_eq_true]
    · rw [word]
      rcases not with clear | outside
      · rw [clear, Bool.false_and]
      · rw [outside, Bool.and_false]
  · have run := exec_backValid low admits v
    refine ⟨fun valid idle legal => ?_, fun valid idle illegal => ?_, fun clear => ?_⟩
    · rw [(backCtl_sets valid idle).1 legal] at run
      have word := regGet_regPut_same canon (backReg k 5) (v.toNat % 256 / 4 * 4 + 1)
      refine ⟨_, run, ?_, ?_, fun o h => regGet_regPut_other s _ h, rfl⟩
      · simp only [backValid, word, bitOf, beq_iff_eq]
        omega
      · simp only [word, bitOf, beq_eq_false_iff_ne]
        omega
    · rw [(backCtl_sets valid idle).2 illegal] at run
      have word := regGet_regPutBits_same (off := backReg k 5) (hi := 1) (lo := 1) canon 1 (by decide) (by decide)
      refine ⟨_, run, ?_, ?_, fun o h => regGet_regPutBits_other s _ _ _ h⟩
      · rw [backValid, word, bitOf_setBits_other _ _ (by decide) (by decide)]
        exact idle
      · exact (congrArg (bitOf 1) word).trans (bitOf_setBits_same ..)
    · exact ⟨_, run, backCtl_clears canon clear⟩
  · have run : exec (.orderedArm m k v) s = .next (ordCtl s k v.toNat) := by
      show execOrderedArm m k v s = _
      simp only [execOrderedArm, low, getLsbD_zero, arm, decide_true, Bool.and_self, if_true, masterWrite_ordCtl low admits]
    refine ⟨fun legal => ?_, fun illegal => ?_⟩
    · rw [(ordCtl_arms canon small idle open' arm).1 legal] at run
      exact ⟨_, run, roundOpened_opens canon small⟩
    · rw [(ordCtl_arms canon small idle open' arm).2 illegal] at run
      have word := regGet_regPutBits_same (off := ordReg k 4) (hi := 2) (lo := 2) canon 1 (by decide) (by decide)
      refine ⟨_, run, ?_, ?_, rfl⟩
      · rw [ordArm, word, bitOf_setBits_other _ _ (by decide) (by decide)]
        exact idle
      · rw [word, bitOf_setBits_same]
        rfl
  · have run : exec (.abandon m k v) s = .next (ordCtl s k v.toNat) := by
      show execAbandon m k v s = _
      simp only [execAbandon, low, getLsbD_zero, clear, decide_true, Bool.not_false, Bool.and_self, if_true,
        masterWrite_ordCtl low admits]
    rw [ordCtl_abandons arm open' clear] at run
    refine ⟨_, run, ?_, ?_, rfl, rfl⟩
    · show bitOf 0 (regGet (regPutBits s (ordReg k 4) 0 0 0) (ordReg k 4)) = false
      exact bit0_cleared canon _
    · simp [ordRound, List.find?_eq_none]

end Sys2Proof.Machine
end

section
/-! The service of an access to the own scratchpad (R168 to R170, R183 to R188, R206 to R213): what a store leaves
alone, and what a read, a write and an atomic of one range do, whether or not an injection is armed. -/
namespace Sys2Proof.Machine

/-! What a store leaves alone. -/

/-- The registers hold what they held, but for the injection's (R180). -/
def RegsKept (s u : State) : Prop := ∀ o ≠ 0x700200, regGet u o = regGet s o

/-- A state that differs in what a store to scratchpad changes: its bytes and their parity, the injection and its
register, the banks' power, the retained planes, and what groups and descriptors note of the write. -/
def Stored (s u : State) : Prop :=
  (∃ power spm spmBad inject regs cfgBad mxe groups descs,
    u = { s with power, spm, spmBad, inject, regs, cfgBad, mxe, groups, descs }) ∧ RegsKept s u

theorem Stored.refl (s : State) : Stored s s := ⟨⟨_, _, _, _, _, _, _, _, _, rfl⟩, fun _ _ => rfl⟩

theorem Stored.trans {s t u : State} (h : Stored s t) (k : Stored t u) : Stored s u := by
  obtain ⟨⟨_, _, _, _, _, _, _, _, _, rfl⟩, regs⟩ := h
  obtain ⟨⟨_, _, _, _, _, _, _, _, _, rfl⟩, regs'⟩ := k
  exact ⟨⟨_, _, _, _, _, _, _, _, _, rfl⟩, fun o h => (regs' o h).trans (regs o h)⟩

theorem wakeBanks_stored (s : State) (off len : Nat) : Stored s (wakeBanks s off len) := by
  unfold wakeBanks
  split
  · exact .refl s
  · exact ⟨⟨_, s.spm, s.spmBad, s.inject, s.regs, s.cfgBad, s.mxe, s.groups, s.descs, rfl⟩, fun _ _ => rfl⟩

theorem spmPut_stored (s : State) (off : Nat) (bs : List Byte) : Stored s (spmPut s off bs) :=
  ⟨⟨s.power, _, _, s.inject, s.regs, s.cfgBad, _, s.groups, s.descs, rfl⟩, fun _ _ => rfl⟩

theorem spmStore_stored (s : State) (off : Nat) (bs : List Byte) : Stored s (spmStore s off bs) := by
  refine (spmPut_stored s off bs).trans ?_
  unfold spmStore
  dsimp only
  split
  · split
    · exact ⟨⟨s.power, _, _, _, _, _, _, s.groups, s.descs, rfl⟩, fun o h => regGet_regPut_other _ _ h⟩
    · exact .refl _
  · exact .refl _

theorem noteWrite_stored (s : State) (owner : Option Nat) (off len : Nat) : Stored s (noteWrite s owner off len) :=
  ⟨⟨s.power, s.spm, s.spmBad, s.inject, s.regs, s.cfgBad, s.mxe, _, _, rfl⟩, fun _ _ => rfl⟩

theorem spmWrite_stored (s : State) (owner : Option Nat) (off : Nat) (bs : List Byte) :
    Stored s (spmWrite s owner off bs) := (spmStore_stored s off bs).trans (noteWrite_stored ..)

section
variable {s u : State} (h : RegsKept s u)
include h

theorem RegsKept.regBits_eq {o : Nat} (ho : o ≠ 0x700200) (hi lo : Nat) : regBits u o hi lo = regBits s o hi lo := by
  rw [regBits, regBits, h o ho]

theorem RegsKept.regPair_eq {o : Nat} (lo : o ≠ 0x700200) (hi : o + 4 ≠ 0x700200) : regPair u o = regPair s o := by
  rw [regPair, regPair, h o lo, h _ hi]

theorem RegsKept.ownId_eq : ownId u = ownId s := h.regBits_eq (by decide) 18 0

theorem RegsKept.ownAddr_eq (off : Nat) : ownAddr u off = ownAddr s off := by rw [ownAddr, ownAddr, h.ownId_eq]

theorem RegsKept.baseAddr_eq (v : Nat) : baseAddr u v = baseAddr s v := by rw [baseAddr, baseAddr, h.ownAddr_eq]

theorem RegsKept.backValid_eq (n : Nat) : backValid u n = backValid s n := by
  rw [backValid, backValid, h _ (by simp only [backReg]; omega)]

theorem RegsKept.backBase_eq (n : Nat) : backBase u n = backBase s n := by
  rw [backBase, backBase, h.regPair_eq (by simp only [backReg]; omega) (by simp only [backReg]; omega)]

theorem RegsKept.backSize_eq (n : Nat) : backSize u n = backSize s n := by
  rw [backSize, backSize, h.regBits_eq (by simp only [backReg]; omega)]

theorem RegsKept.backHome_eq (n : Nat) : backHome u n = backHome s n := by
  rw [backHome, backHome, h.regPair_eq (by simp only [backReg]; omega) (by simp only [backReg]; omega)]

theorem RegsKept.backOver_eq (off len : Nat) : backOver u off len = backOver s off len := by
  simp only [backOver, h.backValid_eq, h.backBase_eq, h.backSize_eq]

end

section
variable {s u : State} (h : Stored s u)
include h

theorem Stored.dre_eq : u.dre = s.dre := by obtain ⟨⟨_, _, _, _, _, _, _, _, _, rfl⟩, -⟩ := h; rfl

theorem Stored.par_eq : u.par = s.par := by obtain ⟨⟨_, _, _, _, _, _, _, _, _, rfl⟩, -⟩ := h; rfl

theorem Stored.routesAt_eq (off len : Nat) : routesAt u off len = routesAt s off len := by
  have active : activeBank u = activeBank s := h.2.regBits_eq (by decide) 0 0
  have base : regPair u (0x900010 + 8 * activeBank s) = regPair s (0x900010 + 8 * activeBank s) := by
    have one : activeBank s < 2 := Nat.mod_lt _ (by decide)
    exact h.2.regPair_eq (by omega) (by omega)
  simp only [routesAt, active, base, h.par_eq]

theorem Stored.entries_apart {off len : Nat} (apart : Apart s off len) : entriesWritten u (ownAddr u off) len = u := by
  have ctx (r : Nat) : ctxAddr u r = ctxAddr s r := by
    rw [ctxAddr, ctxAddr, h.2.baseAddr_eq, h.2.regPair_eq (by decide) (by decide)]
  have cq (q : Nat) : cqAddr u q = cqAddr s q := by
    rw [cqAddr, cqAddr, h.2.baseAddr_eq, h.2.regPair_eq (by decide) (by decide)]
  have rings : u.dre.rings.any (fun r => overlap (ctxAddr u r.ring) 64 (ownAddr u off) len) = false := by
    simp only [List.any_eq_false, ctx, h.2.ownAddr_eq, h.dre_eq]
    exact fun r hr => by simp [apart.rings r hr]
  have cqs : u.dre.cqs.any (fun q => overlap (cqAddr u q.cq) 16 (ownAddr u off) len) = false := by
    simp only [List.any_eq_false, cq, h.2.ownAddr_eq, h.dre_eq]
    exact fun q hq => by simp [apart.cqs q hq]
  simp [entriesWritten, rings, cqs]

theorem Stored.routes_apart {off len : Nat} (apart : Apart s off len) : routeWritten u off len = u := by
  simp [routeWritten, h.routesAt_eq, apart.routes]

end

/-- A write to a range in which hardware has nothing in use: its bytes, and then its home copies. -/
theorem storeRuns_apart {s : State} {owner : Option Nat} {a : Access} {off : Nat} {bs : List Byte}
    {count : Option (Nat × Nat)} {old : List Byte} (apart : Apart s off bs.length) :
    storeRuns s owner a [(off, bs)] count old =
      writeThrough (spmWrite (wakeBanks s off bs.length) owner off bs) a [(off, bs)] count old := by
  have stored := (wakeBanks_stored s off bs.length).trans (spmWrite_stored _ owner off bs)
  have entries := stored.entries_apart apart
  rw [stored.2.ownAddr_eq] at entries
  have same : ownAddr (wakeBanks s off bs.length) off = ownAddr s off := (wakeBanks_stored ..).2.ownAddr_eq off
  simp only [storeRuns, List.foldl_cons, List.foldl_nil, stored.2.ownAddr_eq, entries, stored.routes_apart apart, ite_self]

/-! A write that may meet what hardware has in use. -/

/-- A state that differs in what a store changes, in DRE's rings, in the routes that a store made open, and in the number
of free values drawn. -/
def Wrote (s u : State) : Prop :=
  (∃ power spm spmBad inject regs cfgBad mxe groups descs freeCtr dre fep,
    u = { s with power, spm, spmBad, inject, regs, cfgBad, mxe, groups, descs, freeCtr, dre, fep }) ∧ RegsKept s u

theorem Wrote.trans {s t u : State} (h : Wrote s t) (k : Wrote t u) : Wrote s u := by
  obtain ⟨⟨_, _, _, _, _, _, _, _, _, _, _, _, rfl⟩, regs⟩ := h
  obtain ⟨⟨_, _, _, _, _, _, _, _, _, _, _, _, rfl⟩, regs'⟩ := k
  exact ⟨⟨_, _, _, _, _, _, _, _, _, _, _, _, rfl⟩, fun o h => (regs' o h).trans (regs o h)⟩

theorem Stored.wrote {s u : State} (h : Stored s u) : Wrote s u := by
  obtain ⟨⟨_, _, _, _, _, _, _, _, _, rfl⟩, regs⟩ := h
  exact ⟨⟨_, _, _, _, _, _, _, _, _, s.freeCtr, s.dre, s.fep, rfl⟩, regs⟩

/-- A store with what it does to the rings and routes that it meets. -/
def storeOne (owner : Option Nat) (a : Access) (s : State) (r : Nat × List Byte) : State :=
  let s := spmWrite (wakeBanks s r.1 r.2.length) owner r.1 r.2
  if byDre a then s else routeWritten (entriesWritten s (ownAddr s r.1) r.2.length) r.1 r.2.length

theorem storeRuns_eq (s : State) (owner : Option Nat) (a : Access) (runs : List (Nat × List Byte))
    (count : Option (Nat × Nat)) (old : List Byte) :
    storeRuns s owner a runs count old = writeThrough (runs.foldl (storeOne owner a) s) a runs count old := rfl

/-- Two states with the same bytes, that differ at most in DRE's rings, the open routes and the free values drawn. -/
def Marked (s u : State) : Prop := ∃ freeCtr dre fep, u = { s with freeCtr, dre, fep }

theorem Marked.refl (s : State) : Marked s s := ⟨s.freeCtr, s.dre, s.fep, rfl⟩

theorem Marked.trans {s t u : State} : Marked s t → Marked t u → Marked s u := by
  rintro ⟨_, _, _, rfl⟩ ⟨n, d, f, rfl⟩
  exact ⟨n, d, f, rfl⟩

theorem entriesWritten_marked (s : State) (addr len : Nat) : Marked s (entriesWritten s addr len) := by
  unfold entriesWritten
  dsimp only
  split
  · exact .refl s
  · exact ⟨_, _, s.fep, rfl⟩

theorem routeWritten_marked (s : State) (off len : Nat) : Marked s (routeWritten s off len) := by
  unfold routeWritten
  split
  · exact .refl s
  · exact ⟨_, s.dre, _, rfl⟩

theorem storeOne_marked (owner : Option Nat) (a : Access) (s : State) (r : Nat × List Byte) :
    Marked (spmWrite (wakeBanks s r.1 r.2.length) owner r.1 r.2) (storeOne owner a s r) := by
  unfold storeOne
  dsimp only
  split
  · exact .refl _
  · exact (entriesWritten_marked ..).trans (routeWritten_marked ..)

theorem Marked.wrote {s u : State} (h : Marked s u) : Wrote s u := by
  obtain ⟨n, d, f, rfl⟩ := h
  exact ⟨⟨s.power, s.spm, s.spmBad, s.inject, s.regs, s.cfgBad, s.mxe, s.groups, s.descs, n, d, f, rfl⟩, fun _ _ => rfl⟩

theorem storeOne_wrote (owner : Option Nat) (a : Access) (s : State) (r : Nat × List Byte) :
    Wrote s (storeOne owner a s r) :=
  ((wakeBanks_stored ..).trans (spmWrite_stored ..)).wrote.trans (storeOne_marked owner a s r).wrote

theorem spmLost_wrote {s u : State} (h : Wrote s u) : u.spmLost = s.spmLost := by
  obtain ⟨⟨_, _, _, _, _, _, _, _, _, _, _, _, rfl⟩, -⟩ := h
  rfl

theorem spm_spmStore (s : State) (off : Nat) (bs : List Byte) :
    (spmStore s off bs).spm = mapSetAll (spmDefault s.spmLost) s.spm off bs := by
  unfold spmStore
  dsimp only
  split
  · split <;> rfl
  · rfl

theorem spm_wakeBanks (s : State) (off len : Nat) : (wakeBanks s off len).spm = s.spm := by
  unfold wakeBanks
  split <;> rfl

theorem spm_storeOne (owner : Option Nat) (a : Access) (s : State) (r : Nat × List Byte) :
    (storeOne owner a s r).spm = mapSetAll (spmDefault s.spmLost) s.spm r.1 r.2 := by
  have marked := storeOne_marked owner a s r
  obtain ⟨n, d, f, same⟩ := marked
  have lost := spmLost_wrote (wakeBanks_stored s r.1 r.2.length).wrote
  rw [same]
  exact (spm_spmStore ..).trans (by rw [lost, spm_wakeBanks])

/-- The bytes of a store read back, and the others read as before. -/
theorem spmByte_storeOne {owner : Option Nat} {a : Access} {s : State} {r : Nat × List Byte} (x : Nat)
    (apart : x < r.1 ∨ r.1 + r.2.length ≤ x) : spmByte (storeOne owner a s r) x = spmByte s x := by
  rw [spmByte, spmByte, spm_storeOne, spmLost_wrote (storeOne_wrote owner a s r), mapGet_setAll_other apart]

theorem spmByte_storeOne_inside {owner : Option Nat} {a : Access} {s : State} {r : Nat × List Byte}
    (canon : mapWf (spmDefault s.spmLost) s.spm = true) {i : Nat} (within : i < r.2.length) :
    spmByte (storeOne owner a s r) (r.1 + i) = r.2[i] := by
  rw [spmByte, spm_storeOne, spmLost_wrote (storeOne_wrote owner a s r)]
  exact mapGet_setAll_same canon within

theorem spmBytes_storeOne {owner : Option Nat} {a : Access} {s : State} {r : Nat × List Byte}
    (canon : mapWf (spmDefault s.spmLost) s.spm = true) : spmBytes (storeOne owner a s r) r.1 r.2.length = r.2 := by
  refine List.ext_getElem (by simp [spmBytes]) fun i low _ => ?_
  have within : i < r.2.length := by simpa [spmBytes] using low
  have stored := spmByte_storeOne_inside (owner := owner) (a := a) canon within
  simpa only [spmBytes, List.getElem_map, List.getElem_range] using stored

/-- The state once the counter that a write names has advanced (R197). -/
def counted (u : State) (count : Option (Nat × Nat)) : State :=
  match count with
  | some c => counterAdvance u c.1 c.2
  | none => u

/-- The write-through of a store: nothing where its ranges are unbacked, and else the home copies whose answers it awaits
(R183). -/
def sentHome (u : State) (a : Access) (runs : List (Nat × List Byte)) (count : Option (Nat × Nat)) (old : List Byte) : State :=
  let n := newId u
  let h := runs.foldl (fun h x => let y := homeWrite h.1 x.1 x.2 (.through n.1); (y.1, h.2 + y.2)) (n.2, 0)
  { h.1 with throughs := h.1.throughs ++
    [{ key := n.1, acc := a, ranges := runs.map fun x => (x.1, x.2.length), count, old, left := h.2 }] }

section
variable {s : State} {a : Access} {runs : List (Nat × List Byte)} {count : Option (Nat × Nat)} {old : List Byte}

theorem writeThrough_unbacked (h : ∀ x ∈ runs, backOver s x.1 x.2.length = []) :
    writeThrough s a runs count old = (s, true) := by
  have all : (runs.all fun r => (backOver s r.1 r.2.length).isEmpty) = true :=
    List.all_eq_true.2 fun x hx => by rw [h x hx]; rfl
  rw [writeThrough, if_pos all]

theorem writeThrough_backed (h : ∃ x ∈ runs, backOver s x.1 x.2.length ≠ []) :
    writeThrough s a runs count old = (sentHome s a runs count old, false) := by
  have some : ¬(runs.all fun r => (backOver s r.1 r.2.length).isEmpty) = true := fun all => by
    obtain ⟨x, hx, ne⟩ := h
    exact ne (List.isEmpty_iff.1 (List.all_eq_true.1 all x hx))
  rw [writeThrough, if_neg some]
  rfl

theorem spmCommit_unbacked {owner : Option Nat} {u : State} (h : storeRuns s owner a runs count old = (u, true)) :
    spmCommit s owner a runs count old = (counted u count, .done old) := by
  simp only [spmCommit, h, if_true]
  rfl

theorem spmCommit_backed {owner : Option Nat} {u : State} (h : storeRuns s owner a runs count old = (u, false)) :
    spmCommit s owner a runs count old = (u, .through) := by
  simp only [spmCommit, h, Bool.false_eq_true, if_false]

end

/-! An access of one range. -/

section
variable {s : State} {owner : Option Nat} {a : Access} (single : a.parts = [])
include single

theorem accParts_single : accParts a = [(offsetOf a.addr, a.len)] := by simp [accParts, single]

theorem spmRefusal_held (kind : a.kind ≠ .read) (held : heldOver s (offsetOf a.addr) a.len = true) :
    spmRefusal s a = some reasonHeld := by
  have changes : (a.kind != .read) = true := by simpa using kind
  simp only [spmRefusal, accParts_single single, List.any_cons, List.any_nil, held, changes, Bool.or_false, Bool.and_self, if_true]

theorem spmRefusal_clear (notHeld : a.kind = .read ∨ heldOver s (offsetOf a.addr) a.len = false) :
    spmRefusal s a = match ordAdd s a with
      | some n => ordAddRefusal s n a
      | none => if (ordOver s (offsetOf a.addr) a.len).isSome then some reasonHeld else none := by
  have open' : (a.kind != .read && heldOver s (offsetOf a.addr) a.len) = false := by
    rcases notHeld with read | clear
    · simp [read]
    · simp [clear]
  simp only [spmRefusal, accParts_single single, List.any_cons, List.any_nil, Bool.or_false, open', Bool.false_eq_true, if_false] <;> rfl

theorem spmRefusal_none (notHeld : a.kind = .read ∨ heldOver s (offsetOf a.addr) a.len = false) (noAdd : ordAdd s a = none)
    (unordered : ordOver s (offsetOf a.addr) a.len = none) : spmRefusal s a = none := by
  simp only [spmRefusal_clear single notHeld, noAdd, unordered, Option.isSome_none, Bool.false_eq_true, if_false]

theorem refetchWait_settled (kind : a.kind ≠ .read) : refetchWait s a = refetching s (offsetOf a.addr) a.len := by
  simp only [refetchWait, kind, if_false, accParts_single single, List.findSome?_cons, List.findSome?_nil]
  cases refetching s (offsetOf a.addr) a.len <;> rfl

theorem blockingWord_read (kind : a.kind ≠ .write) : blockingWord s a = spmBadIn s (offsetOf a.addr) a.len := by
  cases h : a.kind with
  | write => exact absurd h kind
  | read | atomic =>
    simp only [blockingWord, h, accParts_single single, List.findSome?_cons, List.findSome?_nil]
    cases spmBadIn s (offsetOf a.addr) a.len <;> rfl

theorem blockingWord_good (good : spmBadIn s (offsetOf a.addr) a.len = none) : blockingWord s a = none := by
  by_cases kind : a.kind = .write
  · simp only [spmBadIn, List.find?_eq_none] at good
    simp only [blockingWord, kind, accParts_single single, List.any_cons, List.any_nil, List.find?_eq_none]
    exact fun w hw => by simp [good w hw]
  · rw [blockingWord_read single kind, good]

/-- A read of good bytes for which nothing waits. -/
theorem spmAccess_read (kind : a.kind = .read) (wait : refetchWait s a = none)
    (good : spmBadIn s (offsetOf a.addr) a.len = none) :
    spmAccess s owner a false = (s, .done (spmBytes s (offsetOf a.addr) a.len)) := by
  have noAdd : ordAdd s a = none := by simp [ordAdd, kind]
  have bytes : spmAccess.readData a s [(offsetOf a.addr, a.len)] = spmBytes s (offsetOf a.addr) a.len := by
    refine List.map_congr_left fun i hi => ?_
    have inside : i < a.len := List.mem_range.1 hi
    simp [inside]
  unfold spmAccess
  simp only [wait, noAdd, blockingWord_good single good, kind, accParts_single single, bytes]

/-- A bad word in the way of a read. -/
theorem spmAccess_read_bad (kind : a.kind = .read) (wait : refetchWait s a = none) {w : Nat}
    (bad : spmBadIn s (offsetOf a.addr) a.len = some w) : spmAccess s owner a false = meetBad s w false := by
  have noAdd : ordAdd s a = none := by simp [ordAdd, kind]
  have blocks : blockingWord s a = some w := by rw [blockingWord_read single (by simp [kind]), bad]
  unfold spmAccess
  simp only [wait, noAdd, blocks, kind, Bool.false_and, Bool.false_eq_true, if_false]

/-- A write that nothing holds up stores its bytes. -/
theorem spmAccess_write (kind : a.kind = .write) (wait : refetchWait s a = none) (good : blockingWord s a = none)
    (data : a.data.length = a.len) :
    spmAccess s owner a false = spmCommit s owner a [(offsetOf a.addr, a.data)] (a.counter.map fun c => (c, a.len)) [] := by
  have noAdd : ordAdd s a = none := by simp [ordAdd, kind]
  have whole : partData a (offsetOf a.addr, a.len) = a.data := by simp [partData, ← data]
  unfold spmAccess
  simp only [wait, noAdd, good, kind, spmAccess.write, accParts_single single, List.map_cons, List.map_nil, whole]

end

/-- The word that an atomic stores (R206, R208). -/
def atomicStores (s : State) (a : Access) : List Byte := toLe a.len
  (atomicNew a.op a.width (leNat (spmBytes s (offsetOf a.addr) a.len)) (leNat a.data) a.compare.toNat)

section
variable {s : State} {owner : Option Nat} {a : Access}

theorem length_atomicStores : (atomicStores s a).length = a.len := length_toLe ..

theorem spmAccess_atomic (kind : a.kind = .atomic) (wait : refetchWait s a = none) (noAdd : ordAdd s a = none)
    (good : blockingWord s a = none) : spmAccess s owner a false =
      spmCommit s owner a [(offsetOf a.addr, atomicStores s a)] none (spmBytes s (offsetOf a.addr) a.len) := by
  unfold spmAccess
  simp only [wait, noAdd, good, kind]
  rfl

/-! What serving it comes to. -/

theorem spmServe_done {u : State} {bs : List Byte} (allowed : spmRefusal s a = none) (h : spmAccess s owner a false = (u, .done bs)) :
    spmServe s owner a false = deliver u a (.ok bs) := by
  simp only [spmServe, allowed, h]

theorem spmServe_through {u : State} (allowed : spmRefusal s a = none) (h : spmAccess s owner a false = (u, .through)) :
    spmServe s owner a false = u := by
  simp only [spmServe, allowed, h]

theorem spmServe_refetch {u : State} {b : Nat} (allowed : spmRefusal s a = none)
    (h : spmAccess s owner a false = (u, .refetch b)) : spmServe s owner a false = waitRefetch u b a := by
  simp only [spmServe, allowed, h]

/-- An access that must wait for a refetch. -/
theorem spmServe_waits {b : Nat} (allowed : spmRefusal s a = none) (h : refetchWait s a = some b) :
    spmServe s owner a false = waitRefetch s b a := by
  exact spmServe_refetch allowed (by simp only [spmAccess, h])

theorem spmServe_meetBad {w : Nat} (allowed : spmRefusal s a = none) (h : spmAccess s owner a false = meetBad s w false) :
    (backOf s w = none → spmServe s owner a false = deliver s a .dataErr) ∧
    (∀ n, backOf s w = some n → spmServe s owner a false = waitRefetch (refetchStart s w n) (blockOf w) a) := by
  refine ⟨fun unbacked => ?_, fun n backed => ?_⟩
  · simp only [spmServe, allowed, h, meetBad, unbacked]
  · simp only [spmServe, allowed, h, meetBad, backed]

variable (single : a.parts = []) (apart : Apart s (offsetOf a.addr) a.len)
include single apart

/-- A write of one range of unbacked scratchpad, counted or not. -/
theorem spmServe_write (plain : OwnPlain s a.addr a.len) (kind : a.kind = .write) (data : a.data.length = a.len) :
    spmServe s owner a false = deliver (counted
      (spmWrite (wakeBanks s (offsetOf a.addr) a.len) owner (offsetOf a.addr) a.data) (a.counter.map fun c => (c, a.len)))
      a (.ok []) := by
  have noAdd : ordAdd s a = none := by simp [ordAdd, kind]
  have allowed := spmRefusal_none single (.inr (by simp [heldOver, plain.unbacked])) noAdd plain.unordered
  have wait : refetchWait s a = none := (refetchWait_settled single (by simp [kind])).trans plain.settled
  have stored := (wakeBanks_stored s (offsetOf a.addr) a.len).trans (spmWrite_stored _ owner (offsetOf a.addr) a.data)
  have store : storeRuns s owner a [(offsetOf a.addr, a.data)] (a.counter.map fun c => (c, a.len)) [] =
      (spmWrite (wakeBanks s (offsetOf a.addr) a.len) owner (offsetOf a.addr) a.data, true) := by
    rw [storeRuns_apart (data ▸ apart), data]
    exact writeThrough_unbacked (by simp [data, stored.2.backOver_eq, plain.unbacked])
  exact spmServe_done allowed
    ((spmAccess_write single kind wait (blockingWord_good single plain.good) data).trans (spmCommit_unbacked store))

/-- An atomic on one word of unbacked scratchpad. -/
theorem spmServe_atomic (plain : OwnPlain s a.addr a.len) (kind : a.kind = .atomic) (noAdd : ordAdd s a = none) :
    spmServe s owner a false =
      deliver (spmWrite (wakeBanks s (offsetOf a.addr) a.len) owner (offsetOf a.addr) (atomicStores s a)) a
        (.ok (spmBytes s (offsetOf a.addr) a.len)) := by
  have allowed := spmRefusal_none single (.inr (by simp [heldOver, plain.unbacked])) noAdd plain.unordered
  have wait : refetchWait s a = none := (refetchWait_settled single (by simp [kind])).trans plain.settled
  have stored := (wakeBanks_stored s (offsetOf a.addr) a.len).trans (spmWrite_stored _ owner (offsetOf a.addr) (atomicStores s a))
  have store : storeRuns s owner a [(offsetOf a.addr, atomicStores s a)] none (spmBytes s (offsetOf a.addr) a.len) =
      (spmWrite (wakeBanks s (offsetOf a.addr) a.len) owner (offsetOf a.addr) (atomicStores s a), true) := by
    rw [storeRuns_apart (length_atomicStores ▸ apart), length_atomicStores]
    exact writeThrough_unbacked (by simp [length_atomicStores, stored.2.backOver_eq, plain.unbacked])
  exact spmServe_done allowed ((spmAccess_atomic kind wait noAdd (blockingWord_good single plain.good)).trans (spmCommit_unbacked store))

variable (notHeld : heldOver s (offsetOf a.addr) a.len = false) (unordered : ordOver s (offsetOf a.addr) a.len = none)
  (settled : refetching s (offsetOf a.addr) a.len = none) (good : spmBadIn s (offsetOf a.addr) a.len = none)
  (backed : backOver s (offsetOf a.addr) a.len ≠ [])
include notHeld unordered settled good backed

/-- A write over a backed range awaits its home copies. -/
theorem spmServe_write_home (kind : a.kind = .write) (data : a.data.length = a.len) :
    spmServe s owner a false = sentHome (spmWrite (wakeBanks s (offsetOf a.addr) a.len) owner (offsetOf a.addr) a.data) a
      [(offsetOf a.addr, a.data)] (a.counter.map fun c => (c, a.len)) [] := by
  have noAdd : ordAdd s a = none := by simp [ordAdd, kind]
  have allowed := spmRefusal_none single (.inr notHeld) noAdd unordered
  have wait : refetchWait s a = none := (refetchWait_settled single (by simp [kind])).trans settled
  have stored := (wakeBanks_stored s (offsetOf a.addr) a.len).trans (spmWrite_stored _ owner (offsetOf a.addr) a.data)
  refine spmServe_through allowed
    ((spmAccess_write single kind wait (blockingWord_good single good) data).trans (spmCommit_backed ?_))
  rw [storeRuns_apart (data ▸ apart), data]
  exact writeThrough_backed ⟨_, List.mem_singleton_self _, by rw [data, stored.2.backOver_eq]; exact backed⟩

/-- So does an atomic. -/
theorem spmServe_atomic_home (kind : a.kind = .atomic) (noAdd : ordAdd s a = none) :
    spmServe s owner a false =
      sentHome (spmWrite (wakeBanks s (offsetOf a.addr) a.len) owner (offsetOf a.addr) (atomicStores s a)) a
        [(offsetOf a.addr, atomicStores s a)] none (spmBytes s (offsetOf a.addr) a.len) := by
  have allowed := spmRefusal_none single (.inr notHeld) noAdd unordered
  have wait : refetchWait s a = none := (refetchWait_settled single (by simp [kind])).trans settled
  have stored := (wakeBanks_stored s (offsetOf a.addr) a.len).trans (spmWrite_stored _ owner (offsetOf a.addr) (atomicStores s a))
  refine spmServe_through allowed
    ((spmAccess_atomic kind wait noAdd (blockingWord_good single good)).trans (spmCommit_backed ?_))
  rw [storeRuns_apart (length_atomicStores ▸ apart), length_atomicStores]
  exact writeThrough_backed ⟨_, List.mem_singleton_self _, by rw [length_atomicStores, stored.2.backOver_eq]; exact backed⟩

end

/-- A read of one range. -/
theorem spmServe_read {s : State} {owner : Option Nat} {a : Access} (single : a.parts = []) (kind : a.kind = .read)
    (allowed : spmRefusal s a = none) (wait : refetchWait s a = none) :
    (spmBadIn s (offsetOf a.addr) a.len = none →
      spmServe s owner a false = deliver s a (.ok (spmBytes s (offsetOf a.addr) a.len))) ∧
    (∀ w, spmBadIn s (offsetOf a.addr) a.len = some w →
      (backOf s w = none → spmServe s owner a false = deliver s a .dataErr) ∧
      (∀ n, backOf s w = some n → spmServe s owner a false = waitRefetch (refetchStart s w n) (blockOf w) a)) :=
  ⟨fun good => spmServe_done allowed (spmAccess_read single kind wait good),
    fun _ bad => spmServe_meetBad allowed (spmAccess_read_bad single kind wait bad)⟩

/-- What is refused is counted and answered with its reason. -/
theorem spmServe_refused {s : State} {owner : Option Nat} {a : Access} {n : Nat} (h : spmRefusal s a = some n) :
    spmServe s owner a false = refuseAccess s (match a.who with
      | .agent _ _ _ _ | .packet _ _ | .debug _ => false
      | _ => true) a n := by
  simp only [spmServe, h] <;> rfl

/-- An access of one range that comes now, with nothing older at its banks. -/
theorem serveNow_quiet {s : State} {owner : Option Nat} {a : Access} (single : a.parts = [])
    (quiet : Quiet s (offsetOf a.addr) a.len) : serveNow s owner a = spmServe s owner a false := by
  simp only [serveNow, accParts_single single, List.foldl_cons, List.foldl_nil, settle_quiet quiet]

/-- A read finds nothing to wait for where no older access to its bytes waits for a refetch. -/
theorem refetchWait_past {s : State} {a : Access} (single : a.parts = []) (kind : a.kind = .read)
    (quiet : Quiet s (offsetOf a.addr) a.len) : refetchWait s a = none := by
  have none' : (s.refetch.find? fun r => r.waiters.any fun w =>
      (accParts a).any fun p => (accParts w).any fun q => overlap p.1 p.2 q.1 q.2) = none := by
    simp only [List.find?_eq_none, accParts_single single, List.any_eq_true, List.mem_singleton]
    rintro r hr ⟨w, hw, p, rfl, q, hq, hit⟩
    simp [quiet.past r hr w hw q hq] at hit
  simp only [refetchWait, kind, if_true, none', Option.map_none]

end Sys2Proof.Machine
end

section
/-! Requests from outside to the own scratchpad: packets and the chip's agents (R171 to R173, R196, R206, R278, R370). -/
namespace Sys2Proof.Machine

/-! An access that arrives. -/

section
variable {s : State} {a : Access} (serves : serving s = true) (mapped : mapRefusal s a = none)
include serves mapped

theorem arrive_denied {n : Nat} (denied : accCheck s a = some n) : arrive s a = refuseAccess s false a n := by
  simp [arrive, arriveFor, inService, serves, mapped, denied]

variable (checked : accCheck s a = none)
include checked

theorem arrive_allowed (inside : inSpm s (offsetOf a.addr) a.len = true) : arrive s a = serveNow s none a := by
  simp [arrive, arriveFor, inService, serves, mapped, checked, windowServe, inside]

variable (free : OwnFree s a.addr a.len) (single : a.parts = [])
include free single

theorem arrive_read (kind : a.kind = .read) :
    arrive s a = deliver s a (.ok (spmBytes s (offsetOf a.addr) a.len)) := by
  have noAdd : ordAdd s a = none := by simp [ordAdd, kind]
  rw [arrive_allowed serves mapped checked free.fits, serveNow_quiet single free.quiet]
  exact (spmServe_read single kind (spmRefusal_none single (.inl kind) noAdd free.unordered)
    (refetchWait_past single kind free.quiet)).1 free.good

theorem arrive_write (kind : a.kind = .write) (data : a.data.length = a.len) :
    arrive s a = deliver (counted (spmWrite s none (offsetOf a.addr) a.data) (a.counter.map fun c => (c, a.len))) a (.ok []) := by
  rw [arrive_allowed serves mapped checked free.fits, serveNow_quiet single free.quiet,
    spmServe_write single free.apart free.toOwnPlain kind data, wakeBanks_awake free.quiet.awake]

theorem arrive_atomic (kind : a.kind = .atomic) (noAdd : ordAdd s a = none) :
    arrive s a = deliver (spmWrite s none (offsetOf a.addr) (atomicStores s a)) a (.ok (spmBytes s (offsetOf a.addr) a.len)) := by
  rw [arrive_allowed serves mapped checked free.fits, serveNow_quiet single free.quiet,
    spmServe_atomic single free.apart free.toOwnPlain kind noAdd, wakeBanks_awake free.quiet.awake]

end

/-- A free range stays free whatever the ports hold. -/
theorem OwnFree.ports {s : State} {addr len : Nat} (h : OwnFree s addr len) (fep : Fep) (cmp : Cmp) :
    OwnFree { s with fep := fep, cmp := cmp } addr len :=
  ⟨⟨⟨⟨h.some, h.own, h.fits, h.unbacked, h.unordered, h.settled, h.good⟩, ⟨h.quiet.awake, h.quiet.clear, h.quiet.past⟩⟩,
    ⟨h.apart.rings, h.apart.cqs, h.apart.saves, h.apart.routes⟩⟩, h.short, h.page⟩

theorem protFrom_ports (s : State) (fep : Fep) (cmp : Cmp) (src addr len : Nat) (kind : AccKind) (e n : Nat) :
    protFrom { s with fep := fep, cmp := cmp } src addr len kind e n = protFrom s src addr len kind e n := by
  induction n generalizing e with
  | zero => rfl
  | succ n ih =>
    simp only [protFrom, ih]
    rfl

theorem protCheck_ports (s : State) (fep : Fep) (cmp : Cmp) (src addr len : Nat) (kind : AccKind) :
    protCheck { s with fep := fep, cmp := cmp } src addr len kind = protCheck s src addr len kind := protFrom_ports ..

theorem accCheck_ports (s : State) (fep : Fep) (cmp : Cmp) (a : Access) :
    accCheck { s with fep := fep, cmp := cmp } a = accCheck s a := by
  simp only [accCheck, protCheck_ports]
  rfl

/-- A packet of its type for the own cluster leaves the inbox and is handled. -/
theorem onPacket_own {s : State} {port type : Nat} {k : Packet} {f : State → State} (acts : live s = true)
    (waits : (port, k) ∈ s.fep.inbox) (own : k.dest = ownId s) (kind : k.type = type) :
    onPacket s port type k f = f { s with fep := { s.fep with inbox := s.fep.inbox.erase (port, k) } } := by
  have there : s.fep.inbox.contains (port, k) = true := by simpa using waits
  simp only [onPacket, acts, kind, takePacket, there, bne_self_eq_false, Bool.not_true, Bool.or_self, Bool.false_eq_true, if_false,
    if_true]
  exact if_pos (Bool.or_eq_true_iff.2 (.inl (decide_eq_true own)))

/-- The access of an agent's request whose byte mask is one run (R366). -/
def agentAccess (s : State) (ch tag lo n : Nat) (m : CmpReq) (kind : AccKind) : Access :=
  { kind := kind, addr := ownAddr s (m.addr / 128 * 128) + lo, len := n, data := ((padTo 128 m.data).drop lo).take n
    op := m.atop, width := m.awid, src := m.src.toNat, who := .agent ch tag m.be (m.addr / 128 * 128)
    compare := if kind = .atomic then BitVec.ofNat 64 (leNat (((padTo 128 m.data).drop (lo ^^^ 64)).take n)) else 0 }

section
variable {s : State} {ch tag lo n : Nat} {m : CmpReq} (acts : live s = true) (low : ch < 8)
  (run : maskRuns m.be 64 0 = [(lo, n)]) (kind : AccKind)

include acts low run in
theorem agentServe_run : agentServe s ch tag m kind = cmpPump (arrive
    (chanUpd s ch fun c => { c with giveReq := c.giveReq + 1, rxAck := !c.rxAck }) (agentAccess s ch tag lo n m kind)) ch := by
  obtain ⟨⟨por, warm⟩, -⟩ : (s.boot.por = false ∧ s.boot.warm = false) ∧ s.boot.stopped = false := by
    simpa [live] using acts
  have off : ownAddr (chanUpd s ch fun c => { c with giveReq := c.giveReq + 1, rxAck := !c.rxAck }) (m.addr / 128 * 128 + lo) =
      ownAddr s (m.addr / 128 * 128) + lo := (Nat.add_assoc ..).symm
  have channel : ¬ch ≥ 8 := by omega
  simp [agentServe, por, warm, channel, run, off, agentAccess]

theorem agentAccess_data (inside : lo + n ≤ 128) : (agentAccess s ch tag lo n m kind).data.length = n := by
  have padded : 128 ≤ (padTo 128 m.data).length := by simp only [padTo, List.length_append, List.length_take, List.length_replicate]; omega
  simp only [agentAccess, List.length_take, List.length_drop]
  omega

end

/-- Settles O35: an access that arrives for a free range is served at once, and one that the protection table denies is
refused; a packet and an agent's request make such accesses. -/
theorem requestsAreServed : Obligations.RequestsAreServed := by
  unfold Obligations.RequestsAreServed
  intro s acts
  refine ⟨fun port k waits own => ⟨fun type ⟨mapped, checked, free, serves⟩ => ?_,
    fun type ⟨mapped, checked, free, serves⟩ => ?_, fun type ⟨mapped, checked, free, serves⟩ noAdd => ?_,
    fun type serves allowed => ?_, fun n type serves mapped denied => ?_⟩,
    fun ch tag lo n m low run inside => ⟨fun ⟨mapped, checked, free, serves⟩ => ?_, fun ⟨mapped, checked, free, serves⟩ => ?_,
      fun ⟨mapped, checked, free, serves⟩ noAdd => ?_, fun r serves mapped denied => ?_⟩⟩
  · have served := arrive_write (s := { s with fep := { s.fep with inbox := s.fep.inbox.erase (port, k) } }) serves mapped ((accCheck_ports ..).trans checked)
      (free.ports _ s.cmp) rfl rfl rfl
    have run : exec (.writePkt port k) s = .next (arrive { s with fep := { s.fep with inbox := s.fep.inbox.erase (port, k) } }
        (packetAccess s port k .write)) := by
      show execWritePkt port k s = _
      rw [execWritePkt, onPacket_own acts waits own type]
      rfl
    refine ⟨fun plain => ?_, fun counts => ?_⟩
    · have none' : (packetAccess s port k .write).counter = none := by simp [packetAccess, plain]
      rw [run, served, none']
      rfl
    · have some' : (packetAccess s port k .write).counter = some k.counter := by simp [packetAccess, counts]
      rw [run, served, some']
      rfl
  · show execReadPkt port k s = _
    rw [execReadPkt, onPacket_own acts waits own type]
    have served := arrive_read (s := { s with fep := { s.fep with inbox := s.fep.inbox.erase (port, k) } }) serves mapped ((accCheck_ports ..).trans checked)
      (free.ports _ s.cmp) rfl rfl
    have len : (packetAccess s port k .read).len = leNat k.body % 2 ^ 13 := by simp [packetAccess, bitsOf]
    rw [← len]
    exact congrArg _ served
  · show execAtomicPkt port k s = _
    rw [execAtomicPkt, onPacket_own acts waits own type]
    exact congrArg _ (arrive_atomic (s := { s with fep := { s.fep with inbox := s.fep.inbox.erase (port, k) } }) serves mapped
      ((accCheck_ports ..).trans checked) (free.ports _ s.cmp) rfl rfl noAdd)
  · show execCount port k s = _
    have serves' : serving { s with fep := { s.fep with inbox := s.fep.inbox.erase (port, k) } } = true := serves
    have allowed' : protCheck { s with fep := { s.fep with inbox := s.fep.inbox.erase (port, k) } } k.src
        (ownAddr { s with fep := { s.fep with inbox := s.fep.inbox.erase (port, k) } }
          (regBase + 0x908000 + 8 * (k.counter % 4096))) 8 .write = none :=
      (protCheck_ports ..).trans allowed
    have amount : bitsOf 31 0 (leNat k.body) = leNat k.body % 2 ^ 32 := by simp [bitsOf]
    rw [execCount, onPacket_own acts waits own type]
    simp only [serves', allowed', amount, Bool.not_true, Bool.false_eq_true, if_false]
  · show execReadPkt port k s = _
    rw [execReadPkt, onPacket_own acts waits own type]
    exact congrArg _ (arrive_denied (s := { s with fep := { s.fep with inbox := s.fep.inbox.erase (port, k) } }) serves mapped ((accCheck_ports ..).trans denied))
  · show Host.Outcome.next (agentServe s ch tag m .read) = _
    rw [agentServe_run acts low run]
    exact congrArg (fun t => Host.Outcome.next (cmpPump t ch)) (arrive_read (s := chanUpd s ch _) serves mapped ((accCheck_ports ..).trans checked)
      (free.ports s.fep _) rfl rfl)
  · show Host.Outcome.next (agentServe s ch tag m .write) = _
    rw [agentServe_run acts low run]
    exact congrArg (fun t => Host.Outcome.next (cmpPump t ch)) (arrive_write (s := chanUpd s ch _) serves mapped ((accCheck_ports ..).trans checked)
      (free.ports s.fep _) rfl rfl (agentAccess_data .write inside))
  · show Host.Outcome.next (agentServe s ch tag m .atomic) = _
    rw [agentServe_run acts low run]
    exact congrArg (fun t => Host.Outcome.next (cmpPump t ch)) (arrive_atomic (s := chanUpd s ch _) serves mapped ((accCheck_ports ..).trans checked)
      (free.ports s.fep _) rfl rfl noAdd)
  · show Host.Outcome.next (agentServe s ch tag m .read) = _
    rw [agentServe_run acts low run]
    exact congrArg (fun t => Host.Outcome.next (cmpPump t ch)) (arrive_denied (s := chanUpd s ch _) serves mapped ((accCheck_ports ..).trans denied))

end Sys2Proof.Machine
end

section
/-! The banks' queues: ordered adds, home copies, and the service of the oldest request (R170, R183, R206, R211). -/
namespace Sys2Proof.Machine

/-! Ordered adds (R211). -/

theorem find?_replaceFirst {α : Type} {p : α → Bool} {f : α → α} {l : List α} {x : α} (here : l.find? p = some x)
    (same : p (f x) = true) : (replaceFirst p f l).find? p = some (f x) := by
  induction l with
  | nil => cases here
  | cons y l ih =>
    rw [replaceFirst]
    by_cases h : p y = true
    · obtain rfl : y = x := by simpa [List.find?_cons, h] using here
      simp [h, same]
    · have later : l.find? p = some x := by simpa [List.find?_cons, h] using here
      simpa [List.find?_cons, h] using ih later

/-- The regions over a range are those of states whose region registers agree. -/
theorem backOver_congr {s u : State} (h : ∀ n < 64, ∀ k < 8, regGet u (backReg n k) = regGet s (backReg n k)) (off len : Nat) :
    backOver u off len = backOver s off len := by
  refine List.filter_congr fun n hn => ?_
  have low : n < 64 := List.mem_range.1 hn
  have next : backReg n 0 + 4 = backReg n 1 := rfl
  simp only [backValid, backBase, backSize, regBits, regPair, next, h n low _ (by decide : 0 < 8), h n low _ (by decide : 1 < 8),
    h n low _ (by decide : 2 < 8), h n low _ (by decide : 5 < 8)]

/-- The state in which a source that held no slot of a region holds the next one. -/
def slotTaken (s : State) (n : Nat) (a : Access) (o : OrdRound) : State :=
  let tag (x : OrdRound) : OrdRound := { x with tags := x.tags ++ [carried s a] }
  regPutBits { s with ord := replaceFirst (fun x => x.region == n) tag s.ord } (ordReg n 7) 6 0 (o.tags.length + 1)

/-- The state in which an ordered add's source holds a slot. -/
def slotOpened (s : State) (n : Nat) (a : Access) (o : OrdRound) : State :=
  if (ordSlot s n a o).1 then s else slotTaken s n a o

/-- The word that an ordered add leaves in its entry. -/
def slotEntry (s : State) (n : Nat) (a : Access) (o : OrdRound) : List Byte :=
  let slot := ordSlot s n a o
  let old := if slot.1 then ofFp32 (BitVec.ofNat 32 (leNat (spmBytes s slot.2.1 4))) else ofFp32 0
  toLe 4 (toFp32 (round32 false (addV false old (decodeElem (if a.width = 2 then .bf16 else .fp32) (leNat a.data))).1).val).toNat

/-- The stores of an ordered add: a new slot's zeros, and its entry. -/
def slotRuns (s : State) (n : Nat) (a : Access) (o : OrdRound) : List (Nat × List Byte) :=
  let slot := ordSlot s n a o
  (if slot.1 then [] else [(slot.2.2.1, List.replicate slot.2.2.2 (0 : Byte))]) ++ [(slot.2.1, slotEntry s n a o)]

/-- The state once an ordered add has stored. -/
def slotStored (s : State) (n : Nat) (a : Access) (o : OrdRound) : State :=
  (slotRuns s n a o).foldl (storeOne none a) (slotOpened s n a o)

section
variable {s : State} {n : Nat} {a : Access} {o : OrdRound}

theorem length_slotEntry : (slotEntry s n a o).length = 4 := length_toLe ..

theorem ordSlot_new (new : (ordSlot s n a o).1 = false) :
    (ordSlot s n a o).2.2.2 = 4 * regBits s (ordReg n 2) 20 0 := by
  have unknown : ¬carried s a ∈ o.tags := by simpa [ordSlot] using new
  simp [ordSlot, unknown]

theorem slotOpened_known (known : (ordSlot s n a o).1 = true) : slotOpened s n a o = s := if_pos known

theorem slotOpened_new (new : (ordSlot s n a o).1 = false) : slotOpened s n a o = slotTaken s n a o := by
  rw [slotOpened, new]
  rfl

theorem slotOpened_regs (i : Nat) (h : i ≠ ordReg n 7) : regGet (slotOpened s n a o) i = regGet s i := by
  rcases known : (ordSlot s n a o).1
  · rw [slotOpened_new known]
    exact regGet_regPutBits_other _ _ _ _ h
  · rw [slotOpened_known known]

theorem slotOpened_spm : (slotOpened s n a o).spm = s.spm ∧ (slotOpened s n a o).spmLost = s.spmLost ∧
    (slotOpened s n a o).counters = s.counters := by
  rcases known : (ordSlot s n a o).1
  · rw [slotOpened_new known]
    exact ⟨rfl, rfl, rfl⟩
  · rw [slotOpened_known known]
    exact ⟨rfl, rfl, rfl⟩

theorem foldl_storeOne_wrote (owner : Option Nat) (a : Access) (runs : List (Nat × List Byte)) (s : State) :
    Wrote s (runs.foldl (storeOne owner a) s) := by
  induction runs generalizing s with
  | nil => exact (Stored.refl s).wrote
  | cons r runs ih => exact (storeOne_wrote owner a s r).trans (ih _)

theorem slotStored_wrote : Wrote (slotOpened s n a o) (slotStored s n a o) := foldl_storeOne_wrote ..

theorem slotStored_regs (i : Nat) (inj : i ≠ 0x700200) (seen : i ≠ ordReg n 7) :
    regGet (slotStored s n a o) i = regGet s i :=
  (slotStored_wrote.2 i inj).trans (slotOpened_regs i seen)

theorem slotStored_backOver (off len : Nat) : backOver (slotStored s n a o) off len = backOver s off len :=
  backOver_congr (fun k low j small => slotStored_regs _ (by simp only [backReg]; omega) (by simp only [backReg, ordReg]; omega)) ..

theorem slotStored_counter (c : Nat) : counterGet (slotStored s n a o) c = counterGet s c := by
  obtain ⟨⟨_, _, _, _, _, _, _, _, _, _, _, _, same⟩, -⟩ := slotStored_wrote (s := s) (n := n) (a := a) (o := o)
  rw [same]
  exact congrArg (fun m => mapGet (fun _ => (0 : Dword)) m c) slotOpened_spm.2.2

theorem slotStored_tags (round : ordRound s n = some o) : (ordRound (slotStored s n a o) n).map (·.tags) =
    some (if (ordSlot s n a o).1 then o.tags else o.tags ++ [carried s a]) := by
  have kept : ordRound (slotStored s n a o) n = ordRound (slotOpened s n a o) n := by
    obtain ⟨⟨_, _, _, _, _, _, _, _, _, _, _, _, same⟩, -⟩ := slotStored_wrote (s := s) (n := n) (a := a) (o := o)
    rw [same]
    rfl
  rw [kept]
  rcases known : (ordSlot s n a o).1
  · have region : (o.region == n) = true := List.find?_some (p := fun x : OrdRound => x.region == n) round
    rw [slotOpened_new known]
    have found := find?_replaceFirst (f := fun x : OrdRound => { x with tags := x.tags ++ [carried s a] }) round region
    exact congrArg (Option.map (·.tags)) found
  · rw [slotOpened_known known, round]
    rfl

theorem slotStored_seen (canon : Canon s) (new : (ordSlot s n a o).1 = false) (room : o.tags.length < 127) :
    regBits (slotStored s n a o) (ordReg n 7) 6 0 = o.tags.length + 1 := by
  have canon' : Canon { s with ord := replaceFirst (fun x : OrdRound => x.region == n) (fun x => { x with
      tags := x.tags ++ [carried s a] }) s.ord } :=
    ⟨canon.spm, canon.nor, canon.regs, canon.counters, canon.cntShadow, canon.voc, canon.corr, canon.trim, canon.ftab⟩
  have put := regBits_regPutBits_same (off := ordReg n 7) (hi := 6) (lo := 0) canon' (o.tags.length + 1) (by decide) (by decide)
  rw [slotStored_wrote.2.regBits_eq (by simp only [ordReg]; omega), slotOpened_new new]
  exact put.trans (Nat.mod_eq_of_lt (by omega))

/-- The stores of an ordered add in their order. -/
theorem slotStored_known (known : (ordSlot s n a o).1 = true) :
    slotStored s n a o = storeOne none a s ((ordSlot s n a o).2.1, slotEntry s n a o) := by
  simp only [slotStored, slotRuns, slotOpened_known known, known, if_true, List.nil_append, List.foldl_cons, List.foldl_nil]

theorem slotStored_new (new : (ordSlot s n a o).1 = false) :
    slotStored s n a o = storeOne none a (storeOne none a (slotTaken s n a o)
      ((ordSlot s n a o).2.2.1, List.replicate (ordSlot s n a o).2.2.2 0)) ((ordSlot s n a o).2.1, slotEntry s n a o) := by
  simp only [slotStored, slotRuns, slotOpened_new new, new, Bool.false_eq_true, if_false, List.cons_append, List.nil_append,
    List.foldl_cons, List.foldl_nil]

theorem slotStored_entry (canon : mapWf (spmDefault s.spmLost) s.spm = true) :
    spmBytes (slotStored s n a o) (ordSlot s n a o).2.1 4 = slotEntry s n a o := by
  rcases known : (ordSlot s n a o).1
  · rw [slotStored_new known]
    have zeroed : mapWf (spmDefault (storeOne none a (slotTaken s n a o)
        ((ordSlot s n a o).2.2.1, List.replicate (ordSlot s n a o).2.2.2 0)).spmLost) (storeOne none a (slotTaken s n a o)
        ((ordSlot s n a o).2.2.1, List.replicate (ordSlot s n a o).2.2.2 0)).spm = true := by
      rw [spm_storeOne, spmLost_wrote (storeOne_wrote ..)]
      exact mapSetAll_wf canon
    have read := spmBytes_storeOne (owner := none) (a := a) (r := ((ordSlot s n a o).2.1, slotEntry s n a o)) zeroed
    rwa [length_slotEntry] at read
  · rw [slotStored_known known]
    have read := spmBytes_storeOne (owner := none) (a := a) (r := ((ordSlot s n a o).2.1, slotEntry s n a o)) canon
    rwa [length_slotEntry] at read

theorem slotStored_elsewhere (canon : mapWf (spmDefault s.spmLost) s.spm = true) {x : Nat}
    (apart : ¬((ordSlot s n a o).2.1 ≤ x ∧ x < (ordSlot s n a o).2.1 + 4)) : spmByte (slotStored s n a o) x =
      if (ordSlot s n a o).1 = false ∧ (ordSlot s n a o).2.2.1 ≤ x ∧ x < (ordSlot s n a o).2.2.1 + (ordSlot s n a o).2.2.2 then 0
      else spmByte s x := by
  have beside : x < (ordSlot s n a o).2.1 ∨ (ordSlot s n a o).2.1 + (slotEntry s n a o).length ≤ x := by
    rw [length_slotEntry]
    omega
  rcases known : (ordSlot s n a o).1
  · rw [slotStored_new known, spmByte_storeOne x beside]
    split
    next zeroed =>
      obtain ⟨-, low, high⟩ := zeroed
      have within : x - (ordSlot s n a o).2.2.1 < (List.replicate (ordSlot s n a o).2.2.2 (0 : Byte)).length := by
        rw [List.length_replicate]; omega
      have byte := spmByte_storeOne_inside (owner := none) (a := a) (s := slotTaken s n a o)
        (r := ((ordSlot s n a o).2.2.1, List.replicate (ordSlot s n a o).2.2.2 0)) canon within
      rw [List.getElem_replicate, Nat.add_sub_cancel' low] at byte
      exact byte
    next kept =>
      have outside : x < (ordSlot s n a o).2.2.1 ∨
          (ordSlot s n a o).2.2.1 + (List.replicate (ordSlot s n a o).2.2.2 (0 : Byte)).length ≤ x := by
        rw [List.length_replicate]
        simp only [true_and, not_and] at kept
        omega
      exact spmByte_storeOne x outside
  · rw [slotStored_known known, spmByte_storeOne x beside, if_neg (by simp)]

/-- An ordered add that nothing stops stores, and its counter advances by its bytes. -/
theorem orderedAdd_stores (round : ordRound s n = some o)
    (settled : refetching s (ordSlot s n a o).2.2.1 (ordSlot s n a o).2.2.2 = none)
    (good : (ordSlot s n a o).1 = true → spmBadIn s (ordSlot s n a o).2.1 4 = none) :
    orderedAdd s n a false = spmCommit (slotOpened s n a o) none a (slotRuns s n a o)
      (some (regBits s (ordReg n 5) 11 0, a.len)) (List.replicate a.len 0) := by
  have count : regBits (slotOpened s n a o) (ordReg n 5) 11 0 = regBits s (ordReg n 5) 11 0 := by
    rw [regBits, regBits, slotOpened_regs _ (by simp only [ordReg]; omega)]
  rw [← count]
  rcases known : (ordSlot s n a o).1
  · rw [ordSlot_new known] at settled
    simp only [orderedAdd, round, settled, known, slotOpened_new known, slotRuns, slotEntry, ordSlot_new known,
      Bool.false_eq_true, if_false]
    rfl
  · simp only [orderedAdd, round, settled, known, good known, slotOpened_known known, slotRuns, slotEntry, if_true]

theorem orderedAdd_unbacked (round : ordRound s n = some o)
    (settled : refetching s (ordSlot s n a o).2.2.1 (ordSlot s n a o).2.2.2 = none)
    (good : (ordSlot s n a o).1 = true → spmBadIn s (ordSlot s n a o).2.1 4 = none)
    (unbacked : ∀ x ∈ slotRuns s n a o, backOver s x.1 x.2.length = []) : orderedAdd s n a false =
      (counterAdvance (slotStored s n a o) (regBits s (ordReg n 5) 11 0) a.len, .done (List.replicate a.len 0)) := by
  rw [orderedAdd_stores round settled good, spmCommit_unbacked (u := slotStored s n a o)]
  · rfl
  · rw [storeRuns_eq]
    exact writeThrough_unbacked fun x hx => (slotStored_backOver ..).trans (unbacked x hx)

theorem orderedAdd_backed (round : ordRound s n = some o)
    (settled : refetching s (ordSlot s n a o).2.2.1 (ordSlot s n a o).2.2.2 = none)
    (good : (ordSlot s n a o).1 = true → spmBadIn s (ordSlot s n a o).2.1 4 = none)
    (backed : ∃ x ∈ slotRuns s n a o, backOver s x.1 x.2.length ≠ []) : orderedAdd s n a false =
      (sentHome (slotStored s n a o) a (slotRuns s n a o) (some (regBits s (ordReg n 5) 11 0, a.len)) (List.replicate a.len 0),
        .through) := by
  rw [orderedAdd_stores round settled good, spmCommit_backed]
  rw [storeRuns_eq]
  obtain ⟨x, hx, some'⟩ := backed
  exact writeThrough_backed ⟨x, hx, fun none' => some' ((slotStored_backOver ..).symm.trans none')⟩

theorem orderedAdd_bad (round : ordRound s n = some o)
    (settled : refetching s (ordSlot s n a o).2.2.1 (ordSlot s n a o).2.2.2 = none) (known : (ordSlot s n a o).1 = true) {w : Nat}
    (bad : spmBadIn s (ordSlot s n a o).2.1 4 = some w) : orderedAdd s n a false = meetBad s w false := by
  simp only [orderedAdd, round, settled, known, bad, if_true]

theorem orderedAdd_waits (round : ordRound s n = some o) {b : Nat}
    (wait : refetching s (ordSlot s n a o).2.2.1 (ordSlot s n a o).2.2.2 = some b) : orderedAdd s n a false = (s, .refetch b) := by
  simp only [orderedAdd, round, wait]

theorem spmAccess_ordered {owner : Option Nat} (wait : refetchWait s a = none) (add : ordAdd s a = some n) :
    spmAccess s owner a false = orderedAdd s n a false := by
  simp only [spmAccess, wait, add]

end

/-- The home copy of a store within one backed region (R183). -/
theorem homeWrite_one {s : State} {off n : Nat} {bs : List Byte} (who : Who) (one : backOver s off bs.length = [n])
    (low : backBase s n ≤ off) (high : off + bs.length ≤ backBase s n + backSize s n) :
    homeWrite s off bs who = cmpSend s { kind := .write, addr := backHome s n + (off - backBase s n), len := bs.length
                                         data := bs, who := who } := by
  have first : max off (backBase s n) = off := by omega
  have last : min (off + bs.length) (backBase s n + backSize s n) = off + bs.length := by omega
  simp [homeWrite, one, first, last]

/-- The state in which the last home copy of a write is acknowledged. -/
def homeEnded (s : State) (key : Nat) : State :=
  s.refetch.foldl (fun u x => if x.key.isNone then refetchBegin u x.block else u)
    { s with throughs := dropFirst (fun x => x.key == key) s.throughs }

section
variable {s : State} {a : Access} {r : Resp} {t : Through} (asks : a.who = .through t.key)
  (here : s.throughs.find? (fun x => x.key == t.key) = some t)
include asks here

theorem deliver_through_more (more : 1 < t.left) : deliver s a r = { s with
    throughs := replaceFirst (fun x => x.key == t.key) (fun _ => { t with
      left := t.left - 1, failed := t.failed || causeOf r != 0 }) s.throughs } := by
  have left : (t.left - 1 != 0) = true := by simp; omega
  simp only [deliver, asks, here, left, if_true]

theorem deliver_through_done (last : t.left = 1) (good : (t.failed || causeOf r != 0) = false) :
    deliver s a r = deliverBase (match t.count with
      | some c => counterAdvance (homeEnded s t.key) c.1 c.2
      | none => homeEnded s t.key) t.acc (.ok t.old) := by
  simp only [deliver, asks, here, last, good, Nat.sub_self, bne_self_eq_false, Bool.false_eq_true, if_false]
  rfl

variable (last : t.left = 1) (bad : (t.failed || causeOf r != 0) = true)
include last bad

theorem deliver_through_failed (other : ∀ x, t.acc.who ≠ .load x) : deliver s a r = deliverBase (homeEnded s t.key) t.acc .dataErr := by
  simp only [deliver, asks, here, last, bad, Nat.sub_self, bne_self_eq_false, Bool.false_eq_true, if_false, if_true]
  rfl

theorem deliver_through_late {x : Nat} (load : t.acc.who = .load x) : deliver s a r = deliverBase (threadUpd (homeEnded s t.key) x
    fun y => { y with deferred := y.deferred.orElse fun _ => some (5, BitVec.ofNat 64 t.acc.addr) }) t.acc (.ok t.old) := by
  simp only [deliver, asks, here, last, bad, load, Nat.sub_self, bne_self_eq_false, Bool.false_eq_true, if_false, if_true]
  rfl

end

/-! The service of a bank. -/

section
variable {s : State} {bank : Nat} {r : BankReq} (acts : live s = true) (oldest : s.xbr.find? (fun r => r.bank == bank) = some r)
include acts oldest

theorem exec_bankAccess_asleep {i : Nat} (asleep : (((bankAhead s bank r).1 ++ [r]).flatMap fun x =>
      (accBanks x.acc).map bankIsland).find? s.power.retained.contains = some i) : exec (.bankAccess bank) s =
    .next { s with power := { s.power with retained := s.power.retained.erase i, waking := setInsert s.power.waking i } } := by
  show execBankAccess bank s = _
  simp only [execBankAccess, whenLive, acts, oldest, asleep, if_true]

variable (awake : (((bankAhead s bank r).1 ++ [r]).flatMap fun x => (accBanks x.acc).map bankIsland).find?
  s.power.retained.contains = none)
include awake

theorem exec_bankAccess_waking (waking : (((bankAhead s bank r).1 ++ [r]).flatMap fun x =>
      (accBanks x.acc).map bankIsland).any s.power.waking.contains = true) : exec (.bankAccess bank) s = .next s := by
  show execBankAccess bank s = _
  simp only [execBankAccess, whenLive, acts, oldest, awake, waking, if_true]

theorem exec_bankAccess_serves (up : (((bankAhead s bank r).1 ++ [r]).flatMap fun x =>
      (accBanks x.acc).map bankIsland).any s.power.waking.contains = false) : exec (.bankAccess bank) s =
    .next (spmServe (serveQueued { s with xbr := (bankAhead s bank r).2 } (bankAhead s bank r).1)
      (ownerOf (serveQueued { s with xbr := (bankAhead s bank r).2 } (bankAhead s bank r).1) r.acc.who) r.acc false) := by
  show execBankAccess bank s = _
  simp only [execBankAccess, whenLive, acts, oldest, awake, up, if_true, Bool.false_eq_true, if_false]

end

/-- The width that an ordered add needs (R211). -/
def SlotFits (s : State) (n : Nat) (a : Access) : Prop := a.width = if bitOf 1 (regGet s (ordReg n 4)) then 2 else 0

theorem slotFormat {s : State} {n : Nat} {a : Access} (fits : SlotFits s n a) : (if a.width = 2 then Fmt.bf16 else Fmt.fp32) =
    if bitOf 1 (regGet s (ordReg n 4)) then Fmt.bf16 else Fmt.fp32 := by
  rw [fits]
  split <;> rfl

section
variable {s : State} {n : Nat} {a : Access} {o : OrdRound} (single : a.parts = [])
  (add : ordAdd s a = some n) (round : ordRound s n = some o) (notHeld : heldOver s (offsetOf a.addr) a.len = false)
include single add round notHeld

theorem ordered_refusal : spmRefusal s a =
    if a.width != (if bitOf 1 (regGet s (ordReg n 4)) then 2 else 0) then some reasonSize
    else if !(ordSlot s n a o).1 && o.tags.length ≥ regBits s (ordReg n 4) 10 4 then some reasonDenied
    else if heldOver s (ordSlot s n a o).2.2.1 (ordSlot s n a o).2.2.2 then some reasonHeld else none := by
  rw [spmRefusal_clear single (.inr notHeld), add]
  simp only [ordAddRefusal, round]

theorem ordered_size (misfit : ¬SlotFits s n a) : spmRefusal s a = some reasonSize := by
  rw [ordered_refusal single add round notHeld, if_pos (by simpa [SlotFits] using misfit)]

variable (fits : SlotFits s n a)
include fits

theorem ordered_denied (full : ¬((ordSlot s n a o).1 = true ∨ o.tags.length < regBits s (ordReg n 4) 10 4)) :
    spmRefusal s a = some reasonDenied := by
  rw [ordered_refusal single add round notHeld, if_neg (by simpa [SlotFits] using fits), if_pos (by simpa [not_or] using full)]

variable (room : (ordSlot s n a o).1 = true ∨ o.tags.length < regBits s (ordReg n 4) 10 4)
include room

theorem ordered_held : spmRefusal s a =
    if heldOver s (ordSlot s n a o).2.2.1 (ordSlot s n a o).2.2.2 then some reasonHeld else none := by
  have some' : ¬(!(ordSlot s n a o).1 && decide (o.tags.length ≥ regBits s (ordReg n 4) 10 4)) = true := by
    rcases room with known | free
    · simp [known]
    · simp [free]
  rw [ordered_refusal single add round notHeld, if_neg (by simpa [SlotFits] using fits), if_neg some']

end

/-- Settles O38: the bank's arm serves the access in the state that the older ones have left, and the service goes by what
the access meets. -/
theorem banksServeInOrder : Obligations.BanksServeInOrder := by
  unfold Obligations.BanksServeInOrder
  refine ⟨fun s bank r acts oldest single => ?_, fun s off n bs who one low high => homeWrite_one who one low high,
    fun s a r t asks here => ⟨deliver_through_more asks here, deliver_through_done asks here,
      deliver_through_failed asks here, fun x last bad => deliver_through_late asks here last bad⟩⟩
  refine ⟨fun i asleep => exec_bankAccess_asleep acts oldest asleep,
    fun awake waking => exec_bankAccess_waking acts oldest awake waking, fun awake up => ?_⟩
  have run := exec_bankAccess_serves acts oldest awake up
  generalize serveQueued { s with xbr := (bankAhead s bank r).2 } (bankAhead s bank r).1 = v at run ⊢
  rw [run]
  generalize r.acc = a at single ⊢
  refine ⟨fun read unordered wait good => ?_, fun write plain apart data => ?_, fun atomic plain apart noAdd => ?_,
    fun write ⟨notHeld, unordered, settled, good⟩ apart backed data => ?_,
    fun atomic ⟨notHeld, unordered, settled, good⟩ apart backed noAdd => ?_, fun changes held => ?_,
    fun n o add round notHeld => ?_, fun w read unordered wait bad => ?_, fun b allowed wait => ?_⟩
  · exact congrArg _ ((spmServe_read single read (spmRefusal_none single (.inl read) (by simp [ordAdd, read]) unordered) wait).1 good)
  · have served := spmServe_write (owner := ownerOf v a.who) single apart plain write data
    refine ⟨fun none' => ?_, fun c some' => ?_⟩
    · rw [none'] at served
      exact congrArg _ served
    · rw [some'] at served
      exact congrArg _ served
  · exact congrArg _ (spmServe_atomic single apart plain atomic noAdd)
  · exact congrArg _ (spmServe_write_home single apart notHeld unordered settled good backed write data)
  · exact congrArg _ (spmServe_atomic_home single apart notHeld unordered settled good backed atomic noAdd)
  · exact congrArg _ (spmServe_refused (spmRefusal_held single changes held))
  · refine ⟨fun misfit => congrArg _ (spmServe_refused (ordered_size single add round notHeld misfit)),
      fun fits full => congrArg _ (spmServe_refused (ordered_denied single add round notHeld fits full)),
      fun fits room held => congrArg _ (spmServe_refused ((ordered_held single add round notHeld fits room).trans (if_pos held))),
      fun fits room open' wait => ?_⟩
    have allowed : spmRefusal v a = none := (ordered_held single add round notHeld fits room).trans (if_neg (by simp [open']))
    have access := spmAccess_ordered (owner := ownerOf v a.who) wait add
    refine ⟨fun b refetch => congrArg _ (spmServe_refetch allowed (access.trans (orderedAdd_waits round refetch))),
      fun settled => ⟨fun w known bad => ?_, fun canon good => ?_⟩⟩
    · have serves := spmServe_meetBad allowed (access.trans (orderedAdd_bad round settled known bad))
      exact ⟨fun unbacked => congrArg _ (serves.1 unbacked), fun n backed => congrArg _ (serves.2 n backed)⟩
    · rw [← slotFormat fits]
      refine ⟨slotStored v n a o, slotStored_entry canon.spm, fun x apart => slotStored_elsewhere canon.spm apart,
        slotStored_tags round, fun new => slotStored_seen canon new ?_, slotStored_counter,
        fun unbacked => congrArg _ (spmServe_done allowed (access.trans (orderedAdd_unbacked round settled good unbacked))),
        fun backed => congrArg _ (spmServe_through allowed (access.trans (orderedAdd_backed round settled good backed)))⟩
      have slots : regBits v (ordReg n 4) 10 4 < 128 := Nat.mod_lt _ (by decide)
      rcases room with known | free
      · rw [new] at known
        cases known
      · omega
  · have serves := (spmServe_read (owner := ownerOf v a.who) single read
      (spmRefusal_none single (.inl read) (by simp [ordAdd, read]) unordered) wait).2 w bad
    exact ⟨fun unbacked => congrArg _ (serves.1 unbacked), fun n backed => congrArg _ (serves.2 n backed)⟩
  · exact congrArg _ (spmServe_waits allowed wait)

end Sys2Proof.Machine
end

section
/-! The test access port (R176, R358, R385 to R387). -/
namespace Sys2Proof.Machine

/-! The answer to a debug access. -/

section
variable {s : State} {b : Access} {key : Nat} (asks : b.who = .debug key) (waits : s.tap.key = some key)
include asks waits

theorem deliver_debug_ok (bs : List Byte) : deliver s b (.ok bs) = { s with tap := { s.tap with
    status := 0, data := if b.kind = .read then BitVec.ofNat 32 (leNat bs) else s.tap.data } } := by
  simp only [deliver, deliverBase, asks, answerDebug, waits, bne_self_eq_false, Bool.false_eq_true, if_false]

theorem deliver_debug_refused (n : Nat) : deliver s b (.refused n) = { s with tap := { s.tap with status := 3 } } := by
  simp only [deliver, deliverBase, asks, answerDebug, waits, bne_self_eq_false, Bool.false_eq_true, if_false]

end

/-! The access that a scan of REG_ACCESS starts. -/

/-- The access of REG_ACCESS. -/
def debugReq (s : State) (off : Nat) (wr : Bool) (data : Word) : Access :=
  { kind := if wr then .write else .read, addr := ownAddr s off, len := 4
    data := if wr then toLe 4 data.toNat else [], src := ownId s, steward := true }

/-- The port once a scan of REG_ACCESS has shifted the result of the last access out and takes the next. -/
def scanned (s : State) (off : BitVec 40) (wr : Bool) (data : Word) : State :=
  { s with
    tap := { s.tap with ir := 0x20, offset := off, wr := wr, data := if wr then data else 0, status := 1, key := none
                        tdo := tdoBits 80 (tapWord s.tap) }
    readout := s.tap.data.setWidth 64 }

/-- The port once the access is under way at its bank. -/
def debugBusy (s : State) (off : BitVec 40) (wr : Bool) (data : Word) : State :=
  { scanned s off wr data with
    nextId := s.nextId + 1, tap := { (scanned s off wr data).tap with key := some s.nextId } }

theorem offsetOf_ownAddr {s : State} {off : Nat} (h : off < 2 ^ 40) : offsetOf (ownAddr s off) = off := by
  rw [offsetOf, ownAddr, Nat.mul_add_mod', Nat.mod_eq_of_lt h]

theorem mapRefusal_scanned (s : State) (off : BitVec 40) (wr : Bool) (data : Word) (a : Access) :
    mapRefusal (scanned s off wr data) a = mapRefusal s a := by
  have spm (o n : Nat) : inSpm (scanned s off wr data) o n = inSpm s o n := rfl
  simp only [mapRefusal, spm]

/-! How the access starts. -/

section
variable {s : State} {off : Nat} {wr : Bool} {data : Word}

theorem debugAccess_closed (closed : (live s && debugOpen s) = false) :
    debugAccess s off wr data = { s with tap := { s.tap with status := 2 } } := by
  simp only [debugAccess, closed, Bool.not_false, if_true]

variable (admitted : (live s && debugOpen s) = true)
include admitted

theorem debugAccess_unaligned (unaligned : off % 4 ≠ 0) :
    debugAccess s off wr data = debugRefuse s (debugReq s off wr data) reasonSize := by
  have odd : (off % 4 != 0) = true := by simpa using unaligned
  simp only [debugAccess, admitted, odd, Bool.not_true, Bool.false_eq_true, if_false, if_true]
  rfl

variable (aligned : off % 4 = 0)
include aligned

theorem debugAccess_unmapped {n : Nat} (unmapped : mapRefusal s (debugReq s off wr data) = some n) :
    debugAccess s off wr data = debugRefuse s (debugReq s off wr data) n := by
  rw [debugReq] at unmapped
  simp only [debugAccess, admitted, aligned, unmapped, bne_self_eq_false, Bool.not_true, Bool.false_eq_true, if_false]
  rfl

theorem debugAccess_inside (mapped : mapRefusal s (debugReq s off wr data) = none) :
    debugAccess s off wr data = debugInside s (debugReq s off wr data) off wr data := by
  rw [debugReq] at mapped
  simp only [debugAccess, admitted, aligned, mapped, bne_self_eq_false, Bool.not_true, Bool.false_eq_true, if_false]
  rfl

end

section
variable {s : State} {off : BitVec 40} {wr : Bool} {data : Word} (alive : s.boot.stopped = false)
include alive

theorem exec_regAccess : exec (.regAccess off wr data) s = .next (debugAccess (scanned s off wr data) off.toNat wr data) := by
  show execRegAccess off wr data s = _
  simp only [execRegAccess, tapAlive, alive, Bool.not_false, Bool.not_true, Bool.false_eq_true, if_false]
  rfl

theorem exec_regAccess_closed (closed : (live s && debugOpen s) = false) : exec (.regAccess off wr data) s =
    .next { scanned s off wr data with tap := { (scanned s off wr data).tap with status := 2 } } :=
  (exec_regAccess alive).trans (congrArg _ (debugAccess_closed (s := scanned s off wr data) closed))

variable (admitted : (live s && debugOpen s) = true)
include admitted

/-- A refused access is recorded, and its STATUS says so. -/
theorem exec_regAccess_unaligned (unaligned : off.toNat % 4 ≠ 0) : exec (.regAccess off wr data) s =
    .next (debugRefuse (scanned s off wr data) (debugReq s off.toNat wr data) reasonSize) :=
  (exec_regAccess alive).trans (congrArg _ (debugAccess_unaligned (s := scanned s off wr data) admitted unaligned))

theorem exec_regAccess_unmapped (aligned : off.toNat % 4 = 0) {n : Nat}
    (unmapped : mapRefusal s (debugReq s off.toNat wr data) = some n) : exec (.regAccess off wr data) s =
    .next (debugRefuse (scanned s off wr data) (debugReq s off.toNat wr data) n) :=
  (exec_regAccess alive).trans (congrArg _ (debugAccess_unmapped (s := scanned s off wr data) admitted aligned
    ((mapRefusal_scanned ..).trans unmapped)))

variable (aligned : off.toNat % 4 = 0)
  (mapped : mapRefusal s (debugReq s off.toNat wr data) = none)
include aligned mapped

theorem exec_regAccess_inside : exec (.regAccess off wr data) s =
    .next (debugInside (scanned s off wr data) (debugReq s off.toNat wr data) off.toNat wr data) :=
  (exec_regAccess alive).trans (congrArg _ (debugAccess_inside (s := scanned s off wr data) admitted aligned
    ((mapRefusal_scanned ..).trans mapped)))

/-- A word of near scratchpad for which nothing older waits: its bank serves the access. -/
theorem exec_regAccess_near (near : inNear s off.toNat 4 = true) (low : off.toNat < regBase) (quiet : Quiet s off.toNat 4) :
    exec (.regAccess off wr data) s = .next (spmServe (debugBusy s off wr data) none
      { debugReq s off.toNat wr data with who := .debug s.nextId } false) := by
  have near' : inNear (scanned s off wr data) off.toNat 4 = true := near
  have there : offsetOf (debugReq s off.toNat wr data).addr = off.toNat := offsetOf_ownAddr off.isLt
  have quiet' : Quiet (debugBusy s off wr data) (offsetOf (debugReq s off.toNat wr data).addr) 4 := by
    rw [there]
    exact ⟨quiet.awake, quiet.clear, quiet.past⟩
  rw [exec_regAccess_inside alive admitted aligned mapped, debugInside]
  simp only [near', Bool.or_true, Bool.not_true, Bool.false_eq_true, if_false, if_neg (Nat.not_le.2 low)]
  exact congrArg _ (serveNow_quiet rfl quiet')

end

/-! The write of a backed word, whose home copy is awaited (R183, R386). -/

theorem sentHome_homed (u : State) (a : Access) (runs : List (Nat × List Byte)) (count : Option (Nat × Nat)) (old : List Byte) :
    Homed u (sentHome u a runs count old) ∧
    (sentHome u a runs count old).throughs.map (·.acc) = u.throughs.map (·.acc) ++ [a] := by
  have sent := foldl_sent (f := fun (h : State × Nat) (r : Nat × List Byte) =>
    ((homeWrite h.1 r.1 r.2 (.through (newId u).1)).1, h.2 + (homeWrite h.1 r.1 r.2 (.through (newId u).1)).2))
    (fun h r => homeWrite_sent ..) runs ((newId u).2, 0)
  refine ⟨((newId_homed u).trans sent.homed).trans (throughs_homed _ _), ?_⟩
  obtain ⟨c, d, n, same⟩ := sent
  simp only [sentHome, List.map_append, List.map_cons, List.map_nil]
  have kept := congrArg State.throughs same
  exact congrArg (fun ts : List Through => ts.map (·.acc) ++ [a]) kept

theorem spmByte_homed {u w : State} (h : Homed u w) (x : Nat) : spmByte w x = spmByte u x := by
  obtain ⟨_, _, _, _, _, rfl⟩ := h
  rfl

/-- A write of a whole word meets no bad word: the only one that it overlaps is the one it fills. -/
theorem blockingWord_word {s : State} {a : Access} (single : a.parts = []) (kind : a.kind = .write) (len : a.len = 4)
    (aligned : offsetOf a.addr % 4 = 0) (words : ∀ w ∈ s.spmBad, w % 4 = 0) : blockingWord s a = none := by
  simp only [blockingWord, kind, accParts_single single, List.any_cons, List.any_nil, Bool.or_false, List.find?_eq_none, len]
  intro w bad
  have word := words w bad
  simp only [overlap, fullWords, Bool.and_eq_true, decide_eq_true_eq, Bool.not_eq_true', List.contains_eq_mem, List.mem_map,
    List.mem_range, decide_eq_false_iff_not, not_and, not_not, and_imp]
  intro _ _ _ below above
  exact ⟨0, by omega, by omega⟩

section
variable {s : State} {off : BitVec 40} {wr : Bool} {data : Word}

/-- A free range stays free while the port has an access under way. -/
theorem OwnFree.debugBusy {addr len : Nat} (h : OwnFree s addr len) : OwnFree (debugBusy s off wr data) addr len :=
  ⟨⟨⟨⟨h.some, h.own, h.fits, h.unbacked, h.unordered, h.settled, h.good⟩, ⟨h.quiet.awake, h.quiet.clear, h.quiet.past⟩⟩,
    ⟨h.apart.rings, h.apart.cqs, h.apart.saves, h.apart.routes⟩⟩, h.short, h.page⟩

/-- The access while its bank has it. -/
def debugWaits (s : State) (off : Nat) (wr : Bool) (data : Word) : Access :=
  { debugReq s off wr data with who := .debug s.nextId }

theorem spmRefusal_busy : spmRefusal (debugBusy s off wr data) (debugWaits s off.toNat wr data) =
    spmRefusal s (debugReq s off.toNat wr data) := rfl

theorem stored_tap {t u : State} (h : Stored t u) : u.tap = t.tap := by
  obtain ⟨⟨_, _, _, _, _, _, _, _, _, rfl⟩, -⟩ := h
  rfl

theorem wrote_port {t u : State} (h : Wrote t u) : u.tap = t.tap ∧ u.throughs = t.throughs := by
  obtain ⟨⟨_, _, _, _, _, _, _, _, _, _, _, _, rfl⟩, -⟩ := h
  exact ⟨rfl, rfl⟩

theorem homed_tap {t u : State} (h : Homed t u) : u.tap = t.tap := by
  obtain ⟨_, _, _, _, _, rfl⟩ := h
  rfl

/-- A free word is written at once. -/
theorem debug_writes (free : OwnFree s (debugReq s off.toNat true data).addr 4) :
    spmServe (debugBusy s off true data) none (debugWaits s off.toNat true data) false =
      { spmWrite (debugBusy s off true data) none off.toNat (toLe 4 data.toNat) with
        tap := { (spmWrite (debugBusy s off true data) none off.toNat (toLe 4 data.toNat)).tap with status := 0 } } := by
  have there : offsetOf (debugReq s off.toNat true data).addr = off.toNat := offsetOf_ownAddr off.isLt
  have stored := spmWrite_stored (debugBusy s off true data) none off.toNat (toLe 4 data.toNat)
  have free' : OwnFree (Machine.debugBusy s off true data) (debugReq s off.toNat true data).addr 4 := free.debugBusy
  have served := spmServe_write (owner := none) (a := debugWaits s off.toNat true data) rfl free'.apart free'.toOwnPlain rfl
    (length_toLe ..)
  rw [wakeBanks_awake free'.quiet.awake] at served
  refine served.trans ?_
  show deliver (spmWrite (Machine.debugBusy s off true data) none (offsetOf (debugReq s off.toNat true data).addr)
    (toLe 4 data.toNat)) _ _ = _
  rw [there, deliver_debug_ok (key := s.nextId) rfl (by rw [stored_tap stored]; rfl)]
  rfl

/-- A refused access is answered with STATUS 3. -/
theorem debug_refuses {n : Nat} (refused : spmRefusal s (debugReq s off.toNat wr data) = some n) :
    spmServe (debugBusy s off wr data) none (debugWaits s off.toNat wr data) false =
      { noteRefusal (debugBusy s off wr data) false (ownId s) (debugReq s off.toNat wr data).addr n with
        tap := { (noteRefusal (debugBusy s off wr data) false (ownId s) (debugReq s off.toNat wr data).addr n).tap with
          status := 3 } } := by
  have noAdd : ordNoteRefused (noteRefusal (Machine.debugBusy s off wr data) false (ownId s) (debugReq s off.toNat wr data).addr n)
      (debugWaits s off.toNat wr data) =
        noteRefusal (Machine.debugBusy s off wr data) false (ownId s) (debugReq s off.toNat wr data).addr n := by
    cases wr <;> rfl
  rw [spmServe_refused (spmRefusal_busy.trans refused)]
  show deliver (ordNoteRefused (noteRefusal (Machine.debugBusy s off wr data) false (ownId s) (debugReq s off.toNat wr data).addr n)
      (debugWaits s off.toNat wr data)) _ _ = _
  rw [noAdd, deliver_debug_refused (key := s.nextId) rfl rfl]

/-- The write of a backed word stores it and awaits its home copy. -/
theorem debug_writes_home (canon : Canon s) (words : ∀ w ∈ s.spmBad, w % 4 = 0) (aligned : off.toNat % 4 = 0)
    (allowed : spmRefusal s (debugReq s off.toNat true data) = none)
    (settled : refetchWait s (debugReq s off.toNat true data) = none) (backed : backOver s off.toNat 4 ≠ []) :
    ∃ w, spmServe (debugBusy s off true data) none (debugWaits s off.toNat true data) false = w ∧
      w.tap = (debugBusy s off true data).tap ∧ spmBytes w off.toNat 4 = toLe 4 data.toNat ∧
      (∀ x, ¬(off.toNat ≤ x ∧ x < off.toNat + 4) → spmByte w x = spmByte s x) ∧
      w.throughs.map (·.acc) = s.throughs.map (·.acc) ++ [debugWaits s off.toNat true data] := by
  have there : offsetOf (debugWaits s off.toNat true data).addr = off.toNat := offsetOf_ownAddr off.isLt
  have good : blockingWord (debugBusy s off true data) (debugWaits s off.toNat true data) = none :=
    blockingWord_word rfl rfl rfl (there.symm ▸ aligned) words
  have access := spmAccess_write (s := Machine.debugBusy s off true data) (owner := none) (a := debugWaits s off.toNat true data)
    rfl rfl settled good (length_toLe ..)
  have wrote := storeOne_wrote none (debugWaits s off.toNat true data) (debugBusy s off true data) (off.toNat, toLe 4 data.toNat)
  have len : (toLe 4 data.toNat).length = 4 := length_toLe ..
  rw [there, spmCommit_backed (u := sentHome (storeOne none (debugWaits s off.toNat true data) (Machine.debugBusy s off true data)
    (off.toNat, toLe 4 data.toNat)) (debugWaits s off.toNat true data) [(off.toNat, toLe 4 data.toNat)] none [])] at access
  · obtain ⟨homed, accs⟩ := sentHome_homed (storeOne none (debugWaits s off.toNat true data) (Machine.debugBusy s off true data)
      (off.toNat, toLe 4 data.toNat)) (debugWaits s off.toNat true data) [(off.toNat, toLe 4 data.toNat)] none []
    refine ⟨_, spmServe_through allowed access, (homed_tap homed).trans (wrote_port wrote).1, ?_, fun x apart => ?_, ?_⟩
    · have read := spmBytes_storeOne (owner := none) (a := debugWaits s off.toNat true data)
        (s := Machine.debugBusy s off true data) (r := (off.toNat, toLe 4 data.toNat)) canon.spm
      rw [len] at read
      exact (List.map_congr_left fun i _ => spmByte_homed homed _).trans read
    · rw [spmByte_homed homed, spmByte_storeOne x (by rw [len]; omega)]
      rfl
    · rw [accs, (wrote_port wrote).2]
      rfl
  · rw [storeRuns_eq]
    refine writeThrough_backed ⟨(off.toNat, toLe 4 data.toNat), List.mem_singleton_self _, fun none' => backed ?_⟩
    rw [len] at none'
    exact (wrote.2.backOver_eq ..).symm.trans none'

end

/-- Settles O50: each scan of REG_ACCESS by where its offset lies, and the other instructions of the port from their
definitions. -/
theorem testAccessPort : Obligations.TestAccessPort := by
  unfold Obligations.TestAccessPort
  intro s
  refine ⟨fun stopped segs code off wr data tdi c listed => ?_, ?_, fun x => ?_, fun key b asks waits =>
    ⟨deliver_debug_ok asks waits, deliver_debug_refused asks waits⟩, fun alive => ?_⟩
  · have dead : tapAlive s = false := by rw [tapAlive, stopped]; rfl
    simp only [List.mem_cons, List.not_mem_nil, or_false] at listed
    rcases listed with rfl | rfl | rfl | rfl | rfl
    · show execTrstN s = _
      rw [execTrstN, tapUpd, dead]
      rfl
    · show execIdcode s = _
      rw [execIdcode, dead]
      rfl
    · show execIjtagSel segs s = _
      rw [execIjtagSel, tapUpd, dead]
      rfl
    · show execRegAccess off wr data s = _
      rw [execRegAccess, dead]
      rfl
    · show execBypass ⟨code, tdi⟩ s = _
      rw [execBypass, tapUpd, dead]
      simp
  · simp [debugOpen]
  · rw [segOpen, segBits]
    cases live s && debugOpen s <;> simp [bitOf]
  have alive' : tapAlive s = true := by rw [tapAlive, alive]; rfl
  refine ⟨?_, ?_, fun segs admitted => ?_, fun segs closed => ?_, fun code id sel reg => ⟨?_, fun tdi b => ?_⟩,
    fun off wr data => ⟨exec_regAccess_closed alive, fun admitted => ?_⟩⟩
  · show execTrstN s = _
    rw [execTrstN, tapUpd, alive']
    rfl
  · show execIdcode s = _
    rw [execIdcode, tapUpd, alive']
    rfl
  · show execIjtagSel segs s = _
    rw [execIjtagSel, tapUpd, alive', segBits, admitted]
    rfl
  · show execIjtagSel segs s = _
    have bits : segments.reverse.map (fun x => bitOf (segPlace x) (0 : BitVec 8).toNat) = List.replicate 8 false := by decide
    rw [execIjtagSel, tapUpd, alive', segBits, closed]
    simp only [Bool.false_eq_true, if_false, if_true, bits]
  · show execBypass ⟨code, []⟩ s = _
    rw [execBypass, if_neg (by simpa [not_or] using ⟨⟨id, sel⟩, reg⟩), tapUpd, alive']
    rfl
  · show execBypass ⟨code, tdi ++ [b]⟩ s = _
    rw [execBypass, if_neg (by simpa [not_or] using ⟨⟨id, sel⟩, reg⟩), tapUpd, alive']
    simp
  refine ⟨fun unaligned => ?_, fun n aligned unmapped => ?_, fun aligned mapped far outside => ?_,
    fun r at' aligned inside mapped => ?_, fun aligned mapped near low quiet => ?_⟩
  · exact exec_regAccess_unaligned alive admitted unaligned
  · exact exec_regAccess_unmapped alive admitted aligned unmapped
  · rw [exec_regAccess_inside alive admitted aligned mapped, debugInside, if_pos]
    · rfl
    · have far' : inNear (scanned s off wr data) off.toNat 4 = false := far
      rw [far', Bool.or_false, Bool.not_eq_true', Bool.and_eq_false_iff, decide_eq_false_iff_not, decide_eq_false_iff_not]
      omega
  · have rel : off.toNat % regBase = r := by rw [at', regBase]; omega
    have place : (regBase ≤ off.toNat && off.toNat < regBase + 0xE00000) = true := by
      rw [Bool.and_eq_true, decide_eq_true_eq, decide_eq_true_eq]; omega
    have aligned' : off.toNat % 4 = 0 := by rw [at', regBase]; omega
    have run := exec_regAccess_inside alive admitted aligned' mapped
    rw [debugInside, if_neg (by rw [place]; simp), if_pos (by omega), rel] at run
    refine ⟨?_, ?_⟩
    · rintro rfl
      exact run
    · rintro rfl
      exact run
  · have run := exec_regAccess_near alive admitted aligned mapped near low quiet
    have there : offsetOf (debugReq s off.toNat wr data).addr = off.toNat := offsetOf_ownAddr off.isLt
    refine ⟨?_, ?_, fun n refused => run.trans (congrArg _ (debug_refuses refused)),
      fun b allowed waits => run.trans (congrArg _ (spmServe_waits (spmRefusal_busy.trans allowed) waits)), ?_⟩
    · rintro rfl free
      exact run.trans (congrArg _ (debug_writes free))
    · rintro rfl allowed settled
      have serves := spmServe_read (s := debugBusy s off false data) (owner := none) (a := debugWaits s off.toNat false data) rfl rfl
        (spmRefusal_busy.trans allowed) settled
      rw [show offsetOf (debugWaits s off.toNat false data).addr = off.toNat from there] at serves
      refine ⟨fun good => ?_, fun w bad unbacked => ?_, fun w n bad backed => ?_⟩
      · refine run.trans (congrArg _ ((serves.1 good).trans ?_))
        exact deliver_debug_ok (key := s.nextId) rfl rfl _
      · exact run.trans (congrArg _ ((serves.2 w bad).1 unbacked))
      · exact run.trans (congrArg _ ((serves.2 w bad).2 n backed))
    · rintro rfl canon words allowed settled backed
      obtain ⟨w, served, tap, bytes, others, accs⟩ := debug_writes_home canon words aligned allowed settled backed
      exact ⟨w, run.trans (congrArg _ served), tap, bytes, others, s.nextId, accs, by rw [tap]; rfl⟩

end Sys2Proof.Machine
end

section
/-! What an error that is raised spares: the banks' queue, the blocks under refetch, every byte of scratchpad outside the
log, and the registers that are not its own (R311 to R317). -/
namespace Sys2Proof.Machine

/-- The registers that raising an error may change: the injection's, the last refusal's, the ports' and the log's. -/
def LogReg (o : Nat) : Prop :=
  o = 0x700200 ∨ (0x100044 ≤ o ∧ o ≤ 0x100050) ∨ (0x900100 ≤ o ∧ o < 0x900110) ∨ 0xC00014 ≤ o

/-- A state that differs from another in no byte outside an area, in no register but those of `LogReg`, in no request
that waits at a bank and in no block under refetch, has no new word of bad parity where no injection is armed, and has
the same life unless it `stops`. -/
structure Spares (stops : Prop) (area : Nat → Prop) (s u : State) : Prop where
  boot : stops ∨ u.boot = s.boot
  xbr : u.xbr = s.xbr
  blocks : u.refetch.map (·.block) = s.refetch.map (·.block)
  bytes : ∀ x, ¬area x → spmByte u x = spmByte s x
  parity : s.inject = none → u.inject = none ∧ ∀ w ∈ u.spmBad, w ∈ s.spmBad
  regs : ∀ o, ¬LogReg o → regGet u o = regGet s o

section
variable {stops : Prop} {area : Nat → Prop} {s t u : State}

theorem Spares.refl (s : State) : Spares stops area s s := ⟨.inr rfl, rfl, rfl, fun _ _ => rfl, fun h => ⟨h, fun _ => id⟩, fun _ _ => rfl⟩

theorem Spares.trans (h : Spares stops area s t) (k : Spares stops area t u) : Spares stops area s u where
  boot := h.boot.elim .inl fun same => k.boot.imp id fun same' => same'.trans same
  xbr := k.xbr.trans h.xbr
  blocks := k.blocks.trans h.blocks
  bytes x out := (k.bytes x out).trans (h.bytes x out)
  parity calm := ⟨(k.parity (h.parity calm).1).1, fun w bad => (h.parity calm).2 w ((k.parity (h.parity calm).1).2 w bad)⟩
  regs o own := (k.regs o own).trans (h.regs o own)

theorem Spares.mono {stops' : Prop} {area' : Nat → Prop} (h : Spares stops area s u) (le : ∀ x, area x → area' x)
    (or : stops → stops') : Spares stops' area' s u :=
  ⟨h.boot.imp or id, h.xbr, h.blocks, fun x out => h.bytes x (mt (le x) out), h.parity, h.regs⟩

theorem foldl_spared {α : Type} {f : State → α → State} (h : ∀ s a, Spares stops area s (f s a)) (l : List α) (s : State) :
    Spares stops area s (l.foldl f s) := by
  induction l generalizing s with
  | nil => exact .refl s
  | cons a l ih => exact (h s a).trans (ih _)

/-! Registers. -/

theorem regPut_spared {off : Nat} (own : LogReg off) (v : Nat) : Spares stops area s (regPut s off v) :=
  ⟨.inr rfl, rfl, rfl, fun _ _ => rfl, fun h => ⟨h, fun _ => id⟩, fun _ other => regGet_regPut_other s v fun same => other (same ▸ own)⟩

theorem regPutBits_spared {off : Nat} (own : LogReg off) (hi lo v : Nat) : Spares stops area s (regPutBits s off hi lo v) :=
  regPut_spared own _

theorem regPutPair_spared {off : Nat} (low : LogReg off) (high : LogReg (off + 4)) (v : Nat) :
    Spares stops area s (regPutPair s off v) := (regPut_spared low _).trans (regPut_spared high _)

theorem setEvent_spared (b : Nat) : Spares stops area s (setEvent s b) := regPutBits_spared (by simp [LogReg]) ..

theorem noteRefusal_spared (out : Bool) (src addr reason : Nat) : Spares stops area s (noteRefusal s out src addr reason) :=
  ((regPut_spared (by simp [LogReg]) _).trans (regPut_spared (by simp [LogReg]) _)).trans
    (regPutPair_spared (by simp [LogReg]) (by simp [LogReg]) _)

/-! Stores. -/

theorem wakeBanks_spared (off len : Nat) : Spares stops area s (wakeBanks s off len) := by
  unfold wakeBanks
  split
  · exact .refl s
  · exact ⟨.inr rfl, rfl, rfl, fun _ _ => rfl, fun h => ⟨h, fun _ => id⟩, fun _ _ => rfl⟩

theorem spmPut_spared {off : Nat} {bs : List Byte} (within : ∀ x, off ≤ x → x < off + bs.length → area x) :
    Spares stops area s (spmPut s off bs) where
  boot := .inr rfl
  xbr := rfl
  blocks := rfl
  bytes x out := mapGet_setAll_other (by by_contra inside; exact out (within x (by omega) (by omega)))
  parity calm := ⟨calm, fun _ bad => (List.mem_filter.1 bad).1⟩
  regs _ _ := rfl

theorem spmStore_calm (calm : s.inject = none) (off : Nat) (bs : List Byte) : spmStore s off bs = spmPut s off bs := by
  have calm' : (spmPut s off bs).inject = none := calm
  simp only [spmStore, calm']

theorem spmStore_spared {off : Nat} {bs : List Byte} (within : ∀ x, off ≤ x → x < off + bs.length → area x) :
    Spares stops area s (spmStore s off bs) := by
  have put : Spares stops area s (spmPut s off bs) := spmPut_spared within
  refine ⟨?_, ?_, ?_, fun x out => ?_, fun calm => ?_, fun o own => ?_⟩
  · obtain ⟨⟨_, _, _, _, _, _, _, _, _, same⟩, -⟩ := spmStore_stored s off bs
    rw [same]
    exact .inr rfl
  · obtain ⟨⟨_, _, _, _, _, _, _, _, _, same⟩, -⟩ := spmStore_stored s off bs
    rw [same]
  · obtain ⟨⟨_, _, _, _, _, _, _, _, _, same⟩, -⟩ := spmStore_stored s off bs
    rw [same]
  · rw [spmByte, spm_spmStore, spmLost_wrote (spmStore_stored s off bs).wrote]
    exact put.bytes x out
  · rw [spmStore_calm calm]
    exact put.parity calm
  · exact (spmStore_stored s off bs).2 o fun same => own (.inl same)

theorem noteWrite_spared (owner : Option Nat) (off len : Nat) : Spares stops area s (noteWrite s owner off len) :=
  ⟨.inr rfl, rfl, rfl, fun _ _ => rfl, fun h => ⟨h, fun _ => id⟩, fun _ _ => rfl⟩

theorem Marked.spared (h : Marked s u) : Spares stops area s u := by
  obtain ⟨_, _, _, rfl⟩ := h
  exact ⟨.inr rfl, rfl, rfl, fun _ _ => rfl, fun h => ⟨h, fun _ => id⟩, fun _ _ => rfl⟩

theorem Homed.spared (h : Homed s u) : Spares stops area s u := by
  obtain ⟨_, _, _, _, _, rfl⟩ := h
  exact ⟨.inr rfl, rfl, rfl, fun _ _ => rfl, fun h => ⟨h, fun _ => id⟩, fun _ _ => rfl⟩

theorem storeOne_spared {owner : Option Nat} {a : Access} {r : Nat × List Byte}
    (within : ∀ x, r.1 ≤ x → x < r.1 + r.2.length → area x) : Spares stops area s (storeOne owner a s r) :=
  (((wakeBanks_spared r.1 r.2.length).trans (spmStore_spared within)).trans (noteWrite_spared owner r.1 r.2.length)).trans
    (storeOne_marked owner a s r).spared

theorem waitRefetch_spared (block : Nat) (a : Access) : Spares stops area s (waitRefetch s block a) := by
  refine ⟨.inr rfl, rfl, ?_, fun _ _ => rfl, fun h => ⟨h, fun _ => id⟩, fun _ _ => rfl⟩
  show (replaceFirst _ _ s.refetch).map (·.block) = s.refetch.map (·.block)
  induction s.refetch with
  | nil => rfl
  | cons r l ih =>
    rw [replaceFirst]
    split
    · rfl
    · simp only [List.map_cons, ih]

theorem unitStore_spared {off : Nat} {bs : List Byte} (within : ∀ x, off ≤ x → x < off + bs.length → area x) :
    Spares stops area s (unitStore s off bs) := by
  unfold unitStore
  dsimp only
  split
  · exact noteRefusal_spared ..
  · split
    · exact waitRefetch_spared ..
    · have stored := storeOne_spared (stops := stops) (s := s) (owner := none) (a := { kind := .write, addr := ownAddr s off, len := bs.length, data := bs, steward := true, src := ownId s }) (r := (off, bs)) within
      exact stored.trans (writeThrough_homed ..).spared

/-! The log. -/

/-- The bytes of the error log (R312). -/
def logArea (s : State) (x : Nat) : Prop :=
  regGet s 0xC00010 % 2 ^ 27 / 64 * 64 ≤ x ∧ x < regGet s 0xC00010 % 2 ^ 27 / 64 * 64 + 16384

theorem Spares.logArea (h : Spares stops area s u) : logArea u = logArea s := by
  funext x
  rw [Machine.logArea, Machine.logArea, h.regs 0xC00010 (by simp [LogReg])]

theorem length_logBytes (osc w : Nat) (e : ErrRec) (cls : Nat) (esc : Bool) (supp : Nat) :
    (logBytes osc w e cls esc supp).length = 64 := by simp [logBytes, length_toLe]

theorem errors_spared (e : Errors) : Spares stops area s { s with errors := e } :=
  ⟨.inr rfl, rfl, rfl, fun _ _ => rfl, fun h => ⟨h, fun _ => id⟩, fun _ _ => rfl⟩

theorem eeuStatus_spared : Spares stops area s (eeuStatus s) :=
  ((regPutBits_spared (by simp [LogReg]) ..).trans (regPut_spared (by simp [LogReg]) _)).trans
    (regPutBits_spared (by simp [LogReg]) ..)

theorem deliverEntry_spared : Spares stops area s (deliverEntry s) := by
  unfold deliverEntry
  split
  · split
    · exact ((errors_spared _).trans (regPutBits_spared (by simp [LogReg]) ..)).trans eeuStatus_spared
    · exact eeuStatus_spared
  · exact eeuStatus_spared

theorem writeEntry_spared (e : ErrRec) (cls : Nat) (esc : Bool) (supp : Nat) :
    Spares stops (Machine.logArea s) s (writeEntry s e cls esc supp).1 := by
  unfold writeEntry
  dsimp only
  split
  · exact ((regPut_spared (by simp [LogReg]) _).trans (regPut_spared (by simp [LogReg]) _)).trans (setEvent_spared 4)
  · refine (((unitStore_spared fun x low high => ?_).trans (regPutBits_spared (by simp [LogReg]) ..)).trans
      (errors_spared _)).trans deliverEntry_spared
    rw [length_logBytes] at high
    have slot : logW s % 256 < 256 := Nat.mod_lt _ (by decide)
    exact ⟨by omega, by omega⟩

theorem writeFatal_spared (e : ErrRec) (cls : Nat) (esc : Bool) : Spares stops area s (writeFatal s e cls esc) := by
  unfold writeFatal
  split
  · exact .refl s
  · exact ((regPut_spared (by simp [LogReg]) _).trans (regPut_spared (by simp [LogReg]) _)).trans
      (regPutPair_spared (by simp [LogReg]) (by simp [LogReg]) _)

theorem corr_spared (c : List (Nat × Word)) : Spares stops area s { s with corr := c } :=
  ⟨.inr rfl, rfl, rfl, fun _ _ => rfl, fun h => ⟨h, fun _ => id⟩, fun _ _ => rfl⟩

theorem countCorrected_spared (res : Nat) : Spares stops area s (countCorrected s res) := by
  unfold countCorrected
  dsimp only
  generalize (if s.errors.windowNo = s.osc / 2 ^ 30 then s.errors.window else 0) + 1 = n
  have counted := errors_spared (stops := stops) (area := area) (s := s) { s.errors with window := n, windowNo := s.osc / 2 ^ 30 }
  refine counted.trans ?_
  split
  · split
    · exact (setEvent_spared 0).trans (corr_spared _)
    · exact corr_spared _
  · split
    · exact setEvent_spared 0
    · exact .refl _

theorem linksDown_spared : Spares stops area s (linksDown s) := by
  have down : Spares stops area s ([0, 1, 2, 3].foldl (fun s p => regPutBits s (0x900100 + 4 * p) 0 0 0) s) :=
    (((regPutBits_spared (by simp [LogReg]) ..).trans (regPutBits_spared (by simp [LogReg]) ..)).trans
      (regPutBits_spared (by simp [LogReg]) ..)).trans (regPutBits_spared (by simp [LogReg]) ..)
  exact down.trans ⟨.inr rfl, rfl, rfl, fun _ _ => rfl, fun h => ⟨h, fun _ => id⟩, fun _ _ => rfl⟩

/-- A stop that keeps the supply. -/
theorem stopCluster_spared (may : stops) : Spares stops area s (stopCluster s false) := by
  have told : Spares stops area s (if eeuShut s then s else setEvent s 2) := by
    split
    · exact .refl s
    · exact setEvent_spared 2
  exact (told.trans linksDown_spared).trans ⟨.inl may, rfl, rfl, fun _ _ => rfl, fun h => ⟨h, fun _ => id⟩, fun _ _ => rfl⟩

theorem suppPut_spared (k : Nat × Nat) (v : Option Nat × Nat) : Spares stops area s (suppPut s k v) := errors_spared _

end

section
variable {stops : Prop} {s : State} {e : ErrRec}

/-- A corrected error is counted and logged, or counted alone. -/
theorem raiseErr_corrected (cls : e.cls = 1) (code : e.code ≠ 0x0401) : Spares stops (logArea s) s (raiseErr s e) := by
  unfold raiseErr
  simp only [cls, code, show (1 : Nat) ≠ 3 by decide, show (1 : Nat) ≠ 4 by decide, decide_false, Bool.or_self,
    Bool.false_eq_true, if_false]
  split
  · split <;> exact .refl s
  split
  · exact .refl s
  have count := countCorrected_spared (stops := stops) (area := logArea s) (s := s) e.resource
  have entry (supp : Nat) := writeEntry_spared (stops := stops) (s := countCorrected s e.resource) e 1 false supp
  rw [count.logArea] at entry
  refine count.trans ?_
  split
  · exact suppPut_spared ..
  · split <;> exact (entry _).trans (suppPut_spared ..)

/-- An error of a descriptor or of an operation is logged; one at a resource that has an open one may stop the cluster. -/
theorem raiseErr_operation (cls : e.cls = 2) (code : e.code ≠ 0x0401) (mild : e.internal = false ∨ stops) :
    Spares stops (logArea s) s (raiseErr s e) := by
  unfold raiseErr
  simp only [cls, code, show (2 : Nat) ≠ 3 by decide, show (2 : Nat) ≠ 4 by decide, decide_false, Bool.or_self,
    Bool.false_eq_true, if_false]
  split
  · split <;> exact .refl s
  split
  · exact .refl s
  split
  next esc =>
    have may : stops := mild.resolve_left fun no => by simp [no] at esc
    exact ((writeEntry_spared ..).trans (writeFatal_spared ..)).trans (stopCluster_spared may)
  next => exact (writeEntry_spared ..).trans (setEvent_spared 1)

end

end Sys2Proof.Machine
end

section
/-! A MOVE of one row within the own scratchpad (R168, R184, R188, R190, R232). -/
namespace Sys2Proof.Machine

/-! Changes of one descriptor. -/

section
variable {s : State} {d : Nat} {x : Desc} {f : Desc → Desc}

/-- The pieces of one descriptor that are outstanding at MOV. -/
def movPieces (x : Desc) : Nat :=
  match x.phase, x.engine with
  | .running, .move m => m.inflight.length
  | _, _ => 0

theorem movOut_eq (s : State) : movOut s = (s.descs.map movPieces).foldl (· + ·) 0 := rfl

theorem map_replaceFirst {α β : Type} {p : α → Bool} {f : α → α} {g : α → β} {l : List α} {x : α} (here : l.find? p = some x)
    (same : g (f x) = g x) : (replaceFirst p f l).map g = l.map g := by
  induction l with
  | nil => rfl
  | cons y l ih =>
    rw [replaceFirst]
    by_cases h : p y = true
    · obtain rfl : y = x := by simpa [List.find?_cons, h] using here
      simp [h, same]
    · have later : l.find? p = some x := by simpa [List.find?_cons, h] using here
      simp [h, ih later]

theorem movOut_descUpd (here : descGet s d = some x) (same : movPieces (f x) = movPieces x) : movOut (descUpd s d f) = movOut s := by
  rw [movOut_eq, movOut_eq]
  exact congrArg (fun l : List Nat => l.foldl (· + ·) 0) (map_replaceFirst here same)

theorem descGet_mvUpd {f : MvRun → MvRun} {m : MvRun} (here : descGet s d = some x) (engine : x.engine = .move m) :
    descGet (mvUpd s d f) d = some { x with engine := .move (f m) } := by
  have id := descGet_id here
  rw [mvUpd, descGet_descUpd here id, engine]

end

/-! The steps of a MOVE. -/

section
variable {s : State} {d fuel : Nat} {x : Desc} {m : MvRun} (here : descGet s d = some x) (runs : x.phase = .running)
  (engine : x.engine = .move m)
include here runs engine

/-- Every row has been issued. -/
theorem moveStep_issued (done : mvRows x ≤ m.row) :
    moveStep (fuel + 1) s d = if x.unacked = 0 then endDesc s d 0 {} else s := by
  simp only [moveStep, here, engine, runs, bne_self_eq_false, Bool.false_eq_true, if_false, ge_iff_le, done, if_true]

variable (more : m.row < mvRows x)
include more

theorem moveStep_full (full : regBits s 0x800000 4 0 ≤ movOut s) : moveStep (fuel + 1) s d = s := by
  simp only [moveStep, here, engine, runs, bne_self_eq_false, Bool.false_eq_true, if_false, ge_iff_le, Nat.not_le.2 more, full, if_true]

variable (room : movOut s < regBits s 0x800000 4 0)
include room

/-- The next row finds its place, or stops the MOVE. -/
theorem moveStep_row (cur : m.cur = none) : moveStep (fuel + 1) s d =
    if (match descGet (moveRow s x m.row) d with
      | some y => (match y.engine with
        | .move n => n.cur.isSome
        | _ => false)
      | none => false) = true then moveStep fuel (moveRow s x m.row) d else moveRow s x m.row := by
  simp only [moveStep, here, engine, runs, cur, bne_self_eq_false, Bool.false_eq_true, if_false, ge_iff_le, Nat.not_le.2 more,
    Nat.not_le.2 room] <;> rfl

theorem moveStep_next {src dst : Nat} (cur : m.cur = some (src, dst)) (whole : mvRowBytes x ≤ m.off) :
    moveStep (fuel + 1) s d = moveStep fuel (mvUpd s d fun m => { m with row := m.row + 1, off := 0, cur := none }) d := by
  simp only [moveStep, here, engine, runs, cur, bne_self_eq_false, Bool.false_eq_true, if_false, ge_iff_le, Nat.not_le.2 more,
    Nat.not_le.2 room, whole, if_true]

variable {src dst : Nat} (cur : m.cur = some (src, dst)) (part : m.off < mvRowBytes x)
include cur part

/-- The next piece is read and issued. -/
theorem moveStep_piece {t : State} {bs : List Byte}
    (read : moveRead s x (src + m.off) (pieceLen s x src dst m.off) = (t, .bytes bs)) : moveStep (fuel + 1) s d =
      moveStep fuel (movePiece (gatherForget t d (src + m.off) (pieceLen s x src dst m.off)) x (dst + m.off) bs) d := by
  simp only [moveStep, here, engine, runs, cur, bne_self_eq_false, Bool.false_eq_true, if_false, ge_iff_le, Nat.not_le.2 more,
    Nat.not_le.2 room, Nat.not_le.2 part, read]

/-- A source of bad parity fails the MOVE. -/
theorem moveStep_bad {t : State} {w : Nat}
    (read : moveRead s x (src + m.off) (pieceLen s x src dst m.off) = (t, .bad w)) :
    moveStep (fuel + 1) s d = endDesc t d stDataParity (badDetail t w) := by
  simp only [moveStep, here, engine, runs, cur, bne_self_eq_false, Bool.false_eq_true, if_false, ge_iff_le, Nat.not_le.2 more,
    Nat.not_le.2 room, Nat.not_le.2 part, read, readFails, rdFault]

end

/-! Reads of the own scratchpad. -/

/-- What lies in scratchpad stays readable whatever the descriptors and the reads from outside. -/
theorem OwnGood.descs {s : State} {addr len : Nat} (h : OwnGood s addr len) (descs : List Desc) (gathers : List Gather) :
    OwnGood { s with descs := descs, gathers := gathers } addr len :=
  ⟨h.some, h.own, h.fits, ⟨h.quiet.awake, h.quiet.clear, h.quiet.past⟩, h.unordered, h.good⟩

theorem moveRead_good {s : State} {addr len : Nat} {x : Desc} (h : OwnGood s addr len) :
    moveRead s x addr len = (s, .bytes (spmBytes s (offsetOf addr) len)) := by
  simp only [moveRead, h.own, h.fits, Bool.not_true, Bool.and_false, Bool.false_eq_true, if_false, readRange_good h]

theorem moveRead_bad {s : State} {addr len w : Nat} {x : Desc} (own : isOwn s addr = true)
    (fits : inSpm s (offsetOf addr) len = true) (quiet : Quiet s (offsetOf addr) len) (unordered : ordOver s (offsetOf addr) len = none)
    (bad : spmBadIn s (offsetOf addr) len = some w) (unbacked : backOf s w = none) : moveRead s x addr len = (s, .bad w) := by
  have some' : len ≠ 0 := by
    rintro rfl
    have hit := List.find?_some bad
    simp [overlap] at hit
  simp only [moveRead, own, fits, Bool.not_true, Bool.and_false, Bool.false_eq_true, if_false, readRange, some', if_true,
    settle_quiet quiet, unordered, Option.isSome_none, bad, unbacked]

theorem inSpm_mono {s : State} {off n p : Nat} (le : p ≤ n) (h : inSpm s off n = true) : inSpm s off p = true := by
  simp only [inSpm, inNear, inDeep, Bool.or_eq_true, Bool.and_eq_true, decide_eq_true_eq] at h ⊢
  omega

/-- An own address with no bit above its own word lies below the reserved bits (R166). -/
theorem isOwn_lt {s : State} {a : Nat} (own : isOwn s a = true) (word : a < 2 ^ 64) : a < 2 ^ 59 := by
  simp only [isOwn, isChip, Bool.and_eq_true, Bool.not_eq_true', beq_iff_eq, bitOf, bitsOf, beq_eq_false_iff_ne] at own
  omega

/-! The end of a MOVE. -/

theorem raiseErr_found {s : State} {e : ErrRec} {d : Nat} {x : Desc} (here : descGet s d = some x) :
    ∃ y, descGet (raiseErr s e) d = some y ∧ y.phase = x.phase ∧ y.status = x.status ∧ y.engine = x.engine := by
  obtain ⟨y, found, same⟩ := (raiseErr_noted s e).get here
  exact ⟨y, found, by rw [← same], by rw [← same], by rw [← same]⟩

section
variable {s : State} {d st : Nat} {x : Desc} {det : Detail} (here : descGet s d = some x) (going : x.phase ≠ .finished)
  (calm : x.disturbed = false)
include here going calm

theorem endDesc_found : ∃ y, descGet (endDesc s d st det) d = some y ∧ y.phase = .finished ∧ y.status = st ∧ y.engine = x.engine := by
  have id := descGet_id here
  have ended := descGet_descUpd (f := fun _ => { x with phase := .finished, status := st, detail := det, waitBlock := none }) here id
  have calm' : (x.disturbed && !x.rejected) = false := by rw [calm, Bool.false_and]
  simp only [endDesc, here, going, if_false, calm', Bool.false_eq_true]
  split
  · exact ⟨_, ended, rfl, rfl, rfl⟩
  · refine raiseErr_found (x := { x with phase := .finished, status := st, detail := det, waitBlock := none }) ?_
    exact ended

theorem endDesc_xbr : (endDesc s d st det).xbr = s.xbr := by
  have calm' : (x.disturbed && !x.rejected) = false := by rw [calm, Bool.false_and]
  simp only [endDesc, here, going, if_false, calm', Bool.false_eq_true]
  split
  · rfl
  · exact (raiseErr_operation (stops := True) rfl (show (0x0201 : Nat) ≠ 0x0401 by decide) (.inr trivial)).xbr

/-- A MOVE that succeeds changes neither scratchpad nor registers. -/
theorem endDesc_succeeds : (endDesc s d 0 det).spm = s.spm ∧ (endDesc s d 0 det).regs = s.regs := by
  have calm' : (x.disturbed && !x.rejected) = false := by rw [calm, Bool.false_and]
  simp only [endDesc, here, going, if_false, calm', Bool.false_eq_true, if_true, decide_true, Bool.true_or]
  exact ⟨rfl, rfl⟩

end

/-! The start of a MOVE. -/

/-- The descriptor of a MOVE that has started: the backed regions that it reads are held (R184). -/
def mvRunning (s : State) (x : Desc) (m : MvRun) : Desc :=
  let hs := ((mvReads x).map fun r => if isOwn s r.1 then backOver s (offsetOf r.1) r.2 else []).flatten
  { x with holds := hs.foldl setInsert x.holds, phase := .running, engine := .move m, runs := 1 }

/-- The state in which it has. -/
def mvBegun (s : State) (d : Nat) (x : Desc) : State :=
  descUpd (takeHolds s d (mvReads x)) d fun x => { x with phase := .running, engine := .move {}, runs := 1 }

/-- The state in which its first row has found its place. -/
def mvPlaced (s : State) (d : Nat) (x : Desc) : State :=
  mvUpd (mvBegun s d x) d fun m => { m with cur := some (mvSrc x, mvDst x) }

theorem mvPlaced_eq (s : State) (d : Nat) (x : Desc) : ∃ ds, mvPlaced s d x = { s with descs := ds } := ⟨_, rfl⟩

theorem pieceLen_placed (s : State) (ds : List Desc) (x : Desc) (m : MvRun) (src dst off : Nat) :
    pieceLen { s with descs := ds } (mvRunning s x m) src dst off = pieceLen s x src dst off := rfl

section
variable {s : State} {d : Nat} {x : Desc} (here : descGet s d = some x)
include here

theorem descGet_mvBegun : descGet (mvBegun s d x) d = some (mvRunning s x {}) := by
  have id := descGet_id here
  exact descGet_descUpd (descGet_descUpd here id) id

theorem descGet_mvPlaced : descGet (mvPlaced s d x) d = some (mvRunning s x { cur := some (mvSrc x, mvDst x) }) :=
  descGet_mvUpd (descGet_mvBegun here) rfl

variable (ready : x.phase = .ready)
include ready

theorem movOut_mvBegun : movOut (mvBegun s d x) = movOut s := by
  have id := descGet_id here
  have held : descGet (takeHolds s d (mvReads x)) d = some { mvRunning s x {} with
      phase := x.phase, engine := x.engine, runs := x.runs } := descGet_descUpd here id
  refine (movOut_descUpd held ?_).trans (movOut_descUpd here rfl)
  simp [movPieces, ready]

theorem movOut_mvPlaced : movOut (mvPlaced s d x) = movOut s := by
  rw [mvPlaced, mvUpd, movOut_descUpd (descGet_mvBegun here) rfl, movOut_mvBegun here ready]

variable (acts : live s = true) (op : dop x = 0x30) (free : x.free = true)
include acts op free

theorem exec_moveDesc_begins : exec (.moveDesc d) s = .next (moveStep 128 (mvBegun s d x) d) := by
  show execMoveDesc d s = _
  simp only [execMoveDesc, whenLive, acts, here, op, ready, mayStart, free, bne_self_eq_false, Bool.false_eq_true, if_false, if_true,
    reduceCtorEq, beq_self_eq_true, Bool.and_self]
  rfl

variable (one : mvRows x = 1) (room : movOut s < regBits s 0x800000 4 0)
include one room

/-- The one row of a plain MOVE finds its place at once. -/
theorem exec_moveDesc_places (plain : mvKind x = 0) (src : mvSrc x < 2 ^ 64) (dst : mvDst x < 2 ^ 64) :
    exec (.moveDesc d) s = .next (moveStep 127 (mvPlaced s d x) d) := by
  have first (base : Nat) (stride : Int) (word : base < 2 ^ 64) : rowAddr base stride 0 = base := by
    simp only [rowAddr, wrapInt]
    omega
  have row : moveRow (mvBegun s d x) (mvRunning s x {}) 0 = mvPlaced s d x := by
    have kind : mvKind (mvRunning s x {}) = 0 := plain
    have id := descGet_id here
    rw [moveRow, if_pos kind]
    show mvUpd (mvBegun s d x) x.id (fun m => { m with
      cur := some (rowAddr (mvSrc x) (mvSrcStride x) 0, rowAddr (mvDst x) (mvDstStride x) 0) }) = _
    rw [first _ _ src, first _ _ dst, id]
    rfl
  rw [exec_moveDesc_begins here ready acts op free,
    moveStep_row (descGet_mvBegun here) rfl rfl (by show 0 < mvRows x; omega)
      (by rw [movOut_mvBegun here ready]; exact room) rfl]
  show Host.Outcome.next (if (match descGet (moveRow (mvBegun s d x) (mvRunning s x {}) 0) d with
    | some y => (match y.engine with
      | .move n => n.cur.isSome
      | _ => false)
    | none => false) = true then moveStep 127 (moveRow (mvBegun s d x) (mvRunning s x {}) 0) d
    else moveRow (mvBegun s d x) (mvRunning s x {}) 0) = _
  rw [row, descGet_mvPlaced here]
  rfl

end

/-! The piece that it issues. -/

/-- A piece for the own scratchpad waits at its bank. -/
theorem movePiece_banks {s : State} {x : Desc} {dst : Nat} {bs : List Byte} (own : isOwn s dst = true)
    (fits : inSpm s (offsetOf dst) bs.length = true) : movePiece s x dst bs = bankQueue
      (descUpd (mvUpd s x.id fun m => { m with
        off := m.off + bs.length, inflight := m.inflight ++ [{ addr := dst, len := bs.length, left := bs.length }] })
        x.id fun y => { y with unacked := y.unacked + 1 })
      { kind := .write, addr := dst, len := bs.length, data := bs, src := x.src, who := .desc x.id
        counter := if mvCounted x then some (mvCounter x) else none } := by
  have fits' (f : MvRun → MvRun) (g : Desc → Desc) :
      inSpm (descUpd (mvUpd s x.id f) x.id g) (offsetOf dst) bs.length = true := fits
  simp only [movePiece, own, Bool.not_true, Bool.false_eq_true, if_false, if_true, fits']

/-- What the piece leaves: its descriptor with one more piece out, and its write in the queue of its bank. -/
theorem movePiece_state {s : State} {d dst n : Nat} {x : Desc} {m : MvRun} {bs : List Byte} (here : descGet s d = some x)
    (engine : x.engine = .move m) (own : isOwn s dst = true) (len : bs.length = n) (fits : inSpm s (offsetOf dst) n = true) :
    descGet (movePiece s x dst bs) d = some { x with
      engine := .move { m with off := m.off + n, inflight := m.inflight ++ [{ addr := dst, len := n, left := n }] }
      unacked := x.unacked + 1 } ∧ (movePiece s x dst bs).spm = s.spm ∧
    (movePiece s x dst bs).xbr = s.xbr ++ [{
      bank := bankOf (offsetOf dst)
      acc := { kind := .write, addr := dst, len := n, data := bs, src := x.src, who := .desc d
               counter := if mvCounted x then some (mvCounter x) else none } }] := by
  obtain rfl : x.id = d := descGet_id here
  have fits' : inSpm s (offsetOf dst) bs.length = true := by rw [len]; exact fits
  have issued := descGet_descUpd (f := fun y => { y with unacked := y.unacked + 1 }) (descGet_mvUpd (f := fun m => { m with
    off := m.off + n, inflight := m.inflight ++ [{ addr := dst, len := n, left := n }] }) here engine) rfl
  rw [movePiece_banks own fits', len]
  have spm : (mvUpd s x.id fun m => { m with
    off := m.off + n, inflight := m.inflight ++ [{ addr := dst, len := n, left := n }] }).spm = s.spm := rfl
  have xbr : (mvUpd s x.id fun m => { m with
    off := m.off + n, inflight := m.inflight ++ [{ addr := dst, len := n, left := n }] }).xbr = s.xbr := rfl
  generalize mvUpd s x.id (fun m => { m with
    off := m.off + n, inflight := m.inflight ++ [{ addr := dst, len := n, left := n }] }) = v at issued spm xbr ⊢
  obtain ⟨queued, rest⟩ := bankQueue_write (descUpd v x.id fun y => { y with unacked := y.unacked + 1 })
    (a := { kind := .write, addr := dst, len := n, data := bs, src := x.src, who := .desc x.id
            counter := if mvCounted x then some (mvCounter x) else none }) rfl
  have descs := congrArg State.descs rest
  dsimp only at descs
  refine ⟨?_, (congrArg State.spm rest).trans spm, by rw [queued, descUpd_xbr, xbr]⟩
  rw [descGet, descs]
  exact issued

/-- A MOVE whose only row is issued goes no further while its piece is out. -/
theorem moveStep_waits {s : State} {d fuel : Nat} {x : Desc} {m : MvRun} {p : Nat × Nat} (here : descGet s d = some x)
    (runs : x.phase = .running) (engine : x.engine = .move m) (one : mvRows x = 1) (row : m.row = 0) (cur : m.cur = some p)
    (whole : mvRowBytes x ≤ m.off) (out : x.unacked = 1) : ∃ y, descGet (moveStep (fuel + 2) s d) d = some y ∧
      y.phase = .running ∧ y.unacked = 1 ∧ y.holds = x.holds ∧ (moveStep (fuel + 2) s d).spm = s.spm ∧
      (moveStep (fuel + 2) s d).xbr = s.xbr := by
  have more : m.row < mvRows x := by omega
  by_cases room : movOut s < regBits s 0x800000 4 0
  · have next := descGet_mvUpd (f := fun m => { m with row := m.row + 1, off := 0, cur := none }) here engine
    have done : mvRows x ≤ m.row + 1 := by omega
    rw [moveStep_next here runs engine more room (src := p.1) (dst := p.2) cur whole,
      moveStep_issued next runs rfl done, if_neg (by show ¬x.unacked = 0; omega)]
    exact ⟨_, next, runs, out, rfl, rfl, rfl⟩
  · rw [moveStep_full here runs engine more (Nat.not_lt.1 room)]
    exact ⟨x, here, runs, out, rfl, rfl, rfl⟩

/-- The source of a MOVE of one plain row is that row. -/
theorem mvSrcSpan_one {x : Desc} (plain : mvKind x = 0) (one : mvRows x = 1) (low : mvSrc x < 2 ^ 59) :
    mvSrcSpan x = some (mvSrc x, mvRowBytes x) := by
  have bytes : mvRowBytes x < 2 ^ 32 := leNat_lt _ 4 (List.length_take_le ..)
  have rows : mvSrcRows x = 1 := by rw [mvSrcRows, if_neg (by omega), one]
  have inside : ¬((mvSrc x : Int) < 0 ∨ (mvSrc x : Int) + (mvRowBytes x : Int) > ((2 ^ 64 : Nat) : Int)) := by omega
  simp only [mvSrcSpan, rowSpan, rows, if_false, Nat.sub_self, Nat.cast_zero, mul_zero, min_self, max_self,
    add_zero, Bool.or_eq_true, decide_eq_true_eq, inside, one_ne_zero]
  simp

/-- The holds of a MOVE cover what it reads (R184). -/
theorem mvRunning_holds {s : State} {x : Desc} {m : MvRun} (plain : mvKind x = 0) (one : mvRows x = 1) (own : isOwn s (mvSrc x) = true)
    (word : mvSrc x < 2 ^ 64) : ∀ k ∈ backOver s (offsetOf (mvSrc x)) (mvRowBytes x), k ∈ (mvRunning s x m).holds := by
  intro k hit
  refine mem_foldl_setInsert (.inr (List.mem_flatten.2 ⟨_, List.mem_map.2 ⟨(mvSrc x, mvRowBytes x), ?_, rfl⟩, ?_⟩))
  · rw [mvReads, mvSrcSpan_one plain one (isOwn_lt own word)]
    simp
  · rw [if_pos own]
    exact hit

section
variable {s : State} {d : Nat} {x : Desc} (here : descGet s d = some x) (ready : x.phase = .ready) (acts : live s = true)
  (op : dop x = 0x30) (free : x.free = true) (one : mvRows x = 1) (some' : 0 < mvRowBytes x)
  (room : movOut s < regBits s 0x800000 4 0) (src : mvSrc x < 2 ^ 64) (dst : mvDst x < 2 ^ 64) (plain : mvKind x = 0)

/-- A good row within one piece is issued to its bank. -/
def mvIssued (s : State) (d : Nat) (x : Desc) : State :=
  movePiece (gatherForget (mvPlaced s d x) d (mvSrc x) (mvRowBytes x)) (mvRunning s x { cur := some (mvSrc x, mvDst x) }) (mvDst x)
    (spmBytes s (offsetOf (mvSrc x)) (mvRowBytes x))

include here in
theorem mvIssued_state (own : isOwn s (mvDst x) = true) (fits : inSpm s (offsetOf (mvDst x)) (mvRowBytes x) = true) :
    descGet (mvIssued s d x) d = some { mvRunning s x { cur := some (mvSrc x, mvDst x), off := mvRowBytes x
                                                        inflight := [{ addr := mvDst x, len := mvRowBytes x, left := mvRowBytes x }] }
      with unacked := x.unacked + 1 } ∧ (mvIssued s d x).spm = s.spm ∧
    (mvIssued s d x).xbr = s.xbr ++ [{
      bank := bankOf (offsetOf (mvDst x))
      acc := { kind := .write, addr := mvDst x, len := mvRowBytes x, data := spmBytes s (offsetOf (mvSrc x)) (mvRowBytes x)
               src := x.src, who := .desc d, counter := if mvCounted x then some (mvCounter x) else none } }] := by
  have len : (spmBytes s (offsetOf (mvSrc x)) (mvRowBytes x)).length = mvRowBytes x := by simp [spmBytes]
  have placed : descGet (gatherForget (mvPlaced s d x) d (mvSrc x) (mvRowBytes x)) d =
      some (mvRunning s x { cur := some (mvSrc x, mvDst x) }) := descGet_mvPlaced here
  obtain ⟨ds, same⟩ := mvPlaced_eq s d x
  rw [mvIssued]
  rw [same] at placed ⊢
  generalize gs : gatherForget { s with descs := ds } d (mvSrc x) (mvRowBytes x) = t at placed ⊢
  have own' : isOwn t (mvDst x) = true := by rw [← gs]; exact own
  have fits' : inSpm t (offsetOf (mvDst x)) (mvRowBytes x) = true := by rw [← gs]; exact fits
  have spm : t.spm = s.spm := by rw [← gs]; rfl
  have xbr : t.xbr = s.xbr := by rw [← gs]; rfl
  have issued := movePiece_state placed rfl own' len fits'
  rw [spm, xbr] at issued
  simp only [Nat.zero_add, List.nil_append] at issued
  exact issued

include here ready acts op free one some' room src dst plain

theorem exec_moveDesc_issues (good : OwnGood s (mvSrc x) (mvRowBytes x))
    (whole : pieceLen s x (mvSrc x) (mvDst x) 0 = mvRowBytes x) :
    exec (.moveDesc d) s = .next (moveStep 126 (mvIssued s d x) d) := by
  have good' : OwnGood (mvPlaced s d x) (mvSrc x) (mvRowBytes x) := good.descs _ s.gathers
  have len : pieceLen (mvPlaced s d x) (mvRunning s x { cur := some (mvSrc x, mvDst x) }) (mvSrc x) (mvDst x) 0 = mvRowBytes x := whole
  have read : moveRead (mvPlaced s d x) (mvRunning s x { cur := some (mvSrc x, mvDst x) }) (mvSrc x + 0)
      (pieceLen (mvPlaced s d x) (mvRunning s x { cur := some (mvSrc x, mvDst x) }) (mvSrc x) (mvDst x) 0) =
      (mvPlaced s d x, .bytes (spmBytes s (offsetOf (mvSrc x)) (mvRowBytes x))) := by
    rw [len]
    exact moveRead_good good'
  have step := moveStep_piece (fuel := 126) (descGet_mvPlaced here) rfl rfl (by show 0 < mvRows x; omega)
    (by rw [movOut_mvPlaced here ready]; exact room) rfl some' read
  rw [exec_moveDesc_places here ready acts op free one room plain src dst, step]
  exact congrArg (fun n => Host.Outcome.next (moveStep 126 (movePiece (gatherForget (mvPlaced s d x) d (mvSrc x) n)
    (mvRunning s x { cur := some (mvSrc x, mvDst x) }) (mvDst x) (spmBytes s (offsetOf (mvSrc x)) (mvRowBytes x))) d)) len

/-- A row whose first piece is bad fails the MOVE. -/
theorem exec_moveDesc_bad {w : Nat} (own : isOwn s (mvSrc x) = true) (fits : inSpm s (offsetOf (mvSrc x)) (mvRowBytes x) = true)
    (quiet : Quiet s (offsetOf (mvSrc x)) (pieceLen s x (mvSrc x) (mvDst x) 0))
    (unordered : ordOver s (offsetOf (mvSrc x)) (pieceLen s x (mvSrc x) (mvDst x) 0) = none)
    (bad : spmBadIn s (offsetOf (mvSrc x)) (pieceLen s x (mvSrc x) (mvDst x) 0) = some w) (unbacked : backOf s w = none) :
    exec (.moveDesc d) s = .next (endDesc (mvPlaced s d x) d stDataParity (badDetail (mvPlaced s d x) w)) := by
  have short : pieceLen s x (mvSrc x) (mvDst x) 0 ≤ mvRowBytes x := Nat.min_le_left ..
  have read : moveRead (mvPlaced s d x) (mvRunning s x { cur := some (mvSrc x, mvDst x) }) (mvSrc x)
      (pieceLen (mvPlaced s d x) (mvRunning s x { cur := some (mvSrc x, mvDst x) }) (mvSrc x) (mvDst x) 0) =
      (mvPlaced s d x, .bad w) := by
    obtain ⟨ds, same⟩ := mvPlaced_eq s d x
    rw [same, pieceLen_placed]
    have own' : isOwn { s with descs := ds } (mvSrc x) = true := own
    have fits' : inSpm { s with descs := ds } (offsetOf (mvSrc x)) (pieceLen s x (mvSrc x) (mvDst x) 0) = true := inSpm_mono short fits
    exact moveRead_bad own' fits' ⟨quiet.awake, quiet.clear, quiet.past⟩ unordered bad unbacked
  rw [exec_moveDesc_places here ready acts op free one room plain src dst,
    moveStep_bad (fuel := 126) (descGet_mvPlaced here) rfl rfl (by show 0 < mvRows x; omega)
      (by rw [movOut_mvPlaced here ready]; exact room) rfl some' read]

end

section
variable {s : State} {d : Nat} {x : Desc}

theorem mvBegun_eq (s : State) (d : Nat) (x : Desc) : ∃ ds, mvBegun s d x = { s with descs := ds } := ⟨_, rfl⟩

/-- An index out of range ends a gather or a scatter. -/
theorem moveRow_far (here : descGet s d = some x) (indexed : mvKind x ≠ 0) (good : OwnGood s (mvIndex x) 4)
    (far : mvLimit x ≤ leNat (spmBytes s (offsetOf (mvIndex x)) 4)) : ∃ det,
      moveRow s x 0 = endDesc (gatherForget s d (mvIndex x) 4) d stGatherRange det := by
  obtain rfl : x.id = d := descGet_id here
  simp only [moveRow, indexed, if_false, Nat.mul_zero, Nat.add_zero, moveRead_good good, ge_iff_le, far, if_true]
  exact ⟨_, rfl⟩

theorem exec_moveDesc_far (here : descGet s d = some x) (ready : x.phase = .ready) (acts : live s = true) (op : dop x = 0x30)
    (free : x.free = true) (one : mvRows x = 1) (room : movOut s < regBits s 0x800000 4 0) (indexed : mvKind x ≠ 0)
    (calm : x.disturbed = false) (good : OwnGood s (mvIndex x) 4)
    (far : mvLimit x ≤ leNat (spmBytes s (offsetOf (mvIndex x)) 4)) : ∃ det, exec (.moveDesc d) s =
      .next (endDesc (gatherForget (mvBegun s d x) d (mvIndex x) 4) d stGatherRange det) := by
  have begun := descGet_mvBegun here
  have good' : OwnGood (mvBegun s d x) (mvIndex x) 4 := by
    obtain ⟨ds, same⟩ := mvBegun_eq s d x
    rw [same]
    exact good.descs _ s.gathers
  have bytes : spmBytes (mvBegun s d x) (offsetOf (mvIndex x)) 4 = spmBytes s (offsetOf (mvIndex x)) 4 := by
    obtain ⟨ds, same⟩ := mvBegun_eq s d x
    rw [same]
    rfl
  obtain ⟨det, row⟩ := moveRow_far (x := mvRunning s x {}) begun indexed good' (by
    show mvLimit x ≤ leNat (spmBytes (mvBegun s d x) (offsetOf (mvIndex x)) 4)
    rw [bytes]
    exact far)
  obtain ⟨y, found, -, -, engine⟩ := endDesc_found (s := gatherForget (mvBegun s d x) d (mvIndex x) 4) (det := det)
    (st := stGatherRange) begun (by simp [mvRunning]) calm
  refine ⟨det, ?_⟩
  rw [exec_moveDesc_begins here ready acts op free, moveStep_row begun rfl rfl (by show 0 < mvRows x; omega)
    (by rw [movOut_mvBegun here ready]; exact room) rfl]
  have row' : moveRow (mvBegun s d x) (mvRunning s x {}) (({} : MvRun).row) =
    endDesc (gatherForget (mvBegun s d x) d (mvIndex x) 4) d stGatherRange det := row
  rw [row', found, if_neg]
  simp [engine, mvRunning]

end

/-- Settles O53: the MOVE's steps one by one, from its start to the bank's queue or to its end. -/
theorem movesRun : Obligations.MovesRun := by
  unfold Obligations.MovesRun
  intro s d x canon acts here op
  refine ⟨fun ⟨ready, free, one, some', room, src, dst⟩ plain idle good whole own fits => ?_,
    fun ⟨ready, free, one, some', room, src, dst⟩ plain calm own fits quiet unordered ⟨w, bad, unbacked⟩ => ?_,
    fun ⟨ready, free, one, some', room, src, dst⟩ indexed calm good far => ?_,
    fun m runs engine done idle calm => ?_, fun m runs engine done out => ?_⟩
  · obtain ⟨issued, spm, queue⟩ := mvIssued_state here own fits
    obtain ⟨y, found, runs, out, holds, spm', queue'⟩ := moveStep_waits (fuel := 124) issued rfl rfl one rfl rfl
      (Nat.le_refl (mvRowBytes x)) (by show x.unacked + 1 = 1; omega)
    refine ⟨_, y, exec_moveDesc_issues here ready acts op free one some' room src dst plain good whole, found, runs, out,
      spm'.trans spm, queue'.trans queue, fun k hit => ?_⟩
    rw [holds]
    exact mvRunning_holds (m := {}) plain one good.own src k hit
  · obtain ⟨y, found, finished, status, -⟩ := endDesc_found (st := stDataParity) (det := badDetail (mvPlaced s d x) w)
      (descGet_mvPlaced here) (by simp [mvRunning]) calm
    exact ⟨_, exec_moveDesc_bad here ready acts op free one some' room src dst plain own fits quiet unordered bad unbacked,
      ⟨y, found, finished, status⟩, endDesc_xbr (descGet_mvPlaced here) (by simp [mvRunning]) calm⟩
  · obtain ⟨det, run⟩ := exec_moveDesc_far here ready acts op free one room indexed calm good far
    have begun : descGet (gatherForget (mvBegun s d x) d (mvIndex x) 4) d = some (mvRunning s x {}) := descGet_mvBegun here
    obtain ⟨y, found, finished, status, -⟩ := endDesc_found (st := stGatherRange) (det := det) begun (by simp [mvRunning]) calm
    exact ⟨_, run, ⟨y, found, finished, status⟩, endDesc_xbr begun (by simp [mvRunning]) calm⟩
  · have going : x.phase ≠ .finished := by simp [runs]
    have run : exec (.moveDesc d) s = .next (endDesc s d 0 {}) := by
      show execMoveDesc d s = _
      simp only [execMoveDesc, whenLive, acts, here, op, runs, bne_self_eq_false, Bool.false_eq_true, if_false, if_true]
      rw [moveStep_issued here runs engine done, if_pos idle]
    obtain ⟨y, found, finished, status, -⟩ := endDesc_found (det := {}) (st := 0) here going calm
    obtain ⟨spm, regs⟩ := endDesc_succeeds (det := {}) here going calm
    exact ⟨_, run, ⟨y, found, finished, status⟩, spm, regs⟩
  · show execMoveDesc d s = _
    simp only [execMoveDesc, whenLive, acts, here, op, runs, bne_self_eq_false, Bool.false_eq_true, if_false, if_true]
    rw [moveStep_issued here runs engine done, if_neg out]

end Sys2Proof.Machine
end

section
/-! The end of a refetch (R180, R186, R310). -/
namespace Sys2Proof.Machine

/-! What is made undefined meanwhile. -/

section
variable {stops : Prop} {area : Nat → Prop} {s : State}

theorem length_drawBytes (s : State) (n : Nat) : (drawBytes s n).1.length = n := by simp [drawBytes]

/-- A refetch under way restores nothing in a range that was made undefined. -/
def freshNoted (off len : Nat) (x : Refetch) : Refetch :=
  if overlap x.block 4096 off len then { x with fresh := x.fresh ++ [(off, len)] } else x

theorem wildStore_spared {off : Nat} {bs : List Byte} (within : ∀ x, off ≤ x → x < off + bs.length → area x) :
    Spares stops area s (wildStore s off bs) := by
  have noted : Spares stops area s { s with refetch := s.refetch.map (freshNoted off bs.length) } := by
    refine ⟨.inr rfl, rfl, ?_, fun _ _ => rfl, fun h => ⟨h, fun _ => id⟩, fun _ _ => rfl⟩
    simp only [List.map_map]
    refine List.map_congr_left fun x _ => ?_
    rw [Function.comp_apply, freshNoted]
    split <;> rfl
  exact (noted.trans (spmPut_spared within)).trans (writeThrough_homed ..).spared

theorem spmHavoc_spared {off len : Nat} (within : ∀ x, off ≤ x → x < off + len → area x) :
    Spares stops area s (spmHavoc s off len) := by
  have drawn : Spares stops area s (drawBytes s len).2 := ⟨.inr rfl, rfl, rfl, fun _ _ => rfl, fun h => ⟨h, fun _ => id⟩, fun _ _ => rfl⟩
  exact drawn.trans (wildStore_spared (by rw [length_drawBytes]; exact within))

/-- The bytes of some ranges. -/
def inRanges (rs : List (Nat × Nat)) (x : Nat) : Prop := ∃ p ∈ rs, p.1 ≤ x ∧ x < p.1 + p.2

theorem foldl_havoc_spared (rs : List (Nat × Nat)) (s : State) :
    Spares stops (inRanges rs) s (rs.foldl (fun s p => spmHavoc s p.1 p.2) s) := by
  induction rs generalizing s with
  | nil => exact .refl s
  | cons p rs ih =>
    refine (spmHavoc_spared fun x low high => ?_).trans ((ih _).mono (fun x => ?_) id)
    · exact ⟨p, List.mem_cons_self .., low, high⟩
    · rintro ⟨q, listed, hit⟩
      exact ⟨q, List.mem_cons_of_mem _ listed, hit⟩

end

/-! The descriptors that wait. -/

theorem descGet_descUpd_other {s : State} {d e : Nat} {f : Desc → Desc} (h : e ≠ d) (same : ∀ x, (f x).id = x.id) :
    descGet (descUpd s e f) d = descGet s d := by
  unfold descGet descUpd
  induction s.descs with
  | nil => rfl
  | cons y l ih =>
    rw [replaceFirst]
    split
    next hit =>
      have other : (y.id == d) = false := by
        rw [beq_iff_eq] at hit
        simpa [hit] using h
      simp [same, other]
    next => simp only [List.find?_cons, ih]

/-- The wait of one descriptor for a refetch ended. -/
def waitEnded (s : State) (d : Desc) : State := descUpd s d.id fun x => { x with waitBlock := none }

theorem waitEnded_get {s : State} {d : Nat} {x : Desc} (here : descGet s d = some x) (e : Desc) :
    ∃ y, descGet (waitEnded s e) d = some y ∧ (y.waitBlock = none ∨ y.waitBlock = x.waitBlock) ∧ (e.id = d → y.waitBlock = none) := by
  by_cases own : e.id = d
  · have id := descGet_id here
    rw [waitEnded, own]
    exact ⟨_, descGet_descUpd here id, .inl rfl, fun _ => rfl⟩
  · exact ⟨x, (descGet_descUpd_other (f := fun x => { x with waitBlock := none }) own fun _ => rfl).trans here, .inr rfl, fun same => absurd same own⟩

/-- Of the descriptors of a list, those that wait for a block wait no longer. -/
theorem foldl_waitEnded {block d : Nat} {l : List Desc} {s : State} {x : Desc} (here : descGet s d = some x)
    (waits : x.waitBlock = none ∨ ∃ e ∈ l, e.id = d ∧ e.waitBlock = some block) : ∃ y,
      descGet (l.foldl (fun s e => if e.waitBlock == some block then waitEnded s e else s) s) d = some y ∧ y.waitBlock = none := by
  induction l generalizing s x with
  | nil => exact ⟨x, here, waits.resolve_right (by simp)⟩
  | cons e l ih =>
    rw [List.foldl_cons]
    split
    next asks =>
      obtain ⟨y, found, kept, ended⟩ := waitEnded_get here e
      refine ih found ?_
      rcases waits with none' | ⟨e', listed, own, asks'⟩
      · rw [none', or_self] at kept
        exact .inl kept
      · rcases List.mem_cons.1 listed with rfl | later
        · exact .inl (ended own)
        · exact .inr ⟨e', later, own, asks'⟩
    next asks =>
      refine ih here ?_
      rcases waits with none' | ⟨e', listed, own, asks'⟩
      · exact .inl none'
      · rcases List.mem_cons.1 listed with rfl | later
        · exact absurd (by simp [asks']) asks
        · exact .inr ⟨e', later, own, asks'⟩

/-! The command. -/

/-- The state in which a refetch has ended but has changed nothing. -/
def refetchTaken (s : State) (block : Nat) (r : Refetch) : State :=
  { s with
    gathers := s.gathers.filter fun x => x.key != r.key.getD 0
    refetch := dropFirst (fun x => x.block == block) s.refetch }

/-- The home copy as it was read. -/
def homeBytes (g : Gather) : List Byte := (List.range 4096).map fun i => mapGet (fun _ => (0 : Byte)) g.got (g.addr + i)

/-- The state in which the block holds its home copy, but for what was made undefined meanwhile. -/
def refilled (s : State) (block : Nat) (r : Refetch) (g : Gather) : State :=
  r.fresh.foldl (fun s p => spmHavoc s p.1 p.2) (spmStore (wakeBanks (refetchTaken s block r) block 4096) block (homeBytes g))

/-- The state in which the region's refetch is counted too. -/
def repaired (s : State) (block : Nat) (r : Refetch) (g : Gather) : State :=
  regPutBits (refilled s block r g) (backReg r.region 5) 31 16
    (min (regBits (refilled s block r g) (backReg r.region 5) 31 16 + 1) 0xFFFF)

/-- The record of a refetch's end (R310). -/
def refetchRec (s : State) (r : Refetch) (ok : Bool) : ErrRec :=
  { code := if ok then 0x0101 else 0x0205, cls := if ok then 1 else 2, internal := ok
    resource := bankResource r.word, addr := ownAddr s r.word }

/-- The state in which the repair is reported and the descriptors that waited for it go on. -/
def refetchDone (s : State) (block : Nat) (r : Refetch) (g : Gather) : State :=
  let t := raiseErr (repaired s block r g) (refetchRec s r true)
  t.descs.foldl (fun s d => if d.waitBlock == some block then waitEnded s d else s) t

/-- The state in which the failure is reported, and the units that polled for the block are told. -/
def refetchFailed (s : State) (block : Nat) (r : Refetch) : State :=
  r.pollers.foldl (fun s o => pollFail s block o) (raiseErr (refetchTaken s block r) (refetchRec s r false))

section
variable {s : State} {block : Nat} {r : Refetch} {g : Gather} (acts : live s = true)
  (here : s.refetch.find? (fun r => r.block == block && r.key.isSome) = some r)
  (read : s.gathers.find? (fun g => g.key == r.key.getD 0) = some g) (whole : g.left = 0)
include acts here read whole

theorem exec_refetch_ok (good : g.failed = none) (up : live (raiseErr (repaired s block r g) (refetchRec s r true)) = true) :
    exec (.refetch block) s = .next (stewardNext
      (r.waiters.foldl (fun s a => spmServe s (ownerOf s a.who) a false) (routeRefetched (refetchDone s block r g) block true))) := by
  show execRefetch block s = _
  simp only [execRefetch, whenLive, acts, here, read, whole, good, bne_self_eq_false, Bool.false_eq_true, if_false, if_true,
    Option.isNone_none, Bool.not_true]
  refine congrArg _ (if_neg ?_)
  rw [Bool.not_eq_true', Bool.not_eq_false]
  exact up

theorem exec_refetch_failed {c : Nat} (bad : g.failed = some c) (none' : ∀ d ∈ s.descs, d.waitBlock ≠ some block)
    (up : live (raiseErr (refetchTaken s block r) (refetchRec s r false)) = true) :
    exec (.refetch block) s = .next (stewardNext
      (r.waiters.foldl (fun s a => spmServe s (ownerOf s a.who) a true) (routeRefetched (refetchFailed s block r) block false))) := by
  have idle (l : List Desc) (h : ∀ d ∈ l, d.waitBlock ≠ some block) (t : State) :
      l.foldl (fun s d => if d.waitBlock == some block then refetchEnds s d false else s) t = t := by
    induction l generalizing t with
    | nil => rfl
    | cons d l ih =>
      have other : (d.waitBlock == some block) = false := by simpa using h d (List.mem_cons_self ..)
      rw [List.foldl_cons, other]
      exact ih (fun e listed => h e (List.mem_cons_of_mem _ listed)) t
  have run : execRefetch block s = .next (if !live (raiseErr (refetchTaken s block r) (refetchRec s r false)) then
      raiseErr (refetchTaken s block r) (refetchRec s r false)
    else stewardNext (r.waiters.foldl (fun s a => spmServe s (ownerOf s a.who) a true) (routeRefetched
      (r.pollers.foldl (fun s o => pollFail s block o)
        ((raiseErr (refetchTaken s block r) (refetchRec s r false)).descs.foldl
          (fun s d => if d.waitBlock == some block then refetchEnds s d false else s)
          (raiseErr (refetchTaken s block r) (refetchRec s r false)))) block false))) := by
    simp only [execRefetch, whenLive, acts, here, read, whole, bad, bne_self_eq_false, Bool.false_eq_true, if_false, if_true,
      Option.isNone_some, Bool.not_false]
    rfl
  have calm : ∀ d ∈ (raiseErr (refetchTaken s block r) (refetchRec s r false)).descs, d.waitBlock ≠ some block := by
    obtain ⟨f, noted, descs⟩ := raiseErr_noted (refetchTaken s block r) (refetchRec s r false)
    intro d listed
    rw [descs, List.mem_map] at listed
    obtain ⟨x, was, rfl⟩ := listed
    have same := congrArg Desc.waitBlock (noted x)
    dsimp only at same
    rw [same]
    exact none' x was
  show execRefetch block s = _
  rw [run, up, idle _ calm]
  rfl

end

/-! What it leaves. -/

section
variable {s : State} {block : Nat} {r : Refetch} {g : Gather}

theorem length_homeBytes (g : Gather) : (homeBytes g).length = 4096 := by simp [homeBytes]

theorem repaired_keeps (canon : Canon s) : Canon (refilled s block r g) := by
  have taken : Canon (refetchTaken s block r) :=
    ⟨canon.spm, canon.nor, canon.regs, canon.counters, canon.cntShadow, canon.voc, canon.corr, canon.trim, canon.ftab⟩
  have kept : Keeps (refetchTaken s block r) (refilled s block r g) :=
    foldl_keeps (spmStore_keeps (wakeBanks_keeps (Keeps.refl _))) fun _ _ h => spmHavoc_keeps h
  exact kept.canon taken

/-- The state with the block's home copy in it, before anything else. -/
def blockStored (s : State) (block : Nat) (r : Refetch) (g : Gather) : State :=
  spmStore (wakeBanks (refetchTaken s block r) block 4096) block (homeBytes g)

theorem refilled_spares {stops : Prop} : Spares stops (inRanges r.fresh) (blockStored s block r g) (refilled s block r g) :=
  foldl_havoc_spared r.fresh _

theorem blockStored_spares {stops : Prop} :
    Spares stops (fun x => block ≤ x ∧ x < block + 4096) (refetchTaken s block r) (blockStored s block r g) :=
  (wakeBanks_spared block 4096).trans (spmStore_spared fun x low high => ⟨low, by rw [length_homeBytes] at high; exact high⟩)

theorem refilled_regs {o : Nat} (own : ¬LogReg o) : regGet (refilled s block r g) o = regGet s o :=
  ((refilled_spares (stops := True)).regs o own).trans ((blockStored_spares (stops := True)).regs o own)

theorem countReg_own (region : Nat) (low : region < 64) : ¬LogReg (backReg region 5) := by
  simp only [LogReg, backReg]
  omega

/-- What the report of a repair leaves of the state in which it was made. -/
theorem report_spares : Spares False (logArea (repaired s block r g)) (repaired s block r g)
    (raiseErr (repaired s block r g) (refetchRec s r true)) := raiseErr_corrected rfl (show (0x0101 : Nat) ≠ 0x0401 by decide)

theorem live_boot {s u : State} (h : u.boot = s.boot) : live u = live s := by rw [live, live, h]

theorem repair_up (acts : live s = true) : live (raiseErr (repaired s block r g) (refetchRec s r true)) = true := by
  have told : (raiseErr (repaired s block r g) (refetchRec s r true)).boot = (repaired s block r g).boot :=
    report_spares.boot.resolve_left id
  have made : (refilled s block r g).boot = s.boot :=
    ((refilled_spares (stops := False)).boot.resolve_left id).trans ((blockStored_spares (stops := False)).boot.resolve_left id)
  rw [live_boot told, ← acts]
  exact live_boot made

theorem refetchDone_eq (s : State) (block : Nat) (r : Refetch) (g : Gather) : ∃ ds,
    refetchDone s block r g = { raiseErr (repaired s block r g) (refetchRec s r true) with descs := ds } := by
  have each (l : List Desc) (t : State) : ∃ ds,
      l.foldl (fun s d => if d.waitBlock == some block then waitEnded s d else s) t = { t with descs := ds } := by
    induction l generalizing t with
    | nil => exact ⟨t.descs, rfl⟩
    | cons d l ih =>
      rw [List.foldl_cons]
      split
      · obtain ⟨ds, same⟩ := ih (waitEnded t d)
        exact ⟨ds, same⟩
      · exact ih t
  exact each _ _

/-- The blocks under refetch are those of before, but for the one that has ended. -/
theorem refetchDone_blocks : (refetchDone s block r g).refetch.map (·.block) =
    (dropFirst (fun x => x.block == block) s.refetch).map (·.block) := by
  obtain ⟨ds, same⟩ := refetchDone_eq s block r g
  rw [same]
  exact report_spares.blocks.trans ((refilled_spares (stops := False)).blocks.trans (blockStored_spares (stops := False)).blocks)

theorem repaired_log : logArea (repaired s block r g) = logArea s := by
  funext x
  have kept : regGet (repaired s block r g) 0xC00010 = regGet (refilled s block r g) 0xC00010 :=
    regGet_regPutBits_other _ _ _ _ (by simp only [backReg]; omega)
  rw [logArea, logArea, kept, refilled_regs (by simp [LogReg])]

/-- The block holds its home copy where nothing of it was made undefined and the log does not lie. -/
theorem refetchDone_bytes (canon : Canon s) {i : Nat} (inside : i < 4096) (kept : ¬inRanges r.fresh (block + i))
    (apart : ¬logArea s (block + i)) :
    spmByte (refetchDone s block r g) (block + i) = mapGet (fun _ => (0 : Byte)) g.got (g.addr + i) := by
  have lost := spmLost_wrote (wakeBanks_stored (refetchTaken s block r) block 4096).wrote
  have within : i < (homeBytes g).length := by rw [length_homeBytes]; exact inside
  have stored : spmByte (blockStored s block r g) (block + i) = (homeBytes g)[i] := by
    rw [spmByte, blockStored, spm_spmStore, spmLost_wrote (spmStore_stored ..).wrote]
    refine mapGet_setAll_same ?_ within
    rw [lost, spm_wakeBanks]
    exact canon.spm
  obtain ⟨ds, same⟩ := refetchDone_eq s block r g
  rw [same]
  calc spmByte (raiseErr (repaired s block r g) (refetchRec s r true)) (block + i)
    _ = spmByte (refilled s block r g) (block + i) := report_spares.bytes _ (by rw [repaired_log]; exact apart)
    _ = spmByte (blockStored s block r g) (block + i) := (refilled_spares (stops := False)).bytes _ kept
    _ = (homeBytes g)[i] := stored
    _ = _ := by simp [homeBytes]

/-- Its words have good parity. -/
theorem refetchDone_parity (calm : s.inject = none) {w : Nat} (word : w % 4 = 0) (low : block ≤ w) (high : w + 4 ≤ block + 4096) :
    w ∉ (refetchDone s block r g).spmBad := by
  have calm' : (wakeBanks (refetchTaken s block r) block 4096).inject = none :=
    ((wakeBanks_spared (s := refetchTaken s block r) (stops := False) (area := fun _ => False) block 4096).parity calm).1
  have full : w ∈ fullWords block (homeBytes g).length := by
    rw [length_homeBytes]
    simp only [fullWords, List.mem_map, List.mem_range]
    exact ⟨w / 4 - (block + 3) / 4, by omega, by omega⟩
  have clean : w ∉ (blockStored s block r g).spmBad := by
    rw [blockStored, spmStore_calm calm']
    simp only [spmPut, clearPlanes, List.mem_filter, not_and, Bool.not_eq_true', List.contains_eq_mem, decide_eq_false_iff_not,
      not_not]
    exact fun _ => full
  have still : (blockStored s block r g).inject = none := ((blockStored_spares (stops := False)).parity calm).1
  obtain ⟨still', kept⟩ := (refilled_spares (stops := False) (s := s) (block := block) (r := r) (g := g)).parity still
  obtain ⟨ds, same⟩ := refetchDone_eq s block r g
  rw [same]
  exact fun bad => clean (kept w ((report_spares.parity still').2 w bad))

theorem refetchDone_count (canon : Canon s) (low : r.region < 64) : regBits (refetchDone s block r g) (backReg r.region 5) 31 16 =
    min (regBits s (backReg r.region 5) 31 16 + 1) 0xFFFF := by
  obtain ⟨ds, same⟩ := refetchDone_eq s block r g
  have told : regGet (refetchDone s block r g) (backReg r.region 5) = regGet (repaired s block r g) (backReg r.region 5) := by
    rw [same]
    exact report_spares.regs _ (countReg_own _ low)
  have counted := regBits_regPutBits_same (off := backReg r.region 5) (hi := 31) (lo := 16) (repaired_keeps (s := s) (block := block)
    (r := r) (g := g) canon) (min (regBits (refilled s block r g) (backReg r.region 5) 31 16 + 1) 0xFFFF) (by decide) (by decide)
  have before : regBits (refilled s block r g) (backReg r.region 5) 31 16 = regBits s (backReg r.region 5) 31 16 := by
    rw [regBits, regBits, refilled_regs (countReg_own _ low)]
  rw [regBits, told]
  refine counted.trans ?_
  rw [before]
  exact Nat.mod_eq_of_lt (by omega)

theorem spmHavoc_descs (s : State) (off len : Nat) : (spmHavoc s off len).descs = s.descs := writeThrough_descs ..

theorem repaired_descs : (repaired s block r g).descs = s.descs :=
  (foldl_descs (fun s _ => spmHavoc_descs s ..) _ _).trans ((spmStore_descs ..).trans (wakeBanks_descs ..))

theorem refetchDone_waits {d : Nat} {x : Desc} (here : descGet s d = some x) (waits : x.waitBlock = some block) :
    ∃ y, descGet (refetchDone s block r g) d = some y ∧ y.waitBlock = none := by
  obtain ⟨y, found, same⟩ := ((DescsNoted.of_eq repaired_descs).trans (raiseErr_noted (repaired s block r g) (refetchRec s r true))).get here
  have asks : y.waitBlock = some block := by rw [← waits, ← same]
  exact foldl_waitEnded found (.inr ⟨y, List.mem_of_find?_eq_some found, descGet_id found, asks⟩)

/-! What a failure leaves. -/

theorem failure_spares : Spares False (logArea (refetchTaken s block r)) (refetchTaken s block r)
    (raiseErr (refetchTaken s block r) (refetchRec s r false)) :=
  raiseErr_operation rfl (show (0x0205 : Nat) ≠ 0x0401 by decide) (.inl rfl)

theorem failure_up (acts : live s = true) : live (raiseErr (refetchTaken s block r) (refetchRec s r false)) = true := by
  rw [live_boot (failure_spares.boot.resolve_left id), ← acts]
  rfl

theorem refetchFailed_eq (s : State) (block : Nat) (r : Refetch) : ∃ n gs, refetchFailed s block r =
    { raiseErr (refetchTaken s block r) (refetchRec s r false) with nextId := n, gathers := gs } := by
  have each (l : List Nat) (t : State) : ∃ n gs,
      l.foldl (fun s o => pollFail s block o) t = { t with nextId := n, gathers := gs } := by
    induction l generalizing t with
    | nil => exact ⟨t.nextId, t.gathers, rfl⟩
    | cons o l ih =>
      obtain ⟨n, gs, same⟩ := ih (pollFail t block o)
      exact ⟨n, gs, same⟩
  exact each _ _

/-- REFETCH_FAILED sets its event where EEU takes errors (R310, R325). -/
theorem failure_event (canon : Canon s) (acts : live s = true) (open' : eeuShut s = false) :
    bitOf 1 (regGet (raiseErr (refetchTaken s block r) (refetchRec s r false)) 0xC00040) = true := by
  have shut : eeuShut (refetchTaken s block r) = false := open'
  have stopped : (refetchTaken s block r).boot.stopped = false := by
    simp only [live, Bool.and_eq_true, Bool.not_eq_true'] at acts
    exact acts.2
  have taken : Canon (refetchTaken s block r) :=
    ⟨canon.spm, canon.nor, canon.regs, canon.counters, canon.cntShadow, canon.voc, canon.corr, canon.trim, canon.ftab⟩
  have raised : raiseErr (refetchTaken s block r) (refetchRec s r false) =
      setEvent (writeEntry (refetchTaken s block r) (refetchRec s r false) 2 false 0).1 1 := by
    simp only [raiseErr, shut, stopped, Bool.false_eq_true, if_false]
    rfl
  rw [raised, setEvent, regGet_regPutBits_same ((writeEntry_keeps (Keeps.refl _)).canon taken) _ (by decide) (by decide),
    bitOf_setBits_same]
  rfl

end

/-- Settles O40: a repair's state part by part, from the block's bytes to the report; a failure's is the report alone. -/
theorem refetchesRepair : Obligations.RefetchesRepair := by
  unfold Obligations.RefetchesRepair
  intro s block r g canon acts here low read whole
  refine fun apart => ⟨fun good => ?_, fun c bad none' => ?_⟩
  · refine ⟨_, exec_refetch_ok acts here read whole good (repair_up acts), refetchDone_blocks, fun i inside kept => ?_,
      fun calm w word lo hi => refetchDone_parity calm word lo hi, refetchDone_count canon low,
      fun d x found waits => refetchDone_waits found waits⟩
    refine refetchDone_bytes canon inside (fun ⟨p, listed, hit⟩ => kept p listed hit) fun ⟨above, below⟩ => ?_
    omega
  · obtain ⟨n, gs, same⟩ := refetchFailed_eq s block r
    refine ⟨_, exec_refetch_failed acts here read whole bad none' (failure_up acts), ?_, fun i inside => ?_, ?_, fun open' => ?_⟩
    · rw [same]
      exact failure_spares.blocks
    · rw [same]
      refine failure_spares.bytes _ fun ⟨above, below⟩ => ?_
      have log : regGet (refetchTaken s block r) 0xC00010 = regGet s 0xC00010 := rfl
      rw [log] at above below
      omega
    · rw [same]
      exact failure_spares.regs _ (countReg_own _ low)
    · rw [same]
      exact failure_event canon acts open'

end Sys2Proof.Machine
end

section
/-! A direct write of a collective whose address passes 2^64 (R169, R172, R278). -/
namespace Sys2Proof.Machine

/-- The table entry of a group of two members, of which this cluster is member 0 and cluster 1 is member 1. -/
def couple : List Byte :=
  toLe 4 2 ++ toLe 4 0 ++ toLe 10 (2 + 2 ^ 16 + 2 ^ 32 + 2 ^ 48 + 2 ^ 64) ++ toLe 26 0 ++ toLe 2 7 ++ toLe 2 8 ++
    toLe 8 0x1000 ++ toLe 8 0x2000

/-- An INT32 all-reduction of four elements on that group, with sequence number 5. -/
def coupleDesc : Desc where
  id := 5
  ring := 0
  index := 0
  seq := 0
  cls := 0
  src := 0
  phase := .running
  bytes := padTo 32 [0x40] ++ [0, 0, 0, 4] ++ List.replicate 4 0 ++ toLe 8 4 ++ List.replicate 8 0 ++
    toLe 8 5 ++ toLe 8 0x3000 ++ toLe 8 0x3100
  aux := couple ++ toLe 4 0 ++ toLe 4 0 ++ toLe 4 1 ++ toLe 4 1

/-- Its run, which has heard nothing yet. -/
def coupleRun : ClRun where
  group := 0
  seq := 5
  sig := clSignature coupleDesc
  phase := 1

/-- That descriptor as it runs. -/
def coupleRunning : Desc := { coupleDesc with engine := .coll coupleRun }

/-- The group, loaded. -/
def coupleGroup : ClGroup where
  group := 0
  entry := couple
  base := 0

/-- A direct write of member 1, of four bytes, whose address is that of byte 0x100 once it has wrapped. -/
def wrappingWrite : Packet where
  type := 5
  vc := 3
  dest := 0
  src := 1
  tag := 5
  collSeq := 5
  payload := [1, 2, 3, 4]
  body := toLe 8 0 ++ toLe 8 5 ++ toLe 8 coupleRun.sig.toNat ++ toLe 8 0
  addr := 2 ^ 64 + 0x100

/-- A cluster at which that write has arrived, and whose entry 0 of the protection table lets nobody access the first
4096 bytes. -/
def wrappingState : State :=
  { State.reset with
    boot := { por := false }
    regs := [(0x102018, 1), (0x200010, 5)]
    fep := { inbox := [(3, wrappingWrite)] }
    cle := [coupleGroup]
    descs := [coupleRunning] }

/-- The access of that write, as the statement gives it. -/
def wrappingAccess : Access :=
  { packetAccess wrappingState 3 wrappingWrite .write with addr := ownAddr wrappingState wrappingWrite.addr }

theorem canon_wrappingState : Canon wrappingState := ⟨by decide, rfl, rfl, rfl, rfl, rfl, rfl, rfl, rfl⟩

/-- The bytes lie in range, and nothing stands in their way. -/
theorem ownFree_wrappingAccess : OwnFree wrappingState wrappingAccess.addr wrappingAccess.len where
  some := by decide
  own := by decide
  fits := by decide
  unbacked := by decide +kernel
  unordered := by decide +kernel
  settled := rfl
  good := rfl
  quiet := ⟨rfl, List.forall_mem_nil _, by decide⟩
  apart := {
    rings := List.forall_mem_nil _
    cqs := List.forall_mem_nil _
    saves := by decide
    routes := by decide }
  short := by decide
  page := by decide

/-- At the address before it wraps no entry of the table stands, and the default lets the write pass. -/
theorem wrappingAccess_allowed :
    protCheck wrappingState wrappingAccess.src wrappingAccess.addr wrappingAccess.len .write = none := by
  decide +kernel

/-- At the address that it reaches entry 0 refuses the write: its first byte is not stored. -/
theorem wrappingWrite_refused : ∃ v, exec (.collWrite 3 wrappingWrite) wrappingState = .next v ∧ spmByte v 0x100 = 0 := by
  have h : (match exec (.collWrite 3 wrappingWrite) wrappingState with
    | .next v => spmByte v 0x100 == 0
    | _ => false) = true := by decide +kernel
  split at h
  · next v e => exact ⟨v, e, by simpa using h⟩
  all_goals exact absurd h (by decide)

/-- Refutes O54: nothing bounds the address of a direct write's packet. The statement asks the protection table about
that address as it stands, and the model about the offset that it reaches; where the address passes 2^64, no entry
covers the one, while an entry refuses the other, and the bytes are not stored. -/
theorem not_collectivesRun : ¬ Obligations.CollectivesRun := by
  unfold Obligations.CollectivesRun
  intro claim
  obtain ⟨-, -, packets⟩ := claim wrappingState canon_wrappingState rfl
  obtain ⟨-, writes, -⟩ := packets 3 wrappingWrite coupleGroup (List.mem_singleton.2 rfl) rfl
  obtain ⟨active, -⟩ := writes rfl rfl
  have sorted : clSort wrappingState coupleGroup wrappingWrite = .active 5 := by decide +kernel
  have waits : ∃ p ∈ treeParts (clEntry coupleRunning) (clIndex coupleRunning), p.1 ∉ coupleRun.heard.map (·.1) := by
    decide +kernel
  have plain : clOp coupleRunning ≠ 5 := by decide
  obtain ⟨v, ran, -, stored, -⟩ := active 5 coupleRunning coupleRun sorted rfl rfl rfl rfl (by decide +kernel) waits
    (fun all => absurd all plain) (by decide) (by decide +kernel) wrappingAccess_allowed ownFree_wrappingAccess
    (by decide) (.inr (by decide +kernel))
  obtain ⟨w, ran', zero⟩ := wrappingWrite_refused
  obtain rfl : v = w := by simpa using ran.symm.trans ran'
  have first : spmByte v 0x100 = 1 := congrArg (fun l => l.headD 0) stored
  exact absurd (first.symm.trans zero) (by decide)

end Sys2Proof.Machine
end

section
/-! What an advance of a counter leaves of the counters, whatever the waits and the rounds that it ends (R195, R211, R231). -/
namespace Sys2Proof.Machine

theorem Wrote.counters_eq {s u : State} (h : Wrote s u) : u.counters = s.counters := by
  obtain ⟨⟨_, _, _, _, _, _, _, _, _, _, _, _, rfl⟩, -⟩ := h
  rfl

theorem Homed.counters_eq {s u : State} (h : Homed s u) : u.counters = s.counters := by
  obtain ⟨_, _, _, _, _, rfl⟩ := h
  rfl

/-! An error that is raised. -/

@[simp] theorem setEvent_counters (s : State) (b : Nat) : (setEvent s b).counters = s.counters := rfl

@[simp] theorem suppPut_counters (s : State) (k : Nat × Nat) (v : Option Nat × Nat) : (suppPut s k v).counters = s.counters := rfl

@[simp] theorem eeuStatus_counters (s : State) : (eeuStatus s).counters = s.counters := rfl

@[simp] theorem deliverEntry_counters (s : State) : (deliverEntry s).counters = s.counters := by
  unfold deliverEntry
  split
  · split <;> rfl
  · rfl

@[simp] theorem unitStore_counters (s : State) (off : Nat) (bs : List Byte) : (unitStore s off bs).counters = s.counters := by
  unfold unitStore
  dsimp only
  split
  · rfl
  · split
    · rfl
    · rw [storeRuns_eq]
      exact (writeThrough_homed ..).counters_eq.trans (foldl_storeOne_wrote ..).counters_eq

@[simp] theorem writeEntry_counters (s : State) (e : ErrRec) (cls : Nat) (esc : Bool) (supp : Nat) :
    (writeEntry s e cls esc supp).1.counters = s.counters := by
  unfold writeEntry
  dsimp only
  split
  · rfl
  · rw [deliverEntry_counters]
    exact unitStore_counters ..

@[simp] theorem writeFatal_counters (s : State) (e : ErrRec) (cls : Nat) (esc : Bool) :
    (writeFatal s e cls esc).counters = s.counters := by
  unfold writeFatal
  split <;> rfl

@[simp] theorem stopCluster_counters (s : State) (supply : Bool) : (stopCluster s supply).counters = s.counters := by
  have told : (if eeuShut s then s else setEvent s 2).counters = s.counters := by split <;> rfl
  have down (u : State) : (linksDown u).counters = u.counters := rfl
  simp only [stopCluster, down]
  split <;> exact told

@[simp] theorem countCorrected_counters (s : State) (res : Nat) : (countCorrected s res).counters = s.counters := by
  unfold countCorrected
  dsimp only
  split <;> split <;> split <;> rfl

@[simp] theorem raiseErr_counters (s : State) (e : ErrRec) : (raiseErr s e).counters = s.counters := by
  unfold raiseErr
  dsimp only
  repeat' split
  all_goals simp only [stopCluster_counters, setEvent_counters, suppPut_counters, writeEntry_counters, writeFatal_counters,
    countCorrected_counters]

/-! The waits and the rounds. -/

/-- The state in which descriptor `d` has ended as `y`. -/
def descFinished (s : State) (d : Nat) (y : Desc) : State :=
  { descUpd s d fun _ => y with gathers := s.gathers.filter fun g => g.owner != d }

/-- The end of a descriptor changes nothing where there is none to end; else it finishes it with its status, another one
only where a reconfiguration has disturbed it, and may report a failure (R239, R310, R322). -/
theorem endDesc_cases (s : State) (d st : Nat) (det : Detail) : endDesc s d st det = s ∨ ∃ x y : Desc,
    descGet s d = some x ∧ y.disturbed = x.disturbed ∧ (x.disturbed = false → y.status = st) ∧
      (endDesc s d st det = descFinished s d y ∨ y.status ≠ 0 ∧ ∃ e : ErrRec, e.cls = 2 ∧ e.code = 0x0201 ∧
        endDesc s d st det = raiseErr (descFinished s d y) e) := by
  rcases here : descGet s d with - | x
  · exact .inl (by rw [endDesc, here])
  by_cases ended : x.phase = .finished
  · exact .inl (by simp only [endDesc, here, ended, if_true])
  have calm (undisturbed : x.disturbed = false) : (if x.disturbed && !x.rejected then stDisturbed else st) = st := by
    rw [undisturbed]
    rfl
  simp only [endDesc, here, ended, if_false]
  generalize (if x.disturbed && !x.rejected then stDisturbed else st) = status at calm ⊢
  refine .inr ⟨x, { x with phase := .finished, status, detail := det, waitBlock := none }, rfl, rfl, calm, ?_⟩
  split
  · exact .inl rfl
  next reported =>
    refine .inr ⟨fun (zero : status = 0) => reported ?_, _, rfl, rfl, rfl⟩
    rw [zero]
    rfl

@[simp] theorem endDesc_counters (s : State) (d st : Nat) (det : Detail) : (endDesc s d st det).counters = s.counters := by
  obtain same | ⟨x, y, -, -, -, same | ⟨-, e, -, -, same⟩⟩ := endDesc_cases s d st det
  · rw [same]
  · rw [same]
    rfl
  · rw [same, raiseErr_counters]
    rfl

@[simp] theorem testWaits_counters (s : State) (c : Nat) : (testWaits s c).counters = s.counters := by
  unfold testWaits
  exact foldl_same (p := State.counters) (fun u d => (endDesc_counters ..).trans (descUpd_counters ..)) _ s

/-- The rounds that close set CLOSED in their control registers, and change nothing else. -/
theorem closeRounds_eq (s : State) (c : Nat) : ∃ regs cfgBad, closeRounds s c = { s with regs, cfgBad } := by
  unfold closeRounds
  induction List.range 16 generalizing s with
  | nil => exact ⟨_, _, rfl⟩
  | cons n l ih =>
    rw [List.foldl_cons]
    split
    · split
      · split
        · exact ih (regPutBits s (ordReg n 4) 3 3 1)
        · exact ih s
      · exact ih s
    · exact ih s

theorem counterSet_counters (s : State) (c : Nat) (v : Dword) :
    (counterSet s c v).counters = mapSet (fun _ => 0) s.counters c v := by
  obtain ⟨_, _, same⟩ := closeRounds_eq (testWaits { s with counters := mapSet (fun _ => 0) s.counters c v } c) c
  rw [counterSet, same]
  exact testWaits_counters ..

/-- A counter that is set reads what it was set to. -/
theorem counterGet_counterSet_same {s : State} (canon : Canon s) (c : Nat) (v : Dword) : counterGet (counterSet s c v) c = v := by
  rw [counterGet, counterSet_counters]
  exact mapGet_set_same canon.counters

theorem counterGet_counterSet_other (s : State) {c k : Nat} (v : Dword) (h : k ≠ c) :
    counterGet (counterSet s c v) k = counterGet s k := by
  rw [counterGet, counterSet_counters]
  exact mapGet_set_other h

/-- An advance adds its amount to its own counter, and nothing to another. -/
theorem counterGet_counterAdvance {s : State} (canon : Canon s) (c n k : Nat) :
    counterGet (counterAdvance s c n) k = counterGet s k + if c = k then BitVec.ofNat 64 n else 0 := by
  rw [counterAdvance]
  split
  · next same => rw [← same, counterGet_counterSet_same canon]
  · next other => rw [counterGet_counterSet_other s _ (Ne.symm other)]; exact (BitVec.add_zero _).symm

/-- Settles O58, by induction on the advances; the state after a reset has no counter entry. -/
theorem countersTakeEveryAdvance : Obligations.CountersTakeEveryAdvance := by
  unfold Obligations.CountersTakeEveryAdvance
  refine ⟨fun s l c canon => ?_, fun s u reset c => ?_, fun s u released reset c => ?_⟩
  · induction l generalizing s with
    | nil => simp
    | cons p l ih =>
      have step := ih (counterAdvance s p.1 p.2) ((counterAdvance_keeps (Keeps.refl s)).canon canon)
      rw [List.foldl_cons, step, counterGet_counterAdvance canon]
      by_cases own : p.1 = c
      · simp [own, BitVec.ofNat_add, BitVec.add_assoc]
      · simp [own]
  · cases reset
    rfl
  · have run : execWarmresetN s = .next u := reset
    rw [execWarmresetN, released] at run
    cases run
    rfl

end Sys2Proof.Machine
end

section
/-! What an advance of a counter leaves beside the counters, where no reconfiguration has disturbed a descriptor (R195,
R211, R231). -/
namespace Sys2Proof.Machine

/-- No descriptor has been disturbed by a reconfiguration (R322). -/
def Calm (s : State) : Prop := ∀ d ∈ s.descs, d.disturbed = false

/-- A state that differs in its descriptors, none of them disturbed, and in the reads that were made for them. -/
def Waited (s u : State) : Prop := Calm u ∧ ∃ descs gathers, u = { s with descs, gathers }

theorem Waited.trans {s t u : State} : Waited s t → Waited t u → Waited s u := by
  rintro ⟨-, _, _, rfl⟩ ⟨calm, descs, gathers, rfl⟩
  exact ⟨calm, descs, gathers, rfl⟩

theorem forall_mem_replaceFirst {α : Type} {p : α → Bool} {f : α → α} {q : α → Prop} {l : List α} (old : ∀ x ∈ l, q x)
    (new : ∀ x ∈ l, q (f x)) : ∀ x ∈ replaceFirst p f l, q x := by
  induction l with
  | nil => exact old
  | cons y l ih =>
    rw [List.forall_mem_cons] at old new
    rw [replaceFirst]
    split
    · exact List.forall_mem_cons.2 ⟨new.1, old.2⟩
    · exact List.forall_mem_cons.2 ⟨old.1, ih old.2 new.2⟩

theorem descUpd_waited {s : State} (calm : Calm s) {d : Nat} {f : Desc → Desc} (kept : ∀ x, (f x).disturbed = x.disturbed) :
    Waited s (descUpd s d f) :=
  ⟨forall_mem_replaceFirst calm fun x here => (kept x).trans (calm x here), _, s.gathers, rfl⟩

/-- A descriptor that ends in success reports nothing. -/
theorem endDesc_waited {s : State} (calm : Calm s) (d : Nat) (det : Detail) : Waited s (endDesc s d 0 det) := by
  obtain same | ⟨x, y, here, kept, status, same | ⟨failed, -⟩⟩ := endDesc_cases s d 0 det
  · rw [same]
    exact ⟨calm, s.descs, s.gathers, rfl⟩
  · rw [same]
    have quiet : x.disturbed = false := calm x (List.mem_of_find?_eq_some here)
    exact ⟨forall_mem_replaceFirst calm fun _ _ => kept.trans quiet, _, _, rfl⟩
  · exact absurd (status (calm x (List.mem_of_find?_eq_some here))) failed

theorem testWaits_waited {s : State} (calm : Calm s) (c : Nat) : Waited s (testWaits s c) := by
  unfold testWaits
  dsimp only
  generalize s.descs.filter _ = hit
  have step (u : State) (calm : Calm u) (d : Desc) :
      Waited u (endDesc (descUpd u d.id fun x => { x with body := toLe 8 (counterGet u c).toNat }) d.id 0 {}) :=
    have noted := descUpd_waited calm (d := d.id) (f := fun x => { x with body := toLe 8 (counterGet u c).toNat }) fun _ => rfl
    noted.trans (endDesc_waited noted.1 _ _)
  induction hit generalizing s with
  | nil => exact ⟨calm, s.descs, s.gathers, rfl⟩
  | cons d hit ih => exact (step s calm d).trans (ih (step s calm d).1)

/-- A register that the closing of rounds leaves alone: no control register of a region, or one whose ARM is clear. -/
def Unarmed (s : State) (o : Nat) : Prop := (∀ n, o ≠ ordReg n 4) ∨ bitOf 0 (regGet s o) = false

theorem closeRounds_reg {s : State} {o : Nat} (unarmed : Unarmed s o) (c : Nat) : regGet (closeRounds s c) o = regGet s o := by
  unfold closeRounds
  induction List.range 16 generalizing s with
  | nil => rfl
  | cons n l ih =>
    have kept : ordArm s n = true → regGet (regPutBits s (ordReg n 4) 3 3 1) o = regGet s o := fun arm => by
      refine regGet_regPutBits_other s 3 3 1 fun own => ?_
      rcases unarmed with other | clear
      · exact other n own
      · rw [own] at clear
        exact absurd (clear.symm.trans arm) (by decide)
    rw [List.foldl_cons]
    split
    next counts =>
      simp only [Bool.and_eq_true] at counts
      obtain ⟨⟨arm, -⟩, -⟩ := counts
      split
      · split
        · exact (ih (unarmed.imp id fun clear => by rw [kept arm, clear])).trans (kept arm)
        · exact ih unarmed
      · exact ih unarmed
    next => exact ih unarmed

/-- The parts of a state that an advance may leave alone: the scratchpad's bytes and the rounds, and the registers but
for the control of an armed region. -/
theorem counterSet_calm {s : State} (calm : Calm s) (c : Nat) (v : Dword) :
    (∀ x, spmByte (counterSet s c v) x = spmByte s x) ∧ (counterSet s c v).ord = s.ord ∧
      ∀ o, Unarmed s o → regGet (counterSet s c v) o = regGet s o := by
  obtain ⟨-, descs, gathers, waited⟩ := testWaits_waited (s := { s with counters := mapSet (fun _ => 0) s.counters c v }) calm c
  obtain ⟨regs, cfgBad, closed⟩ := closeRounds_eq (testWaits { s with counters := mapSet (fun _ => 0) s.counters c v } c) c
  have closes (o : Nat) := closeRounds_reg (s := testWaits { s with counters := mapSet (fun _ => 0) s.counters c v } c) (o := o)
  rw [waited] at closed closes
  rw [counterSet, waited]
  refine ⟨fun x => ?_, ?_, fun o unarmed => closes o unarmed c⟩
  · rw [closed]
    rfl
  · rw [closed]

end Sys2Proof.Machine
end

section
/-! The fold of a closed ordered region (R212). -/
namespace Sys2Proof.Machine

/-! The order of the sources. -/

theorem foldOrder_eq (r : OrdRound) :
    foldOrder r = ((List.range r.tags.length).zip r.tags).reverse.insertionSort (fun p q => p.2 ≤ q.2) := by
  have inserts : (fun (l : List (Nat × Nat)) p => l.takeWhile (fun q => q.2 < p.2) ++ p :: l.dropWhile (fun q => q.2 < p.2)) =
      fun l p => l.orderedInsert (fun p q => p.2 ≤ q.2) p := by
    funext l p
    simp only [List.orderedInsert_eq_take_drop, not_le]
  rw [foldOrder, inserts, List.insertionSort, List.foldr_reverse]

/-- Slots listed in ascending source order are the order of the fold. -/
theorem foldOrder_unique {r : OrdRound} {order : List (Nat × Nat)} (all : order.Perm ((List.range r.tags.length).zip r.tags))
    (ascending : order.Pairwise fun p q => p.2 < q.2) : foldOrder r = order := by
  have total : Std.Total fun p q : Nat × Nat => p.2 ≤ q.2 := ⟨fun p q => Nat.le_total p.2 q.2⟩
  have trans : IsTrans (Nat × Nat) fun p q => p.2 ≤ q.2 := ⟨fun _ _ _ => Nat.le_trans⟩
  have same : (foldOrder r).Perm order := by
    rw [foldOrder_eq]
    exact ((List.perm_insertionSort ..).trans (List.reverse_perm _)).trans all.symm
  have sorted : (foldOrder r).Pairwise fun p q => p.2 ≤ q.2 := by
    rw [foldOrder_eq]
    exact List.pairwise_insertionSort ..
  have distinct : (order.map Prod.snd).Nodup := List.pairwise_map.2 (ascending.imp Nat.ne_of_lt)
  exact same.eq_of_pairwise (fun p q hp hq le ge => List.inj_on_of_nodup_map distinct (same.mem_iff.1 hp) hq (Nat.le_antisymm le ge))
    sorted (ascending.imp Nat.le_of_lt)

/-! The bytes of the result. -/

section
variable (s : State) (n : Nat) (r : OrdRound)

/-- The bytes of an element of region `n`: its target's value and the slots' entries, rounded at every step. -/
def foldValue (i : Nat) : List Byte :=
  let bf := bitOf 1 (regGet s (ordReg n 4))
  let w := if bf then 2 else 4
  toLe w (foldElem (if bf then .bf16 else .fp32) (leNat (spmBytes s ((ordTarget s n).1 + w * i) w))
    ((foldOrder r).map fun p => BitVec.ofNat 32 (leNat (spmBytes s ((ordSlots s n).1 + 4 * (p.1 * regBits s (ordReg n 2) 20 0 + i)) 4))))

/-- The bytes of them all. -/
def foldResult : List Byte := ((List.range (regBits s (ordReg n 2) 20 0)).map (foldValue s n r)).flatten

/-- The state in which the fold's reads are forgotten and its banks awake. -/
def foldWoken : State :=
  wakeBanks (wakeBanks (gatherDrop s (foldOwner n)) (ordTarget s n).1 (ordTarget s n).2) (ordSlots s n).1 (ordSlots s n).2

/-- The write of the fold's result. -/
def foldWrite : Access :=
  { kind := .write, addr := ownAddr (foldWoken s n) (ordTarget s n).1, len := (ordTarget s n).2, steward := true
    src := ownId (foldWoken s n), who := .fold n }

/-- The state in which the result stands in the scratchpad. -/
def foldStored : State := storeOne none (foldWrite s n) (foldWoken s n) ((ordTarget s n).1, foldResult s n r)

end

section
variable {s : State} {n : Nat} {r : OrdRound}

theorem length_foldValue (i : Nat) : (foldValue s n r i).length = if bitOf 1 (regGet s (ordReg n 4)) then 2 else 4 :=
  length_toLe ..

theorem length_foldResult : (foldResult s n r).length = (ordTarget s n).2 := by
  simp [foldResult, ordTarget, length_foldValue, Function.comp_def]

/-- A concatenation of pieces of one length, cut at a piece. -/
theorem flatten_piece {α : Type} {f : Nat → List α} {w n i : Nat} (len : ∀ i, (f i).length = w) (low : i < n) :
    ((((List.range n).map f).flatten).drop (w * i)).take w = f i := by
  have before : (((List.range n).map f).map List.length |>.take i).sum = w * i := by
    have lengths : ((List.range n).map f).map List.length = List.replicate n w := by
      simp [Function.comp_def, len]
    rw [lengths, List.take_replicate, List.sum_replicate, Nat.min_eq_left low.le, smul_eq_mul, Nat.mul_comm]
  have rest : ((List.range n).map f).drop i = f i :: ((List.range n).map f).drop (i + 1) := by
    rw [List.drop_eq_getElem_cons (by simpa using low)]
    simp
  rw [← before, List.drop_sum_flatten, rest, List.flatten_cons, List.take_append_of_le_length (len i).ge, ← len i,
    List.take_length]

/-- With every word of good parity the fold's bytes are its result, and nothing is drawn. -/
theorem foldBytes_good (good : s.spmBad = []) : foldBytes s n r = (foldResult s n r, s) := by
  have drawn : (drawBytes s 0).2 = s := rfl
  have none' : ((foldOrder r).any fun _ => false) = false := List.any_eq_false.2 fun _ _ => Bool.false_ne_true
  simp only [foldBytes, good, spmBadIn, List.find?_nil, Option.isSome_none, none', Bool.false_eq_true, Bool.or_self,
    List.isEmpty_nil, if_true, if_false, drawn]
  rfl

theorem foldBad_good (good : s.spmBad = []) : foldBad s n r = none := by
  simp [foldBad, good]

theorem foldWoken_eq : ∃ power gathers, foldWoken s n = { s with power, gathers } := by
  have wakes (s : State) (off len : Nat) : ∃ power, wakeBanks s off len = { s with power } := by
    unfold wakeBanks
    split
    · exact ⟨s.power, rfl⟩
    · exact ⟨_, rfl⟩
  obtain ⟨_, first⟩ := wakes (gatherDrop s (foldOwner n)) (ordTarget s n).1 (ordTarget s n).2
  rw [foldWoken, first]
  obtain ⟨power, second⟩ := wakes { gatherDrop s (foldOwner n) with power := _ } (ordSlots s n).1 (ordSlots s n).2
  exact ⟨power, _, second⟩

theorem foldBytes_woken (good : s.spmBad = []) : foldBytes (foldWoken s n) n r = (foldResult s n r, foldWoken s n) := by
  obtain ⟨_, _, woken⟩ := foldWoken_eq (s := s) (n := n)
  have good' : (foldWoken s n).spmBad = [] := by
    rw [woken]
    exact good
  have same : foldResult (foldWoken s n) n r = foldResult s n r := by
    rw [woken]
    rfl
  rw [foldBytes_good good', same]

/-! The state in which the result is stored. -/

theorem storeOne_keeps (owner : Option Nat) (a : Access) (s : State) (x : Nat × List Byte) : Keeps s (storeOne owner a s x) := by
  unfold storeOne
  dsimp only
  split
  · exact spmWrite_keeps (wakeBanks_keeps (Keeps.refl s))
  · exact routeWritten_keeps (entriesWritten_keeps (spmWrite_keeps (wakeBanks_keeps (Keeps.refl s))))

theorem Calm.noted {s u : State} (calm : Calm s) (noted : DescsNoted s u) : Calm u := by
  obtain ⟨f, same, map⟩ := noted
  intro d here
  rw [map] at here
  obtain ⟨x, hx, rfl⟩ := List.mem_map.1 here
  exact (congrArg Desc.disturbed (same x)).trans (calm x hx)

theorem storeOne_noted (owner : Option Nat) (a : Access) (s : State) (x : Nat × List Byte) : DescsNoted s (storeOne owner a s x) := by
  obtain ⟨_, _, _, marked⟩ := storeOne_marked owner a s x
  refine .trans (.trans (.of_eq (wakeBanks_descs s x.1 x.2.length)) (spmWrite_noted _ owner x.1 x.2)) (.of_eq ?_)
  rw [marked]

theorem foldWoken_keeps : Keeps s (foldWoken s n) := wakeBanks_keeps (wakeBanks_keeps (gatherDrop_keeps (Keeps.refl s)))

theorem foldStored_canon (canon : Canon s) : Canon (foldStored s n r) := (storeOne_keeps ..).canon (foldWoken_keeps.canon canon)

theorem foldStored_calm (calm : Calm s) : Calm (foldStored s n r) := by
  obtain ⟨_, _, woken⟩ := foldWoken_eq (s := s) (n := n)
  refine Calm.noted ?_ (storeOne_noted ..)
  rw [woken]
  exact calm

theorem foldStored_wrote : Wrote (foldWoken s n) (foldStored s n r) := storeOne_wrote ..

theorem foldStored_regs {o : Nat} (h : o ≠ 0x700200) : regGet (foldStored s n r) o = regGet s o := by
  obtain ⟨_, _, woken⟩ := foldWoken_eq (s := s) (n := n)
  rw [foldStored_wrote.2 o h, woken]
  rfl

theorem foldStored_ordReg (k : Nat) : regGet (foldStored s n r) (ordReg n k) = regGet s (ordReg n k) :=
  foldStored_regs (by simp only [ordReg]; omega)

theorem foldStored_ord : (foldStored s n r).ord = s.ord := by
  obtain ⟨_, _, woken⟩ := foldWoken_eq (s := s) (n := n)
  obtain ⟨⟨_, _, _, _, _, _, _, _, _, _, _, _, same⟩, -⟩ := foldStored_wrote (s := s) (n := n) (r := r)
  rw [same, woken]

theorem foldStored_counter (c : Nat) : counterGet (foldStored s n r) c = counterGet s c := by
  obtain ⟨_, _, woken⟩ := foldWoken_eq (s := s) (n := n)
  rw [counterGet, foldStored_wrote.counters_eq, woken]
  rfl

theorem foldStored_backOver (off len : Nat) : backOver (foldStored s n r) off len = backOver s off len :=
  backOver_congr (fun k _ j _ => foldStored_regs (by simp only [backReg]; omega)) ..

/-- An element of the target reads its value. -/
theorem foldStored_element (canon : Canon s) {i : Nat} (low : i < regBits s (ordReg n 2) 20 0) :
    let w := if bitOf 1 (regGet s (ordReg n 4)) then 2 else 4
    spmBytes (foldStored s n r) ((ordTarget s n).1 + w * i) w = foldValue s n r i := by
  intro w
  have canon' : Canon (foldWoken s n) := foldWoken_keeps.canon canon
  have piece := flatten_piece (fun i => length_foldValue (s := s) (n := n) (r := r) i) low
  have room : w * i + w ≤ (foldResult s n r).length := by
    rw [length_foldResult, ordTarget, ← Nat.mul_succ, Nat.mul_comm]
    exact Nat.mul_le_mul_right _ low
  rw [← piece]
  refine List.ext_getElem ?_ fun j hj _ => ?_
  · rw [List.length_take, List.length_drop, spmBytes, List.length_map, List.length_range]
    exact (Nat.min_eq_left (by change w ≤ (foldResult s n r).length - w * i; omega)).symm
  · have inside : j < w := by simpa [spmBytes] using hj
    have byte := spmByte_storeOne_inside (owner := none) (a := foldWrite s n) (r := ((ordTarget s n).1, foldResult s n r))
      canon'.spm (i := w * i + j) (by dsimp only; omega)
    simp only [spmBytes, List.getElem_map, List.getElem_range, List.getElem_take, List.getElem_drop, Nat.add_assoc]
    exact byte

theorem foldStored_elsewhere {x : Nat} (apart : ¬((ordTarget s n).1 ≤ x ∧ x < (ordTarget s n).1 + (ordTarget s n).2)) :
    spmByte (foldStored s n r) x = spmByte s x := by
  obtain ⟨_, _, woken⟩ := foldWoken_eq (s := s) (n := n)
  have other := spmByte_storeOne (owner := none) (a := foldWrite s n) (s := foldWoken s n)
    (r := ((ordTarget s n).1, foldResult s n r)) x (by dsimp only; rw [length_foldResult]; omega)
  rw [foldStored, other, woken]
  rfl

/-! The command. -/

section
variable (acts : live s = true) (low : n < 16) (closed : ordClosed s n = true) (round : ordRound s n = some r)
  (good : s.spmBad = []) (idle : r.folding = false)
  (settled : ∀ x ∈ s.refetch, overlap x.block 4096 (ordTarget s n).1 (ordTarget s n).2 = false)
include acts low closed round good idle settled

theorem exec_fold : exec (.fold n) s =
    .next (let o := storeRuns (foldWoken s n) none (foldWrite s n) [((ordTarget s n).1, foldResult s n r)] none []
      if o.2 then foldEnd o.1 n
      else { o.1 with ord := replaceFirst (fun x => x.region == n) (fun x => { x with folding := true }) o.1.ord }) := by
  have free : refetching s (ordTarget s n).1 (ordTarget s n).2 = none := by
    rw [refetching, List.find?_eq_none.2 fun x hx => by simp [settled x hx]]
    rfl
  have bytes := foldBytes_woken (n := n) (r := r) good
  show execFold n s = _
  simp only [execFold, whenLive, acts, if_true, closed, round, idle, free, foldBad_good good, ge_iff_le, Nat.not_le.2 low,
    decide_false, Bool.not_true, Bool.or_self, Option.isSome_none, Bool.false_eq_true, if_false]
  rw [foldWoken] at bytes
  simp only [bytes]
  rfl

/-- Where the target is unbacked the fold ends at once. -/
theorem exec_fold_unbacked (unbacked : backOver s (ordTarget s n).1 (ordTarget s n).2 = []) :
    exec (.fold n) s = .next (foldEnd (foldStored s n r) n) := by
  have whole : storeRuns (foldWoken s n) none (foldWrite s n) [((ordTarget s n).1, foldResult s n r)] none [] =
      (foldStored s n r, true) := by
    rw [storeRuns_eq]
    refine writeThrough_unbacked fun x hx => ?_
    obtain rfl := List.mem_singleton.1 hx
    exact (foldStored_backOver ..).trans (by rw [length_foldResult]; exact unbacked)
  rw [exec_fold acts low closed round good idle settled, whole]
  rfl

/-- The state in which the fold awaits the home copies of a backed target. -/
def foldAwaits (s : State) (n : Nat) (r : OrdRound) : State :=
  let u := sentHome (foldStored s n r) (foldWrite s n) [((ordTarget s n).1, foldResult s n r)] none []
  { u with ord := replaceFirst (fun x => x.region == n) (fun x => { x with folding := true }) u.ord }

theorem exec_fold_backed (backed : backOver s (ordTarget s n).1 (ordTarget s n).2 ≠ []) :
    exec (.fold n) s = .next (foldAwaits s n r) := by
  have sends : storeRuns (foldWoken s n) none (foldWrite s n) [((ordTarget s n).1, foldResult s n r)] none [] =
      (sentHome (foldStored s n r) (foldWrite s n) [((ordTarget s n).1, foldResult s n r)] none [], false) := by
    rw [storeRuns_eq]
    refine writeThrough_backed ⟨_, List.mem_singleton.2 rfl, fun none' => backed ?_⟩
    rw [← length_foldResult (r := r)]
    exact (foldStored_backOver ..).symm.trans none'
  rw [exec_fold acts low closed round good idle settled, sends]
  rfl

end

theorem foldAwaits_kept (round : ordRound s n = some r) : (∀ x, spmByte (foldAwaits s n r) x = spmByte (foldStored s n r) x) ∧
    (∀ c, counterGet (foldAwaits s n r) c = counterGet s c) ∧
    (∀ o, regGet (foldAwaits s n r) o = regGet (foldStored s n r) o) ∧
    ordRound (foldAwaits s n r) n = some { r with folding := true } := by
  obtain ⟨⟨_, _, _, _, _, sent⟩, -⟩ :=
    sentHome_homed (foldStored s n r) (foldWrite s n) [((ordTarget s n).1, foldResult s n r)] none []
  rw [foldAwaits, sent]
  refine ⟨fun _ => rfl, foldStored_counter, fun _ => rfl, ?_⟩
  have region : (r.region == n) = true := List.find?_some (p := fun x : OrdRound => x.region == n) round
  show (replaceFirst _ _ (foldStored s n r).ord).find? _ = _
  rw [foldStored_ord]
  exact find?_replaceFirst (f := fun x : OrdRound => { x with folding := true }) round region

theorem ordTarget_congr {v : State} (h : ∀ k < 8, regGet v (ordReg n k) = regGet s (ordReg n k)) : ordTarget v n = ordTarget s n := by
  have next : ordReg n 0 + 4 = ordReg n 1 := rfl
  simp only [ordTarget, regPair, regBits, next, h _ (by decide : 0 < 8), h _ (by decide : 1 < 8), h _ (by decide : 2 < 8),
    h _ (by decide : 4 < 8)]

/-! The end of a fold. -/

/-- The state in which the region is closed no more, and has no round. -/
def foldCleared (s : State) (n : Nat) : State :=
  { regPutBits (regPutBits s (ordReg n 4) 3 3 0) (ordReg n 4) 0 0 0 with ord := s.ord.filter fun x => x.region != n }

theorem foldCleared_reg {o : Nat} (h : o ≠ ordReg n 4) : regGet (foldCleared s n) o = regGet s o :=
  (regGet_regPutBits_other _ 0 0 0 h).trans (regGet_regPutBits_other s 3 3 0 h)

theorem foldCleared_control (canon : Canon s) : bitOf 0 (regGet (foldCleared s n) (ordReg n 4)) = false ∧
    bitOf 3 (regGet (foldCleared s n) (ordReg n 4)) = false := by
  have canon' : Canon (regPutBits s (ordReg n 4) 3 3 0) := (regPutBits_keeps (Keeps.refl s)).canon canon
  have word : regGet (foldCleared s n) (ordReg n 4) = setBits 0 0 (setBits 3 3 (regGet s (ordReg n 4)) 0) 0 := by
    rw [← regGet_regPutBits_same canon 0 (by decide) (by decide)]
    exact regGet_regPutBits_same canon' 0 (by decide) (by decide)
  rw [word, bitOf_setBits_same, bitOf_setBits_other _ _ (by decide) (by decide), bitOf_setBits_same]
  exact ⟨rfl, rfl⟩

theorem foldEnd_eq (s : State) (n : Nat) : foldEnd s n = counterSet (foldCleared s n) (regBits s (ordReg n 5) 27 16)
    (counterGet s (regBits s (ordReg n 5) 27 16) + BitVec.ofNat 64 (ordTarget s n).2) := by
  have done : regBits (foldCleared s n) (ordReg n 5) 27 16 = regBits s (ordReg n 5) 27 16 := by
    rw [regBits, regBits, foldCleared_reg (by simp only [ordReg]; omega)]
  rw [← done]
  rfl

/-- DONE_COUNTER has advanced by the target's bytes, and CLOSED and ARM are clear. -/
structure FoldEnded (s u : State) (n : Nat) : Prop where
  done : counterGet u (regBits s (ordReg n 5) 27 16) =
    counterGet s (regBits s (ordReg n 5) 27 16) + BitVec.ofNat 64 (ordTarget s n).2
  others : ∀ c, c ≠ regBits s (ordReg n 5) 27 16 → counterGet u c = counterGet s c
  closed : ordClosed u n = false
  arm : ordArm u n = false
  round : ordRound u n = none
  seen : regGet u (ordReg n 7) = regGet s (ordReg n 7)
  bytes : ∀ x, spmByte u x = spmByte s x

theorem foldEnd_ended (canon : Canon s) (calm : Calm s) : FoldEnded s (foldEnd s n) n := by
  have canon' : Canon (foldCleared s n) :=
    have c := (regPutBits_keeps (regPutBits_keeps (Keeps.refl s))).canon canon
    ⟨c.spm, c.nor, c.regs, c.counters, c.cntShadow, c.voc, c.corr, c.trim, c.ftab⟩
  have calm' : Calm (foldCleared s n) := calm
  obtain ⟨bit0, bit3⟩ := foldCleared_control (n := n) canon
  obtain ⟨bytes, rounds, regs⟩ := counterSet_calm calm' (regBits s (ordReg n 5) 27 16)
    (counterGet s (regBits s (ordReg n 5) 27 16) + BitVec.ofNat 64 (ordTarget s n).2)
  have control := regs (ordReg n 4) (.inr bit0)
  rw [foldEnd_eq]
  refine ⟨counterGet_counterSet_same canon' .., fun c h => counterGet_counterSet_other _ _ h, ?_, ?_, ?_, ?_, bytes⟩
  · rw [ordClosed, control, bit3]
  · rw [ordArm, control, bit0]
  · rw [ordRound, rounds]
    simp [foldCleared, List.find?_eq_none]
  · rw [regs _ (.inl fun k => by simp only [ordReg]; omega), foldCleared_reg (by simp only [ordReg]; omega)]

end

/-- Settles O39: the result is stored element by element in the order of the sources, and the fold ends at once where
the target is unbacked, and else when its home copies are answered. -/
theorem orderedRegionsFold : Obligations.OrderedRegionsFold := by
  unfold Obligations.OrderedRegionsFold
  intro s n r canon acts low closed round good calm idle settled bf w f elems base done folded ended
  have result (u : State) (bytes : ∀ x, spmByte u x = spmByte (foldStored s n r) x) : folded u := by
    refine ⟨fun order all ascending i inside => ?_, fun x apart => (bytes x).trans (foldStored_elsewhere apart)⟩
    have element := foldStored_element (r := r) canon inside
    simp only [spmBytes, bytes] at element ⊢
    refine element.trans ?_
    simp only [foldValue, foldElem, foldOrder_unique all ascending, List.foldl_map]
    rfl
  have ends (v u : State) (regs : ∀ k < 8, regGet v (ordReg n k) = regGet s (ordReg n k)) (h : FoldEnded v u n) : ended v u := by
    have counter : regBits v (ordReg n 5) 27 16 = done := by rw [regBits, regs 5 (by decide)]; rfl
    have bytes : (ordTarget v n).2 = elems * w := by rw [ordTarget_congr regs]; rfl
    exact ⟨by rw [← counter, ← bytes]; exact h.done, counter ▸ h.others, h.closed, h.arm, h.round, h.seen⟩
  refine ⟨fun unbacked => ⟨foldEnd (foldStored s n r) n, exec_fold_unbacked acts low closed round good idle settled unbacked, ?_⟩,
    fun backed => ⟨foldAwaits s n r, exec_fold_backed acts low closed round good idle settled backed, ?_⟩⟩
  · have fully : FoldEnded (foldStored s n r) (foldEnd (foldStored s n r) n) n :=
      foldEnd_ended (foldStored_canon canon) (foldStored_calm calm)
    obtain ⟨done', others, flags⟩ := ends _ _ (fun k _ => foldStored_ordReg k) fully
    rw [foldStored_ordReg] at flags
    exact ⟨result _ fully.bytes, done'.trans (by rw [foldStored_counter]), fun c h => (others c h).trans (foldStored_counter c), flags⟩
  · obtain ⟨bytes, counters, regs, awaits⟩ := foldAwaits_kept round
    have regs' (k : Nat) : regGet (foldAwaits s n r) (ordReg n k) = regGet s (ordReg n k) := (regs _).trans (foldStored_ordReg k)
    refine ⟨result _ bytes, counters, ?_, ?_, awaits, ordTarget_congr fun k _ => regs' k, fun v a x canon' calm' who same => ?_⟩
    · rw [ordClosed, regs']
      exact closed
    · rw [ordArm, regs']
      rfl
    · have delivered : deliver v a x = foldEnd v n := by simp only [deliver, who, deliverBase]
      rw [delivered]
      exact ends _ _ (fun k hk => (same k hk).trans (regs' k)) (foldEnd_ended canon' calm')

end Sys2Proof.Machine
end

section
/-! Commands that are writes of one privileged register: a counter cleared, a route front, an entry of the error log done,
the software event, the fatal record freed (R199, R284, R314, R315, R325, R326). -/
namespace Sys2Proof.Machine

/-- A write of a command register that is taken does what the register's command does (R6, R396). -/
theorem masterWrite_taken {s u : State} {m : Master} {off v : Nat} (hc : off ∈ lkCommandRegs) (h : Admits s m .write off)
    (accepted : lkAccepted s (masterPriv s m) off = true) (takes : lkWrite s off v = some u) : masterWrite s m off v = u := by
  obtain ⟨decoded, notInd, notSpecial, notAddr⟩ := lkCommandRegs_direct off hc
  rw [masterWrite_admits h]
  simp only [regWrite, decoded, notInd, if_neg notAddr, directWrite, notSpecial, openWrite_lkCommand s v off hc, accepted,
    takes, if_true]

/-! FEP_CNT_CLR (R199). -/

/-- The end of a descriptor changes no register but those of the log. -/
theorem endDesc_spared (s : State) (d st : Nat) (det : Detail) : Spares True (fun _ => True) s (endDesc s d st det) := by
  have finished (y : Desc) : Spares True (fun _ => True) s (descFinished s d y) :=
    ⟨.inr rfl, rfl, rfl, fun _ _ => rfl, fun h => ⟨h, fun _ => id⟩, fun _ _ => rfl⟩
  obtain same | ⟨x, y, -, -, -, same | ⟨-, e, cls, code, same⟩⟩ := endDesc_cases s d st det
  · rw [same]
    exact .refl s
  · rw [same]
    exact finished y
  · rw [same]
    exact (finished y).trans ((raiseErr_operation cls (by rw [code]; decide) (.inr trivial)).mono (fun _ _ => trivial) id)

theorem testWaits_spared (s : State) (c : Nat) : Spares True (fun _ => True) s (testWaits s c) := by
  unfold testWaits
  refine foldl_spared (fun u d => ?_) _ s
  have noted : Spares True (fun _ => True) u (descUpd u d.id fun x => { x with body := toLe 8 (counterGet u c).toNat }) :=
    ⟨.inr rfl, rfl, rfl, fun _ _ => rfl, fun h => ⟨h, fun _ => id⟩, fun _ _ => rfl⟩
  exact noted.trans (endDesc_spared ..)

theorem counterSet_reg {s : State} {o : Nat} (unlogged : ¬LogReg o) (uncontrol : ∀ n, o ≠ ordReg n 4) (c : Nat) (v : Dword) :
    regGet (counterSet s c v) o = regGet s o := by
  rw [counterSet, closeRounds_reg (.inl uncontrol), (testWaits_spared ..).regs o unlogged]
  rfl

/-- The word that a clear command leaves names its counter. -/
theorem clearWord {n c : Nat} (free : bitOf 31 n = false) (small : n < 2 ^ 32) (low : c < 4096) :
    bitOf 31 (setBits 11 0 n c + 2 ^ 31) = true ∧ bitsOf 11 0 (setBits 11 0 n c + 2 ^ 31) = c ∧
      (setBits 11 0 n c + 2 ^ 31) % 2 ^ 31 = setBits 11 0 n c := by
  simp only [bitOf, beq_eq_false_iff_ne] at free
  simp only [bitOf, bitsOf, setBits, beq_iff_eq]
  refine ⟨?_, ?_, ?_⟩ <;> omega

/-- Its register keeps that name, whatever the waits that the clear ends. -/
theorem clearCounter_reg {s : State} (canon : Canon s) (c : Nat) :
    regGet (counterSet (regPut s 0x900200 (setBits 11 0 (regGet s 0x900200) c)) c 0) 0x900200 =
      setBits 11 0 (regGet s 0x900200) c := by
  have small : setBits 11 0 (regGet s 0x900200) c < 2 ^ 32 := setBits_lt (by decide) (by decide) (regGet_lt ..)
  rw [counterSet_reg (by simp [LogReg]) (by simp only [ordReg]; omega), regGet_regPut_same canon, Nat.mod_eq_of_lt small]

theorem exec_counterClear {s : State} {m : Master} {c : Nat} (admits : Admits s m .write 0x900200) (priv : masterPriv s m = true)
    (free : bitOf 31 (regGet s 0x900200) = false) (low : c < 4096) : exec (.counterClear m c) s =
      .next (counterSet (regPut s 0x900200 (setBits 11 0 (regGet s 0x900200) c)) c 0) := by
  obtain ⟨go, counter, word⟩ := clearWord free (regGet_lt ..) low
  refine congrArg _ (masterWrite_taken (by decide) admits (by rw [priv]; rfl) ?_)
  simp only [lkWrite, go, counter, word, if_true]

/-! FEP_RT_CTL (R284). -/

/-- The command word with FRONT written, and FRONT clear as it stays. -/
theorem exec_routeFront {s : State} {m : Master} (admits : Admits s m .write 0x900020) (priv : masterPriv s m = true)
    (clear : bitOf 0 (regGet s 0x900020) = false) : ∃ w, exec (.routeFront m) s = .next (routeFrontCmd (regPut s 0x900020 w)) := by
  have front : bitOf 0 (regGet s 0x900020 + 1) = true := by
    simp only [bitOf, beq_eq_false_iff_ne, beq_iff_eq] at clear ⊢
    omega
  have takes : ∃ w, lkWrite s 0x900020 (regGet s 0x900020 + 1) = some (routeFrontCmd (regPut s 0x900020 w)) := by
    simp only [lkWrite, front, if_true]
    exact ⟨_, rfl⟩
  obtain ⟨w, takes⟩ := takes
  exact ⟨w, congrArg _ (masterWrite_taken (by decide) admits (by rw [priv]; rfl) takes)⟩

theorem activeBank_lt (s : State) : activeBank s < 2 := Nat.mod_lt _ (by decide)

theorem routeBaseOk_put {s : State} (w : Nat) {b : Nat} (low : b < 2) : routeBaseOk (regPut s 0x900020 w) b = routeBaseOk s b := by
  have base : regPair (regPut s 0x900020 w) (0x900010 + 8 * b) = regPair s (0x900010 + 8 * b) := by
    rw [regPair, regPair, regGet_regPut_other s w (by omega), regGet_regPut_other s w (by omega)]
  rw [routeBaseOk, routeBaseOk, base]
  rfl

/-- The status word after a switch: the other bank, and no refusal. -/
theorem switchWord {n b : Nat} (low : b < 2) : bitsOf 0 0 (setBits 1 1 (setBits 0 0 n (1 - b)) 0) = 1 - b ∧
    bitOf 1 (setBits 1 1 (setBits 0 0 n (1 - b)) 0) = false := by
  rw [bitsOf_setBits_below (by decide) (by decide) (Nat.le_refl 0), bitsOf_setBits_same (Nat.le_refl 0), bitOf_setBits_same]
  exact ⟨Nat.mod_eq_of_lt (by omega), rfl⟩

/-- Nothing of the old epoch is in flight: the other bank is active, and everything under way is of the old epoch. -/
theorem routeFrontCmd_switches {s : State} (canon : Canon s) (idle : oldInflight s = 0)
    (ok : routeBaseOk s (1 - activeBank s) = true) : ∃ u, routeFrontCmd s = fepRetryUnrouted u ∧
      activeBank u = 1 - activeBank s ∧ bitOf 1 (regGet u 0x900024) = false ∧ u.gens = s.gens ∧ u.fep.wild = [] ∧
      u.fep.reqs = s.fep.reqs.map (fun r => if inFlight r then { r with oldEpoch := true } else r) ∧
      ∀ c ∈ u.fep.ports, (∀ q ∈ c.queue, q.oldEpoch = true) ∧ ∀ f ∈ c.sent, f.oldEpoch = true := by
  obtain ⟨bank, accepted⟩ := switchWord (n := regGet s 0x900024) (activeBank_lt s)
  have word (fep : Fep) (cmp : Cmp) (b : Nat) :
      regGet (regPutBits (regPutBits { s with fep, cmp } 0x900024 0 0 b) 0x900024 1 1 0) 0x900024 =
        setBits 1 1 (setBits 0 0 (regGet s 0x900024) b) 0 := by
    have canon' : Canon { s with fep, cmp } := ⟨canon.spm, canon.nor, canon.regs, canon.counters, canon.cntShadow, canon.voc,
      canon.corr, canon.trim, canon.ftab⟩
    rw [regGet_regPutBits_same ((regPutBits_keeps (Keeps.refl _)).canon canon') 0 (by decide) (by decide),
      regGet_regPutBits_same canon' b (by decide) (by decide)]
    rfl
  simp only [routeFrontCmd, idle, ok, bne_self_eq_false, Bool.not_true, Bool.false_eq_true, if_false]
  refine ⟨_, rfl, ?_, ?_, rfl, rfl, rfl, fun c here => ?_⟩
  · exact (congrArg (bitsOf 0 0) (word _ _ _)).trans bank
  · exact (congrArg (bitOf 1) (word _ _ _)).trans accepted
  · obtain ⟨p, -, rfl⟩ := List.mem_map.1 here
    simp

/-- Something of the old epoch is in flight: the command is refused for it. -/
theorem routeFrontCmd_refuses {s : State} (canon : Canon s) (busy : oldInflight s ≠ 0) :
    activeBank (routeFrontCmd s) = activeBank s ∧ (routeFrontCmd s).fep = s.fep ∧
      bitOf 1 (regGet (routeFrontCmd s) 0x900024) = true ∧ regBits (routeFrontCmd s) 0x900024 3 2 = 1 := by
  have run : routeFrontCmd s = regPutBits (regPutBits s 0x900024 1 1 1) 0x900024 3 2 1 := by
    simp only [routeFrontCmd, bne_iff_ne, ne_eq, busy, not_false_eq_true, if_true]
  have word : regGet (routeFrontCmd s) 0x900024 = setBits 3 2 (setBits 1 1 (regGet s 0x900024) 1) 1 := by
    rw [run, regGet_regPutBits_same ((regPutBits_keeps (Keeps.refl s)).canon canon) 1 (by decide) (by decide),
      regGet_regPutBits_same canon 1 (by decide) (by decide)]
  refine ⟨?_, by rw [run]; rfl, ?_, ?_⟩
  · rw [activeBank, regBits, word, bitsOf_setBits_below (by decide) (by decide) (Nat.le_refl 0),
      bitsOf_setBits_below (by decide) (by decide) (Nat.le_refl 0)]
    rfl
  · rw [word, bitOf_setBits_other _ _ (by decide) (by decide), bitOf_setBits_same]
    rfl
  · rw [regBits, word, bitsOf_setBits_same (by decide)]
    rfl

/-! EEU_ERR_DONE (R314, R315). -/

theorem pickEntry_mem {es : List OpenEntry} {e : OpenEntry} (h : pickEntry es = some e) : e ∈ es := by
  induction es with
  | nil => cases h
  | cons x es ih =>
    rw [pickEntry] at h
    split at h
    next b later =>
      split at h
      · exact List.mem_cons.2 (.inl (Option.some.inj h).symm)
      · exact List.mem_cons_of_mem _ (ih (later.trans h))
    next =>
      split at h
      · cases h
      · exact List.mem_cons.2 (.inl (Option.some.inj h).symm)

/-- What the status registers show of the oldest open entry, or the write index where none is open (R315). -/
def oldestIndex (s : State) : Nat := (s.errors.opens.map (·.index)).headD (logW s)

theorem oldestIndex_congr {s u : State} (opens : u.errors.opens.map (·.index) = s.errors.opens.map (·.index))
    (indices : regGet u 0xC00014 = regGet s 0xC00014) : oldestIndex u = oldestIndex s := by
  rw [oldestIndex, oldestIndex, opens, logW, logW, regBits, regBits, indices]

theorem eeuStatus_oldest {s : State} (canon : Canon s) : regBits (eeuStatus s) 0xC00014 31 16 = oldestIndex s % 65536 := by
  have first : (match s.errors.opens with
      | e :: _ => e.index
      | [] => logW s) = oldestIndex s := by
    rw [oldestIndex]
    cases s.errors.opens <;> rfl
  have put : regBits (regPutBits s 0xC00014 31 16 (oldestIndex s)) 0xC00014 31 16 = oldestIndex s % 65536 :=
    regBits_regPutBits_same canon _ (by decide) (by decide)
  rw [← put, ← first]
  exact congrArg (bitsOf 31 16) ((regGet_regPutBits_other _ _ _ _ (by decide)).trans (regGet_regPut_other _ _ (by decide)))

/-- The delivery of an entry leaves every entry open, and puts only an open one among those being handled. -/
theorem deliverEntry_opens {s : State} (canon : Canon s) :
    (deliverEntry s).errors.opens.map (·.index) = s.errors.opens.map (·.index) ∧
      (∀ i ∈ (deliverEntry s).errors.nest, i ∈ s.errors.nest ∨ i ∈ s.errors.opens.map (·.index)) ∧
      regBits (deliverEntry s) 0xC00014 31 16 = oldestIndex s % 65536 := by
  have same : (eeuStatus s).errors = s.errors := rfl
  unfold deliverEntry
  split
  next e picked =>
    split
    · have kept : (s.errors.opens.map fun x => if x.index == e.index then { x with delivered := true } else x).map (·.index) =
          s.errors.opens.map (·.index) := by
        rw [List.map_map]
        refine List.map_congr_left fun x _ => ?_
        simp only [Function.comp_apply]
        split <;> rfl
      refine ⟨kept, fun i here => ?_, ?_⟩
      · rcases List.mem_cons.1 here with rfl | old
        · exact .inr (List.mem_map_of_mem (pickEntry_mem picked))
        · exact .inl old
      · have low : regGet (regPutBits s 0xC0001C 15 0 e.index) 0xC00014 = regGet s 0xC00014 :=
          regGet_regPutBits_other s _ _ _ (by decide)
        have canon' (errors : Errors) : Canon { s with errors } :=
          ⟨canon.spm, canon.nor, canon.regs, canon.counters, canon.cntShadow, canon.voc, canon.corr, canon.trim, canon.ftab⟩
        refine (eeuStatus_oldest ((regPutBits_keeps (Keeps.refl _)).canon (canon' _))).trans ?_
        exact congrArg (· % 65536) (oldestIndex_congr kept low)
    · exact ⟨by rw [same], fun i here => .inl (same ▸ here), eeuStatus_oldest canon⟩
  next => exact ⟨by rw [same], fun i here => .inl (same ▸ here), eeuStatus_oldest canon⟩

theorem exec_errDone {s : State} {m : Master} {index : Nat} (admits : Admits s m .write 0xC00020) (priv : masterPriv s m = true)
    (low : index < 65536) : ∃ w, exec (.errDone m index) s = .next (completeEntry (regPut s 0xC00020 w) index) := by
  have named : setBits 15 0 (regGet s 0xC00020) index % 2 ^ 16 = index := by
    simp only [setBits]
    omega
  have takes : ∃ w, lkWrite s 0xC00020 (setBits 15 0 (regGet s 0xC00020) index) = some (completeEntry (regPut s 0xC00020 w) index) := by
    simp only [lkWrite, named]
    exact ⟨_, rfl⟩
  obtain ⟨w, takes⟩ := takes
  exact ⟨w, congrArg _ (masterWrite_taken (by decide) admits (by rw [priv]; rfl) takes)⟩

/-- An entry that is done is open no more, nor is it being handled. -/
theorem completeEntry_closes {s : State} (canon : Canon s) {index : Nat} (nodup : s.errors.nest.Nodup)
    (here : ∃ e ∈ s.errors.opens, e.index = index) : index ∉ (completeEntry s index).errors.nest ∧
      (completeEntry s index).errors.opens.map (·.index) = (s.errors.opens.map (·.index)).filter (· != index) ∧
      regBits (completeEntry s index) 0xC00014 31 16 =
        (((completeEntry s index).errors.opens.map (·.index)).headD (regBits s 0xC00014 15 0)) % 65536 := by
  obtain ⟨e, listed, rfl⟩ := here
  have some' : (s.errors.opens.any fun x => x.index == e.index) = true := List.any_eq_true.2 ⟨e, listed, by simp⟩
  have run : completeEntry s e.index = deliverEntry { s with errors := { s.errors with
      opens := s.errors.opens.filter fun x => x.index != e.index, nest := s.errors.nest.erase e.index } } := if_pos some'
  have canon' : Canon { s with errors := { s.errors with
      opens := s.errors.opens.filter fun x => x.index != e.index, nest := s.errors.nest.erase e.index } } :=
    ⟨canon.spm, canon.nor, canon.regs, canon.counters, canon.cntShadow, canon.voc, canon.corr, canon.trim, canon.ftab⟩
  have left : (s.errors.opens.filter fun x => x.index != e.index).map (·.index) =
      (s.errors.opens.map (·.index)).filter (· != e.index) := by
    rw [List.filter_map]
    rfl
  obtain ⟨opens, nest, oldest⟩ := deliverEntry_opens canon'
  rw [run]
  refine ⟨fun again => ?_, opens.trans left, ?_⟩
  · rcases nest _ again with old | open'
    · exact (nodup.mem_erase_iff.1 old).1 rfl
    · rw [left] at open'
      simp at open'
  · rw [opens]
    exact oldest

/-! EEU_EVT_SW and EEU_FATAL0 (R325, R326). -/

theorem exec_evtSw {s : State} {m : Master} (admits : Admits s m .write 0xC00048) (priv : masterPriv s m = true)
    (clear : bitOf 0 (regGet s 0xC00048) = false) : ∃ w, exec (.evtSw m) s = .next (setEvent (regPut s 0xC00048 w) 7) := by
  have sets : bitOf 0 (regGet s 0xC00048 + 1) = true := by
    simp only [bitOf, beq_eq_false_iff_ne, beq_iff_eq] at clear ⊢
    omega
  have takes : ∃ w, lkWrite s 0xC00048 (regGet s 0xC00048 + 1) = some (setEvent (regPut s 0xC00048 w) 7) := by
    simp only [lkWrite, sets, if_true]
    exact ⟨_, rfl⟩
  obtain ⟨w, takes⟩ := takes
  exact ⟨w, congrArg _ (masterWrite_taken (by decide) admits (by rw [priv]; rfl) takes)⟩

theorem softwareEvent_reg {s : State} (canon : Canon s) (w : Nat) :
    regGet (setEvent (regPut s 0xC00048 w) 7) 0xC00040 = setBits 7 7 (regGet s 0xC00040) 1 := by
  rw [← regGet_regPut_other s w (by decide : 0xC00040 ≠ 0xC00048)]
  exact regGet_regPutBits_same ((regPut_keeps (Keeps.refl s)).canon canon) 1 (by decide) (by decide)

theorem exec_fatalClear {s : State} {m : Master} (admits : Admits s m .write 0xC00030) :
    exec (.fatalClear m) s = .next (clearFatal s) := by
  have decoded : regDecode 0xC00030 = 0xC00030 := rfl
  have notInd : indData? 0xC00030 = none := rfl
  have notSpecial : specialOf 0xC00030 = .none := rfl
  have valid : bitOf 31 2147483648 = true := by decide
  refine congrArg _ ((masterWrite_admits admits _).trans ?_)
  simp [regWrite, decoded, notInd, directWrite, notSpecial, openWrite, valid]

theorem clearFatal_eq (s : State) : ∃ regs cfgBad, clearFatal s = { s with regs, cfgBad } := by
  unfold clearFatal
  generalize [0xC00030, 0xC00034, 0xC00038, 0xC0003C] = fatals
  induction fatals generalizing s with
  | nil => exact ⟨_, _, rfl⟩
  | cons o fatals ih =>
    obtain ⟨regs, cfgBad, same⟩ := ih (regPut s o 0)
    exact ⟨regs, cfgBad, same⟩

theorem clearFatal_rest (s : State) : { clearFatal s with regs := s.regs, cfgBad := s.cfgBad } = s := by
  obtain ⟨_, _, same⟩ := clearFatal_eq s
  rw [same]

theorem clearFatal_regs {s : State} (canon : Canon s) (o : Nat) : regGet (clearFatal s) o =
    if o ∈ [0xC00030, 0xC00034, 0xC00038, 0xC0003C] then 0 else regGet s o := by
  have put (t : State) (canon : Canon t) (off : Nat) : regGet (regPut t off 0) o = if o = off then 0 else regGet t o := by
    split
    · next same => rw [same, regGet_regPut_same canon, Nat.zero_mod]
    · next other => exact regGet_regPut_other t 0 other
  have keeps (t : State) (canon : Canon t) (off : Nat) : Canon (regPut t off 0) := (regPut_keeps (Keeps.refl t)).canon canon
  have canon1 := keeps s canon 0xC00030
  have canon2 := keeps _ canon1 0xC00034
  have canon3 := keeps _ canon2 0xC00038
  simp only [clearFatal, List.foldl_cons, List.foldl_nil, put _ canon3, put _ canon2, put _ canon1, put _ canon,
    List.mem_cons, List.not_mem_nil, or_false]
  split_ifs <;> simp_all

end Sys2Proof.Machine
end

section
/-! Indirect accesses (R402 to R408, R320). -/
namespace Sys2Proof.Machine

/-- IND_ADDRk, before the data registers and the status of its pair (R402). -/
def indAddr (k : Nat) : Nat := 0xD00000 + 0x10 * k

theorem indAddr_direct : ∀ k < 4, regDecode (indAddr k + 4) = indAddr k + 4 ∧ indData? (indAddr k + 4) = some (k, true) ∧
    regDecode (indAddr k + 8) = indAddr k + 8 ∧ indData? (indAddr k + 8) = some (k, false) := by
  decide

/-! The word that a data access reaches (R403). -/

section
variable (s : State) (k user : Nat)

theorem indWord_lt : (indWord s k user).1 < 2 ^ 18 := by
  have field : regBits s (0xD00000 + 0x10 * k) 19 2 < 2 ^ 18 := Nat.mod_lt _ (by decide)
  unfold indWord
  dsimp only
  split
  · split
    · exact field
    · exact Nat.mod_lt _ (by decide)
  · exact field

theorem indWord_mine (mine : ∀ x, s.boot.indUser.find? (fun x => x.1 == k) = some x → x.2 = user) :
    (indWord s k user).1 = regBits s (indAddr k) 19 2 := by
  unfold indWord
  dsimp only
  split
  · next x found => rw [if_pos (mine x found)]; rfl
  · rfl

/-- The use of a pair is all that changes, but for what is drawn. -/
theorem indWord_state : ∃ freeCtr indUser, (indWord s k user).2 = { s with freeCtr, boot := { s.boot with indUser } } := by
  unfold indWord
  dsimp only
  split
  · split
    · exact ⟨s.freeCtr, s.boot.indUser, rfl⟩
    · exact ⟨_, _, rfl⟩
  · exact ⟨s.freeCtr, _, rfl⟩

/-- The state with the use recorded. -/
abbrev indUsed : State := (indWord s k user).2

theorem indUsed_kept : (indUsed s k user).regs = s.regs ∧ (indUsed s k user).cfgBad = s.cfgBad ∧ (indUsed s k user).ftab = s.ftab ∧
    (indUsed s k user).trim = s.trim ∧ (indUsed s k user).gens = s.gens ∧ live (indUsed s k user) = live s := by
  obtain ⟨_, _, same⟩ := indWord_state s k user
  rw [indUsed, same]
  exact ⟨rfl, rfl, rfl, rfl, rfl, rfl⟩

theorem indUsed_regGet (o : Nat) : regGet (indUsed s k user) o = regGet s o := by
  rw [regGet, (indUsed_kept s k user).1]
  rfl

theorem indUsed_canon {s : State} (canon : Canon s) (k user : Nat) : Canon (indUsed s k user) :=
  (indWord_keeps (Keeps.refl s)).canon canon

theorem indRead_used (priv : Bool) (space w : Nat) : indRead (indUsed s k user) priv space w = indRead s priv space w := by
  obtain ⟨_, _, same⟩ := indWord_state s k user
  rw [indUsed, same]
  rfl

end

/-! The end of an access: its status, and the address that moves on. -/

/-- The state with the pair's status told, and its address moved to `next` by an access that moves it. -/
def indTold (s : State) (k : Nat) (inc : Bool) (next status : Nat) : State :=
  let t := regPut s (indAddr k + 0xC) status
  if inc then regPutBits t (indAddr k) 19 2 next else t

section
variable (s : State) (k : Nat) (inc : Bool) (next status : Nat)

theorem indTold_eq : ∃ regs cfgBad, indTold s k inc next status = { s with regs, cfgBad } := by
  unfold indTold
  cases inc
  · exact ⟨_, _, rfl⟩
  · exact ⟨_, _, rfl⟩

theorem indTold_kept : (indTold s k inc next status).ftab = s.ftab ∧ (indTold s k inc next status).trim = s.trim ∧
    (indTold s k inc next status).gens = s.gens ∧ live (indTold s k inc next status) = live s := by
  obtain ⟨_, _, same⟩ := indTold_eq s k inc next status
  rw [same]
  exact ⟨rfl, rfl, rfl, rfl⟩

/-- Where a word's parity is good it stays so. -/
theorem indTold_good {key : Nat} (good : key ∉ s.cfgBad) : key ∉ (indTold s k inc next status).cfgBad := by
  unfold indTold
  cases inc
  · exact fun bad => good (List.mem_of_mem_erase bad)
  · exact fun bad => good (List.mem_of_mem_erase (List.mem_of_mem_erase bad))

variable {s}
include s

theorem indTold_status (canon : Canon s) (small : status < 2 ^ 32) :
    regGet (indTold s k inc next status) (indAddr k + 12) = status := by
  have put : regGet (regPut s (indAddr k + 0xC) status) (indAddr k + 12) = status := by
    rw [regGet_regPut_same canon, Nat.mod_eq_of_lt small]
  unfold indTold
  cases inc
  · exact put
  · exact (regGet_regPutBits_other _ 19 2 next (by omega)).trans put

theorem indTold_stays : regGet (indTold s k false next status) (indAddr k) = regGet s (indAddr k) :=
  regGet_regPut_other s status (by omega)

theorem indTold_moves (canon : Canon s) (small : next < 2 ^ 18) :
    regBits (indTold s k true next status) (indAddr k) 19 2 = next ∧
      regBits (indTold s k true next status) (indAddr k) 23 20 = regBits s (indAddr k) 23 20 := by
  have canon' : Canon (regPut s (indAddr k + 0xC) status) := (regPut_keeps (Keeps.refl s)).canon canon
  have word : regGet (indTold s k true next status) (indAddr k) = setBits 19 2 (regGet s (indAddr k)) next := by
    have put := regGet_regPutBits_same (off := indAddr k) (hi := 19) (lo := 2) canon' next (by decide) (by decide)
    rw [regGet_regPut_other s status (by omega)] at put
    exact put
  rw [regBits, regBits, word, bitsOf_setBits_same (by decide), bitsOf_setBits_above (by decide) (by decide)]
  exact ⟨Nat.mod_eq_of_lt small, rfl⟩

end

/-! What an access does. -/

section
variable {s : State} {priv : Bool} {k user : Nat} {inc : Bool}

/-- The address after an access that moves it on. -/
def indNext (s : State) (k : Nat) : Nat := (regBits s (indAddr k) 19 2 + 1) % 2 ^ 18

theorem indNext_lt (s : State) (k : Nat) : indNext s k < 2 ^ 18 := Nat.mod_lt _ (by decide)

/-- A word of good parity is read; one that the space does not have reads zero and is told. -/
theorem indAccess_read (good : indKey (regBits s (indAddr k) 23 20) (indWord s k user).1 ∉ s.cfgBad) :
    indAccess s priv k user inc none =
      (if (indWord s k user).1 < spaceWords (regBits s (indAddr k) 23 20) then
          indRead s priv (regBits s (indAddr k) 23 20) (indWord s k user).1 else 0,
        indTold (indUsed s k user) k inc (indNext s k)
          (if (indWord s k user).1 < spaceWords (regBits s (indAddr k) 23 20) then 0 else 1)) := by
  have good' : (indUsed s k user).cfgBad.contains (indKey (regBits s (indAddr k) 23 20) (indWord s k user).1) = false := by
    rw [(indUsed_kept s k user).2.1]
    simpa using good
  rw [← indRead_used s k user]
  have at' : 0xD00000 + 0x10 * k = indAddr k := rfl
  simp only [indAccess, at', good', Option.isNone_none, Bool.true_and, Bool.false_eq_true, if_false]
  split <;> simp [indTold, indNext, boolBit, *]

theorem stopCluster_stops (s : State) (supply : Bool) : live (stopCluster s supply) = false :=
  Bool.and_false _

theorem raiseCfgParity_stops (acts : live s = true) (off : Nat) : live (raiseCfgParity s off) = false := by
  have going : s.boot.stopped = false := by
    simp only [live, Bool.and_eq_true, Bool.not_eq_true'] at acts
    exact acts.2
  simp only [raiseCfgParity, raiseErr, going, Bool.false_eq_true, if_false]
  split
  · exact stopCluster_stops ..
  · exact stopCluster_stops ..

/-- A word of bad parity stops the cluster. -/
theorem indAccess_bad (acts : live s = true)
    (bad : indKey (regBits s (indAddr k) 23 20) (indWord s k user).1 ∈ s.cfgBad) :
    live (indAccess s priv k user inc none).2 = false := by
  have bad' : (indUsed s k user).cfgBad.contains (indKey (regBits s (indAddr k) 23 20) (indWord s k user).1) = true := by
    rw [(indUsed_kept s k user).2.1]
    simpa using bad
  have acts' : live (indUsed s k user) = true := (indUsed_kept s k user).2.2.2.2.2.trans acts
  have told : ∃ status, (indAccess s priv k user inc none).2 = indTold (raiseCfgParity (indUsed s k user)
      (indKey (regBits s (indAddr k) 23 20) (indWord s k user).1)) k inc (indNext s k) status := by
    have at' : 0xD00000 + 0x10 * k = indAddr k := rfl
    simp only [indAccess, at', bad', Option.isNone_none, Bool.true_and, if_true]
    exact ⟨_, rfl⟩
  obtain ⟨status, told⟩ := told
  rw [told, (indTold_kept ..).2.2.2]
  exact raiseCfgParity_stops acts' _

/-- A write that the space takes. -/
theorem indAccess_write {v : Nat} {t : State} (inside : (indWord s k user).1 < spaceWords (regBits s (indAddr k) 23 20))
    (takes : indWrite (indUsed s k user) priv (regBits s (indAddr k) 23 20) (indWord s k user).1 v = some t) :
    (indAccess s priv k user inc (some v)).2 = indTold t k inc (indNext s k) 0 := by
  have at' : 0xD00000 + 0x10 * k = indAddr k := rfl
  simp only [indAccess, at', Option.isNone_some, Bool.false_and, Bool.false_eq_true, if_false, inside, decide_true, Bool.not_true, takes]
  rfl

/-- A write that is dropped is told. -/
theorem indAccess_dropped {v : Nat} (inside : (indWord s k user).1 < spaceWords (regBits s (indAddr k) 23 20))
    (dropped : indWrite (indUsed s k user) priv (regBits s (indAddr k) 23 20) (indWord s k user).1 v = none) :
    (indAccess s priv k user inc (some v)).2 = indTold (indUsed s k user) k inc (indNext s k) 2 := by
  have at' : 0xD00000 + 0x10 * k = indAddr k := rfl
  simp only [indAccess, at', Option.isNone_some, Bool.false_and, Bool.false_eq_true, if_false, inside, decide_true, Bool.not_true, dropped]
  rfl

/-! Writes to a space (R320, R407). -/

theorem indWrite_drops {t : State} {space w v : Nat} (h : priv = false ∨ bitOf 0 (regGet t 0xD00100) = true ∨ space ≠ 3 ∧ space ≠ 6) :
    indWrite t priv space w v = none := by
  unfold indWrite
  split
  · rfl
  next taken =>
    simp only [Bool.or_eq_true, Bool.not_eq_true', not_or, Bool.not_eq_false, Bool.not_eq_true] at taken
    obtain ⟨privileged, unlocked⟩ := taken
    obtain ⟨notTable, notTrim⟩ := (h.resolve_left (by simp [privileged])).resolve_left (by simp [unlocked])
    split
    · exact absurd rfl notTable
    · exact absurd rfl notTrim
    · rfl

/-- Two generations that advance, each by one. -/
theorem bumpGens_two (t : State) {a b : Nat} (apart : a ≠ b) (i : Nat) :
    (bumpGens t [a, b]).gens[i]? = (t.gens[i]?).map (· + if i = a ∨ i = b then 1 else 0) := by
  have gens : (bumpGens t [a, b]).gens = setAt (setAt t.gens a (· + 1)) b (· + 1) := rfl
  rw [gens, setAt, setAt, List.getElem?_modify, List.getElem?_modify]
  by_cases ia : a = i <;> by_cases ib : b = i <;> simp_all [eq_comm]

section
variable {t : State} {w v : Nat} (unlocked : bitOf 0 (regGet t 0xD00100) = false)
include unlocked

/-- A word of the function tables is written, which is a write of two units' set-up (R397, R407). -/
theorem indWrite_table : ∃ t', indWrite t true 3 w v = some t' ∧ t'.regs = t.regs ∧
    t'.ftab = mapSet Config.romTable t.ftab w (BitVec.ofNat 32 v) ∧ t'.cfgBad = t.cfgBad.erase (indKey 3 w) ∧
    ∀ i : Nat, t'.gens[i]? = (t.gens[i]?).map (· + if i = 1 ∨ i = 2 then 1 else 0) := by
  simp only [indWrite, unlocked, Bool.not_true, Bool.or_self, Bool.false_eq_true, if_false]
  exact ⟨_, rfl, rfl, rfl, rfl, bumpGens_two _ (by decide)⟩

theorem indWrite_trim : ∃ t', indWrite t true 6 w v = some t' ∧ t'.regs = t.regs ∧
    t'.trim = mapSet (fun _ => 0) t.trim w (BitVec.ofNat 32 v) ∧ t'.cfgBad = t.cfgBad.erase (indKey 6 w) := by
  simp only [indWrite, unlocked, Bool.not_true, Bool.or_self, Bool.false_eq_true, if_false]
  exact ⟨_, rfl, rfl, rfl, rfl⟩

end

/-! The commands. -/

theorem indDataReg_eq (k : Nat) : 0xD00004 + 0x10 * k = indAddr k + 4 ∧ 0xD00008 + 0x10 * k = indAddr k + 8 := by
  rw [indAddr]
  omega

section
variable {m : Master} (low : k < 4)
include low

theorem exec_indData_read (admits : Admits s m .read (indAddr k + 4)) : exec (.indData m k none) s =
    .next { (indAccess s (masterPriv s m) k (masterUser m) true none).2 with
      readout := BitVec.ofNat 64 (indAccess s (masterPriv s m) k (masterUser m) true none).1 } := by
  obtain ⟨decoded, pair, -, -⟩ := indAddr_direct k low
  show execIndData m k none s = _
  rw [execIndData, if_pos low, indCmd, (indDataReg_eq k).1]
  exact congrArg _ (masterRead_admits admits (by simp only [regRead, decoded, pair]))

theorem exec_indDataNoinc_read (admits : Admits s m .read (indAddr k + 8)) : exec (.indDataNoinc m k none) s =
    .next { (indAccess s (masterPriv s m) k (masterUser m) false none).2 with
      readout := BitVec.ofNat 64 (indAccess s (masterPriv s m) k (masterUser m) false none).1 } := by
  obtain ⟨-, -, decoded, pair⟩ := indAddr_direct k low
  show execIndDataNoinc m k none s = _
  rw [execIndDataNoinc, if_pos low, indCmd, (indDataReg_eq k).2]
  exact congrArg _ (masterRead_admits admits (by simp only [regRead, decoded, pair]))

theorem exec_indData_write (admits : Admits s m .write (indAddr k + 4)) (v : Word) : exec (.indData m k (some v)) s =
    .next (indAccess s (masterPriv s m) k (masterUser m) true (some v.toNat)).2 := by
  obtain ⟨decoded, pair, -, -⟩ := indAddr_direct k low
  show execIndData m k (some v) s = _
  rw [execIndData, if_pos low, indCmd, (indDataReg_eq k).1, masterWrite_admits admits]
  simp only [regWrite, decoded, pair]

end

end

/-! What the commands leave. -/

/-- The pair's address has moved on in its space. -/
def IndMoved (s : State) (k : Nat) (u : State) : Prop :=
  regBits u (indAddr k) 19 2 = indNext s k ∧ regBits u (indAddr k) 23 20 = regBits s (indAddr k) 23 20

theorem indTold_moved {s t : State} (canon : Canon t) (same : t.regs = s.regs) (k status : Nat) :
    IndMoved s k (indTold t k true (indNext s k) status) := by
  obtain ⟨next, space⟩ := indTold_moves k (indNext s k) status canon (indNext_lt s k)
  have kept : regBits t (indAddr k) 23 20 = regBits s (indAddr k) 23 20 := by rw [regBits, regGet, same]; rfl
  exact ⟨next, space.trans kept⟩

section
variable {s : State} {m : Master} {k : Nat} (canon : Canon s) (low : k < 4) (admits : Admits s m .write (indAddr k + 4)) (v : Word)
  (inside : (indWord s k (masterUser m)).1 < spaceWords (regBits s (indAddr k) 23 20))
include canon low admits inside

/-- A write that privilege, the lock or the space refuses is dropped (R404). -/
theorem exec_indData_dropped (drops : masterPriv s m = false ∨ bitOf 0 (regGet s 0xD00100) = true ∨
      regBits s (indAddr k) 23 20 ≠ 3 ∧ regBits s (indAddr k) 23 20 ≠ 6) :
    ∃ u, exec (.indData m k (some v)) s = .next u ∧ IndMoved s k u ∧ u.ftab = s.ftab ∧ u.trim = s.trim ∧
      regGet u (indAddr k + 12) = 2 := by
  obtain ⟨regs, -, ftab, trim, -, -⟩ := indUsed_kept s k (masterUser m)
  have canon' := indUsed_canon canon k (masterUser m)
  rw [← indUsed_regGet s k (masterUser m) 0xD00100] at drops
  have run := exec_indData_write low admits v
  rw [indAccess_dropped inside (indWrite_drops drops)] at run
  obtain ⟨ftab', trim', -, -⟩ := indTold_kept (indUsed s k (masterUser m)) k true (indNext s k) 2
  exact ⟨_, run, indTold_moved canon' regs k 2, ftab'.trans ftab, trim'.trans trim, indTold_status k true _ 2 canon' (by decide)⟩

variable (priv : masterPriv s m = true)
include priv

/-- A write that its space takes. -/
theorem exec_indData_taken {t : State} (takes : indWrite (indUsed s k (masterUser m)) true (regBits s (indAddr k) 23 20)
      (indWord s k (masterUser m)).1 v.toNat = some t) (same : t.regs = (indUsed s k (masterUser m)).regs) :
    ∃ u, exec (.indData m k (some v)) s = .next u ∧ IndMoved s k u ∧ regGet u (indAddr k + 12) = 0 ∧ u.ftab = t.ftab ∧
      u.trim = t.trim ∧ u.gens = t.gens ∧ ∀ key ∉ t.cfgBad, key ∉ u.cfgBad := by
  have canon' : Canon t := ((indWrite_keeps (Keeps.refl _)).out t takes).canon (indUsed_canon canon k (masterUser m))
  have run := exec_indData_write low admits v
  rw [← priv] at takes
  rw [indAccess_write inside takes] at run
  obtain ⟨ftab, trim, gens, -⟩ := indTold_kept t k true (indNext s k) 0
  exact ⟨_, run, indTold_moved canon' (same.trans (indUsed_kept ..).1) k 0, indTold_status k true _ 0 canon' (by decide), ftab,
    trim, gens, fun _ good => indTold_good _ _ _ _ _ good⟩

variable (unlocked : bitOf 0 (regGet s 0xD00100) = false)
include unlocked

/-- A write to the function tables (R404, R407). -/
theorem exec_indData_table (space : regBits s (indAddr k) 23 20 = 3) :
    ∃ u, exec (.indData m k (some v)) s = .next u ∧ IndMoved s k u ∧
      mapGet Config.romTable u.ftab (indWord s k (masterUser m)).1 = v ∧ regGet u (indAddr k + 12) = 0 ∧
      (∀ i : Nat, u.gens[i]? = (s.gens[i]?).map (· + if i = 1 ∨ i = 2 then 1 else 0)) ∧
      (s.cfgBad.Nodup → indKey 3 (indWord s k (masterUser m)).1 ∉ u.cfgBad) := by
  obtain ⟨-, cfgBad, -, -, gens, -⟩ := indUsed_kept s k (masterUser m)
  rw [← indUsed_regGet s k (masterUser m) 0xD00100] at unlocked
  obtain ⟨t, takes, same, ftab, marks, moved⟩ := indWrite_table (w := (indWord s k (masterUser m)).1) (v := v.toNat) unlocked
  rw [← space] at takes
  obtain ⟨u, run, next, status, ftab', -, gens', good⟩ := exec_indData_taken canon low admits v inside priv takes same
  refine ⟨u, run, next, ?_, status, fun i => ?_, fun nodup => good _ ?_⟩
  · rw [ftab', ftab, mapGet_set_same (indUsed_canon canon k _).ftab, BitVec.ofNat_toNat, BitVec.setWidth_eq]
  · rw [gens', moved, gens]
  · rw [marks, cfgBad]
    exact nodup.not_mem_erase

/-- A write to the trim (R404). -/
theorem exec_indData_trim (space : regBits s (indAddr k) 23 20 = 6) :
    ∃ u, exec (.indData m k (some v)) s = .next u ∧ IndMoved s k u ∧
      mapGet (fun _ => (0 : Word)) u.trim (indWord s k (masterUser m)).1 = v ∧ regGet u (indAddr k + 12) = 0 ∧
      (s.cfgBad.Nodup → indKey 6 (indWord s k (masterUser m)).1 ∉ u.cfgBad) := by
  obtain ⟨-, cfgBad, -, -, -, -⟩ := indUsed_kept s k (masterUser m)
  rw [← indUsed_regGet s k (masterUser m) 0xD00100] at unlocked
  obtain ⟨t, takes, same, trim, marks⟩ := indWrite_trim (w := (indWord s k (masterUser m)).1) (v := v.toNat) unlocked
  rw [← space] at takes
  obtain ⟨u, run, next, status, -, trim', -, good⟩ := exec_indData_taken canon low admits v inside priv takes same
  refine ⟨u, run, next, ?_, status, fun nodup => good _ ?_⟩
  · rw [trim', trim, mapGet_set_same (indUsed_canon canon k _).trim, BitVec.ofNat_toNat, BitVec.setWidth_eq]
  · rw [marks, cfgBad]
    exact nodup.not_mem_erase

end

/-- Settles O44: each command is a write of its register that is taken, or an access to an indirect space. -/
theorem registerCommandsAct : Obligations.RegisterCommandsAct := by
  unfold Obligations.RegisterCommandsAct
  intro s m canon priv
  have canonPut (off w : Nat) : Canon (regPut s off w) := (regPut_keeps (Keeps.refl s)).canon canon
  refine ⟨fun c low admits privileged free => ?_, fun admits privileged clear => ?_, fun index low admits privileged nodup here => ?_,
    fun admits privileged clear => ?_, fun admits => ⟨_, exec_fatalClear admits, clearFatal_regs canon, clearFatal_rest s⟩, fun k low => ?_⟩
  · refine ⟨_, exec_counterClear admits privileged free low, counterGet_counterSet_same (canonPut _ _) c 0,
      fun j other => counterGet_counterSet_other _ 0 other, ?_, ?_⟩
    · rw [regBits, clearCounter_reg canon, bitsOf_setBits_same (by decide)]
      exact Nat.mod_eq_of_lt low
    · rw [clearCounter_reg canon, bitOf_setBits_other _ _ (by decide) (by decide)]
      exact free
  · obtain ⟨w, run⟩ := exec_routeFront admits privileged clear
    have status : regGet (regPut s 0x900020 w) 0x900024 = regGet s 0x900024 := regGet_regPut_other s w (by decide)
    have bank : activeBank (regPut s 0x900020 w) = activeBank s := congrArg (bitsOf 0 0) status
    refine ⟨fun idle ok => ?_, fun busy => ?_⟩
    · have ok' : routeBaseOk (regPut s 0x900020 w) (1 - activeBank (regPut s 0x900020 w)) = true := by
        rw [bank, routeBaseOk_put w (by omega)]
        exact ok
      obtain ⟨u, switched, switch⟩ := routeFrontCmd_switches (canonPut 0x900020 w) idle ok'
      rw [bank] at switch
      exact ⟨u, run.trans (congrArg _ switched), switch⟩
    · obtain ⟨same, rest⟩ := routeFrontCmd_refuses (canonPut 0x900020 w) busy
      exact ⟨_, run, same.trans bank, rest⟩
  · obtain ⟨w, run⟩ := exec_errDone admits privileged low
    have indices : regBits (regPut s 0xC00020 w) 0xC00014 15 0 = regBits s 0xC00014 15 0 :=
      congrArg (bitsOf 15 0) (regGet_regPut_other s w (by decide))
    have closes := completeEntry_closes (canonPut 0xC00020 w) nodup here
    rw [indices] at closes
    exact ⟨_, run, closes⟩
  · obtain ⟨w, run⟩ := exec_evtSw admits privileged clear
    have word := softwareEvent_reg canon w
    refine ⟨_, run, ?_, fun b _ other => ?_⟩
    · rw [word, bitOf_setBits_same]
      rfl
    · rw [word, bitOf_setBits_other _ _ (Nat.le_refl 7) (by omega)]
  · intro addr status space next mine
    refine ⟨(indWord s k (masterUser m)).1, indWord_lt .., indWord_mine s k _, ?_, fun good admits => ?_, fun good admits => ?_,
      fun v admits inside => ?_⟩
    · rintro c (⟨rfl, admits⟩ | ⟨rfl, admits⟩) bad acts
      · exact ⟨_, exec_indData_read low admits, indAccess_bad acts bad⟩
      · exact ⟨_, exec_indDataNoinc_read low admits, indAccess_bad acts bad⟩
    · have canon' := indUsed_canon canon k (masterUser m)
      have run := exec_indData_read low admits
      rw [indAccess_read good] at run
      exact ⟨_, run, indTold_moved canon' (indUsed_kept ..).1 k _, indTold_status k true _ _ canon' (by split <;> decide), rfl⟩
    · have run := exec_indDataNoinc_read low admits
      rw [indAccess_read good] at run
      exact ⟨_, run, (indTold_stays k (indNext s k) _).trans (indUsed_regGet ..), rfl⟩
    · by_cases drops : masterPriv s m = false ∨ bitOf 0 (regGet s 0xD00100) = true ∨ space ≠ 3 ∧ space ≠ 6
      · obtain ⟨u, run, moved, ftab, trim, told⟩ := exec_indData_dropped canon low admits v inside drops
        refine ⟨u, run, moved, fun privileged unlocked => ?_, fun _ => ⟨ftab, trim, told⟩⟩
        obtain ⟨notTable, notTrim⟩ := (drops.resolve_left (by simp [show masterPriv s m = true from privileged])).resolve_left
          (by simp [unlocked])
        exact ⟨fun table => absurd table notTable, fun trim => absurd trim notTrim,
          fun either => either.elim (absurd · notTable) (absurd · notTrim)⟩
      · obtain ⟨privileged, unlocked, either⟩ : masterPriv s m = true ∧ bitOf 0 (regGet s 0xD00100) = false ∧
            (space = 3 ∨ space = 6) := by
          simpa only [not_or, not_and_or, not_not, Bool.not_eq_false, Bool.not_eq_true, ne_eq] using drops
        rcases either with table | trim
        · obtain ⟨u, run, moved, word, told, gens, good⟩ := exec_indData_table canon low admits v inside privileged unlocked table
          refine ⟨u, run, moved, fun _ _ => ⟨fun _ => ⟨word, told, gens⟩, fun trim => absurd (table.symm.trans trim) (by decide),
            fun _ nodup => ?_⟩, fun no => absurd no drops⟩
          rw [table]
          exact good nodup
        · obtain ⟨u, run, moved, word, told, good⟩ := exec_indData_trim canon low admits v inside privileged unlocked trim
          refine ⟨u, run, moved, fun _ _ => ⟨fun table => absurd (table.symm.trans trim) (by decide), fun _ => ⟨word, told⟩,
            fun _ nodup => ?_⟩, fun no => absurd no drops⟩
          rw [trim]
          exact good nodup

end Sys2Proof.Machine
end

section
/-! Doorbells that reach DRE (R219 to R221, R242). -/
namespace Sys2Proof.Machine

variable {s : State} {src v : Nat} {r : Ring}

/-! An access of a master's command that nothing refuses is performed (R12). -/

theorem masterDo_agent {id : BitVec 19} {a : Access} (f : State → Bool → State) (admitted : serving s = true)
    (allowed : masterRefusal s (.agent id) a = none) : masterDo s (.agent id) a f = f s (masterPriv s (.agent id)) := by
  simp only [masterDo, inService, admitted, Bool.true_or, Bool.not_true, Bool.false_eq_true, if_false, allowed]

theorem masterDo_steward {a : Access} (f : State → Bool → State) (acts : live s = true) (good : s.boot.stewardBad = false)
    (allowed : masterRefusal s .steward a = none) : masterDo s .steward a f = f s (masterPriv s .steward) := by
  simp only [masterDo, acts, stewardParity, good, Bool.false_eq_true, if_false, if_true, Bool.not_true, allowed]

/-- A doorbell that is admitted to the window reaches DRE (R12, R220). -/
theorem exec_doorbell {m : Master} {value : Dword} (src : Nat) : m ≠ .debug →
    (src = match m with
      | .agent src => src.toNat
      | _ => ownId s) →
    (match m with
      | .agent _ => serving s
      | _ => live s && !s.boot.stewardBad) = true →
    masterRefusal s m { kind := .write, addr := ownAddr s bellBase, len := 8, src := src } = none →
    live s = true ∧ exec (.doorbell m value) s = .next (applyDoorbell s src value.toNat) := by
  rintro direct rfl admitted allowed
  cases m with
  | debug => exact absurd rfl direct
  | agent id =>
    have serves : serving s = true := admitted
    simp only [serving, Bool.and_eq_true] at admitted
    exact ⟨admitted.1.1, congrArg _ (masterDo_agent _ serves allowed)⟩
  | steward =>
    obtain ⟨acts, good⟩ : live s = true ∧ s.boot.stewardBad = false := by simpa using admitted
    exact ⟨acts, congrArg _ (masterDo_steward _ acts good allowed)⟩

/-! What a doorbell comes to, check by check. -/

theorem bitsOf_low (w n : Nat) : bitsOf w 0 n = n % 2 ^ (w + 1) := by simp [bitsOf]

/-- The reserved bits of a doorbell are bits 31 to 18 and 63 to 48. -/
theorem bellReserved (h : v < 2 ^ 64) : (bitsOf 31 18 v != 0 || bitsOf 63 48 v != 0) =
    decide (v / 2 ^ 18 % 2 ^ 14 ≠ 0 ∨ v / 2 ^ 48 ≠ 0) := by
  have high : bitsOf 63 48 v = v / 2 ^ 48 := Nat.mod_eq_of_lt (by omega)
  rw [high, Bool.eq_iff_iff]
  simp [bitsOf]

theorem applyDoorbell_reserved (h : v < 2 ^ 64) (bad : v / 2 ^ 18 % 2 ^ 14 ≠ 0 ∨ v / 2 ^ 48 ≠ 0) :
    applyDoorbell s src v = bellRefuse s src v 1 := by
  simp only [applyDoorbell, bellReserved h, bad, decide_true, if_true]

section
variable (h : v < 2 ^ 64) (plain : ¬(v / 2 ^ 18 % 2 ^ 14 ≠ 0 ∨ v / 2 ^ 48 ≠ 0))
include h plain

theorem applyDoorbell_absent (absent : ringExists s (v % 2 ^ 18) = false) : applyDoorbell s src v = bellRefuse s src v 2 := by
  simp only [applyDoorbell, bellReserved h, plain, decide_false, Bool.false_eq_true, if_false, bitsOf_low, absent, Bool.not_false,
    if_true]

variable (known : ringExists s (v % 2 ^ 18) = true)
include known

theorem applyDoorbell_disabled (disabled : ringGet s (v % 2 ^ 18) = none) : applyDoorbell s src v = bellRefuse s src v 3 := by
  simp only [applyDoorbell, bellReserved h, plain, decide_false, Bool.false_eq_true, if_false, bitsOf_low, known, Bool.not_true,
    disabled]

variable (acts : live s = true) (here : ringGet s (v % 2 ^ 18) = some r) (good : s.dre.bad.contains (v % 2 ^ 18) = false)
include acts here good

/-- A tail for a ring that is not DISABLED is measured from its head, or from the next one while a descriptor of it
retires. -/
theorem applyDoorbell_tail : applyDoorbell s src v =
    let ring := v % 2 ^ 18
    let tail := v / 2 ^ 32 % 2 ^ 16
    if ringRetiring s ring then
      let next := (r.head + 1) % 65536
      if 2 ^ r.log2 < dist16 tail next then bellRefuse s src v 4
      else ringUpd s ring fun r => { r with latch := some (match r.latch with
        | some t => if dist16 t next < dist16 tail next then tail else t
        | none => tail) }
    else if 2 ^ r.log2 < dist16 tail r.head then bellRefuse s src v 4
    else ringSync (ringUpd (cacheRing s ring) ring fun r => raiseTail r tail) := by
  have fine : contextParity s (v % 2 ^ 18) = s := by
    simp only [contextParity, good, Bool.false_and, Bool.false_eq_true, if_false]
  simp only [applyDoorbell, bellReserved h, plain, decide_false, Bool.false_eq_true, if_false, bitsOf_low, known, Bool.not_true,
    here, fine, acts]
  rfl

end

/-! What it leaves. -/

/-- A refused doorbell is counted and recorded, and changes nothing of DRE (R220, R242). -/
theorem bellRefuse_records (canon : Canon s) (h : v < 2 ^ 64) {reason : Nat} (low : reason < 8) :
    (bellRefuse s src v reason).dre = s.dre ∧
      regGet (bellRefuse s src v reason) 0x300050 = min (regGet s 0x300050 + 1) 0xFFFFFFFF ∧
      regPair (bellRefuse s src v reason) 0x300054 = v ∧
      regGet (bellRefuse s src v reason) 0x30005C = src % 2 ^ 19 + 2 ^ 20 * reason + 2 ^ 31 := by
  have counted : Canon (regCount s 0x300050) := (regCount_keeps (Keeps.refl s)).canon canon
  have low' : Canon (regPut (regCount s 0x300050) 0x300054 (v % 2 ^ 32)) := (regPut_keeps (Keeps.refl _)).canon counted
  have both : Canon (regPutPair (regCount s 0x300050) 0x300054 v) := (regPutPair_keeps (Keeps.refl _)).canon counted
  refine ⟨rfl, ?_, ?_, ?_⟩
  · rw [bellRefuse, regGet_regPut_other _ _ (by decide), regPutPair, regGet_regPut_other _ _ (by decide),
      regGet_regPut_other _ _ (by decide), regCount, regGet_regPut_same canon]
    omega
  · rw [regPair, bellRefuse, regGet_regPut_other _ _ (by decide), regGet_regPut_other _ _ (by decide), regPutPair,
      regGet_regPut_same low', regGet_regPut_other _ _ (by decide), regGet_regPut_same counted]
    omega
  · rw [bellRefuse, regGet_regPut_same both]
    omega

theorem ringGet_ring {n : Nat} (here : ringGet s n = some r) : r.ring = n := by simpa using List.find?_some here

theorem raiseTail_eq (r : Ring) (tail : Nat) :
    raiseTail r tail = { r with tail := if dist16 r.tail r.head < dist16 tail r.head then tail else r.tail } := by
  unfold raiseTail
  split <;> rfl

/-- A doorbell that is applied raises the ring's tail, or is absorbed (R220). -/
theorem raised_tail {n : Nat} (here : ringGet s n = some r) (room : r.cached = true ∨ cacheUsed s < 4096) (tail : Nat) :
    ∃ r', ringGet (ringSync (ringUpd (cacheRing s n) n fun r => raiseTail r tail)) n = some r' ∧
      r'.tail = (if dist16 r.tail r.head < dist16 tail r.head then tail else r.tail) ∧ r'.head = r.head ∧ r'.fetch = r.fetch := by
  have own := ringGet_ring here
  subst own
  have cached : ringGet (cacheRing s r.ring) r.ring = some { r with cached := true } := by
    rw [cacheRing_room here room]
    split
    next yes => rw [here, ← yes]
    next => exact ringGet_ringUpd here rfl
  have raised := ringGet_ringUpd (f := fun r => raiseTail r tail) cached (by rw [raiseTail_eq])
  obtain ⟨t, synced⟩ := ringGet_ringSync raised
  rw [raiseTail_eq] at synced
  exact ⟨_, synced, rfl, rfl, rfl⟩

theorem raised_regs {n : Nat} (here : ringGet s n = some r) (room : r.cached = true ∨ cacheUsed s < 4096) (f : Ring → Ring) :
    (ringSync (ringUpd (cacheRing s n) n f)).regs = s.regs := by
  have own := ringGet_ring here
  subst own
  rw [cacheRing_room here room]
  split <;> rfl

/-- Settles O25: by the check that the doorbell fails, and else by whether a descriptor of its ring retires. -/
theorem doorbellRules : Obligations.DoorbellRules := by
  unfold Obligations.DoorbellRules
  intro s m value canon direct src admitted allowed ring tail reserved refuses
  obtain ⟨acts, run⟩ := exec_doorbell (value := value) src direct rfl admitted allowed
  have small : value.toNat < 2 ^ 64 := value.isLt
  have refused {reason : Nat} (low : reason < 8) (e : applyDoorbell s src value.toNat = bellRefuse s src value.toNat reason) :
      refuses reason := by
    obtain ⟨dre, count, pair, word⟩ := bellRefuse_records (src := src) canon small low
    exact ⟨_, run.trans (congrArg _ e), dre, count, pair, word⟩
  refine ⟨fun bad => refused (by decide) (applyDoorbell_reserved small bad), fun plain absent => refused (by decide)
    (applyDoorbell_absent small plain absent), fun plain known disabled => refused (by decide)
    (applyDoorbell_disabled small plain known disabled), fun plain known r here good => ?_⟩
  have taken := applyDoorbell_tail (src := src) small plain known acts here good
  refine ⟨fun settled => ?_, fun retiring => ?_⟩
  · rw [if_neg (Bool.eq_false_iff.1 settled)] at taken
    refine ⟨fun beyond => refused (by decide) (taken.trans (if_pos beyond)), fun inside room => ?_⟩
    rw [if_neg (Nat.not_lt.2 inside)] at taken
    obtain ⟨r', found, raised, head, fetch⟩ := raised_tail here room tail
    exact ⟨_, r', run.trans (congrArg _ taken), found, raised, head, fetch, raised_regs here room _⟩
  · have own := ringGet_ring here
    rw [if_pos retiring] at taken
    refine ⟨fun beyond => refused (by decide) (taken.trans (if_pos beyond)), fun inside => ?_⟩
    rw [if_neg (Nat.not_lt.2 inside)] at taken
    exact ⟨_, run.trans (congrArg _ taken), ringGet_ringUpd here own⟩

end Sys2Proof.Machine
end

section
/-! NOP and WAIT descriptors (R228, R231). -/
namespace Sys2Proof.Machine

variable {s : State} {d st c : Nat} {x : Desc}

theorem mayStart_ready (h : mayStart s x = true) : x.phase = .ready := by
  simp only [mayStart, Bool.and_eq_true, beq_iff_eq] at h
  exact h.1.2

/-- A wait ends with its status and with the value of its counter in its record. -/
theorem endWait_ends (here : descGet s d = some x) (going : x.phase ≠ .finished) (calm : x.disturbed = false) :
    EndedWith (endWait s d c st) d st ∧ (descGet (endWait s d c st) d).map (·.body) = some (toLe 8 (counterGet s c).toNat) := by
  have id := descGet_id here
  have told : descGet (descUpd s d fun x => { x with body := toLe 8 (counterGet s c).toNat }) d =
      some { x with body := toLe 8 (counterGet s c).toNat } :=
    descGet_descUpd (f := fun x => { x with body := toLe 8 (counterGet s c).toNat }) here id
  obtain ⟨-, y, found, finished, status, body⟩ := endDesc_ends (st := st) (det := {}) told going calm
  exact ⟨⟨y, found, finished, status⟩, by rw [endWait, found, Option.map_some, body]⟩

/-- The state in which a WAIT has its entry of the wait table (R231). -/
def waitTaken (s : State) (d : Nat) : State :=
  ringSync (descUpd s d fun x => { x with phase := .running, engine := .wait s.osc })

theorem descGet_waitTaken (here : descGet s d = some x) :
    descGet (waitTaken s d) d = some { x with phase := .running, engine := .wait s.osc } := by
  have id := descGet_id here
  exact descGet_descUpd (f := fun x => { x with phase := .running, engine := .wait s.osc }) here id

theorem waitCounter_eq (x : Desc) : waitCounter x = dfield x 32 2 % 2 ^ 12 := by simp [waitCounter, dbits, bitsOf, dfield]

section
variable (acts : live s = true) (here : descGet s d = some x)
include acts here

theorem exec_nopDesc (may : mayStart s x = true) (op : dop x = 0x01) : exec (.nopDesc d) s = .next (endDesc s d 0 {}) := by
  show execNopDesc d s = _
  simp only [execNopDesc, whenLive, acts, here, may, op, BEq.rfl, Bool.and_self, if_true]

theorem exec_waitDesc (may : mayStart s x = true) (op : dop x = 0x02) (room : waitsTaken s < 2048)
    (first : firstOf s x (fun y => dop y == 0x02) = true) : exec (.waitDesc d) s = .next (
      if reached (counterGet s (waitCounter x)) (waitTarget x) then endWait (waitTaken s d) d (waitCounter x) 0 else waitTaken s d) := by
  show execWaitDesc d s = _
  simp only [execWaitDesc, whenLive, acts, here, may, op, room, first, BEq.rfl, decide_true, Bool.and_self, if_true]
  rfl

theorem exec_waitTimeout {since : Nat} (waits : x.engine = .wait since) (runs : x.phase = .running) (limited : waitLimit x ≠ 0) :
    exec (.waitTimeout d) s = .next (
      endWait { s with osc := max s.osc (since + waitLimit x) } d (waitCounter x) stWaitTimeout) := by
  have open' : (x.phase != .running || waitLimit x == 0) = false := by simp [runs, limited]
  show execWaitTimeout d s = _
  simp only [execWaitTimeout, whenLive, acts, here, waits, open', Bool.false_eq_true, if_false, if_true]

end

/-- Settles O28: by the type of the descriptor, and for a WAIT by whether its target is reached. -/
theorem nopAndWait : Obligations.NopAndWait := by
  unfold Obligations.NopAndWait
  intro s d x acts here calm _ counter target value limit ends
  have ended {c : Instr} {t : State} {y : Desc} {st : Nat} (run : exec c s = .next (endWait t d (waitCounter x) st))
      (there : descGet t d = some y) (going : y.phase ≠ .finished) (calm : y.disturbed = false) (same : t.counters = s.counters) :
      ends c st := by
    obtain ⟨finished, body⟩ := endWait_ends (st := st) (c := waitCounter x) there going calm
    refine ⟨_, run, finished, ?_⟩
    rw [body, counterGet, same, waitCounter_eq]
    rfl
  refine ⟨fun may op => ?_, fun may op room first => ?_, fun since waits runs limited => ?_⟩
  · have going : x.phase ≠ .finished := by rw [mayStart_ready may]; decide
    obtain ⟨y, found, finished, status, -⟩ := endDesc_found (st := 0) (det := {}) here going calm
    obtain ⟨spm, regs⟩ := endDesc_succeeds (det := {}) here going calm
    exact ⟨_, exec_nopDesc acts here may op, ⟨y, found, finished, status⟩, regs, spm, endDesc_counters ..⟩
  · have run := exec_waitDesc acts here may op room first
    have met : reached (counterGet s (waitCounter x)) (waitTarget x) = true ↔ 0 ≤ (value - target).toInt := by
      rw [waitCounter_eq]
      exact reached_iff
    refine ⟨fun past => ?_, fun short => ?_⟩
    · rw [if_pos (met.2 past)] at run
      exact ended run (descGet_waitTaken here) (by simp) calm rfl
    · rw [if_neg (mt met.1 short)] at run
      exact ⟨_, run, by rw [descGet_waitTaken here]; rfl⟩
  · have run := exec_waitTimeout acts here waits runs limited
    refine ⟨ended run here (by rw [runs]; decide) calm rfl, fun u ran => ?_⟩
    obtain rfl := Host.Outcome.next.inj (run.symm.trans ran)
    have kept : Keeps { s with osc := max s.osc (since + waitLimit x) } (endWait { s with osc := max s.osc (since + waitLimit x) } d
        (waitCounter x) stWaitTimeout) := endDesc_keeps (descUpd_keeps (Keeps.refl _))
    exact Nat.le_trans (Nat.le_max_right ..) kept.clock

end Sys2Proof.Machine
end

section
/-! What the table of rings keeps whatever DRE's units write and whoever is answered: which rings are in use, and which
of them a DISABLE is ending (R217). -/
namespace Sys2Proof.Machine

/-- The ring command in progress, and the rings in use, each with whether a DISABLE of it is in progress (R217, R242). -/
def Dre.view (d : Dre) : Option (Nat × Nat) × List (Nat × Bool) := (d.cmd, d.rings.map fun r => (r.ring, r.disabling))

/-! Stores and their home copies (R183, R217). -/

/-- A ring whose entry is written over goes on with other indices, but is the same ring. -/
@[simp] theorem entriesWritten_view (s : State) (addr len : Nat) : (entriesWritten s addr len).dre.view = s.dre.view := by
  unfold entriesWritten
  dsimp only
  split
  · rfl
  · simp only [Dre.view, draw_dre, List.map_map]
    congr 1
    refine List.map_congr_left fun r _ => ?_
    simp only [Function.comp_apply]
    split <;> rfl

@[simp] theorem routeWritten_dre (s : State) (off len : Nat) : (routeWritten s off len).dre = s.dre := by
  unfold routeWritten
  split <;> rfl

theorem PortOnly.dre_eq {s u : State} : PortOnly s u → u.dre = s.dre := by
  rintro ⟨c, rfl⟩
  rfl

@[simp] theorem cmpSend_view (s : State) (a : Access) : (cmpSend s a).1.dre.view = s.dre.view := by
  refine (congrArg Dre.view (foldl_portOnly (fun s p => cmpOne_portOnly s _) _ _).dre_eq).trans ?_
  split
  · rfl
  · exact entriesWritten_view ..

theorem homeWrite_view (s : State) (off : Nat) (bs : List Byte) (who : Who) : (homeWrite s off bs who).1.dre.view = s.dre.view := by
  unfold homeWrite
  refine foldl_same (p := fun r : State × Nat => r.1.dre.view) (fun r n => ?_) _ (s, 0)
  exact cmpSend_view ..

@[simp] theorem writeThrough_view (s : State) (a : Access) (runs : List (Nat × List Byte)) (count : Option (Nat × Nat))
    (old : List Byte) : (writeThrough s a runs count old).1.dre.view = s.dre.view := by
  unfold writeThrough
  split
  · rfl
  · dsimp only
    refine (foldl_same (p := fun r : State × Nat => r.1.dre.view) (fun r n => ?_) runs ((newId s).2, 0)).trans rfl
    exact homeWrite_view ..

theorem storeOne_view (owner : Option Nat) (a : Access) (s : State) (r : Nat × List Byte) :
    (storeOne owner a s r).dre.view = s.dre.view := by
  have stored := ((wakeBanks_stored s r.1 r.2.length).trans (spmWrite_stored _ owner r.1 r.2)).dre_eq
  unfold storeOne
  dsimp only
  split
  · rw [stored]
  · rw [routeWritten_dre, entriesWritten_view, stored]

@[simp] theorem storeRuns_view (s : State) (owner : Option Nat) (a : Access) (runs : List (Nat × List Byte))
    (count : Option (Nat × Nat)) (old : List Byte) : (storeRuns s owner a runs count old).1.dre.view = s.dre.view := by
  rw [storeRuns_eq, writeThrough_view]
  exact foldl_same (p := fun s : State => s.dre.view) (storeOne_view owner a) runs s

@[simp] theorem unitStore_view (s : State) (off : Nat) (bs : List Byte) : (unitStore s off bs).dre.view = s.dre.view := by
  unfold unitStore
  dsimp only
  split
  · rfl
  · split
    · rfl
    · exact storeRuns_view ..

theorem wildStore_view (s : State) (off : Nat) (bs : List Byte) : (wildStore s off bs).dre.view = s.dre.view := by
  simp only [wildStore, writeThrough_view, (spmPut_stored ..).dre_eq]

theorem spmHavoc_view (s : State) (off len : Nat) : (spmHavoc s off len).dre.view = s.dre.view := by
  rw [spmHavoc, wildStore_view]
  rfl

theorem rangeHavoc_view (s : State) (r : Nat × Nat) : (rangeHavoc s r).dre.view = s.dre.view := by
  unfold rangeHavoc
  split
  · exact foldl_same (p := fun s : State => s.dre.view) (fun s w => spmHavoc_view ..) _ s
  · rfl

/-! An error that is raised (R311 to R317). -/

@[simp] theorem setEvent_dre (s : State) (b : Nat) : (setEvent s b).dre = s.dre := rfl
@[simp] theorem suppPut_dre (s : State) (k : Nat × Nat) (v : Option Nat × Nat) : (suppPut s k v).dre = s.dre := rfl

@[simp] theorem deliverEntry_dre (s : State) : (deliverEntry s).dre = s.dre := by
  unfold deliverEntry
  split
  · split <;> rfl
  · rfl

@[simp] theorem writeEntry_view (s : State) (e : ErrRec) (cls : Nat) (esc : Bool) (supp : Nat) :
    (writeEntry s e cls esc supp).1.dre.view = s.dre.view := by
  unfold writeEntry
  dsimp only
  split
  · rfl
  · rw [deliverEntry_dre]
    exact unitStore_view ..

@[simp] theorem writeFatal_dre (s : State) (e : ErrRec) (cls : Nat) (esc : Bool) : (writeFatal s e cls esc).dre = s.dre := by
  unfold writeFatal
  split <;> rfl

@[simp] theorem stopCluster_dre (s : State) (supply : Bool) : (stopCluster s supply).dre = s.dre := by
  have told : (if eeuShut s then s else setEvent s 2).dre = s.dre := by split <;> rfl
  have down (u : State) : (linksDown u).dre = u.dre := rfl
  simp only [stopCluster, down]
  split <;> exact told

@[simp] theorem countCorrected_dre (s : State) (res : Nat) : (countCorrected s res).dre = s.dre := by
  unfold countCorrected
  dsimp only
  split <;> split <;> split <;> rfl

@[simp] theorem raiseErr_view (s : State) (e : ErrRec) : (raiseErr s e).dre.view = s.dre.view := by
  unfold raiseErr
  dsimp only
  repeat' split
  all_goals simp only [stopCluster_dre, setEvent_dre, suppPut_dre, writeEntry_view, writeFatal_dre, countCorrected_dre]

/-! The end of a descriptor, and an advance of a counter (R195, R239). -/

@[simp] theorem endDesc_view (s : State) (d st : Nat) (det : Detail) : (endDesc s d st det).dre.view = s.dre.view := by
  obtain same | ⟨x, y, -, -, -, same | ⟨-, e, -, -, same⟩⟩ := endDesc_cases s d st det
  · rw [same]
  · rw [same]
    rfl
  · rw [same, raiseErr_view]
    rfl

theorem testWaits_view (s : State) (c : Nat) : (testWaits s c).dre.view = s.dre.view := by
  unfold testWaits
  dsimp only
  refine foldl_same (p := fun s : State => s.dre.view) (fun u d => ?_) _ s
  exact endDesc_view ..

theorem counterSet_view (s : State) (c : Nat) (v : Dword) : (counterSet s c v).dre.view = s.dre.view := by
  obtain ⟨_, _, same⟩ := closeRounds_eq (testWaits { s with counters := mapSet (fun _ => 0) s.counters c v } c) c
  rw [counterSet, same]
  exact testWaits_view ..

@[simp] theorem counterAdvance_view (s : State) (c n : Nat) : (counterAdvance s c n).dre.view = s.dre.view := counterSet_view ..

/-! Packets (R268 to R280). -/

theorem startFlit_dre {s u : State} {p : Nat} {c : Port} {f : SentFlit} (h : startFlit s p c = some (f, u)) : u.dre = s.dre := by
  unfold startFlit at h
  dsimp only at h
  split at h
  · cases h
  split at h
  · split at h <;> cases h
    rfl
  · split at h
    · cases h
    split at h <;> cases h
    rw [portUpd_dre]
    split
    · split <;> split <;> rfl
    · rfl

theorem fepPump_dre (s : State) (p : Nat) : (fepPump s p).dre = s.dre := by
  unfold fepPump
  split
  · rfl
  next c _ =>
    split
    · rfl
    extract_lets next
    have kept : next.2.dre = s.dre := by
      unfold next
      split
      · rfl
      · split
        next started => exact startFlit_dre started
        next => rfl
    split
    · rfl
    · exact kept

theorem fepPumpAll_dre (s : State) : (fepPumpAll s).dre = s.dre := foldl_same (p := State.dre) fepPump_dre _ s

@[simp] theorem fepPlace_dre (s : State) (k : Packet) (acc : Option Access) (ports : List Nat) (path rcg : Nat) :
    (fepPlace s k acc ports path rcg).dre = s.dre := by
  have put (u : State) (k : Packet) : (fepPumpAll (ports.foldl (fun s p =>
      portUpd s p fun c => { c with queue := c.queue ++ [{ packet := k, rcg := rcg }] }) u)).dre = u.dre :=
    (fepPumpAll_dre _).trans (foldl_same (p := State.dre) (fun s p => portUpd_dre ..) ports u)
  unfold fepPlace
  dsimp only
  split
  · exact put ..
  split
  · exact put ..
  split
  · split
    · exact put ..
    · rfl
  · exact put ..

@[simp] theorem refetchBegin_view (s : State) (block : Nat) : (refetchBegin s block).dre.view = s.dre.view := by
  unfold refetchBegin
  split
  · rfl
  · split
    · rfl
    · exact cmpSend_view ..

@[simp] theorem refetchStart_view (s : State) (word region : Nat) : (refetchStart s word region).dre.view = s.dre.view := by
  unfold refetchStart
  dsimp only
  split
  · rfl
  · exact refetchBegin_view ..

@[simp] theorem raiseRoute_view (s : State) (dest : Nat) (failed : Bool) : (raiseRoute s dest failed).dre.view = s.dre.view := by
  simp only [raiseRoute, raiseErr_view]
  split
  · split <;> rfl
  · rfl

@[simp] theorem routeFetch_view (s : State) (dest : Nat) : (routeFetch s dest).dre.view = s.dre.view := by
  unfold routeFetch
  split
  · rfl
  split
  · split
    · rfl
    · exact cmpSend_view ..
  · split
    · split
      · exact refetchStart_view ..
      · rfl
    · rfl

@[simp] theorem regCount_dre (s : State) (off : Nat) : (regCount s off).dre = s.dre := rfl
@[simp] theorem noteRefusal_dre (s : State) (out : Bool) (src addr reason : Nat) : (noteRefusal s out src addr reason).dre = s.dre := rfl

@[simp] theorem fepQueue_view (s : State) (k : Packet) (acc : Option Access) : (fepQueue s k acc).1.dre.view = s.dre.view := by
  unfold fepQueue
  split
  · rw [fepPlace_dre]
  · dsimp only
    split <;> simp
  · simp

@[simp] theorem echoOn_dre (s : State) (g : Nat) : (echoOn s g).dre = s.dre := by
  unfold echoOn
  dsimp only
  split
  · rfl
  · split
    · split <;> rfl
    · rfl

@[simp] theorem echoFor_view (s : State) (dest : Nat) : (echoFor s dest).dre.view = s.dre.view := by
  unfold echoFor
  split <;> simp

/-! Answers (R278, R370). -/

@[simp] theorem answerAgent_dre (s : State) (a : Access) (ch tag : Nat) (be : BitVec 128) (r : Resp) :
    (answerAgent s a ch tag be r).dre = s.dre := (cmpQueue_portOnly ..).dre_eq

theorem answerMulticast_view (s : State) (k : Packet) : (answerMulticast s k).dre.view = s.dre.view := by
  unfold answerMulticast
  dsimp only
  split
  · rfl
  split <;> simp

@[simp] theorem answerPacket_view (s : State) (k : Packet) (r : Resp) : (answerPacket s k r).dre.view = s.dre.view := by
  unfold answerPacket
  split
  · exact answerMulticast_view ..
  · exact fepQueue_view ..

@[simp] theorem answerDebug_dre (s : State) (a : Access) (key : Nat) (r : Resp) : (answerDebug s a key r).dre = s.dre := by
  unfold answerDebug
  split
  · rfl
  · split <;> rfl

@[simp] theorem saveAnswered_dre (s : State) (g : Nat) (a : Access) (r : Resp) : (saveAnswered s g a r).dre = s.dre := by
  unfold saveAnswered
  dsimp only
  split <;> rfl

/-! A collective that fails (R261, R262, R265). -/

theorem clTell_view (s : State) (d : Desc) (skip : Option Nat) (level : Nat) (b : CollBody) :
    (clTell s d skip level b).dre.view = s.dre.view := by
  unfold clTell
  dsimp only
  refine (foldl_same (p := fun s : State => s.dre.view) (fun u c => ?_) _ _).trans ?_
  · split
    · rfl
    · exact fepQueue_view ..
  · split
    · split
      · rfl
      · exact fepQueue_view ..
    · rfl

theorem clAftermath_view (s : State) (d status : Nat) : (clAftermath s d status).dre.view = s.dre.view := by
  unfold clAftermath
  split
  · rfl
  split
  · rfl
  split
  · rfl
  · dsimp only
    refine (foldl_same (p := fun s : State => s.dre.view) (fun u w => ?_) _ _).trans ?_
    · split
      · rfl
      · exact spmHavoc_view ..
    · split
      · exact clTell_view ..
      · rfl

@[simp] theorem clFail_view (s : State) (d status : Nat) (cause : Option (Nat × Nat)) (det : Detail) :
    (clFail s d status cause det).dre.view = s.dre.view := by
  have last (u : State) (x : Desc) : (clLast u x).dre = u.dre := by
    unfold clLast
    split <;> rfl
  have forget (u : State) (x : Desc) : (clForget u x).dre = u.dre := rfl
  unfold clFail
  split
  · rfl
  split
  · rfl
  · simp only [endDesc_view, descUpd_dre, clAftermath_view, forget, last, clUpd_dre]

@[simp] theorem failWrite_view (s : State) (d status : Nat) (det : Detail) : (failWrite s d status det).dre.view = s.dre.view := by
  unfold failWrite
  split
  · rfl
  · split <;> simp

@[simp] theorem foldEnd_view (s : State) (n : Nat) : (foldEnd s n).dre.view = s.dre.view := by
  simp only [foldEnd, counterAdvance_view, regPutBits_dre]

/-! Whoever is answered: the ring command may end, and the rings stay. -/

@[simp] theorem contextDone_rings (s : State) (ring : Nat) : (contextDone s ring).dre.view.2 = s.dre.view.2 := by
  unfold contextDone
  split
  · rfl
  · have lost (l : List (Nat × Nat)) (u : State) : (l.foldl rangeHavoc u).dre.view = u.dre.view :=
      foldl_same (p := fun s : State => s.dre.view) rangeHavoc_view l u
    dsimp only
    split
    · rw [raiseErr_view, lost]
      rfl
    · rw [lost]
      rfl

@[simp] theorem deliverBase_rings (s : State) (a : Access) (r : Resp) : (deliverBase s a r).dre.view.2 = s.dre.view.2 := by
  unfold deliverBase
  split
  case h_5 => dsimp only; split <;> simp
  case h_6 =>
    dsimp only
    split <;> split <;> simp
  case h_8 => exact contextDone_rings ..
  all_goals simp

theorem fepQueueOr_rings (s : State) (k : Packet) (acc : Option Access) : (fepQueueOr s k acc).dre.view.2 = s.dre.view.2 := by
  unfold fepQueueOr
  dsimp only
  split
  · simp
  · split <;> simp

@[simp] theorem fepRetryUnrouted_rings (s : State) : (fepRetryUnrouted s).dre.view.2 = s.dre.view.2 := by
  unfold fepRetryUnrouted
  dsimp only
  refine (foldl_same (p := fun s : State => s.dre.view.2) (fun u e => by rw [echoFor_view]) _ _).trans ?_
  exact foldl_same (p := fun s : State => s.dre.view.2) (fun u w => fepQueueOr_rings ..) _ _

theorem routeArrived_rings (s : State) (dest : Nat) (r : Resp) : (routeArrived s dest r).dre.view.2 = s.dre.view.2 := by
  unfold routeArrived
  dsimp only
  refine (foldl_same (p := fun s : State => s.dre.view.2) (fun u w => ?_) _ _).trans
    (foldl_same (p := fun s : State => s.dre.view.2) (fun u e => ?_) _ _)
  · split
    · simp
    · split
      · split <;> simp
      · split <;> simp
  · split <;> simp

/-- An answer leaves the rings as they are. -/
@[simp] theorem deliver_rings (s : State) (a : Access) (r : Resp) : (deliver s a r).dre.view.2 = s.dre.view.2 := by
  have begun (l : List Refetch) (u : State) :
      (l.foldl (fun s r => if r.key.isNone then refetchBegin s r.block else s) u).dre.view = u.dre.view :=
    foldl_same (p := fun s : State => s.dre.view) (fun u r => by split <;> simp) l u
  unfold deliver
  split
  · exact routeArrived_rings ..
  · split
    · rfl
    · dsimp only
      split
      · rfl
      split <;> split <;> simp only [deliverBase_rings, threadUpd_dre, counterAdvance_view, begun]
  · exact deliverBase_rings ..

/-! Accesses to the own scratchpad, and requests that leave (R168 to R173). -/

theorem fepRequest_rings (s : State) (a : Access) (fwd : Bool) : (fepRequest s a fwd).dre.view.2 = s.dre.view.2 := by
  unfold fepRequest
  split
  · simp
  · dsimp only
    split <;> simp

@[simp] theorem sendOutside_rings (s : State) (a : Access) (fwd : Bool) : (sendOutside s a fwd).1.dre.view.2 = s.dre.view.2 := by
  unfold sendOutside
  split
  · rw [cmpSend_view]
  · exact foldl_same (p := fun s : State => s.dre.view.2) (fun u p => fepRequest_rings ..) _ s

@[simp] theorem refuseAccess_rings (s : State) (out : Bool) (a : Access) (n : Nat) :
    (refuseAccess s out a n).dre.view.2 = s.dre.view.2 := by
  have noted (u : State) : (ordNoteRefused u a).dre = u.dre := by
    unfold ordNoteRefused
    split
    · split <;> rfl
    · rfl
  rw [refuseAccess, deliver_rings, noted, noteRefusal_dre]

@[simp] theorem spmCommit_rings (s : State) (owner : Option Nat) (a : Access) (runs : List (Nat × List Byte))
    (count : Option (Nat × Nat)) (old : List Byte) : (spmCommit s owner a runs count old).1.dre.view.2 = s.dre.view.2 := by
  unfold spmCommit
  dsimp only
  split
  · dsimp only
    split <;> simp
  · simp

@[simp] theorem meetBad_rings (s : State) (w : Nat) (giveUp : Bool) : (meetBad s w giveUp).1.dre.view.2 = s.dre.view.2 := by
  unfold meetBad
  split <;> simp

@[simp] theorem orderedAdd_rings (s : State) (n : Nat) (a : Access) (giveUp : Bool) :
    (orderedAdd s n a giveUp).1.dre.view.2 = s.dre.view.2 := by
  unfold orderedAdd
  split
  · rfl
  · dsimp only
    split
    · rfl
    · exact meetBad_rings ..
    · rw [spmCommit_rings]
      split <;> rfl

theorem spmAccess_rings (s : State) (owner : Option Nat) (a : Access) (giveUp : Bool) :
    (spmAccess s owner a giveUp).1.dre.view.2 = s.dre.view.2 := by
  unfold spmAccess
  dsimp only
  split
  · rfl
  split
  · simp
  split
  · split
    · exact spmCommit_rings ..
    · exact meetBad_rings ..
  · split
    · rfl
    · exact spmCommit_rings ..
    · exact spmCommit_rings ..

theorem spmServe_rings (s : State) (owner : Option Nat) (a : Access) (giveUp : Bool) :
    (spmServe s owner a giveUp).dre.view.2 = s.dre.view.2 := by
  unfold spmServe
  split
  · simp
  · dsimp only
    split
    · rw [deliver_rings, spmAccess_rings]
    · exact spmAccess_rings ..
    · exact spmAccess_rings ..
    · rw [deliver_rings, spmAccess_rings]

theorem settleRange_rings (s : State) (off len : Nat) : (settleRange s off len).dre.view.2 = s.dre.view.2 :=
  foldl_same (p := fun s : State => s.dre.view.2) (fun _ _ => spmServe_rings ..) _ _

theorem serveNow_rings (s : State) (owner : Option Nat) (a : Access) : (serveNow s owner a).dre.view.2 = s.dre.view.2 := by
  rw [serveNow, spmServe_rings]
  refine foldl_same (p := fun s : State => s.dre.view.2) (fun u p => ?_) _ s
  rw [settleRange_rings, (wakeBanks_stored ..).dre_eq]

theorem unitWrite_rings (s : State) (owner : Option Nat) (a : Access) : (unitWrite s owner a).dre.view.2 = s.dre.view.2 := by
  unfold unitWrite
  split
  · split
    · exact refuseAccess_rings ..
    · exact serveNow_rings ..
  · exact sendOutside_rings ..

/-! The write-backs of a context (R215, R216). -/

theorem entryBack_rings (s : State) (wild : Bool) (who : Who) (addr : Nat) (bs : List Byte) :
    (entryBack s wild who addr bs).dre.view.2 = s.dre.view.2 := by
  have drawn : (backBytes s wild bs).1.dre = s.dre := by
    unfold backBytes
    split <;> rfl
  rw [entryBack, unitWrite_rings, drawn]

/-- The write-back of a context leaves the rings in use, whatever becomes of it. -/
theorem contextBack_rings (s : State) (r : Ring) (state : Nat) : (contextBack s r state).dre.view.2 = s.dre.view.2 := by
  have backed (u : State) (who : Who) : (ringBack u r state who).dre.view.2 = u.dre.view.2 := by
    simp only [ringBack, entryBack_rings]
  unfold contextBack
  dsimp only
  split
  · rw [cqBack, entryBack_rings, backed]
    rfl
  · exact backed ..

end Sys2Proof.Machine
end

section
/-! The ring commands of a privileged master: how one begins, and what it leaves of the state that reads and write-backs
depend on (R217, R242). -/
namespace Sys2Proof.Machine

/-! What stays while a ring command is performed. -/

/-- A state that differs from another in the registers of the ring command, in DRE, in bytes of scratchpad and in what a
store notes, and has no new word of bad parity. -/
structure RingKept (s u : State) : Prop where
  regs : ∀ o, o ≠ 0x300030 → o ≠ 0x300034 → regGet u o = regGet s o
  par : u.par = s.par
  power : u.power = s.power
  xbr : u.xbr = s.xbr
  refetch : u.refetch = s.refetch
  bad : ∀ w ∈ u.spmBad, w ∈ s.spmBad

theorem RingKept.trans {s t u : State} (h : RingKept s t) (k : RingKept t u) : RingKept s u where
  regs o one two := (k.regs o one two).trans (h.regs o one two)
  par := k.par.trans h.par
  power := k.power.trans h.power
  xbr := k.xbr.trans h.xbr
  refetch := k.refetch.trans h.refetch
  bad w listed := h.bad w (k.bad w listed)

section
variable {s u : State} (h : RingKept s u)
include h

theorem RingKept.regPair_eq {o : Nat} (apart : o < 0x30002C ∨ 0x300034 < o) : regPair u o = regPair s o := by
  rw [regPair, regPair, h.regs o (by omega) (by omega), h.regs (o + 4) (by omega) (by omega)]

theorem RingKept.regBits_eq {o : Nat} (apart : o < 0x30002C ∨ 0x300034 < o) (hi lo : Nat) : regBits u o hi lo = regBits s o hi lo := by
  rw [regBits, regBits, h.regs o (by omega) (by omega)]

theorem RingKept.ownId_eq : ownId u = ownId s := h.regBits_eq (by decide) 18 0

theorem RingKept.isOwn_eq (a : Nat) : isOwn u a = isOwn s a := by rw [isOwn, isOwn, h.ownId_eq]

theorem RingKept.baseAddr_eq (v : Nat) : baseAddr u v = baseAddr s v := by rw [baseAddr, baseAddr, ownAddr, ownAddr, h.ownId_eq]

theorem RingKept.ctxAddr_eq (r : Nat) : ctxAddr u r = ctxAddr s r := by
  rw [ctxAddr, ctxAddr, h.baseAddr_eq, h.regPair_eq (by decide)]

theorem RingKept.cqAddr_eq (q : Nat) : cqAddr u q = cqAddr s q := by
  rw [cqAddr, cqAddr, h.baseAddr_eq, h.regPair_eq (by decide)]

theorem RingKept.inNear_eq (off len : Nat) : inNear u off len = inNear s off len := by
  rw [inNear, inNear, nearSize, nearSize, h.par]

theorem RingKept.inSpm_eq (off len : Nat) : inSpm u off len = inSpm s off len := by
  rw [inSpm, inSpm, h.inNear_eq, inDeep, inDeep, deepSize, deepSize, h.par]

theorem RingKept.contextOk_eq (bs cq : List Byte) : contextOk u bs cq = contextOk s bs cq := by
  have save (a : Nat) : saveOk u a = saveOk s a := by rw [saveOk, saveOk, h.isOwn_eq, h.inNear_eq]
  have place (a bytes align : Nat) : placed u a bytes align = placed s a bytes align := by
    rw [placed, placed, h.isOwn_eq, h.inNear_eq]
  simp only [contextOk, save, place, h.inNear_eq]

theorem RingKept.ordOver_eq (off len : Nat) : ordOver u off len = ordOver s off len := by
  have word (n k : Nat) : regGet u (ordReg n k) = regGet s (ordReg n k) :=
    h.regs _ (by simp only [ordReg]; omega) (by simp only [ordReg]; omega)
  have pair (n k : Nat) : regPair u (ordReg n k) = regPair s (ordReg n k) := h.regPair_eq (by simp only [ordReg]; omega)
  simp only [ordOver, ordArm, ordClosed, ordTarget, ordSlots, regBits, word, pair]

theorem RingKept.backOver_eq (off len : Nat) : backOver u off len = backOver s off len := by
  have word (n k : Nat) : regGet u (backReg n k) = regGet s (backReg n k) :=
    h.regs _ (by simp only [backReg]; omega) (by simp only [backReg]; omega)
  have pair (n k : Nat) : regPair u (backReg n k) = regPair s (backReg n k) := h.regPair_eq (by simp only [backReg]; omega)
  simp only [backOver, backValid, backBase, backSize, regBits, word, pair]

theorem RingKept.quiet {off len : Nat} (quiet : Quiet s off len) : Quiet u off len where
  awake := h.power ▸ quiet.awake
  clear := h.xbr ▸ quiet.clear
  past := h.refetch ▸ quiet.past

theorem RingKept.spmBadIn_none {off len : Nat} (good : spmBadIn s off len = none) : spmBadIn u off len = none := by
  rw [spmBadIn, List.find?_eq_none] at *
  exact fun w listed => good w (h.bad w listed)

theorem RingKept.ownGood {addr len : Nat} (good : OwnGood s addr len) : OwnGood u addr len where
  some := good.some
  own := (h.isOwn_eq addr).trans good.own
  fits := (h.inSpm_eq ..).trans good.fits
  quiet := h.quiet good.quiet
  unordered := (h.ordOver_eq ..).trans good.unordered
  good := h.spmBadIn_none good.good

theorem RingKept.ownOpen {addr len : Nat} (open' : OwnOpen s addr len) : OwnOpen u addr len where
  some := open'.some
  own := (h.isOwn_eq addr).trans open'.own
  fits := (h.inSpm_eq ..).trans open'.fits
  unbacked := (h.backOver_eq ..).trans open'.unbacked
  unordered := (h.ordOver_eq ..).trans open'.unordered
  settled := by rw [refetching, h.refetch]; exact open'.settled
  good := h.spmBadIn_none open'.good
  quiet := h.quiet open'.quiet

end

/-! The write of DRE_RING_CMD. -/

variable {s u : State} {m : Master} {cmd ring : Nat} {r : Ring}

/-- The state in which DRE_RING_CMD holds a command. -/
def ringTold (s : State) (cmd ring : Nat) : State := regPut s 0x300030 (ring + 2 ^ 20 * cmd)

/-- The state in which a ring command is in progress (R242). -/
def ringBegun (s : State) (cmd ring : Nat) : State :=
  regPut { ringTold s cmd ring with dre :=
    { s.dre with cmd := some (cmd, ring), ctxLeft := 0, ctxFail := none, ctxLost := [] } } 0x300034 0

theorem ringTold_kept : RingKept s (ringTold s cmd ring) :=
  ⟨fun _ one _ => regGet_regPut_other _ _ one, rfl, rfl, rfl, rfl, fun _ => id⟩

theorem ringTold_canon (canon : Canon s) : Canon (ringTold s cmd ring) := (regPut_keeps (Keeps.refl s)).canon canon

theorem ringBegun_kept : RingKept s (ringBegun s cmd ring) :=
  ringTold_kept.trans ⟨fun _ _ two => regGet_regPut_other _ _ two, rfl, rfl, rfl, rfl, fun _ => id⟩

theorem ringBegun_canon (canon : Canon s) : Canon (ringBegun s cmd ring) := by
  have told := ringTold_canon (cmd := cmd) (ring := ring) canon
  exact (regPut_keeps (Keeps.refl _)).canon ⟨told.spm, told.nor, told.regs, told.counters, told.cntShadow, told.voc, told.corr,
    told.trim, told.ftab⟩

theorem ringGet_ringTold (n : Nat) : ringGet (ringTold s cmd ring) n = ringGet s n := rfl
theorem ringExists_ringTold (n : Nat) : ringExists (ringTold s cmd ring) n = ringExists s n := by
  rw [ringExists, ringExists, ringTold_kept.regBits_eq (by decide), ringTold_kept.par]

/-- The command word as its fields read back. -/
theorem ringWord (low : ring < 2 ^ 18) (small : cmd < 8) :
    bitsOf 22 20 (ring + 2 ^ 20 * cmd) = cmd ∧ bitsOf 17 0 (ring + 2 ^ 20 * cmd) = ring := by
  simp only [bitsOf]
  omega

theorem ringWrite_taken (admits : Admits s m .write 0x300030) (priv : masterPriv s m = true) (idle : s.dre.cmd = none)
    (low : ring < 2 ^ 18) (small : cmd < 8) : ringWrite s m cmd ring = ringCmd (ringTold s cmd ring) cmd ring := by
  obtain ⟨command, number⟩ := ringWord low small
  rw [ringWrite, Nat.mod_eq_of_lt low]
  refine masterWrite_taken (by decide) admits (by rw [priv]; rfl) ?_
  simp only [lkWrite, idle, Option.isSome_none, Bool.false_eq_true, if_false, command, number]
  rfl

theorem exec_ringEnable (idle : s.dre.cmd = none) :
    exec (.ringEnable m ring) s = .next (ringWrite s m 1 ring) := by
  show execRingEnable m ring s = _
  simp [execRingEnable, idle]

/-! What the command comes to, check by check. -/

theorem ringRefuse_told (canon : Canon u) {reason : Nat} (low : reason < 8) : regGet (ringRefuse u reason) 0x300034 = 2 + 4 * reason ∧
    (ringRefuse u reason).dre.rings = u.dre.rings ∧ (ringRefuse u reason).dre.cmd = none := by
  have canon' : Canon { u with dre := { u.dre with cmd := none } } := ⟨canon.spm, canon.nor, canon.regs, canon.counters,
    canon.cntShadow, canon.voc, canon.corr, canon.trim, canon.ftab⟩
  refine ⟨?_, rfl, rfl⟩
  rw [ringRefuse, regGet_regPut_same canon']
  omega

section
variable (idle : s.dre.cmd = none)
include idle

theorem ringCmd_open (listed : 0 < cmd ∧ cmd ≤ 4) :
    ((ringTold s cmd ring).dre.cmd.isSome || decide (cmd = 0) || decide (cmd > 4)) = false := by
  have free : (ringTold s cmd ring).dre.cmd = none := idle
  simp only [free, Option.isSome_none, Bool.false_or, Bool.or_eq_false_iff, decide_eq_false_iff_not]
  omega

theorem ringCmd_absent (listed : 0 < cmd ∧ cmd ≤ 4) (absent : ringExists s ring = false) :
    ringCmd (ringTold s cmd ring) cmd ring = ringRefuse (ringTold s cmd ring) 1 := by
  simp only [ringCmd, ringCmd_open idle listed, Bool.false_eq_true, if_false, ringExists_ringTold, absent, Bool.not_false, if_true]

variable (known : ringExists s ring = true)
include known

/-- A ring that is not DISABLED is not enabled. -/
theorem ringCmd_enabled (here : ringGet s ring = some r) :
    ringCmd (ringTold s 1 ring) 1 ring = ringRefuse (ringTold s 1 ring) 3 := by
  simp only [ringCmd, ringCmd_open idle (cmd := 1) (by decide), Bool.false_eq_true, if_false, ringExists_ringTold, known,
    Bool.not_true, ringGet_ringTold, here, if_true]

/-- A DISABLED ring is neither disabled nor resumed. -/
theorem ringCmd_disabled (none' : ringGet s ring = none) :
    ringCmd (ringTold s 2 ring) 2 ring = ringRefuse (ringTold s 2 ring) 3 ∧
      ringCmd (ringTold s 3 ring) 3 ring = ringRefuse (ringTold s 3 ring) 3 := by
  constructor
  · simp only [ringCmd, ringCmd_open idle (cmd := 2) (by decide), Bool.false_eq_true, if_false, ringExists_ringTold, known,
      Bool.not_true, ringGet_ringTold, none', if_true]
  · simp only [ringCmd, ringCmd_open idle (cmd := 3) (by decide), Bool.false_eq_true, if_false, ringExists_ringTold, known,
      Bool.not_true, ringGet_ringTold, none', if_true]

/-- A ring that is not HALTED is not resumed. -/
theorem ringCmd_unhalted (here : ringGet s ring = some r) (going : r.state ≠ 2) :
    ringCmd (ringTold s 3 ring) 3 ring = ringRefuse (ringTold s 3 ring) 3 := by
  have wrong : (r.state != 2) = true := by simpa using going
  simp only [ringCmd, ringCmd_open idle (cmd := 3) (by decide), Bool.false_eq_true, if_false, ringExists_ringTold, known,
    Bool.not_true, ringGet_ringTold, here, wrong, if_true]

theorem ringCmd_enable (none' : ringGet s ring = none) :
    ringCmd (ringTold s 1 ring) 1 ring = enableStep (ringBegun s 1 ring) ring := by
  simp only [ringCmd, ringCmd_open idle (cmd := 1) (by decide), Bool.false_eq_true, if_false, ringExists_ringTold, known,
    Bool.not_true, ringGet_ringTold, none']
  rfl

theorem ringCmd_disable (here : ringGet s ring = some r) :
    ringCmd (ringTold s 2 ring) 2 ring = disableRing (ringBegun s 2 ring) ring := by
  simp only [ringCmd, ringCmd_open idle (cmd := 2) (by decide), Bool.false_eq_true, if_false, ringExists_ringTold, known,
    Bool.not_true, ringGet_ringTold, here]
  rfl

/-- The ring is ACTIVE again and the command is done. -/
def ringResumed (s : State) (ring : Nat) : State :=
  let t := ringUpd (ringBegun s 3 ring) ring fun r => { r with state := 1, haltStatus := 0, haltSeq := 0 }
  { t with dre := { t.dre with cmd := none } }

theorem ringCmd_resume (here : ringGet s ring = some r) (halted : r.state = 2) :
    ringCmd (ringTold s 3 ring) 3 ring = ringSync (ringResumed s ring) := by
  have right : (r.state != 2) = false := by simpa using halted
  simp only [ringCmd, ringCmd_open idle (cmd := 3) (by decide), Bool.false_eq_true, if_false, ringExists_ringTold, known,
    Bool.not_true, ringGet_ringTold, here, right]
  rfl

theorem ringCmd_flush (here : ringGet s ring = some r) :
    ringCmd (ringTold s 4 ring) 4 ring = contextBack (ringBegun s 4 ring) r r.state := by
  simp only [ringCmd, ringCmd_open idle (cmd := 4) (by decide), Bool.false_eq_true, if_false, ringExists_ringTold, known,
    Bool.not_true, ringGet_ringTold, here]
  rfl

end

end Sys2Proof.Machine
end

section
/-! ENABLE of a ring whose entries stand good in the own scratchpad (R214 to R217). -/
namespace Sys2Proof.Machine

variable {s : State} {ring q : Nat}

/-! Room in the context cache (R218). -/

theorem cacheRoom_roomy (room : cacheUsed s < 4096) : cacheRoom s = s := by simp only [cacheRoom, room, if_true]

theorem length_filter_replaceFirst {α : Type} (p g : α → Bool) (f : α → α) (l : List α) :
    ((replaceFirst p f l).filter g).length ≤ (l.filter g).length + 1 := by
  simp only [← List.countP_eq_length_filter]
  induction l with
  | nil => exact Nat.zero_le _
  | cons x l ih =>
    rw [replaceFirst]
    split
    · rw [List.countP_cons, List.countP_cons]
      split <;> omega
    · rw [List.countP_cons, List.countP_cons]
      omega

theorem any_replaceFirst {α : Type} {p : α → Bool} {f : α → α} {l : List α} (kept : ∀ x, p (f x) = p x) :
    (replaceFirst p f l).any p = l.any p := by
  induction l with
  | nil => rfl
  | cons x l ih =>
    rw [replaceFirst]
    split <;> simp [kept, ih]

/-- The completion ring's context as an entry of the table gives it (R216). -/
def cqOf (q : Nat) (bs : List Byte) : Cq :=
  { cq := q, base := fieldAt bs 0 8, log2 := bitsOf 3 0 (fieldAt bs 8 1), widx := fieldAt bs 10 2 }

/-- The state in which a completion ring is in use with its entry in the cache. -/
def cqTaken (s : State) (c : Cq) : State :=
  if (s.dre.cqs.find? fun x => x.cq == c.cq).isSome then cacheCq s c.cq
  else
    let s := cacheRoom s
    { s with dre := { s.dre with cqs := s.dre.cqs ++ [c] } }

/-- With room for one entry more, no entry leaves the cache for it. -/
theorem cqTaken_room (c : Cq) (room : cacheUsed s + 2 ≤ 4096) : cacheUsed (cqTaken s c) < 4096 ∧
    (cqTaken s c).dre.rings = s.dre.rings ∧ (cqTaken s c).dre.cqs.any (fun x => x.cq == c.cq) = true := by
  have roomy : cacheRoom s = s := cacheRoom_roomy (by omega)
  unfold cqTaken
  split
  next known =>
    have listed : s.dre.cqs.any (fun x => x.cq == c.cq) = true := by
      rw [List.find?_isSome] at known
      exact List.any_eq_true.2 known
    rw [cacheCq, roomy]
    split
    · have more := length_filter_replaceFirst (fun x => x.cq == c.cq) (fun q : Cq => q.cached) (fun x => { x with cached := true })
        s.dre.cqs
      refine ⟨?_, rfl, (any_replaceFirst (f := fun x : Cq => { x with cached := true }) fun _ => rfl).trans listed⟩
      simp only [cacheUsed, cqUpd] at room ⊢
      omega
    · exact ⟨by omega, rfl, listed⟩
  next =>
    rw [roomy]
    refine ⟨?_, rfl, by simp⟩
    have more := List.length_filter_le (fun q : Cq => q.cached) [c]
    simp only [cacheUsed, List.filter_append, List.length_append, List.length_singleton] at room more ⊢
    omega

/-- The context of a ring as its entry gives it: ACTIVE, at its saved head, tail and sequence number (R215, R217). -/
def ringOf (ring : Nat) (bs : List Byte) : Ring :=
  { ring := ring, base := fieldAt bs 0 8, log2 := bitsOf 3 0 (fieldAt bs 8 1), cls := bitsOf 2 0 (fieldAt bs 9 1)
    depth := bitsOf 4 0 (fieldAt bs 10 1), haltOnFail := bitOf 0 (fieldAt bs 11 1), preempt := bitOf 1 (fieldAt bs 11 1)
    acting := bitsOf 18 0 (fieldAt bs 12 4), cq := bitsOf 11 0 (fieldAt bs 16 2), head := fieldAt bs 20 2
    tail := fieldAt bs 22 2, seq := fieldAt bs 24 4, save := fieldAt bs 32 8, state := 1, fetch := fieldAt bs 20 2 }

/-- A ring joins those in use, and the command is done. -/
def ringJoined (s : State) (r : Ring) : State :=
  regPut { s with dre := { s.dre with rings := s.dre.rings ++ [r], cmd := none } } 0x300034 0

section
variable {bs qs : List Byte} (context : OwnGood s (ctxAddr s ring) 64)
  (read : spmBytes s (offsetOf (ctxAddr s ring)) 64 = bs) (cq : OwnGood s (cqAddr s (bitsOf 11 0 (fieldAt bs 16 2))) 16)
  (read' : spmBytes s (offsetOf (cqAddr s (bitsOf 11 0 (fieldAt bs 16 2)))) 16 = qs)
include context read cq read'

theorem enableStep_refuses (bad : contextOk s bs qs = false) :
    enableStep s ring = ringRefuse (gatherDrop s (ringOwner ring)) 2 := by
  have bad' : contextOk (gatherDrop s (ringOwner ring)) bs qs = false := bad
  simp only [enableStep, readRange_good context, read, readRange_good cq, read', bad', Bool.not_false, if_true]

theorem enableStep_joins (ok : contextOk s bs qs = true) (room : cacheUsed s + 2 ≤ 4096) :
    enableStep s ring = ringSync (ringJoined (cqTaken (gatherDrop s (ringOwner ring)) (cqOf (bitsOf 11 0 (fieldAt bs 16 2)) qs))
      (ringOf ring bs)) := by
  have ok' : contextOk (gatherDrop s (ringOwner ring)) bs qs = true := ok
  have roomy := cacheRoom_roomy (cqTaken_room (s := gatherDrop s (ringOwner ring)) (cqOf (bitsOf 11 0 (fieldAt bs 16 2)) qs) room).1
  simp only [enableStep, readRange_good context, read, readRange_good cq, read', ok', Bool.not_true, Bool.false_eq_true, if_false]
  rw [ringJoined, ← roomy]
  rfl

end

theorem cqTaken_keeps (c : Cq) : Keeps s (cqTaken s c) := by
  unfold cqTaken
  split
  · exact cacheCq_keeps (Keeps.refl s)
  · exact Keeps.same (cacheRoom_keeps (Keeps.refl s)) rfl rfl rfl

/-- What an ENABLE leaves that succeeds. -/
theorem ringJoined_enabled (canon : Canon s) {r : Ring} (none' : ringGet s r.ring = none) : ∃ t,
    regGet (ringSync (ringJoined s r)) 0x300034 = 0 ∧ (ringSync (ringJoined s r)).dre.cmd = none ∧
      ringGet (ringSync (ringJoined s r)) r.ring = some { r with readySince := t } := by
  have canon' : Canon { s with dre := { s.dre with rings := s.dre.rings ++ [r], cmd := none } } := ⟨canon.spm, canon.nor,
    canon.regs, canon.counters, canon.cntShadow, canon.voc, canon.corr, canon.trim, canon.ftab⟩
  have joined : ringGet (ringJoined s r) r.ring = some r := by
    show (s.dre.rings ++ [r]).find? (fun x => x.ring == r.ring) = some r
    rw [List.find?_append, show s.dre.rings.find? (fun x => x.ring == r.ring) = none from none']
    simp
  obtain ⟨t, synced⟩ := ringGet_ringSync joined
  exact ⟨t, regGet_regPut_same canon' _ 0, rfl, synced⟩

end Sys2Proof.Machine
end

section
/-! DISABLE of a ring: what is not yet running ends with ABORTED, and a ring with nothing in flight is DISABLED (R217). -/
namespace Sys2Proof.Machine

variable {s t u : State} {d e st ring : Nat} {x : Desc} {r : Ring}

/-! A descriptor that is ended, and the others. -/

/-- Where one state holds a descriptor, another holds it too, changed in noted writes alone (R62, R323). -/
def NotedAt (e : Nat) (s u : State) : Prop :=
  ∀ x, descGet s e = some x → ∃ y, descGet u e = some y ∧ { y with wrote := x.wrote, clobbered := x.clobbered } = x

theorem NotedAt.of_eq (same : descGet u e = descGet s e) : NotedAt e s u := fun x here => ⟨x, same.trans here, rfl⟩

theorem NotedAt.trans (first : NotedAt e s t) (second : NotedAt e t u) : NotedAt e s u := by
  intro x here
  obtain ⟨y, there, same⟩ := first x here
  obtain ⟨z, last, same'⟩ := second y there
  rw [← same'] at same
  exact ⟨z, last, same⟩

theorem DescsNoted.at (noted : DescsNoted s u) (e : Nat) : NotedAt e s u := fun _ here => noted.get here

theorem NotedAt.endedAs {body : List Byte} (noted : NotedAt e s u) : EndedAs s e st body → EndedAs u e st body := by
  rintro ⟨x, here, finished, status, kept⟩
  obtain ⟨y, there, same⟩ := noted x here
  exact ⟨y, there, by rw [← finished, ← same], by rw [← status, ← same], by rw [← kept, ← same]⟩

theorem EndedAs.endedWith {body : List Byte} : EndedAs s d st body → EndedWith s d st
  | ⟨y, there, finished, status, _⟩ => ⟨y, there, finished, status⟩

theorem EndedAs.body_eq {body : List Byte} : EndedAs s d st body → (descGet s d).map (·.body) = some body
  | ⟨_, there, _, _, body⟩ => by rw [there, Option.map_some, body]

/-- What says whose descriptor one is (R214, R153). -/
def Desc.home (x : Desc) : Nat × Option Issue := (x.ring, x.issue)

/-- A descriptor that has ended (R239). -/
def Desc.ended (x : Desc) (status : Nat) (det : Detail) : Desc :=
  { x with phase := .finished, status := status, detail := det, waitBlock := none }

/-- The end of a descriptor finishes it and no other. -/
theorem endDesc_finishes (s : State) (d st : Nat) (det : Detail) : endDesc s d st det = s ∨ ∃ (x : Desc) (st' : Nat),
    descGet s d = some x ∧
      DescsNoted (descFinished s d (x.ended st' det)) (endDesc s d st det) := by
  rcases here : descGet s d with - | x
  · exact .inl (by rw [endDesc, here])
  by_cases ended : x.phase = .finished
  · exact .inl (by simp only [endDesc, here, ended, if_true])
  simp only [endDesc, here, ended, if_false]
  generalize (if x.disturbed && !x.rejected then stDisturbed else st) = st'
  refine .inr ⟨x, st', rfl, ?_⟩
  split
  · exact .of_eq rfl
  · exact raiseErr_noted ..

theorem descGet_finished_other {y : Desc} (here : descGet s d = some x) (own : y.id = x.id) (apart : d ≠ e) :
    descGet (descFinished s d y) e = descGet s e := by
  have id := descGet_id here
  show (replaceFirst (fun x => x.id == d) (fun _ => y) s.descs).find? (fun x => x.id == e) = s.descs.find? fun x => x.id == e
  unfold descGet at here
  generalize s.descs = l at here
  induction l with
  | nil => rfl
  | cons z l ih =>
    rw [replaceFirst]
    by_cases hit : (z.id == d) = true
    · have other : (z.id == e) = false := by
        rw [beq_iff_eq] at hit
        simpa [hit] using apart
      have other' : (y.id == e) = false := by simpa [own, id] using apart
      simp [hit, other, other']
    · have later : l.find? (fun x => x.id == d) = some x := by simpa [List.find?_cons, hit] using here
      simp [List.find?_cons, hit, ih later]

theorem endDesc_elsewhere (det : Detail) (apart : d ≠ e) : NotedAt e s (endDesc s d st det) := by
  obtain same | ⟨x, st', here, noted⟩ := endDesc_finishes s d st det
  · exact .of_eq (by rw [same])
  · exact .trans (.of_eq (descGet_finished_other (y := x.ended st' det) here rfl apart)) (noted.at e)

theorem DescsNoted.homes (noted : DescsNoted s u) : u.descs.map Desc.home = s.descs.map Desc.home := by
  obtain ⟨f, same, map⟩ := noted
  rw [map, List.map_map]
  refine List.map_congr_left fun x _ => ?_
  rw [Function.comp_apply, ← congrArg Desc.home (same x)]
  rfl

theorem endDesc_homes (s : State) (d st : Nat) (det : Detail) :
    (endDesc s d st det).descs.map Desc.home = s.descs.map Desc.home := by
  obtain same | ⟨x, st', here, noted⟩ := endDesc_finishes s d st det
  · rw [same]
  · exact noted.homes.trans (map_replaceFirst (f := fun _ => x.ended st' det) here rfl)

theorem map_replaceFirst_same {α β : Type} {p : α → Bool} {f : α → α} {g : α → β} (same : ∀ x, g (f x) = g x) (l : List α) :
    (replaceFirst p f l).map g = l.map g := by
  induction l with
  | nil => rfl
  | cons x l ih =>
    rw [replaceFirst]
    split
    · rw [List.map_cons, List.map_cons, same]
    · rw [List.map_cons, List.map_cons, ih]

theorem endWait_homes (s : State) (d c st : Nat) : (endWait s d c st).descs.map Desc.home = s.descs.map Desc.home :=
  (endDesc_homes ..).trans (map_replaceFirst_same (f := fun x => { x with body := toLe 8 (counterGet s c).toNat })
    (fun _ => rfl) s.descs)

theorem endWait_elsewhere (c : Nat) (apart : d ≠ e) : NotedAt e s (endWait s d c st) := by
  refine .trans (.of_eq ?_) (endDesc_elsewhere {} apart)
  exact descGet_descUpd_other (f := fun x => { x with body := toLe 8 (counterGet s c).toNat }) apart fun _ => rfl

/-- As many descriptors of a ring are in flight as before. -/
theorem ringDescs_length (homes : u.descs.map Desc.home = s.descs.map Desc.home) (ring : Nat) :
    (ringDescs u ring).length = (ringDescs s ring).length := by
  have count (v : State) : (ringDescs v ring).length =
      ((v.descs.map Desc.home).filter fun h => h.1 == ring && h.2.isNone).length := by
    rw [List.filter_map, List.length_map]
    rfl
  rw [count, count, homes]

/-! What a DISABLE does to one descriptor. -/

/-- A descriptor that is in validation or waits under a barrier (R217). -/
def AbortStops (d : Desc) : Prop := d.phase = .fetching ∨ d.phase = .fetched ∨ (d.phase = .ready ∧ d.free = false)

/-- A WAIT that is pending (R217, R231). -/
def AbortWaits (d : Desc) : Prop :=
  dop d = 0x02 ∧ ((d.phase = .ready ∧ d.free = true) ∨ (d.phase = .running ∧ ∃ n, d.engine = .wait n))

/-- What a DISABLE of its ring does to a descriptor. -/
def disableDesc (s : State) (d : Desc) : State :=
  match d.phase with
  | .fetching | .fetched => endDesc s d.id stAborted {}
  | .ready =>
    if !d.free then endDesc s d.id stAborted {}
    else if dop d = 0x02 then endWait s d.id (waitCounter d) stAborted
    else s
  | .running => match d.engine with
    | .wait _ => endWait s d.id (waitCounter d) stAborted
    | _ => s
  | _ => s

theorem disableRing_eq (s : State) (ring : Nat) : disableRing s ring = ringSync (disableCheck
    ((ringDescs s ring).foldl disableDesc (ringUpd s ring fun r => { r with disabling := true })) ring) := rfl

theorem disableDesc_stops (stops : AbortStops x) : disableDesc s x = endDesc s x.id stAborted {} := by
  rcases stops with phase | phase | ⟨phase, free⟩
  · simp only [disableDesc, phase]
  · simp only [disableDesc, phase]
  · simp only [disableDesc, phase, free, Bool.not_false, if_true]

theorem disableDesc_waits (waits : AbortWaits x) : disableDesc s x = endWait s x.id (waitCounter x) stAborted := by
  obtain ⟨op, ⟨phase, free⟩ | ⟨phase, n, engine⟩⟩ := waits
  · simp only [disableDesc, phase, free, op, Bool.not_true, Bool.false_eq_true, if_false, if_true]
  · simp only [disableDesc, phase, engine]

/-- A descriptor that runs, or has ended, is left. -/
theorem disableDesc_lets (stops : ¬AbortStops x) (waits : ¬AbortWaits x) (other : ∀ n, x.engine ≠ .wait n) :
    disableDesc s x = s := by
  unfold disableDesc
  split
  next phase => exact absurd (.inl phase) stops
  next phase => exact absurd (.inr (.inl phase)) stops
  next phase =>
    rcases free : x.free with - | -
    · exact absurd (.inr (.inr ⟨phase, free⟩)) stops
    · by_cases op : dop x = 0x02
      · exact absurd ⟨op, .inl ⟨phase, free⟩⟩ waits
      · simp only [Bool.not_true, Bool.false_eq_true, if_false, op]
  next =>
    split
    next n engine => exact absurd engine (other n)
    next => rfl
  next => rfl

theorem disableDesc_cases (s : State) (x : Desc) : disableDesc s x = endDesc s x.id stAborted {} ∨
    disableDesc s x = endWait s x.id (waitCounter x) stAborted ∨ disableDesc s x = s := by
  unfold disableDesc
  split
  · exact .inl rfl
  · exact .inl rfl
  · split
    · exact .inl rfl
    · split
      · exact .inr (.inl rfl)
      · exact .inr (.inr rfl)
  · split
    · exact .inr (.inl rfl)
    · exact .inr (.inr rfl)
  · exact .inr (.inr rfl)

theorem disableDesc_elsewhere (apart : x.id ≠ e) : NotedAt e s (disableDesc s x) := by
  obtain same | same | same := disableDesc_cases s x
  · rw [same]
    exact endDesc_elsewhere _ apart
  · rw [same]
    exact endWait_elsewhere _ apart
  · exact .of_eq (by rw [same])

theorem disableDesc_counters (s : State) (x : Desc) : (disableDesc s x).counters = s.counters := by
  obtain same | same | same := disableDesc_cases s x
  · rw [same, endDesc_counters]
  · rw [same, endWait, endDesc_counters, descUpd_counters]
  · rw [same]

theorem disableDesc_view (s : State) (x : Desc) : (disableDesc s x).dre.view = s.dre.view := by
  obtain same | same | same := disableDesc_cases s x
  · rw [same, endDesc_view]
  · rw [same, endWait, endDesc_view, descUpd_dre]
  · rw [same]

theorem disableDesc_homes (s : State) (x : Desc) : (disableDesc s x).descs.map Desc.home = s.descs.map Desc.home := by
  obtain same | same | same := disableDesc_cases s x
  · rw [same, endDesc_homes]
  · rw [same, endWait_homes]
  · rw [same]

/-! What it does to all of a ring's. -/

theorem disableDescs_elsewhere {l : List Desc} (apart : ∀ x ∈ l, x.id ≠ e) : NotedAt e s (l.foldl disableDesc s) := by
  induction l generalizing s with
  | nil => exact .of_eq rfl
  | cons x l ih =>
    exact .trans (disableDesc_elsewhere (apart x List.mem_cons_self)) (ih fun y listed => apart y (List.mem_cons_of_mem _ listed))

/-- A descriptor of the list is met once, as it was, and is left then. -/
theorem disableDescs_met {l : List Desc} (distinct : l.Pairwise fun a b => a.id ≠ b.id) (listed : x ∈ l)
    (here : descGet s x.id = some x) : ∃ t y, descGet t x.id = some y ∧
      { y with wrote := x.wrote, clobbered := x.clobbered } = x ∧ t.counters = s.counters ∧
        NotedAt x.id (disableDesc t x) (l.foldl disableDesc s) := by
  obtain ⟨before, after, rfl⟩ := List.append_of_mem listed
  obtain ⟨-, later, earlier⟩ := List.pairwise_append.1 distinct
  obtain ⟨y, there, same⟩ := disableDescs_elsewhere (s := s) (fun z found => earlier z found x List.mem_cons_self) x here
  refine ⟨before.foldl disableDesc s, y, there, same, foldl_same (p := State.counters) disableDesc_counters .., ?_⟩
  rw [List.foldl_append, List.foldl_cons]
  exact disableDescs_elsewhere fun z found => ((List.pairwise_cons.1 later).1 z found).symm

section
variable {l : List Desc} (distinct : l.Pairwise fun a b => a.id ≠ b.id) (listed : x ∈ l) (here : descGet s x.id = some x)
include distinct listed here

theorem disableDescs_stops (calm : x.disturbed = false) (stops : AbortStops x) :
    EndedWith (l.foldl disableDesc s) x.id stAborted := by
  obtain ⟨t, y, there, same, -, noted⟩ := disableDescs_met distinct listed here
  have phase : y.phase = x.phase := by rw [← same]
  have calm' : y.disturbed = false := by rw [← calm, ← same]
  have going : y.phase ≠ .finished := by
    rw [phase]
    rcases stops with phase | phase | ⟨phase, -⟩ <;> rw [phase] <;> decide
  rw [disableDesc_stops stops] at noted
  exact (noted.endedAs (endDesc_ends there going calm').2).endedWith

theorem disableDescs_waits (calm : x.disturbed = false) (waits : AbortWaits x) :
    EndedAs (l.foldl disableDesc s) x.id stAborted (toLe 8 (counterGet s (waitCounter x)).toNat) := by
  obtain ⟨t, y, there, same, counters, noted⟩ := disableDescs_met distinct listed here
  have phase : y.phase = x.phase := by rw [← same]
  have calm' : y.disturbed = false := by rw [← calm, ← same]
  have going : y.phase ≠ .finished := by
    rw [phase]
    rcases waits with ⟨-, ⟨phase, -⟩ | ⟨phase, -⟩⟩ <;> rw [phase] <;> decide
  rw [disableDesc_waits waits] at noted
  have id := descGet_id there
  have told := descGet_descUpd (f := fun x' => { x' with body := toLe 8 (counterGet t (waitCounter x)).toNat }) there id
  have ended := noted.endedAs (endDesc_ends told going calm').2
  rwa [counterGet, counters] at ended

theorem disableDescs_lets (stops : ¬AbortStops x) (waits : ¬AbortWaits x) (other : ∀ n, x.engine ≠ .wait n) :
    (descGet (l.foldl disableDesc s) x.id).map (fun y => (y.phase, y.bytes)) = some (x.phase, x.bytes) := by
  obtain ⟨t, y, there, same, -, noted⟩ := disableDescs_met distinct listed here
  rw [disableDesc_lets stops waits other] at noted
  obtain ⟨z, last, same'⟩ := noted y there
  rw [last, ← same, ← same']
  rfl

end

/-! The rings in use. -/

/-- The numbers of the rings in use. -/
def ringIds (s : State) : List Nat := s.dre.rings.map (·.ring)

theorem ringIds_of_rings (same : u.dre.view.2 = s.dre.view.2) : ringIds u = ringIds s := by
  have ids (v : State) : ringIds v = v.dre.view.2.map (·.1) := by
    simp only [ringIds, Dre.view, List.map_map]
    rfl
  rw [ids, ids, same]

theorem ringGet_none_iff {n : Nat} : ringGet s n = none ↔ n ∉ ringIds s := by
  simp only [ringGet, ringIds, List.find?_eq_none, List.mem_map, beq_iff_eq, not_exists, not_and]

theorem ringSync_view (s : State) : (ringSync s).dre.view = s.dre.view := by
  simp only [Dre.view, ringSync, List.map_map]
  congr 1
  refine List.map_congr_left fun r _ => ?_
  simp only [Function.comp_apply]
  split <;> rfl

theorem map_dropFirst {n : Nat} (l : List Ring) :
    (dropFirst (fun x => x.ring == n) l).map (·.ring) = (l.map (·.ring)).erase n := by
  induction l with
  | nil => rfl
  | cons x l ih =>
    rw [dropFirst, List.map_cons, List.erase_cons]
    split
    · rfl
    · rw [List.map_cons, ih]

/-- The ring under DISABLE. -/
def ringDisabling (s : State) (ring : Nat) : State := ringUpd (ringBegun s 2 ring) ring fun r => { r with disabling := true }

theorem ringGet_ringDisabling (here : ringGet s ring = some r) :
    ringGet (ringDisabling s ring) ring = some { r with disabling := true } := by
  have own := ringGet_ring here
  exact ringGet_ringUpd (f := fun r => { r with disabling := true }) here own

theorem ringIds_ringDisabling (here : ringGet s ring = some r) : ringIds (ringDisabling s ring) = ringIds s :=
  map_replaceFirst (f := fun r : Ring => { r with disabling := true }) here rfl

/-- A ring with nothing in flight is DISABLED at once. -/
theorem disableRing_idle (here : ringGet s ring = some r) (distinct : (ringIds s).Nodup) (none' : ringDescs s ring = []) :
    ringGet (disableRing (ringBegun s 2 ring) ring) ring = none := by
  have none'' : ringDescs (ringBegun s 2 ring) ring = [] := none'
  have there := ringGet_ringDisabling here
  have empty : ringDescs (ringDisabling s ring) ring = [] := none'
  rw [disableRing_eq, none'', List.foldl_nil, ringGet_none_iff, ringIds_of_rings (congrArg Prod.snd (ringSync_view _))]
  show ring ∉ ringIds (disableCheck (ringDisabling s ring) ring)
  simp only [disableCheck, there, empty, List.isEmpty_nil, Bool.and_self, if_true]
  rw [ringIds, map_dropFirst]
  have ids := (ringIds_of_rings (contextBack_rings (ringDisabling s ring) { r with disabling := true } 0)).trans
    (ringIds_ringDisabling here)
  rw [ringIds] at ids
  rw [ids]
  exact distinct.not_mem_erase

theorem ringGet_view {n : Nat} : (ringGet s n).map (fun r => (r.ring, r.disabling)) = s.dre.view.2.find? fun p => p.1 == n := by
  rw [Dre.view, List.find?_map]
  rfl

/-- A ring with descriptors in flight stays under DISABLE. -/
theorem disableRing_busy (here : ringGet s ring = some r) (some' : ringDescs s ring ≠ []) :
    let u := (ringDescs s ring).foldl disableDesc (ringDisabling s ring)
    disableRing (ringBegun s 2 ring) ring = ringSync u ∧ u.dre.cmd = some (2, ring) ∧
      ∃ r', ringGet u ring = some r' ∧ r'.disabling = true := by
  have view : ((ringDescs s ring).foldl disableDesc (ringDisabling s ring)).dre.view = (ringDisabling s ring).dre.view :=
    foldl_same (p := fun s : State => s.dre.view) disableDesc_view ..
  have homes : ((ringDescs s ring).foldl disableDesc (ringDisabling s ring)).descs.map Desc.home = s.descs.map Desc.home :=
    foldl_same (p := fun s : State => s.descs.map Desc.home) disableDesc_homes ..
  intro u
  have busy : (ringDescs u ring).isEmpty = false := by
    rw [List.isEmpty_eq_false_iff, ← List.length_pos_iff, ringDescs_length homes]
    exact List.length_pos_iff.2 some'
  have found : (ringGet u ring).map (fun r => (r.ring, r.disabling)) = some (r.ring, true) := by
    rw [ringGet_view, view, ← ringGet_view, ringGet_ringDisabling here]
    rfl
  obtain ⟨r', there, same⟩ := Option.map_eq_some_iff.1 found
  have check : disableCheck u ring = u := by
    simp only [disableCheck, there, busy, Bool.and_false, Bool.false_eq_true, if_false]
  refine ⟨?_, congrArg Prod.fst view, r', there, congrArg Prod.snd same⟩
  exact (disableRing_eq ..).trans (congrArg ringSync check)

end Sys2Proof.Machine
end

section
/-! FLUSH of a ring whose entries stand in the own scratchpad: the context is written back and the ring left as it is
(R215 to R217). -/
namespace Sys2Proof.Machine

variable {s t u : State} {n ring addr len state : Nat} {bs : List Byte} {r : Ring}

/-! One write-back. -/

/-- A write of DRE's own to an entry (R215). -/
def backAccess (s : State) (ring addr : Nat) (bs : List Byte) : Access :=
  { kind := .write, addr := addr, len := bs.length, data := bs, steward := true, src := ownId s, who := .context ring }

/-- The state in which the answer to a write-back has come. -/
def backAnswered (s : State) (ring : Nat) : State :=
  contextDone { s with dre := { s.dre with ctxLeft := s.dre.ctxLeft - 1 } } ring

/-- A plain access within 64 bytes of the scratchpad lies in one page (R168). -/
theorem mapRefusal_entry {a : Access} (kind : a.kind = .write) (some' : 0 < a.len) (fits : inSpm s (offsetOf a.addr) a.len = true)
    (short : offsetOf a.addr % 64 + a.len ≤ 64) : mapRefusal s a = none := by
  have page : (decide (a.len > 4096) || offsetOf a.addr / 4096 != (offsetOf a.addr + a.len - 1) / 4096) = false := by
    rw [Bool.or_eq_false_iff, decide_eq_false_iff_not, bne_eq_false_iff_eq]
    omega
  simp only [mapRefusal, fits, some', decide_true, Bool.and_self, if_true, page, Bool.false_eq_true, if_false, kind]
  rfl

/-- A write-back to a place of the own scratchpad that takes it at once. -/
theorem entryBack_own (open' : OwnOpen s addr bs.length) (calm : s.inject = none) (short : offsetOf addr % 64 + bs.length ≤ 64) :
    entryBack s false (.context ring) addr bs = backAnswered (spmWrite s none (offsetOf addr) bs) ring := by
  show unitWrite s none (backAccess s ring addr bs) = _
  have mapped : mapRefusal s (backAccess s ring addr bs) = none := mapRefusal_entry rfl open'.some open'.fits short
  have allowed : spmRefusal s (backAccess s ring addr bs) = none :=
    spmRefusal_none rfl (.inr (by rw [heldOver]; exact open'.unbacked ▸ rfl)) rfl open'.unordered
  have wait : refetchWait s (backAccess s ring addr bs) = none := (refetchWait_settled rfl (show AccKind.write ≠ .read by decide)).trans open'.settled
  have store : storeRuns s none (backAccess s ring addr bs) [(offsetOf addr, bs)] none [] =
      (spmWrite s none (offsetOf addr) bs, true) := by
    have one : storeOne none (backAccess s ring addr bs) s (offsetOf addr, bs) = spmWrite s none (offsetOf addr) bs := by
      rw [storeOne, wakeBanks_awake open'.quiet.awake]
      rfl
    rw [storeRuns_eq, List.foldl_cons, List.foldl_nil, one]
    refine writeThrough_unbacked fun x listed => ?_
    rw [List.mem_singleton.1 listed, backOver_write calm]
    exact open'.unbacked
  have done : spmAccess s none (backAccess s ring addr bs) false = (spmWrite s none (offsetOf addr) bs, .done []) :=
    (spmAccess_write rfl rfl wait (blockingWord_good rfl open'.good) rfl).trans (spmCommit_unbacked store)
  have own : isOwn s (backAccess s ring addr bs).addr = true := open'.own
  simp only [unitWrite, own, if_true, mapped]
  exact (serveNow_quiet rfl open'.quiet).trans (spmServe_done allowed done)

theorem backAnswered_eq (left : t.dre.ctxLeft = n + 1) (fail : t.dre.ctxFail = none) (lost : t.dre.ctxLost = []) :
    backAnswered t ring = { t with dre := { t.dre with ctxLeft := n, cmd := if n = 0 then none else t.dre.cmd } } := by
  rcases n with - | n
  · simp only [backAnswered, contextDone, left, fail, lost, Nat.add_sub_cancel, bne_self_eq_false, Bool.false_eq_true, if_false,
      if_true, List.foldl_nil]
  · simp [backAnswered, contextDone, left]

/-! A run of them. -/

/-- A state reached from another by write-backs, of which some are still to be answered. -/
structure Flushing (s u : State) (left : Nat) : Prop where
  kept : RingKept s u
  wf : mapWf (spmDefault u.spmLost) u.spm = true
  calm : u.inject = none
  rings : u.dre.rings = s.dre.rings
  cqs : u.dre.cqs = s.dre.cqs
  owed : u.dre.ctxLeft = left
  fail : u.dre.ctxFail = none
  lost : u.dre.ctxLost = []
  done : left = 0 → u.dre.cmd = none

/-- The bytes outside of a range are those of another state. -/
def SameOutside (s u : State) (off len : Nat) : Prop := ∀ x, x < off ∨ off + len ≤ x → spmByte u x = spmByte s x

theorem SameOutside.bytes {off len o l : Nat} (same : SameOutside s u off len) (apart : o + l ≤ off ∨ off + len ≤ o) :
    spmBytes u o l = spmBytes s o l := by
  refine List.map_congr_left fun i inside => same _ ?_
  rw [List.mem_range] at inside
  omega

/-- One write-back more is answered. -/
theorem Flushing.entryBack (f : Flushing s u (n + 1)) (size : bs.length = len) (open' : OwnOpen s addr len)
    (short : offsetOf addr % 64 + len ≤ 64) :
    Flushing s (entryBack u false (.context ring) addr bs) n ∧
      spmBytes (entryBack u false (.context ring) addr bs) (offsetOf addr) len = bs ∧
        SameOutside u (Machine.entryBack u false (.context ring) addr bs) (offsetOf addr) len := by
  subst size
  have plain := spmWrite_plain (owner := none) (off := offsetOf addr) (bs := bs) f.calm
  have back : Machine.entryBack u false (.context ring) addr bs = _ := (entryBack_own (f.kept.ownOpen open') f.calm short).trans
    (backAnswered_eq (n := n) (by rw [plain]; exact f.owed) (by rw [plain]; exact f.fail) (by rw [plain]; exact f.lost))
  rw [back]
  refine ⟨⟨f.kept.trans ?_, ?_, ?_, ?_, ?_, rfl, ?_, ?_, fun none' => if_pos none'⟩, spmBytes_spmWrite (owner := none) f.wf f.calm, ?_⟩
  · rw [plain]
    exact ⟨fun _ _ _ => rfl, rfl, rfl, rfl, rfl, fun _ => List.mem_of_mem_filter⟩
  · rw [plain]
    exact mapSetAll_wf f.wf
  · rw [plain]
    exact f.calm
  · rw [plain]
    exact f.rings
  · rw [plain]
    exact f.cqs
  · rw [plain]
    exact f.fail
  · rw [plain]
    exact f.lost
  · intro x apart
    rw [plain]
    exact mapGet_setAll_other apart

/-! A context and its completion ring's entry. -/

theorem baseAddr_aligned {v k : Nat} (low : k ∣ 2 ^ 40) (aligned : k ∣ v) : k ∣ baseAddr s v := by
  unfold baseAddr
  split
  · exact aligned
  · exact Nat.dvd_add (low.mul_left _) aligned

theorem ctxAddr_aligned (s : State) (ring : Nat) : ctxAddr s ring % 64 = 0 :=
  Nat.mod_eq_zero_of_dvd (Nat.dvd_add (baseAddr_aligned (by decide) (Nat.dvd_mul_left ..)) (Nat.dvd_mul_right ..))

theorem cqAddr_aligned (s : State) (q : Nat) : cqAddr s q % 16 = 0 :=
  Nat.mod_eq_zero_of_dvd (Nat.dvd_add (baseAddr_aligned (by decide) (Nat.dvd_mul_left ..)) (Nat.dvd_mul_right ..))

/-- A place within an aligned entry. -/
theorem offsetOf_entry {a i : Nat} (aligned : a % 64 = 0) (inside : i < 64) :
    offsetOf (a + i) = offsetOf a + i ∧ offsetOf a % 64 = 0 := by
  simp only [offsetOf]
  omega

/-- A ring's three fields are written back. -/
theorem Flushing.ringBack (f : Flushing s u (n + 3)) (plain : r.overwritten = false) (index : OwnOpen s (ctxAddr s r.ring + 20) 8)
    (status : OwnOpen s (ctxAddr s r.ring + 40) 1) (halt : OwnOpen s (ctxAddr s r.ring + 42) 6) :
    let v := Machine.ringBack u r state (.context r.ring)
    let a := ctxAddr s r.ring
    Flushing s v n ∧ spmBytes v (offsetOf (a + 20)) 8 = toLe 2 r.head ++ toLe 2 r.tail ++ toLe 4 r.seq ∧
      spmBytes v (offsetOf (a + 40)) 1 = toLe 1 state ∧
      spmBytes v (offsetOf (a + 42)) 6 = toLe 2 r.haltStatus ++ toLe 4 r.haltSeq := by
  have aligned := ctxAddr_aligned s r.ring
  obtain ⟨at20, base⟩ := offsetOf_entry (i := 20) aligned (by decide)
  obtain ⟨at40, -⟩ := offsetOf_entry (i := 40) aligned (by decide)
  obtain ⟨at42, -⟩ := offsetOf_entry (i := 42) aligned (by decide)
  obtain ⟨f1, bytes1, -⟩ := f.entryBack (ring := r.ring) (bs := toLe 2 r.head ++ toLe 2 r.tail ++ toLe 4 r.seq) (len := 8) rfl index
    (by omega)
  obtain ⟨f2, bytes2, same2⟩ := f1.entryBack (ring := r.ring) (bs := toLe 1 state) (len := 1) rfl status (by omega)
  obtain ⟨f3, bytes3, same3⟩ := f2.entryBack (ring := r.ring) (bs := toLe 2 r.haltStatus ++ toLe 4 r.haltSeq) (len := 6) rfl halt
    (by omega)
  simp only [Machine.ringBack, plain, f.kept.ctxAddr_eq]
  exact ⟨f3, ((same3.bytes (by omega)).trans (same2.bytes (by omega))).trans bytes1, (same3.bytes (by omega)).trans bytes2, bytes3⟩

/-- One answer comes for each field of entries in the own scratchpad. -/
theorem backAnswers_own (index : isChip (ctxAddr s r.ring + 20) = false) (status : isChip (ctxAddr s r.ring + 40) = false)
    (halt : isChip (ctxAddr s r.ring + 42) = false)
    (cq : ∀ q, s.dre.cqs.find? (fun c => c.cq == r.cq) = some q → isChip (cqAddr s r.cq + 10) = false) :
    backAnswers s r = (if (s.dre.cqs.find? fun c => c.cq == r.cq).isSome then 1 else 0) + 3 := by
  rcases found : s.dre.cqs.find? (fun c => c.cq == r.cq) with - | q
  · have none' : s.dre.cqs.any (fun c => c.cq == r.cq) = false := by
      rw [List.find?_eq_none] at found
      exact List.any_eq_false.2 found
    simp only [backAnswers, index, status, halt, none', found, Bool.false_eq_true, if_false, Option.isSome_none]
  · have some' : s.dre.cqs.any (fun c => c.cq == r.cq) = true :=
      List.any_eq_true.2 ⟨q, List.mem_of_find?_eq_some found, List.find?_some (p := fun c : Cq => c.cq == r.cq) found⟩
    simp only [backAnswers, index, status, halt, some', found, cq q found, Bool.false_eq_true, if_false, if_true, Option.isSome_some]

/-- The state in which a FLUSH awaits its answers. -/
def flushBegun (s : State) (ring n : Nat) : State :=
  { ringBegun s 4 ring with dre := { (ringBegun s 4 ring).dre with ctxLeft := n } }

theorem flushBegun_flushing (canon : Canon s) (calm : s.inject = none) (some' : n ≠ 0) : Flushing s (flushBegun s ring n) n :=
  ⟨ringBegun_kept.trans ⟨fun _ _ _ => rfl, rfl, rfl, rfl, rfl, fun _ => id⟩, canon.spm, calm, rfl, rfl, rfl, rfl, rfl,
    fun none' => absurd none' some'⟩

/-- The entry of the completion ring is written back after the context, where the ring has one in use. -/
theorem contextBack_eq (answers : backAnswers (ringBegun s 4 ring) r = n) : contextBack (ringBegun s 4 ring) r r.state =
    match (ringBack (flushBegun s ring n) r r.state (.context r.ring)).dre.cqs.find? (fun c => c.cq == r.cq) with
    | some q => cqBack (ringBack (flushBegun s ring n) r r.state (.context r.ring)) q (.context r.ring)
    | none => ringBack (flushBegun s ring n) r r.state (.context r.ring) := by
  have sum : (ringBegun s 4 ring).dre.ctxLeft + backAnswers (ringBegun s 4 ring) r = n := (Nat.zero_add _).trans answers
  simp only [contextBack, sum]
  rfl

/-- What a FLUSH leaves of a ring whose entry, and whose completion ring's, take their fields at once. -/
theorem contextBack_flushed (canon : Canon s) (calm : s.inject = none) (plain : r.overwritten = false)
    (index : OwnOpen s (ctxAddr s r.ring + 20) 8) (status : OwnOpen s (ctxAddr s r.ring + 40) 1)
    (halt : OwnOpen s (ctxAddr s r.ring + 42) 6)
    (cq : ∀ q, s.dre.cqs.find? (fun c => c.cq == r.cq) = some q → q.overwritten = false ∧ OwnOpen s (cqAddr s r.cq + 10) 2 ∧
      overlap (offsetOf (cqAddr s r.cq + 10)) 2 (offsetOf (ctxAddr s r.ring)) 64 = false) :
    let u := contextBack (ringBegun s 4 ring) r r.state
    let a := ctxAddr s r.ring
    Flushing s u 0 ∧ spmBytes u (offsetOf (a + 20)) 8 = toLe 2 r.head ++ toLe 2 r.tail ++ toLe 4 r.seq ∧
      spmBytes u (offsetOf (a + 40)) 1 = toLe 1 r.state ∧
      spmBytes u (offsetOf (a + 42)) 6 = toLe 2 r.haltStatus ++ toLe 4 r.haltSeq ∧
      ∀ q, s.dre.cqs.find? (fun c => c.cq == r.cq) = some q → spmBytes u (offsetOf (cqAddr s r.cq + 10)) 2 = toLe 2 q.widx := by
  have kept := ringBegun_kept (s := s) (cmd := 4) (ring := ring)
  have answers : backAnswers (ringBegun s 4 ring) r = (if (s.dre.cqs.find? fun c => c.cq == r.cq).isSome then 1 else 0) + 3 :=
    backAnswers_own (by rw [kept.ctxAddr_eq]; exact own_notChip index.own) (by rw [kept.ctxAddr_eq]; exact own_notChip status.own)
      (by rw [kept.ctxAddr_eq]; exact own_notChip halt.own) fun q found => by
        rw [kept.cqAddr_eq]
        exact own_notChip (cq q found).2.1.own
  obtain ⟨flushed, bytes1, bytes2, bytes3⟩ := (flushBegun_flushing (ring := ring) canon calm (Nat.succ_ne_zero _)).ringBack
    (state := r.state) plain index status halt
  rw [contextBack_eq answers, flushed.cqs]
  generalize ringBack _ r r.state (.context r.ring) = v at *
  rcases found : s.dre.cqs.find? (fun c => c.cq == r.cq) with - | q
  · rw [found] at flushed ⊢
    exact ⟨flushed, bytes1, bytes2, bytes3, fun _ other => absurd other (by simp)⟩
  · rw [found] at flushed ⊢
    obtain ⟨plain', place, apart⟩ := cq q found
    have own : q.cq = r.cq := by simpa using List.find?_some found
    obtain ⟨at20, base⟩ := offsetOf_entry (i := 20) (ctxAddr_aligned s r.ring) (by decide)
    obtain ⟨at40, -⟩ := offsetOf_entry (i := 40) (ctxAddr_aligned s r.ring) (by decide)
    obtain ⟨at42, -⟩ := offsetOf_entry (i := 42) (ctxAddr_aligned s r.ring) (by decide)
    have short : offsetOf (cqAddr s r.cq + 10) % 64 + 2 ≤ 64 := by
      have aligned := cqAddr_aligned s r.cq
      simp only [offsetOf]
      omega
    have outside : offsetOf (ctxAddr s r.ring) + 64 ≤ offsetOf (cqAddr s r.cq + 10) ∨
        offsetOf (cqAddr s r.cq + 10) + 2 ≤ offsetOf (ctxAddr s r.ring) := by
      simp only [overlap, Bool.and_eq_false_iff, decide_eq_false_iff_not] at apart
      omega
    obtain ⟨ended, bytes4, same⟩ := flushed.entryBack (ring := r.ring) (bs := toLe 2 q.widx) (len := 2) rfl place short
    simp only [cqBack, plain', own, flushed.kept.cqAddr_eq]
    exact ⟨ended, (same.bytes (by omega)).trans bytes1, (same.bytes (by omega)).trans bytes2, (same.bytes (by omega)).trans bytes3,
      fun q' found' => by rw [← Option.some.inj found']; exact bytes4⟩

end Sys2Proof.Machine
end

section
/-! The ring commands of a privileged master (R217, R242). -/
namespace Sys2Proof.Machine

variable {s : State} {m : Master} {c : Instr} {cmd ring reason : Nat} {r : Ring}

/-! How a command begins, and how it is refused. -/

section
variable (admits : Admits s m .write 0x300030) (priv : masterPriv s m = true) (idle : s.dre.cmd = none) (low : ring < 2 ^ 18)
include admits priv idle low

theorem exec_ringEnable_begins : exec (.ringEnable m ring) s = .next (ringCmd (ringTold s 1 ring) 1 ring) :=
  (exec_ringEnable idle).trans (congrArg _ (ringWrite_taken admits priv idle low (by decide)))

theorem exec_ringDisable_begins : exec (.ringDisable m ring) s = .next (ringCmd (ringTold s 2 ring) 2 ring) :=
  congrArg Host.Outcome.next (ringWrite_taken admits priv idle low (by decide))

theorem exec_ringResume_begins : exec (.ringResume m ring) s = .next (ringCmd (ringTold s 3 ring) 3 ring) :=
  congrArg Host.Outcome.next (ringWrite_taken admits priv idle low (by decide))

theorem exec_ringFlush_begins : exec (.ringFlush m ring) s = .next (ringCmd (ringTold s 4 ring) 4 ring) :=
  congrArg Host.Outcome.next (ringWrite_taken admits priv idle low (by decide))

end

/-- A command is refused with its reason, and no ring changes (R242). -/
def RingRefused (s : State) (c : Instr) (reason : Nat) : Prop :=
  ∃ u, exec c s = .next u ∧ regGet u 0x300034 = 2 + 4 * reason ∧ u.dre.rings = s.dre.rings ∧ u.dre.cmd = none

theorem ringRefused_of {t : State} (canon : Canon t) (small : reason < 8) (rings : t.dre.rings = s.dre.rings)
    (run : exec c s = .next (ringRefuse t reason)) : RingRefused s c reason := by
  obtain ⟨word, same, done⟩ := ringRefuse_told canon small
  exact ⟨_, run, word, same.trans rings, done⟩

/-! ENABLE of a DISABLED ring. -/

/-- The completion ring that a context names (R215). -/
def ctxCq (ctx : List Byte) : Nat := bitsOf 11 0 (fieldAt ctx 16 2)

/-- A ring is ACTIVE at the place where its context was saved, with its completion ring in use (R215, R217). -/
def RingEnabled (u : State) (ring : Nat) (ctx : List Byte) : Prop :=
  ∃ r, regGet u 0x300034 = 0 ∧ u.dre.cmd = none ∧ ringGet u ring = some r ∧ r.state = 1 ∧ r.haltStatus = 0 ∧
    r.base = fieldAt ctx 0 8 ∧ r.head = fieldAt ctx 20 2 ∧ r.fetch = fieldAt ctx 20 2 ∧ r.tail = fieldAt ctx 22 2 ∧
    r.seq = fieldAt ctx 24 4 ∧ r.acting = fieldAt ctx 12 4 % 2 ^ 19 ∧ r.cached = true ∧
    u.dre.cqs.any (fun c => c.cq == ctxCq ctx) = true

section
variable {ctx cqe : List Byte} (context : OwnGood s (ctxAddr s ring) 64)
  (read : spmBytes s (offsetOf (ctxAddr s ring)) 64 = ctx) (cq : OwnGood s (cqAddr s (ctxCq ctx)) 16)
  (read' : spmBytes s (offsetOf (cqAddr s (ctxCq ctx))) 16 = cqe)
include context read cq read'

/-- The entries of a ring that is to be enabled are read as they stand. -/
theorem enableStep_read : OwnGood (ringBegun s 1 ring) (ctxAddr (ringBegun s 1 ring) ring) 64 ∧
    spmBytes (ringBegun s 1 ring) (offsetOf (ctxAddr (ringBegun s 1 ring) ring)) 64 = ctx ∧
    OwnGood (ringBegun s 1 ring) (cqAddr (ringBegun s 1 ring) (ctxCq ctx)) 16 ∧
    spmBytes (ringBegun s 1 ring) (offsetOf (cqAddr (ringBegun s 1 ring) (ctxCq ctx))) 16 = cqe := by
  have kept := ringBegun_kept (s := s) (cmd := 1) (ring := ring)
  rw [kept.ctxAddr_eq, kept.cqAddr_eq]
  exact ⟨kept.ownGood context, read, kept.ownGood cq, read'⟩

variable (canon : Canon s)
include canon

theorem enableStep_bad (bad : contextOk s ctx cqe = false) : ∃ t, Canon t ∧ t.dre.rings = s.dre.rings ∧
    enableStep (ringBegun s 1 ring) ring = ringRefuse t 2 := by
  obtain ⟨context', bytes, cq', bytes'⟩ := enableStep_read context read cq read'
  exact ⟨_, (gatherDrop_keeps (Keeps.refl _)).canon (ringBegun_canon canon), rfl,
    enableStep_refuses context' bytes cq' bytes' ((ringBegun_kept.contextOk_eq ..).trans bad)⟩

theorem enableStep_enabled (none' : ringGet s ring = none) (ok : contextOk s ctx cqe = true) (room : cacheUsed s + 2 ≤ 4096) :
    RingEnabled (enableStep (ringBegun s 1 ring) ring) ring ctx := by
  obtain ⟨context', bytes, cq', bytes'⟩ := enableStep_read context read cq read'
  have step := enableStep_joins context' bytes cq' bytes' ((ringBegun_kept.contextOk_eq ..).trans ok) room
  obtain ⟨-, rings, listed⟩ := cqTaken_room (s := gatherDrop (ringBegun s 1 ring) (ringOwner ring)) (cqOf (ctxCq ctx) cqe) room
  have canon' : Canon (cqTaken (gatherDrop (ringBegun s 1 ring) (ringOwner ring)) (cqOf (ctxCq ctx) cqe)) :=
    (cqTaken_keeps _).canon ((gatherDrop_keeps (Keeps.refl _)).canon (ringBegun_canon canon))
  have absent : ringGet (cqTaken (gatherDrop (ringBegun s 1 ring) (ringOwner ring)) (cqOf (ctxCq ctx) cqe)) (ringOf ring ctx).ring =
      none := by
    rw [ringGet, rings]
    exact none'
  obtain ⟨t, word, done, joined⟩ := ringJoined_enabled canon' absent
  rw [step]
  exact ⟨_, word, done, joined, rfl, rfl, rfl, rfl, rfl, rfl, rfl, bitsOf_low .., rfl, listed⟩

end

/-! RESUME of a HALTED ring. -/

theorem ringResumed_active (here : ringGet s ring = some r) : ∃ r', ringGet (ringSync (ringResumed s ring)) ring = some r' ∧
    r'.state = 1 ∧ r'.haltStatus = 0 ∧ r'.haltSeq = 0 ∧ r'.head = r.head ∧ r'.tail = r.tail := by
  have own := ringGet_ring here
  have active : ringGet (ringResumed s ring) ring = some { r with state := 1, haltStatus := 0, haltSeq := 0 } :=
    ringGet_ringUpd (s := ringBegun s 3 ring) (f := fun r => { r with state := 1, haltStatus := 0, haltSeq := 0 }) here own
  obtain ⟨t, synced⟩ := ringGet_ringSync active
  exact ⟨_, synced, rfl, rfl, rfl, rfl, rfl⟩

/-! DISABLE of a ring with descriptors in flight. -/

section
variable {x : Desc} (distinct : s.descs.Pairwise fun a b => a.id ≠ b.id)
include distinct

theorem ringDescs_distinct (ring : Nat) : (ringDescs s ring).Pairwise fun a b => a.id ≠ b.id := distinct.filter _

theorem descGet_of_mem (listed : x ∈ s.descs) : descGet s x.id = some x := by
  unfold descGet
  generalize s.descs = l at distinct listed
  induction l with
  | nil => cases listed
  | cons y l ih =>
    obtain ⟨apart, rest⟩ := List.pairwise_cons.1 distinct
    rcases List.mem_cons.1 listed with rfl | later
    · simp
    · simpa [apart x later] using ih rest later

end

/-- Settles O30: each command by the checks that refuse it, and else by what it does. -/
theorem ringCommands : Obligations.RingCommands := by
  unfold Obligations.RingCommands
  intro s m ring canon admits priv acts idle low refuses ctx cq cqe
  have enable := exec_ringEnable_begins admits priv idle low
  have disable := exec_ringDisable_begins admits priv idle low
  have resume := exec_ringResume_begins admits priv idle low
  have flush := exec_ringFlush_begins admits priv idle low
  have refused {c : Instr} {cmd reason : Nat} (small : reason < 8)
      (run : exec c s = .next (ringRefuse (ringTold s cmd ring) reason)) : refuses c reason :=
    ringRefused_of (ringTold_canon canon) small rfl run
  refine ⟨fun absent => ?_, fun known => ⟨fun r here => ?_, fun none' => ?_, fun r here distinct => ?_⟩⟩
  · exact ⟨refused (by decide) (enable.trans (congrArg _ (ringCmd_absent idle (by decide) absent))),
      refused (by decide) (disable.trans (congrArg _ (ringCmd_absent idle (by decide) absent))),
      refused (by decide) (resume.trans (congrArg _ (ringCmd_absent idle (by decide) absent))),
      refused (by decide) (flush.trans (congrArg _ (ringCmd_absent idle (by decide) absent)))⟩
  · exact refused (by decide) (enable.trans (congrArg _ (ringCmd_enabled idle known here)))
  · obtain ⟨noDisable, noResume⟩ := ringCmd_disabled idle known none'
    rw [ringCmd_enable idle known none'] at enable
    refine ⟨refused (by decide) (disable.trans (congrArg _ noDisable)), refused (by decide) (resume.trans (congrArg _ noResume)),
      fun context entry => ⟨fun bad => ?_, fun ok room => ?_⟩⟩
    · obtain ⟨t, canon', rings, step⟩ := enableStep_bad context rfl entry rfl canon bad
      exact ringRefused_of canon' (by decide) rings (enable.trans (congrArg _ step))
    · obtain ⟨r, word, done, found, rest⟩ := enableStep_enabled context rfl entry rfl canon none' ok room
      exact ⟨_, r, enable, word, done, found, rest⟩
  · rw [ringCmd_disable idle known here] at disable
    rw [ringCmd_flush idle known here] at flush
    have own := ringGet_ring here
    refine ⟨fun going => refused (by decide) (resume.trans (congrArg _ (ringCmd_unhalted idle known here going))), fun halted => ?_,
      fun empty => ⟨_, disable, disableRing_idle here (List.pairwise_map.2 distinct) empty⟩, fun busy ids calm => ?_,
      ?_⟩
    · obtain ⟨r', found, fields⟩ := ringResumed_active here
      exact ⟨_, r', resume.trans (congrArg _ (ringCmd_resume idle known here halted)), found, fields⟩
    · obtain ⟨step, pending, r', found, disabling⟩ := disableRing_busy here busy
      obtain ⟨t, synced⟩ := ringGet_ringSync found
      refine ⟨_, _, disable.trans (congrArg _ step), synced, disabling, pending, fun d listed => ?_⟩
      have inFlight : d ∈ s.descs := (List.mem_filter.1 listed).1
      have there : descGet (ringDisabling s ring) d.id = some d := descGet_of_mem ids inFlight
      have apart := ringDescs_distinct ids ring
      refine ⟨fun stops => disableDescs_stops apart listed there (calm d inFlight) stops, fun waits => ?_,
        fun stops waits other => disableDescs_lets apart listed there stops waits other⟩
      have ended := disableDescs_waits apart listed there (calm d inFlight) waits
      refine ⟨ended.endedWith, ?_⟩
      rw [waitCounter_eq] at ended
      exact ended.body_eq
    · intro a b index status halt plain calm entry
      subst own
      obtain ⟨done, bytes⟩ := contextBack_flushed canon calm plain index status halt entry
      exact ⟨_, flush, done.rings, done.done rfl, bytes⟩

end Sys2Proof.Machine
end

section
/-! The LOAD and UNLOAD commands of collective groups: what the write of CLE_GRP_CMD leaves of the state that a LOAD reads
and checks, and what each command comes to (R246, R247, R267). -/
namespace Sys2Proof.Machine

/-! What the checks of a group entry depend on. -/

/-- A state with the same registers but for CLE_GRP_CMD, and the same member of the family. -/
structure GroupChecksKept (s u : State) : Prop where
  regs : ∀ o, o ≠ 0xA00020 → regGet u o = regGet s o
  par : u.par = s.par

section
variable {s u : State} (h : GroupChecksKept s u)
include h

theorem GroupChecksKept.regBits_eq {o : Nat} (apart : o ≠ 0xA00020) (hi lo : Nat) : regBits u o hi lo = regBits s o hi lo := by
  rw [regBits, regBits, h.regs o apart]

theorem GroupChecksKept.regPair_eq {o : Nat} (apart : o + 4 < 0xA00020 ∨ 0xA00020 < o) : regPair u o = regPair s o := by
  rw [regPair, regPair, h.regs o (by omega), h.regs (o + 4) (by omega)]

theorem GroupChecksKept.ownId_eq : ownId u = ownId s := h.regBits_eq (by decide) 18 0

theorem GroupChecksKept.isOwn_eq (a : Nat) : isOwn u a = isOwn s a := by rw [isOwn, isOwn, h.ownId_eq]

theorem GroupChecksKept.grpAddr_eq (g : Nat) : grpAddr u g = grpAddr s g := by
  simp only [grpAddr, baseAddr, ownAddr, h.ownId_eq, h.regPair_eq (o := 0xA00010) (.inl (by decide))]

theorem GroupChecksKept.inNear_eq (off len : Nat) : inNear u off len = inNear s off len := by
  rw [inNear, inNear, nearSize, nearSize, h.par]

theorem GroupChecksKept.inSpm_eq (off len : Nat) : inSpm u off len = inSpm s off len := by
  rw [inSpm, inSpm, h.inNear_eq, inDeep, inDeep, deepSize, deepSize, h.par]

/-- The registers of the ordered regions lie below the command register. -/
theorem GroupChecksKept.ordOver_eq (off len : Nat) : ordOver u off len = ordOver s off len := by
  refine List.find?_congr fun n listed => ?_
  have low : n < 16 := List.mem_range.1 listed
  have word (k : Nat) (inside : k < 8) : regGet u (ordReg n k) = regGet s (ordReg n k) := by
    refine h.regs _ ?_
    rw [ordReg]
    omega
  simp only [ordArm, ordClosed, ordTarget_congr word, ordSlots, regBits, word 2 (by decide), word 3 (by decide), word 4 (by decide)]

/-- The entries of the protection table lie below it too (R172). -/
theorem GroupChecksKept.protFrom_eq {src addr len e n : Nat} {kind : AccKind} (inside : e + n ≤ 256) :
    protFrom u src addr len kind e n = protFrom s src addr len kind e n := by
  induction n generalizing e with
  | zero => simp only [protFrom, h.regs 0x100040 (by decide)]
  | succ n ih =>
    have word (k : Nat) (low : k < 0x20) : regGet u (0x102000 + 0x20 * e + k) = regGet s (0x102000 + 0x20 * e + k) :=
      h.regs _ (by omega)
    have base : regPair u (0x102000 + 0x20 * e) = regPair s (0x102000 + 0x20 * e) := h.regPair_eq (by omega)
    have top : regPair u (0x102000 + 0x20 * e + 8) = regPair s (0x102000 + 0x20 * e + 8) := h.regPair_eq (by omega)
    have rest : protFrom u src addr len kind (e + 1) n = protFrom s src addr len kind (e + 1) n := ih (by omega)
    simp only [protFrom, base, top, word 0x10 (by decide), word 0x14 (by decide), word 0x18 (by decide), rest]

theorem GroupChecksKept.mapped_eq (off len : Nat) : mapped u off len = mapped s off len := by rw [mapped, mapped, h.inSpm_eq]

theorem GroupChecksKept.rangeRefusal_eq (src addr len : Nat) (kind : AccKind) :
    rangeRefusal u src addr len kind = rangeRefusal s src addr len kind := by
  rw [rangeRefusal, rangeRefusal, h.isOwn_eq, h.mapped_eq, protCheck, protCheck, h.protFrom_eq (by decide)]

theorem GroupChecksKept.chunkSlots_eq (e : List Byte) : chunkSlots u e = chunkSlots s e := by
  simp only [chunkSlots, chunkLimit, switchChunk, h.regBits_eq (o := 0xA00018) (by decide)]

theorem GroupChecksKept.groupOk_eq (e : List Byte) (src : Nat) : groupOk u e src = groupOk s e src := by
  simp only [groupOk, h.isOwn_eq, h.inNear_eq, h.rangeRefusal_eq, h.chunkSlots_eq]

end

variable {s : State} {m : Master} {cmd g : Nat}

theorem gatherDrop_checksKept (owner : Nat) : GroupChecksKept s (gatherDrop s owner) := ⟨fun _ _ => rfl, rfl⟩

/-! The write of CLE_GRP_CMD. -/

/-- The state in which CLE_GRP_CMD holds a command for a group. -/
def groupTold (s : State) (cmd g : Nat) : State := regPut s 0xA00020 (g + 2 ^ 12 * cmd)

theorem groupTold_checksKept : GroupChecksKept s (groupTold s cmd g) := ⟨fun _ apart => regGet_regPut_other s _ apart, rfl⟩

theorem groupTold_canon (canon : Canon s) : Canon (groupTold s cmd g) := (regPut_keeps (Keeps.refl s)).canon canon

/-- A range that can be read at once still can after the write. -/
theorem OwnGood.groupTold {addr len : Nat} (h : OwnGood s addr len) : OwnGood (groupTold s cmd g) addr len :=
  ⟨h.some, (groupTold_checksKept.isOwn_eq addr).trans h.own, h.fits, ⟨h.quiet.awake, h.quiet.clear, h.quiet.past⟩,
    (groupTold_checksKept.ordOver_eq ..).trans h.unordered, h.good⟩

/-- The command word as its fields read back. -/
theorem groupWord (low : g < 4096) (small : cmd < 4) :
    bitsOf 13 12 (g + 2 ^ 12 * cmd) = cmd ∧ bitsOf 11 0 (g + 2 ^ 12 * cmd) = g := by
  simp only [bitsOf]
  omega

section
variable (admits : Admits s m .write 0xA00020) (priv : masterPriv s m = true) (idle : bitOf 0 (regGet s 0xA00024) = false)
  (low : g < 4096)
include admits priv idle low

/-- A command written while none is in progress begins. -/
theorem groupCommand_taken (small : cmd < 4) :
    masterWrite s m 0xA00020 (g % 4096 + 2 ^ 12 * cmd) = grpCmd (groupTold s cmd g) cmd g := by
  obtain ⟨command, number⟩ := groupWord low small
  rw [Nat.mod_eq_of_lt low]
  refine masterWrite_taken (by decide) admits (by rw [priv]; rfl) ?_
  simp only [lkWrite, idle, Bool.false_eq_true, if_false, command, number]
  rfl

theorem exec_loadGroup_begins : exec (.loadGroup m g) s = .next (loadStep (groupTold s 1 g) g) := by
  show execLoadGroup m g s = _
  simp only [execLoadGroup, idle, Bool.and_false, Bool.false_and, Bool.false_eq_true, if_false]
  exact congrArg _ (groupCommand_taken (cmd := 1) admits priv idle low (by decide))

theorem exec_unloadGroup_begins : exec (.unloadGroup m g) s = .next (grpCmd (groupTold s 2 g) 2 g) :=
  congrArg Host.Outcome.next (groupCommand_taken (cmd := 2) admits priv idle low (by decide))

end

/-! The end of a command. -/

theorem grpCmdEnd_accepts (canon : Canon s) : regGet (grpCmdEnd s 0) 0xA00024 = 0 := regGet_regPut_same canon ..

theorem grpCmdEnd_refuses (canon : Canon s) {reason : Nat} (some' : 0 < reason) (small : reason < 8) :
    regGet (grpCmdEnd s reason) 0xA00024 = 2 + 4 * reason := by
  rw [grpCmdEnd, regGet_regPut_same canon, if_neg (by omega)]
  omega

theorem Canon.withCle (canon : Canon s) (cle : List ClGroup) : Canon { s with cle } :=
  ⟨canon.spm, canon.nor, canon.regs, canon.counters, canon.cntShadow, canon.voc, canon.corr, canon.trim, canon.ftab⟩

/-! A group loaded and one unloaded. -/

/-- The state in which a group stands loaded, in place of what was loaded under its number. -/
def groupLoaded (s : State) (x : ClGroup) : State := { s with cle := x :: dropFirst (fun y => y.group == x.group) s.cle }

/-- The state in which a group is not loaded. -/
def groupUnloaded (s : State) (g : Nat) : State := { s with cle := s.cle.filter fun x => x.group != g }

theorem find?_dropFirst_other {k : Nat} (other : k ≠ g) (l : List ClGroup) :
    (dropFirst (fun y => y.group == g) l).find? (fun y => y.group == k) = l.find? fun y => y.group == k := by
  induction l with
  | nil => rfl
  | cons y l ih =>
    rw [dropFirst]
    split
    next own => rw [List.find?_cons_of_neg (by simpa [beq_iff_eq.1 own] using other.symm)]
    next => rw [List.find?_cons, List.find?_cons, ih]

theorem grpGet_groupLoaded_same (x : ClGroup) : grpGet (groupLoaded s x) x.group = some x :=
  List.find?_cons_of_pos (beq_self_eq_true _)

theorem grpGet_groupLoaded_other {x : ClGroup} {k : Nat} (other : k ≠ x.group) : grpGet (groupLoaded s x) k = grpGet s k := by
  rw [grpGet, groupLoaded, List.find?_cons_of_neg (by simpa using other.symm)]
  exact find?_dropFirst_other other s.cle

theorem grpGet_groupUnloaded_same : grpGet (groupUnloaded s g) g = none := by simp [grpGet, groupUnloaded]

theorem grpGet_groupUnloaded_other {k : Nat} (other : k ≠ g) : grpGet (groupUnloaded s g) k = grpGet s k := by
  rw [grpGet, groupUnloaded, List.find?_filter]
  refine List.find?_congr fun x _ => ?_
  by_cases named : x.group = k <;> simp [named, other]

/-! What each command comes to. -/

/-- The group that a LOAD of an entry gives (R246). -/
def groupOfEntry (s : State) (g : Nat) (e : List Byte) : ClGroup := { group := g, entry := e, base := counterGet s (grpCounter e) }

section
variable (good : OwnGood s (grpAddr s g) 64) (idle : grpActive s g = none)
include good idle

theorem loadStep_loads (ok : groupOk s (spmBytes s (offsetOf (grpAddr s g)) 64) (ownId s) = true) : loadStep s g =
    grpCmdEnd (groupLoaded (gatherDrop s (loadOwner g)) (groupOfEntry s g (spmBytes s (offsetOf (grpAddr s g)) 64))) 0 := by
  have kept := gatherDrop_checksKept (s := s) (loadOwner g)
  have idle' : grpActive (gatherDrop s (loadOwner g)) g = none := idle
  simp only [loadStep, readRange_good good, idle', kept.groupOk_eq, kept.ownId_eq, ok, Option.isSome_none, Bool.not_true,
    Bool.false_eq_true, if_false]
  rfl

theorem loadStep_refuses (bad : groupOk s (spmBytes s (offsetOf (grpAddr s g)) 64) (ownId s) = false) :
    loadStep s g = grpCmdEnd (gatherDrop s (loadOwner g)) 1 := by
  have kept := gatherDrop_checksKept (s := s) (loadOwner g)
  have idle' : grpActive (gatherDrop s (loadOwner g)) g = none := idle
  simp only [loadStep, readRange_good good, idle', kept.groupOk_eq, kept.ownId_eq, bad, Option.isSome_none, Bool.not_false,
    Bool.false_eq_true, if_false, if_true]

end

theorem grpCmd_unloads (idle : grpActive s g = none) : grpCmd s 2 g = grpCmdEnd (groupUnloaded s g) 0 := by
  simp only [grpCmd, idle, Option.isSome_none, Bool.false_eq_true, if_false]
  rfl

theorem grpCmd_unload_refuses (busy : (grpActive s g).isSome = true) : grpCmd s 2 g = grpCmdEnd s 2 := by
  simp only [grpCmd, busy, if_true]

/-- Settles O31: the two commands, each from the state in which CLE_GRP_CMD holds it. -/
theorem groupLoadAndUnload : Obligations.GroupLoadAndUnload := by
  unfold Obligations.GroupLoadAndUnload
  intro s m g canon admits priv low free _ e
  have load := exec_loadGroup_begins admits priv free low
  have unload := exec_unloadGroup_begins admits priv free low
  have told (cmd : Nat) : Canon (groupTold s cmd g) := groupTold_canon canon
  refine ⟨fun entry idle => ?_, fun idle => ?_, fun busy => ?_⟩
  · have kept := groupTold_checksKept (s := s) (cmd := 1) (g := g)
    have entry' : OwnGood (groupTold s 1 g) (grpAddr (groupTold s 1 g) g) 64 := by
      rw [kept.grpAddr_eq]
      exact entry.groupTold
    have read : spmBytes (groupTold s 1 g) (offsetOf (grpAddr (groupTold s 1 g) g)) 64 = e := by
      rw [kept.grpAddr_eq]
      rfl
    have checked : groupOk (groupTold s 1 g) e (ownId (groupTold s 1 g)) = groupOk s e (ownId s) := by
      rw [kept.groupOk_eq, kept.ownId_eq]
    have dropped : Canon (gatherDrop (groupTold s 1 g) (loadOwner g)) := (gatherDrop_keeps (Keeps.refl _)).canon (told 1)
    refine ⟨fun ok => ?_, fun bad => ?_⟩
    · rw [loadStep_loads entry' idle (by rw [read, checked, ok]), read] at load
      exact ⟨_, load, grpCmdEnd_accepts (dropped.withCle _), grpGet_groupLoaded_same (groupOfEntry _ g e),
        fun k other => grpGet_groupLoaded_other other⟩
    · rw [loadStep_refuses entry' idle (by rw [read, checked, bad])] at load
      exact ⟨_, load, grpCmdEnd_refuses dropped (by decide) (by decide), rfl⟩
  · rw [grpCmd_unloads (s := groupTold s 2 g) idle] at unload
    exact ⟨_, unload, grpCmdEnd_accepts ((told 2).withCle _), grpGet_groupUnloaded_same,
      fun k other => grpGet_groupUnloaded_other other⟩
  · rw [grpCmd_unload_refuses (s := groupTold s 2 g) busy] at unload
    exact ⟨_, unload, grpCmdEnd_refuses (told 2) (by decide) (by decide), rfl⟩

end Sys2Proof.Machine
end

section
/-! What an error that stops nothing leaves of the fabric ports: their state and their status registers (R286, R311 to
R315). -/
namespace Sys2Proof.Machine

/-- Two states with the same fabric ports and the same words in the ports' status registers. -/
structure LinksKept (s u : State) : Prop where
  ports : u.fep.ports = s.fep.ports
  regs : ∀ p < 4, regGet u (0x900100 + 4 * p) = regGet s (0x900100 + 4 * p)

section
variable {s t u : State}

theorem LinksKept.refl (s : State) : LinksKept s s := ⟨rfl, fun _ _ => rfl⟩

theorem LinksKept.trans (h : LinksKept s t) (k : LinksKept t u) : LinksKept s u :=
  ⟨k.ports.trans h.ports, fun p low => (k.regs p low).trans (h.regs p low)⟩

theorem regPut_links {off : Nat} (apart : off < 0x900100 ∨ 0x900110 ≤ off) (v : Nat) : LinksKept s (regPut s off v) :=
  ⟨rfl, fun p low => regGet_regPut_other s v (by omega)⟩

theorem regPutBits_links {off : Nat} (apart : off < 0x900100 ∨ 0x900110 ≤ off) (hi lo v : Nat) :
    LinksKept s (regPutBits s off hi lo v) := regPut_links apart _

theorem setEvent_links (b : Nat) : LinksKept s (setEvent s b) := regPutBits_links (by decide) ..

theorem noteRefusal_links (out : Bool) (src addr reason : Nat) : LinksKept s (noteRefusal s out src addr reason) :=
  (((regPut_links (by decide) _).trans (regPut_links (by decide) _)).trans (regPut_links (by decide) _)).trans
    (regPut_links (by decide) _)

theorem Stored.links (h : Stored s u) : LinksKept s u := by
  obtain ⟨⟨_, _, _, _, _, _, _, _, _, rfl⟩, regs⟩ := h
  exact ⟨rfl, fun p low => regs _ (by omega)⟩

theorem Homed.links (h : Homed s u) : LinksKept s u := by
  obtain ⟨_, _, _, _, _, rfl⟩ := h
  exact ⟨rfl, fun _ _ => rfl⟩

theorem routeWritten_links (off len : Nat) : LinksKept s (routeWritten s off len) := by
  unfold routeWritten
  split
  · exact .refl s
  · exact ⟨rfl, fun _ _ => rfl⟩

theorem storeOne_links (owner : Option Nat) (a : Access) (r : Nat × List Byte) : LinksKept s (storeOne owner a s r) := by
  have stored : Stored s (spmWrite (wakeBanks s r.1 r.2.length) owner r.1 r.2) := (wakeBanks_stored ..).trans (spmWrite_stored ..)
  refine stored.links.trans ?_
  unfold storeOne
  dsimp only
  split
  · exact .refl _
  · exact (entriesWritten_sent ..).homed.links.trans (routeWritten_links ..)

theorem storeRun_links (owner : Option Nat) (a : Access) (r : Nat × List Byte) (count : Option (Nat × Nat)) (old : List Byte) :
    LinksKept s (storeRuns s owner a [r] count old).1 :=
  (storeOne_links owner a r).trans (writeThrough_homed (storeOne owner a s r) a [r] count old).links

theorem unitStore_links (off : Nat) (bs : List Byte) : LinksKept s (unitStore s off bs) := by
  unfold unitStore
  dsimp only
  split
  · exact noteRefusal_links ..
  · split
    · exact ⟨rfl, fun _ _ => rfl⟩
    · exact storeRun_links ..

/-! The log (R311 to R315). -/

theorem errors_links (e : Errors) : LinksKept s { s with errors := e } := ⟨rfl, fun _ _ => rfl⟩

theorem eeuStatus_links : LinksKept s (eeuStatus s) :=
  ((regPutBits_links (by decide) ..).trans (regPut_links (by decide) _)).trans (regPutBits_links (by decide) ..)

theorem deliverEntry_links : LinksKept s (deliverEntry s) := by
  unfold deliverEntry
  split
  · split
    · exact ((errors_links _).trans (regPutBits_links (by decide) ..)).trans eeuStatus_links
    · exact eeuStatus_links
  · exact eeuStatus_links

theorem writeEntry_links (e : ErrRec) (cls : Nat) (esc : Bool) (supp : Nat) : LinksKept s (writeEntry s e cls esc supp).1 := by
  unfold writeEntry
  dsimp only
  split
  · exact ((regPut_links (by decide) _).trans (regPut_links (by decide) _)).trans (setEvent_links 4)
  · exact (((unitStore_links ..).trans (regPutBits_links (by decide) ..)).trans (errors_links _)).trans deliverEntry_links

theorem countCorrected_links (res : Nat) : LinksKept s (countCorrected s res) := by
  unfold countCorrected
  dsimp only
  generalize (if s.errors.windowNo = s.osc / 2 ^ 30 then s.errors.window else 0) + 1 = n
  refine (errors_links { s.errors with window := n, windowNo := s.osc / 2 ^ 30 }).trans ?_
  have event (u : State) (c : Prop) [Decidable c] : LinksKept u (if c then setEvent u 0 else u) := by
    split
    · exact setEvent_links 0
    · exact .refl u
  split
  · exact (event _ _).trans ⟨rfl, fun _ _ => rfl⟩
  · exact event _ _

end

/-- A corrected error, or one of an operation that is not internal, is logged at most: it stops nothing. -/
theorem raiseErr_links {s : State} {e : ErrRec} (mild : e.cls = 1 ∨ e.cls = 2 ∧ e.internal = false) (code : e.code ≠ 0x0401) :
    LinksKept s (raiseErr s e) := by
  have calm : (decide (e.cls = 3) || decide (e.code = 0x0401)) = false := by
    rcases mild with cls | ⟨cls, -⟩ <;> simp [cls, code]
  unfold raiseErr
  rw [calm]
  split
  · simp only [Bool.false_eq_true, if_false, ite_self]
    exact .refl s
  split
  · rw [if_neg (by omega)]
    exact .refl s
  rcases mild with cls | ⟨cls, own⟩
  · simp only [cls]
    refine (countCorrected_links e.resource).trans ?_
    split
    · exact errors_links _
    · split <;> exact (writeEntry_links ..).trans (errors_links _)
  · simp only [cls, own, Bool.false_and, Bool.false_eq_true, if_false]
    exact (writeEntry_links ..).trans (setEvent_links 1)

end Sys2Proof.Machine
end

section
/-! The bytes of a packet's header flit, and the packet that is read from them (R268, R269). -/
namespace Sys2Proof.Machine

/-! Fields of byte strings that spell numbers. -/

theorem leNat_toLe (n v : Nat) : leNat (toLe n v) = v % 256 ^ n := by
  induction n generalizing v with
  | zero => simp [toLe, leNat, Nat.mod_one]
  | succ n ih => rw [toLe, leNat, ih, BitVec.toNat_ofNat, Nat.pow_succ' (n := n), Nat.mod_mul]

theorem fieldAt_toLe_head {n v : Nat} {bs : List Byte} : fieldAt (toLe n v ++ bs) 0 n = v % 256 ^ n := by
  rw [fieldAt, List.drop_zero, List.take_left' (length_toLe n v), leNat_toLe]

theorem fieldAt_toLe_skip {n v off len : Nat} {bs : List Byte} (past : n ≤ off) :
    fieldAt (toLe n v ++ bs) off len = fieldAt bs (off - n) len := by
  rw [fieldAt, fieldAt, List.drop_append, List.drop_of_length_le (by rw [length_toLe]; exact past), length_toLe, List.nil_append]

theorem length_padTo (n : Nat) (bs : List Byte) : (padTo n bs).length = n := by
  simp only [padTo, List.length_append, List.length_take, List.length_replicate]
  omega

theorem length_packetHeader (k : Packet) : (packetHeader k).length = 64 := by
  simp only [packetHeader, packetBody, List.length_append, length_toLe, length_padTo]

/-! The flags beside PKT.VC. -/

/-- Byte 1 of a header (R269). -/
def flagByte (k : Packet) : Nat :=
  k.vc + 8 * boolBit k.epoch + 16 * boolBit k.mark + 32 * boolBit k.echo + 64 * boolBit k.ordered

theorem boolBit_lt (b : Bool) : boolBit b < 2 := by cases b <;> decide

theorem bitOf_boolBit {i n : Nat} {b : Bool} (h : n / 2 ^ i % 2 = boolBit b) : bitOf i n = b := by
  rw [bitOf, h]
  cases b <;> rfl

theorem flagByte_fields {k : Packet} (vc : k.vc < 8) : flagByte k < 256 ∧ bitsOf 2 0 (flagByte k) = k.vc ∧
    bitOf 3 (flagByte k) = k.epoch ∧ bitOf 4 (flagByte k) = k.mark ∧ bitOf 5 (flagByte k) = k.echo ∧
    bitOf 6 (flagByte k) = k.ordered := by
  have epoch := boolBit_lt k.epoch
  have mark := boolBit_lt k.mark
  have echo := boolBit_lt k.echo
  have ordered := boolBit_lt k.ordered
  unfold flagByte bitsOf
  exact ⟨by omega, by omega, bitOf_boolBit (by omega), bitOf_boolBit (by omega), bitOf_boolBit (by omega),
    bitOf_boolBit (by omega)⟩

/-- The counter's number and whether the write is counted share two bytes. -/
theorem counterBytes_fields {n : Nat} (b : Bool) (low : n < 4096) : n + 2 ^ 15 * boolBit b < 2 ^ 16 ∧
    bitsOf 11 0 (n + 2 ^ 15 * boolBit b) = n ∧ bitOf 15 (n + 2 ^ 15 * boolBit b) = b := by
  have counted := boolBit_lt b
  unfold bitsOf
  exact ⟨by omega, by omega, bitOf_boolBit (by omega)⟩

/-! The header's fields. -/

section
variable {k : Packet} (fits : k.wf = true) (bs : List Byte)
include fits

theorem packet_fits : k.type < 256 ∧ k.vc < 8 ∧ k.dest < 2 ^ 19 ∧ k.src < 2 ^ 19 ∧ k.path < 256 ∧ k.age < 256 ∧ k.tag < 2 ^ 13 ∧
    k.addr < 2 ^ 40 ∧ k.counter < 4096 ∧ k.status < 65536 ∧ k.payload.length ≤ 4096 := by
  simp only [Packet.wf, Bool.and_eq_true, decide_eq_true_eq] at fits
  tauto

/-- The bytes of a header spell the packet's fields. -/
theorem packetHeader_fields :
    let h := packetHeader k ++ bs
    fieldAt h 0 1 = k.type ∧ fieldAt h 1 1 = flagByte k ∧ fieldAt h 2 2 = k.payload.length ∧ fieldAt h 4 4 = k.dest ∧
      fieldAt h 8 4 = k.src ∧ fieldAt h 12 1 = k.path ∧ fieldAt h 13 1 = k.age ∧ fieldAt h 14 2 = k.tag ∧
      fieldAt h 16 8 = k.addr ∧ fieldAt h 24 2 = k.counter + 2 ^ 15 * boolBit k.counted ∧ fieldAt h 26 2 = k.status := by
  obtain ⟨type, vc, dest, src, path, age, tag, addr, counter, status, payload⟩ := packet_fits fits
  have flags := (flagByte_fields vc).1
  have counted := (counterBytes_fields k.counted counter).1
  rw [flagByte] at *
  simp only [packetHeader, List.append_assoc]
  refine ⟨?_, ?_, ?_, ?_, ?_, ?_, ?_, ?_, ?_, ?_, ?_⟩ <;>
    simp only [fieldAt_toLe_skip, fieldAt_toLe_head, Nat.reduceLeDiff, Nat.reduceSub, Nat.le_refl] <;> omega

/-- A packet reads back from its header flit and its payload. -/
theorem packetRead_fields :
    let r := packetRead (packetHeader k ++ k.payload)
    r.type = k.type ∧ r.vc = k.vc ∧ r.epoch = k.epoch ∧ r.mark = k.mark ∧ r.echo = k.echo ∧ r.ordered = k.ordered ∧
      r.dest = k.dest ∧ r.src = k.src ∧ r.path = k.path ∧ r.age = k.age ∧ r.tag = k.tag ∧ r.addr = k.addr ∧
      r.counter = k.counter ∧ r.counted = k.counted ∧ r.status = k.status ∧
      (lenIsData k.type k.payload.length = true → r.payload = k.payload) := by
  obtain ⟨type', flags', len', dest', src', path', age', tag', addr', counter', status'⟩ := packetHeader_fields fits k.payload
  obtain ⟨type, vc, dest, src, path, age, tag, addr, counter, status, payload⟩ := packet_fits fits
  obtain ⟨-, vc', epoch', mark', echo', ordered'⟩ := flagByte_fields vc
  obtain ⟨-, number', counted'⟩ := counterBytes_fields k.counted counter
  have whole {w n : Nat} (h : n < 2 ^ (w + 1)) : bitsOf w 0 n = n := by rw [bitsOf_low, Nat.mod_eq_of_lt h]
  have length : bitsOf 12 0 k.payload.length = k.payload.length := whole (Nat.lt_of_le_of_lt payload (by decide))
  have bytes : (packetHeader k ++ k.payload).drop 64 = k.payload := List.drop_left' (length_packetHeader k)
  simp only [packetRead, type', flags', len', dest', src', path', age', tag', addr', counter', status', vc', epoch', mark', echo',
    ordered', number', counted', whole dest, whole src, whole tag, whole addr, length, bytes, List.take_length, true_and]
  exact fun data => if_pos data

end

end Sys2Proof.Machine
end

section
/-! One port changed, the others as they were (R268, R286, R289). -/
namespace Sys2Proof.Machine

/-- Port `p` of a state is as given, and every other port is as in an earlier state. -/
def PortIs (s u : State) (p : Nat) (c : Port) : Prop :=
  u.fep.ports[p]? = some c ∧ ∀ i, i ≠ p → u.fep.ports[i]? = s.fep.ports[i]?

section
variable {s t u : State} {p : Nat} {c c' : Port}

theorem portUpd_is (here : s.fep.ports[p]? = some c) (f : Port → Port) : PortIs s (portUpd s p f) p (f c) :=
  ⟨by simp only [portUpd, setAt_get, if_true, here, Option.map_some], fun i other => by
    simp only [portUpd, setAt_get, if_neg other.symm]⟩

theorem PortIs.trans (h : PortIs s t p c) (k : PortIs t u p c') : PortIs s u p c' :=
  ⟨k.1, fun i other => (k.2 i other).trans (h.2 i other)⟩

/-- A further change of the port. -/
theorem PortIs.upd (h : PortIs s t p c) (f : Port → Port) : PortIs s (portUpd t p f) p (f c) := h.trans (portUpd_is h.1 f)

theorem PortIs.of_ports (h : PortIs s t p c) (same : u.fep.ports = t.fep.ports) : PortIs s u p c := by
  rw [PortIs, same]
  exact h

theorem portUpd_congr {f g : Port → Port} (here : s.fep.ports[p]? = some c) (same : f c = g c) : portUpd s p f = portUpd s p g := by
  have ports : setAt s.fep.ports p f = setAt s.fep.ports p g :=
    setAt_congr fun y e => by rw [← Option.some.inj (here.symm.trans e), same]
  simp only [portUpd, ports]

theorem portUpd_portUpd (f g : Port → Port) : portUpd (portUpd s p f) p g = portUpd s p fun c => g (f c) := by
  simp only [portUpd, setAt_setAt]

end

end Sys2Proof.Machine
end

section
/-! The link layer of a port that is up (R268, R289, R373, R374). -/
namespace Sys2Proof.Machine

section
variable {s : State} {port : Nat} {c : Port} {f : FlitIn}

/-! A flit (R268, R289). -/

/-- A flit in sequence with a good CRC. -/
def InOrder (c : Port) (f : FlitIn) : Prop := crc32c (f.bytes ++ toLe 2 f.seq.toNat) = f.crc ∧ f.seq.toNat = c.expect

theorem flitGood_iff : (flitGood f && f.seq.toNat == c.expect) = true ↔ InOrder c f := by
  simp only [flitGood, InOrder, Bool.and_eq_true, beq_iff_eq]

/-- What a port owes after a flit that it passes on: a credit, and an acknowledgement after 32 flits. -/
def passed (osc vc : Nat) (c : Port) : Port :=
  let c := { c with expect := (c.expect + 1) % 4096, toAck := c.toAck + 1, lastRx := osc, nakSent := false
                    giveCredit := c.giveCredit ++ [vc] }
  if c.toAck ≥ 32 then queueAck c else c

/-- The port after a flit that it passes on, with what it then acknowledges. -/
theorem passed_eq (osc vc : Nat) (c : Port) : passed osc vc c =
    let taken : Port := { c with expect := (c.expect + 1) % 4096, toAck := c.toAck + 1, lastRx := osc, nakSent := false
                                 giveCredit := c.giveCredit ++ [vc] }
    if c.toAck + 1 < 32 then taken
    else { taken with control := c.control ++ [(false, ((c.expect + 1) % 4096 + 4095) % 4096)], toAck := 0 } := by
  simp only [passed, queueAck, ge_iff_le, ← Nat.not_lt, ite_not]

/-- A NAK of the expected number queued. -/
def naks (c : Port) : Port := { c with control := c.control ++ [(true, c.expect)], nakSent := true }

/-- The bytes that have arrived of the packet that a flit belongs to. -/
def arrivedBytes (c : Port) (f : FlitIn) : List Byte := ((c.rx.find? fun r => r.1 == f.vc).map (·.2)).getD [] ++ f.bytes

/-- What has arrived on the other channels. -/
def otherRx (c : Port) (f : FlitIn) : List (Nat × List Byte) := c.rx.filter fun r => r.1 != f.vc

/-- A port with other bytes of packets that have not arrived whole. -/
def withRx (rx : List (Nat × List Byte)) (c : Port) : Port := { c with rx := rx }

/-- A packet that has arrived waits to be handled. -/
def packetJoins (s : State) (port : Nat) (k : Packet) : State :=
  { s with fep := { s.fep with inbox := s.fep.inbox ++ [(port, k)] } }

theorem flitTaken_part (part : packetWhole (arrivedBytes c f) = false) :
    flitTaken s port c f = portUpd s port (withRx (otherRx c f ++ [(f.vc, arrivedBytes c f)])) := by
  unfold flitTaken
  exact if_neg (Bool.eq_false_iff.1 part)

section
variable (whole : packetWhole (arrivedBytes c f) = true)
include whole

theorem flitTaken_listed (listed : typeOnChannel (packetRead (arrivedBytes c f)) = true) : flitTaken s port c f =
    packetJoins (portUpd s port (withRx (otherRx c f))) port (packetRead (arrivedBytes c f)) := by
  unfold flitTaken
  exact (if_pos whole).trans (if_pos listed)

theorem flitTaken_unlisted (unlisted : typeOnChannel (packetRead (arrivedBytes c f)) = false) :
    flitTaken s port c f = regCount (portUpd s port (withRx (otherRx c f))) 0x900068 := by
  unfold flitTaken
  exact (if_pos whole).trans (if_neg (Bool.eq_false_iff.1 unlisted))

end

/-! What was sent and is acknowledged (R276, R289). -/

/-- The first flit of a number among those sent. -/
theorem sent_first {sent : List SentFlit} {g : SentFlit} {lseq n : Nat} (at' : sent[n]? = some g) (named : g.seq = lseq)
    (before : ∀ i < n, ∀ g, sent[i]? = some g → g.seq ≠ lseq) :
    sent.findIdx (fun f => f.seq == lseq) = n ∧ sent.dropWhile (fun f => f.seq != lseq) = sent.drop n := by
  obtain ⟨low, same⟩ := List.getElem?_eq_some_iff.1 at'
  have index : sent.findIdx (fun f => f.seq == lseq) = n := (List.findIdx_eq low).2
    ⟨by simp only [same, named, beq_self_eq_true], fun i earlier => by
      simpa using before i earlier _ (List.getElem?_eq_getElem (Nat.lt_trans earlier low))⟩
  refine ⟨index, ?_⟩
  rw [List.dropWhile_eq_drop_findIdx_not]
  simp only [bne, Bool.not_not, index]

/-- An acknowledgement frees the flits `done`, the first `n` of those sent. -/
def freed (osc n : Nat) (done : List SentFlit) (c : Port) : Port :=
  { c with sent := c.sent.drop n, lastAck := osc, resend := c.resend.filter fun q => !done.any fun f => f.seq == q }

/-- What a NAK reports (R310). -/
def replayError (port : Nat) : ErrRec := { code := 0x0104, cls := 1, resource := resource 6 port, info1 := port }

/-- Unicast flits that are acknowledged end no multicast write: at most a collective packet is marked delivered. -/
theorem mcastAcked_ports {fs : List SentFlit} {s : State} (idle : s.fep.mcast = [])
    (unicast : ∀ g ∈ fs, g.packet.dest < mcastBase) :
    (mcastAcked s port fs).fep.ports = s.fep.ports := by
  induction fs generalizing s with
  | nil => rfl
  | cons f fs ih =>
    have one : ∃ reqs, mcastAcked s port [f] = { s with fep := { s.fep with reqs := reqs } } := by
      have single : ¬f.packet.dest ≥ mcastBase := by
        have := unicast f List.mem_cons_self
        omega
      simp only [mcastAcked, List.foldl_cons, List.foldl_nil, single, decide_false, Bool.and_false, Bool.false_and,
        Bool.false_eq_true, if_false]
      split
      · exact ⟨_, rfl⟩
      · split <;> exact ⟨_, rfl⟩
    obtain ⟨reqs, one⟩ := one
    show (mcastAcked (mcastAcked s port [f]) port fs).fep.ports = _
    rw [one]
    exact ih idle fun g member => unicast g (List.mem_cons_of_mem _ member)

/-- A port whose receive bundle has been acknowledged, where the transfer has nothing before this part (R361, R373). -/
def seen (alone : Bool) (c : Port) : Port := { c with rxAck := c.rxAck != (c.link && alone) }

theorem rxTaken_is (here : s.fep.ports[port]? = some c) (alone : Bool) : PortIs s (rxTaken s port alone) port (seen alone c) :=
  portUpd_is here _

/-! The commands, where the port is up. -/

variable (acts : live s = true) (here : s.fep.ports[port]? = some c) (up : c.up = true)
include acts here up

/-- A flit's transfer is acknowledged on the bundle; then it is passed on, brings a NAK or is dropped (R289, R361). -/
theorem exec_flit : exec (.flit port f) s = .next
    (let t := rxTaken s port (f.bytes.length / 64 % 2 == 1)
     if flitGood f && f.seq.toNat == c.expect then fepPump (flitTaken (portUpd t port (passed s.osc f.vc)) port c f) port
     else if c.nakSent then t else fepPump (portUpd t port naks) port) := by
  show execFlit port f s = _
  simp only [execFlit, whenLive, acts, here, up, if_true, Bool.not_true, Bool.false_eq_true, if_false]
  rfl

theorem flit_passes (good : InOrder c f) : ∃ t, exec (.flit port f) s = .next (fepPump (flitTaken t port c f) port) ∧
    PortIs s t port (passed s.osc f.vc (seen (f.bytes.length / 64 % 2 == 1) c)) ∧ t.fep.inbox = s.fep.inbox ∧ t.regs = s.regs := by
  have run := exec_flit (f := f) acts here up
  rw [if_pos (flitGood_iff.2 good)] at run
  exact ⟨_, run, (rxTaken_is here _).upd _, rfl, rfl⟩

theorem flit_refused (bad : ¬InOrder c f) : ∃ t, PortIs s t port (seen (f.bytes.length / 64 % 2 == 1) c) ∧
    t.fep.inbox = s.fep.inbox ∧
    exec (.flit port f) s = .next (if c.nakSent then t else fepPump (portUpd t port naks) port) := by
  have run := exec_flit (f := f) acts here up
  rw [if_neg (mt flitGood_iff.1 bad)] at run
  exact ⟨_, rxTaken_is here _, rfl, run⟩

theorem exec_linkAck (l : OnWire) : exec (.linkAck port l) s = .next
    (let t := rxTaken s port l.alone
     let n := c.sent.findIdx (fun f => f.seq == l.value) + 1
     if c.sent.any fun f => f.seq == l.value then
       fepPump (mcastAcked (portUpd t port (freed s.osc n (c.sent.take n))) port (c.sent.take n)) port
     else t) := by
  show execLinkAck port l s = _
  simp only [execLinkAck, whenLive, acts, here, up, if_true, Bool.not_true, Bool.false_eq_true, if_false]
  rfl

theorem exec_nak (l : OnWire) : exec (.nak port l) s = .next
    (let t := rxTaken s port l.alone
     let again := c.sent.dropWhile fun f => f.seq != l.value
     if again.isEmpty then t
     else if again.any fun f => f.resent ≥ 8 then portFail t port
     else fepPump (raiseErr (portUpd t port fun c => { c with resend := again.map (·.seq) }) (replayError port)) port) := by
  show execNak port l s = _
  simp only [execNak, whenLive, acts, here, up, if_true, Bool.not_true, Bool.false_eq_true, if_false]
  rfl

theorem exec_flitCredit (l : OnWire) : exec (.flitCredit port l) s = .next
    (fepPump (portUpd (rxTaken s port l.alone) port fun c => { c with credits := setAt c.credits l.value (· + 1) }) port) := by
  show execFlitCredit port l s = _
  simp only [execFlitCredit, whenLive, acts, here, up, if_true]

theorem exec_linkAckTimer (owed : 0 < c.toAck) : exec (.linkAckTimer port) s = .next
    (fepPump (portUpd { s with osc := max s.osc (c.lastRx + 1000) } port queueAck) port) := by
  show execLinkAckTimer port s = _
  simp only [execLinkAckTimer, whenLive, acts, here, up, owed, decide_true, Bool.and_self, if_true]

end

end Sys2Proof.Machine
end

section
/-! A port whose link falls or that is declared failed: what is left of it and what its status register reads (R286,
R289, R361). -/
namespace Sys2Proof.Machine

/-- A stopped port: what it sent is gone, packets not started wait, and the transfers on its bundles stand. -/
def stoppedPort (c : Port) : Port :=
  { queue := c.queue.filter fun q => q.sentFlits == 0, link := c.link, wire := c.wire, txReq := c.txReq, txAck := c.txAck
    rxAck := c.rxAck }

/-- What a stopped port reports (R286, R310). -/
def portError (port : Nat) : ErrRec := { code := 0x0206, cls := 2, resource := resource 6 port, info1 := port }

/-- The status word of a port that stops: UP clear and the count of losses one higher, up to 255. -/
def stoppedWord (w : Nat) : Nat := setBits 15 8 (setBits 0 0 w 0) (min (bitsOf 15 8 w + 1) 0xFF)

theorem stoppedWord_fields (w : Nat) : bitOf 0 (stoppedWord w) = false ∧ bitOf 1 (stoppedWord w) = bitOf 1 w ∧
    bitsOf 15 8 (stoppedWord w) = min (bitsOf 15 8 w + 1) 255 := by
  refine ⟨?_, ?_, ?_⟩
  · rw [stoppedWord, bitOf_setBits_other _ _ (by decide) (by decide), bitOf_setBits_same]
    rfl
  · rw [stoppedWord, bitOf_setBits_other _ _ (by decide) (by decide), bitOf_setBits_other _ _ (by decide) (by decide)]
  · rw [stoppedWord, bitsOf_setBits_same (by decide)]
    exact Nat.mod_eq_of_lt (by omega)

/-- The state in which a port has stopped and its status word says so. -/
def portStopped (s : State) (port : Nat) : State :=
  let st := 0x900100 + 4 * port
  let s := regPutBits (portUpd s port stoppedPort) st 0 0 0
  regPutBits s st 15 8 (min (regBits s st 15 8 + 1) 0xFF)

section
variable {s : State} {port : Nat} {c : Port}

theorem portDown_links : LinksKept (portStopped s port) (portDown s port) :=
  raiseErr_links (e := portError port) (.inr ⟨rfl, rfl⟩) (show (0x0206 : Nat) ≠ 0x0401 by decide)

theorem portDown_is (here : s.fep.ports[port]? = some c) : PortIs s (portDown s port) port (stoppedPort c) :=
  (portUpd_is here stoppedPort).of_ports portDown_links.ports

theorem portFail_is (here : s.fep.ports[port]? = some c) : PortIs s (portFail s port) port (stoppedPort c) :=
  portDown_is (s := regPutBits s (0x900100 + 4 * port) 1 1 1) here

variable (canon : Canon s) (low : port < 4)
include canon low

theorem portDown_status : regGet (portDown s port) (0x900100 + 4 * port) = stoppedWord (regGet s (0x900100 + 4 * port)) := by
  generalize reg : 0x900100 + 4 * port = st
  have upd : Canon (portUpd s port stoppedPort) := (portUpd_keeps (Keeps.refl s)).canon canon
  have cleared : regGet (regPutBits (portUpd s port stoppedPort) st 0 0 0) st = setBits 0 0 (regGet s st) 0 :=
    regGet_regPutBits_same upd 0 (by decide) (by decide)
  have count : bitsOf 15 8 (setBits 0 0 (regGet s st) 0) = bitsOf 15 8 (regGet s st) :=
    bitsOf_setBits_above (by decide) (by decide)
  have kept := (portDown_links (s := s) (port := port)).regs port low
  rw [portStopped, reg] at kept
  rw [kept, regGet_regPutBits_same ((regPutBits_keeps (Keeps.refl _)).canon upd) _ (by decide) (by decide), regBits, cleared, count,
    stoppedWord]

theorem portFail_status : regGet (portFail s port) (0x900100 + 4 * port) =
    stoppedWord (setBits 1 1 (regGet s (0x900100 + 4 * port)) 1) := by
  rw [portFail, portDown_status ((regPutBits_keeps (Keeps.refl s)).canon canon) low,
    regGet_regPutBits_same canon 1 (by decide) (by decide)]

end

end Sys2Proof.Machine
end

section
/-! The link layer of a port that is up, clause by clause (R268, R269, R289, R373, R374). -/
namespace Sys2Proof.Machine

section
variable {s : State} {port lseq : Nat} {alone : Bool} {c : Port} (acts : live s = true) (here : s.fep.ports[port]? = some c)
  (up : c.up = true)
include acts here up

section
variable {n : Nat} {f : SentFlit} (at' : c.sent[n]? = some f) (named : f.seq = lseq)
  (before : ∀ i < n, ∀ g, c.sent[i]? = some g → g.seq ≠ lseq)
include at' named before

theorem linkAck_frees (idle : s.fep.mcast = []) (unicast : ∀ g ∈ c.sent, g.packet.dest < mcastBase) :
    ∃ u, exec (.linkAck port ⟨lseq, alone⟩) s = .next (fepPump u port) ∧
      PortIs s u port (freed s.osc (n + 1) (c.sent.take (n + 1)) (seen alone c)) := by
  have sent : c.sent.any (fun f => f.seq == lseq) = true :=
    List.any_eq_true.2 ⟨f, List.mem_of_getElem? at', beq_iff_eq.2 named⟩
  have run := exec_linkAck acts here up ⟨lseq, alone⟩
  simp only [sent, (sent_first at' named before).1, if_true] at run
  exact ⟨_, run, ((rxTaken_is here alone).upd _).of_ports
    (mcastAcked_ports idle fun g member => unicast g (List.mem_of_mem_take member))⟩

/-- A NAK of a flit that was sent fails the port, or has what was sent from it on sent again (R289). -/
theorem exec_nak_sent : exec (.nak port ⟨lseq, alone⟩) s = .next
    (let t := rxTaken s port alone
     if (c.sent.drop n).any fun f => f.resent ≥ 8 then portFail t port
     else fepPump (raiseErr (portUpd t port fun c' => { c' with resend := (c.sent.drop n).map (·.seq) }) (replayError port)) port) := by
  have left : (c.sent.drop n).isEmpty = false := by
    obtain ⟨low, -⟩ := List.getElem?_eq_some_iff.1 at'
    simpa using low
  have run := exec_nak acts here up ⟨lseq, alone⟩
  simp only [(sent_first at' named before).2, left, Bool.false_eq_true, if_false] at run
  exact run

theorem nak_resends (few : ∀ g ∈ c.sent.drop n, g.resent < 8) :
    ∃ u, exec (.nak port ⟨lseq, alone⟩) s = .next (fepPump u port) ∧
      PortIs s u port { seen alone c with resend := (c.sent.drop n).map (·.seq) } := by
  have calm : (c.sent.drop n).any (fun f => f.resent ≥ 8) = false :=
    List.any_eq_false.2 fun g member => by simpa using few g member
  have run := exec_nak_sent (alone := alone) acts here up at' named before
  rw [calm, if_neg Bool.false_ne_true] at run
  exact ⟨_, run, ((rxTaken_is here alone).upd _).of_ports
    (raiseErr_links (.inl rfl) (show (0x0104 : Nat) ≠ 0x0401 by decide)).ports⟩

theorem nak_fails (many : ∃ g ∈ c.sent.drop n, 8 ≤ g.resent) :
    exec (.nak port ⟨lseq, alone⟩) s = .next (portFail (rxTaken s port alone) port) := by
  obtain ⟨g, member, many⟩ := many
  have worn : (c.sent.drop n).any (fun f => f.resent ≥ 8) = true := List.any_eq_true.2 ⟨g, member, by simpa using many⟩
  have run := exec_nak_sent (alone := alone) acts here up at' named before
  rwa [worn, if_pos rfl] at run

end

/-- An acknowledgement or a NAK of a flit that is not outstanding changes nothing but the bundle (R289). -/
theorem exec_unsent (absent : ∀ f ∈ c.sent, f.seq ≠ lseq) :
    exec (.linkAck port ⟨lseq, alone⟩) s = .next (rxTaken s port alone) ∧
      exec (.nak port ⟨lseq, alone⟩) s = .next (rxTaken s port alone) := by
  have unsent : c.sent.any (fun f => f.seq == lseq) = false := List.any_eq_false.2 fun f member => by simpa using absent f member
  have gone : (c.sent.dropWhile fun f => f.seq != lseq).isEmpty = true := by simpa using absent
  refine ⟨(exec_linkAck acts here up ⟨lseq, alone⟩).trans ?_, (exec_nak acts here up ⟨lseq, alone⟩).trans ?_⟩
  · simp only [unsent, Bool.false_eq_true, if_false]
  · simp only [gone, if_true]

end

/-- Settles O32: each command of the link layer by what it leaves of the port, and a header by its fields. -/
theorem linkFlits : Obligations.LinkFlits := by
  unfold Obligations.LinkFlits
  intro s port c acts here up drives now flips
  refine ⟨fun f => ?_, fun lseq n alone f at' named before => ?_, fun lseq alone absent => ?_, fun vc alone => ?_,
    fun owed => ?_, fun k fits => packetRead_fields fits⟩
  · intro ack good taken owes bytes rest k
    have owed : passed s.osc f.vc (seen (f.bytes.length / 64 % 2 == 1) c) = owes := passed_eq ..
    refine ⟨fun inOrder part => ?_, fun inOrder whole => ?_, fun bad first => ?_, fun bad again => ?_⟩
    · obtain ⟨t, run, port', inbox, -⟩ := flit_passes acts here up inOrder
      rw [flitTaken_part part] at run
      rw [owed] at port'
      exact ⟨_, run, port'.upd _, inbox⟩
    · obtain ⟨t, run, port', inbox, regs⟩ := flit_passes acts here up inOrder
      rw [owed] at port'
      have joined := port'.upd (withRx rest)
      cases listed : typeOnChannel k with
      | true =>
        rw [flitTaken_listed whole listed] at run
        exact ⟨_, run, joined.of_ports rfl, fun _ => ⟨congrArg (· ++ [(port, k)]) inbox, regs⟩, nofun⟩
      | false =>
        rw [flitTaken_unlisted whole listed] at run
        exact ⟨_, run, joined.of_ports rfl, nofun, fun _ => ⟨inbox, by simp only [regCount, regPut, regGet, portUpd_regs, regs]⟩⟩
    · obtain ⟨t, port', inbox, run⟩ := flit_refused acts here up bad
      rw [if_neg (Bool.eq_false_iff.1 first)] at run
      exact ⟨_, run, port'.upd naks, inbox⟩
    · obtain ⟨t, port', inbox, run⟩ := flit_refused acts here up bad
      rw [if_pos again] at run
      exact ⟨_, run, port', inbox⟩
  · refine ⟨linkAck_frees acts here up at' named before, nak_resends acts here up at' named before, fun many canon => ?_⟩
    refine ⟨_, nak_fails acts here up at' named before many, (rxTaken_is here alone).trans (portFail_is (rxTaken_is here alone).1),
      fun low => ?_⟩
    have status := portFail_status (s := rxTaken s port alone) ((portUpd_keeps (Keeps.refl s)).canon canon) low
    obtain ⟨down, failed, -⟩ := stoppedWord_fields (setBits 1 1 (regGet (rxTaken s port alone) (0x900100 + 4 * port)) 1)
    rw [status]
    exact ⟨down, failed.trans (bitOf_setBits_same ..)⟩
  · intro seen'
    have same : rxTaken s port alone = seen' := portUpd_congr here rfl
    rw [← same]
    exact exec_unsent acts here up absent
  · exact ⟨_, exec_flitCredit acts here up ⟨vc, alone⟩, (rxTaken_is here alone).upd _⟩
  · exact ⟨_, exec_linkAckTimer acts here up owed, le_max_right .., portUpd_is here queueAck⟩

end Sys2Proof.Machine
end

section
/-! A link that falls, a port that is declared failed, and a link that rises (R286, R289, R354, R361, R375). -/
namespace Sys2Proof.Machine

/-- The identity packet that a port sends first once its link is up (R354). -/
def identityPacket (s : State) : Packet :=
  { type := 0x30, vc := 5, dest := ownId s, src := ownId s, epoch := activeBank s == 1
    body := toLe 32 1, payload := (identityHead s []).take 64 }

theorem identityPacket_fields (s : State) : (identityPacket s).type = 0x30 ∧ (identityPacket s).vc = 5 ∧
    (identityPacket s).body = toLe 32 1 ∧ (identityPacket s).payload = (identityHead s []).take 64 := by
  simp only [identityPacket, and_self]

/-- A state at a later count of the oscillator. -/
def clockAt (s : State) (n : Nat) : State := { s with osc := n }

theorem clockAt_keeps {s : State} {n : Nat} (later : s.osc ≤ n) : Keeps s (clockAt s n) := (Keeps.refl s).tick later rfl rfl rfl

section
variable {s : State} {port : Nat} {c : Port} (acts : live s = true) (here : s.fep.ports[port]? = some c)
include acts here

theorem exec_linkDown : exec (.linkDown port) s =
    .next (portUpd (if c.up then portDown s port else s) port fun c => { ({} : Port) with queue := c.queue }) := by
  show execLinkDown port s = _
  simp only [execLinkDown, whenLive, acts, here, if_true]

theorem exec_portFailed (up : c.up = true) (waits : c.sent ≠ []) :
    exec (.portFailed port) s = .next (portFail (clockAt s (max s.osc (c.lastAck + 100000))) port) := by
  have waiting : (!c.sent.isEmpty) = true := by simpa using waits
  show execPortFailed port s = _
  simp only [execPortFailed, whenLive, acts, here, up, waiting, Bool.and_self, if_true]
  rfl

section
variable (down : c.up = false)
include down

theorem exec_linkUp (serves : stage s ≠ 8) : exec (.linkUp port) s = .next (fepPump (portUpd
    (regPutBits (regPutBits s (0x900100 + 4 * port) 0 0 1) (0x900100 + 4 * port) 1 1 0) port fun c =>
      { ({} : Port) with up := true, link := true, queue := { packet := identityPacket s, rcg := 0 } :: c.queue
                         giveCredit := ((List.range 6).map fun v => List.replicate 16 v).flatten }) port) := by
  show execLinkUp port s = _
  simp only [execLinkUp, whenLive, acts, here, down, serves, decide_false, Bool.or_self, Bool.false_eq_true, if_true, if_false]
  rfl

/-- A port that is down takes no transfer: each is acknowledged on its bundle, and that is all (R361). -/
theorem exec_receives_down : (∀ f, exec (.flit port f) s = .next (rxTaken s port (f.bytes.length / 64 % 2 == 1))) ∧
    ∀ l, exec (.linkAck port l) s = .next (rxTaken s port l.alone) ∧ exec (.nak port l) s = .next (rxTaken s port l.alone) ∧
      exec (.flitCredit port l) s = .next (rxTaken s port l.alone) := by
  refine ⟨fun f => ?_, fun l => ⟨?_, ?_, ?_⟩⟩
  · show execFlit port f s = _
    simp only [execFlit, whenLive, acts, here, down, Bool.not_false, if_true]
  · show execLinkAck port l s = _
    simp only [execLinkAck, whenLive, acts, here, down, Bool.not_false, if_true]
  · show execNak port l s = _
    simp only [execNak, whenLive, acts, here, down, Bool.not_false, if_true]
  · show execFlitCredit port l s = _
    simp only [execFlitCredit, whenLive, acts, here, down, Bool.false_eq_true, if_true, if_false]

end

end

/-- The status word of a port whose link has risen (R286). -/
theorem linkUp_status {s : State} {st : Nat} (canon : Canon s) :
    let w := regGet (regPutBits (regPutBits s st 0 0 1) st 1 1 0) st
    bitOf 0 w = true ∧ bitOf 1 w = false := by
  intro w
  have word : w = setBits 1 1 (setBits 0 0 (regGet s st) 1) 0 := by
    rw [← regGet_regPutBits_same canon 1 (by decide) (by decide)]
    exact regGet_regPutBits_same ((regPutBits_keeps (Keeps.refl s)).canon canon) 0 (by decide) (by decide)
  rw [word]
  refine ⟨?_, bitOf_setBits_same ..⟩
  rw [bitOf_setBits_other _ _ (by decide) (by decide), bitOf_setBits_same]
  rfl

/-- Settles O33: a fall and a failure by what a stopped port is, a rise by its new port. -/
theorem linksFallAndRise : Obligations.LinksFallAndRise := by
  unfold Obligations.LinksFallAndRise
  intro s port c canon acts here low st stops
  refine ⟨fun up => ?_, fun up waits => ?_, fun down serves => ?_, fun down => ?_, fun down => ?_⟩
  · have run := exec_linkDown acts here
    rw [if_pos up] at run
    have status : regGet (portDown s port) st = stoppedWord (regGet s st) := portDown_status canon low
    obtain ⟨fallen, failed, count⟩ := stoppedWord_fields (regGet s st)
    refine ⟨_, run, (portUpd_is (portDown_is here).1 _).1, ?_, ?_, nofun, fun _ => ?_⟩
    · exact (congrArg (bitOf 0) status).trans fallen
    · exact (congrArg (bitsOf 15 8) status).trans count
    · exact (congrArg (bitOf 1) status).trans failed
  · have run := exec_portFailed acts here up waits
    generalize clock : max s.osc (c.lastAck + 100000) = n at run
    have status : regGet (portFail (clockAt s n) port) st =
        stoppedWord (setBits 1 1 (regGet s st) 1) := portFail_status ((clockAt_keeps (by omega)).canon canon) low
    obtain ⟨fallen, failed, count⟩ := stoppedWord_fields (setBits 1 1 (regGet s st) 1)
    refine ⟨⟨_, run, (portFail_is (s := clockAt s n) here).1, ?_, ?_, fun _ => ?_, nofun⟩, fun u ends => ?_⟩
    · rw [status, fallen]
    · rw [regBits, status, count, bitsOf_setBits_above (by decide) (by decide)]
      rfl
    · rw [status, failed, bitOf_setBits_same]
      rfl
    · obtain rfl : portFail (clockAt s n) port = u := Host.Outcome.next.inj (run.symm.trans ends)
      have clock' : n ≤ (portFail (clockAt s n) port).osc := (portFail_keeps (Keeps.refl (clockAt s n))).clock
      omega
  · obtain ⟨raised, failed⟩ := linkUp_status (st := st) canon
    obtain ⟨type, vc, body, payload⟩ := identityPacket_fields s
    refine ⟨_, identityPacket s, exec_linkUp acts here down serves, ?_, type, vc, body, payload, ?_, ?_⟩
    · exact (portUpd_is (s := regPutBits (regPutBits s st 0 0 1) st 1 1 0) here _).1
    · exact raised
    · exact failed
  · have run := exec_linkDown acts here
    rwa [if_neg (Bool.eq_false_iff.1 down)] at run
  · exact exec_receives_down acts here down

end Sys2Proof.Machine
end

section
/-! Response packets and the requests that they end (R273, R278, R279, R283, R287). -/
namespace Sys2Proof.Machine

/-- A packet has left the inbox to be handled. -/
def packetTaken (s : State) (port : Nat) (k : Packet) : State :=
  { s with fep := { s.fep with inbox := s.fep.inbox.erase (port, k) } }

theorem packetTaken_keeps {s : State} {port : Nat} {k : Packet} : Keeps s (packetTaken s port k) := (Keeps.refl s).same rfl rfl rfl

theorem answers_tag {k : Packet} {r : FepReq} (h : answers k r = true) : r.tag = k.tag := by
  simp only [answers, Bool.and_eq_true, beq_iff_eq] at h
  exact h.1.1.1

/-- Where a test accepts one element at most, the first that it accepts is every one. -/
theorem replaceFirst_eq_map {α : Type} {p : α → Bool} {f : α → α} {l : List α}
    (one : l.Pairwise fun a b => p a = true → p b = false) : replaceFirst p f l = l.map fun x => if p x then f x else x := by
  induction l with
  | nil => rfl
  | cons x l ih =>
    obtain ⟨first, rest⟩ := List.pairwise_cons.1 one
    rw [replaceFirst, List.map_cons]
    cases own : p x with
    | true =>
      have same : l.map (fun y => if p y then f y else y) = l :=
        (List.map_congr_left fun y member => by rw [first y member own]; rfl).trans (List.map_id l)
      rw [if_pos rfl, if_pos rfl, same]
    | false => rw [if_neg Bool.false_ne_true, if_neg Bool.false_ne_true, ih rest]

/-- With nothing that waits for a route or a tag, there is nothing to look up again. -/
theorem fepRetryUnrouted_idle {s : State} (packets : s.fep.unrouted = []) (echoes : s.fep.echoes = []) :
    fepRetryUnrouted s = s := by
  simp only [fepRetryUnrouted, packets, echoes, List.foldl_nil]
  rw [← packets, ← echoes]

section
variable {s : State} {port : Nat} {k : Packet} {r : FepReq}

section
variable {type : Nat} {echo : Bool} {x : Resp} (acts : live s = true) (waits : (port, k) ∈ s.fep.inbox)
  (own : k.dest = ownId s) (kind : k.type = type)
include acts waits own kind

theorem onResponse_ends (asked : s.fep.reqs.find? (answers k) = some r) : onResponse s port type k echo x =
    endReq (if echo then echoOn (packetTaken s port k) r.rcg else packetTaken s port k) r x := by
  rw [onResponse, onPacket_own acts waits own kind]
  simp only [asked]
  rfl

theorem onResponse_late (unasked : s.fep.reqs.find? (answers k) = none) : onResponse s port type k echo x =
    lateResponse (packetTaken s port k) k := by
  rw [onResponse, onPacket_own acts waits own kind]
  simp only [unasked]
  rfl

end

/-- A RETRY without an echo: the request that it answers waits for its gap (R283). -/
theorem exec_retry_waits (acts : live s = true) (waits : (port, k) ∈ s.fep.inbox) (own : k.dest = ownId s) (kind : k.type = 0x14)
    (plain : k.echo = false) (asked : s.fep.reqs.find? (answers k) = some r) : exec (.retry port k) s =
      .next { packetTaken s port k with fep := { (packetTaken s port k).fep with
        reqs := replaceFirst (fun q => q.tag == r.tag) (fun q => { q with retryAt := some s.osc }) s.fep.reqs } } := by
  refine congrArg Host.Outcome.next ((onPacket_own acts waits own kind).trans ?_)
  simp only [asked, plain, Bool.false_eq_true, if_false]
  rfl

/-- A packet without a response that is for another cluster is discarded and counted (R278). -/
theorem onPacket_discards {type : Nat} {f : State → State} (acts : live s = true) (waits : (port, k) ∈ s.fep.inbox)
    (kind : k.type = type) (other : k.dest ≠ ownId s) (unicast : k.dest < mcastBase) (quiet : isRequest k = false) :
    onPacket s port type k f = regCount (packetTaken s port k) 0x900068 := by
  have there : s.fep.inbox.contains (port, k) = true := by simpa using waits
  have away : ¬(decide (k.dest = ownId (packetTaken s port k)) || decide (k.dest ≥ mcastBase)) = true := by
    rw [Bool.or_eq_true, decide_eq_true_eq, decide_eq_true_eq]
    exact fun h => h.elim other (Nat.not_le.2 unicast)
  simp only [onPacket, acts, kind, takePacket, there, quiet, bne_self_eq_false, Bool.not_true, Bool.or_self, Bool.false_eq_true,
    if_false, if_true]
  exact if_neg away

/-- The acknowledgement of a store reaches its thread, and the request is gone (R132, R273). -/
theorem endReq_store {t : Nat} {g : Group} {x : Thread} (here : threadAt s t = some (g, x)) (who : r.acc.who = .store t)
    (packets : s.fep.unrouted = []) (echoes : s.fep.echoes = []) :
    endReq s r (.ok []) = threadNow (dropReq s r.tag) t { x with unacked := x.unacked - 1 } := by
  have there : threadAt (dropReq s r.tag) t = some (g, x) := here
  have told := deliver_store (.ok []) there who
  rw [endReq, told]
  exact fepRetryUnrouted_idle packets echoes

end

/-- Settles O36: each response by the request that it answers, if any. -/
theorem responsesEndRequests : Obligations.ResponsesEndRequests := by
  unfold Obligations.ResponsesEndRequests
  intro s port k _ acts waits u request late ends answer
  have responds {type : Nat} {c : Instr} {echo : Bool} {x : Resp}
      (run : exec c s = .next (onResponse s port type k echo x)) : ends type c echo x := fun kind own =>
    ⟨fun r asked => run.trans (congrArg _ (onResponse_ends acts waits own kind asked)),
      fun unasked => run.trans (congrArg _ (onResponse_late acts waits own kind unasked))⟩
  refine ⟨responds rfl, responds rfl, responds rfl, responds rfl, fun kind own plain r asked apart => ?_,
    fun kind other unicast => congrArg Host.Outcome.next
      (onPacket_discards acts waits kind other unicast (by simp only [isRequest, kind]; decide)),
    fun r t g x kind own plain asked who here packets echoes => ?_⟩
  · have tag : r.tag = k.tag := answers_tag (List.find?_some asked)
    refine ⟨_, exec_retry_waits acts waits own kind plain asked, ?_, rfl⟩
    refine (replaceFirst_eq_map (apart.imp fun differ first => ?_)).trans ?_
    · rw [beq_iff_eq] at first
      exact beq_eq_false_iff_ne.2 fun same => differ (first.trans same.symm)
    · simp only [tag, beq_iff_eq]
  · have run : exec (.ack port k) s = .next (onResponse s port 0x10 k k.echo (.ok [])) := rfl
    have here' : threadAt (packetTaken s port k) t = some (g, x) := here
    rw [onResponse_ends acts waits own kind asked, plain, if_neg Bool.false_ne_true,
      endReq_store here' who packets echoes] at run
    refine ⟨_, run, ?_, rfl⟩
    rw [threadAt_threadNow (s := dropReq (packetTaken s port k) r.tag) here']
    rfl

end Sys2Proof.Machine
end

section
/-! Retries, timeouts and reservations (R283, R287). -/
namespace Sys2Proof.Machine

section
variable {s : State} {tag t : Nat} {r : FepReq} (acts : live s = true)
include acts

/-- A request whose gap has passed is queued again, one age older (R283). -/
theorem exec_retrySend (found : s.fep.reqs.find? (fun r => r.tag == tag) = some r) (retried : r.retryAt = some t) :
    exec (.retrySend tag) s = .next
      (let u := clockAt s (max s.osc (t + retryGap s r.packet.age))
       let q := fepQueue u { r.packet with age := min (r.packet.age + 1) 255 } (some r.acc)
       if q.2 then q.1 else endReq q.1 r .unreachable) := by
  show execRetrySend tag s = _
  simp only [execRetrySend, whenLive, acts, found, retried, if_true]
  rfl

theorem exec_reservationLapse {res : Nat} {x : Nat × Nat × Nat × Nat × Nat} (held : s.fep.resv.find? (fun x => x.1 == res) = some x) :
    exec (.reservationLapse res) s = .next { s with
      osc := max s.osc (x.2.2.2.2 + 4 * regBits s 0x900034 15 0 * 2 ^ regBits s 0x900034 19 16)
      fep := { s.fep with resv := dropFirst (fun x => x.1 == res) s.fep.resv } } := by
  show execReservationLapse res s = _
  simp only [execReservationLapse, whenLive, acts, held, if_true]

end

theorem fepQueue_entry {s : State} {k : Packet} {acc : Option Access} {ports : List Nat} {path rcg : Nat}
    (route : routeLookup s k.dest = .entry ports path rcg) : fepQueue s k acc = (fepPlace s k acc ports path rcg, true) := by
  simp only [fepQueue, route]

theorem fepQueue_invalid {s : State} {k : Packet} {acc : Option Access} (route : routeLookup s k.dest = .invalid) :
    fepQueue s k acc = (if isRequest k then regCount (raiseRoute s k.dest false) 0x900060 else raiseRoute s k.dest false, false) := by
  simp only [fepQueue, route]

/-- What a timeout does at a port to the packets of the request: those not started go, the others acknowledge nothing
(R287). -/
def settledAt (its : Packet → Bool) (c : Port) : Port :=
  { c with
    queue := (c.queue.filter fun q => !(its q.packet && q.sentFlits == 0)).map fun q =>
      if its q.packet then { q with settled := true } else q
    sent := c.sent.map fun f => if its f.packet then { f with settled := true } else f }

/-- A port that has nothing of the request stays as it is. -/
theorem settledAt_absent {its : Packet → Bool} {c : Port} (queue : c.queue = []) (sent : ∀ f ∈ c.sent, its f.packet = false) :
    settledAt its c = c := by
  have same : c.sent.map (fun f => if its f.packet then { f with settled := true } else f) = c.sent :=
    (List.map_congr_left fun f member => by rw [sent f member]; rfl).trans (List.map_id c.sent)
  simp only [settledAt, same, queue, List.filter_nil, List.map_nil]
  rw [← queue]

/-- The timeout of a request of which no port has anything left (R287). -/
theorem exec_rspTimeout {s : State} {tag : Nat} {r : FepReq} (acts : live s = true)
    (found : s.fep.reqs.find? (fun r => r.tag == tag && r.retryAt.isNone) = some r) (limited : regGet s 0x900030 ≠ 0)
    (absent : ∀ c ∈ s.fep.ports, c.queue = [] ∧ ∀ f ∈ c.sent, f.packet.type = r.packet.type → f.packet.tag ≠ tag) :
    exec (.rspTimeout tag) s = .next
      (let u := clockAt s (max s.osc (r.since + regGet s 0x900030))
       let late := if r.packet.dest < mcastBase then s.fep.late ++ [tag] else s.fep.late
       if isRequest r.packet then endReq (regCount { u with fep := { u.fep with late := late } } 0x900060) r .unreachable
       else if r.delivered then fepRetryUnrouted (dropReq u tag) else endReq u r .unreachable) := by
  have same : ∀ c ∈ s.fep.ports, settledAt (fun k => k.type == r.packet.type && k.tag == tag) c = c := fun c member => by
    obtain ⟨queue, sent⟩ := absent c member
    refine settledAt_absent queue fun f member' => ?_
    simpa using sent f member'
  have ports : s.fep.ports.map (settledAt fun k => k.type == r.packet.type && k.tag == tag) = s.fep.ports :=
    (List.map_congr_left same).trans (List.map_id s.fep.ports)
  have left : (s.fep.ports.all fun c => (settledAt (fun k => k.type == r.packet.type && k.tag == tag) c).queue.length ==
      c.queue.length) = true := List.all_eq_true.2 fun c member => by rw [same c member, beq_self_eq_true]
  show execRspTimeout tag s = _
  unfold settledAt at ports left
  simp only [execRspTimeout, whenLive, acts, found, limited, ports, left, Bool.and_true, decide_eq_true_eq, if_true, if_false,
    Bool.not_eq_true', ← Bool.not_eq_true, ite_not]
  rfl

end Sys2Proof.Machine
end

section
/-! Rate control: the rise of a group's rate, its cut by an echo, and the refill of its bucket (R279, R280). -/
namespace Sys2Proof.Machine

/-- The register of a group's rate (R280). -/
def rateReg (g : Nat) : Nat := 0x901000 + 4 * g

theorem ceilDiv_covers {n b : Nat} (pos : 0 < b) : n ≤ b * ceilDiv n b := by
  have room := Nat.lt_mul_div_succ (n + b - 1) pos
  rw [Nat.mul_succ] at room
  unfold ceilDiv
  omega

section
variable {s : State} {g : Nat}

theorem bucketOf_group (s : State) (g : Nat) : (bucketOf s g).group = g := by
  unfold bucketOf
  cases found : s.fep.buckets.find? fun b => b.group == g with
  | none => rfl
  | some b => exact beq_iff_eq.1 (List.find?_some (p := fun b : Bucket => b.group == g) found)

theorem bucketOf_bucketPut {b : Bucket} (own : b.group = g) : bucketOf (bucketPut s b) g = b := by
  simp only [bucketOf, bucketPut, own, List.find?_cons, beq_self_eq_true, Option.getD_some]

theorem bucketPut_canon (canon : Canon s) (b : Bucket) : Canon (bucketPut s b) := (bucketPut_keeps (Keeps.refl s)).canon canon

/-- A rate put in its group's register reads back. -/
theorem rate_put (canon : Canon s) {v : Nat} (low : v < 2 ^ 16) :
    regBits (regPutBits s (rateReg g) 15 0 v) (rateReg g) 15 0 = v := by
  rw [regBits_regPutBits_same canon v (by decide) (by decide)]
  exact Nat.mod_eq_of_lt low

/-- A group whose raise period starts now, its bucket settled (R280). -/
def raiseRestarted (s : State) (g : Nat) : State := bucketPut s { bucketNow s g with raiseFrom := s.osc }

theorem raiseRestarted_from : (bucketOf (raiseRestarted s g) g).raiseFrom = s.osc := by
  have put : bucketOf (raiseRestarted s g) g = { bucketNow s g with raiseFrom := s.osc } := bucketOf_bucketPut (bucketOf_group s g)
  rw [put]

theorem exec_rateRaise (acts : live s = true) (low : g < 1024) (on : bitOf 0 (regGet s 0x900040) = true) :
    exec (.rateRaise g) s = .next (regPutBits
      (raiseRestarted (clockAt s (max s.osc ((bucketOf s g).raiseFrom + regBits s 0x900048 31 16))) g) (rateReg g) 15 0
      (min (regBits s 0x900044 15 0) (regBits s (rateReg g) 15 0 + regBits s 0x900048 15 0))) := by
  show execRateRaise g s = _
  simp only [execRateRaise, whenLive, acts, low, on, decide_true, Bool.and_self, if_true]
  rfl

/-- A group whose rate an echo cuts, its bucket settled (R280). -/
def echoNoted (s : State) (g : Nat) : State :=
  bucketPut (regCount s 0x90006C) { bucketNow s g with raiseFrom := s.osc, lastCut := some s.osc }

theorem echoNoted_bucket : (bucketOf (echoNoted s g) g).raiseFrom = s.osc ∧ (bucketOf (echoNoted s g) g).lastCut = some s.osc := by
  have put : bucketOf (echoNoted s g) g = { bucketNow s g with raiseFrom := s.osc, lastCut := some s.osc } :=
    bucketOf_bucketPut (bucketOf_group s g)
  rw [put]
  exact ⟨rfl, rfl⟩

theorem echoFor_entry {dest path : Nat} {ports : List Nat} (route : routeLookup s dest = .entry ports path g) :
    echoFor s dest = echoOn s g := by
  simp only [echoFor, route]

/-- An echo cuts the rate of a group that has had no cut: by the factor of the register, down to RMIN (R280). -/
theorem echoOn_cuts (on : bitOf 0 (regGet s 0x900040) = true) (first : (bucketOf s g).lastCut = none) :
    echoOn s g = regPutBits (echoNoted s g) (rateReg g) 15 0
      (max (regBits s 0x900044 31 16) (regBits s (rateReg g) 15 0 * (256 - regBits s 0x900040 15 8) / 256)) := by
  have other {off : Nat} (apart : off ≠ 0x90006C) : regGet (regCount s 0x90006C) off = regGet s off := regGet_regPut_other s _ apart
  have bits {off : Nat} (apart : off ≠ 0x90006C) (b : Bucket) (hi lo : Nat) :
      regBits (bucketPut (regCount s 0x90006C) b) off hi lo = regBits s off hi lo := congrArg (bitsOf hi lo) (other apart)
  have level : bucketNow (regCount s 0x90006C) g = bucketNow s g := by
    have rate (h : Nat) (low : 0x901000 + 4 * h ≠ 0x90006C) : rateOf (regCount s 0x90006C) h = rateOf s h := by
      simp only [rateOf, regBits, other low, other (show 0x900040 ≠ 0x90006C by decide), other (show 0x900044 ≠ 0x90006C by decide)]
    have own : (bucketOf (regCount s 0x90006C) g) = bucketOf s g := rfl
    simp only [bucketNow, bucketLevel, own, rate _ (show 0x901000 + 4 * (bucketOf s g).group ≠ 0x90006C by omega)]
    rfl
  have uncut : (bucketNow s g).lastCut = none := first
  simp only [echoOn, other (show 0x900040 ≠ 0x90006C by decide), on, level, uncut, Bool.not_true, Bool.false_eq_true, if_false, if_true]
  rw [bits (show 0x900044 ≠ 0x90006C by decide), bits (show 0x901000 + 4 * g ≠ 0x90006C by omega),
    bits (show 0x900040 ≠ 0x90006C by decide)]
  rfl

/-! The bucket (R280). -/

theorem fepPump_down {p : Nat} {c : Port} (here : s.fep.ports[p]? = some c) (down : c.up = false) : fepPump s p = s := by
  simp only [fepPump, here, down, Bool.not_false, Bool.true_or, if_true]

/-- Ports that are down drive nothing. -/
theorem fepPumpAll_down (ports : s.fep.ports = [{}, {}, {}, {}]) : fepPumpAll s = s := by
  have idle (p : Nat) (low : p < 4) : fepPump s p = s := by
    refine fepPump_down (c := {}) ?_ rfl
    rw [ports]
    interval_cases p <;> rfl
  simp only [fepPumpAll, List.foldl_cons, List.foldl_nil, idle 0 (by decide), idle 1 (by decide), idle 2 (by decide),
    idle 3 (by decide)]

theorem bucketNow_level (s : State) (g : Nat) : (bucketNow s g).level =
    min 4160000 ((bucketOf s g).level + ((16 * rateOf s g * (s.osc - (bucketOf s g).since) : Nat) : Int)) := by
  show bucketLevel s (bucketOf s g) = _
  rw [bucketLevel, bucketOf_group]

/-- The state at the count at which a group's bucket has bucketRefilled (R280). -/
def bucketRefilled (s : State) (g : Nat) : State :=
  let w := clockAt s (s.osc + ceilDiv (-(bucketNow s g).level).toNat (16 * rateOf s g))
  bucketPut w (bucketNow (bucketPut w (bucketNow s g)) g)

section
variable (empty : (bucketNow s g).level < 0) (fills : 0 < rateOf s g)
include empty fills

theorem exec_refill (acts : live s = true) (ports : s.fep.ports = [{}, {}, {}, {}]) :
    exec (.tokenBucketRefill g) s = .next (bucketRefilled s g) := by
  have low : ¬(bucketNow s g).level ≥ 0 := by omega
  have rate : ¬16 * rateOf s g = 0 := by omega
  have idle : fepPumpAll (bucketRefilled s g) = bucketRefilled s g := fepPumpAll_down ports
  show execTokenBucketRefill g s = _
  simp only [execTokenBucketRefill, whenLive, acts, low, rate, if_true, if_false]
  exact congrArg Host.Outcome.next idle

theorem bucketRefilled_later : s.osc < (bucketRefilled s g).osc := by
  have covers := ceilDiv_covers (n := (-(bucketNow s g).level).toNat) (b := 16 * rateOf s g) (by omega)
  have positive : 0 < ceilDiv (-(bucketNow s g).level).toNat (16 * rateOf s g) := by
    refine Nat.pos_of_ne_zero fun none => ?_
    rw [none] at covers
    omega
  show s.osc < s.osc + _
  omega

theorem bucketRefilled_level : 0 ≤ (bucketNow (bucketRefilled s g) g).level := by
  have covers := ceilDiv_covers (n := (-(bucketNow s g).level).toNat) (b := 16 * rateOf s g) (by omega)
  generalize count : ceilDiv (-(bucketNow s g).level).toNat (16 * rateOf s g) = n at covers
  have group (u : State) : (bucketNow u g).group = g := bucketOf_group u g
  -- the bucket as it stood, at the later count
  have settled : 0 ≤ (bucketNow (bucketPut (clockAt s (s.osc + n)) (bucketNow s g)) g).level := by
    rw [bucketNow_level, bucketOf_bucketPut (group s)]
    have time : (clockAt s (s.osc + n)).osc - (bucketNow s g).since = n := Nat.add_sub_cancel_left ..
    have rate : rateOf (bucketPut (clockAt s (s.osc + n)) (bucketNow s g)) g = rateOf s g := rfl
    show 0 ≤ min 4160000 ((bucketNow s g).level + ((16 * rateOf _ g * ((clockAt s (s.osc + n)).osc - _) : Nat) : Int))
    rw [time, rate]
    omega
  rw [bucketNow_level, bucketRefilled, count, bucketOf_bucketPut (group _)]
  exact le_min (by decide) (Int.add_nonneg settled (Int.natCast_nonneg _))

end

end

end Sys2Proof.Machine
end

section
/-! Requests and rates in time, and packets for the Steward (R270, R279, R280, R283, R287). -/
namespace Sys2Proof.Machine

section
variable {s : State}

/-! A resource that nobody has reserved (R283). -/

theorem claimEntry_takes {res free : Nat} {k : Packet} (open' : s.fep.resv = []) (room : 0 < free) :
    claimEntry s res free k = (true, s) := by
  simp only [claimEntry, open', List.find?_nil, room, if_true]

theorem claimEntry_reserves {res : Nat} {k : Packet} (open' : s.fep.resv = []) : claimEntry s res 0 k =
    (false, { s with fep := { s.fep with resv := [(res, k.src, k.tag, k.age, s.osc)] } }) := by
  simp only [claimEntry, open', List.find?_nil, dropFirst, Nat.lt_irrefl, if_false]

/-! The rates that the commands leave. -/

section
variable {g : Nat} (canon : Canon s)
include canon

/-- A rise ends at RMAX (R280). -/
theorem rateRaise_rate {w : State} (kept : Keeps s w) : let v := min (regBits s 0x900044 15 0) (regBits s (rateReg g) 15 0 + regBits s 0x900048 15 0)
    regBits (regPutBits (raiseRestarted w g) (rateReg g) 15 0 v) (rateReg g) 15 0 = v :=
  rate_put (bucketPut_canon (kept.canon canon) _) (Nat.lt_of_le_of_lt (min_le_left ..) (bitsOf_lt 15 0 _))

/-- A cut ends at RMIN and never raises a rate beyond its sixteen bits (R280). -/
theorem echoOn_rate : let v := max (regBits s 0x900044 31 16) (regBits s (rateReg g) 15 0 * (256 - regBits s 0x900040 15 8) / 256)
    regBits (regPutBits (echoNoted s g) (rateReg g) 15 0 v) (rateReg g) 15 0 = v := by
  refine rate_put (bucketPut_canon ((regCount_keeps (Keeps.refl s)).canon canon) _) (Nat.max_lt.2 ⟨bitsOf_lt 31 16 _, ?_⟩)
  have rate : regBits s (rateReg g) 15 0 < 2 ^ 16 := bitsOf_lt 15 0 _
  refine Nat.lt_of_le_of_lt (Nat.div_le_of_le_mul ?_) rate
  rw [Nat.mul_comm 256]
  exact Nat.mul_le_mul_left _ (Nat.sub_le ..)

/-- An echo is counted (R279). -/
theorem echoOn_count (v : Nat) :
    regGet (regPutBits (echoNoted s g) (rateReg g) 15 0 v) 0x90006C = min (regGet s 0x90006C + 1) 0xFFFFFFFF := by
  have apart : 0x90006C ≠ rateReg g := by rw [rateReg]; omega
  have counted : regGet (echoNoted s g) 0x90006C = min (regGet s 0x90006C + 1) 0xFFFFFFFF % 2 ^ 32 := regGet_regPut_same canon ..
  rw [regGet_regPutBits_other _ _ _ _ apart, counted]
  exact Nat.mod_eq_of_lt (by omega)

end

end

/-- Settles O37: each command by the request, the group or the resource that it names. -/
theorem ratesAndRetries : Obligations.RatesAndRetries := by
  unfold Obligations.RatesAndRetries
  intro s canon acts
  refine ⟨fun tag t r found retried => ?_, fun tag r found limited absent => ?_, fun res src tag age t held =>
    exec_reservationLapse acts held, fun g low on => ?_, fun g empty fills ports => ?_, fun port k waits kind own open' => ?_⟩
  · intro gap u k
    have run := exec_retrySend acts found retried
    refine ⟨fun ports path rcg route => ?_, fun route => ?_⟩
    · have there : routeLookup u k.dest = .entry ports path rcg := route
      exact run.trans (congrArg (fun q : State × Bool => Host.Outcome.next (if q.2 then q.1 else endReq q.1 r .unreachable))
        (fepQueue_entry there))
    · have there : routeLookup u k.dest = .invalid := route
      exact run.trans (congrArg (fun q : State × Bool => Host.Outcome.next (if q.2 then q.1 else endReq q.1 r .unreachable))
        (fepQueue_invalid there))
  · intro u late
    have run := exec_rspTimeout acts found limited absent
    refine ⟨fun request => run.trans (congrArg _ (if_pos request)), fun other => run.trans (congrArg _ ?_)⟩
    exact if_neg (Bool.eq_false_iff.1 other)
  · intro rate
    refine ⟨?_, fun port k waits kind own ports path route first => ?_⟩
    · exact ⟨_, exec_rateRaise acts low on, rateRaise_rate canon (clockAt_keeps (le_max_left ..)), le_max_right ..,
        raiseRestarted_from⟩
    · have there : routeLookup (packetTaken s port k) (bitsOf 18 0 (leNat k.body)) = .entry ports path g := by
        rw [bitsOf_low]
        exact route
      have run : exec (.congEcho port k) s = .next (echoFor (packetTaken s port k) (bitsOf 18 0 (leNat k.body))) :=
        congrArg Host.Outcome.next (onPacket_own acts waits own kind)
      have cut := echoOn_cuts (s := packetTaken s port k) on first
      have taken : Canon (packetTaken s port k) := packetTaken_keeps.canon canon
      obtain ⟨from', last⟩ := echoNoted_bucket (s := packetTaken s port k) (g := g)
      rw [echoFor_entry there, cut] at run
      exact ⟨_, run, from', last, echoOn_rate taken, echoOn_count taken _⟩
  · exact ⟨_, exec_refill empty fills acts ports, bucketRefilled_later empty fills, bucketRefilled_level empty fills⟩
  · intro u
    have open'' : u.fep.resv = [] := open'
    have run : exec (.mgmt port k) s = .next (let c := claimEntry u 1 (Config.mgmtDepth - s.mgmt.length) k
        if c.1 then { c.2 with mgmt := c.2.mgmt ++ [k] } else answerRetry c.2 k) :=
      congrArg Host.Outcome.next (onPacket_own acts waits own kind)
    refine ⟨fun room => ?_, fun full => ?_⟩
    · rw [claimEntry_takes open'' (Nat.sub_pos_of_lt room)] at run
      exact run
    · rw [Nat.sub_eq_zero_of_le full, claimEntry_reserves open''] at run
      exact run

end Sys2Proof.Machine
end

section
/-! What no command takes away: the queue, the parameters, the fuses that are blown, and the oscillator count (R295, R328,
R342, R359). -/
namespace Sys2Proof.Machine

/-- What the fuses keep of what they were: every bit that is blown, the identity and the hardware type (R342). -/
structure FusesStay (f g : Fuses) : Prop where
  programmed : g.programmed &&& f.programmed = f.programmed
  revoked : g.revoked &&& f.revoked = f.revoked
  svn : g.svnBits &&& f.svnBits = f.svnBits
  keys : ∀ (i : Nat) (k : BitVec 384), f.keys[i]? = some k → ∃ k', g.keys[i]? = some k' ∧ k' &&& k = k
  uid : g.uid = f.uid
  hwType : g.hwType = f.hwType

theorem or_and_self_left {n : Nat} (x y : BitVec n) : (x ||| y) &&& x = x := by
  ext i
  simp only [BitVec.getElem_and, BitVec.getElem_or]
  cases x[i] <;> simp

theorem and_of_or_eq {n : Nat} {x y : BitVec n} (h : y ||| x = y) : y &&& x = x := by
  rw [← h, BitVec.or_comm, or_and_self_left]

theorem FusesStay.refl (f : Fuses) : FusesStay f f :=
  ⟨BitVec.and_self, BitVec.and_self, BitVec.and_self, fun _ k listed => ⟨k, listed, BitVec.and_self⟩, rfl, rfl⟩

/-- A key slot with more bits blown keeps those that were, and every other slot is as it was. -/
theorem keys_blown {keys : List (BitVec 384)} {slot i : Nat} {k : BitVec 384} (more : BitVec 384) (listed : keys[i]? = some k) :
    ∃ k', (keys.set slot ((keys[slot]?).getD 0 ||| more))[i]? = some k' ∧ k' &&& k = k := by
  by_cases same : slot = i
  · subst same
    obtain ⟨inside, -⟩ := List.getElem?_eq_some_iff.1 listed
    exact ⟨k ||| more, by rw [List.getElem?_set_self inside, listed, Option.getD_some], or_and_self_left k more⟩
  · exact ⟨k, by rw [List.getElem?_set_ne same, listed], BitVec.and_self⟩

/-- The end of a fuse operation takes no bit from a key slot, and leaves what the part is alone. -/
theorem execFuseProgrammingEnd_keys {ok : Bool} {s u : State} (ran : execFuseProgrammingEnd ok s = .next u) :
    (∀ (i : Nat) (k : BitVec 384), s.fuses.keys[i]? = some k → ∃ k', u.fuses.keys[i]? = some k' ∧ k' &&& k = k) ∧
      u.fuses.uid = s.fuses.uid ∧ u.fuses.hwType = s.fuses.hwType := by
  obtain rfl : _ = u := Host.Outcome.next.inj ran
  have same : FusesStay s.fuses s.fuses := .refl s.fuses
  unfold whenLive
  split
  · dsimp only
    split
    · exact ⟨same.keys, rfl, rfl⟩
    · next op slot hash _ =>
      have drawn (b : Bool) : (if b = true then s else (draw s 7).2).fuses = s.fuses := by
        cases b <;> rfl
      simp only [regPutBits_fuses, drawn]
      split
      · exact ⟨fun i k listed => keys_blown _ listed, rfl, rfl⟩
      · exact ⟨same.keys, rfl, rfl⟩
      · exact ⟨same.keys, rfl, rfl⟩
  · exact ⟨same.keys, rfl, rfl⟩

/-- Settles O59: PORESET_N and the end of a fuse operation by their own lemmas, every other command by `exec_keeps`. -/
theorem commandsKeepTheRest : Obligations.CommandsKeepTheRest := by
  unfold Obligations.CommandsKeepTheRest
  intro c s u ran
  by_cases por : c = .poresetN
  · subst por
    obtain ⟨queue, params, fuses, -⟩ := execPoresetN_keeps ran
    have stay : FusesStay s.fuses u.fuses := fuses ▸ .refl s.fuses
    exact ⟨queue, params, fun _ => fuses, stay.programmed, stay.revoked, stay.svn, stay.keys, stay.uid, stay.hwType,
      fun other => absurd rfl other⟩
  by_cases fuse : ∃ ok, c = .fuseProgrammingEnd ok
  · obtain ⟨ok, rfl⟩ := fuse
    obtain ⟨f, keeps, grown⟩ := execFuseProgrammingEnd_keeps ran
    obtain ⟨keys, uid, hwType⟩ := execFuseProgrammingEnd_keys ran
    have now : u.fuses = f := keeps.fuses
    rw [← now] at grown
    exact ⟨keeps.queue, keeps.params, fun other => absurd rfl (other ok), and_of_or_eq grown.programmed,
      and_of_or_eq grown.revoked, and_of_or_eq grown.svn, keys, uid, hwType, fun _ => keeps.clock⟩
  · have keeps := (exec_keeps c por fun ok same => fuse ⟨ok, same⟩).out u ran
    have stay : FusesStay s.fuses u.fuses := keeps.fuses ▸ .refl s.fuses
    exact ⟨keeps.queue, keeps.params, fun _ => keeps.fuses, stay.programmed, stay.revoked, stay.svn, stay.keys, stay.uid,
      stay.hwType, fun _ => keeps.clock⟩

end Sys2Proof.Machine
end

section
/-! Bit fields that a register keeps in their ranges (R308). -/
namespace Sys2Proof.Machine

section
variable {hi lo : Nat} (order : lo ≤ hi)
include order

/-- A word is what lies above a field, the field, and what lies below. -/
theorem word_split (n : Nat) : n = n / 2 ^ (hi + 1) * 2 ^ (hi + 1) + bitsOf hi lo n * 2 ^ lo + n % 2 ^ lo := by
  have split : (2 : Nat) ^ (hi + 1) = 2 ^ (hi + 1 - lo) * 2 ^ lo := by rw [← pow_add]; congr 1; omega
  have upper := Nat.div_add_mod' (n / 2 ^ lo) (2 ^ (hi + 1 - lo))
  rw [Nat.div_div_eq_div_mul, Nat.mul_comm (2 ^ lo), ← split] at upper
  rw [bitsOf, split, ← Nat.mul_assoc, ← Nat.add_mul, ← split, upper, Nat.div_add_mod']

/-- A field kept in its range is the field replaced by the nearest value of the range. -/
theorem clampField_eq {least most : Nat} (low : least < 2 ^ (hi + 1 - lo)) (high : most < 2 ^ (hi + 1 - lo)) (n : Nat) :
    clampField hi lo least most n = setBits hi lo n (max least (min most (bitsOf hi lo n))) := by
  have whole := word_split order n
  have clamped : clampField hi lo least most n =
    n - bitsOf hi lo n * 2 ^ lo + max least (min most (bitsOf hi lo n)) * 2 ^ lo := rfl
  rw [clamped, setBits, Nat.mod_eq_of_lt (max_lt low (min_lt_of_left_lt high))]
  omega

end

/-- Two fields of a word, the higher one above the lower, each kept in its range. -/
theorem clampFields_bits {hi lo h least most least' most' : Nat} (order : lo ≤ hi) (above : h < lo)
    (low : least < 2 ^ (hi + 1 - lo)) (high : most < 2 ^ (hi + 1 - lo)) (low' : least' < 2 ^ (h + 1))
    (high' : most' < 2 ^ (h + 1)) (n : Nat) :
    bitsOf h 0 (clampField hi lo least most (clampField h 0 least' most' n)) = max least' (min most' (bitsOf h 0 n)) ∧
      bitsOf hi lo (clampField hi lo least most (clampField h 0 least' most' n)) = max least (min most (bitsOf hi lo n)) := by
  rw [clampField_eq order low high, clampField_eq (Nat.zero_le h) low' high', bitsOf_setBits_same order,
    bitsOf_setBits_below order above (Nat.zero_le h), bitsOf_setBits_same (Nat.zero_le h),
    bitsOf_setBits_above (Nat.zero_le h) above]
  exact ⟨Nat.mod_eq_of_lt (max_lt low' (min_lt_of_left_lt high')), Nat.mod_eq_of_lt (max_lt low (min_lt_of_left_lt high))⟩

/-- PTM_VLIMIT as it is kept: VMIN and VMAX each at the nearest voltage from 650 to 950 mV. -/
theorem regClamp_vlimit (n : Nat) : bitsOf 11 0 (regClamp 0xB00004 n) = max 650 (min 950 (n % 4096)) ∧
    bitsOf 27 16 (regClamp 0xB00004 n) = max 650 (min 950 (n / 65536 % 4096)) := by
  have vmin : bitsOf 11 0 n = n % 4096 := bitsOf_low 11 n
  rw [← vmin]
  exact clampFields_bits (by decide) (by decide) (by decide) (by decide) (by decide) (by decide) n

/-- PTM_POWER_CAP as it is kept: CAP from 160 to 1,200, and RAMP from 1 to 160. -/
theorem regClamp_cap {n : Nat} (small : n < 2 ^ 32) :
    bitsOf 15 0 (regClamp 0xB00014 n) = max 160 (min 1200 (n % 65536)) ∧
      bitsOf 31 16 (regClamp 0xB00014 n) = max 1 (min 160 (n / 65536)) := by
  have ramp : bitsOf 31 16 n = n / 65536 := Nat.mod_eq_of_lt (by omega)
  have cap : bitsOf 15 0 n = n % 65536 := bitsOf_low 15 n
  rw [← cap, ← ramp]
  exact clampFields_bits (by decide) (by decide) (by decide) (by decide) (by decide) (by decide) n

/-- A field of the register that takes a word is that of the word. -/
theorem regBits_regPut_same {s : State} (canon : Canon s) {off hi lo : Nat} (order : lo ≤ hi) (inside : hi < 32) (v : Nat) :
    regBits (regPut s off v) off hi lo = bitsOf hi lo v := by
  have width : (2 : Nat) ^ 32 = 2 ^ lo * 2 ^ (32 - lo) := by rw [← pow_add]; congr 1; omega
  rw [regBits, regGet_regPut_same canon, bitsOf, bitsOf, width, Nat.mod_mul_right_div_self,
    Nat.mod_mod_of_dvd _ (Nat.pow_dvd_pow 2 (by omega))]

theorem regBits_regPut_other (s : State) {off o : Nat} (v : Nat) (apart : o ≠ off) (hi lo : Nat) :
    regBits (regPut s off v) o hi lo = regBits s o hi lo := congrArg (bitsOf hi lo) (regGet_regPut_other s v apart)

theorem regBits_regPutBits_other (s : State) {off o : Nat} (v : Nat) (apart : o ≠ off) (hi lo h l : Nat) :
    regBits (regPutBits s off h l v) o hi lo = regBits s o hi lo := regBits_regPut_other s _ apart hi lo

end Sys2Proof.Machine
end

section
/-! What the operations of the power controller leave: its reports and events, and the end of Gale (R300, R306, R308, R325). -/
namespace Sys2Proof.Machine

variable {s : State}

theorem regPut_canon (canon : Canon s) (off v : Nat) : Canon (regPut s off v) := (regPut_keeps (Keeps.refl s)).canon canon

theorem regPutBits_canon (canon : Canon s) (off hi lo v : Nat) : Canon (regPutBits s off hi lo v) := regPut_canon canon ..

/-- Registers and their parity are all that an operation changed. -/
def OnlyRegs (s u : State) : Prop := ∃ regs cfgBad, u = { s with regs, cfgBad }

theorem OnlyRegs.refl (s : State) : OnlyRegs s s := ⟨_, _, rfl⟩

theorem OnlyRegs.put {u : State} (h : OnlyRegs s u) (off v : Nat) : OnlyRegs s (regPut u off v) := by
  obtain ⟨_, _, rfl⟩ := h
  exact ⟨_, _, rfl⟩

theorem OnlyRegs.putBits {u : State} (h : OnlyRegs s u) (off hi lo v : Nat) : OnlyRegs s (regPutBits u off hi lo v) := h.put ..

theorem OnlyRegs.trans {u w : State} (h : OnlyRegs s u) (k : OnlyRegs u w) : OnlyRegs s w := by
  obtain ⟨_, _, rfl⟩ := h
  obtain ⟨_, _, rfl⟩ := k
  exact ⟨_, _, rfl⟩

theorem OnlyRegs.power {u : State} (h : OnlyRegs s u) : u.power = s.power := by
  obtain ⟨_, _, rfl⟩ := h
  rfl

/-! Reports (R308). -/

theorem boolBit_odd (b : Bool) : (boolBit b % 2 == 1) = b := by cases b <;> rfl

/-- The registers that report the state of the power controller. -/
def reportRegs : List Nat := [0xB00020, 0xB00024, 0xB00040, 0xB00044, 0xB00048, 0xB0004C]

theorem ptmSync_onlyRegs (s : State) : OnlyRegs s (ptmSync s) := by
  unfold ptmSync
  extract_lets v st band ramping pacing cap volt heat' credit' remain
  have status : OnlyRegs s cap := ((((OnlyRegs.refl s).putBits ..).putBits ..).putBits ..).putBits ..
  exact ((((status.putBits ..).put ..).put ..).put ..).put ..

theorem ptmSync_reg {o : Nat} (other : o ∉ reportRegs) : regGet (ptmSync s) o = regGet s o := by
  simp only [reportRegs, List.mem_cons, List.not_mem_nil, or_false, not_or] at other
  obtain ⟨notStatus, notVolt, notHeat, notCredit, notRemain, notTotal⟩ := other
  unfold ptmSync
  extract_lets v st band ramping pacing cap volt heat' credit' remain
  calc regGet (regPut remain 0xB0004C _) o
    _ = regGet remain o := regGet_regPut_other _ _ notTotal
    _ = regGet credit' o := regGet_regPut_other _ _ notRemain
    _ = regGet heat' o := regGet_regPut_other _ _ notCredit
    _ = regGet volt o := regGet_regPut_other _ _ notHeat
    _ = regGet cap o := regGet_regPutBits_other _ _ _ _ notVolt
    _ = regGet pacing o := regGet_regPutBits_other _ _ _ _ notStatus
    _ = regGet ramping o := regGet_regPutBits_other _ _ _ _ notStatus
    _ = regGet band o := regGet_regPutBits_other _ _ _ _ notStatus
    _ = regGet s o := regGet_regPutBits_other _ _ _ _ notStatus

/-- PTM_STATUS.RAMPING says whether eff differs from CAP, and PTM_MEAS.POWER stays, VOLT alone being written. -/
theorem ptmSync_fields (canon : Canon s) :
    bitOf 2 (regGet (ptmSync s) 0xB00020) = (s.power.eff != 1000 * regBits s 0xB00014 15 0) ∧
      regBits (ptmSync s) 0xB00024 15 0 = regBits s 0xB00024 15 0 := by
  unfold ptmSync
  extract_lets v st band ramping pacing cap volt heat' credit' remain
  have canonBand : Canon band := regPutBits_canon canon ..
  have canonRamping : Canon ramping := regPutBits_canon canonBand ..
  have canonPacing : Canon pacing := regPutBits_canon canonRamping ..
  have canonCap : Canon cap := regPutBits_canon canonPacing ..
  have later {o : Nat} (other : o ∉ [0xB00040, 0xB00044, 0xB00048, 0xB0004C]) :
      regGet (regPut remain 0xB0004C (min (remain.power.galeUs / 1000000) 0xFFFFFFFF)) o = regGet volt o := by
    simp only [List.mem_cons, List.not_mem_nil, or_false, not_or] at other
    obtain ⟨notHeat, notCredit, notRemain, notTotal⟩ := other
    calc regGet (regPut remain 0xB0004C _) o
      _ = regGet remain o := regGet_regPut_other _ _ notTotal
      _ = regGet credit' o := regGet_regPut_other _ _ notRemain
      _ = regGet heat' o := regGet_regPut_other _ _ notCredit
      _ = regGet volt o := regGet_regPut_other _ _ notHeat
  constructor
  · calc bitOf 2 (regGet (regPut remain 0xB0004C _) st)
      _ = bitOf 2 (regGet volt st) := congrArg (bitOf 2) (later (by decide))
      _ = bitOf 2 (regGet cap st) := congrArg (bitOf 2) (regGet_regPutBits_other _ _ _ _ (by decide))
      _ = bitOf 2 (setBits 31 16 (regGet pacing st) _) :=
        congrArg (bitOf 2) (regGet_regPutBits_same canonPacing _ (by decide) (by decide))
      _ = bitOf 2 (regGet pacing st) := bitOf_setBits_other _ _ (by decide) (by decide)
      _ = bitOf 2 (setBits 3 3 (regGet ramping st) _) :=
        congrArg (bitOf 2) (regGet_regPutBits_same canonRamping _ (by decide) (by decide))
      _ = bitOf 2 (regGet ramping st) := bitOf_setBits_other _ _ (by decide) (by decide)
      _ = bitOf 2 (setBits 2 2 (regGet band st) (boolBit (s.power.eff != 1000 * regBits band 0xB00014 15 0))) :=
        congrArg (bitOf 2) (regGet_regPutBits_same canonBand _ (by decide) (by decide))
      _ = (boolBit (s.power.eff != 1000 * regBits band 0xB00014 15 0) % 2 == 1) := bitOf_setBits_same ..
      _ = (s.power.eff != 1000 * regBits band 0xB00014 15 0) := boolBit_odd _
      _ = (s.power.eff != 1000 * regBits s 0xB00014 15 0) := by rw [regBits_regPutBits_other _ _ (by decide)]
  · calc regBits (regPut remain 0xB0004C _) 0xB00024 15 0
      _ = regBits volt 0xB00024 15 0 := congrArg (bitsOf 15 0) (later (by decide))
      _ = bitsOf 15 0 (setBits 27 16 (regGet cap 0xB00024) _) :=
        congrArg (bitsOf 15 0) (regGet_regPutBits_same canonCap _ (by decide) (by decide))
      _ = regBits cap 0xB00024 15 0 := bitsOf_setBits_below (by decide) (by decide) (by decide)
      _ = regBits pacing 0xB00024 15 0 := regBits_regPutBits_other _ _ (by decide) ..
      _ = regBits ramping 0xB00024 15 0 := regBits_regPutBits_other _ _ (by decide) ..
      _ = regBits band 0xB00024 15 0 := regBits_regPutBits_other _ _ (by decide) ..
      _ = regBits s 0xB00024 15 0 := regBits_regPutBits_other _ _ (by decide) ..

/-! Events (R325). -/

theorem ptmEvent_onlyRegs (s : State) (b : Nat) : OnlyRegs s (ptmEvent s b) := by
  unfold ptmEvent
  split
  · exact .refl s
  · exact (OnlyRegs.refl s).putBits ..

theorem ptmEvent_reg {o : Nat} (b : Nat) (other : o ≠ 0xC00040) : regGet (ptmEvent s b) o = regGet s o := by
  unfold ptmEvent
  split
  · rfl
  · exact regGet_regPutBits_other s b b 1 other

theorem ptmEvent_sets (canon : Canon s) (acts : s.boot.stopped = false) (open' : eeuShut s = false) (b : Nat) (low : b < 32) :
    bitOf b (regGet (ptmEvent s b) 0xC00040) = true := by
  rw [ptmEvent, acts, open', Bool.or_self, if_neg (by decide), setEvent,
    regGet_regPutBits_same canon 1 (Nat.le_refl b) low, bitOf_setBits_same]
  rfl

theorem ptmEvent_others (canon : Canon s) {b c : Nat} (low : b < 32) (other : c ≠ b) :
    bitOf c (regGet (ptmEvent s b) 0xC00040) = bitOf c (regGet s 0xC00040) := by
  unfold ptmEvent
  split
  · rfl
  · rw [setEvent, regGet_regPutBits_same canon 1 (Nat.le_refl b) low, bitOf_setBits_other _ _ (Nat.le_refl b) (by omega)]

/-! The end of Gale (R306). -/

/-- REASON with a list of conditions set. -/
def reasonsSet (s : State) (bits : List Nat) : State := bits.foldl (fun s i => regPutBits s 0xB00030 i i 1) s

theorem reasonsSet_onlyRegs (s : State) (bits : List Nat) : OnlyRegs s (reasonsSet s bits) := by
  induction bits generalizing s with
  | nil => exact .refl s
  | cons i bits ih => exact ((OnlyRegs.refl s).putBits 0xB00030 i i 1).trans (ih _)

theorem reasonsSet_reg {o : Nat} (bits : List Nat) (other : o ≠ 0xB00030) : regGet (reasonsSet s bits) o = regGet s o := by
  induction bits generalizing s with
  | nil => rfl
  | cons i bits ih => exact ih.trans (regGet_regPutBits_other s i i 1 other)

theorem reasonsSet_canon (canon : Canon s) (bits : List Nat) : Canon (reasonsSet s bits) :=
  (foldl_keeps (Keeps.refl s) fun _ _ k => regPutBits_keeps k).canon canon

/-- Each of them is set, and no other bit of the register is lost. -/
theorem reasonsSet_sets (canon : Canon s) {bits : List Nat} (low : ∀ i ∈ bits, i < 32) {c : Nat}
    (h : c ∈ bits ∨ bitOf c (regGet s 0xB00030) = true) : bitOf c (regGet (reasonsSet s bits) 0xB00030) = true := by
  induction bits generalizing s with
  | nil => exact h.resolve_left List.not_mem_nil
  | cons i bits ih =>
    obtain ⟨here, rest⟩ := List.forall_mem_cons.1 low
    refine ih (regPutBits_canon canon 0xB00030 i i 1) rest ?_
    rw [regGet_regPutBits_same canon 1 (Nat.le_refl i) here]
    by_cases same : c = i
    · subst same
      exact .inr (bitOf_setBits_same ..)
    · rw [bitOf_setBits_other _ _ (Nat.le_refl i) (by omega)]
      exact h.imp_left fun listed => (List.mem_cons.1 listed).resolve_left same

/-- FIRST as a fallback leaves it, its lowest condition being `b`. -/
def firstSet (s : State) (first b : Nat) : State :=
  if first = 0 then regPutBits { s with power := { s.power with firstNow := true } } 0xB00030 10 8 (b + 1)
  else if s.power.firstNow then regPutBits s 0xB00030 10 8 (min first (b + 1))
  else s

theorem firstSet_eq (s : State) (first b : Nat) : ∃ regs cfgBad firstNow,
    firstSet s first b = { s with regs, cfgBad, power := { s.power with firstNow } } := by
  unfold firstSet
  split
  · exact ⟨_, _, _, rfl⟩
  · split <;> exact ⟨_, _, _, rfl⟩

theorem firstSet_reg {o : Nat} (first b : Nat) (other : o ≠ 0xB00030) : regGet (firstSet s first b) o = regGet s o := by
  unfold firstSet
  split
  · exact regGet_regPutBits_other _ 10 8 _ other
  · split
    · exact regGet_regPutBits_other _ 10 8 _ other
    · rfl

theorem canon_power (canon : Canon s) (power : Power) : Canon { s with power } :=
  ⟨canon.spm, canon.nor, canon.regs, canon.counters, canon.cntShadow, canon.voc, canon.corr, canon.trim, canon.ftab⟩

theorem firstSet_canon (canon : Canon s) (first b : Nat) : Canon (firstSet s first b) := by
  unfold firstSet
  split
  · exact regPutBits_canon (canon_power canon _) ..
  · split
    · exact regPutBits_canon canon ..
    · exact canon

theorem firstSet_reason (canon : Canon s) (first b : Nat) {i : Nat} (reason : i < 7) :
    bitOf i (regGet (firstSet s first b) 0xB00030) = bitOf i (regGet s 0xB00030) := by
  unfold firstSet
  split
  · rw [regGet_regPutBits_same (canon_power canon _) _ (by decide) (by decide), bitOf_setBits_other _ _ (by decide) (by omega)]
    rfl
  · split
    · rw [regGet_regPutBits_same canon _ (by decide) (by decide), bitOf_setBits_other _ _ (by decide) (by omega)]
    · rfl

/-- REQ as a fallback leaves it: STEADY, and CALM where it was CALM (assumption 167). -/
def requestDropped (s : State) : State := if modeReq s = 0 then s else regPutBits s 0xB00010 1 0 1

theorem requestDropped_onlyRegs (s : State) : OnlyRegs s (requestDropped s) := by
  unfold requestDropped
  split
  · exact .refl s
  · exact (OnlyRegs.refl s).putBits ..

theorem requestDropped_reg {o : Nat} (other : o ≠ 0xB00010) : regGet (requestDropped s) o = regGet s o := by
  unfold requestDropped
  split
  · rfl
  · exact regGet_regPutBits_other s 1 0 1 other

theorem requestDropped_canon (canon : Canon s) : Canon (requestDropped s) := by
  unfold requestDropped
  split
  · exact canon
  · exact regPutBits_canon canon ..

theorem modeReq_congr {u : State} (same : regGet u 0xB00010 = regGet s 0xB00010) : modeReq u = modeReq s := by
  rw [modeReq, modeReq, regBits, regBits, same]

theorem modeReq_dropped (canon : Canon s) : modeReq (requestDropped s) = min 1 (modeReq s) := by
  unfold requestDropped
  split
  · next calm => rw [calm]; rfl
  · next other =>
    have steady : modeReq (regPutBits s 0xB00010 1 0 1) = 1 := by
      rw [modeReq, regBits_regPutBits_same canon 1 (by decide) (by decide)]
      rfl
    omega

theorem fallback_cons (s : State) (b : Nat) (bits : List Nat) : fallback s (b :: bits) =
    ptmEvent (requestDropped (firstSet (reasonsSet s (b :: bits)) (regBits s 0xB00030 10 8) b)) 5 := rfl

/-- A fallback changes registers, and of the power state only whether FIRST was set in this period. -/
theorem fallback_eq (s : State) (bits : List Nat) : ∃ regs cfgBad firstNow,
    fallback s bits = { s with regs, cfgBad, power := { s.power with firstNow } } := by
  cases bits with
  | nil => exact ⟨_, _, _, rfl⟩
  | cons b bits =>
    obtain ⟨_, _, reasons⟩ := reasonsSet_onlyRegs s (b :: bits)
    obtain ⟨_, _, _, first⟩ := firstSet_eq (reasonsSet s (b :: bits)) (regBits s 0xB00030 10 8) b
    obtain ⟨_, _, told⟩ := (requestDropped_onlyRegs (firstSet (reasonsSet s (b :: bits)) (regBits s 0xB00030 10 8) b)).trans
      (ptmEvent_onlyRegs _ 5)
    rw [fallback_cons, told, first, reasons]
    exact ⟨_, _, _, rfl⟩

theorem fallback_reg {o : Nat} (bits : List Nat) (other : o ∉ [0xB00030, 0xB00010, 0xC00040]) :
    regGet (fallback s bits) o = regGet s o := by
  simp only [List.mem_cons, List.not_mem_nil, or_false, not_or] at other
  obtain ⟨reason, request, event⟩ := other
  cases bits with
  | nil => rfl
  | cons b bits =>
    rw [fallback_cons, ptmEvent_reg 5 event, requestDropped_reg request, firstSet_reg _ _ reason, reasonsSet_reg _ reason]

section
variable (canon : Canon s) {bits : List Nat}
include canon

theorem fallback_request (some' : bits ≠ []) : modeReq (fallback s bits) = min 1 (modeReq s) := by
  obtain ⟨b, bits, rfl⟩ := List.exists_cons_of_ne_nil some'
  rw [fallback_cons, modeReq_congr (ptmEvent_reg 5 (by decide)),
    modeReq_dropped (firstSet_canon (reasonsSet_canon canon _) _ _), modeReq_congr (firstSet_reg _ _ (by decide)),
    modeReq_congr (reasonsSet_reg _ (by decide))]

theorem fallback_reason (low : ∀ i ∈ bits, i < 7) {i : Nat} (listed : i ∈ bits) :
    bitOf i (regGet (fallback s bits) 0xB00030) = true := by
  obtain ⟨b, bits, rfl⟩ := List.exists_cons_of_ne_nil (List.ne_nil_of_mem listed)
  rw [fallback_cons, ptmEvent_reg 5 (by decide), requestDropped_reg (by decide),
    firstSet_reason (reasonsSet_canon canon _) _ _ (low i listed)]
  exact reasonsSet_sets canon (fun i here => (low i here).trans (by decide)) (.inl listed)

/-- Of the events it sets the power event alone. -/
theorem fallback_otherEvents (bits : List Nat) {c : Nat} (other : c ≠ 5) :
    bitOf c (regGet (fallback s bits) 0xC00040) = bitOf c (regGet s 0xC00040) := by
  cases bits with
  | nil => rfl
  | cons b bits =>
    have first := firstSet_canon (reasonsSet_canon canon (b :: bits)) (regBits s 0xB00030 10 8) b
    rw [fallback_cons, ptmEvent_others (requestDropped_canon first) (by decide) other, requestDropped_reg (by decide),
      firstSet_reg _ _ (by decide), reasonsSet_reg _ (by decide)]

theorem fallback_event (some' : bits ≠ []) (acts : s.boot.stopped = false) (open' : eeuShut s = false) :
    bitOf 5 (regGet (fallback s bits) 0xC00040) = true := by
  obtain ⟨b, bits, rfl⟩ := List.exists_cons_of_ne_nil some'
  have reasons := reasonsSet_canon canon (b :: bits)
  have first := firstSet_canon reasons (regBits s 0xB00030 10 8) b
  obtain ⟨_, _, told⟩ := reasonsSet_onlyRegs s (b :: bits)
  obtain ⟨_, _, _, from'⟩ := firstSet_eq (reasonsSet s (b :: bits)) (regBits s 0xB00030 10 8) b
  obtain ⟨_, _, dropped⟩ := requestDropped_onlyRegs (firstSet (reasonsSet s (b :: bits)) (regBits s 0xB00030 10 8) b)
  rw [fallback_cons]
  refine ptmEvent_sets (requestDropped_canon first) ?_ ?_ 5 (by decide)
  · rw [dropped, from', told]
    exact acts
  · rw [eeuShut, regBits, requestDropped_reg (by decide), firstSet_reg _ _ (by decide), reasonsSet_reg _ (by decide)]
    exact open'

end

end Sys2Proof.Machine
end

section
/-! Requests to the power controller: the mode, the cap and the supply limits (R297, R300, R302, R306, R308). -/
namespace Sys2Proof.Machine

variable {s : State} {m : Master}

/-- A master that is admitted to a register finds the cluster acting (R317, R331, R395). -/
theorem Admits.live {kind : AccKind} {off : Nat} (h : Admits s m kind off) : live s = true := by
  have admitted := h.admitted
  cases m with
  | steward | debug =>
    rw [Bool.and_eq_true] at admitted
    exact admitted.1
  | agent src =>
    simp only [inService, serving, Bool.or_eq_true, Bool.and_eq_true] at admitted
    rcases admitted with ⟨⟨acts, -⟩, -⟩ | ⟨⟨acts, -⟩, -⟩ <;> exact acts

theorem live_unstopped (h : live s = true) : s.boot.stopped = false := by
  rw [Machine.live, Bool.and_eq_true, Bool.not_eq_true'] at h
  exact h.2

/-- A write of a register that is open to every master and at which a command acts does what the command does (R6, R308). -/
theorem masterWrite_open {off v : Nat} {u : State} (decoded : regDecode off = off) (notInd : indData? off = none)
    (notSpecial : specialOf off = .none) (notAddr : off < 0xD00000) (h : Admits s m .write off)
    (takes : openWrite s off v = some u) : masterWrite s m off v = u := by
  have low : decide (0xD00000 ≤ off) = false := decide_eq_false (Nat.not_le.2 notAddr)
  rw [masterWrite_admits h]
  simp only [regWrite, decoded, notInd, low, Bool.false_and, Bool.false_eq_true, if_false, directWrite, notSpecial, takes]

/-! PTM_MODE (R302). -/

theorem exec_ptmMode (admits : Admits s m .write 0xB00010) (v : Word) :
    exec (.ptmMode m v) s = .next (modeWrite s v.toNat) :=
  congrArg Host.Outcome.next (masterWrite_open rfl rfl rfl (by decide) admits rfl)

/-- What is against a request of GALE, by its number in PTM_STATUS.WHY. -/
def GaleBarred (s : State) (k : Nat) : Prop :=
  (k = 1 ∧ credit s < 50000) ∨ (k = 2 ∧ budget s < heat s + 50000) ∨ (k = 3 ∧ s.power.alert = true) ∨
    (k = 4 ∧ regBits s 0xB00034 11 0 ≤ s.power.tempQ) ∨ (k = 5 ∧ vMax s < 950)

/-- The number that a refusal reports, 0 where nothing is against the request. -/
def galeWhy (s : State) : Nat :=
  if credit s < 50000 then 1
  else if heat s + 50000 > budget s then 2
  else if s.power.alert then 3
  else if s.power.tempQ ≥ regBits s 0xB00034 11 0 then 4
  else if vMax s < 950 then 5
  else 0

theorem galeWhy_cases (s : State) : (galeWhy s = 0 ∧ ∀ k, ¬GaleBarred s k) ∨
    (galeWhy s ≠ 0 ∧ galeWhy s < 8 ∧ GaleBarred s (galeWhy s)) := by
  unfold galeWhy
  split
  · next wear => exact .inr ⟨by decide, by decide, .inl ⟨rfl, wear⟩⟩
  split
  · next warm => exact .inr ⟨by decide, by decide, .inr (.inl ⟨rfl, warm⟩)⟩
  split
  · next alert => exact .inr ⟨by decide, by decide, .inr (.inr (.inl ⟨rfl, alert⟩))⟩
  split
  · next hot => exact .inr ⟨by decide, by decide, .inr (.inr (.inr (.inl ⟨rfl, hot⟩)))⟩
  split
  · next limited => exact .inr ⟨by decide, by decide, .inr (.inr (.inr (.inr ⟨rfl, limited⟩)))⟩
  · next wear warm alert hot limited =>
    refine .inl ⟨rfl, fun k => ?_⟩
    rintro (⟨-, h⟩ | ⟨-, h⟩ | ⟨-, h⟩ | ⟨-, h⟩ | ⟨-, h⟩)
    exacts [wear h, warm h, alert h, hot h, limited h]

theorem modeWrite_gale {n : Nat} (gale : n % 4 = 2) : modeWrite s n =
    if galeWhy s = 0 then regPutBits (regPut s 0xB00010 n) 0xB00020 4 4 0
    else regPutBits (regPutBits (regPut s 0xB00010 (n - 1)) 0xB00020 4 4 1) 0xB00020 7 5 (galeWhy s) := by
  rw [modeWrite, if_pos gale]
  rfl

theorem modeWrite_other {n : Nat} (other : n % 4 ≠ 2) :
    modeWrite s n = regPut s 0xB00010 (if n % 4 = 3 then n - 2 else n) := if_neg other

theorem modeWrite_power (s : State) (n : Nat) : (modeWrite s n).power = s.power := by
  by_cases gale : n % 4 = 2
  · rw [modeWrite_gale gale]
    split <;> rfl
  · rw [modeWrite_other gale]
    rfl

section
variable (canon : Canon s)
include canon

theorem modeWrite_granted {n : Nat} (gale : n % 4 = 2) (free : ∀ k, ¬GaleBarred s k) :
    regBits (modeWrite s n) 0xB00010 1 0 = 2 ∧ bitOf 4 (regGet (modeWrite s n) 0xB00020) = false := by
  obtain ⟨none', -⟩ | ⟨-, -, barred⟩ := galeWhy_cases s
  · rw [modeWrite_gale gale, if_pos none', regBits_regPutBits_other _ _ (by decide),
      regBits_regPut_same canon (by decide) (by decide), bitsOf_low,
      regGet_regPutBits_same (regPut_canon canon ..) _ (by decide) (by decide), bitOf_setBits_same]
    exact ⟨gale, rfl⟩
  · exact absurd barred (free _)

theorem modeWrite_refused {n : Nat} (gale : n % 4 = 2) (barred : ∃ k, GaleBarred s k) :
    regBits (modeWrite s n) 0xB00010 1 0 = 1 ∧ bitOf 4 (regGet (modeWrite s n) 0xB00020) = true ∧
      GaleBarred s (regBits (modeWrite s n) 0xB00020 7 5) := by
  obtain ⟨-, free⟩ | ⟨some', small, why⟩ := galeWhy_cases s
  · obtain ⟨k, barred⟩ := barred
    exact absurd barred (free k)
  · have requested := regPut_canon canon 0xB00010 (n - 1)
    have refused := regPutBits_canon requested 0xB00020 4 4 1
    rw [modeWrite_gale gale, if_neg some', regBits_regPutBits_other _ _ (by decide), regBits_regPutBits_other _ _ (by decide),
      regBits_regPut_same canon (by decide) (by decide), bitsOf_low, regGet_regPutBits_same refused _ (by decide) (by decide),
      bitOf_setBits_other _ _ (by decide) (by decide), regGet_regPutBits_same requested _ (by decide) (by decide),
      bitOf_setBits_same, regBits_regPutBits_same refused _ (by decide) (by decide)]
    refine ⟨by omega, rfl, ?_⟩
    rwa [Nat.mod_eq_of_lt (show galeWhy s < 2 ^ (7 + 1 - 5) from small)]

/-- Any other request is taken as it is, and 3 as STEADY. -/
theorem modeWrite_plain {n : Nat} (other : n % 4 ≠ 2) :
    regBits (modeWrite s n) 0xB00010 1 0 = if n % 4 = 3 then 1 else n % 4 := by
  rw [modeWrite_other other, regBits_regPut_same canon (by decide) (by decide), bitsOf_low]
  split <;> omega

/-! PTM_POWER_CAP (R297, R300). -/

theorem capWrite_taken {n : Nat} (small : n < 2 ^ 32) : (capWrite s n).power = s.power ∧
    regBits (capWrite s n) 0xB00014 15 0 = max 160 (min 1200 (n % 65536)) ∧
    regBits (capWrite s n) 0xB00014 31 16 = max 1 (min 160 (n / 65536)) ∧
    (bitOf 2 (regGet (capWrite s n) 0xB00020) = true ↔ s.power.eff ≠ 1000 * max 160 (min 1200 (n % 65536))) := by
  obtain ⟨cap, ramp⟩ := regClamp_cap small
  have put := regPut_canon canon 0xB00014 (regClamp 0xB00014 n)
  have held (hi lo : Nat) (order : lo ≤ hi) (inside : hi < 32) :
      regBits (regPut s 0xB00014 (regClamp 0xB00014 n)) 0xB00014 hi lo = bitsOf hi lo (regClamp 0xB00014 n) :=
    regBits_regPut_same canon order inside _
  have word : regGet (capWrite s n) 0xB00014 = regGet (regPut s 0xB00014 (regClamp 0xB00014 n)) 0xB00014 :=
    ptmSync_reg (by decide)
  refine ⟨(ptmSync_onlyRegs _).power, ?_, ?_, ?_⟩
  · rw [regBits, word, ← regBits, held 15 0 (by decide) (by decide), cap]
  · rw [regBits, word, ← regBits, held 31 16 (by decide) (by decide), ramp]
  · rw [capWrite, (ptmSync_fields put).1, held 15 0 (by decide) (by decide), cap, bne_iff_ne]
    rfl

end

theorem exec_ptmPowerCap (admits : Admits s m .write 0xB00014) (v : Word) :
    exec (.ptmPowerCap m v) s = .next (capWrite s v.toNat) :=
  congrArg Host.Outcome.next (masterWrite_open rfl rfl rfl (by decide) admits rfl)

/-! PTM_VLIMIT (R306, R308). -/

theorem exec_ptmVlimit (admits : Admits s m .write 0xB00004) (accepted : lkAccepted s (masterPriv s m) 0xB00004 = true)
    (v : Word) : exec (.ptmVlimit m v) s = .next (vlimitWrite s v.toNat) :=
  congrArg Host.Outcome.next (masterWrite_taken (by decide) admits accepted rfl)

theorem vlimitWrite_ignored {n : Nat} (crossed : max 650 (min 950 (n / 65536 % 4096)) < max 650 (min 950 (n % 4096))) :
    vlimitWrite s n = s := by
  obtain ⟨lo, hi⟩ := regClamp_vlimit n
  exact if_pos (by rwa [lo, hi])

/-- The limits of the supply written, with what ends Gale where it is Gale time (R306). -/
theorem vlimitWrite_taken {n : Nat} (canon : Canon s)
    (order : max 650 (min 950 (n % 4096)) ≤ max 650 (min 950 (n / 65536 % 4096))) :
    vlimitWrite s n = fallback (regPut s 0xB00004 (regClamp 0xB00004 n))
      (if galeTime s = true ∧ max 650 (min 950 (n / 65536 % 4096)) < 950 then [6] else []) := by
  obtain ⟨lo, hi⟩ := regClamp_vlimit n
  have top : vMax (regPut s 0xB00004 (regClamp 0xB00004 n)) = max 650 (min 950 (n / 65536 % 4096)) :=
    (regBits_regPut_same canon (by decide) (by decide) _).trans hi
  have gale : galeTime (regPut s 0xB00004 (regClamp 0xB00004 n)) = galeTime s := rfl
  rw [vlimitWrite]
  dsimp only
  rw [if_neg (by rw [lo, hi]; omega), gale, top]
  simp only [Bool.and_eq_true, decide_eq_true_eq]
  split <;> rfl

/-- Settles O45: each request is a write that is taken, or one of PTM_VLIMIT that would cross its limits. -/
theorem powerRequests : Obligations.PowerRequests := by
  unfold Obligations.PowerRequests
  intro s m v canon n
  refine ⟨?_, fun admits => ⟨_, exec_ptmPowerCap admits v, capWrite_taken canon v.isLt⟩, ?_⟩
  · intro admits against
    refine ⟨_, exec_ptmMode admits v, modeWrite_power s n, modeWrite_granted canon, modeWrite_refused canon,
      fun three => ?_, fun low => ?_⟩
    · rw [modeWrite_plain canon (by omega), if_pos three]
    · rw [modeWrite_plain canon (by omega), if_neg (by omega)]
  · intro admits accepted lo hi
    refine ⟨fun crossed => by rw [exec_ptmVlimit admits accepted, vlimitWrite_ignored crossed], fun order => ?_⟩
    have put := regPut_canon canon 0xB00004 (regClamp 0xB00004 n)
    obtain ⟨low, high⟩ := regClamp_vlimit n
    have run := exec_ptmVlimit admits accepted v
    rw [vlimitWrite_taken canon order] at run
    have limits {bits : List Nat} : regGet (fallback (regPut s 0xB00004 (regClamp 0xB00004 n)) bits) 0xB00004 =
        regGet (regPut s 0xB00004 (regClamp 0xB00004 n)) 0xB00004 := fallback_reg bits (by decide)
    obtain ⟨_, _, _, left⟩ := fallback_eq (regPut s 0xB00004 (regClamp 0xB00004 n))
      (if galeTime s = true ∧ hi < 950 then [6] else [])
    refine ⟨_, run, ?_, ?_, ?_, fun gale below => ?_, fun stays => ?_⟩
    · rw [vMin, regBits, limits, ← regBits, regBits_regPut_same canon (by decide) (by decide), low]
    · rw [vMax, regBits, limits, ← regBits, regBits_regPut_same canon (by decide) (by decide), high]
    · rw [left]
      rfl
    · rw [if_pos ⟨gale, below⟩]
      refine ⟨(fallback_request put (by decide)).trans ?_, fallback_reason put (by decide) (by decide), fun open' => ?_⟩
      · rw [modeReq_congr (regGet_regPut_other s _ (by decide))]
      · refine fallback_event put (by decide) (live_unstopped admits.live) ?_
        rw [eeuShut, regBits_regPut_other s _ (by decide)]
        exact open'
    · rw [if_neg (by rintro ⟨gale, below⟩; rcases stays with idle | top; exacts [by simp [gale] at idle, by omega])]
      exact ⟨regGet_regPut_other s _ (by decide), regGet_regPut_other s _ (by decide)⟩

end Sys2Proof.Machine
end

section
/-! What the power controller does with alerts, VIN and the islands that nothing uses (R294, R296, R306, R379, R380, R382). -/
namespace Sys2Proof.Machine

variable {s : State}

theorem whenLive_acts (acts : live s = true) (f : State → State) : whenLive s f = f s := if_pos acts

/-! The ceiling of the supply (R296, R307, R380). -/

/-- The ceiling that a fixed VIN leaves of another. -/
def vinCeiling (fixed : Option Nat) (c : Nat) : Nat :=
  match fixed with
  | some v => min c (v - 60)
  | none => c

theorem vinCeiling_le (fixed : Option Nat) (c : Nat) : vinCeiling fixed c ≤ c := by
  cases fixed with
  | none => exact le_rfl
  | some v => exact min_le_left ..

/-- The ceiling of the mode and of VMAX. -/
def modeCeiling (s : State) : Nat :=
  min (match modeReq s with
    | 0 => 650
    | 1 => 800
    | _ => 950) (vMax s)

theorem ceiling_eq (s : State) :
    ceiling s = vinCeiling s.power.fixedVin (if hotCeiling s then min (modeCeiling s) 650 else modeCeiling s) := rfl

theorem ceiling_hot (hot : hotCeiling s = true) : ceiling s ≤ 650 := by
  rw [ceiling_eq, if_pos hot]
  exact (vinCeiling_le ..).trans (min_le_right ..)

theorem ceiling_fixed {v : Nat} (fixed : s.power.fixedVin = some v) : ceiling s ≤ v - 60 := by
  rw [ceiling_eq, fixed]
  exact min_le_right ..

/-! THERM_ALERT_N (R296, R306, R382). -/

/-- The state in which the alert input has its level, and the event that a new ceiling raises has been reported. -/
def alertNoted (s : State) (a : Bool) : State :=
  if a && !hotCeiling s then ptmEvent { s with power := { s.power with alert := a } } 6
  else { s with power := { s.power with alert := a } }

theorem alertNoted_onlyRegs (s : State) (a : Bool) :
    OnlyRegs { s with power := { s.power with alert := a } } (alertNoted s a) := by
  unfold alertNoted
  split
  · exact ptmEvent_onlyRegs ..
  · exact .refl _

theorem alertNoted_canon (canon : Canon s) (a : Bool) : Canon (alertNoted s a) := by
  unfold alertNoted
  split
  · exact (ptmEvent_keeps (Keeps.refl _)).canon (canon_power canon _)
  · exact canon_power canon _

theorem alertNoted_reg {o : Nat} (a : Bool) (other : o ≠ 0xC00040) : regGet (alertNoted s a) o = regGet s o := by
  unfold alertNoted
  split
  · exact ptmEvent_reg 6 other
  · rfl

theorem alertNoted_galeTime (s : State) (a : Bool) : galeTime (alertNoted s a) = galeTime s := by
  rw [galeTime, (alertNoted_onlyRegs s a).power]
  rfl

theorem exec_thermAlertN (acts : live s = true) (a : Bool) : exec (.thermAlertN a) s =
    .next (fallback (alertNoted s a) (if a = true ∧ galeTime s = true then [2] else [])) := by
  have run : exec (.thermAlertN a) s = .next (if !live s then { s with power := { s.power with alert := a } }
    else if a && galeTime (alertNoted s a) then fallback (alertNoted s a) [2] else alertNoted s a) := rfl
  rw [run, acts, alertNoted_galeTime, Bool.not_true, if_neg Bool.false_ne_true]
  simp only [Bool.and_eq_true]
  split <;> rfl

/-- The level of the alert input is all of the power state that it changes but for FIRST; and one that is asserted lowers the
ceiling with an event where it was not low, and ends Gale where it is Gale time. -/
theorem alert_effects (canon : Canon s) (acts : live s = true) (a : Bool) :
    let u := fallback (alertNoted s a) (if a = true ∧ galeTime s = true then [2] else [])
    { u.power with firstNow := s.power.firstNow } = { s.power with alert := a } ∧
      (a = true → ceiling u ≤ 650 ∧ (eeuShut s = false → hotCeiling s = false → bitOf 6 (regGet u 0xC00040) = true) ∧
        (galeTime s = true → modeReq u = min 1 (modeReq s) ∧ bitOf 2 (regGet u 0xB00030) = true ∧
          (eeuShut s = false → bitOf 5 (regGet u 0xC00040) = true))) := by
  intro u
  have canon' := alertNoted_canon canon a
  obtain ⟨_, _, noted⟩ := alertNoted_onlyRegs s a
  obtain ⟨_, _, _, left⟩ := fallback_eq (alertNoted s a) (if a = true ∧ galeTime s = true then [2] else [])
  have power : { u.power with firstNow := s.power.firstNow } = { s.power with alert := a } := by
    rw [show u = _ from left, noted]
  refine ⟨power, fun asserted => ⟨ceiling_hot ?_, fun open' cool => ?_, fun gale => ?_⟩⟩
  · rw [hotCeiling, show u.power.alert = true from (congrArg Power.alert power).trans asserted, Bool.true_or]
  · have told : alertNoted s a = ptmEvent { s with power := { s.power with alert := a } } 6 :=
      if_pos (by rw [asserted, cool]; rfl)
    refine (fallback_otherEvents canon' _ (by decide)).trans ?_
    have changed : Canon { s with power := { s.power with alert := a } } := canon_power canon _
    rw [told]
    exact ptmEvent_sets changed (live_unstopped acts) open' 6 (by decide)
  · have ends : u = fallback (alertNoted s a) [2] :=
      congrArg (fallback (alertNoted s a)) (if_pos ⟨asserted, gale⟩)
    rw [ends]
    refine ⟨(fallback_request canon' (by decide)).trans ?_, fallback_reason canon' (by decide) (by decide), fun open' => ?_⟩
    · rw [modeReq_congr (alertNoted_reg a (by decide))]
    · refine fallback_event canon' (by decide) ?_ ?_
      · rw [noted]
        exact live_unstopped acts
      · rw [eeuShut, regBits, alertNoted_reg a (by decide)]
        exact open'

/-! VIN (R379, R380). -/

/-- Whether a raise of the supply that waits for VIN takes place once VIN stands at `mv`. -/
def vinRaises (s : State) (mv : Nat) : Prop :=
  s.power.vset + 60 < s.power.vinReq ∧ s.power.vinReq ≤ mv ∧ s.power.vinReq ≤ ceiling s + 60 ∧
    s.power.debt < regBits s 0xB00018 5 0

theorem exec_vinReady (acts : live s = true) (open' : s.power.fixedVin = none) (mv : Nat) :
    (vinRaises s mv → exec (.vinReady mv) s =
      .next (ptmSync (risePower { s with power := { avsGood s.power with vset := s.power.vinReq - 60 } }))) ∧
    (¬vinRaises s mv → exec (.vinReady mv) s = .next { s with power := avsGood s.power }) := by
  have run : exec (.vinReady mv) s = .next (if s.power.vset + 60 < s.power.vinReq && s.power.vinReq ≤ mv &&
      s.power.vinReq ≤ ceiling s + 60 && admitted s then
        ptmSync (risePower { s with power := { avsGood s.power with vset := s.power.vinReq - 60 } })
      else { s with power := avsGood s.power }) := by
    show Host.Outcome.next (whenLive s _) = _
    rw [whenLive_acts acts, open']
    rfl
  have test : (s.power.vset + 60 < s.power.vinReq && s.power.vinReq ≤ mv && s.power.vinReq ≤ ceiling s + 60 &&
      admitted s) = true ↔ vinRaises s mv := by
    have admits : admitted s = true ↔ s.power.debt < regBits s 0xB00018 5 0 := decide_eq_true_iff
    simp only [vinRaises, Bool.and_eq_true, decide_eq_true_eq, and_assoc, admits]
  rw [run]
  exact ⟨fun raises => by rw [if_pos (test.2 raises)], fun stays => by rw [if_neg (mt test.1 stays)]⟩

theorem exec_fixedVin (acts : live s = true) (unseen : s.power.avsSeen = false) (mv : Nat) : exec (.fixedVin mv) s =
    .next { s with power := { s.power with fixedVin := some mv, avsSeen := true, avsFrame := none } } := by
  show Host.Outcome.next (whenLive s _) = _
  rw [whenLive_acts acts, unseen]
  rfl

/-! Islands (R292, R294). -/

/-- What an island loses that is gated. -/
def gateLoss (s : State) (i : Nat) : State :=
  if i < 64 then
    { s with mxe := { s.mxe with planes := s.mxe.planes.filter fun x =>
      !(x.array == i / 16 && covers x.mode x.part (i % 16)) } }
  else if i < 68 then s
  else { s with l1 := s.l1.filter fun l => l.core != i - 68 }

theorem gateLoss_keeps (s : State) (i : Nat) :
    { gateLoss s i with mxe := s.mxe, l1 := s.l1 } = s ∧ (gateLoss s i).mxe.modes = s.mxe.modes ∧
      (∀ x ∈ (gateLoss s i).mxe.planes, x ∈ s.mxe.planes) ∧
      (∀ x ∈ s.mxe.planes, (64 ≤ i ∨ x.array ≠ i / 16 ∨ covers x.mode x.part (i % 16) = false) →
        x ∈ (gateLoss s i).mxe.planes) ∧
      ∀ l ∈ s.l1, (i < 68 ∨ l.core ≠ i - 68) → l ∈ (gateLoss s i).l1 := by
  unfold gateLoss
  split
  · next matrix =>
    refine ⟨rfl, rfl, fun x kept => (List.mem_filter.1 kept).1, fun x listed elsewhere => ?_, fun l listed _ => listed⟩
    refine List.mem_filter.2 ⟨listed, ?_⟩
    rcases elsewhere with high | array | apart
    · omega
    · simp [array]
    · simp [apart]
  split
  · exact ⟨rfl, rfl, fun x kept => kept, fun x listed _ => listed, fun l listed _ => listed⟩
  · next vector =>
    refine ⟨rfl, rfl, fun x kept => kept, fun x listed _ => listed, fun l listed elsewhere => ?_⟩
    exact List.mem_filter.2 ⟨listed, bne_iff_ne.2 (elsewhere.resolve_left vector)⟩

theorem exec_islandGate {i : Nat} (acts : live s = true) (open' : s.power.gated.contains i = false)
    (awake : s.power.waking.contains i = false) (may : mayGate s i = true) : exec (.islandGate i) s =
      .next (gateLoss { s with power := { s.power with gated := setInsert s.power.gated i } } i) := by
  show Host.Outcome.next (whenLive s _) = _
  rw [whenLive_acts acts, open', awake, may]
  rfl

theorem exec_retention {i : Nat} (acts : live s = true) (low : 84 ≤ i) (high : i ≤ 89)
    (on : bitOf 0 (regGet s 0x700000) = true) (idle : ∀ r ∈ s.xbr, ∀ b ∈ accBanks r.acc, bankIsland b ≠ i)
    (awake : s.power.waking.contains i = false) :
    exec (.retention i) s = .next { s with power := { s.power with retained := setInsert s.power.retained i } } := by
  have unused : (s.xbr.any fun r => (accBanks r.acc).any fun b => bankIsland b == i) = false := by
    simpa using idle
  show Host.Outcome.next (whenLive s _) = _
  rw [whenLive_acts acts]
  dsimp only
  rw [unused, on, awake, decide_eq_true low, decide_eq_true high]
  rfl

theorem exec_islandWake (acts : live s = true) (i : Nat) : exec (.islandWake i) s = .next { s with power := { s.power with
    waking := s.power.waking.erase i, retained := s.power.retained.erase i } } :=
  congrArg Host.Outcome.next (whenLive_acts acts _)

end Sys2Proof.Machine
end

section
/-! A control period, stage by stage (R297, R301 to R306, R379, R380, R405, R406). -/
namespace Sys2Proof.Machine

variable {s : State} {tel : Telemetry}

/-! The measurements and the ledgers (R303, R305). -/

/-- The power state once a control period is measured: the ledgers moved by Gale time, and one STEP of what was admitted
spread. -/
def measuredPower (s : State) (tel : Telemetry) : Power :=
  { ledgers s.power (galeTime s) with
    tempQ := hottest s tel.sensors, lastPower := some tel.power, sensors := tel.sensors, islands := tel.islands
    debt := (ledgers s.power (galeTime s)).debt - stepLimit s, shed := (ledgers s.power (galeTime s)).shed - stepLimit s }

/-- The state with those measurements, PTM_MEAS.POWER and PTM_RATE among them. -/
def measured (s : State) (tel : Telemetry) : State :=
  regPut (regPut { s with osc := s.osc + 1000, power := measuredPower s tel } 0xB00024 (tel.power % 65536)) 0xB00028
    (tel.rate % 65536 + 65536 * hottest s tel.sensors)

/-- The thermal ledger after a period (R303), the wear ledger (R305), and the change of the measured power (R304). -/
def heatAfter (s : State) : Nat := if galeTime s then s.power.heat4 + 4 else s.power.heat4 - 1
@[inherit_doc heatAfter] def creditAfter (s : State) : Nat :=
  if galeTime s then s.power.credit10 - 10 else min (s.power.credit10 + 1) 40000000
@[inherit_doc heatAfter] def powerMoved (s : State) (tel : Telemetry) : Nat :=
  (s.power.lastPower.map fun q => max (tel.power - q) (q - tel.power)).getD 0

/-- The ledgers move, and nothing else of the power state. -/
theorem ledgers_eq (s : State) : ledgers s.power (galeTime s) = { s.power with
    heat4 := heatAfter s, credit10 := creditAfter s
    galeUs := if galeTime s then s.power.galeUs + 1 else s.power.galeUs } := by
  unfold ledgers heatAfter creditAfter
  cases galeTime s <;> rfl

theorem measured_reg {o : Nat} (notPower : o ≠ 0xB00024) (notRate : o ≠ 0xB00028) : regGet (measured s tel) o = regGet s o :=
  (regGet_regPut_other _ _ notRate).trans (regGet_regPut_other _ _ notPower)

theorem canon_clocked (canon : Canon s) (osc : Nat) (power : Power) : Canon { s with osc, power } :=
  ⟨canon.spm, canon.nor, canon.regs, canon.counters, canon.cntShadow, canon.voc, canon.corr, canon.trim, canon.ftab⟩

theorem measured_canon (canon : Canon s) : Canon (measured s tel) := regPut_canon (regPut_canon (canon_clocked canon _ _) ..) ..

/-- The power and the temperature measured, as PTM_MEAS and PTM_RATE show them. -/
theorem measured_shown (canon : Canon s) : regBits (measured s tel) 0xB00024 15 0 = tel.power % 65536 ∧
    regBits (measured s tel) 0xB00028 27 16 = hottest s tel.sensors % 4096 := by
  have put : Canon (regPut { s with osc := s.osc + 1000, power := measuredPower s tel } 0xB00024 (tel.power % 65536)) :=
    regPut_canon (canon_clocked canon _ _) ..
  constructor
  · rw [measured, regBits_regPut_other _ _ (by decide), regBits_regPut_same (canon_clocked canon _ _) (by decide) (by decide),
      bitsOf_low]
    exact Nat.mod_mod ..
  · rw [measured, regBits_regPut_same put (by decide) (by decide), bitsOf]
    omega

/-- The greatest of some values, and of 0. -/
theorem foldl_max {α : Type} (f : α → Nat) (l : List α) (b : Nat) : b ≤ l.foldl (fun m w => max m (f w)) b ∧
    (∀ w ∈ l, f w ≤ l.foldl (fun m w => max m (f w)) b) ∧
    (l.foldl (fun m w => max m (f w)) b = b ∨ ∃ w ∈ l, l.foldl (fun m w => max m (f w)) b = f w) := by
  induction l generalizing b with
  | nil => exact ⟨le_rfl, fun _ h => absurd h List.not_mem_nil, .inl rfl⟩
  | cons x l ih =>
    obtain ⟨above, all, one⟩ := ih (max b (f x))
    refine ⟨(le_max_left ..).trans above, List.forall_mem_cons.2 ⟨(le_max_right ..).trans above, all⟩, ?_⟩
    rcases one with first | ⟨w, listed, same⟩
    · rcases max_choice b (f x) with old | new
      · exact .inl (first.trans old)
      · exact .inr ⟨x, List.mem_cons_self, first.trans new⟩
    · exact .inr ⟨w, List.mem_cons_of_mem _ listed, same⟩

/-- Where a sensor is valid, the hottest is that of a valid sensor, and no valid sensor is hotter. -/
theorem hottest_valid (s : State) {ws : List Word} (valid : ∃ w ∈ ws, bitOf 31 w.toNat = true) :
    (∃ w ∈ ws, bitOf 31 w.toNat = true ∧ hottest s ws = bitsOf 11 0 w.toNat) ∧
      ∀ w ∈ ws, bitOf 31 w.toNat = true → bitsOf 11 0 w.toNat ≤ hottest s ws := by
  obtain ⟨w, listed, good⟩ := valid
  have here : w ∈ ws.filter fun w => bitOf 31 w.toNat := List.mem_filter.2 ⟨listed, good⟩
  have fold : hottest s ws = (ws.filter fun w => bitOf 31 w.toNat).foldl (fun m w => max m (bitsOf 11 0 w.toNat)) 0 := by
    unfold hottest
    split
    · next none' => rw [none'] at here; exact absurd here List.not_mem_nil
    · rfl
  obtain ⟨-, all, one⟩ := foldl_max (fun w : Word => bitsOf 11 0 w.toNat) (ws.filter fun w => bitOf 31 w.toNat) 0
  rw [← fold] at all one
  refine ⟨?_, fun v here good => all v (List.mem_filter.2 ⟨here, good⟩)⟩
  rcases one with zero | ⟨v, kept, same⟩
  · have low := all w here
    exact ⟨w, listed, good, by omega⟩
  · obtain ⟨here, good⟩ := List.mem_filter.1 kept
    exact ⟨v, here, good, same⟩

/-! The end of Gale (R306). -/

/-- The state in which the event that a new ceiling raises has been reported. -/
def alarmed (s : State) (tel : Telemetry) : State :=
  if hotCeiling (measured s tel) && !hotCeiling s then ptmEvent (measured s tel) 6 else measured s tel

theorem alarmed_onlyRegs (s : State) (tel : Telemetry) : OnlyRegs (measured s tel) (alarmed s tel) := by
  unfold alarmed
  split
  · exact ptmEvent_onlyRegs ..
  · exact .refl _

theorem alarmed_reg {o : Nat} (other : o ≠ 0xC00040) : regGet (alarmed s tel) o = regGet (measured s tel) o := by
  unfold alarmed
  split
  · exact ptmEvent_reg 6 other
  · rfl

theorem alarmed_canon (canon : Canon s) : Canon (alarmed s tel) := by
  unfold alarmed
  split
  · exact (ptmEvent_keeps (Keeps.refl _)).canon (measured_canon canon)
  · exact measured_canon canon

/-- The conditions of R306 that end Gale in a control period, by their bits. -/
def GaleEnds (s : State) (tel : Telemetry) (i : Nat) : Prop :=
  (i = 0 ∧ budget s ≤ heatAfter s / 4) ∨ (i = 1 ∧ regBits s 0xB00034 11 0 ≤ hottest s tel.sensors) ∨
    (i = 2 ∧ s.power.alert = true) ∨ (i = 3 ∧ 10 * regBits s 0xB00038 15 0 < (tel.islands.map (·.2)).sum) ∨
    (i = 4 ∧ 2 * regBits s 0xB00018 5 0 < 4 * powerMoved s tel) ∨ (i = 5 ∧ creditAfter s / 10 = 0)

/-- The conditions that the governor finds. -/
def endsFound (s : State) (tel : Telemetry) : List Nat :=
  galeConds (alarmed s tel) (summedCurrent tel) (powerMoved s tel)

theorem summedCurrent_eq (tel : Telemetry) : summedCurrent tel = (tel.islands.map (·.2)).sum := by
  rw [List.sum_eq_foldl, List.foldl_map]
  rfl

theorem mem_endsFound {i : Nat} : i ∈ endsFound s tel ↔ GaleEnds s tel i := by
  have word {o : Nat} (h : o ≠ 0xC00040 ∧ o ≠ 0xB00024 ∧ o ≠ 0xB00028) (hi lo : Nat) :
      regBits (alarmed s tel) o hi lo = regBits s o hi lo :=
    congrArg (bitsOf hi lo) ((alarmed_reg h.1).trans (measured_reg h.2.1 h.2.2))
  have limits := word (show 0xB00034 ≠ 0xC00040 ∧ 0xB00034 ≠ 0xB00024 ∧ 0xB00034 ≠ 0xB00028 by decide)
  have current := word (show 0xB00038 ≠ 0xC00040 ∧ 0xB00038 ≠ 0xB00024 ∧ 0xB00038 ≠ 0xB00028 by decide)
  have step := word (show 0xB00018 ≠ 0xC00040 ∧ 0xB00018 ≠ 0xB00024 ∧ 0xB00018 ≠ 0xB00028 by decide)
  have power : (alarmed s tel).power = measuredPower s tel := (alarmed_onlyRegs s tel).power
  have ledger := ledgers_eq s
  rw [endsFound, galeConds, List.mem_filter, List.mem_range]
  simp only [heat, credit, budget, stepLimit, power, measuredPower, ledger, summedCurrent_eq, limits, current, step, GaleEnds]
  match i with
  | 0 | 1 | 2 | 3 | 4 | 5 => simp
  | n + 6 => simp

/-- The state after the conditions that end Gale have had their effect. -/
def fellBack (s : State) (tel : Telemetry) : State := fallback (alarmed s tel) (if galeTime s then endsFound s tel else [])

theorem fellBack_eq (s : State) (tel : Telemetry) : ∃ regs cfgBad firstNow, fellBack s tel =
    { s with osc := s.osc + 1000, regs, cfgBad, power := { measuredPower s tel with firstNow } } := by
  obtain ⟨_, _, alarm⟩ := alarmed_onlyRegs s tel
  obtain ⟨_, _, _, ended⟩ := fallback_eq (alarmed s tel) (if galeTime s then endsFound s tel else [])
  rw [fellBack, ended, alarm]
  exact ⟨_, _, _, rfl⟩

theorem fellBack_canon (canon : Canon s) : Canon (fellBack s tel) :=
  (fallback_keeps (Keeps.refl _)).canon (alarmed_canon canon)

theorem fellBack_reg {o : Nat} (other : o ∉ [0xB00030, 0xB00010, 0xC00040]) :
    regGet (fellBack s tel) o = regGet (measured s tel) o := by
  rw [fellBack, fallback_reg _ other, alarmed_reg (fun same => other (by simp [same]))]

/-- A condition that holds in Gale time ends Gale. -/
theorem fellBack_ends (canon : Canon s) (acts : live s = true) (gale : galeTime s = true) {i : Nat} (ends : GaleEnds s tel i) :
    modeReq (fellBack s tel) = min 1 (modeReq s) ∧ bitOf i (regGet (fellBack s tel) 0xB00030) = true ∧
      (eeuShut s = false → bitOf 5 (regGet (fellBack s tel) 0xC00040) = true) := by
  have canon' : Canon (alarmed s tel) := alarmed_canon canon
  have found : i ∈ endsFound s tel := mem_endsFound.2 ends
  have some' : endsFound s tel ≠ [] := List.ne_nil_of_mem found
  have low : ∀ j ∈ endsFound s tel, j < 7 := fun j here => (List.mem_range.1 (List.mem_filter.1 here).1).trans (by decide)
  obtain ⟨_, _, alarm⟩ := alarmed_onlyRegs s tel
  have word {o : Nat} (h : o ≠ 0xC00040 ∧ o ≠ 0xB00024 ∧ o ≠ 0xB00028) : regGet (alarmed s tel) o = regGet s o :=
    (alarmed_reg h.1).trans (measured_reg h.2.1 h.2.2)
  rw [fellBack, if_pos gale]
  refine ⟨(fallback_request canon' some').trans ?_, fallback_reason canon' low found, fun open' => ?_⟩
  · rw [modeReq_congr (word (by decide))]
  · refine fallback_event canon' some' ?_ ?_
    · rw [alarm]
      exact live_unstopped acts
    · rw [eeuShut, regBits, word (by decide)]
      exact open'

/-- Where none holds, or it is not Gale time, the request and the reasons stay. -/
theorem fellBack_stays (quiet : galeTime s = false ∨ ∀ i, ¬GaleEnds s tel i) {o : Nat}
    (other : o ≠ 0xC00040 ∧ o ≠ 0xB00024 ∧ o ≠ 0xB00028) : regGet (fellBack s tel) o = regGet s o := by
  have none' : (if galeTime s then endsFound s tel else []) = [] := by
    rcases quiet with idle | free
    · rw [idle]
      rfl
    · rw [List.eq_nil_iff_forall_not_mem.2 fun i found => free i (mem_endsFound.1 found), ite_self]
  rw [fellBack, none']
  exact (alarmed_reg other.1).trans (measured_reg other.2.1 other.2.2)

/-! Wakes and the effective cap (R297, R298). -/

theorem wakeFor_eq {is' : List Nat} {u : State} (wakes : wakeFor s is' = some u) : ∃ freeCtr gated waking debt,
    u = { s with freeCtr, power := { s.power with gated, waking, debt } } := by
  unfold wakeFor at wakes
  split at wakes
  · cases wakes
  split at wakes
  · cases wakes
    exact ⟨_, _, _, _, rfl⟩
  split at wakes <;> cases wakes <;> exact ⟨_, _, _, _, rfl⟩

theorem wakeOpen_eq (s : State) : ∃ freeCtr gated waking debt,
    wakeOpen s = { s with freeCtr, power := { s.power with gated, waking, debt } } := by
  unfold wakeOpen
  extract_lets v open'
  generalize s.power.gated.filter open' = islands
  induction islands generalizing s with
  | nil => exact ⟨_, _, _, _, rfl⟩
  | cons i islands ih =>
    have one : ∃ freeCtr gated waking debt,
        (wakeFor s [i]).getD s = { s with freeCtr, power := { s.power with gated, waking, debt } } := by
      cases wakes : wakeFor s [i] with
      | none => exact ⟨_, _, _, _, rfl⟩
      | some u => exact wakeFor_eq wakes
    obtain ⟨_, _, _, _, first⟩ := one
    obtain ⟨_, _, _, _, rest⟩ := ih ((wakeFor s [i]).getD s)
    rw [List.foldl_cons, rest, first]
    exact ⟨_, _, _, _, rfl⟩

/-- The effective cap after a slew toward the cap that software wrote. -/
def effSlewed (s : State) : Nat :=
  let target := 1000 * max 160 (min 1200 (regBits s 0xB00014 15 0))
  let ramp := regBits s 0xB00014 31 16
  if target ≥ s.power.eff then min target (s.power.eff + ramp) else max target (s.power.eff - ramp)

theorem effSlewed_moves (s : State) :
    let target := 1000 * max 160 (min 1200 (regBits s 0xB00014 15 0))
    let ramp := regBits s 0xB00014 31 16
    (s.power.eff ≤ target → effSlewed s = min target (s.power.eff + ramp)) ∧
      (target ≤ s.power.eff → effSlewed s = max target (s.power.eff - ramp)) := by
  intro target ramp
  show (_ → (if target ≥ s.power.eff then min target (s.power.eff + ramp) else max target (s.power.eff - ramp)) = _) ∧
    (_ → (if target ≥ s.power.eff then min target (s.power.eff + ramp) else max target (s.power.eff - ramp)) = _)
  refine ⟨fun up => if_pos up, fun down => ?_⟩
  split <;> omega

/-- The state after the islands that software opened have begun to wake, and the effective cap has slewed. -/
def slewed (s : State) (tel : Telemetry) : State :=
  let u := wakeOpen { fellBack s tel with power := { (fellBack s tel).power with firstNow := false } }
  { u with power := { u.power with eff := effSlewed u } }

/-- What of the state a control period has changed before the supply moves. -/
theorem slewed_eq (s : State) (tel : Telemetry) : ∃ cfgBad freeCtr gated waking debt, slewed s tel =
    { s with
      osc := s.osc + 1000, regs := (fellBack s tel).regs, cfgBad, freeCtr
      power := { measuredPower s tel with eff := effSlewed s, firstNow := false, gated, waking, debt } } := by
  obtain ⟨_, _, _, fell⟩ := fellBack_eq s tel
  obtain ⟨_, _, _, _, woken⟩ := wakeOpen_eq { fellBack s tel with power := { (fellBack s tel).power with firstNow := false } }
  have cap : regGet (fellBack s tel) 0xB00014 = regGet s 0xB00014 :=
    (fellBack_reg (by decide)).trans (measured_reg (by decide) (by decide))
  have eff : (fellBack s tel).power.eff = s.power.eff := by
    rw [fell, measuredPower, ledgers_eq]
  have slew : effSlewed (wakeOpen { fellBack s tel with power := { (fellBack s tel).power with firstNow := false } }) =
      effSlewed s := by
    rw [woken, effSlewed, effSlewed, regBits, regBits, regBits, regBits, ← cap, ← eff]
    rfl
  rw [slewed, slew, woken, fell]
  exact ⟨_, _, _, _, _, rfl⟩

/-! The supply and VIN (R297, R379, R380). -/

/-- One step of at most 5 mV, and up only with a fixed VIN: else a raise is asked of the regulator. -/
theorem stepSupply_eq (s : State) (pred : Nat → Nat) (v : Nat) : ∃ vset vinReq debt shed,
    stepSupply s pred v = { s with power := { s.power with vset, vinReq, debt, shed } } ∧
      s.power.vset - 5 ≤ vset ∧ vset ≤ s.power.vset + 5 ∧ (s.power.fixedVin = none → vset ≤ s.power.vset) := by
  have stay : s.power.vset - 5 ≤ s.power.vset ∧ s.power.vset ≤ s.power.vset + 5 ∧
      (s.power.fixedVin = none → s.power.vset ≤ s.power.vset) := ⟨by omega, by omega, fun _ => le_rfl⟩
  unfold stepSupply
  dsimp only
  split
  · split
    · exact ⟨_, _, _, _, rfl, by omega, by omega, fun _ => by omega⟩
    · exact ⟨_, _, _, _, rfl, stay⟩
  split
  · split
    · exact ⟨_, _, _, _, rfl, stay⟩
    split
    · next fixed => exact ⟨_, _, _, _, rfl, by omega, by omega, fun none' => by simp [none'] at fixed⟩
    · exact ⟨_, _, _, _, rfl, stay⟩
  · exact ⟨_, _, _, _, rfl, stay⟩

/-- The state after the supply has stepped toward the highest that fits the effective cap. -/
def supplied (s : State) : State :=
  let r := draw s 1
  let pred (v : Nat) : Nat := Config.predictedPower (1024 * r.1 + v)
  let top := ceiling r.2
  let lo := vMin r.2
  let fits := (List.range 61).filterMap fun i =>
    let v := lo + 5 * i
    if v ≤ top && 1000 * pred v ≤ s.power.eff then some v else none
  stepSupply { r.2 with power := { r.2.power with pacing := 1000 * pred (min lo top) > s.power.eff } } pred
    (if top < lo then top else fits.foldl max lo)

theorem supplied_eq (s : State) : ∃ freeCtr pacing vset vinReq debt shed,
    supplied s = { s with freeCtr, power := { s.power with pacing, vset, vinReq, debt, shed } } ∧
      s.power.vset - 5 ≤ vset ∧ vset ≤ s.power.vset + 5 ∧ (s.power.fixedVin = none → vset ≤ s.power.vset) := by
  unfold supplied
  extract_lets r pred top lo fits
  obtain ⟨_, _, _, _, step, bounds⟩ := stepSupply_eq
    { r.2 with power := { r.2.power with pacing := 1000 * pred (min lo top) > s.power.eff } } pred
    (if top < lo then top else fits.foldl max lo)
  rw [step]
  exact ⟨_, _, _, _, _, _, rfl, bounds⟩

/-- The frame that starts changes nothing but itself and the voltage asked for; a frame under way goes on, and a new VIN is
asked for as soon as the bus is idle. -/
theorem avsNext_eq (p : Power) (osc n : Nat) : ∃ avsVolt avsFrame, avsNext p osc n = { p with avsVolt, avsFrame } ∧
    (avsBusy p osc = true → avsFrame = p.avsFrame) ∧
    (p.fixedVin = none → avsBusy p osc = false → p.avsVolt ≠ some p.vinReq →
      avsFrame = some { write := true, code := 0, data := p.vinReq, since := osc } ∧ avsVolt = some p.vinReq) := by
  unfold avsNext
  dsimp only
  split
  · next stays => exact ⟨_, _, rfl, fun _ => rfl, fun open' idle => by simp [open', idle] at stays⟩
  · next free =>
    have idle (busy : avsBusy p osc = true) : False := free (by rw [busy, Bool.or_true])
    split
    · exact ⟨_, _, rfl, fun busy => (idle busy).elim, fun _ _ _ => ⟨rfl, rfl⟩⟩
    · next asked => exact ⟨_, _, rfl, fun busy => (idle busy).elim, fun _ _ new => absurd (bne_iff_ne.2 new) asked⟩

/-- The state with the frame that starts, and with the reports of the period. -/
def reported (s : State) : State :=
  reportIslands (ptmSync { (draw s 2).2 with power := avsNext s.power s.osc (draw s 2).1 })

theorem reported_eq (s : State) : ∃ regs cfgBad freeCtr islandRep, reported s = { s with
    regs, cfgBad, freeCtr, power := { avsNext s.power s.osc (draw s 2).1 with islandRep } } := by
  obtain ⟨_, _, told⟩ := ptmSync_onlyRegs { (draw s 2).2 with power := avsNext s.power s.osc (draw s 2).1 }
  rw [reported, told]
  exact ⟨_, _, _, _, rfl⟩

/-- Each island shows what it has now. -/
theorem reportIslands_shows (u : State) : (reportIslands u).power.islandRep =
    (List.range (reportIslands u).par.islands).map fun i =>
      (islandVset (reportIslands u) i, islandWord (reportIslands u) i) := rfl

theorem reportIslands_reg (u : State) (o : Nat) : regGet (reportIslands u) o = regGet u o := rfl

theorem reported_reg {o : Nat} (other : o ∉ reportRegs) : regGet (reported s) o = regGet s o :=
  (reportIslands_reg ..).trans (ptmSync_reg other)

/-! The period as a whole. -/

theorem governor_eq (s : State) (tel : Telemetry) : governor tel s = reported (supplied (slewed s tel)) := by
  have fell : (if galeTime s then fallback (alarmed s tel) (endsFound s tel) else alarmed s tel) = fellBack s tel := by
    unfold fellBack
    split <;> rfl
  have moved : (match s.power.lastPower with
      | some q => max (tel.power - q) (q - tel.power)
      | none => 0) = powerMoved s tel := by
    unfold powerMoved
    cases s.power.lastPower <;> rfl
  unfold governor
  extract_lets gale hot delta temp ledger period shown noted ended endedPower woken target ramp eff wokenPower moving r drawn
    pred top lo fits v drawnPower paced stepped n
  have fallen : ended = fellBack s tel := by
    rw [← fell, endsFound, ← moved]
    rfl
  have slew : moving = slewed s tel := by
    rw [slewed, ← fallen]
    rfl
  have supply : stepped = supplied (slewed s tel) := by
    rw [← slew]
    rfl
  rw [← supply]
  rfl

/-- The state of a control period once the supply has stepped, before the frame that starts and the reports. -/
theorem supplied_slewed (s : State) (tel : Telemetry) : ∃ cfgBad freeCtr gated waking debt shed pacing vset vinReq,
    supplied (slewed s tel) = { s with
      osc := s.osc + 1000, regs := (fellBack s tel).regs, cfgBad, freeCtr
      power := { s.power with
        heat4 := heatAfter s, credit10 := creditAfter s, galeUs := if galeTime s then s.power.galeUs + 1 else s.power.galeUs
        tempQ := hottest s tel.sensors, lastPower := some tel.power, sensors := tel.sensors, islands := tel.islands
        eff := effSlewed s, firstNow := false, gated, waking, debt, shed, pacing, vset, vinReq } } ∧
      s.power.vset - 5 ≤ vset ∧ vset ≤ s.power.vset + 5 ∧ (s.power.fixedVin = none → vset ≤ s.power.vset) := by
  obtain ⟨_, _, _, _, _, slew⟩ := slewed_eq s tel
  obtain ⟨_, _, vset, _, _, _, supply, bounds⟩ := supplied_eq (slewed s tel)
  rw [slew, measuredPower, ledgers_eq] at bounds
  rw [supply, slew, measuredPower, ledgers_eq]
  exact ⟨_, _, _, _, _, _, _, _, _, rfl, bounds⟩

theorem supplied_slewed_canon (canon : Canon s) : Canon (supplied (slewed s tel)) := by
  obtain ⟨_, _, _, _, _, _, _, _, _, moved, -⟩ := supplied_slewed s tel
  rw [moved]
  exact ⟨canon.spm, canon.nor, (fellBack_canon canon).regs, canon.counters, canon.cntShadow, canon.voc, canon.corr, canon.trim,
    canon.ftab⟩

/-- A register that reports nothing is left as the end of Gale left it. -/
theorem governor_reg {o : Nat} (other : o ∉ reportRegs) : regGet (governor tel s) o = regGet (fellBack s tel) o := by
  obtain ⟨_, _, _, _, _, _, _, _, _, moved, -⟩ := supplied_slewed s tel
  rw [governor_eq, reported_reg other, moved]
  rfl

/-- PTM_MEAS and PTM_RATE after the period. -/
theorem governor_shown (canon : Canon s) : regBits (governor tel s) 0xB00024 15 0 = tel.power % 65536 ∧
    regBits (governor tel s) 0xB00028 27 16 = hottest s tel.sensors % 4096 := by
  obtain ⟨power, temp⟩ := measured_shown (tel := tel) canon
  obtain ⟨_, _, _, _, _, _, _, _, _, moved, -⟩ := supplied_slewed s tel
  have canon' := supplied_slewed_canon (tel := tel) canon
  have kept : regBits (governor tel s) 0xB00024 15 0 = regBits (supplied (slewed s tel)) 0xB00024 15 0 := by
    rw [governor_eq]
    refine (congrArg (bitsOf 15 0) (reportIslands_reg ..)).trans (ptmSync_fields ?_).2
    exact ⟨canon'.spm, canon'.nor, canon'.regs, canon'.counters, canon'.cntShadow, canon'.voc, canon'.corr, canon'.trim,
      canon'.ftab⟩
  constructor
  · have regs : regBits (supplied (slewed s tel)) 0xB00024 15 0 = regBits (fellBack s tel) 0xB00024 15 0 := by
      rw [moved]
      rfl
    rw [kept, regs, regBits, fellBack_reg (by decide), ← regBits, power]
  · rw [regBits, governor_reg (by decide), fellBack_reg (by decide), ← regBits, temp]

theorem avsBusy_congr {p q : Power} (same : q.avsFrame = p.avsFrame) (osc : Nat) : avsBusy q osc = avsBusy p osc := by
  rw [avsBusy, avsBusy, same]

/-- What the period leaves of the state outside the registers. -/
theorem governor_left (s : State) (tel : Telemetry) : ∃ regs cfgBad freeCtr gated waking debt shed pacing vset vinReq avsVolt
    avsFrame islandRep, governor tel s = { s with
      osc := s.osc + 1000, regs, cfgBad, freeCtr
      power := { s.power with
        heat4 := heatAfter s, credit10 := creditAfter s, galeUs := if galeTime s then s.power.galeUs + 1 else s.power.galeUs
        tempQ := hottest s tel.sensors, lastPower := some tel.power, sensors := tel.sensors, islands := tel.islands
        eff := effSlewed s, firstNow := false, gated, waking, debt, shed, pacing, vset, vinReq, avsVolt, avsFrame
        islandRep } } ∧
      (s.power.vset - 5 ≤ vset ∧ vset ≤ s.power.vset + 5 ∧ (s.power.fixedVin = none → vset ≤ s.power.vset)) ∧
      (avsBusy s.power (s.osc + 1000) = true → avsFrame = s.power.avsFrame) ∧
      (s.power.fixedVin = none → avsBusy s.power (s.osc + 1000) = false → s.power.avsVolt ≠ some vinReq →
        avsFrame = some { write := true, code := 0, data := vinReq, since := s.osc + 1000 } ∧ avsVolt = some vinReq) := by
  obtain ⟨_, _, _, _, _, _, _, _, vinReq, moved, bounds⟩ := supplied_slewed s tel
  obtain ⟨_, _, _, _, told⟩ := reported_eq (supplied (slewed s tel))
  obtain ⟨avsVolt, avsFrame, frame, keeps, asks⟩ := avsNext_eq (supplied (slewed s tel)).power
    (supplied (slewed s tel)).osc (draw (supplied (slewed s tel)) 2).1
  rw [governor_eq, told, frame]
  rw [moved] at keeps asks ⊢
  exact ⟨_, _, _, _, _, _, _, _, _, vinReq, avsVolt, avsFrame, _, rfl, bounds,
    fun busy => keeps ((avsBusy_congr rfl _).trans busy),
    fun open' idle new => asks open' ((avsBusy_congr rfl _).trans idle) new⟩

theorem exec_controlPeriod (acts : live s = true) (tel : Telemetry) : exec (.controlPeriod tel) s = .next (governor tel s) := by
  rw [live, Bool.and_eq_true, Bool.and_eq_true, Bool.not_eq_true', Bool.not_eq_true'] at acts
  obtain ⟨⟨por, warm⟩, -⟩ := acts
  show Host.Outcome.next (if s.boot.por = true then s else if s.boot.warm = true then { s with osc := s.osc + 1000 } else
    governor tel s) = _
  rw [por, warm]
  rfl

/-- Settles O48: the control period by its stages, every other command by what it leaves. -/
theorem powerInTime : Obligations.PowerInTime := by
  unfold Obligations.PowerInTime
  intro s canon acts
  refine ⟨fun tel => ?_, fun a => ?_, fun mv open' => ?_, fun mv unseen => ?_, fun i open' awake may => ?_,
    fun i low high on idle awake => ?_, fun i waking retained => ?_⟩
  · intro p heat' credit' target ramp delta temp cond
    obtain ⟨power, shownTemp⟩ := governor_shown (tel := tel) canon
    obtain ⟨up, down⟩ := effSlewed_moves s
    have request : regGet (governor tel s) 0xB00010 = regGet (fellBack s tel) 0xB00010 := governor_reg (by decide)
    have reason : regGet (governor tel s) 0xB00030 = regGet (fellBack s tel) 0xB00030 := governor_reg (by decide)
    have event : regGet (governor tel s) 0xC00040 = regGet (fellBack s tel) 0xC00040 := governor_reg (by decide)
    have shows : (governor tel s).power.islandRep = (List.range (governor tel s).par.islands).map fun i =>
        (islandVset (governor tel s) i, islandWord (governor tel s) i) := by
      rw [governor_eq]
      exact reportIslands_shows _
    obtain ⟨_, _, _, _, _, _, _, _, vset, vinReq, avsVolt, avsFrame, islandRep, left, ⟨floor, top, fixed⟩, busy, asks⟩ :=
      governor_left s tel
    refine ⟨_, exec_controlPeriod acts tel, ?_⟩
    refine ⟨by rw [left], by rw [left]; rfl, by rw [left]; rfl, by rw [left], hottest_valid s, by rw [left], by rw [left],
      by rw [left], by rw [left]; exact up, by rw [left]; exact down, by rw [left]; exact floor, by rw [left]; exact top,
      by rw [left]; exact fixed, fun gale i ends => ?_, fun quiet => ?_, power, shownTemp,
      by rw [shows, show (governor tel s).par = s.par by rw [left]], by rw [left]; exact busy, by rw [left]; exact asks,
      by rw [left], by rw [left]⟩
    · have effect := fellBack_ends canon acts gale (tel := tel) ends
      rwa [← modeReq_congr request, ← reason, ← event] at effect
    · rw [request, reason]
      exact ⟨fellBack_stays quiet (by decide), fellBack_stays quiet (by decide)⟩
  · obtain ⟨power, cools⟩ := alert_effects canon acts a
    exact ⟨_, exec_thermAlertN acts a, power, cools⟩
  · by_cases raises : vinRaises s mv
    · refine ⟨_, (exec_vinReady acts open' mv).1 raises, ?_⟩
      rw [(ptmSync_onlyRegs _).power]
      exact ⟨rfl, rfl, rfl, (if_pos raises).symm⟩
    · exact ⟨_, (exec_vinReady acts open' mv).2 raises, rfl, rfl, rfl, (if_neg raises).symm⟩
  · exact ⟨_, exec_fixedVin acts unseen mv, rfl, ceiling_fixed rfl⟩
  · obtain ⟨rest, kept⟩ := gateLoss_keeps { s with power := { s.power with gated := setInsert s.power.gated i } } i
    exact ⟨_, exec_islandGate acts open' awake may, congrArg (·.power.gated) rest,
      congrArg (fun u : State => { u with power := s.power }) rest, kept⟩
  · exact ⟨_, exec_retention acts low high on idle awake, mem_setInsert.2 (.inl rfl), rfl⟩
  · exact ⟨_, exec_islandWake acts i, waking.not_mem_erase, retained.not_mem_erase, rfl, rfl⟩

end Sys2Proof.Machine
end
